-- ==== Sys2Proof/Word.lean ====
section
/-! DEFINITION. Words, bytes and the names of threads, teams and dies (R9, R30): the vocabulary every other file uses. -/

namespace Sys2Proof

/-- One byte (R9). -/
abbrev Byte := BitVec 8

/-- One 32-bit word: a general register, an instruction word, a register of a page (R9, R93). -/
abbrev Word := BitVec 32

/-- One 64-bit value: a register pair, a slice register, a 64-bit register of a page. -/
abbrev Dword := BitVec 64

/-- A 52-bit virtual byte address (R93, R239). -/
abbrev Addr := BitVec 52

/-- A grid: its context number and its sr.grid (R30, R44). -/
structure GridId where
  ctx  : Nat
  grid : Nat
  deriving DecidableEq, Repr

/-- A team of a grid, by sr.team (R30). -/
structure TeamId where
  ctx  : Nat
  grid : Nat
  team : Nat
  deriving DecidableEq, Repr

/-- A thread of a team, by sr.rank (R30). -/
structure ThreadId where
  ctx  : Nat
  grid : Nat
  team : Nat
  rank : Nat
  deriving DecidableEq, Repr

/-- The team of a thread. -/
def ThreadId.teamId (t : ThreadId) : TeamId := ⟨t.ctx, t.grid, t.team⟩

/-- The grid of a team. -/
def TeamId.gridId (t : TeamId) : GridId := ⟨t.ctx, t.grid⟩

/-- The grid of a thread. -/
def ThreadId.gridId (t : ThreadId) : GridId := ⟨t.ctx, t.grid⟩

/-- The order (context number, sr.grid, sr.team, sr.rank) of R42 and R249. -/
def ThreadId.before (a b : ThreadId) : Bool :=
  if a.ctx ≠ b.ctx then decide (a.ctx < b.ctx)
  else if a.grid ≠ b.grid then decide (a.grid < b.grid)
  else if a.team ≠ b.team then decide (a.team < b.team)
  else decide (a.rank < b.rank)

end Sys2Proof
end

