-- ==== Sys2Proof/Machine/Bits.lean ====
section
/-! DEFINITION. Bit fields, sign extension, byte order and integer square root: the helpers of R114 and R9 on natural numbers. -/

namespace Sys2Proof
namespace Machine

/-- The field of `n` bits of `x` at bit `lo`. -/
def bits (x lo n : Nat) : Nat := x / 2 ^ lo % 2 ^ n

/-- Bit `k` of `x`. -/
def bitAt (x k : Nat) : Bool := x / 2 ^ k % 2 == 1

/-- The n-bit value x read as two's complement (R114). -/
def sext (x n : Nat) : Int :=
  if bitAt x (n - 1) && decide (n ≠ 0) then ((x % 2 ^ n : Nat) : Int) - (2 ^ n : Nat) else ((x % 2 ^ n : Nat) : Int)

/-- An integer reduced modulo 2^w. -/
def wrap (x : Int) (w : Nat) : Nat := (x % ((2 ^ w : Nat) : Int)).toNat

/-- clamp of R114. -/
def clampI (x lo hi : Int) : Int := min (max x lo) hi

/-- 32-bit x rotated left by n (R114). -/
def rotl32 (x n : Nat) : Nat := (x * 2 ^ n + x / 2 ^ (32 - n)) % 2 ^ 32

/-- The little-endian bytes of x, n of them (R9). -/
def leBytes : Nat → Nat → List Byte
  | 0, _ => []
  | n + 1, x => BitVec.ofNat 8 x :: leBytes n (x / 256)

/-- The value of little-endian bytes (R9). -/
def leVal : List Byte → Nat
  | [] => 0
  | b :: bs => b.toNat + 256 * leVal bs

/-- Byte i of x. -/
def byteOf (x i : Nat) : Nat := x / 256 ^ i % 256

/-- Little-endian halves: a 64-bit value as the two words of a pair (R65). -/
def pairWords (x : Nat) : List Nat := [x % 2 ^ 32, x / 2 ^ 32 % 2 ^ 32]

/-- The four words of a 128-bit value, lowest first (R111). -/
def quadWords (x : Nat) : List Nat := [bits x 0 32, bits x 32 32, bits x 64 32, bits x 96 32]

/-- The words of a value, n of them, lowest first. -/
def wordsOf : Nat → Nat → List Nat
  | 0, _ => []
  | n + 1, x => x % 2 ^ 32 :: wordsOf n (x / 2 ^ 32)

/-- The value of words, lowest first. -/
def valOfWords : List Nat → Nat
  | [] => 0
  | w :: ws => w % 2 ^ 32 + 2 ^ 32 * valOfWords ws

/-- The number of 1 bits among the low n bits of x. -/
def popcount : Nat → Nat → Nat
  | 0, _ => 0
  | n + 1, x => x % 2 + popcount n (x / 2)

/-- Bit reversal of the low n bits of x. -/
def bitrev : Nat → Nat → Nat
  | 0, _ => 0
  | n + 1, x => x % 2 * 2 ^ n + bitrev n (x / 2)

/-- The number of 0 bits below the lowest 1 bit among n bits; n when there is none. -/
def ctz : Nat → Nat → Nat
  | 0, _ => 0
  | n + 1, x => if x % 2 = 1 then 0 else 1 + ctz n (x / 2)

/-- The number of 0 bits above the highest 1 bit of an n-bit x. -/
def clz (n x : Nat) : Nat := if x = 0 then n else n - 1 - Nat.log2 x

/-- One bit of the integer square root, from bit k down. -/
def isqrtFrom (x : Nat) : Nat → Nat → Nat
  | 0, r => if r + 1 ≤ x ∧ (r + 1) * (r + 1) ≤ x then r + 1 else r
  | k + 1, r => let t := r + 2 ^ (k + 1)
    isqrtFrom x k (if t * t ≤ x then t else r)

/-- floor of the square root. -/
def isqrt (x : Nat) : Nat := if x = 0 then 0 else isqrtFrom x (Nat.log2 x / 2 + 1) 0

/-- x rounded up to a multiple of n. -/
def roundUp (x n : Nat) : Nat := (x + n - 1) / n * n

/-- ceil of a quotient. -/
def ceilDiv (x n : Nat) : Nat := (x + n - 1) / n

/-- The element of a list at i, or a default. -/
def nth {α : Type} (l : List α) (i : Nat) (d : α) : α := l.getD i d

/-- The positions of the 1 bits of x among n bits, ascending, offset by k. -/
def onesFrom : Nat → Nat → Nat → List Nat
  | 0, _, _ => []
  | n + 1, k, x => if x % 2 = 1 then k :: onesFrom n (k + 1) (x / 2) else onesFrom n (k + 1) (x / 2)

/-- Insertion sort by a total order, stable: the model's sorting, which evaluates by structural recursion. -/
def insertBy {α : Type} (lt : α → α → Bool) (x : α) : List α → List α
  | [] => [x]
  | y :: ys => if lt x y then x :: y :: ys else y :: insertBy lt x ys

/-- Stable sort by insertion. -/
def sortBy {α : Type} (lt : α → α → Bool) : List α → List α
  | [] => []
  | x :: xs => insertByFront lt x (sortBy lt xs)
where
  /-- Inserts an earlier element before its equals, which keeps the sort stable. -/
  insertByFront {α : Type} (lt : α → α → Bool) (x : α) : List α → List α
    | [] => [x]
    | y :: ys => if lt y x then y :: insertByFront lt x ys else x :: y :: ys

/-- The least element by an order. -/
def leastBy {α : Type} (lt : α → α → Bool) : List α → Option α
  | [] => none
  | x :: xs => match leastBy lt xs with
    | none => some x
    | some y => if lt y x then some y else some x

end Machine
end Sys2Proof
end

