-- ==== Sys2Proof/Syntax.lean ====
section
/-! DEFINITION. The instruction set: one constructor for each row of the opcode table (R95 to R111,
R374, and the events that 95_what_each_step_holds names). A word row carries the fields of its encoding under the names of
the table; a one-bit field is a Bool. An event row is a step of one of the device's own agents; which of the enabled occurrences
happens, which the spec leaves to timing, is named by State.pick. The rows without fields stand last. -/

namespace Sys2Proof

/-- One step of the part: an instruction word or an event of one of its agents. -/
inductive Instr where
  /-- ADD_I_32 (R145): Adds two 32-bit registers as signed values, saturating under a MOD SAT hint. -/
  | addI32 (d : Nat) (a : Nat) (l : Bool) (b : Nat) (m : Bool)
  /-- ADD_N_32 (R145): Adds two 32-bit registers as unsigned values, saturating under a MOD SAT hint. -/
  | addN32 (d : Nat) (a : Nat) (l : Bool) (b : Nat) (m : Bool)
  /-- SUB_I_32 (R145): Subtracts two 32-bit registers as signed values. -/
  | subI32 (d : Nat) (a : Nat) (l : Bool) (b : Nat) (m : Bool)
  /-- SUB_N_32 (R145): Subtracts two 32-bit registers as unsigned values. -/
  | subN32 (d : Nat) (a : Nat) (l : Bool) (b : Nat) (m : Bool)
  /-- MULLO_32 (R146): Writes the low 32 bits of a product. -/
  | mullo32 (d : Nat) (a : Nat) (l : Bool) (b : Nat) (m : Bool)
  /-- MULHI_I_32 (R146): Writes the high 32 bits of a signed product. -/
  | mulhiI32 (d : Nat) (a : Nat) (l : Bool) (b : Nat) (m : Bool)
  /-- MULHI_N_32 (R146): Writes the high 32 bits of an unsigned product. -/
  | mulhiN32 (d : Nat) (a : Nat) (l : Bool) (b : Nat) (m : Bool)
  /-- DIV_I_32 (R147): Divides signed 32-bit values, truncating, with defined results for a zero divisor. -/
  | divI32 (d : Nat) (a : Nat) (l : Bool) (b : Nat) (m : Bool)
  /-- DIV_N_32 (R147): Divides unsigned 32-bit values, with defined results for a zero divisor. -/
  | divN32 (d : Nat) (a : Nat) (l : Bool) (b : Nat) (m : Bool)
  /-- REM_I_32 (R147): Writes the signed 32-bit remainder. -/
  | remI32 (d : Nat) (a : Nat) (l : Bool) (b : Nat) (m : Bool)
  /-- REM_N_32 (R147): Writes the unsigned 32-bit remainder. -/
  | remN32 (d : Nat) (a : Nat) (l : Bool) (b : Nat) (m : Bool)
  /-- MIN_I_32 (R148): Writes the signed minimum. -/
  | minI32 (d : Nat) (a : Nat) (l : Bool) (b : Nat) (m : Bool)
  /-- MIN_N_32 (R148): Writes the unsigned minimum. -/
  | minN32 (d : Nat) (a : Nat) (l : Bool) (b : Nat) (m : Bool)
  /-- MAX_I_32 (R148): Writes the signed maximum. -/
  | maxI32 (d : Nat) (a : Nat) (l : Bool) (b : Nat) (m : Bool)
  /-- MAX_N_32 (R148): Writes the unsigned maximum. -/
  | maxN32 (d : Nat) (a : Nat) (l : Bool) (b : Nat) (m : Bool)
  /-- ABS_32 (R148): Writes the absolute value of a signed 32-bit register. -/
  | abs32 (d : Nat) (a : Nat) (l : Bool)
  /-- NEG_32 (R148): Writes the negation of a 32-bit register. -/
  | neg32 (d : Nat) (a : Nat) (l : Bool)
  /-- AND_32 (R148): Writes the bitwise AND of two registers. -/
  | and32 (d : Nat) (a : Nat) (l : Bool) (b : Nat) (m : Bool)
  /-- OR_32 (R148): Writes the bitwise OR of two registers. -/
  | or32 (d : Nat) (a : Nat) (l : Bool) (b : Nat) (m : Bool)
  /-- XOR_32 (R148): Writes the bitwise exclusive OR of two registers. -/
  | xor32 (d : Nat) (a : Nat) (l : Bool) (b : Nat) (m : Bool)
  /-- ANDN_32 (R148): Writes A AND NOT B. -/
  | andn32 (d : Nat) (a : Nat) (l : Bool) (b : Nat) (m : Bool)
  /-- NOT_32 (R148): Writes the bitwise complement. -/
  | not32 (d : Nat) (a : Nat) (l : Bool)
  /-- SHL_32 (R151): Shifts left by the low byte of B. -/
  | shl32 (d : Nat) (a : Nat) (l : Bool) (b : Nat) (m : Bool)
  /-- SHR_32 (R151): Shifts right logically by the low byte of B. -/
  | shr32 (d : Nat) (a : Nat) (l : Bool) (b : Nat) (m : Bool)
  /-- SHRA_32 (R151): Shifts right arithmetically by the low byte of B. -/
  | shra32 (d : Nat) (a : Nat) (l : Bool) (b : Nat) (m : Bool)
  /-- ROT_32 (R151): Rotates left by B modulo 32. -/
  | rot32 (d : Nat) (a : Nat) (l : Bool) (b : Nat) (m : Bool)
  /-- POPC_32 (R148): Counts the 1 bits of a register. -/
  | popc32 (d : Nat) (a : Nat) (l : Bool)
  /-- CLZ_32 (R148): Counts leading zero bits. -/
  | clz32 (d : Nat) (a : Nat) (l : Bool)
  /-- CTZ_32 (R148): Counts trailing zero bits. -/
  | ctz32 (d : Nat) (a : Nat) (l : Bool)
  /-- BREV_32 (R148): Reverses the bit order of a register. -/
  | brev32 (d : Nat) (a : Nat) (l : Bool)
  /-- PERMB (R149): Builds each result byte from a selector nibble of B. -/
  | permb (d : Nat) (a : Nat) (l : Bool) (b : Nat) (m : Bool)
  /-- MOV_32 (R148): Copies a register. -/
  | mov32 (d : Nat) (a : Nat) (l : Bool)
  /-- BFX_I_32 (R153): Extracts a sign-extended bit field under a control word. -/
  | bfxI32 (d : Nat) (a : Nat) (l : Bool) (b : Nat) (m : Bool)
  /-- BFX_N_32 (R153): Extracts a zero-extended bit field under a control word. -/
  | bfxN32 (d : Nat) (a : Nat) (l : Bool) (b : Nat) (m : Bool)
  /-- ADD_I_64 (R145): Adds two register pairs as signed 64-bit values. -/
  | addI64 (d : Nat) (a : Nat) (l : Bool) (b : Nat) (m : Bool)
  /-- ADD_N_64 (R145): Adds two register pairs as unsigned 64-bit values. -/
  | addN64 (d : Nat) (a : Nat) (l : Bool) (b : Nat) (m : Bool)
  /-- SUB_I_64 (R145): Subtracts register pairs as signed 64-bit values. -/
  | subI64 (d : Nat) (a : Nat) (l : Bool) (b : Nat) (m : Bool)
  /-- SUB_N_64 (R145): Subtracts register pairs as unsigned 64-bit values. -/
  | subN64 (d : Nat) (a : Nat) (l : Bool) (b : Nat) (m : Bool)
  /-- MULLO_64 (R146): Writes the low 64 bits of a product. -/
  | mullo64 (d : Nat) (a : Nat) (l : Bool) (b : Nat) (m : Bool)
  /-- MULHI_I_64 (R146): Writes the high 64 bits of a signed product. -/
  | mulhiI64 (d : Nat) (a : Nat) (l : Bool) (b : Nat) (m : Bool)
  /-- MULHI_N_64 (R146): Writes the high 64 bits of an unsigned product. -/
  | mulhiN64 (d : Nat) (a : Nat) (l : Bool) (b : Nat) (m : Bool)
  /-- DIV_I_64 (R147): Divides signed 64-bit values. -/
  | divI64 (d : Nat) (a : Nat) (l : Bool) (b : Nat) (m : Bool)
  /-- DIV_N_64 (R147): Divides unsigned 64-bit values. -/
  | divN64 (d : Nat) (a : Nat) (l : Bool) (b : Nat) (m : Bool)
  /-- REM_I_64 (R147): Writes the signed 64-bit remainder. -/
  | remI64 (d : Nat) (a : Nat) (l : Bool) (b : Nat) (m : Bool)
  /-- REM_N_64 (R147): Writes the unsigned 64-bit remainder. -/
  | remN64 (d : Nat) (a : Nat) (l : Bool) (b : Nat) (m : Bool)
  /-- MIN_I_64 (R148): Writes the signed 64-bit minimum. -/
  | minI64 (d : Nat) (a : Nat) (l : Bool) (b : Nat) (m : Bool)
  /-- MIN_N_64 (R148): Writes the unsigned 64-bit minimum. -/
  | minN64 (d : Nat) (a : Nat) (l : Bool) (b : Nat) (m : Bool)
  /-- MAX_I_64 (R148): Writes the signed 64-bit maximum. -/
  | maxI64 (d : Nat) (a : Nat) (l : Bool) (b : Nat) (m : Bool)
  /-- MAX_N_64 (R148): Writes the unsigned 64-bit maximum. -/
  | maxN64 (d : Nat) (a : Nat) (l : Bool) (b : Nat) (m : Bool)
  /-- ABS_64 (R148): Writes the absolute value of a 64-bit pair. -/
  | abs64 (d : Nat) (a : Nat) (l : Bool)
  /-- NEG_64 (R148): Writes the negation of a 64-bit pair. -/
  | neg64 (d : Nat) (a : Nat) (l : Bool)
  /-- AND_64 (R148): Writes the bitwise AND of two pairs. -/
  | and64 (d : Nat) (a : Nat) (l : Bool) (b : Nat) (m : Bool)
  /-- OR_64 (R148): Writes the bitwise OR of two pairs. -/
  | or64 (d : Nat) (a : Nat) (l : Bool) (b : Nat) (m : Bool)
  /-- XOR_64 (R148): Writes the bitwise exclusive OR of two pairs. -/
  | xor64 (d : Nat) (a : Nat) (l : Bool) (b : Nat) (m : Bool)
  /-- ANDN_64 (R148): Writes A AND NOT B on pairs. -/
  | andn64 (d : Nat) (a : Nat) (l : Bool) (b : Nat) (m : Bool)
  /-- NOT_64 (R148): Writes the complement of a pair. -/
  | not64 (d : Nat) (a : Nat) (l : Bool)
  /-- SHL_64 (R151): Shifts a pair left by the low byte of B. -/
  | shl64 (d : Nat) (a : Nat) (l : Bool) (b : Nat) (m : Bool)
  /-- SHR_64 (R151): Shifts a pair right logically. -/
  | shr64 (d : Nat) (a : Nat) (l : Bool) (b : Nat) (m : Bool)
  /-- SHRA_64 (R151): Shifts a pair right arithmetically. -/
  | shra64 (d : Nat) (a : Nat) (l : Bool) (b : Nat) (m : Bool)
  /-- ROT_64 (R151): Rotates a pair left by B modulo 64. -/
  | rot64 (d : Nat) (a : Nat) (l : Bool) (b : Nat) (m : Bool)
  /-- POPC_64 (R148): Counts the 1 bits of a pair into one register. -/
  | popc64 (d : Nat) (a : Nat) (l : Bool)
  /-- CLZ_64 (R148): Counts leading zeros of a pair into one register. -/
  | clz64 (d : Nat) (a : Nat) (l : Bool)
  /-- CTZ_64 (R148): Counts trailing zeros of a pair into one register. -/
  | ctz64 (d : Nat) (a : Nat) (l : Bool)
  /-- BREV_64 (R148): Reverses the bits of a pair. -/
  | brev64 (d : Nat) (a : Nat) (l : Bool)
  /-- MOV_64 (R148): Copies a pair. -/
  | mov64 (d : Nat) (a : Nat) (l : Bool)
  /-- BFX_I_64 (R153): Extracts a sign-extended bit field of a pair. -/
  | bfxI64 (d : Nat) (a : Nat) (l : Bool) (b : Nat) (m : Bool)
  /-- BFX_N_64 (R153): Extracts a zero-extended bit field of a pair. -/
  | bfxN64 (d : Nat) (a : Nat) (l : Bool) (b : Nat) (m : Bool)
  /-- ADDC (R150): Adds with carry in and out through a predicate. -/
  | addc (d : Nat) (a : Nat) (l : Bool) (b : Nat) (m : Bool) (p : Nat)
  /-- SUBB (R150): Subtracts with borrow in and out through a predicate. -/
  | subb (d : Nat) (a : Nat) (l : Bool) (b : Nat) (m : Bool) (p : Nat)
  /-- SEL (R150): Writes A when a predicate is true and B otherwise. -/
  | sel (d : Nat) (a : Nat) (l : Bool) (b : Nat) (m : Bool) (p : Nat)
  /-- LEA (R156): Forms a 64-bit address from a base pair and a scaled, extended index. -/
  | lea (d : Nat) (a : Nat) (l : Bool) (b : Nat) (m : Bool) (x : Bool) (s : Nat)
  /-- BFI (R153): Inserts a bit field of B into A under a control word in C. -/
  | bfi (d : Nat) (a : Nat) (l : Bool) (b : Nat) (m : Bool) (c : Nat)
  /-- MAD_32 (R146): Writes A times B plus C modulo 2^32. -/
  | mad32 (d : Nat) (a : Nat) (l : Bool) (b : Nat) (m : Bool) (c : Nat)
  /-- MAD_64 (R146): Writes A times B plus C modulo 2^64 on pairs. -/
  | mad64 (d : Nat) (a : Nat) (l : Bool) (b : Nat) (m : Bool) (c : Nat)
  /-- ADD_I32_IMM (R155): Adds a sign-extended immediate to a 32-bit register. -/
  | addI32Imm (d : Nat) (a : Nat) (l : Bool) (i : Nat)
  /-- AND_IMM (R155): ANDs a register with an immediate. -/
  | andImm (d : Nat) (a : Nat) (l : Bool) (i : Nat)
  /-- OR_IMM (R155): ORs a register with an immediate. -/
  | orImm (d : Nat) (a : Nat) (l : Bool) (i : Nat)
  /-- XOR_IMM (R155): Exclusive-ORs a register with an immediate. -/
  | xorImm (d : Nat) (a : Nat) (l : Bool) (i : Nat)
  /-- SHL_IMM (R152): Shifts left by an immediate count, 32- or 64-bit. -/
  | shlImm (d : Nat) (a : Nat) (l : Bool) (w : Bool) (n : Nat)
  /-- SHR_IMM (R152): Shifts right logically by an immediate count. -/
  | shrImm (d : Nat) (a : Nat) (l : Bool) (w : Bool) (n : Nat)
  /-- SHRA_IMM (R152): Shifts right arithmetically by an immediate count. -/
  | shraImm (d : Nat) (a : Nat) (l : Bool) (w : Bool) (n : Nat)
  /-- ROT_IMM (R152): Rotates left by an immediate count. -/
  | rotImm (d : Nat) (a : Nat) (l : Bool) (w : Bool) (n : Nat)
  /-- MOVI (R154): Writes an immediate, extended to 32 bits by an IMM hint. -/
  | movi (d : Nat) (i : Nat)
  /-- ADD_I64_IMM (R155): Adds a sign-extended immediate to a register pair. -/
  | addI64Imm (d : Nat) (a : Nat) (l : Bool) (i : Nat)
  /-- FADD_F32 (R169): Adds binary32 values with one rounding. -/
  | faddF32 (d : Nat) (a : Nat) (l : Bool) (b : Nat) (m : Bool)
  /-- FSUB_F32 (R169): Subtracts binary32 values with one rounding. -/
  | fsubF32 (d : Nat) (a : Nat) (l : Bool) (b : Nat) (m : Bool)
  /-- FMUL_F32 (R169): Multiplies binary32 values with one rounding. -/
  | fmulF32 (d : Nat) (a : Nat) (l : Bool) (b : Nat) (m : Bool)
  /-- FMIN_F32 (R171): Writes the binary32 minimumNumber. -/
  | fminF32 (d : Nat) (a : Nat) (l : Bool) (b : Nat) (m : Bool)
  /-- FMAX_F32 (R171): Writes the binary32 maximumNumber. -/
  | fmaxF32 (d : Nat) (a : Nat) (l : Bool) (b : Nat) (m : Bool)
  /-- FDIV_F32 (R169): Divides binary32 values with one rounding. -/
  | fdivF32 (d : Nat) (a : Nat) (l : Bool) (b : Nat) (m : Bool)
  /-- FSQRT_F32 (R176): Writes the correctly rounded binary32 square root. -/
  | fsqrtF32 (d : Nat) (a : Nat) (l : Bool)
  /-- FRCP_F32 (R176): Writes the correctly rounded binary32 reciprocal. -/
  | frcpF32 (d : Nat) (a : Nat) (l : Bool)
  /-- FRSQ_F32 (R176): Writes the correctly rounded binary32 reciprocal square root. -/
  | frsqF32 (d : Nat) (a : Nat) (l : Bool)
  /-- FEXP2_F32 (R176): Writes the correctly rounded binary32 power of two. -/
  | fexp2F32 (d : Nat) (a : Nat) (l : Bool)
  /-- FLOG2_F32 (R176): Writes the correctly rounded binary32 base-2 logarithm. -/
  | flog2F32 (d : Nat) (a : Nat) (l : Bool)
  /-- FSIN_F32 (R176): Writes the correctly rounded binary32 sine. -/
  | fsinF32 (d : Nat) (a : Nat) (l : Bool)
  /-- FCOS_F32 (R176): Writes the correctly rounded binary32 cosine. -/
  | fcosF32 (d : Nat) (a : Nat) (l : Bool)
  /-- FABS_F32 (R172): Clears the sign bit of a binary32 value. -/
  | fabsF32 (d : Nat) (a : Nat) (l : Bool)
  /-- FNEG_F32 (R172): Inverts the sign bit of a binary32 value. -/
  | fnegF32 (d : Nat) (a : Nat) (l : Bool)
  /-- FCLASS_F32 (R172): Writes a one-hot class mask of a binary32 value. -/
  | fclassF32 (d : Nat) (a : Nat) (l : Bool)
  /-- FSCALE_F32 (R173): Multiplies a binary32 value by 2^n with one rounding. -/
  | fscaleF32 (d : Nat) (a : Nat) (l : Bool) (b : Nat) (m : Bool)
  /-- FRINT_F32 (R174): Rounds a binary32 value to an integral value. -/
  | frintF32 (d : Nat) (a : Nat) (l : Bool)
  /-- FADD_F64 (R169): Adds binary64 values with one rounding. -/
  | faddF64 (d : Nat) (a : Nat) (l : Bool) (b : Nat) (m : Bool)
  /-- FSUB_F64 (R169): Subtracts binary64 values with one rounding. -/
  | fsubF64 (d : Nat) (a : Nat) (l : Bool) (b : Nat) (m : Bool)
  /-- FMUL_F64 (R169): Multiplies binary64 values with one rounding. -/
  | fmulF64 (d : Nat) (a : Nat) (l : Bool) (b : Nat) (m : Bool)
  /-- FMIN_F64 (R171): Writes the binary64 minimumNumber. -/
  | fminF64 (d : Nat) (a : Nat) (l : Bool) (b : Nat) (m : Bool)
  /-- FMAX_F64 (R171): Writes the binary64 maximumNumber. -/
  | fmaxF64 (d : Nat) (a : Nat) (l : Bool) (b : Nat) (m : Bool)
  /-- FDIV_F64 (R169): Divides binary64 values with one rounding. -/
  | fdivF64 (d : Nat) (a : Nat) (l : Bool) (b : Nat) (m : Bool)
  /-- FSQRT_F64 (R176): Writes the correctly rounded binary64 square root. -/
  | fsqrtF64 (d : Nat) (a : Nat) (l : Bool)
  /-- FRCP_F64 (R176): Writes the correctly rounded binary64 reciprocal. -/
  | frcpF64 (d : Nat) (a : Nat) (l : Bool)
  /-- FRSQ_F64 (R176): Writes the correctly rounded binary64 reciprocal square root. -/
  | frsqF64 (d : Nat) (a : Nat) (l : Bool)
  /-- FEXP2_F64 (R176): Writes the correctly rounded binary64 power of two. -/
  | fexp2F64 (d : Nat) (a : Nat) (l : Bool)
  /-- FLOG2_F64 (R176): Writes the correctly rounded binary64 base-2 logarithm. -/
  | flog2F64 (d : Nat) (a : Nat) (l : Bool)
  /-- FSIN_F64 (R176): Writes the correctly rounded binary64 sine. -/
  | fsinF64 (d : Nat) (a : Nat) (l : Bool)
  /-- FCOS_F64 (R176): Writes the correctly rounded binary64 cosine. -/
  | fcosF64 (d : Nat) (a : Nat) (l : Bool)
  /-- FABS_F64 (R172): Clears the sign bit of a binary64 value. -/
  | fabsF64 (d : Nat) (a : Nat) (l : Bool)
  /-- FNEG_F64 (R172): Inverts the sign bit of a binary64 value. -/
  | fnegF64 (d : Nat) (a : Nat) (l : Bool)
  /-- FCLASS_F64 (R172): Writes a class mask of a binary64 value to one register. -/
  | fclassF64 (d : Nat) (a : Nat) (l : Bool)
  /-- FSCALE_F64 (R173): Multiplies a binary64 value by 2^n with one rounding. -/
  | fscaleF64 (d : Nat) (a : Nat) (l : Bool) (b : Nat) (m : Bool)
  /-- FRINT_F64 (R174): Rounds a binary64 value to an integral value. -/
  | frintF64 (d : Nat) (a : Nat) (l : Bool)
  /-- FADD_F16 (R169): Adds binary16 values with one rounding. -/
  | faddF16 (d : Nat) (a : Nat) (l : Bool) (b : Nat) (m : Bool)
  /-- FSUB_F16 (R169): Subtracts binary16 values with one rounding. -/
  | fsubF16 (d : Nat) (a : Nat) (l : Bool) (b : Nat) (m : Bool)
  /-- FMUL_F16 (R169): Multiplies binary16 values with one rounding. -/
  | fmulF16 (d : Nat) (a : Nat) (l : Bool) (b : Nat) (m : Bool)
  /-- FMIN_F16 (R171): Writes the binary16 minimumNumber. -/
  | fminF16 (d : Nat) (a : Nat) (l : Bool) (b : Nat) (m : Bool)
  /-- FMAX_F16 (R171): Writes the binary16 maximumNumber. -/
  | fmaxF16 (d : Nat) (a : Nat) (l : Bool) (b : Nat) (m : Bool)
  /-- FABS_F16 (R172): Clears the sign bit of a binary16 value. -/
  | fabsF16 (d : Nat) (a : Nat) (l : Bool)
  /-- FNEG_F16 (R172): Inverts the sign bit of a binary16 value. -/
  | fnegF16 (d : Nat) (a : Nat) (l : Bool)
  /-- FCLASS_F16 (R172): Writes a class mask of a binary16 value. -/
  | fclassF16 (d : Nat) (a : Nat) (l : Bool)
  /-- FSCALE_F16 (R173): Multiplies a binary16 value by 2^n with one rounding. -/
  | fscaleF16 (d : Nat) (a : Nat) (l : Bool) (b : Nat) (m : Bool)
  /-- FRINT_F16 (R174): Rounds a binary16 value to an integral value. -/
  | frintF16 (d : Nat) (a : Nat) (l : Bool)
  /-- FADD_BF16 (R169): Adds BF16 values with one rounding. -/
  | faddBf16 (d : Nat) (a : Nat) (l : Bool) (b : Nat) (m : Bool)
  /-- FSUB_BF16 (R169): Subtracts BF16 values with one rounding. -/
  | fsubBf16 (d : Nat) (a : Nat) (l : Bool) (b : Nat) (m : Bool)
  /-- FMUL_BF16 (R169): Multiplies BF16 values with one rounding. -/
  | fmulBf16 (d : Nat) (a : Nat) (l : Bool) (b : Nat) (m : Bool)
  /-- FMIN_BF16 (R171): Writes the BF16 minimumNumber. -/
  | fminBf16 (d : Nat) (a : Nat) (l : Bool) (b : Nat) (m : Bool)
  /-- FMAX_BF16 (R171): Writes the BF16 maximumNumber. -/
  | fmaxBf16 (d : Nat) (a : Nat) (l : Bool) (b : Nat) (m : Bool)
  /-- FABS_BF16 (R172): Clears the sign bit of a BF16 value. -/
  | fabsBf16 (d : Nat) (a : Nat) (l : Bool)
  /-- FNEG_BF16 (R172): Inverts the sign bit of a BF16 value. -/
  | fnegBf16 (d : Nat) (a : Nat) (l : Bool)
  /-- FCLASS_BF16 (R172): Writes a class mask of a BF16 value. -/
  | fclassBf16 (d : Nat) (a : Nat) (l : Bool)
  /-- FSCALE_BF16 (R173): Multiplies a BF16 value by 2^n with one rounding. -/
  | fscaleBf16 (d : Nat) (a : Nat) (l : Bool) (b : Nat) (m : Bool)
  /-- FRINT_BF16 (R174): Rounds a BF16 value to an integral value. -/
  | frintBf16 (d : Nat) (a : Nat) (l : Bool)
  /-- FFMA_F32 (R169): Fused multiply-add on binary32 with one rounding. -/
  | ffmaF32 (d : Nat) (a : Nat) (l : Bool) (b : Nat) (m : Bool) (c : Nat)
  /-- FFMA_F64 (R169): Fused multiply-add on binary64 pairs with one rounding. -/
  | ffmaF64 (d : Nat) (a : Nat) (l : Bool) (b : Nat) (m : Bool) (c : Nat)
  /-- FFMA_F16 (R169): Fused multiply-add on binary16 with one rounding. -/
  | ffmaF16 (d : Nat) (a : Nat) (l : Bool) (b : Nat) (m : Bool) (c : Nat)
  /-- FFMA_BF16 (R169): Fused multiply-add on BF16 with one rounding. -/
  | ffmaBf16 (d : Nat) (a : Nat) (l : Bool) (b : Nat) (m : Bool) (c : Nat)
  /-- CVT (R180): Converts A from the slot's FA format to its FD format under the slot's rounding. -/
  | cvt (d : Nat) (a : Nat) (l : Bool) (b : Nat) (m : Bool) (s : Nat)
  /-- CMP (R157): Compares two operands by condition and type and combines the result into a predicate. -/
  | cmp (p : Nat) (c : Nat) (a : Nat) (l : Bool) (b : Nat) (m : Bool) (o : Nat) (t : Nat)
  /-- PAND (R158): Writes the AND of two predicates. -/
  | pand (p : Nat) (c : Nat) (a : Nat) (b : Nat)
  /-- POR (R158): Writes the OR of two predicates. -/
  | por (p : Nat) (c : Nat) (a : Nat) (b : Nat)
  /-- PXOR (R158): Writes the exclusive OR of two predicates. -/
  | pxor (p : Nat) (c : Nat) (a : Nat) (b : Nat)
  /-- PNOT (R158): Writes the complement of a predicate. -/
  | pnot (p : Nat) (c : Nat) (a : Nat)
  /-- PMOV (R158): Copies a predicate. -/
  | pmov (p : Nat) (c : Nat) (a : Nat)
  /-- BR (R185): Branches to a PC-relative target when its guard passes. -/
  | br (g : Nat) (s : Bool) (o : Nat)
  /-- CALL (R185): Pushes the return PC and branches when its guard passes. -/
  | call (g : Nat) (s : Bool) (o : Nat)
  /-- BRX (R188): Branches to the address held in a register pair. -/
  | brx (a : Nat) (l : Bool)
  /-- CALLX (R188): Pushes the return PC and branches to the address in a register pair. -/
  | callx (a : Nat) (l : Bool)
  /-- WAITK (R192): Blocks until the named outstanding-operation counter holds n or fewer. -/
  | waitk (k : Nat) (n : Nat)
  /-- TRAP (R193): Takes a software trap carrying a 10-bit code. -/
  | trap (c : Nat)
  /-- SOFTI (R194): Writes the wake register of a mapped launch queue or of the Summit core. -/
  | softi (q : Nat)
  /-- CDECL_RANGE (R196): Declares membership of a convergence set by rank range, or withdraws. -/
  | cdeclRange (a : Nat) (l : Bool) (n : Nat)
  /-- CDECL_MASK (R196): Declares membership of a convergence set by 64-bit mask. -/
  | cdeclMask (d : Nat) (a : Nat) (l : Bool) (n : Nat)
  /-- CSIGN (R197): Signs the thread into the current phase of a convergence set. -/
  | csign (n : Nat)
  /-- CWAIT (R200): Blocks while the thread's signed-phase bit of the set is 1. -/
  | cwait (n : Nat)
  /-- XSHF_IDX (R202): Deposits a shuffle that reads the member at an absolute position. -/
  | xshfIdx (d : Nat) (a : Nat) (l : Bool) (b : Nat) (m : Bool) (n : Nat)
  /-- XSHF_UP (R202): Deposits a shuffle that reads the member a given distance below. -/
  | xshfUp (d : Nat) (a : Nat) (l : Bool) (b : Nat) (m : Bool) (n : Nat)
  /-- XSHF_DOWN (R202): Deposits a shuffle that reads the member a given distance above. -/
  | xshfDown (d : Nat) (a : Nat) (l : Bool) (b : Nat) (m : Bool) (n : Nat)
  /-- XSHF_XOR (R202): Deposits a shuffle that reads the member at position XOR b. -/
  | xshfXor (d : Nat) (a : Nat) (l : Bool) (b : Nat) (m : Bool) (n : Nat)
  /-- XBCAST (R204): Deposits a broadcast of the lowest or highest participant's value. -/
  | xbcast (d : Nat) (a : Nat) (l : Bool) (w : Bool) (h : Bool) (n : Nat)
  /-- XRED (R205): Deposits a reduction folded in rank order. -/
  | xred (d : Nat) (a : Nat) (l : Bool) (o : Nat) (n : Nat)
  /-- XSCAN_INC (R205): Deposits an inclusive scan folded in rank order. -/
  | xscanInc (d : Nat) (a : Nat) (l : Bool) (o : Nat) (n : Nat)
  /-- XSCAN_EXC (R205): Deposits an exclusive scan folded in rank order. -/
  | xscanExc (d : Nat) (a : Nat) (l : Bool) (o : Nat) (n : Nat)
  /-- XVOTE (R204): Deposits a vote over the participants' predicates. -/
  | xvote (d : Nat) (a : Nat) (o : Nat) (n : Nat)
  /-- MMA (R225): Deposits a dense tree-order matrix multiply-accumulate into a tile. -/
  | mma (s : Nat) (b : Nat) (l : Bool) (p : Nat) (n : Nat) (t : Nat)
  /-- MMAS (R225): Deposits a sparse-A tree-order matrix multiply-accumulate. -/
  | mmas (s : Nat) (b : Nat) (l : Bool) (p : Nat) (n : Nat) (t : Nat)
  /-- MMAB_XOR (R225): Deposits a binary XOR and population-count matrix product. -/
  | mmabXor (s : Nat) (b : Nat) (l : Bool) (p : Nat) (n : Nat) (t : Nat)
  /-- MMAB_AND (R225): Deposits a binary AND and population-count matrix product. -/
  | mmabAnd (s : Nat) (b : Nat) (l : Bool) (p : Nat) (n : Nat) (t : Nat)
  /-- MMAC (R225): Deposits a chain-order matrix multiply-accumulate. -/
  | mmac (s : Nat) (b : Nat) (l : Bool) (p : Nat) (n : Nat) (t : Nat)
  /-- ACZERO (R231): Puts every element of a tile share into the empty state. -/
  | aczero (t : Nat)
  /-- ACLD (R232): Loads a tile share from element images in scratchpad. -/
  | acld (a : Nat) (l : Bool) (t : Nat)
  /-- ACST (R232): Stores a tile share as element images to scratchpad. -/
  | acst (a : Nat) (l : Bool) (t : Nat)
  /-- ACRES (R233): Resolves one accumulator element to a register under a slot. -/
  | acres (d : Nat) (a : Nat) (l : Bool) (s : Nat) (t : Nat)
  /-- ACCMP (R234): Compares one element of two tiles by value. -/
  | accmp (d : Nat) (a : Nat) (l : Bool) (u : Nat) (t : Nat)
  /-- ACMOV (R231): Copies every element image of one tile share to another. -/
  | acmov (u : Nat) (t : Nat)
  /-- LD_G_B32 (R290): Loads a 32-bit word from the global space. -/
  | ldGB32 (d : Nat) (a : Nat) (l : Bool) (g : Nat) (s : Bool) (o : Nat)
  /-- ST_G_B32 (R290): Stores a 32-bit word to the global space. -/
  | stGB32 (d : Nat) (a : Nat) (l : Bool) (g : Nat) (s : Bool) (o : Nat)
  /-- LD_G_B64 (R290): Loads a 64-bit value from the global space. -/
  | ldGB64 (d : Nat) (a : Nat) (l : Bool) (g : Nat) (s : Bool) (o : Nat)
  /-- ST_G_B64 (R290): Stores a 64-bit value to the global space. -/
  | stGB64 (d : Nat) (a : Nat) (l : Bool) (g : Nat) (s : Bool) (o : Nat)
  /-- LD_S_B32 (R290): Loads a 32-bit word from the team scratchpad. -/
  | ldSB32 (d : Nat) (a : Nat) (l : Bool) (g : Nat) (s : Bool) (o : Nat)
  /-- ST_S_B32 (R290): Stores a 32-bit word to the team scratchpad. -/
  | stSB32 (d : Nat) (a : Nat) (l : Bool) (g : Nat) (s : Bool) (o : Nat)
  /-- LD_GENERAL (R290): Loads any size from any space through major 0x36. -/
  | ldGeneral (d : Nat) (a : Nat) (l : Bool) (s : Bool) (g : Nat) (p : Nat) (z : Nat)
  /-- ST_GENERAL (R290): Stores any permitted size to .g or .s through major 0x36. -/
  | stGeneral (d : Nat) (a : Nat) (l : Bool) (s : Bool) (g : Nat) (p : Nat) (z : Nat)
  /-- ATOM (R294): Performs an indivisible read-modify-write and returns the old value. -/
  | atom (d : Nat) (a : Nat) (l : Bool) (p : Bool) (w : Bool) (o : Nat) (s : Nat)
  /-- ATOMC (R295): Compares and swaps a word, returning the old value. -/
  | atomc (d : Nat) (a : Nat) (l : Bool) (p : Bool) (w : Bool) (s : Nat)
  /-- FENCE (R297): Orders the thread's accesses as a release and acquire at a scope. -/
  | fence (s : Nat)
  /-- WAITA (R298): Parks the thread while the watched word equals the expected value. -/
  | waita (d : Nat) (a : Nat) (l : Bool) (p : Bool) (w : Bool) (s : Nat)
  /-- WAKEA (R300): Releases up to n armed waiters of a granule and returns the count. -/
  | wakea (d : Nat) (a : Nat) (l : Bool) (p : Bool) (s : Nat)
  /-- CFLUSH (R303): Writes back the dirty bytes of an L1 line. -/
  | cflush (a : Nat) (l : Bool)
  /-- CINV (R303): Writes back and invalidates an L1 line. -/
  | cinv (a : Nat) (l : Bool)
  /-- PIN (R304): Makes a line resident at its home slice and pins it, returning a status. -/
  | pin (d : Nat) (a : Nat) (l : Bool)
  /-- UNPIN (R304): Clears a line's pin, returning a status. -/
  | unpin (d : Nat) (a : Nat) (l : Bool)
  /-- TCOPY (R309): Starts an asynchronous strided copy between spaces. -/
  | tcopy (d : Nat) (a : Nat) (l : Bool) (e : Nat) (s : Nat)
  /-- TCAST (R309): Starts a multicast copy into the scratchpads of the cores named by a mask. -/
  | tcast (d : Nat) (a : Nat) (l : Bool) (s : Nat)
  /-- TRED_BF16 (R310): Starts a copy that adds BF16 source elements into the destination. -/
  | tredBf16 (d : Nat) (a : Nat) (l : Bool) (e : Nat) (s : Nat)
  /-- TRED_F32 (R310): Starts a copy that adds binary32 source elements into the destination. -/
  | tredF32 (d : Nat) (a : Nat) (l : Bool) (e : Nat) (s : Nat)
  /-- A_LOOP (R329): Opens a loop level of the access slice. -/
  | aLoop (c : Nat)
  /-- A_ADDR (R329): Sets the stride of an x register at a loop level. -/
  | aAddr (d : Nat) (a : Nat) (i : Nat)
  /-- A_LDQ (R331): Reserves a queue slot and fills it from global memory. -/
  | aLdq (d : Nat) (a : Nat) (s : Nat) (r : Nat)
  /-- A_LDWQ (R331): Reserves a queue slot and fills it from the weight store. -/
  | aLdwq (d : Nat) (a : Nat) (s : Nat) (r : Nat)
  /-- A_WAITQ (R333): Waits for a Ready front of a queue and pops it. -/
  | aWaitq (d : Nat)
  /-- A_SETQ (R329): Sets the slice's slot limit for a queue. -/
  | aSetq (d : Nat) (l : Nat)
  /-- A_BASE (R329): Adds a scaled value to an x register. -/
  | aBase (d : Nat) (a : Nat) (i : Nat)
  /-- QPOP (R319): Takes the Ready front of a queue, optionally reading bytes from it. -/
  | qpop (d : Nat) (a : Nat) (l : Bool) (q : Nat) (z : Nat)
  /-- QPEEK (R319): Reads bytes of a queue's Ready front without popping it. -/
  | qpeek (d : Nat) (a : Nat) (l : Bool) (q : Nat) (z : Nat)
  /-- QPUSH (R321): Copies 256 scratchpad bytes into a reserved queue slot. -/
  | qpush (a : Nat) (l : Bool) (q : Nat)
  /-- ISUB (R323): Submits a register record to an island, reserving result slots. -/
  | isub (d : Nat) (a : Nat) (l : Bool) (c : Nat) (r : Nat)
  /-- TRACE (R325): Submits a ray to the cluster's ray island with results to registers and frames. -/
  | trace (d : Nat) (a : Nat) (l : Bool)
  /-- REORD (R353): Deposits the thread with a key and payload in the reorder store and exits. -/
  | reord (d : Nat) (a : Nat) (l : Bool) (o : Nat) (n : Nat)
  /-- LAUNCH (R351): Checks and enqueues a launch record from scratchpad, writing success to a predicate. -/
  | launch (a : Nat) (l : Bool) (p : Nat)
  /-- SVC (R357): Writes a service batch to the service ring and parks awaiting the reply. -/
  | svc (d : Nat) (a : Nat) (l : Bool) (n : Nat) (c : Nat)
  /-- CRN_INIT (R465): Initialises and tags a cairn with an expected total. -/
  | crnInit (d : Nat) (a : Nat) (l : Bool) (u : Bool) (s : Nat)
  /-- CRN_FREE (R465): Zeroes a cairn and clears its tag. -/
  | crnFree (a : Nat) (l : Bool)
  /-- CRN_EXPECT (R465): Arms a cairn with an expected byte total. -/
  | crnExpect (d : Nat) (a : Nat) (l : Bool)
  /-- CRN_ARRIVE (R465): Counts bytes on a cairn as a release after earlier accesses complete. -/
  | crnArrive (d : Nat) (a : Nat) (l : Bool)
  /-- CRN_WAIT (R466): Blocks until a cairn reaches a phase. -/
  | crnWait (d : Nat) (a : Nat) (l : Bool)
  /-- CRN_TEST (R465): Reads a cairn's phase into a register. -/
  | crnTest (d : Nat) (a : Nat) (l : Bool)
  /-- RDCYC (R470): Writes the core's cycle count to a register pair. -/
  | rdcyc (d : Nat)
  /-- RNGX (R472): Writes the counter-generator block of a counter and key. -/
  | rngx (d : Nat) (a : Nat) (l : Bool) (b : Nat) (m : Bool)
  /-- RNGADD (R472): Adds to a 128-bit counter modulo 2^128. -/
  | rngadd (d : Nat) (a : Nat) (l : Bool) (b : Nat) (m : Bool) (k : Bool)
  /-- MOVSR (R375): Reads a special register into a general register. -/
  | movsr (d : Nat) (n : Nat)
  /-- MOVRS (R375): Writes a general register to a special register. -/
  | movrs (a : Nat) (l : Bool) (n : Nat)
  /-- ERET_RESUME (R376): Releases a parked thread at its parked word and its linked requests. -/
  | eretResume (d : Nat) (a : Nat) (l : Bool)
  /-- ERET_SKIP (R376): Releases a parked thread past its parked word and cancels its requests. -/
  | eretSkip (d : Nat) (a : Nat) (l : Bool)
  /-- ERET_KILL (R376): Makes a parked thread exit and answers its records. -/
  | eretKill (d : Nat) (a : Nat) (l : Bool)
  /-- ERET_WRITE (R376): Writes sr.kval into a register of a parked thread. -/
  | eretWrite (d : Nat) (a : Nat) (l : Bool)
  /-- ERET_RQREL (R376): Releases the replay-queue requests linked to a record for replay. -/
  | eretRqrel (d : Nat) (a : Nat) (l : Bool)
  /-- ERET_RQCAN (R376): Cancels the replay-queue requests linked to a record. -/
  | eretRqcan (d : Nat) (a : Nat) (l : Bool)
  /-- ERET_DONE (R376): Closes a team's handler entry. -/
  | eretDone (d : Nat) (a : Nat) (l : Bool)
  /-- HALT (R377): Ends a context without a save, killing its threads and discarding its work. -/
  | halt (d : Nat) (a : Nat) (l : Bool)
  /-- IMM (R101): Latches upper immediate or offset bits for the next instruction. -/
  | imm (p : Nat)
  /-- MOD (R102): Latches rounding, saturation, scope, cache policy and ordering for the next instruction. -/
  | mod (e : Nat) (c : Nat) (s : Nat) (t : Bool) (v : Bool) (r : Nat) (z : Nat)
  /-- LIVE (R100): Latches last-use bits for source C or a store's data register. -/
  | live (x : Bool) (c : Bool) (z : Nat)
  /-- SCHED (R100): Latches a split of the thread from its bundle after the next instruction. -/
  | sched (s : Bool) (z : Nat)
  /-- ILL (R113): The all-zero word, like any word with major 0x00, takes the illegal instruction trap. -/
  | ill
  /-- RET (R188): Pops the call stack and jumps to the return PC. -/
  | ret
  /-- EXIT (R190): Ends the thread and withdraws it from every convergence set. -/
  | exit
  /-- YIELD (R191): Takes a yield trap when pre-emption is requested, otherwise does nothing. -/
  | yield
  /-- A_END (R330): Closes or repeats the innermost access-slice loop level. -/
  | aEnd
  /-- A_EXIT (R329): Ends the access-slice instance. -/
  | aExit
  /-- BUNDLE_REFORM (R37): Every fourth cycle each partition dissolves its bundles and forms new ones. -/
  | bundleReform
  /-- THREAD_PROMOTION (R42): A thread Ready and unissued for 256 cycles is promoted in the issue picker. -/
  | threadPromotion
  /-- RESULT_WRITE (R129): A completing register or predicate write is applied or discarded by program order. -/
  | resultWrite
  /-- MATRIX_START (R224): A fired matrix instruction starts once the engine, operands and earlier entries allow. -/
  | matrixStart
  /-- MATRIX_RETIRE (R226): A matrix instruction retires and decrements k.mx in every participant. -/
  | matrixRetire
  /-- STORE_PERFORMED (R265): A store reaches the point where it is performed for its scope and completes. -/
  | storePerformed
  /-- L1_FILL (R248): Fetched bytes of a missing sector merge into the L1 under the valid mask. -/
  | l1Fill
  /-- HOST_ACCESS (R279): A host access is performed at a home slice as a system-scope access. -/
  | hostAccess
  /-- TABLE_WALK (R413): A TLB miss walks the context's table and fills or faults. -/
  | tableWalk
  /-- UNCORRECTABLE_ERROR (R260): An uncorrectable storage error sets the poison mark of its unit. -/
  | uncorrectableError
  /-- COPY_SECTOR_REQUEST (R504): The tile copy engine issues and translates one sector request of a copy. -/
  | copySectorRequest
  /-- COPY_DELIVERY (R244): A copy delivers bytes, counting them on a cairn and setting presence bits when a line is whole. -/
  | copyDelivery
  /-- QUEUE_SLOT_ARRIVAL (R315): The last byte of a reserved queue slot arrives and the slot becomes Ready. -/
  | queueSlotArrival
  /-- ISLAND_CONTEXT_BOUNDARY (R446): An island drains and loads another context's image version. -/
  | islandContextBoundary
  /-- ISLAND_ACCEPT (R323): An island takes a submission from its input buffer and runs its operation. -/
  | islandAccept
  /-- ISLAND_RESULT (R323): An island's result fills its slots or registers and the submission completes. -/
  | islandResult
  /-- RASTER_HANDOFF_RECORD (R449): A raster island takes a hand-off record and rasterises the cluster's triangles. -/
  | rasterHandoffRecord
  /-- RIDGELINE_ENGINE_WAKE (R423): A write to a job ring's PW granule wakes the Ridgeline engine. -/
  | ridgelineEngineWake
  /-- RIDGELINE_JOB_ACCEPT (R424): The idle engine takes a posted job and computes its cut, misses, bins and hierarchy. -/
  | ridgelineJobAccept
  /-- RIDGELINE_JOB_END (R424): A job ends, writing its status, DONE, ST and CW. -/
  | ridgelineJobEnd
  /-- LAUNCH_QUEUE_WAKE (R340): A write to LQW sets the queue's pending-wake bit. -/
  | launchQueueWake
  /-- LAUNCH_QUEUE_SCAN (R342): The control plane scans a woken ring, accepting or rejecting posted records. -/
  | launchQueueScan
  /-- LAUNCH_RELEASE_COMPLETE (R344): A LAUNCH record becomes eligible when its system-scope release completes. -/
  | launchReleaseComplete
  /-- LAUNCH_DEPENDENCE_TEST (R346): A pending record's dependence is tested on wakes, completions or every 2,048 cycles. -/
  | launchDependenceTest
  /-- TEAM_PLACE (R348): Each cycle the control plane places the next team of ready grids by priority and acceptance. -/
  | teamPlace
  /-- COMPACTOR_MOVE (R134): The compactor pauses a team and moves its blocks to cure fragmentation. -/
  | compactorMove
  /-- REORDER_BATCH_FORM (R354): The reorder unit sorts a group of deposits into a relaunch batch. -/
  | reorderBatchForm
  /-- SERVICE_REPLY (R359): The service unit sees DONE and writes reply words to the batch's threads. -/
  | serviceReply
  /-- GRID_COMPLETE (R48): After the last exit and every store, the grid completes and writes DONEV to DONEA. -/
  | gridComplete
  /-- HANDLER_ENTRY_OPEN (R372): A team with unanswered records and nothing to issue opens its entry with an ENT record. -/
  | handlerEntryOpen
  /-- HELD_RECORD_POST (R366): A held record is posted once the fault ring frees. -/
  | heldRecordPost
  /-- PREEMPT_REQUEST (R378): Writing PREQ.REQ requests pre-emption of a running context. -/
  | preemptRequest
  /-- TEAM_FREEZE (R379): A team freezes cooperatively when every live thread is Parked or Blocked. -/
  | teamFreeze
  /-- PREEMPT_DEADLINE (R379): A team's pre-emption deadline expires and it freezes for a forced save. -/
  | preemptDeadline
  /-- CONTEXT_SAVE_COMPLETE (R381): After drain the image is written or found too large and PSTAT settles. -/
  | contextSaveComplete
  /-- RESTORE_GO (R385): Writing RCMD.GO in a saved state restores the image at CSAB. -/
  | restoreGo
  /-- GO_RESUME_FROZEN (R381): Writing RCMD.GO when the save area was too small resumes the frozen teams. -/
  | goResumeFrozen
  /-- CONTEXT_CREATE (R479): Writing CXC.LIVE := 1 creates a context and resolves its island bindings. -/
  | contextCreate
  /-- CONTEXT_DESTROY (R479): Writing CXC.LIVE := 0 halts and tears down the context. -/
  | contextDestroy
  /-- CONTEXT_DESTROY_DONE (R479): Destruction ends, BUSY clears and the page returns to reset. -/
  | contextDestroyDone
  /-- INVALIDATE_PAGE (R414): INVC KIND 0 invalidates translations of every page containing VA. -/
  | invalidatePage
  /-- INVALIDATE_RANGE (R414): INVC KIND 1 invalidates translations of a granule range. -/
  | invalidateRange
  /-- INVALIDATE_CONTEXT (R414): INVC KIND 2 invalidates every translation of the context. -/
  | invalidateContext
  /-- INVALIDATION_COMPLETE (R415): An invalidation command's conditions hold and BUSY clears. -/
  | invalidationComplete
  /-- SCUNP (R480): Writing SCUNP.BUSY unpins every pinned line of a way group. -/
  | scunp
  /-- SCUNP_DONE (R480): The unpin sweep ends and BUSY clears. -/
  | scunpDone
  /-- IMAGE_POST (R443): Writing IMGC.GO starts verification of an island image. -/
  | imagePost
  /-- IMAGE_POST_DONE (R443): Verification ends, posting the image or setting a rejection status. -/
  | imagePostDone
  /-- KEY_INSTALL (R486): Writing KEYC.GO installs or refuses a public key in a slot. -/
  | keyInstall
  /-- TRIM_COUNTER_CLEAR (R476): Writing TCSEL.CLR clears both counters of the selected port. -/
  | trimCounterClear
  /-- FQC_WRITE (R365): A write to FQC resizes the fault ring when permitted and posts held records. -/
  | fqcWrite
  /-- REGISTER_WRITE (R10): A write to a register with no behaviour of its own sets its fields. -/
  | registerWrite
  /-- PACKET_HEADER_ARRIVAL (R392): A packet header reaches a router, crossing or interface and is forwarded or trimmed. -/
  | packetHeaderArrival
  /-- RE_REQUEST_WINDOW (R393): A trimmed header's window expires and the destination sends a re-request. -/
  | reRequestWindow
  /-- RE_REQUEST (R393): A re-request reaches the source, which resends the retained payload. -/
  | reRequest
  /-- DELIVERED (R393): A delivered header reaches the source, which frees the retained payload. -/
  | delivered
  /-- CHAIN_RESERVATION (R397): A chain reservation reaches a member and takes or waits for a tile buffer. -/
  | chainReservation
  /-- CHAIN_GRANT (R398): A chain grant lets the previous member send the piece's data. -/
  | chainGrant
  /-- CHAIN_DATA (R398): A chain data packet is written into the receiver's scratchpad and forwarded. -/
  | chainData
  /-- CHAIN_DONE (R398): The last member reports the piece done and the engine starts the next. -/
  | chainDone
  /-- LINK_CRC_FAILURE (R400): A die-to-die link check fails, replaying the header or trimming the payload. -/
  | linkCrcFailure
  /-- REFRESH_SLOT (R255): Every 2 µs the weight-store refresh moves to the next bank. -/
  | refreshSlot
  /-- WEIGHT_BANK_TURN (R256): In each n-cycle of its rotation a bank serves one core's lines. -/
  | weightBankTurn
  /-- CLOCK_LEVEL_STEP (R491): Every 1 µs the Summit core moves a die's clock level by one. -/
  | clockLevelStep
  /-- THERMAL_TRIP (R492): An over-temperature trips the device, killing every context and powering down. -/
  | thermalTrip
  /-- POWER_ON_RESET (R487): Reset starts the Summit core's staged start at stage 0 with firmware verification. -/
  | powerOnReset
  /-- DIE0_BRING_UP (R487): Stage 1 brings up die 0 and the IOD. -/
  | die0BringUp
  /-- DIE1_BRING_UP (R487): Stage 2 brings up die 1. -/
  | die1BringUp
  /-- STANDARD_IMAGE_POST (R487): Stage 3 posts the standard island images to slots 0 to 2. -/
  | standardImagePost
  /-- LOCK_INTERFACE_REQUEST (R482): A TDISP message locks a TDI with its GDDR7 ranges. -/
  | lockInterfaceRequest
  /-- STOP_INTERFACE_REQUEST (R483): A TDISP message stops a TDI, ending it. -/
  | stopInterfaceRequest
  /-- END_SESSION (R483): An SPDM END_SESSION ends the TDI's session. -/
  | endSession
  /-- HEARTBEAT_LAPSE (R483): The TDI's heartbeat lapses, ending it. -/
  | heartbeatLapse
  /-- GET_MEASUREMENTS (R485): An SPDM request returns signed SHA-512 measurements. -/
  | getMeasurements
  /-- SET_CERTIFICATE (R485): An SPDM request provisions a certificate slot 1 to 7. -/
  | setCertificate
  /-- ACCUMULATOR_INSTRUCTION_FINISH (R230): An issued ACZERO, ACLD, ACMOV or ACST entry finishes at its frozen latency, unblocking accumulator instructions on its tiles and retiring ACST from k.mx. -/
  | accumulatorInstructionFinish
  /-- TDI_ENTERS_ERROR (R483): A TDI leaves CONFIG_LOCKED or RUN by entering ERROR, which ends it and starts the kill and scrub of its bound contexts. -/
  | tdiEntersError
  /-- START_INTERFACE_REQUEST (R482): A TDISP message moves a locked TDI from CONFIG_LOCKED to RUN. -/
  | startInterfaceRequest
  deriving DecidableEq, Repr

end Sys2Proof
end

