-- ==== Sys2Proof/WellFormed.lean ====
section
/-! DEFINITION. Which instructions a word can stand for: the widths of the fields (R95) and the conditions of R96, R105 to R111 and of
each entry whose breach takes illegal instruction at fetch (R113). Conditions that depend on the grid's slots, on kernel mode or on
the latched hints are part of the meanings. -/

namespace Sys2Proof

/-- Why no well-formed instruction has these fields (R113). -/
inductive Flaw where
  /-- A field holds more than its bits can (no word has it). -/
  | width
  /-- The row is an event of one of the device's agents and has no word. -/
  | event
  /-- A register breaks the pair, group or block alignment (R96). -/
  | alignment
  /-- A reserved predicate value, or an illegal use of 12 (R96). -/
  | predicate
  /-- A reserved code, condition, type, selector, size or space (R113). -/
  | code
  /-- A field that must be 0 and is not (R113). -/
  | mustBeZero
  deriving DecidableEq, Repr

/-- One condition on the fields of a word. -/
inductive Check where
  | aligned (r n : Nat)
  /-- A predicate that is read and written, or written: p0 to p11 (R96). -/
  | written (p : Nat)
  /-- A source predicate for which 12 reads true (R108, R203). -/
  | source (p : Nat)
  | guard (g : Nat) (sense : Bool)
  | below (x n : Nat)
  /-- A condition of CMP and its type: num and nan only with a floating type (R108). -/
  | condition (c t : Nat)
  /-- A launch queue 0 to 31, or 0x3FF for the Summit core (R109). -/
  | softQueue (q : Nat)
  /-- A space of a copy: 0, 1 or 3 (R305). -/
  | space (x : Nat)
  /-- A scope of CRN.INIT: 0 or 2 to 5 (R463). -/
  | cairnScope (x : Nat)
  | zero (holds : Bool) (x : Nat)
  | nonzero (x : Nat)
  deriving DecidableEq, Repr

/-- Whether a condition is met. -/
def Check.ok : Check → Bool
  | .aligned r n => r % n == 0
  | .written p => decide (p ≤ 11)
  | .source p => decide (p ≤ 12)
  | .guard g s => decide (g ≤ 11) || (decide (g = 12) && ! s)
  | .below x n => decide (x < n)
  | .condition c t => decide (c ≤ 5) || decide (4 ≤ t)
  | .softQueue q => decide (q ≤ 31) || decide (q = 0x3FF)
  | .space x => decide (x ≤ 3) && decide (x ≠ 2)
  | .cairnScope x => decide (x = 0) || (decide (2 ≤ x) && decide (x ≤ 5))
  | .zero h x => ! h || decide (x = 0)
  | .nonzero x => decide (x ≠ 0)

/-- What the breach of a condition is called. -/
def Check.flaw : Check → Flaw
  | .aligned .. => .alignment
  | .written _ => .predicate
  | .source _ => .predicate
  | .guard .. => .predicate
  | .below .. => .code
  | .condition .. => .code
  | .softQueue _ => .code
  | .space _ => .code
  | .cairnScope _ => .code
  | .zero .. => .mustBeZero
  | .nonzero _ => .code

/-- Registers of a CMP operand by its type (R108). -/
def typeRegs (t : Nat) : Nat := if t = 2 ∨ t = 3 ∨ t = 5 then 2 else 1

/-- Registers of the data of a load or store by its size code (R111, R289). -/
def sizeRegs (z : Nat) : Nat := if z = 3 then 2 else if z = 4 then 4 else 1

/-- Every field fits the bits its word gives it (R95). -/
def Instr.fits : Instr → Bool
  | .ill => true
  | .addI32 d a _ b _ => decide (d < 64) && decide (a < 64) && decide (b < 64)
  | .addN32 d a _ b _ => decide (d < 64) && decide (a < 64) && decide (b < 64)
  | .subI32 d a _ b _ => decide (d < 64) && decide (a < 64) && decide (b < 64)
  | .subN32 d a _ b _ => decide (d < 64) && decide (a < 64) && decide (b < 64)
  | .mullo32 d a _ b _ => decide (d < 64) && decide (a < 64) && decide (b < 64)
  | .mulhiI32 d a _ b _ => decide (d < 64) && decide (a < 64) && decide (b < 64)
  | .mulhiN32 d a _ b _ => decide (d < 64) && decide (a < 64) && decide (b < 64)
  | .divI32 d a _ b _ => decide (d < 64) && decide (a < 64) && decide (b < 64)
  | .divN32 d a _ b _ => decide (d < 64) && decide (a < 64) && decide (b < 64)
  | .remI32 d a _ b _ => decide (d < 64) && decide (a < 64) && decide (b < 64)
  | .remN32 d a _ b _ => decide (d < 64) && decide (a < 64) && decide (b < 64)
  | .minI32 d a _ b _ => decide (d < 64) && decide (a < 64) && decide (b < 64)
  | .minN32 d a _ b _ => decide (d < 64) && decide (a < 64) && decide (b < 64)
  | .maxI32 d a _ b _ => decide (d < 64) && decide (a < 64) && decide (b < 64)
  | .maxN32 d a _ b _ => decide (d < 64) && decide (a < 64) && decide (b < 64)
  | .abs32 d a _ => decide (d < 64) && decide (a < 64)
  | .neg32 d a _ => decide (d < 64) && decide (a < 64)
  | .and32 d a _ b _ => decide (d < 64) && decide (a < 64) && decide (b < 64)
  | .or32 d a _ b _ => decide (d < 64) && decide (a < 64) && decide (b < 64)
  | .xor32 d a _ b _ => decide (d < 64) && decide (a < 64) && decide (b < 64)
  | .andn32 d a _ b _ => decide (d < 64) && decide (a < 64) && decide (b < 64)
  | .not32 d a _ => decide (d < 64) && decide (a < 64)
  | .shl32 d a _ b _ => decide (d < 64) && decide (a < 64) && decide (b < 64)
  | .shr32 d a _ b _ => decide (d < 64) && decide (a < 64) && decide (b < 64)
  | .shra32 d a _ b _ => decide (d < 64) && decide (a < 64) && decide (b < 64)
  | .rot32 d a _ b _ => decide (d < 64) && decide (a < 64) && decide (b < 64)
  | .popc32 d a _ => decide (d < 64) && decide (a < 64)
  | .clz32 d a _ => decide (d < 64) && decide (a < 64)
  | .ctz32 d a _ => decide (d < 64) && decide (a < 64)
  | .brev32 d a _ => decide (d < 64) && decide (a < 64)
  | .permb d a _ b _ => decide (d < 64) && decide (a < 64) && decide (b < 64)
  | .mov32 d a _ => decide (d < 64) && decide (a < 64)
  | .bfxI32 d a _ b _ => decide (d < 64) && decide (a < 64) && decide (b < 64)
  | .bfxN32 d a _ b _ => decide (d < 64) && decide (a < 64) && decide (b < 64)
  | .addI64 d a _ b _ => decide (d < 64) && decide (a < 64) && decide (b < 64)
  | .addN64 d a _ b _ => decide (d < 64) && decide (a < 64) && decide (b < 64)
  | .subI64 d a _ b _ => decide (d < 64) && decide (a < 64) && decide (b < 64)
  | .subN64 d a _ b _ => decide (d < 64) && decide (a < 64) && decide (b < 64)
  | .mullo64 d a _ b _ => decide (d < 64) && decide (a < 64) && decide (b < 64)
  | .mulhiI64 d a _ b _ => decide (d < 64) && decide (a < 64) && decide (b < 64)
  | .mulhiN64 d a _ b _ => decide (d < 64) && decide (a < 64) && decide (b < 64)
  | .divI64 d a _ b _ => decide (d < 64) && decide (a < 64) && decide (b < 64)
  | .divN64 d a _ b _ => decide (d < 64) && decide (a < 64) && decide (b < 64)
  | .remI64 d a _ b _ => decide (d < 64) && decide (a < 64) && decide (b < 64)
  | .remN64 d a _ b _ => decide (d < 64) && decide (a < 64) && decide (b < 64)
  | .minI64 d a _ b _ => decide (d < 64) && decide (a < 64) && decide (b < 64)
  | .minN64 d a _ b _ => decide (d < 64) && decide (a < 64) && decide (b < 64)
  | .maxI64 d a _ b _ => decide (d < 64) && decide (a < 64) && decide (b < 64)
  | .maxN64 d a _ b _ => decide (d < 64) && decide (a < 64) && decide (b < 64)
  | .abs64 d a _ => decide (d < 64) && decide (a < 64)
  | .neg64 d a _ => decide (d < 64) && decide (a < 64)
  | .and64 d a _ b _ => decide (d < 64) && decide (a < 64) && decide (b < 64)
  | .or64 d a _ b _ => decide (d < 64) && decide (a < 64) && decide (b < 64)
  | .xor64 d a _ b _ => decide (d < 64) && decide (a < 64) && decide (b < 64)
  | .andn64 d a _ b _ => decide (d < 64) && decide (a < 64) && decide (b < 64)
  | .not64 d a _ => decide (d < 64) && decide (a < 64)
  | .shl64 d a _ b _ => decide (d < 64) && decide (a < 64) && decide (b < 64)
  | .shr64 d a _ b _ => decide (d < 64) && decide (a < 64) && decide (b < 64)
  | .shra64 d a _ b _ => decide (d < 64) && decide (a < 64) && decide (b < 64)
  | .rot64 d a _ b _ => decide (d < 64) && decide (a < 64) && decide (b < 64)
  | .popc64 d a _ => decide (d < 64) && decide (a < 64)
  | .clz64 d a _ => decide (d < 64) && decide (a < 64)
  | .ctz64 d a _ => decide (d < 64) && decide (a < 64)
  | .brev64 d a _ => decide (d < 64) && decide (a < 64)
  | .mov64 d a _ => decide (d < 64) && decide (a < 64)
  | .bfxI64 d a _ b _ => decide (d < 64) && decide (a < 64) && decide (b < 64)
  | .bfxN64 d a _ b _ => decide (d < 64) && decide (a < 64) && decide (b < 64)
  | .addc d a _ b _ p => decide (d < 64) && decide (a < 64) && decide (b < 64) && decide (p < 16)
  | .subb d a _ b _ p => decide (d < 64) && decide (a < 64) && decide (b < 64) && decide (p < 16)
  | .sel d a _ b _ p => decide (d < 64) && decide (a < 64) && decide (b < 64) && decide (p < 16)
  | .lea d a _ b _ _ s => decide (d < 64) && decide (a < 64) && decide (b < 64) && decide (s < 8)
  | .bfi d a _ b _ c => decide (d < 64) && decide (a < 64) && decide (b < 64) && decide (c < 64)
  | .mad32 d a _ b _ c => decide (d < 64) && decide (a < 64) && decide (b < 64) && decide (c < 64)
  | .mad64 d a _ b _ c => decide (d < 64) && decide (a < 64) && decide (b < 64) && decide (c < 64)
  | .addI32Imm d a _ i => decide (d < 64) && decide (a < 64) && decide (i < 8192)
  | .andImm d a _ i => decide (d < 64) && decide (a < 64) && decide (i < 8192)
  | .orImm d a _ i => decide (d < 64) && decide (a < 64) && decide (i < 8192)
  | .xorImm d a _ i => decide (d < 64) && decide (a < 64) && decide (i < 8192)
  | .shlImm d a _ _ n => decide (d < 64) && decide (a < 64) && decide (n < 64)
  | .shrImm d a _ _ n => decide (d < 64) && decide (a < 64) && decide (n < 64)
  | .shraImm d a _ _ n => decide (d < 64) && decide (a < 64) && decide (n < 64)
  | .rotImm d a _ _ n => decide (d < 64) && decide (a < 64) && decide (n < 64)
  | .movi d i => decide (d < 64) && decide (i < 8192)
  | .addI64Imm d a _ i => decide (d < 64) && decide (a < 64) && decide (i < 8192)
  | .faddF32 d a _ b _ => decide (d < 64) && decide (a < 64) && decide (b < 64)
  | .fsubF32 d a _ b _ => decide (d < 64) && decide (a < 64) && decide (b < 64)
  | .fmulF32 d a _ b _ => decide (d < 64) && decide (a < 64) && decide (b < 64)
  | .fminF32 d a _ b _ => decide (d < 64) && decide (a < 64) && decide (b < 64)
  | .fmaxF32 d a _ b _ => decide (d < 64) && decide (a < 64) && decide (b < 64)
  | .fdivF32 d a _ b _ => decide (d < 64) && decide (a < 64) && decide (b < 64)
  | .fsqrtF32 d a _ => decide (d < 64) && decide (a < 64)
  | .frcpF32 d a _ => decide (d < 64) && decide (a < 64)
  | .frsqF32 d a _ => decide (d < 64) && decide (a < 64)
  | .fexp2F32 d a _ => decide (d < 64) && decide (a < 64)
  | .flog2F32 d a _ => decide (d < 64) && decide (a < 64)
  | .fsinF32 d a _ => decide (d < 64) && decide (a < 64)
  | .fcosF32 d a _ => decide (d < 64) && decide (a < 64)
  | .fabsF32 d a _ => decide (d < 64) && decide (a < 64)
  | .fnegF32 d a _ => decide (d < 64) && decide (a < 64)
  | .fclassF32 d a _ => decide (d < 64) && decide (a < 64)
  | .fscaleF32 d a _ b _ => decide (d < 64) && decide (a < 64) && decide (b < 64)
  | .frintF32 d a _ => decide (d < 64) && decide (a < 64)
  | .faddF64 d a _ b _ => decide (d < 64) && decide (a < 64) && decide (b < 64)
  | .fsubF64 d a _ b _ => decide (d < 64) && decide (a < 64) && decide (b < 64)
  | .fmulF64 d a _ b _ => decide (d < 64) && decide (a < 64) && decide (b < 64)
  | .fminF64 d a _ b _ => decide (d < 64) && decide (a < 64) && decide (b < 64)
  | .fmaxF64 d a _ b _ => decide (d < 64) && decide (a < 64) && decide (b < 64)
  | .fdivF64 d a _ b _ => decide (d < 64) && decide (a < 64) && decide (b < 64)
  | .fsqrtF64 d a _ => decide (d < 64) && decide (a < 64)
  | .frcpF64 d a _ => decide (d < 64) && decide (a < 64)
  | .frsqF64 d a _ => decide (d < 64) && decide (a < 64)
  | .fexp2F64 d a _ => decide (d < 64) && decide (a < 64)
  | .flog2F64 d a _ => decide (d < 64) && decide (a < 64)
  | .fsinF64 d a _ => decide (d < 64) && decide (a < 64)
  | .fcosF64 d a _ => decide (d < 64) && decide (a < 64)
  | .fabsF64 d a _ => decide (d < 64) && decide (a < 64)
  | .fnegF64 d a _ => decide (d < 64) && decide (a < 64)
  | .fclassF64 d a _ => decide (d < 64) && decide (a < 64)
  | .fscaleF64 d a _ b _ => decide (d < 64) && decide (a < 64) && decide (b < 64)
  | .frintF64 d a _ => decide (d < 64) && decide (a < 64)
  | .faddF16 d a _ b _ => decide (d < 64) && decide (a < 64) && decide (b < 64)
  | .fsubF16 d a _ b _ => decide (d < 64) && decide (a < 64) && decide (b < 64)
  | .fmulF16 d a _ b _ => decide (d < 64) && decide (a < 64) && decide (b < 64)
  | .fminF16 d a _ b _ => decide (d < 64) && decide (a < 64) && decide (b < 64)
  | .fmaxF16 d a _ b _ => decide (d < 64) && decide (a < 64) && decide (b < 64)
  | .fabsF16 d a _ => decide (d < 64) && decide (a < 64)
  | .fnegF16 d a _ => decide (d < 64) && decide (a < 64)
  | .fclassF16 d a _ => decide (d < 64) && decide (a < 64)
  | .fscaleF16 d a _ b _ => decide (d < 64) && decide (a < 64) && decide (b < 64)
  | .frintF16 d a _ => decide (d < 64) && decide (a < 64)
  | .faddBf16 d a _ b _ => decide (d < 64) && decide (a < 64) && decide (b < 64)
  | .fsubBf16 d a _ b _ => decide (d < 64) && decide (a < 64) && decide (b < 64)
  | .fmulBf16 d a _ b _ => decide (d < 64) && decide (a < 64) && decide (b < 64)
  | .fminBf16 d a _ b _ => decide (d < 64) && decide (a < 64) && decide (b < 64)
  | .fmaxBf16 d a _ b _ => decide (d < 64) && decide (a < 64) && decide (b < 64)
  | .fabsBf16 d a _ => decide (d < 64) && decide (a < 64)
  | .fnegBf16 d a _ => decide (d < 64) && decide (a < 64)
  | .fclassBf16 d a _ => decide (d < 64) && decide (a < 64)
  | .fscaleBf16 d a _ b _ => decide (d < 64) && decide (a < 64) && decide (b < 64)
  | .frintBf16 d a _ => decide (d < 64) && decide (a < 64)
  | .ffmaF32 d a _ b _ c => decide (d < 64) && decide (a < 64) && decide (b < 64) && decide (c < 64)
  | .ffmaF64 d a _ b _ c => decide (d < 64) && decide (a < 64) && decide (b < 64) && decide (c < 64)
  | .ffmaF16 d a _ b _ c => decide (d < 64) && decide (a < 64) && decide (b < 64) && decide (c < 64)
  | .ffmaBf16 d a _ b _ c => decide (d < 64) && decide (a < 64) && decide (b < 64) && decide (c < 64)
  | .cvt d a _ b _ s => decide (d < 64) && decide (a < 64) && decide (b < 64) && decide (s < 8)
  | .cmp p c a _ b _ o t => decide (p < 16) && decide (c < 4) && decide (a < 64) && decide (b < 64) && decide (o < 8) && decide (t < 8)
  | .pand p c a b => decide (p < 16) && decide (c < 4) && decide (a < 16) && decide (b < 16)
  | .por p c a b => decide (p < 16) && decide (c < 4) && decide (a < 16) && decide (b < 16)
  | .pxor p c a b => decide (p < 16) && decide (c < 4) && decide (a < 16) && decide (b < 16)
  | .pnot p c a => decide (p < 16) && decide (c < 4) && decide (a < 16)
  | .pmov p c a => decide (p < 16) && decide (c < 4) && decide (a < 16)
  | .br g _ o => decide (g < 16) && decide (o < 2097152)
  | .call g _ o => decide (g < 16) && decide (o < 2097152)
  | .brx a _ => decide (a < 64)
  | .callx a _ => decide (a < 64)
  | .ret => true
  | .exit => true
  | .yield => true
  | .waitk k n => decide (k < 8) && decide (n < 64)
  | .trap c => decide (c < 1024)
  | .softi q => decide (q < 1024)
  | .cdeclRange a _ n => decide (a < 64) && decide (n < 16)
  | .cdeclMask d a _ n => decide (d < 64) && decide (a < 64) && decide (n < 16)
  | .csign n => decide (n < 16)
  | .cwait n => decide (n < 16)
  | .xshfIdx d a _ b _ n => decide (d < 64) && decide (a < 64) && decide (b < 64) && decide (n < 16)
  | .xshfUp d a _ b _ n => decide (d < 64) && decide (a < 64) && decide (b < 64) && decide (n < 16)
  | .xshfDown d a _ b _ n => decide (d < 64) && decide (a < 64) && decide (b < 64) && decide (n < 16)
  | .xshfXor d a _ b _ n => decide (d < 64) && decide (a < 64) && decide (b < 64) && decide (n < 16)
  | .xbcast d a _ _ _ n => decide (d < 64) && decide (a < 64) && decide (n < 16)
  | .xred d a _ o n => decide (d < 64) && decide (a < 64) && decide (o < 16) && decide (n < 16)
  | .xscanInc d a _ o n => decide (d < 64) && decide (a < 64) && decide (o < 16) && decide (n < 16)
  | .xscanExc d a _ o n => decide (d < 64) && decide (a < 64) && decide (o < 16) && decide (n < 16)
  | .xvote d a o n => decide (d < 64) && decide (a < 16) && decide (o < 4) && decide (n < 16)
  | .mma s b _ p n t => decide (s < 64) && decide (b < 64) && decide (p < 8) && decide (n < 16) && decide (t < 8)
  | .mmas s b _ p n t => decide (s < 64) && decide (b < 64) && decide (p < 8) && decide (n < 16) && decide (t < 8)
  | .mmabXor s b _ p n t => decide (s < 64) && decide (b < 64) && decide (p < 8) && decide (n < 16) && decide (t < 8)
  | .mmabAnd s b _ p n t => decide (s < 64) && decide (b < 64) && decide (p < 8) && decide (n < 16) && decide (t < 8)
  | .mmac s b _ p n t => decide (s < 64) && decide (b < 64) && decide (p < 8) && decide (n < 16) && decide (t < 8)
  | .aczero t => decide (t < 8)
  | .acld a _ t => decide (a < 64) && decide (t < 8)
  | .acst a _ t => decide (a < 64) && decide (t < 8)
  | .acres d a _ s t => decide (d < 64) && decide (a < 64) && decide (s < 8) && decide (t < 8)
  | .accmp d a _ u t => decide (d < 64) && decide (a < 64) && decide (u < 8) && decide (t < 8)
  | .acmov u t => decide (u < 8) && decide (t < 8)
  | .ldGB32 d a _ g _ o => decide (d < 64) && decide (a < 64) && decide (g < 16) && decide (o < 256)
  | .stGB32 d a _ g _ o => decide (d < 64) && decide (a < 64) && decide (g < 16) && decide (o < 256)
  | .ldGB64 d a _ g _ o => decide (d < 64) && decide (a < 64) && decide (g < 16) && decide (o < 256)
  | .stGB64 d a _ g _ o => decide (d < 64) && decide (a < 64) && decide (g < 16) && decide (o < 256)
  | .ldSB32 d a _ g _ o => decide (d < 64) && decide (a < 64) && decide (g < 16) && decide (o < 256)
  | .stSB32 d a _ g _ o => decide (d < 64) && decide (a < 64) && decide (g < 16) && decide (o < 256)
  | .ldGeneral d a _ _ g p z => decide (d < 64) && decide (a < 64) && decide (g < 16) && decide (p < 4) && decide (z < 8)
  | .stGeneral d a _ _ g p z => decide (d < 64) && decide (a < 64) && decide (g < 16) && decide (p < 4) && decide (z < 8)
  | .atom d a _ _ _ o s => decide (d < 64) && decide (a < 64) && decide (o < 16) && decide (s < 8)
  | .atomc d a _ _ _ s => decide (d < 64) && decide (a < 64) && decide (s < 8)
  | .fence s => decide (s < 8)
  | .waita d a _ _ _ s => decide (d < 64) && decide (a < 64) && decide (s < 8)
  | .wakea d a _ _ s => decide (d < 64) && decide (a < 64) && decide (s < 8)
  | .cflush a _ => decide (a < 64)
  | .cinv a _ => decide (a < 64)
  | .pin d a _ => decide (d < 64) && decide (a < 64)
  | .unpin d a _ => decide (d < 64) && decide (a < 64)
  | .tcopy d a _ e s => decide (d < 64) && decide (a < 64) && decide (e < 4) && decide (s < 4)
  | .tcast d a _ s => decide (d < 64) && decide (a < 64) && decide (s < 4)
  | .tredBf16 d a _ e s => decide (d < 64) && decide (a < 64) && decide (e < 4) && decide (s < 4)
  | .tredF32 d a _ e s => decide (d < 64) && decide (a < 64) && decide (e < 4) && decide (s < 4)
  | .aLoop c => decide (c < 512)
  | .aEnd => true
  | .aAddr d a i => decide (d < 64) && decide (a < 64) && decide (i < 512)
  | .aLdq d a s r => decide (d < 64) && decide (a < 64) && decide (s < 8) && decide (r < 4)
  | .aLdwq d a s r => decide (d < 64) && decide (a < 64) && decide (s < 8) && decide (r < 4)
  | .aWaitq d => decide (d < 64)
  | .aSetq d l => decide (d < 64) && decide (l < 16)
  | .aBase d a i => decide (d < 64) && decide (a < 64) && decide (i < 512)
  | .aExit => true
  | .qpop d a _ q z => decide (d < 64) && decide (a < 64) && decide (q < 8) && decide (z < 4)
  | .qpeek d a _ q z => decide (d < 64) && decide (a < 64) && decide (q < 8) && decide (z < 4)
  | .qpush a _ q => decide (a < 64) && decide (q < 8)
  | .isub d a _ c r => decide (d < 64) && decide (a < 64) && decide (c < 4) && decide (r < 4)
  | .trace d a _ => decide (d < 64) && decide (a < 64)
  | .reord d a _ o n => decide (d < 64) && decide (a < 64) && decide (o < 32) && decide (n < 16)
  | .launch a _ p => decide (a < 64) && decide (p < 16)
  | .svc d a _ n c => decide (d < 64) && decide (a < 64) && decide (n < 4) && decide (c < 16)
  | .crnInit d a _ _ s => decide (d < 64) && decide (a < 64) && decide (s < 8)
  | .crnFree a _ => decide (a < 64)
  | .crnExpect d a _ => decide (d < 64) && decide (a < 64)
  | .crnArrive d a _ => decide (d < 64) && decide (a < 64)
  | .crnWait d a _ => decide (d < 64) && decide (a < 64)
  | .crnTest d a _ => decide (d < 64) && decide (a < 64)
  | .rdcyc d => decide (d < 64)
  | .rngx d a _ b _ => decide (d < 64) && decide (a < 64) && decide (b < 64)
  | .rngadd d a _ b _ _ => decide (d < 64) && decide (a < 64) && decide (b < 64)
  | .movsr d n => decide (d < 64) && decide (n < 1024)
  | .movrs a _ n => decide (a < 64) && decide (n < 1024)
  | .eretResume d a _ => decide (d < 64) && decide (a < 64)
  | .eretSkip d a _ => decide (d < 64) && decide (a < 64)
  | .eretKill d a _ => decide (d < 64) && decide (a < 64)
  | .eretWrite d a _ => decide (d < 64) && decide (a < 64)
  | .eretRqrel d a _ => decide (d < 64) && decide (a < 64)
  | .eretRqcan d a _ => decide (d < 64) && decide (a < 64)
  | .eretDone d a _ => decide (d < 64) && decide (a < 64)
  | .halt d a _ => decide (d < 64) && decide (a < 64)
  | .imm p => decide (p < 4194304)
  | .mod e c s _ _ r z => decide (e < 4) && decide (c < 8) && decide (s < 8) && decide (r < 8) && decide (z < 512)
  | .live _ _ z => decide (z < 1048576)
  | .sched _ z => decide (z < 2097152)
  | .bundleReform => true
  | .threadPromotion => true
  | .resultWrite => true
  | .matrixStart => true
  | .matrixRetire => true
  | .storePerformed => true
  | .l1Fill => true
  | .hostAccess => true
  | .tableWalk => true
  | .uncorrectableError => true
  | .copySectorRequest => true
  | .copyDelivery => true
  | .queueSlotArrival => true
  | .islandContextBoundary => true
  | .islandAccept => true
  | .islandResult => true
  | .rasterHandoffRecord => true
  | .ridgelineEngineWake => true
  | .ridgelineJobAccept => true
  | .ridgelineJobEnd => true
  | .launchQueueWake => true
  | .launchQueueScan => true
  | .launchReleaseComplete => true
  | .launchDependenceTest => true
  | .teamPlace => true
  | .compactorMove => true
  | .reorderBatchForm => true
  | .serviceReply => true
  | .gridComplete => true
  | .handlerEntryOpen => true
  | .heldRecordPost => true
  | .preemptRequest => true
  | .teamFreeze => true
  | .preemptDeadline => true
  | .contextSaveComplete => true
  | .restoreGo => true
  | .goResumeFrozen => true
  | .contextCreate => true
  | .contextDestroy => true
  | .contextDestroyDone => true
  | .invalidatePage => true
  | .invalidateRange => true
  | .invalidateContext => true
  | .invalidationComplete => true
  | .scunp => true
  | .scunpDone => true
  | .imagePost => true
  | .imagePostDone => true
  | .keyInstall => true
  | .trimCounterClear => true
  | .fqcWrite => true
  | .registerWrite => true
  | .packetHeaderArrival => true
  | .reRequestWindow => true
  | .reRequest => true
  | .delivered => true
  | .chainReservation => true
  | .chainGrant => true
  | .chainData => true
  | .chainDone => true
  | .linkCrcFailure => true
  | .refreshSlot => true
  | .weightBankTurn => true
  | .clockLevelStep => true
  | .thermalTrip => true
  | .powerOnReset => true
  | .die0BringUp => true
  | .die1BringUp => true
  | .standardImagePost => true
  | .lockInterfaceRequest => true
  | .stopInterfaceRequest => true
  | .endSession => true
  | .heartbeatLapse => true
  | .getMeasurements => true
  | .setCertificate => true
  | .accumulatorInstructionFinish => true
  | .tdiEntersError => true
  | .startInterfaceRequest => true

/-- The rows that are events of the device's own agents and have no word. -/
def Instr.isEvent : Instr → Bool
  | .ill => false
  | .addI32 .. => false
  | .addN32 .. => false
  | .subI32 .. => false
  | .subN32 .. => false
  | .mullo32 .. => false
  | .mulhiI32 .. => false
  | .mulhiN32 .. => false
  | .divI32 .. => false
  | .divN32 .. => false
  | .remI32 .. => false
  | .remN32 .. => false
  | .minI32 .. => false
  | .minN32 .. => false
  | .maxI32 .. => false
  | .maxN32 .. => false
  | .abs32 .. => false
  | .neg32 .. => false
  | .and32 .. => false
  | .or32 .. => false
  | .xor32 .. => false
  | .andn32 .. => false
  | .not32 .. => false
  | .shl32 .. => false
  | .shr32 .. => false
  | .shra32 .. => false
  | .rot32 .. => false
  | .popc32 .. => false
  | .clz32 .. => false
  | .ctz32 .. => false
  | .brev32 .. => false
  | .permb .. => false
  | .mov32 .. => false
  | .bfxI32 .. => false
  | .bfxN32 .. => false
  | .addI64 .. => false
  | .addN64 .. => false
  | .subI64 .. => false
  | .subN64 .. => false
  | .mullo64 .. => false
  | .mulhiI64 .. => false
  | .mulhiN64 .. => false
  | .divI64 .. => false
  | .divN64 .. => false
  | .remI64 .. => false
  | .remN64 .. => false
  | .minI64 .. => false
  | .minN64 .. => false
  | .maxI64 .. => false
  | .maxN64 .. => false
  | .abs64 .. => false
  | .neg64 .. => false
  | .and64 .. => false
  | .or64 .. => false
  | .xor64 .. => false
  | .andn64 .. => false
  | .not64 .. => false
  | .shl64 .. => false
  | .shr64 .. => false
  | .shra64 .. => false
  | .rot64 .. => false
  | .popc64 .. => false
  | .clz64 .. => false
  | .ctz64 .. => false
  | .brev64 .. => false
  | .mov64 .. => false
  | .bfxI64 .. => false
  | .bfxN64 .. => false
  | .addc .. => false
  | .subb .. => false
  | .sel .. => false
  | .lea .. => false
  | .bfi .. => false
  | .mad32 .. => false
  | .mad64 .. => false
  | .addI32Imm .. => false
  | .andImm .. => false
  | .orImm .. => false
  | .xorImm .. => false
  | .shlImm .. => false
  | .shrImm .. => false
  | .shraImm .. => false
  | .rotImm .. => false
  | .movi .. => false
  | .addI64Imm .. => false
  | .faddF32 .. => false
  | .fsubF32 .. => false
  | .fmulF32 .. => false
  | .fminF32 .. => false
  | .fmaxF32 .. => false
  | .fdivF32 .. => false
  | .fsqrtF32 .. => false
  | .frcpF32 .. => false
  | .frsqF32 .. => false
  | .fexp2F32 .. => false
  | .flog2F32 .. => false
  | .fsinF32 .. => false
  | .fcosF32 .. => false
  | .fabsF32 .. => false
  | .fnegF32 .. => false
  | .fclassF32 .. => false
  | .fscaleF32 .. => false
  | .frintF32 .. => false
  | .faddF64 .. => false
  | .fsubF64 .. => false
  | .fmulF64 .. => false
  | .fminF64 .. => false
  | .fmaxF64 .. => false
  | .fdivF64 .. => false
  | .fsqrtF64 .. => false
  | .frcpF64 .. => false
  | .frsqF64 .. => false
  | .fexp2F64 .. => false
  | .flog2F64 .. => false
  | .fsinF64 .. => false
  | .fcosF64 .. => false
  | .fabsF64 .. => false
  | .fnegF64 .. => false
  | .fclassF64 .. => false
  | .fscaleF64 .. => false
  | .frintF64 .. => false
  | .faddF16 .. => false
  | .fsubF16 .. => false
  | .fmulF16 .. => false
  | .fminF16 .. => false
  | .fmaxF16 .. => false
  | .fabsF16 .. => false
  | .fnegF16 .. => false
  | .fclassF16 .. => false
  | .fscaleF16 .. => false
  | .frintF16 .. => false
  | .faddBf16 .. => false
  | .fsubBf16 .. => false
  | .fmulBf16 .. => false
  | .fminBf16 .. => false
  | .fmaxBf16 .. => false
  | .fabsBf16 .. => false
  | .fnegBf16 .. => false
  | .fclassBf16 .. => false
  | .fscaleBf16 .. => false
  | .frintBf16 .. => false
  | .ffmaF32 .. => false
  | .ffmaF64 .. => false
  | .ffmaF16 .. => false
  | .ffmaBf16 .. => false
  | .cvt .. => false
  | .cmp .. => false
  | .pand .. => false
  | .por .. => false
  | .pxor .. => false
  | .pnot .. => false
  | .pmov .. => false
  | .br .. => false
  | .call .. => false
  | .brx .. => false
  | .callx .. => false
  | .ret => false
  | .exit => false
  | .yield => false
  | .waitk .. => false
  | .trap .. => false
  | .softi .. => false
  | .cdeclRange .. => false
  | .cdeclMask .. => false
  | .csign .. => false
  | .cwait .. => false
  | .xshfIdx .. => false
  | .xshfUp .. => false
  | .xshfDown .. => false
  | .xshfXor .. => false
  | .xbcast .. => false
  | .xred .. => false
  | .xscanInc .. => false
  | .xscanExc .. => false
  | .xvote .. => false
  | .mma .. => false
  | .mmas .. => false
  | .mmabXor .. => false
  | .mmabAnd .. => false
  | .mmac .. => false
  | .aczero .. => false
  | .acld .. => false
  | .acst .. => false
  | .acres .. => false
  | .accmp .. => false
  | .acmov .. => false
  | .ldGB32 .. => false
  | .stGB32 .. => false
  | .ldGB64 .. => false
  | .stGB64 .. => false
  | .ldSB32 .. => false
  | .stSB32 .. => false
  | .ldGeneral .. => false
  | .stGeneral .. => false
  | .atom .. => false
  | .atomc .. => false
  | .fence .. => false
  | .waita .. => false
  | .wakea .. => false
  | .cflush .. => false
  | .cinv .. => false
  | .pin .. => false
  | .unpin .. => false
  | .tcopy .. => false
  | .tcast .. => false
  | .tredBf16 .. => false
  | .tredF32 .. => false
  | .aLoop .. => false
  | .aEnd => false
  | .aAddr .. => false
  | .aLdq .. => false
  | .aLdwq .. => false
  | .aWaitq .. => false
  | .aSetq .. => false
  | .aBase .. => false
  | .aExit => false
  | .qpop .. => false
  | .qpeek .. => false
  | .qpush .. => false
  | .isub .. => false
  | .trace .. => false
  | .reord .. => false
  | .launch .. => false
  | .svc .. => false
  | .crnInit .. => false
  | .crnFree .. => false
  | .crnExpect .. => false
  | .crnArrive .. => false
  | .crnWait .. => false
  | .crnTest .. => false
  | .rdcyc .. => false
  | .rngx .. => false
  | .rngadd .. => false
  | .movsr .. => false
  | .movrs .. => false
  | .eretResume .. => false
  | .eretSkip .. => false
  | .eretKill .. => false
  | .eretWrite .. => false
  | .eretRqrel .. => false
  | .eretRqcan .. => false
  | .eretDone .. => false
  | .halt .. => false
  | .imm .. => false
  | .mod .. => false
  | .live .. => false
  | .sched .. => false
  | .bundleReform => true
  | .threadPromotion => true
  | .resultWrite => true
  | .matrixStart => true
  | .matrixRetire => true
  | .storePerformed => true
  | .l1Fill => true
  | .hostAccess => true
  | .tableWalk => true
  | .uncorrectableError => true
  | .copySectorRequest => true
  | .copyDelivery => true
  | .queueSlotArrival => true
  | .islandContextBoundary => true
  | .islandAccept => true
  | .islandResult => true
  | .rasterHandoffRecord => true
  | .ridgelineEngineWake => true
  | .ridgelineJobAccept => true
  | .ridgelineJobEnd => true
  | .launchQueueWake => true
  | .launchQueueScan => true
  | .launchReleaseComplete => true
  | .launchDependenceTest => true
  | .teamPlace => true
  | .compactorMove => true
  | .reorderBatchForm => true
  | .serviceReply => true
  | .gridComplete => true
  | .handlerEntryOpen => true
  | .heldRecordPost => true
  | .preemptRequest => true
  | .teamFreeze => true
  | .preemptDeadline => true
  | .contextSaveComplete => true
  | .restoreGo => true
  | .goResumeFrozen => true
  | .contextCreate => true
  | .contextDestroy => true
  | .contextDestroyDone => true
  | .invalidatePage => true
  | .invalidateRange => true
  | .invalidateContext => true
  | .invalidationComplete => true
  | .scunp => true
  | .scunpDone => true
  | .imagePost => true
  | .imagePostDone => true
  | .keyInstall => true
  | .trimCounterClear => true
  | .fqcWrite => true
  | .registerWrite => true
  | .packetHeaderArrival => true
  | .reRequestWindow => true
  | .reRequest => true
  | .delivered => true
  | .chainReservation => true
  | .chainGrant => true
  | .chainData => true
  | .chainDone => true
  | .linkCrcFailure => true
  | .refreshSlot => true
  | .weightBankTurn => true
  | .clockLevelStep => true
  | .thermalTrip => true
  | .powerOnReset => true
  | .die0BringUp => true
  | .die1BringUp => true
  | .standardImagePost => true
  | .lockInterfaceRequest => true
  | .stopInterfaceRequest => true
  | .endSession => true
  | .heartbeatLapse => true
  | .getMeasurements => true
  | .setCertificate => true
  | .accumulatorInstructionFinish => true
  | .tdiEntersError => true
  | .startInterfaceRequest => true

/-- What a word must meet beyond the widths of its fields, by row. -/
def Instr.checks : Instr → List Check
  | .ill => []
  | .addI32 _ _ _ _ _ => []
  | .addN32 _ _ _ _ _ => []
  | .subI32 _ _ _ _ _ => []
  | .subN32 _ _ _ _ _ => []
  | .mullo32 _ _ _ _ _ => []
  | .mulhiI32 _ _ _ _ _ => []
  | .mulhiN32 _ _ _ _ _ => []
  | .divI32 _ _ _ _ _ => []
  | .divN32 _ _ _ _ _ => []
  | .remI32 _ _ _ _ _ => []
  | .remN32 _ _ _ _ _ => []
  | .minI32 _ _ _ _ _ => []
  | .minN32 _ _ _ _ _ => []
  | .maxI32 _ _ _ _ _ => []
  | .maxN32 _ _ _ _ _ => []
  | .abs32 _ _ _ => []
  | .neg32 _ _ _ => []
  | .and32 _ _ _ _ _ => []
  | .or32 _ _ _ _ _ => []
  | .xor32 _ _ _ _ _ => []
  | .andn32 _ _ _ _ _ => []
  | .not32 _ _ _ => []
  | .shl32 _ _ _ _ _ => []
  | .shr32 _ _ _ _ _ => []
  | .shra32 _ _ _ _ _ => []
  | .rot32 _ _ _ _ _ => []
  | .popc32 _ _ _ => []
  | .clz32 _ _ _ => []
  | .ctz32 _ _ _ => []
  | .brev32 _ _ _ => []
  | .permb _ _ _ _ _ => []
  | .mov32 _ _ _ => []
  | .bfxI32 _ _ _ _ _ => []
  | .bfxN32 _ _ _ _ _ => []
  | .addI64 d a _ b _ => [.aligned d 2, .aligned a 2, .aligned b 2]
  | .addN64 d a _ b _ => [.aligned d 2, .aligned a 2, .aligned b 2]
  | .subI64 d a _ b _ => [.aligned d 2, .aligned a 2, .aligned b 2]
  | .subN64 d a _ b _ => [.aligned d 2, .aligned a 2, .aligned b 2]
  | .mullo64 d a _ b _ => [.aligned d 2, .aligned a 2, .aligned b 2]
  | .mulhiI64 d a _ b _ => [.aligned d 2, .aligned a 2, .aligned b 2]
  | .mulhiN64 d a _ b _ => [.aligned d 2, .aligned a 2, .aligned b 2]
  | .divI64 d a _ b _ => [.aligned d 2, .aligned a 2, .aligned b 2]
  | .divN64 d a _ b _ => [.aligned d 2, .aligned a 2, .aligned b 2]
  | .remI64 d a _ b _ => [.aligned d 2, .aligned a 2, .aligned b 2]
  | .remN64 d a _ b _ => [.aligned d 2, .aligned a 2, .aligned b 2]
  | .minI64 d a _ b _ => [.aligned d 2, .aligned a 2, .aligned b 2]
  | .minN64 d a _ b _ => [.aligned d 2, .aligned a 2, .aligned b 2]
  | .maxI64 d a _ b _ => [.aligned d 2, .aligned a 2, .aligned b 2]
  | .maxN64 d a _ b _ => [.aligned d 2, .aligned a 2, .aligned b 2]
  | .abs64 d a _ => [.aligned d 2, .aligned a 2]
  | .neg64 d a _ => [.aligned d 2, .aligned a 2]
  | .and64 d a _ b _ => [.aligned d 2, .aligned a 2, .aligned b 2]
  | .or64 d a _ b _ => [.aligned d 2, .aligned a 2, .aligned b 2]
  | .xor64 d a _ b _ => [.aligned d 2, .aligned a 2, .aligned b 2]
  | .andn64 d a _ b _ => [.aligned d 2, .aligned a 2, .aligned b 2]
  | .not64 d a _ => [.aligned d 2, .aligned a 2]
  | .shl64 d a _ _ _ => [.aligned d 2, .aligned a 2]
  | .shr64 d a _ _ _ => [.aligned d 2, .aligned a 2]
  | .shra64 d a _ _ _ => [.aligned d 2, .aligned a 2]
  | .rot64 d a _ _ _ => [.aligned d 2, .aligned a 2]
  | .popc64 _ a _ => [.aligned a 2]
  | .clz64 _ a _ => [.aligned a 2]
  | .ctz64 _ a _ => [.aligned a 2]
  | .brev64 d a _ => [.aligned d 2, .aligned a 2]
  | .mov64 d a _ => [.aligned d 2, .aligned a 2]
  | .bfxI64 d a _ _ _ => [.aligned d 2, .aligned a 2]
  | .bfxN64 d a _ _ _ => [.aligned d 2, .aligned a 2]
  | .addc _ _ _ _ _ p => [.written p]
  | .subb _ _ _ _ _ p => [.written p]
  | .sel _ _ _ _ _ p => [.written p]
  | .lea d a _ _ _ _ _ => [.aligned d 2, .aligned a 2]
  | .bfi _ _ _ _ _ _ => []
  | .mad32 _ _ _ _ _ _ => []
  | .mad64 d a _ b _ c => [.aligned d 2, .aligned a 2, .aligned b 2, .aligned c 2]
  | .addI32Imm _ _ _ _ => []
  | .andImm _ _ _ _ => []
  | .orImm _ _ _ _ => []
  | .xorImm _ _ _ _ => []
  | .shlImm d a _ w n => [.aligned d (1 + w.toNat), .aligned a (1 + w.toNat), .below n (32 * (1 + w.toNat))]
  | .shrImm d a _ w n => [.aligned d (1 + w.toNat), .aligned a (1 + w.toNat), .below n (32 * (1 + w.toNat))]
  | .shraImm d a _ w n => [.aligned d (1 + w.toNat), .aligned a (1 + w.toNat), .below n (32 * (1 + w.toNat))]
  | .rotImm d a _ w n => [.aligned d (1 + w.toNat), .aligned a (1 + w.toNat), .below n (32 * (1 + w.toNat))]
  | .movi _ _ => []
  | .addI64Imm d a _ _ => [.aligned d 2, .aligned a 2]
  | .faddF32 _ _ _ _ _ => []
  | .fsubF32 _ _ _ _ _ => []
  | .fmulF32 _ _ _ _ _ => []
  | .fminF32 _ _ _ _ _ => []
  | .fmaxF32 _ _ _ _ _ => []
  | .fdivF32 _ _ _ _ _ => []
  | .fsqrtF32 _ _ _ => []
  | .frcpF32 _ _ _ => []
  | .frsqF32 _ _ _ => []
  | .fexp2F32 _ _ _ => []
  | .flog2F32 _ _ _ => []
  | .fsinF32 _ _ _ => []
  | .fcosF32 _ _ _ => []
  | .fabsF32 _ _ _ => []
  | .fnegF32 _ _ _ => []
  | .fclassF32 _ _ _ => []
  | .fscaleF32 _ _ _ _ _ => []
  | .frintF32 _ _ _ => []
  | .faddF64 d a _ b _ => [.aligned d 2, .aligned a 2, .aligned b 2]
  | .fsubF64 d a _ b _ => [.aligned d 2, .aligned a 2, .aligned b 2]
  | .fmulF64 d a _ b _ => [.aligned d 2, .aligned a 2, .aligned b 2]
  | .fminF64 d a _ b _ => [.aligned d 2, .aligned a 2, .aligned b 2]
  | .fmaxF64 d a _ b _ => [.aligned d 2, .aligned a 2, .aligned b 2]
  | .fdivF64 d a _ b _ => [.aligned d 2, .aligned a 2, .aligned b 2]
  | .fsqrtF64 d a _ => [.aligned d 2, .aligned a 2]
  | .frcpF64 d a _ => [.aligned d 2, .aligned a 2]
  | .frsqF64 d a _ => [.aligned d 2, .aligned a 2]
  | .fexp2F64 d a _ => [.aligned d 2, .aligned a 2]
  | .flog2F64 d a _ => [.aligned d 2, .aligned a 2]
  | .fsinF64 d a _ => [.aligned d 2, .aligned a 2]
  | .fcosF64 d a _ => [.aligned d 2, .aligned a 2]
  | .fabsF64 d a _ => [.aligned d 2, .aligned a 2]
  | .fnegF64 d a _ => [.aligned d 2, .aligned a 2]
  | .fclassF64 _ a _ => [.aligned a 2]
  | .fscaleF64 d a _ _ _ => [.aligned d 2, .aligned a 2]
  | .frintF64 d a _ => [.aligned d 2, .aligned a 2]
  | .faddF16 _ _ _ _ _ => []
  | .fsubF16 _ _ _ _ _ => []
  | .fmulF16 _ _ _ _ _ => []
  | .fminF16 _ _ _ _ _ => []
  | .fmaxF16 _ _ _ _ _ => []
  | .fabsF16 _ _ _ => []
  | .fnegF16 _ _ _ => []
  | .fclassF16 _ _ _ => []
  | .fscaleF16 _ _ _ _ _ => []
  | .frintF16 _ _ _ => []
  | .faddBf16 _ _ _ _ _ => []
  | .fsubBf16 _ _ _ _ _ => []
  | .fmulBf16 _ _ _ _ _ => []
  | .fminBf16 _ _ _ _ _ => []
  | .fmaxBf16 _ _ _ _ _ => []
  | .fabsBf16 _ _ _ => []
  | .fnegBf16 _ _ _ => []
  | .fclassBf16 _ _ _ => []
  | .fscaleBf16 _ _ _ _ _ => []
  | .frintBf16 _ _ _ => []
  | .ffmaF32 _ _ _ _ _ _ => []
  | .ffmaF64 d a _ b _ c => [.aligned d 2, .aligned a 2, .aligned b 2, .aligned c 2]
  | .ffmaF16 _ _ _ _ _ _ => []
  | .ffmaBf16 _ _ _ _ _ _ => []
  | .cvt _ _ _ _ _ _ => []
  | .cmp p _ a _ b _ o t => [.written p, .condition o t, .aligned a (typeRegs t), .aligned b (typeRegs t)]
  | .pand p _ a b => [.written p, .source a, .source b]
  | .por p _ a b => [.written p, .source a, .source b]
  | .pxor p _ a b => [.written p, .source a, .source b]
  | .pnot p _ a => [.written p, .source a]
  | .pmov p _ a => [.written p, .source a]
  | .br g s _ => [.guard g s]
  | .call g s _ => [.guard g s]
  | .brx a _ => [.aligned a 2]
  | .callx a _ => [.aligned a 2]
  | .ret => []
  | .exit => []
  | .yield => []
  | .waitk k _ => [.below k 6]
  | .trap _ => []
  | .softi q => [.softQueue q]
  | .cdeclRange _ _ _ => []
  | .cdeclMask d _ _ _ => [.aligned d 2]
  | .csign _ => []
  | .cwait _ => []
  | .xshfIdx _ _ _ _ _ _ => []
  | .xshfUp _ _ _ _ _ _ => []
  | .xshfDown _ _ _ _ _ _ => []
  | .xshfXor _ _ _ _ _ _ => []
  | .xbcast d a _ w _ _ => [.aligned d (1 + w.toNat), .aligned a (1 + w.toNat)]
  | .xred d a _ o _ => [.below o 14, .aligned d (if 0xB ≤ o then 2 else 1), .aligned a (if 0xB ≤ o then 2 else 1)]
  | .xscanInc d a _ o _ => [.below o 14, .aligned d (if 0xB ≤ o then 2 else 1), .aligned a (if 0xB ≤ o then 2 else 1)]
  | .xscanExc d a _ o _ => [.below o 14, .aligned d (if 0xB ≤ o then 2 else 1), .aligned a (if 0xB ≤ o then 2 else 1)]
  | .xvote d a o _ => [.source a, .below o 4, .aligned d (if o = 3 then 2 else 1)]
  | .mma _ _ _ _ _ _ => []
  | .mmas _ _ _ _ _ _ => []
  | .mmabXor _ _ _ _ _ _ => []
  | .mmabAnd _ _ _ _ _ _ => []
  | .mmac _ _ _ _ _ _ => []
  | .aczero _ => []
  | .acld _ _ _ => []
  | .acst _ _ _ => []
  | .acres _ _ _ _ _ => []
  | .accmp _ _ _ _ _ => []
  | .acmov _ _ => []
  | .ldGB32 _ a _ g s _ => [.guard g s, .aligned a 2]
  | .stGB32 _ a _ g s _ => [.guard g s, .aligned a 2]
  | .ldGB64 d a _ g s _ => [.guard g s, .aligned a 2, .aligned d 2]
  | .stGB64 d a _ g s _ => [.guard g s, .aligned a 2, .aligned d 2]
  | .ldSB32 _ _ _ g s _ => [.guard g s]
  | .stSB32 _ _ _ g s _ => [.guard g s]
  | .ldGeneral d a _ s g p z => [.guard g s, .below z 7, .aligned d (sizeRegs z), .aligned a (if p = 0 then 2 else 1)]
  | .stGeneral d a _ s g p z => [.guard g s, .below z 5, .below p 2, .aligned d (sizeRegs z), .aligned a (if p = 0 then 2 else 1)]
  | .atom d a _ p w o s => [.below o 10, .below s 6, .aligned d (1 + w.toNat), .aligned a (2 - p.toNat)]
  | .atomc d a _ p w s => [.below s 6, .aligned d (2 * (1 + w.toNat)), .aligned a (2 - p.toNat)]
  | .fence s => [.below s 6]
  | .waita d a _ p w s => [.below s 6, .aligned d (1 + w.toNat), .aligned a (2 - p.toNat)]
  | .wakea _ a _ p s => [.below s 6, .aligned a (2 - p.toNat)]
  | .cflush a _ => [.aligned a 2]
  | .cinv a _ => [.aligned a 2]
  | .pin _ a _ => [.aligned a 2]
  | .unpin _ a _ => [.aligned a 2]
  | .tcopy d _ _ e s => [.aligned d 8, .space e, .space s]
  | .tcast d _ _ s => [.aligned d 8, .space s]
  | .tredBf16 d _ _ e s => [.aligned d 8, .below e 2, .space s]
  | .tredF32 d _ _ e s => [.aligned d 8, .below e 2, .space s]
  | .aLoop _ => []
  | .aEnd => []
  | .aAddr d a _ => [.below d 8, .below a 4]
  | .aLdq d a s r => [.below d 8, .below a 8, .zero (r = 0) s]
  | .aLdwq d a s r => [.below d 8, .below a 8, .zero (r = 0) s]
  | .aWaitq d => [.below d 8]
  | .aSetq d _ => [.below d 8]
  | .aBase d a _ => [.below d 8, .below a 9]
  | .aExit => []
  | .qpop d a l _ z => [.aligned d (2 ^ (z - 1)), .zero (z = 0) d, .zero (z = 0) a, .zero (z = 0) l.toNat]
  | .qpeek d _ _ _ z => [.nonzero z, .aligned d (2 ^ (z - 1))]
  | .qpush _ _ _ => []
  | .isub d _ _ c r => [.below c 3, .below r 3, .aligned d (4 * 2 ^ r)]
  | .trace d _ _ => [.aligned d 8]
  | .reord d _ _ _ n => [.below n 9, .zero (n = 0) d]
  | .launch _ _ p => [.written p]
  | .svc d _ _ n _ => [.below n 3, .aligned d (2 * 2 ^ n)]
  | .crnInit d _ _ _ s => [.cairnScope s, .aligned d 2]
  | .crnFree _ _ => []
  | .crnExpect d _ _ => [.aligned d 2]
  | .crnArrive _ _ _ => []
  | .crnWait _ _ _ => []
  | .crnTest _ _ _ => []
  | .rdcyc d => [.aligned d 2]
  | .rngx d a _ b _ => [.aligned d 4, .aligned a 4, .aligned b 2]
  | .rngadd d a _ b _ k => [.aligned d 4, .aligned a 4, .aligned b (if k then 1 else 4)]
  | .movsr _ _ => []
  | .movrs _ _ _ => []
  | .eretResume _ _ _ => []
  | .eretSkip _ _ _ => []
  | .eretKill _ _ _ => []
  | .eretWrite _ _ _ => []
  | .eretRqrel _ _ _ => []
  | .eretRqcan _ _ _ => []
  | .eretDone _ _ _ => []
  | .halt _ _ _ => []
  | .imm _ => []
  | .mod _ _ _ _ _ _ _ => []
  | .live _ _ _ => []
  | .sched _ _ => []
  | .bundleReform => []
  | .threadPromotion => []
  | .resultWrite => []
  | .matrixStart => []
  | .matrixRetire => []
  | .storePerformed => []
  | .l1Fill => []
  | .hostAccess => []
  | .tableWalk => []
  | .uncorrectableError => []
  | .copySectorRequest => []
  | .copyDelivery => []
  | .queueSlotArrival => []
  | .islandContextBoundary => []
  | .islandAccept => []
  | .islandResult => []
  | .rasterHandoffRecord => []
  | .ridgelineEngineWake => []
  | .ridgelineJobAccept => []
  | .ridgelineJobEnd => []
  | .launchQueueWake => []
  | .launchQueueScan => []
  | .launchReleaseComplete => []
  | .launchDependenceTest => []
  | .teamPlace => []
  | .compactorMove => []
  | .reorderBatchForm => []
  | .serviceReply => []
  | .gridComplete => []
  | .handlerEntryOpen => []
  | .heldRecordPost => []
  | .preemptRequest => []
  | .teamFreeze => []
  | .preemptDeadline => []
  | .contextSaveComplete => []
  | .restoreGo => []
  | .goResumeFrozen => []
  | .contextCreate => []
  | .contextDestroy => []
  | .contextDestroyDone => []
  | .invalidatePage => []
  | .invalidateRange => []
  | .invalidateContext => []
  | .invalidationComplete => []
  | .scunp => []
  | .scunpDone => []
  | .imagePost => []
  | .imagePostDone => []
  | .keyInstall => []
  | .trimCounterClear => []
  | .fqcWrite => []
  | .registerWrite => []
  | .packetHeaderArrival => []
  | .reRequestWindow => []
  | .reRequest => []
  | .delivered => []
  | .chainReservation => []
  | .chainGrant => []
  | .chainData => []
  | .chainDone => []
  | .linkCrcFailure => []
  | .refreshSlot => []
  | .weightBankTurn => []
  | .clockLevelStep => []
  | .thermalTrip => []
  | .powerOnReset => []
  | .die0BringUp => []
  | .die1BringUp => []
  | .standardImagePost => []
  | .lockInterfaceRequest => []
  | .stopInterfaceRequest => []
  | .endSession => []
  | .heartbeatLapse => []
  | .getMeasurements => []
  | .setCertificate => []
  | .accumulatorInstructionFinish => []
  | .tdiEntersError => []
  | .startInterfaceRequest => []

/-- The instruction a word stands for: the seven actions of ERET share one word, and register A names the action (R376). -/
def Instr.canon : Instr → Instr
  | .eretSkip d a l => .eretResume d a l
  | .eretKill d a l => .eretResume d a l
  | .eretWrite d a l => .eretResume d a l
  | .eretRqrel d a l => .eretResume d a l
  | .eretRqcan d a l => .eretResume d a l
  | .eretDone d a l => .eretResume d a l
  | i => i

/-- The first flaw of an instruction, none for a well-formed one. -/
def Instr.flaw (i : Instr) : Option Flaw :=
  if i.isEvent then some .event
  else if ! i.fits then some .width
  else (i.checks.find? fun c => ! c.ok).map Check.flaw

/-- Whether an instruction is one that a word stands for. -/
def Instr.wellFormed (i : Instr) : Bool := ! i.isEvent && i.fits && i.checks.all Check.ok

end Sys2Proof
end

