-- ==== Sys2Proof/Decode.lean ====
section
/-! DEFINITION. From bytes to an instruction and back (R93, R95, R104 to R111, R374): the decoder, total on any bytes and rejecting by
name, and the encoder. -/

namespace Sys2Proof

/-- Why bytes are not an instruction. -/
inductive Reject where
  /-- Fewer than four bytes. -/
  | truncated
  /-- No row of the opcode map has the word (R104, R113). -/
  | noRow
  /-- A row has the word, and a field of it is illegal (R113). -/
  | flawed (f : Flaw)
  deriving DecidableEq, Repr

/-- A field of a word: n bits at bit lo. -/
def fld (w lo n : Nat) : Nat := w / 2 ^ lo % 2 ^ n

/-- A one-bit field of a word. -/
def flag (w k : Nat) : Bool := w / 2 ^ k % 2 == 1

/-- The rows of major 0x00. -/
def decodeMajor00 (w : Nat) : Option Instr :=
  if fld w 0 26 = 0 then some (.ill)
  else none

/-- The rows of major 0x01. -/
def decodeMajor01 (w : Nat) : Option Instr :=
  if fld w 0 6 = 0 then some (.addI32 (fld w 20 6) (fld w 14 6) (flag w 13) (fld w 7 6) (flag w 6))
  else if fld w 0 6 = 1 then some (.addN32 (fld w 20 6) (fld w 14 6) (flag w 13) (fld w 7 6) (flag w 6))
  else if fld w 0 6 = 2 then some (.subI32 (fld w 20 6) (fld w 14 6) (flag w 13) (fld w 7 6) (flag w 6))
  else if fld w 0 6 = 3 then some (.subN32 (fld w 20 6) (fld w 14 6) (flag w 13) (fld w 7 6) (flag w 6))
  else if fld w 0 6 = 4 then some (.mullo32 (fld w 20 6) (fld w 14 6) (flag w 13) (fld w 7 6) (flag w 6))
  else if fld w 0 6 = 5 then some (.mulhiI32 (fld w 20 6) (fld w 14 6) (flag w 13) (fld w 7 6) (flag w 6))
  else if fld w 0 6 = 6 then some (.mulhiN32 (fld w 20 6) (fld w 14 6) (flag w 13) (fld w 7 6) (flag w 6))
  else if fld w 0 6 = 7 then some (.divI32 (fld w 20 6) (fld w 14 6) (flag w 13) (fld w 7 6) (flag w 6))
  else if fld w 0 6 = 8 then some (.divN32 (fld w 20 6) (fld w 14 6) (flag w 13) (fld w 7 6) (flag w 6))
  else if fld w 0 6 = 9 then some (.remI32 (fld w 20 6) (fld w 14 6) (flag w 13) (fld w 7 6) (flag w 6))
  else if fld w 0 6 = 10 then some (.remN32 (fld w 20 6) (fld w 14 6) (flag w 13) (fld w 7 6) (flag w 6))
  else if fld w 0 6 = 11 then some (.minI32 (fld w 20 6) (fld w 14 6) (flag w 13) (fld w 7 6) (flag w 6))
  else if fld w 0 6 = 12 then some (.minN32 (fld w 20 6) (fld w 14 6) (flag w 13) (fld w 7 6) (flag w 6))
  else if fld w 0 6 = 13 then some (.maxI32 (fld w 20 6) (fld w 14 6) (flag w 13) (fld w 7 6) (flag w 6))
  else if fld w 0 6 = 14 then some (.maxN32 (fld w 20 6) (fld w 14 6) (flag w 13) (fld w 7 6) (flag w 6))
  else if fld w 0 13 = 15 then some (.abs32 (fld w 20 6) (fld w 14 6) (flag w 13))
  else if fld w 0 13 = 16 then some (.neg32 (fld w 20 6) (fld w 14 6) (flag w 13))
  else if fld w 0 6 = 17 then some (.and32 (fld w 20 6) (fld w 14 6) (flag w 13) (fld w 7 6) (flag w 6))
  else if fld w 0 6 = 18 then some (.or32 (fld w 20 6) (fld w 14 6) (flag w 13) (fld w 7 6) (flag w 6))
  else if fld w 0 6 = 19 then some (.xor32 (fld w 20 6) (fld w 14 6) (flag w 13) (fld w 7 6) (flag w 6))
  else if fld w 0 6 = 20 then some (.andn32 (fld w 20 6) (fld w 14 6) (flag w 13) (fld w 7 6) (flag w 6))
  else if fld w 0 13 = 21 then some (.not32 (fld w 20 6) (fld w 14 6) (flag w 13))
  else if fld w 0 6 = 22 then some (.shl32 (fld w 20 6) (fld w 14 6) (flag w 13) (fld w 7 6) (flag w 6))
  else if fld w 0 6 = 23 then some (.shr32 (fld w 20 6) (fld w 14 6) (flag w 13) (fld w 7 6) (flag w 6))
  else if fld w 0 6 = 24 then some (.shra32 (fld w 20 6) (fld w 14 6) (flag w 13) (fld w 7 6) (flag w 6))
  else if fld w 0 6 = 25 then some (.rot32 (fld w 20 6) (fld w 14 6) (flag w 13) (fld w 7 6) (flag w 6))
  else if fld w 0 13 = 26 then some (.popc32 (fld w 20 6) (fld w 14 6) (flag w 13))
  else if fld w 0 13 = 27 then some (.clz32 (fld w 20 6) (fld w 14 6) (flag w 13))
  else if fld w 0 13 = 28 then some (.ctz32 (fld w 20 6) (fld w 14 6) (flag w 13))
  else if fld w 0 13 = 29 then some (.brev32 (fld w 20 6) (fld w 14 6) (flag w 13))
  else if fld w 0 6 = 30 then some (.permb (fld w 20 6) (fld w 14 6) (flag w 13) (fld w 7 6) (flag w 6))
  else if fld w 0 13 = 31 then some (.mov32 (fld w 20 6) (fld w 14 6) (flag w 13))
  else if fld w 0 6 = 32 then some (.bfxI32 (fld w 20 6) (fld w 14 6) (flag w 13) (fld w 7 6) (flag w 6))
  else if fld w 0 6 = 33 then some (.bfxN32 (fld w 20 6) (fld w 14 6) (flag w 13) (fld w 7 6) (flag w 6))
  else none

/-- The rows of major 0x02. -/
def decodeMajor02 (w : Nat) : Option Instr :=
  if fld w 0 6 = 0 then some (.addI64 (fld w 20 6) (fld w 14 6) (flag w 13) (fld w 7 6) (flag w 6))
  else if fld w 0 6 = 1 then some (.addN64 (fld w 20 6) (fld w 14 6) (flag w 13) (fld w 7 6) (flag w 6))
  else if fld w 0 6 = 2 then some (.subI64 (fld w 20 6) (fld w 14 6) (flag w 13) (fld w 7 6) (flag w 6))
  else if fld w 0 6 = 3 then some (.subN64 (fld w 20 6) (fld w 14 6) (flag w 13) (fld w 7 6) (flag w 6))
  else if fld w 0 6 = 4 then some (.mullo64 (fld w 20 6) (fld w 14 6) (flag w 13) (fld w 7 6) (flag w 6))
  else if fld w 0 6 = 5 then some (.mulhiI64 (fld w 20 6) (fld w 14 6) (flag w 13) (fld w 7 6) (flag w 6))
  else if fld w 0 6 = 6 then some (.mulhiN64 (fld w 20 6) (fld w 14 6) (flag w 13) (fld w 7 6) (flag w 6))
  else if fld w 0 6 = 7 then some (.divI64 (fld w 20 6) (fld w 14 6) (flag w 13) (fld w 7 6) (flag w 6))
  else if fld w 0 6 = 8 then some (.divN64 (fld w 20 6) (fld w 14 6) (flag w 13) (fld w 7 6) (flag w 6))
  else if fld w 0 6 = 9 then some (.remI64 (fld w 20 6) (fld w 14 6) (flag w 13) (fld w 7 6) (flag w 6))
  else if fld w 0 6 = 10 then some (.remN64 (fld w 20 6) (fld w 14 6) (flag w 13) (fld w 7 6) (flag w 6))
  else if fld w 0 6 = 11 then some (.minI64 (fld w 20 6) (fld w 14 6) (flag w 13) (fld w 7 6) (flag w 6))
  else if fld w 0 6 = 12 then some (.minN64 (fld w 20 6) (fld w 14 6) (flag w 13) (fld w 7 6) (flag w 6))
  else if fld w 0 6 = 13 then some (.maxI64 (fld w 20 6) (fld w 14 6) (flag w 13) (fld w 7 6) (flag w 6))
  else if fld w 0 6 = 14 then some (.maxN64 (fld w 20 6) (fld w 14 6) (flag w 13) (fld w 7 6) (flag w 6))
  else if fld w 0 13 = 15 then some (.abs64 (fld w 20 6) (fld w 14 6) (flag w 13))
  else if fld w 0 13 = 16 then some (.neg64 (fld w 20 6) (fld w 14 6) (flag w 13))
  else if fld w 0 6 = 17 then some (.and64 (fld w 20 6) (fld w 14 6) (flag w 13) (fld w 7 6) (flag w 6))
  else if fld w 0 6 = 18 then some (.or64 (fld w 20 6) (fld w 14 6) (flag w 13) (fld w 7 6) (flag w 6))
  else if fld w 0 6 = 19 then some (.xor64 (fld w 20 6) (fld w 14 6) (flag w 13) (fld w 7 6) (flag w 6))
  else if fld w 0 6 = 20 then some (.andn64 (fld w 20 6) (fld w 14 6) (flag w 13) (fld w 7 6) (flag w 6))
  else if fld w 0 13 = 21 then some (.not64 (fld w 20 6) (fld w 14 6) (flag w 13))
  else if fld w 0 6 = 22 then some (.shl64 (fld w 20 6) (fld w 14 6) (flag w 13) (fld w 7 6) (flag w 6))
  else if fld w 0 6 = 23 then some (.shr64 (fld w 20 6) (fld w 14 6) (flag w 13) (fld w 7 6) (flag w 6))
  else if fld w 0 6 = 24 then some (.shra64 (fld w 20 6) (fld w 14 6) (flag w 13) (fld w 7 6) (flag w 6))
  else if fld w 0 6 = 25 then some (.rot64 (fld w 20 6) (fld w 14 6) (flag w 13) (fld w 7 6) (flag w 6))
  else if fld w 0 13 = 26 then some (.popc64 (fld w 20 6) (fld w 14 6) (flag w 13))
  else if fld w 0 13 = 27 then some (.clz64 (fld w 20 6) (fld w 14 6) (flag w 13))
  else if fld w 0 13 = 28 then some (.ctz64 (fld w 20 6) (fld w 14 6) (flag w 13))
  else if fld w 0 13 = 29 then some (.brev64 (fld w 20 6) (fld w 14 6) (flag w 13))
  else if fld w 0 13 = 31 then some (.mov64 (fld w 20 6) (fld w 14 6) (flag w 13))
  else if fld w 0 6 = 32 then some (.bfxI64 (fld w 20 6) (fld w 14 6) (flag w 13) (fld w 7 6) (flag w 6))
  else if fld w 0 6 = 33 then some (.bfxN64 (fld w 20 6) (fld w 14 6) (flag w 13) (fld w 7 6) (flag w 6))
  else none

/-- The rows of major 0x03. -/
def decodeMajor03 (w : Nat) : Option Instr :=
  if fld w 0 2 = 0 then some (.addc (fld w 20 6) (fld w 14 6) (flag w 13) (fld w 7 6) (flag w 6) (fld w 2 4))
  else if fld w 0 2 = 1 then some (.subb (fld w 20 6) (fld w 14 6) (flag w 13) (fld w 7 6) (flag w 6) (fld w 2 4))
  else if fld w 0 2 = 2 then some (.sel (fld w 20 6) (fld w 14 6) (flag w 13) (fld w 7 6) (flag w 6) (fld w 2 4))
  else none

/-- The rows of major 0x04. -/
def decodeMajor04 (w : Nat) : Option Instr :=
  if fld w 4 2 = 0 then some (.lea (fld w 20 6) (fld w 14 6) (flag w 13) (fld w 7 6) (flag w 6) (flag w 3) (fld w 0 3))
  else none

/-- The rows of major 0x05. -/
def decodeMajor05 (w : Nat) : Option Instr :=
  some (.bfi (fld w 20 6) (fld w 14 6) (flag w 13) (fld w 7 6) (flag w 6) (fld w 0 6))

/-- The rows of major 0x06. -/
def decodeMajor06 (w : Nat) : Option Instr :=
  some (.mad32 (fld w 20 6) (fld w 14 6) (flag w 13) (fld w 7 6) (flag w 6) (fld w 0 6))

/-- The rows of major 0x07. -/
def decodeMajor07 (w : Nat) : Option Instr :=
  some (.mad64 (fld w 20 6) (fld w 14 6) (flag w 13) (fld w 7 6) (flag w 6) (fld w 0 6))

/-- The rows of major 0x08. -/
def decodeMajor08 (w : Nat) : Option Instr :=
  some (.addI32Imm (fld w 20 6) (fld w 14 6) (flag w 13) (fld w 0 13))

/-- The rows of major 0x09. -/
def decodeMajor09 (w : Nat) : Option Instr :=
  some (.andImm (fld w 20 6) (fld w 14 6) (flag w 13) (fld w 0 13))

/-- The rows of major 0x0A. -/
def decodeMajor0a (w : Nat) : Option Instr :=
  some (.orImm (fld w 20 6) (fld w 14 6) (flag w 13) (fld w 0 13))

/-- The rows of major 0x0B. -/
def decodeMajor0b (w : Nat) : Option Instr :=
  some (.xorImm (fld w 20 6) (fld w 14 6) (flag w 13) (fld w 0 13))

/-- The rows of major 0x0C. -/
def decodeMajor0c (w : Nat) : Option Instr :=
  if fld w 6 4 = 0 ∧ fld w 11 2 = 0 then some (.shlImm (fld w 20 6) (fld w 14 6) (flag w 13) (flag w 10) (fld w 0 6))
  else if fld w 6 4 = 0 ∧ fld w 11 2 = 1 then some (.shrImm (fld w 20 6) (fld w 14 6) (flag w 13) (flag w 10) (fld w 0 6))
  else if fld w 6 4 = 0 ∧ fld w 11 2 = 2 then some (.shraImm (fld w 20 6) (fld w 14 6) (flag w 13) (flag w 10) (fld w 0 6))
  else if fld w 6 4 = 0 ∧ fld w 11 2 = 3 then some (.rotImm (fld w 20 6) (fld w 14 6) (flag w 13) (flag w 10) (fld w 0 6))
  else none

/-- The rows of major 0x0D. -/
def decodeMajor0d (w : Nat) : Option Instr :=
  if fld w 13 7 = 0 then some (.movi (fld w 20 6) (fld w 0 13))
  else none

/-- The rows of major 0x0E. -/
def decodeMajor0e (w : Nat) : Option Instr :=
  some (.addI64Imm (fld w 20 6) (fld w 14 6) (flag w 13) (fld w 0 13))

/-- The rows of major 0x10. -/
def decodeMajor10 (w : Nat) : Option Instr :=
  if fld w 0 6 = 0 then some (.faddF32 (fld w 20 6) (fld w 14 6) (flag w 13) (fld w 7 6) (flag w 6))
  else if fld w 0 6 = 1 then some (.fsubF32 (fld w 20 6) (fld w 14 6) (flag w 13) (fld w 7 6) (flag w 6))
  else if fld w 0 6 = 2 then some (.fmulF32 (fld w 20 6) (fld w 14 6) (flag w 13) (fld w 7 6) (flag w 6))
  else if fld w 0 6 = 3 then some (.fminF32 (fld w 20 6) (fld w 14 6) (flag w 13) (fld w 7 6) (flag w 6))
  else if fld w 0 6 = 4 then some (.fmaxF32 (fld w 20 6) (fld w 14 6) (flag w 13) (fld w 7 6) (flag w 6))
  else if fld w 0 6 = 5 then some (.fdivF32 (fld w 20 6) (fld w 14 6) (flag w 13) (fld w 7 6) (flag w 6))
  else if fld w 0 13 = 6 then some (.fsqrtF32 (fld w 20 6) (fld w 14 6) (flag w 13))
  else if fld w 0 13 = 7 then some (.frcpF32 (fld w 20 6) (fld w 14 6) (flag w 13))
  else if fld w 0 13 = 8 then some (.frsqF32 (fld w 20 6) (fld w 14 6) (flag w 13))
  else if fld w 0 13 = 9 then some (.fexp2F32 (fld w 20 6) (fld w 14 6) (flag w 13))
  else if fld w 0 13 = 10 then some (.flog2F32 (fld w 20 6) (fld w 14 6) (flag w 13))
  else if fld w 0 13 = 11 then some (.fsinF32 (fld w 20 6) (fld w 14 6) (flag w 13))
  else if fld w 0 13 = 12 then some (.fcosF32 (fld w 20 6) (fld w 14 6) (flag w 13))
  else if fld w 0 13 = 13 then some (.fabsF32 (fld w 20 6) (fld w 14 6) (flag w 13))
  else if fld w 0 13 = 14 then some (.fnegF32 (fld w 20 6) (fld w 14 6) (flag w 13))
  else if fld w 0 13 = 15 then some (.fclassF32 (fld w 20 6) (fld w 14 6) (flag w 13))
  else if fld w 0 6 = 16 then some (.fscaleF32 (fld w 20 6) (fld w 14 6) (flag w 13) (fld w 7 6) (flag w 6))
  else if fld w 0 13 = 17 then some (.frintF32 (fld w 20 6) (fld w 14 6) (flag w 13))
  else none

/-- The rows of major 0x11. -/
def decodeMajor11 (w : Nat) : Option Instr :=
  if fld w 0 6 = 0 then some (.faddF64 (fld w 20 6) (fld w 14 6) (flag w 13) (fld w 7 6) (flag w 6))
  else if fld w 0 6 = 1 then some (.fsubF64 (fld w 20 6) (fld w 14 6) (flag w 13) (fld w 7 6) (flag w 6))
  else if fld w 0 6 = 2 then some (.fmulF64 (fld w 20 6) (fld w 14 6) (flag w 13) (fld w 7 6) (flag w 6))
  else if fld w 0 6 = 3 then some (.fminF64 (fld w 20 6) (fld w 14 6) (flag w 13) (fld w 7 6) (flag w 6))
  else if fld w 0 6 = 4 then some (.fmaxF64 (fld w 20 6) (fld w 14 6) (flag w 13) (fld w 7 6) (flag w 6))
  else if fld w 0 6 = 5 then some (.fdivF64 (fld w 20 6) (fld w 14 6) (flag w 13) (fld w 7 6) (flag w 6))
  else if fld w 0 13 = 6 then some (.fsqrtF64 (fld w 20 6) (fld w 14 6) (flag w 13))
  else if fld w 0 13 = 7 then some (.frcpF64 (fld w 20 6) (fld w 14 6) (flag w 13))
  else if fld w 0 13 = 8 then some (.frsqF64 (fld w 20 6) (fld w 14 6) (flag w 13))
  else if fld w 0 13 = 9 then some (.fexp2F64 (fld w 20 6) (fld w 14 6) (flag w 13))
  else if fld w 0 13 = 10 then some (.flog2F64 (fld w 20 6) (fld w 14 6) (flag w 13))
  else if fld w 0 13 = 11 then some (.fsinF64 (fld w 20 6) (fld w 14 6) (flag w 13))
  else if fld w 0 13 = 12 then some (.fcosF64 (fld w 20 6) (fld w 14 6) (flag w 13))
  else if fld w 0 13 = 13 then some (.fabsF64 (fld w 20 6) (fld w 14 6) (flag w 13))
  else if fld w 0 13 = 14 then some (.fnegF64 (fld w 20 6) (fld w 14 6) (flag w 13))
  else if fld w 0 13 = 15 then some (.fclassF64 (fld w 20 6) (fld w 14 6) (flag w 13))
  else if fld w 0 6 = 16 then some (.fscaleF64 (fld w 20 6) (fld w 14 6) (flag w 13) (fld w 7 6) (flag w 6))
  else if fld w 0 13 = 17 then some (.frintF64 (fld w 20 6) (fld w 14 6) (flag w 13))
  else none

/-- The rows of major 0x12. -/
def decodeMajor12 (w : Nat) : Option Instr :=
  if fld w 0 6 = 0 then some (.faddF16 (fld w 20 6) (fld w 14 6) (flag w 13) (fld w 7 6) (flag w 6))
  else if fld w 0 6 = 1 then some (.fsubF16 (fld w 20 6) (fld w 14 6) (flag w 13) (fld w 7 6) (flag w 6))
  else if fld w 0 6 = 2 then some (.fmulF16 (fld w 20 6) (fld w 14 6) (flag w 13) (fld w 7 6) (flag w 6))
  else if fld w 0 6 = 3 then some (.fminF16 (fld w 20 6) (fld w 14 6) (flag w 13) (fld w 7 6) (flag w 6))
  else if fld w 0 6 = 4 then some (.fmaxF16 (fld w 20 6) (fld w 14 6) (flag w 13) (fld w 7 6) (flag w 6))
  else if fld w 0 13 = 13 then some (.fabsF16 (fld w 20 6) (fld w 14 6) (flag w 13))
  else if fld w 0 13 = 14 then some (.fnegF16 (fld w 20 6) (fld w 14 6) (flag w 13))
  else if fld w 0 13 = 15 then some (.fclassF16 (fld w 20 6) (fld w 14 6) (flag w 13))
  else if fld w 0 6 = 16 then some (.fscaleF16 (fld w 20 6) (fld w 14 6) (flag w 13) (fld w 7 6) (flag w 6))
  else if fld w 0 13 = 17 then some (.frintF16 (fld w 20 6) (fld w 14 6) (flag w 13))
  else none

/-- The rows of major 0x13. -/
def decodeMajor13 (w : Nat) : Option Instr :=
  if fld w 0 6 = 0 then some (.faddBf16 (fld w 20 6) (fld w 14 6) (flag w 13) (fld w 7 6) (flag w 6))
  else if fld w 0 6 = 1 then some (.fsubBf16 (fld w 20 6) (fld w 14 6) (flag w 13) (fld w 7 6) (flag w 6))
  else if fld w 0 6 = 2 then some (.fmulBf16 (fld w 20 6) (fld w 14 6) (flag w 13) (fld w 7 6) (flag w 6))
  else if fld w 0 6 = 3 then some (.fminBf16 (fld w 20 6) (fld w 14 6) (flag w 13) (fld w 7 6) (flag w 6))
  else if fld w 0 6 = 4 then some (.fmaxBf16 (fld w 20 6) (fld w 14 6) (flag w 13) (fld w 7 6) (flag w 6))
  else if fld w 0 13 = 13 then some (.fabsBf16 (fld w 20 6) (fld w 14 6) (flag w 13))
  else if fld w 0 13 = 14 then some (.fnegBf16 (fld w 20 6) (fld w 14 6) (flag w 13))
  else if fld w 0 13 = 15 then some (.fclassBf16 (fld w 20 6) (fld w 14 6) (flag w 13))
  else if fld w 0 6 = 16 then some (.fscaleBf16 (fld w 20 6) (fld w 14 6) (flag w 13) (fld w 7 6) (flag w 6))
  else if fld w 0 13 = 17 then some (.frintBf16 (fld w 20 6) (fld w 14 6) (flag w 13))
  else none

/-- The rows of major 0x14. -/
def decodeMajor14 (w : Nat) : Option Instr :=
  some (.ffmaF32 (fld w 20 6) (fld w 14 6) (flag w 13) (fld w 7 6) (flag w 6) (fld w 0 6))

/-- The rows of major 0x15. -/
def decodeMajor15 (w : Nat) : Option Instr :=
  some (.ffmaF64 (fld w 20 6) (fld w 14 6) (flag w 13) (fld w 7 6) (flag w 6) (fld w 0 6))

/-- The rows of major 0x16. -/
def decodeMajor16 (w : Nat) : Option Instr :=
  some (.ffmaF16 (fld w 20 6) (fld w 14 6) (flag w 13) (fld w 7 6) (flag w 6) (fld w 0 6))

/-- The rows of major 0x17. -/
def decodeMajor17 (w : Nat) : Option Instr :=
  some (.ffmaBf16 (fld w 20 6) (fld w 14 6) (flag w 13) (fld w 7 6) (flag w 6) (fld w 0 6))

/-- The rows of major 0x18. -/
def decodeMajor18 (w : Nat) : Option Instr :=
  if fld w 3 3 = 0 then some (.cvt (fld w 20 6) (fld w 14 6) (flag w 13) (fld w 7 6) (flag w 6) (fld w 0 3))
  else none

/-- The rows of major 0x20. -/
def decodeMajor20 (w : Nat) : Option Instr :=
  some (.cmp (fld w 22 4) (fld w 20 2) (fld w 14 6) (flag w 13) (fld w 7 6) (flag w 6) (fld w 3 3) (fld w 0 3))

/-- The rows of major 0x21. -/
def decodeMajor21 (w : Nat) : Option Instr :=
  if fld w 0 7 = 0 ∧ fld w 11 3 = 0 ∧ fld w 18 2 = 0 then some (.pand (fld w 22 4) (fld w 20 2) (fld w 14 4) (fld w 7 4))
  else if fld w 0 7 = 1 ∧ fld w 11 3 = 0 ∧ fld w 18 2 = 0 then some (.por (fld w 22 4) (fld w 20 2) (fld w 14 4) (fld w 7 4))
  else if fld w 0 7 = 2 ∧ fld w 11 3 = 0 ∧ fld w 18 2 = 0 then some (.pxor (fld w 22 4) (fld w 20 2) (fld w 14 4) (fld w 7 4))
  else if fld w 0 14 = 1539 ∧ fld w 18 2 = 0 then some (.pnot (fld w 22 4) (fld w 20 2) (fld w 14 4))
  else if fld w 0 14 = 1540 ∧ fld w 18 2 = 0 then some (.pmov (fld w 22 4) (fld w 20 2) (fld w 14 4))
  else none

/-- The rows of major 0x22. -/
def decodeMajor22 (w : Nat) : Option Instr :=
  some (.br (fld w 22 4) (flag w 21) (fld w 0 21))

/-- The rows of major 0x23. -/
def decodeMajor23 (w : Nat) : Option Instr :=
  some (.call (fld w 22 4) (flag w 21) (fld w 0 21))

/-- The rows of major 0x24. -/
def decodeMajor24 (w : Nat) : Option Instr :=
  if fld w 0 13 = 0 ∧ fld w 20 6 = 0 then some (.brx (fld w 14 6) (flag w 13))
  else if fld w 0 13 = 1024 ∧ fld w 20 6 = 0 then some (.callx (fld w 14 6) (flag w 13))
  else if fld w 0 26 = 2048 then some (.ret)
  else if fld w 0 26 = 3072 then some (.exit)
  else if fld w 0 26 = 4096 then some (.yield)
  else if fld w 6 1 = 0 ∧ fld w 10 16 = 5 then some (.waitk (fld w 7 3) (fld w 0 6))
  else if fld w 10 16 = 6 then some (.trap (fld w 0 10))
  else if fld w 10 16 = 7 then some (.softi (fld w 0 10))
  else none

/-- The rows of major 0x28. -/
def decodeMajor28 (w : Nat) : Option Instr :=
  if fld w 0 3 = 0 ∧ fld w 7 6 = 0 ∧ fld w 20 6 = 0 then some (.cdeclRange (fld w 14 6) (flag w 13) (fld w 3 4))
  else if fld w 0 3 = 1 ∧ fld w 7 6 = 0 then some (.cdeclMask (fld w 20 6) (fld w 14 6) (flag w 13) (fld w 3 4))
  else if fld w 0 3 = 2 ∧ fld w 7 19 = 0 then some (.csign (fld w 3 4))
  else if fld w 0 3 = 3 ∧ fld w 7 19 = 0 then some (.cwait (fld w 3 4))
  else none

/-- The rows of major 0x29. -/
def decodeMajor29 (w : Nat) : Option Instr :=
  if fld w 0 2 = 0 then some (.xshfIdx (fld w 20 6) (fld w 14 6) (flag w 13) (fld w 7 6) (flag w 6) (fld w 2 4))
  else if fld w 0 2 = 1 then some (.xshfUp (fld w 20 6) (fld w 14 6) (flag w 13) (fld w 7 6) (flag w 6) (fld w 2 4))
  else if fld w 0 2 = 2 then some (.xshfDown (fld w 20 6) (fld w 14 6) (flag w 13) (fld w 7 6) (flag w 6) (fld w 2 4))
  else if fld w 0 2 = 3 then some (.xshfXor (fld w 20 6) (fld w 14 6) (flag w 13) (fld w 7 6) (flag w 6) (fld w 2 4))
  else none

/-- The rows of major 0x2A. -/
def decodeMajor2a (w : Nat) : Option Instr :=
  if fld w 0 2 = 0 ∧ fld w 8 5 = 0 then some (.xbcast (fld w 20 6) (fld w 14 6) (flag w 13) (flag w 7) (flag w 6) (fld w 2 4))
  else if fld w 0 2 = 0 ∧ fld w 10 3 = 1 then some (.xred (fld w 20 6) (fld w 14 6) (flag w 13) (fld w 6 4) (fld w 2 4))
  else if fld w 0 2 = 0 ∧ fld w 10 3 = 2 then some (.xscanInc (fld w 20 6) (fld w 14 6) (flag w 13) (fld w 6 4) (fld w 2 4))
  else if fld w 0 2 = 0 ∧ fld w 10 3 = 3 then some (.xscanExc (fld w 20 6) (fld w 14 6) (flag w 13) (fld w 6 4) (fld w 2 4))
  else if fld w 0 2 = 0 ∧ fld w 8 6 = 16 ∧ fld w 18 2 = 0 then some (.xvote (fld w 20 6) (fld w 14 4) (fld w 6 2) (fld w 2 4))
  else none

/-- The rows of major 0x2C. -/
def decodeMajor2c (w : Nat) : Option Instr :=
  if fld w 0 3 = 0 then some (.mma (fld w 20 6) (fld w 14 6) (flag w 13) (fld w 10 3) (fld w 6 4) (fld w 3 3))
  else if fld w 0 3 = 1 then some (.mmas (fld w 20 6) (fld w 14 6) (flag w 13) (fld w 10 3) (fld w 6 4) (fld w 3 3))
  else if fld w 0 3 = 2 then some (.mmabXor (fld w 20 6) (fld w 14 6) (flag w 13) (fld w 10 3) (fld w 6 4) (fld w 3 3))
  else if fld w 0 3 = 3 then some (.mmabAnd (fld w 20 6) (fld w 14 6) (flag w 13) (fld w 10 3) (fld w 6 4) (fld w 3 3))
  else if fld w 0 3 = 4 then some (.mmac (fld w 20 6) (fld w 14 6) (flag w 13) (fld w 10 3) (fld w 6 4) (fld w 3 3))
  else none

/-- The rows of major 0x2D. -/
def decodeMajor2d (w : Nat) : Option Instr :=
  if fld w 0 3 = 0 ∧ fld w 6 20 = 0 then some (.aczero (fld w 3 3))
  else if fld w 0 3 = 1 ∧ fld w 6 7 = 0 ∧ fld w 20 6 = 0 then some (.acld (fld w 14 6) (flag w 13) (fld w 3 3))
  else if fld w 0 3 = 2 ∧ fld w 6 7 = 0 ∧ fld w 20 6 = 0 then some (.acst (fld w 14 6) (flag w 13) (fld w 3 3))
  else if fld w 0 3 = 3 ∧ fld w 6 3 = 0 ∧ fld w 12 1 = 0 then some (.acres (fld w 20 6) (fld w 14 6) (flag w 13) (fld w 9 3) (fld w 3 3))
  else if fld w 0 3 = 4 ∧ fld w 9 4 = 0 then some (.accmp (fld w 20 6) (fld w 14 6) (flag w 13) (fld w 6 3) (fld w 3 3))
  else if fld w 0 3 = 5 ∧ fld w 9 17 = 0 then some (.acmov (fld w 6 3) (fld w 3 3))
  else none

/-- The rows of major 0x30. -/
def decodeMajor30 (w : Nat) : Option Instr :=
  some (.ldGB32 (fld w 20 6) (fld w 14 6) (flag w 13) (fld w 9 4) (flag w 8) (fld w 0 8))

/-- The rows of major 0x31. -/
def decodeMajor31 (w : Nat) : Option Instr :=
  some (.stGB32 (fld w 20 6) (fld w 14 6) (flag w 13) (fld w 9 4) (flag w 8) (fld w 0 8))

/-- The rows of major 0x32. -/
def decodeMajor32 (w : Nat) : Option Instr :=
  some (.ldGB64 (fld w 20 6) (fld w 14 6) (flag w 13) (fld w 9 4) (flag w 8) (fld w 0 8))

/-- The rows of major 0x33. -/
def decodeMajor33 (w : Nat) : Option Instr :=
  some (.stGB64 (fld w 20 6) (fld w 14 6) (flag w 13) (fld w 9 4) (flag w 8) (fld w 0 8))

/-- The rows of major 0x34. -/
def decodeMajor34 (w : Nat) : Option Instr :=
  some (.ldSB32 (fld w 20 6) (fld w 14 6) (flag w 13) (fld w 9 4) (flag w 8) (fld w 0 8))

/-- The rows of major 0x35. -/
def decodeMajor35 (w : Nat) : Option Instr :=
  some (.stSB32 (fld w 20 6) (fld w 14 6) (flag w 13) (fld w 9 4) (flag w 8) (fld w 0 8))

/-- The rows of major 0x36. -/
def decodeMajor36 (w : Nat) : Option Instr :=
  if fld w 5 1 = 0 ∧ fld w 11 2 = 0 then some (.ldGeneral (fld w 20 6) (fld w 14 6) (flag w 13) (flag w 10) (fld w 6 4) (fld w 3 2) (fld w 0 3))
  else if fld w 5 1 = 1 ∧ fld w 11 2 = 0 then some (.stGeneral (fld w 20 6) (fld w 14 6) (flag w 13) (flag w 10) (fld w 6 4) (fld w 3 2) (fld w 0 3))
  else none

/-- The rows of major 0x37. -/
def decodeMajor37 (w : Nat) : Option Instr :=
  if fld w 0 4 = 0 then some (.atom (fld w 20 6) (fld w 14 6) (flag w 13) (flag w 12) (flag w 11) (fld w 7 4) (fld w 4 3))
  else if fld w 0 4 = 1 ∧ fld w 7 4 = 0 then some (.atomc (fld w 20 6) (fld w 14 6) (flag w 13) (flag w 12) (flag w 11) (fld w 4 3))
  else if fld w 0 4 = 2 ∧ fld w 7 19 = 0 then some (.fence (fld w 4 3))
  else if fld w 0 4 = 3 ∧ fld w 7 4 = 0 then some (.waita (fld w 20 6) (fld w 14 6) (flag w 13) (flag w 12) (flag w 11) (fld w 4 3))
  else if fld w 0 4 = 4 ∧ fld w 7 5 = 0 then some (.wakea (fld w 20 6) (fld w 14 6) (flag w 13) (flag w 12) (fld w 4 3))
  else if fld w 0 13 = 5 ∧ fld w 20 6 = 0 then some (.cflush (fld w 14 6) (flag w 13))
  else if fld w 0 13 = 6 ∧ fld w 20 6 = 0 then some (.cinv (fld w 14 6) (flag w 13))
  else if fld w 0 13 = 7 then some (.pin (fld w 20 6) (fld w 14 6) (flag w 13))
  else if fld w 0 13 = 8 then some (.unpin (fld w 20 6) (fld w 14 6) (flag w 13))
  else none

/-- The rows of major 0x38. -/
def decodeMajor38 (w : Nat) : Option Instr :=
  if fld w 0 3 = 0 ∧ fld w 7 6 = 0 then some (.tcopy (fld w 20 6) (fld w 14 6) (flag w 13) (fld w 5 2) (fld w 3 2))
  else if fld w 0 3 = 1 ∧ fld w 5 8 = 1 then some (.tcast (fld w 20 6) (fld w 14 6) (flag w 13) (fld w 3 2))
  else none

/-- The rows of major 0x39. -/
def decodeMajor39 (w : Nat) : Option Instr :=
  if fld w 0 3 = 0 ∧ fld w 7 6 = 0 then some (.tredBf16 (fld w 20 6) (fld w 14 6) (flag w 13) (fld w 5 2) (fld w 3 2))
  else if fld w 0 3 = 1 ∧ fld w 7 6 = 0 then some (.tredF32 (fld w 20 6) (fld w 14 6) (flag w 13) (fld w 5 2) (fld w 3 2))
  else none

/-- The rows of major 0x3A. -/
def decodeMajor3a (w : Nat) : Option Instr :=
  if fld w 0 4 = 0 ∧ fld w 13 13 = 0 then some (.aLoop (fld w 4 9))
  else if fld w 0 26 = 1 then some (.aEnd)
  else if fld w 0 4 = 2 ∧ fld w 13 1 = 0 then some (.aAddr (fld w 20 6) (fld w 14 6) (fld w 4 9))
  else if fld w 0 4 = 3 ∧ fld w 9 5 = 0 then some (.aLdq (fld w 20 6) (fld w 14 6) (fld w 6 3) (fld w 4 2))
  else if fld w 0 4 = 4 ∧ fld w 9 5 = 0 then some (.aLdwq (fld w 20 6) (fld w 14 6) (fld w 6 3) (fld w 4 2))
  else if fld w 0 20 = 5 then some (.aWaitq (fld w 20 6))
  else if fld w 0 4 = 6 ∧ fld w 8 12 = 0 then some (.aSetq (fld w 20 6) (fld w 4 4))
  else if fld w 0 4 = 7 ∧ fld w 13 1 = 0 then some (.aBase (fld w 20 6) (fld w 14 6) (fld w 4 9))
  else if fld w 0 26 = 8 then some (.aExit)
  else none

/-- The rows of major 0x3B. -/
def decodeMajor3b (w : Nat) : Option Instr :=
  if fld w 0 4 = 0 ∧ fld w 9 4 = 0 then some (.qpop (fld w 20 6) (fld w 14 6) (flag w 13) (fld w 6 3) (fld w 4 2))
  else if fld w 0 4 = 1 ∧ fld w 9 4 = 0 then some (.qpeek (fld w 20 6) (fld w 14 6) (flag w 13) (fld w 6 3) (fld w 4 2))
  else if fld w 0 6 = 2 ∧ fld w 9 4 = 0 ∧ fld w 20 6 = 0 then some (.qpush (fld w 14 6) (flag w 13) (fld w 6 3))
  else if fld w 0 4 = 3 ∧ fld w 8 5 = 0 then some (.isub (fld w 20 6) (fld w 14 6) (flag w 13) (fld w 6 2) (fld w 4 2))
  else if fld w 0 13 = 4 then some (.trace (fld w 20 6) (fld w 14 6) (flag w 13))
  else if fld w 0 4 = 5 then some (.reord (fld w 20 6) (fld w 14 6) (flag w 13) (fld w 8 5) (fld w 4 4))
  else if fld w 0 4 = 6 ∧ fld w 8 5 = 0 ∧ fld w 20 6 = 0 then some (.launch (fld w 14 6) (flag w 13) (fld w 4 4))
  else if fld w 0 4 = 7 ∧ fld w 10 3 = 0 then some (.svc (fld w 20 6) (fld w 14 6) (flag w 13) (fld w 8 2) (fld w 4 4))
  else none

/-- The rows of major 0x3C. -/
def decodeMajor3c (w : Nat) : Option Instr :=
  if fld w 0 4 = 0 ∧ fld w 8 5 = 0 then some (.crnInit (fld w 20 6) (fld w 14 6) (flag w 13) (flag w 7) (fld w 4 3))
  else if fld w 0 13 = 256 ∧ fld w 20 6 = 0 then some (.crnFree (fld w 14 6) (flag w 13))
  else if fld w 0 13 = 1 then some (.crnExpect (fld w 20 6) (fld w 14 6) (flag w 13))
  else if fld w 0 13 = 2 then some (.crnArrive (fld w 20 6) (fld w 14 6) (flag w 13))
  else if fld w 0 13 = 3 then some (.crnWait (fld w 20 6) (fld w 14 6) (flag w 13))
  else if fld w 0 13 = 4 then some (.crnTest (fld w 20 6) (fld w 14 6) (flag w 13))
  else if fld w 0 20 = 5 then some (.rdcyc (fld w 20 6))
  else if fld w 0 6 = 6 then some (.rngx (fld w 20 6) (fld w 14 6) (flag w 13) (fld w 7 6) (flag w 6))
  else if fld w 0 4 = 7 ∧ fld w 5 1 = 0 then some (.rngadd (fld w 20 6) (fld w 14 6) (flag w 13) (fld w 7 6) (flag w 6) (flag w 4))
  else none

/-- The rows of major 0x3D. -/
def decodeMajor3d (w : Nat) : Option Instr :=
  if fld w 0 3 = 0 ∧ fld w 13 7 = 0 then some (.movsr (fld w 20 6) (fld w 3 10))
  else if fld w 0 3 = 1 ∧ fld w 20 6 = 0 then some (.movrs (fld w 14 6) (flag w 13) (fld w 3 10))
  else if fld w 0 13 = 2 then some (.eretResume (fld w 20 6) (fld w 14 6) (flag w 13))
  else if fld w 0 13 = 3 then some (.halt (fld w 20 6) (fld w 14 6) (flag w 13))
  else none

/-- The rows of major 0x3F. -/
def decodeMajor3f (w : Nat) : Option Instr :=
  if fld w 22 4 = 0 then some (.imm (fld w 0 22))
  else if fld w 22 4 = 1 then some (.mod (fld w 11 2) (fld w 8 3) (fld w 5 3) (flag w 4) (flag w 3) (fld w 0 3) (fld w 13 9))
  else if fld w 22 4 = 2 then some (.live (flag w 1) (flag w 0) (fld w 2 20))
  else if fld w 22 4 = 3 then some (.sched (flag w 0) (fld w 1 21))
  else none

/-- The opcode map of R104: the major opcode picks the rows a word is looked up in. -/
def decodeRow (w : Nat) : Option Instr :=
  match w / 2 ^ 26 with
  | 0x00 => decodeMajor00 w
  | 0x01 => decodeMajor01 w
  | 0x02 => decodeMajor02 w
  | 0x03 => decodeMajor03 w
  | 0x04 => decodeMajor04 w
  | 0x05 => decodeMajor05 w
  | 0x06 => decodeMajor06 w
  | 0x07 => decodeMajor07 w
  | 0x08 => decodeMajor08 w
  | 0x09 => decodeMajor09 w
  | 0x0A => decodeMajor0a w
  | 0x0B => decodeMajor0b w
  | 0x0C => decodeMajor0c w
  | 0x0D => decodeMajor0d w
  | 0x0E => decodeMajor0e w
  | 0x10 => decodeMajor10 w
  | 0x11 => decodeMajor11 w
  | 0x12 => decodeMajor12 w
  | 0x13 => decodeMajor13 w
  | 0x14 => decodeMajor14 w
  | 0x15 => decodeMajor15 w
  | 0x16 => decodeMajor16 w
  | 0x17 => decodeMajor17 w
  | 0x18 => decodeMajor18 w
  | 0x20 => decodeMajor20 w
  | 0x21 => decodeMajor21 w
  | 0x22 => decodeMajor22 w
  | 0x23 => decodeMajor23 w
  | 0x24 => decodeMajor24 w
  | 0x28 => decodeMajor28 w
  | 0x29 => decodeMajor29 w
  | 0x2A => decodeMajor2a w
  | 0x2C => decodeMajor2c w
  | 0x2D => decodeMajor2d w
  | 0x30 => decodeMajor30 w
  | 0x31 => decodeMajor31 w
  | 0x32 => decodeMajor32 w
  | 0x33 => decodeMajor33 w
  | 0x34 => decodeMajor34 w
  | 0x35 => decodeMajor35 w
  | 0x36 => decodeMajor36 w
  | 0x37 => decodeMajor37 w
  | 0x38 => decodeMajor38 w
  | 0x39 => decodeMajor39 w
  | 0x3A => decodeMajor3a w
  | 0x3B => decodeMajor3b w
  | 0x3C => decodeMajor3c w
  | 0x3D => decodeMajor3d w
  | 0x3F => decodeMajor3f w
  | _ => none

/-- The instruction of a 32-bit word. -/
def decodeWord (w : Nat) : Except Reject Instr :=
  match decodeRow w with
  | none => .error .noRow
  | some i => match i.flaw with
    | some f => .error (.flawed f)
    | none => .ok i

/-- The instruction at the head of a list of bytes, and the bytes after it: a word is little-endian (R93). -/
def decode : List Byte → Except Reject (Instr × List Byte)
  | a :: b :: c :: d :: rest => (decodeWord (Machine.leVal [a, b, c, d])).map fun i => (i, rest)
  | _ => .error .truncated

/-- A word from its fixed bits and its fields, each with the place of its lowest bit. -/
def word (fixed : Nat) : List (Nat × Nat) → Nat
  | [] => fixed
  | (v, lo) :: fs => v * 2 ^ lo + word fixed fs

/-- The word of an instruction, from the same tables (R95 to R111, R374); 0 for an event row, which has no word. -/
def encode : Instr → Nat
  | .ill => word 0x00000000 []
  | .addI32 d a l b m => word 0x04000000 [(d, 20), (a, 14), (l.toNat, 13), (b, 7), (m.toNat, 6)]
  | .addN32 d a l b m => word 0x04000001 [(d, 20), (a, 14), (l.toNat, 13), (b, 7), (m.toNat, 6)]
  | .subI32 d a l b m => word 0x04000002 [(d, 20), (a, 14), (l.toNat, 13), (b, 7), (m.toNat, 6)]
  | .subN32 d a l b m => word 0x04000003 [(d, 20), (a, 14), (l.toNat, 13), (b, 7), (m.toNat, 6)]
  | .mullo32 d a l b m => word 0x04000004 [(d, 20), (a, 14), (l.toNat, 13), (b, 7), (m.toNat, 6)]
  | .mulhiI32 d a l b m => word 0x04000005 [(d, 20), (a, 14), (l.toNat, 13), (b, 7), (m.toNat, 6)]
  | .mulhiN32 d a l b m => word 0x04000006 [(d, 20), (a, 14), (l.toNat, 13), (b, 7), (m.toNat, 6)]
  | .divI32 d a l b m => word 0x04000007 [(d, 20), (a, 14), (l.toNat, 13), (b, 7), (m.toNat, 6)]
  | .divN32 d a l b m => word 0x04000008 [(d, 20), (a, 14), (l.toNat, 13), (b, 7), (m.toNat, 6)]
  | .remI32 d a l b m => word 0x04000009 [(d, 20), (a, 14), (l.toNat, 13), (b, 7), (m.toNat, 6)]
  | .remN32 d a l b m => word 0x0400000A [(d, 20), (a, 14), (l.toNat, 13), (b, 7), (m.toNat, 6)]
  | .minI32 d a l b m => word 0x0400000B [(d, 20), (a, 14), (l.toNat, 13), (b, 7), (m.toNat, 6)]
  | .minN32 d a l b m => word 0x0400000C [(d, 20), (a, 14), (l.toNat, 13), (b, 7), (m.toNat, 6)]
  | .maxI32 d a l b m => word 0x0400000D [(d, 20), (a, 14), (l.toNat, 13), (b, 7), (m.toNat, 6)]
  | .maxN32 d a l b m => word 0x0400000E [(d, 20), (a, 14), (l.toNat, 13), (b, 7), (m.toNat, 6)]
  | .abs32 d a l => word 0x0400000F [(d, 20), (a, 14), (l.toNat, 13)]
  | .neg32 d a l => word 0x04000010 [(d, 20), (a, 14), (l.toNat, 13)]
  | .and32 d a l b m => word 0x04000011 [(d, 20), (a, 14), (l.toNat, 13), (b, 7), (m.toNat, 6)]
  | .or32 d a l b m => word 0x04000012 [(d, 20), (a, 14), (l.toNat, 13), (b, 7), (m.toNat, 6)]
  | .xor32 d a l b m => word 0x04000013 [(d, 20), (a, 14), (l.toNat, 13), (b, 7), (m.toNat, 6)]
  | .andn32 d a l b m => word 0x04000014 [(d, 20), (a, 14), (l.toNat, 13), (b, 7), (m.toNat, 6)]
  | .not32 d a l => word 0x04000015 [(d, 20), (a, 14), (l.toNat, 13)]
  | .shl32 d a l b m => word 0x04000016 [(d, 20), (a, 14), (l.toNat, 13), (b, 7), (m.toNat, 6)]
  | .shr32 d a l b m => word 0x04000017 [(d, 20), (a, 14), (l.toNat, 13), (b, 7), (m.toNat, 6)]
  | .shra32 d a l b m => word 0x04000018 [(d, 20), (a, 14), (l.toNat, 13), (b, 7), (m.toNat, 6)]
  | .rot32 d a l b m => word 0x04000019 [(d, 20), (a, 14), (l.toNat, 13), (b, 7), (m.toNat, 6)]
  | .popc32 d a l => word 0x0400001A [(d, 20), (a, 14), (l.toNat, 13)]
  | .clz32 d a l => word 0x0400001B [(d, 20), (a, 14), (l.toNat, 13)]
  | .ctz32 d a l => word 0x0400001C [(d, 20), (a, 14), (l.toNat, 13)]
  | .brev32 d a l => word 0x0400001D [(d, 20), (a, 14), (l.toNat, 13)]
  | .permb d a l b m => word 0x0400001E [(d, 20), (a, 14), (l.toNat, 13), (b, 7), (m.toNat, 6)]
  | .mov32 d a l => word 0x0400001F [(d, 20), (a, 14), (l.toNat, 13)]
  | .bfxI32 d a l b m => word 0x04000020 [(d, 20), (a, 14), (l.toNat, 13), (b, 7), (m.toNat, 6)]
  | .bfxN32 d a l b m => word 0x04000021 [(d, 20), (a, 14), (l.toNat, 13), (b, 7), (m.toNat, 6)]
  | .addI64 d a l b m => word 0x08000000 [(d, 20), (a, 14), (l.toNat, 13), (b, 7), (m.toNat, 6)]
  | .addN64 d a l b m => word 0x08000001 [(d, 20), (a, 14), (l.toNat, 13), (b, 7), (m.toNat, 6)]
  | .subI64 d a l b m => word 0x08000002 [(d, 20), (a, 14), (l.toNat, 13), (b, 7), (m.toNat, 6)]
  | .subN64 d a l b m => word 0x08000003 [(d, 20), (a, 14), (l.toNat, 13), (b, 7), (m.toNat, 6)]
  | .mullo64 d a l b m => word 0x08000004 [(d, 20), (a, 14), (l.toNat, 13), (b, 7), (m.toNat, 6)]
  | .mulhiI64 d a l b m => word 0x08000005 [(d, 20), (a, 14), (l.toNat, 13), (b, 7), (m.toNat, 6)]
  | .mulhiN64 d a l b m => word 0x08000006 [(d, 20), (a, 14), (l.toNat, 13), (b, 7), (m.toNat, 6)]
  | .divI64 d a l b m => word 0x08000007 [(d, 20), (a, 14), (l.toNat, 13), (b, 7), (m.toNat, 6)]
  | .divN64 d a l b m => word 0x08000008 [(d, 20), (a, 14), (l.toNat, 13), (b, 7), (m.toNat, 6)]
  | .remI64 d a l b m => word 0x08000009 [(d, 20), (a, 14), (l.toNat, 13), (b, 7), (m.toNat, 6)]
  | .remN64 d a l b m => word 0x0800000A [(d, 20), (a, 14), (l.toNat, 13), (b, 7), (m.toNat, 6)]
  | .minI64 d a l b m => word 0x0800000B [(d, 20), (a, 14), (l.toNat, 13), (b, 7), (m.toNat, 6)]
  | .minN64 d a l b m => word 0x0800000C [(d, 20), (a, 14), (l.toNat, 13), (b, 7), (m.toNat, 6)]
  | .maxI64 d a l b m => word 0x0800000D [(d, 20), (a, 14), (l.toNat, 13), (b, 7), (m.toNat, 6)]
  | .maxN64 d a l b m => word 0x0800000E [(d, 20), (a, 14), (l.toNat, 13), (b, 7), (m.toNat, 6)]
  | .abs64 d a l => word 0x0800000F [(d, 20), (a, 14), (l.toNat, 13)]
  | .neg64 d a l => word 0x08000010 [(d, 20), (a, 14), (l.toNat, 13)]
  | .and64 d a l b m => word 0x08000011 [(d, 20), (a, 14), (l.toNat, 13), (b, 7), (m.toNat, 6)]
  | .or64 d a l b m => word 0x08000012 [(d, 20), (a, 14), (l.toNat, 13), (b, 7), (m.toNat, 6)]
  | .xor64 d a l b m => word 0x08000013 [(d, 20), (a, 14), (l.toNat, 13), (b, 7), (m.toNat, 6)]
  | .andn64 d a l b m => word 0x08000014 [(d, 20), (a, 14), (l.toNat, 13), (b, 7), (m.toNat, 6)]
  | .not64 d a l => word 0x08000015 [(d, 20), (a, 14), (l.toNat, 13)]
  | .shl64 d a l b m => word 0x08000016 [(d, 20), (a, 14), (l.toNat, 13), (b, 7), (m.toNat, 6)]
  | .shr64 d a l b m => word 0x08000017 [(d, 20), (a, 14), (l.toNat, 13), (b, 7), (m.toNat, 6)]
  | .shra64 d a l b m => word 0x08000018 [(d, 20), (a, 14), (l.toNat, 13), (b, 7), (m.toNat, 6)]
  | .rot64 d a l b m => word 0x08000019 [(d, 20), (a, 14), (l.toNat, 13), (b, 7), (m.toNat, 6)]
  | .popc64 d a l => word 0x0800001A [(d, 20), (a, 14), (l.toNat, 13)]
  | .clz64 d a l => word 0x0800001B [(d, 20), (a, 14), (l.toNat, 13)]
  | .ctz64 d a l => word 0x0800001C [(d, 20), (a, 14), (l.toNat, 13)]
  | .brev64 d a l => word 0x0800001D [(d, 20), (a, 14), (l.toNat, 13)]
  | .mov64 d a l => word 0x0800001F [(d, 20), (a, 14), (l.toNat, 13)]
  | .bfxI64 d a l b m => word 0x08000020 [(d, 20), (a, 14), (l.toNat, 13), (b, 7), (m.toNat, 6)]
  | .bfxN64 d a l b m => word 0x08000021 [(d, 20), (a, 14), (l.toNat, 13), (b, 7), (m.toNat, 6)]
  | .addc d a l b m p => word 0x0C000000 [(d, 20), (a, 14), (l.toNat, 13), (b, 7), (m.toNat, 6), (p, 2)]
  | .subb d a l b m p => word 0x0C000001 [(d, 20), (a, 14), (l.toNat, 13), (b, 7), (m.toNat, 6), (p, 2)]
  | .sel d a l b m p => word 0x0C000002 [(d, 20), (a, 14), (l.toNat, 13), (b, 7), (m.toNat, 6), (p, 2)]
  | .lea d a l b m x s => word 0x10000000 [(d, 20), (a, 14), (l.toNat, 13), (b, 7), (m.toNat, 6), (x.toNat, 3), (s, 0)]
  | .bfi d a l b m c => word 0x14000000 [(d, 20), (a, 14), (l.toNat, 13), (b, 7), (m.toNat, 6), (c, 0)]
  | .mad32 d a l b m c => word 0x18000000 [(d, 20), (a, 14), (l.toNat, 13), (b, 7), (m.toNat, 6), (c, 0)]
  | .mad64 d a l b m c => word 0x1C000000 [(d, 20), (a, 14), (l.toNat, 13), (b, 7), (m.toNat, 6), (c, 0)]
  | .addI32Imm d a l i => word 0x20000000 [(d, 20), (a, 14), (l.toNat, 13), (i, 0)]
  | .andImm d a l i => word 0x24000000 [(d, 20), (a, 14), (l.toNat, 13), (i, 0)]
  | .orImm d a l i => word 0x28000000 [(d, 20), (a, 14), (l.toNat, 13), (i, 0)]
  | .xorImm d a l i => word 0x2C000000 [(d, 20), (a, 14), (l.toNat, 13), (i, 0)]
  | .shlImm d a l w n => word 0x30000000 [(d, 20), (a, 14), (l.toNat, 13), (w.toNat, 10), (n, 0)]
  | .shrImm d a l w n => word 0x30000800 [(d, 20), (a, 14), (l.toNat, 13), (w.toNat, 10), (n, 0)]
  | .shraImm d a l w n => word 0x30001000 [(d, 20), (a, 14), (l.toNat, 13), (w.toNat, 10), (n, 0)]
  | .rotImm d a l w n => word 0x30001800 [(d, 20), (a, 14), (l.toNat, 13), (w.toNat, 10), (n, 0)]
  | .movi d i => word 0x34000000 [(d, 20), (i, 0)]
  | .addI64Imm d a l i => word 0x38000000 [(d, 20), (a, 14), (l.toNat, 13), (i, 0)]
  | .faddF32 d a l b m => word 0x40000000 [(d, 20), (a, 14), (l.toNat, 13), (b, 7), (m.toNat, 6)]
  | .fsubF32 d a l b m => word 0x40000001 [(d, 20), (a, 14), (l.toNat, 13), (b, 7), (m.toNat, 6)]
  | .fmulF32 d a l b m => word 0x40000002 [(d, 20), (a, 14), (l.toNat, 13), (b, 7), (m.toNat, 6)]
  | .fminF32 d a l b m => word 0x40000003 [(d, 20), (a, 14), (l.toNat, 13), (b, 7), (m.toNat, 6)]
  | .fmaxF32 d a l b m => word 0x40000004 [(d, 20), (a, 14), (l.toNat, 13), (b, 7), (m.toNat, 6)]
  | .fdivF32 d a l b m => word 0x40000005 [(d, 20), (a, 14), (l.toNat, 13), (b, 7), (m.toNat, 6)]
  | .fsqrtF32 d a l => word 0x40000006 [(d, 20), (a, 14), (l.toNat, 13)]
  | .frcpF32 d a l => word 0x40000007 [(d, 20), (a, 14), (l.toNat, 13)]
  | .frsqF32 d a l => word 0x40000008 [(d, 20), (a, 14), (l.toNat, 13)]
  | .fexp2F32 d a l => word 0x40000009 [(d, 20), (a, 14), (l.toNat, 13)]
  | .flog2F32 d a l => word 0x4000000A [(d, 20), (a, 14), (l.toNat, 13)]
  | .fsinF32 d a l => word 0x4000000B [(d, 20), (a, 14), (l.toNat, 13)]
  | .fcosF32 d a l => word 0x4000000C [(d, 20), (a, 14), (l.toNat, 13)]
  | .fabsF32 d a l => word 0x4000000D [(d, 20), (a, 14), (l.toNat, 13)]
  | .fnegF32 d a l => word 0x4000000E [(d, 20), (a, 14), (l.toNat, 13)]
  | .fclassF32 d a l => word 0x4000000F [(d, 20), (a, 14), (l.toNat, 13)]
  | .fscaleF32 d a l b m => word 0x40000010 [(d, 20), (a, 14), (l.toNat, 13), (b, 7), (m.toNat, 6)]
  | .frintF32 d a l => word 0x40000011 [(d, 20), (a, 14), (l.toNat, 13)]
  | .faddF64 d a l b m => word 0x44000000 [(d, 20), (a, 14), (l.toNat, 13), (b, 7), (m.toNat, 6)]
  | .fsubF64 d a l b m => word 0x44000001 [(d, 20), (a, 14), (l.toNat, 13), (b, 7), (m.toNat, 6)]
  | .fmulF64 d a l b m => word 0x44000002 [(d, 20), (a, 14), (l.toNat, 13), (b, 7), (m.toNat, 6)]
  | .fminF64 d a l b m => word 0x44000003 [(d, 20), (a, 14), (l.toNat, 13), (b, 7), (m.toNat, 6)]
  | .fmaxF64 d a l b m => word 0x44000004 [(d, 20), (a, 14), (l.toNat, 13), (b, 7), (m.toNat, 6)]
  | .fdivF64 d a l b m => word 0x44000005 [(d, 20), (a, 14), (l.toNat, 13), (b, 7), (m.toNat, 6)]
  | .fsqrtF64 d a l => word 0x44000006 [(d, 20), (a, 14), (l.toNat, 13)]
  | .frcpF64 d a l => word 0x44000007 [(d, 20), (a, 14), (l.toNat, 13)]
  | .frsqF64 d a l => word 0x44000008 [(d, 20), (a, 14), (l.toNat, 13)]
  | .fexp2F64 d a l => word 0x44000009 [(d, 20), (a, 14), (l.toNat, 13)]
  | .flog2F64 d a l => word 0x4400000A [(d, 20), (a, 14), (l.toNat, 13)]
  | .fsinF64 d a l => word 0x4400000B [(d, 20), (a, 14), (l.toNat, 13)]
  | .fcosF64 d a l => word 0x4400000C [(d, 20), (a, 14), (l.toNat, 13)]
  | .fabsF64 d a l => word 0x4400000D [(d, 20), (a, 14), (l.toNat, 13)]
  | .fnegF64 d a l => word 0x4400000E [(d, 20), (a, 14), (l.toNat, 13)]
  | .fclassF64 d a l => word 0x4400000F [(d, 20), (a, 14), (l.toNat, 13)]
  | .fscaleF64 d a l b m => word 0x44000010 [(d, 20), (a, 14), (l.toNat, 13), (b, 7), (m.toNat, 6)]
  | .frintF64 d a l => word 0x44000011 [(d, 20), (a, 14), (l.toNat, 13)]
  | .faddF16 d a l b m => word 0x48000000 [(d, 20), (a, 14), (l.toNat, 13), (b, 7), (m.toNat, 6)]
  | .fsubF16 d a l b m => word 0x48000001 [(d, 20), (a, 14), (l.toNat, 13), (b, 7), (m.toNat, 6)]
  | .fmulF16 d a l b m => word 0x48000002 [(d, 20), (a, 14), (l.toNat, 13), (b, 7), (m.toNat, 6)]
  | .fminF16 d a l b m => word 0x48000003 [(d, 20), (a, 14), (l.toNat, 13), (b, 7), (m.toNat, 6)]
  | .fmaxF16 d a l b m => word 0x48000004 [(d, 20), (a, 14), (l.toNat, 13), (b, 7), (m.toNat, 6)]
  | .fabsF16 d a l => word 0x4800000D [(d, 20), (a, 14), (l.toNat, 13)]
  | .fnegF16 d a l => word 0x4800000E [(d, 20), (a, 14), (l.toNat, 13)]
  | .fclassF16 d a l => word 0x4800000F [(d, 20), (a, 14), (l.toNat, 13)]
  | .fscaleF16 d a l b m => word 0x48000010 [(d, 20), (a, 14), (l.toNat, 13), (b, 7), (m.toNat, 6)]
  | .frintF16 d a l => word 0x48000011 [(d, 20), (a, 14), (l.toNat, 13)]
  | .faddBf16 d a l b m => word 0x4C000000 [(d, 20), (a, 14), (l.toNat, 13), (b, 7), (m.toNat, 6)]
  | .fsubBf16 d a l b m => word 0x4C000001 [(d, 20), (a, 14), (l.toNat, 13), (b, 7), (m.toNat, 6)]
  | .fmulBf16 d a l b m => word 0x4C000002 [(d, 20), (a, 14), (l.toNat, 13), (b, 7), (m.toNat, 6)]
  | .fminBf16 d a l b m => word 0x4C000003 [(d, 20), (a, 14), (l.toNat, 13), (b, 7), (m.toNat, 6)]
  | .fmaxBf16 d a l b m => word 0x4C000004 [(d, 20), (a, 14), (l.toNat, 13), (b, 7), (m.toNat, 6)]
  | .fabsBf16 d a l => word 0x4C00000D [(d, 20), (a, 14), (l.toNat, 13)]
  | .fnegBf16 d a l => word 0x4C00000E [(d, 20), (a, 14), (l.toNat, 13)]
  | .fclassBf16 d a l => word 0x4C00000F [(d, 20), (a, 14), (l.toNat, 13)]
  | .fscaleBf16 d a l b m => word 0x4C000010 [(d, 20), (a, 14), (l.toNat, 13), (b, 7), (m.toNat, 6)]
  | .frintBf16 d a l => word 0x4C000011 [(d, 20), (a, 14), (l.toNat, 13)]
  | .ffmaF32 d a l b m c => word 0x50000000 [(d, 20), (a, 14), (l.toNat, 13), (b, 7), (m.toNat, 6), (c, 0)]
  | .ffmaF64 d a l b m c => word 0x54000000 [(d, 20), (a, 14), (l.toNat, 13), (b, 7), (m.toNat, 6), (c, 0)]
  | .ffmaF16 d a l b m c => word 0x58000000 [(d, 20), (a, 14), (l.toNat, 13), (b, 7), (m.toNat, 6), (c, 0)]
  | .ffmaBf16 d a l b m c => word 0x5C000000 [(d, 20), (a, 14), (l.toNat, 13), (b, 7), (m.toNat, 6), (c, 0)]
  | .cvt d a l b m s => word 0x60000000 [(d, 20), (a, 14), (l.toNat, 13), (b, 7), (m.toNat, 6), (s, 0)]
  | .cmp p c a l b m o t => word 0x80000000 [(p, 22), (c, 20), (a, 14), (l.toNat, 13), (b, 7), (m.toNat, 6), (o, 3), (t, 0)]
  | .pand p c a b => word 0x84000000 [(p, 22), (c, 20), (a, 14), (b, 7)]
  | .por p c a b => word 0x84000001 [(p, 22), (c, 20), (a, 14), (b, 7)]
  | .pxor p c a b => word 0x84000002 [(p, 22), (c, 20), (a, 14), (b, 7)]
  | .pnot p c a => word 0x84000603 [(p, 22), (c, 20), (a, 14)]
  | .pmov p c a => word 0x84000604 [(p, 22), (c, 20), (a, 14)]
  | .br g s o => word 0x88000000 [(g, 22), (s.toNat, 21), (o, 0)]
  | .call g s o => word 0x8C000000 [(g, 22), (s.toNat, 21), (o, 0)]
  | .brx a l => word 0x90000000 [(a, 14), (l.toNat, 13)]
  | .callx a l => word 0x90000400 [(a, 14), (l.toNat, 13)]
  | .ret => word 0x90000800 []
  | .exit => word 0x90000C00 []
  | .yield => word 0x90001000 []
  | .waitk k n => word 0x90001400 [(k, 7), (n, 0)]
  | .trap c => word 0x90001800 [(c, 0)]
  | .softi q => word 0x90001C00 [(q, 0)]
  | .cdeclRange a l n => word 0xA0000000 [(a, 14), (l.toNat, 13), (n, 3)]
  | .cdeclMask d a l n => word 0xA0000001 [(d, 20), (a, 14), (l.toNat, 13), (n, 3)]
  | .csign n => word 0xA0000002 [(n, 3)]
  | .cwait n => word 0xA0000003 [(n, 3)]
  | .xshfIdx d a l b m n => word 0xA4000000 [(d, 20), (a, 14), (l.toNat, 13), (b, 7), (m.toNat, 6), (n, 2)]
  | .xshfUp d a l b m n => word 0xA4000001 [(d, 20), (a, 14), (l.toNat, 13), (b, 7), (m.toNat, 6), (n, 2)]
  | .xshfDown d a l b m n => word 0xA4000002 [(d, 20), (a, 14), (l.toNat, 13), (b, 7), (m.toNat, 6), (n, 2)]
  | .xshfXor d a l b m n => word 0xA4000003 [(d, 20), (a, 14), (l.toNat, 13), (b, 7), (m.toNat, 6), (n, 2)]
  | .xbcast d a l w h n => word 0xA8000000 [(d, 20), (a, 14), (l.toNat, 13), (w.toNat, 7), (h.toNat, 6), (n, 2)]
  | .xred d a l o n => word 0xA8000400 [(d, 20), (a, 14), (l.toNat, 13), (o, 6), (n, 2)]
  | .xscanInc d a l o n => word 0xA8000800 [(d, 20), (a, 14), (l.toNat, 13), (o, 6), (n, 2)]
  | .xscanExc d a l o n => word 0xA8000C00 [(d, 20), (a, 14), (l.toNat, 13), (o, 6), (n, 2)]
  | .xvote d a o n => word 0xA8001000 [(d, 20), (a, 14), (o, 6), (n, 2)]
  | .mma s b l p n t => word 0xB0000000 [(s, 20), (b, 14), (l.toNat, 13), (p, 10), (n, 6), (t, 3)]
  | .mmas s b l p n t => word 0xB0000001 [(s, 20), (b, 14), (l.toNat, 13), (p, 10), (n, 6), (t, 3)]
  | .mmabXor s b l p n t => word 0xB0000002 [(s, 20), (b, 14), (l.toNat, 13), (p, 10), (n, 6), (t, 3)]
  | .mmabAnd s b l p n t => word 0xB0000003 [(s, 20), (b, 14), (l.toNat, 13), (p, 10), (n, 6), (t, 3)]
  | .mmac s b l p n t => word 0xB0000004 [(s, 20), (b, 14), (l.toNat, 13), (p, 10), (n, 6), (t, 3)]
  | .aczero t => word 0xB4000000 [(t, 3)]
  | .acld a l t => word 0xB4000001 [(a, 14), (l.toNat, 13), (t, 3)]
  | .acst a l t => word 0xB4000002 [(a, 14), (l.toNat, 13), (t, 3)]
  | .acres d a l s t => word 0xB4000003 [(d, 20), (a, 14), (l.toNat, 13), (s, 9), (t, 3)]
  | .accmp d a l u t => word 0xB4000004 [(d, 20), (a, 14), (l.toNat, 13), (u, 6), (t, 3)]
  | .acmov u t => word 0xB4000005 [(u, 6), (t, 3)]
  | .ldGB32 d a l g s o => word 0xC0000000 [(d, 20), (a, 14), (l.toNat, 13), (g, 9), (s.toNat, 8), (o, 0)]
  | .stGB32 d a l g s o => word 0xC4000000 [(d, 20), (a, 14), (l.toNat, 13), (g, 9), (s.toNat, 8), (o, 0)]
  | .ldGB64 d a l g s o => word 0xC8000000 [(d, 20), (a, 14), (l.toNat, 13), (g, 9), (s.toNat, 8), (o, 0)]
  | .stGB64 d a l g s o => word 0xCC000000 [(d, 20), (a, 14), (l.toNat, 13), (g, 9), (s.toNat, 8), (o, 0)]
  | .ldSB32 d a l g s o => word 0xD0000000 [(d, 20), (a, 14), (l.toNat, 13), (g, 9), (s.toNat, 8), (o, 0)]
  | .stSB32 d a l g s o => word 0xD4000000 [(d, 20), (a, 14), (l.toNat, 13), (g, 9), (s.toNat, 8), (o, 0)]
  | .ldGeneral d a l s g p z => word 0xD8000000 [(d, 20), (a, 14), (l.toNat, 13), (s.toNat, 10), (g, 6), (p, 3), (z, 0)]
  | .stGeneral d a l s g p z => word 0xD8000020 [(d, 20), (a, 14), (l.toNat, 13), (s.toNat, 10), (g, 6), (p, 3), (z, 0)]
  | .atom d a l p w o s => word 0xDC000000 [(d, 20), (a, 14), (l.toNat, 13), (p.toNat, 12), (w.toNat, 11), (o, 7), (s, 4)]
  | .atomc d a l p w s => word 0xDC000001 [(d, 20), (a, 14), (l.toNat, 13), (p.toNat, 12), (w.toNat, 11), (s, 4)]
  | .fence s => word 0xDC000002 [(s, 4)]
  | .waita d a l p w s => word 0xDC000003 [(d, 20), (a, 14), (l.toNat, 13), (p.toNat, 12), (w.toNat, 11), (s, 4)]
  | .wakea d a l p s => word 0xDC000004 [(d, 20), (a, 14), (l.toNat, 13), (p.toNat, 12), (s, 4)]
  | .cflush a l => word 0xDC000005 [(a, 14), (l.toNat, 13)]
  | .cinv a l => word 0xDC000006 [(a, 14), (l.toNat, 13)]
  | .pin d a l => word 0xDC000007 [(d, 20), (a, 14), (l.toNat, 13)]
  | .unpin d a l => word 0xDC000008 [(d, 20), (a, 14), (l.toNat, 13)]
  | .tcopy d a l e s => word 0xE0000000 [(d, 20), (a, 14), (l.toNat, 13), (e, 5), (s, 3)]
  | .tcast d a l s => word 0xE0000021 [(d, 20), (a, 14), (l.toNat, 13), (s, 3)]
  | .tredBf16 d a l e s => word 0xE4000000 [(d, 20), (a, 14), (l.toNat, 13), (e, 5), (s, 3)]
  | .tredF32 d a l e s => word 0xE4000001 [(d, 20), (a, 14), (l.toNat, 13), (e, 5), (s, 3)]
  | .aLoop c => word 0xE8000000 [(c, 4)]
  | .aEnd => word 0xE8000001 []
  | .aAddr d a i => word 0xE8000002 [(d, 20), (a, 14), (i, 4)]
  | .aLdq d a s r => word 0xE8000003 [(d, 20), (a, 14), (s, 6), (r, 4)]
  | .aLdwq d a s r => word 0xE8000004 [(d, 20), (a, 14), (s, 6), (r, 4)]
  | .aWaitq d => word 0xE8000005 [(d, 20)]
  | .aSetq d l => word 0xE8000006 [(d, 20), (l, 4)]
  | .aBase d a i => word 0xE8000007 [(d, 20), (a, 14), (i, 4)]
  | .aExit => word 0xE8000008 []
  | .qpop d a l q z => word 0xEC000000 [(d, 20), (a, 14), (l.toNat, 13), (q, 6), (z, 4)]
  | .qpeek d a l q z => word 0xEC000001 [(d, 20), (a, 14), (l.toNat, 13), (q, 6), (z, 4)]
  | .qpush a l q => word 0xEC000002 [(a, 14), (l.toNat, 13), (q, 6)]
  | .isub d a l c r => word 0xEC000003 [(d, 20), (a, 14), (l.toNat, 13), (c, 6), (r, 4)]
  | .trace d a l => word 0xEC000004 [(d, 20), (a, 14), (l.toNat, 13)]
  | .reord d a l o n => word 0xEC000005 [(d, 20), (a, 14), (l.toNat, 13), (o, 8), (n, 4)]
  | .launch a l p => word 0xEC000006 [(a, 14), (l.toNat, 13), (p, 4)]
  | .svc d a l n c => word 0xEC000007 [(d, 20), (a, 14), (l.toNat, 13), (n, 8), (c, 4)]
  | .crnInit d a l u s => word 0xF0000000 [(d, 20), (a, 14), (l.toNat, 13), (u.toNat, 7), (s, 4)]
  | .crnFree a l => word 0xF0000100 [(a, 14), (l.toNat, 13)]
  | .crnExpect d a l => word 0xF0000001 [(d, 20), (a, 14), (l.toNat, 13)]
  | .crnArrive d a l => word 0xF0000002 [(d, 20), (a, 14), (l.toNat, 13)]
  | .crnWait d a l => word 0xF0000003 [(d, 20), (a, 14), (l.toNat, 13)]
  | .crnTest d a l => word 0xF0000004 [(d, 20), (a, 14), (l.toNat, 13)]
  | .rdcyc d => word 0xF0000005 [(d, 20)]
  | .rngx d a l b m => word 0xF0000006 [(d, 20), (a, 14), (l.toNat, 13), (b, 7), (m.toNat, 6)]
  | .rngadd d a l b m k => word 0xF0000007 [(d, 20), (a, 14), (l.toNat, 13), (b, 7), (m.toNat, 6), (k.toNat, 4)]
  | .movsr d n => word 0xF4000000 [(d, 20), (n, 3)]
  | .movrs a l n => word 0xF4000001 [(a, 14), (l.toNat, 13), (n, 3)]
  | .eretResume d a l => word 0xF4000002 [(d, 20), (a, 14), (l.toNat, 13)]
  | .eretSkip d a l => word 0xF4000002 [(d, 20), (a, 14), (l.toNat, 13)]
  | .eretKill d a l => word 0xF4000002 [(d, 20), (a, 14), (l.toNat, 13)]
  | .eretWrite d a l => word 0xF4000002 [(d, 20), (a, 14), (l.toNat, 13)]
  | .eretRqrel d a l => word 0xF4000002 [(d, 20), (a, 14), (l.toNat, 13)]
  | .eretRqcan d a l => word 0xF4000002 [(d, 20), (a, 14), (l.toNat, 13)]
  | .eretDone d a l => word 0xF4000002 [(d, 20), (a, 14), (l.toNat, 13)]
  | .halt d a l => word 0xF4000003 [(d, 20), (a, 14), (l.toNat, 13)]
  | .imm p => word 0xFC000000 [(p, 0)]
  | .mod e c s t v r z => word 0xFC400000 [(e, 11), (c, 8), (s, 5), (t.toNat, 4), (v.toNat, 3), (r, 0), (z, 13)]
  | .live x c z => word 0xFC800000 [(x.toNat, 1), (c.toNat, 0), (z, 2)]
  | .sched s z => word 0xFCC00000 [(s.toNat, 0), (z, 1)]
  | .bundleReform => 0
  | .threadPromotion => 0
  | .resultWrite => 0
  | .matrixStart => 0
  | .matrixRetire => 0
  | .storePerformed => 0
  | .l1Fill => 0
  | .hostAccess => 0
  | .tableWalk => 0
  | .uncorrectableError => 0
  | .copySectorRequest => 0
  | .copyDelivery => 0
  | .queueSlotArrival => 0
  | .islandContextBoundary => 0
  | .islandAccept => 0
  | .islandResult => 0
  | .rasterHandoffRecord => 0
  | .ridgelineEngineWake => 0
  | .ridgelineJobAccept => 0
  | .ridgelineJobEnd => 0
  | .launchQueueWake => 0
  | .launchQueueScan => 0
  | .launchReleaseComplete => 0
  | .launchDependenceTest => 0
  | .teamPlace => 0
  | .compactorMove => 0
  | .reorderBatchForm => 0
  | .serviceReply => 0
  | .gridComplete => 0
  | .handlerEntryOpen => 0
  | .heldRecordPost => 0
  | .preemptRequest => 0
  | .teamFreeze => 0
  | .preemptDeadline => 0
  | .contextSaveComplete => 0
  | .restoreGo => 0
  | .goResumeFrozen => 0
  | .contextCreate => 0
  | .contextDestroy => 0
  | .contextDestroyDone => 0
  | .invalidatePage => 0
  | .invalidateRange => 0
  | .invalidateContext => 0
  | .invalidationComplete => 0
  | .scunp => 0
  | .scunpDone => 0
  | .imagePost => 0
  | .imagePostDone => 0
  | .keyInstall => 0
  | .trimCounterClear => 0
  | .fqcWrite => 0
  | .registerWrite => 0
  | .packetHeaderArrival => 0
  | .reRequestWindow => 0
  | .reRequest => 0
  | .delivered => 0
  | .chainReservation => 0
  | .chainGrant => 0
  | .chainData => 0
  | .chainDone => 0
  | .linkCrcFailure => 0
  | .refreshSlot => 0
  | .weightBankTurn => 0
  | .clockLevelStep => 0
  | .thermalTrip => 0
  | .powerOnReset => 0
  | .die0BringUp => 0
  | .die1BringUp => 0
  | .standardImagePost => 0
  | .lockInterfaceRequest => 0
  | .stopInterfaceRequest => 0
  | .endSession => 0
  | .heartbeatLapse => 0
  | .getMeasurements => 0
  | .setCertificate => 0
  | .accumulatorInstructionFinish => 0
  | .tdiEntersError => 0
  | .startInterfaceRequest => 0

/-- The bytes of an instruction (R93). -/
def Instr.bytes (i : Instr) : List Byte := Machine.leBytes 4 (encode i)

/-- The instruction the decoder reads from a word given as a number, whose bits above nbits are 0. A row without bits has no word. -/
def decodeTableWord (nbits w : Nat) : Option Instr :=
  if nbits = 0 then none
  else match decode (Machine.leBytes 4 (w % 2 ^ nbits)) with
    | .ok x => some x.1
    | .error _ => none

end Sys2Proof
end

