-- ==== Sys2Proof/Config.lean ====
section
/-! DEFINITION. What an implementation fixes and the spec leaves open: free values, opaque constants applied to the state's counter of
fresh values, so that nothing in Lean can tell what they are. -/

namespace Sys2Proof

/-- Wall time left at reset in the refresh slot of a die, which sr.wsref.REM counts down (R257; log 4). -/
opaque Config.refreshLeft : Nat → BitVec 9

/-- The read that an image other than a standard one makes next, as an address and a number of bytes, through the unpacker, sequencer, memory
port and packer of its class, which the spec does not describe: by the class, the image's array of cells as a function of input lanes and
iteration index, the operation, the record, and the values and marks read so far (R326, R442, R444; log 11). -/
opaque Config.imageRead : Nat → (List Nat → Nat → List Nat) → Nat → Nat → List (Nat × Bool) → Option (Nat × Nat)

/-- What such an image gives from the same things once it reads no more: the slot bytes, their number and the number of marked slots, the
commits, and the triangles drawn and culled (R326, R442, R444, R474; log 11). -/
opaque Config.imageRun : Nat → (List Nat → Nat → List Nat) → Nat → Nat → List (Nat × Bool) →
  (Nat × Nat × Nat) × List (Nat × Nat) × Nat × Nat

/-- Bytes 0x000 to 0x3FF of the standard image of a class, which the Summit core posts (R487; log 11). -/
opaque Config.standardBody : Nat → List Byte

/-- SHA-512 of the Summit ROM, the Summit firmware and the control-plane firmware, by measurement index 1 to 3 (R485; log 12). -/
opaque Config.firmwareDigest : Nat → List Byte

/-- The public key fused into key slot 0 (R486; log 12). -/
opaque Config.fusedKey : Nat × Nat

/-- The signature of the device identity key over a response (R485; log 12). -/
opaque Config.identitySign : List Byte → List Byte

/-- Relnor's certificate chain of the device identity key, in SPDM slot 0 (R485; log 12). -/
opaque Config.relnorChain : List Byte

/-- Measurement 32 of a TDI, by its ranges and the CXC of each bound context: the spec does not lay out what is digested (R485; log 12). -/
opaque Config.tdiDigest : List (Nat × Nat) → List Nat → List Byte

/-- MASK of a TCAST restored from its replay records, which do not hold it (R370; log 16): by the counter of free values. -/
opaque Config.castMask : Nat → Dword

/-- The rounding mode that a value 5 to 7 of sr.fpc's mode field acts as, which only an image can bring: modulo 5 (R59, R385; log 16). -/
opaque Config.openRounding : Nat → Nat

/-- The size of a restored relaunch team, which its image does not hold (R383; log 16): by the counter of free values. -/
opaque Config.relaunchSize : Nat → Nat

/-- Whether the firmware, die 1, and each standard image pass their checks at a stage of the start: 0 the firmware, 2 die 1, 3 the images
(R487; log 12). -/
opaque Config.stagePasses : Nat → Bool

end Sys2Proof
end

