-- ==== Sys2Proof/Machine/Float.lean ====
section
/-! DEFINITION. The number formats and rounding of 03_number_formats (R61 to R74, R78, R90): decoding, the one rounding of an
exact value, NaN formation, and the tapered formats. -/

namespace Sys2Proof
namespace Machine

/-- The format codes of R78. -/
inductive Fmt where
  | f64 | f32 | f16 | bf16 | t8 | t6 | i8 | n8 | i32 | b1
  deriving DecidableEq, Repr

/-- The format of a code (R78); codes 0xA to 0xF are invalid. -/
def Fmt.ofCode : Nat → Option Fmt
  | 0 => some .f64 | 1 => some .f32 | 2 => some .f16 | 3 => some .bf16 | 4 => some .t8
  | 5 => some .t6 | 6 => some .i8 | 7 => some .n8 | 8 => some .i32 | 9 => some .b1 | _ => none

/-- Precision p of a floating format (R61). -/
def Fmt.prec : Fmt → Nat
  | .f64 => 53 | .f32 => 24 | .f16 => 11 | .bf16 => 8 | _ => 0

/-- emin of a floating format (R61). -/
def Fmt.emin : Fmt → Int
  | .f64 => -1022 | .f32 => -126 | .f16 => -14 | .bf16 => -126 | _ => 0

/-- emax of a floating format (R61). -/
def Fmt.emax : Fmt → Int
  | .f64 => 1023 | .f32 => 127 | .f16 => 15 | .bf16 => 127 | _ => 0

/-- Width of the exponent field (R61). -/
def Fmt.ebits : Fmt → Nat
  | .f64 => 11 | .f32 => 8 | .f16 => 5 | .bf16 => 8 | _ => 0

/-- Width of a value of the format in bits (R61, R64, R66). -/
def Fmt.width : Fmt → Nat
  | .f64 => 64 | .f32 => 32 | .f16 => 16 | .bf16 => 16 | .t8 => 8 | .t6 => 6 | .i8 => 8 | .n8 => 8 | .i32 => 32 | .b1 => 1

/-- Whether the format is IEEE or BF16. -/
def Fmt.isFloat : Fmt → Bool
  | .f64 | .f32 | .f16 | .bf16 => true
  | _ => false

/-- Whether the format is tapered (R66). -/
def Fmt.isTapered : Fmt → Bool
  | .t8 | .t6 => true
  | _ => false

/-- Width of the fraction field. -/
def Fmt.fbits (f : Fmt) : Nat := f.prec - 1

/-- An operand or an exact result: a dyadic number with a sign (a zero keeps its sign), an infinity, or a NaN with its fraction
field and the width of that field. -/
inductive FVal where
  | fin (neg : Bool) (m : Nat) (e : Int)
  | inf (neg : Bool)
  | nan (neg : Bool) (frac width : Nat)
  deriving DecidableEq, Repr

/-- Flag bits of sr.fps (R60). -/
def fNV : Nat := 1
/-- Division by zero (R60). -/
def fDZ : Nat := 2
/-- Overflow (R60). -/
def fOF : Nat := 4
/-- Underflow (R60). -/
def fUF : Nat := 8
/-- Inexact (R60). -/
def fNX : Nat := 16
/-- A dead register was read (R60). -/
def fDEAD : Nat := 32
/-- Poison produced by a resolve or conversion (R60). -/
def fPSN : Nat := 64

/-- The sign, exponent and fraction fields of an encoding (R61). -/
def decodeFloat (f : Fmt) (x : Nat) : FVal :=
  let neg := bitAt x (f.width - 1)
  let ef := bits x f.fbits f.ebits
  let fr := bits x 0 f.fbits
  if ef = 2 ^ f.ebits - 1 then (if fr = 0 then .inf neg else .nan neg fr f.fbits)
  else if ef = 0 then .fin neg fr (f.emin - (f.fbits : Int))
  else .fin neg (2 ^ f.fbits + fr) ((ef : Int) - f.emax - (f.fbits : Int))

/-- Whether a value is a signalling NaN: the most significant fraction bit is 0 (R61). -/
def FVal.isSNaN : FVal → Bool
  | .nan _ fr w => ! bitAt fr (w - 1)
  | _ => false

/-- Whether a value is a NaN. -/
def FVal.isNaN : FVal → Bool
  | .nan _ _ _ => true
  | _ => false

/-- Whether a value is a zero. -/
def FVal.isZero : FVal → Bool
  | .fin _ 0 _ => true
  | _ => false

/-- The sign of a value. -/
def FVal.neg : FVal → Bool
  | .fin n _ _ => n
  | .inf n => n
  | .nan n _ _ => n

/-- Sign bit of an encoding. -/
def signBit (f : Fmt) (neg : Bool) : Nat := if neg then 2 ^ (f.width - 1) else 0

/-- The default NaN of a format (R63). -/
def defaultNaN (f : Fmt) : Nat := (2 ^ f.ebits - 1) * 2 ^ f.fbits + 2 ^ (f.fbits - 1)

/-- An infinity. -/
def infBits (f : Fmt) (neg : Bool) : Nat := signBit f neg + (2 ^ f.ebits - 1) * 2 ^ f.fbits

/-- The largest finite value. -/
def maxFinite (f : Fmt) (neg : Bool) : Nat := signBit f neg + (2 ^ f.ebits - 1) * 2 ^ f.fbits - 1

/-- A NaN operand made quiet in a format: the payload keeps its most significant bits, zeros at the low end (R63). -/
def quietNaN (f : Fmt) (neg : Bool) (frac width : Nat) : Nat :=
  let fr := if width ≤ f.fbits then frac * 2 ^ (f.fbits - width) else frac / 2 ^ (width - f.fbits)
  let q := 2 ^ (f.fbits - 1)
  signBit f neg + (2 ^ f.ebits - 1) * 2 ^ f.fbits + (if fr / q % 2 = 1 then fr else fr + q)

/-- Rounds m / 2^sh to an integer in a rounding code (R72, R73): the significand and whether it is inexact. -/
def roundSig (mode : Nat) (neg : Bool) (m sh : Nat) : Nat × Bool :=
  let q := m / 2 ^ sh
  let r := m % 2 ^ sh
  if r = 0 then (q, false)
  else
    let half := 2 ^ (sh - 1)
    let up : Bool := match mode with
      | 0 => decide (r > half) || (decide (r = half) && decide (q % 2 = 1))
      | 1 => decide (r ≥ half)
      | 3 => ! neg
      | 4 => neg
      | 5 => decide (q % 2 = 0)
      | _ => false
    (if up then q + 1 else q, true)

/-- roundSig at a spacing of 2^q for the value m × 2^e. -/
def roundAt (mode : Nat) (neg : Bool) (m : Nat) (e q : Int) : Nat × Bool :=
  if q ≤ e then (m * 2 ^ (e - q).toNat, false) else roundSig mode neg m (q - e).toNat

/-- Overflow by mode (R73). -/
def overflowBits (f : Fmt) (mode : Nat) (neg : Bool) : Nat :=
  match mode with
  | 0 | 1 => infBits f neg
  | 3 => if neg then maxFinite f true else infBits f false
  | 4 => if neg then infBits f true else maxFinite f false
  | _ => maxFinite f neg

/-- round_to_format on a finite non-zero value m × 2^e of a sign (R73). -/
def roundFinite (f : Fmt) (mode : Nat) (neg : Bool) (m : Nat) (e : Int) : Nat × Nat :=
  let p : Int := f.prec
  let top : Int := (Nat.log2 m : Int) + e
  let q := max (top - p + 1) (f.emin - p + 1)
  let (s, inx) := roundAt mode neg m e q
  let (s, q) := if s = 2 ^ f.prec then (2 ^ (f.prec - 1), q + 1) else (s, q)
  if s ≥ 2 ^ (f.prec - 1) && decide (q > f.emax - p + 1) then (overflowBits f mode neg, fOF + fNX)
  else
    let enc := if s < 2 ^ (f.prec - 1) then s
      else s - 2 ^ (f.prec - 1) + (q + (p - 1) + f.emax).toNat * 2 ^ f.fbits
    let tiny : Bool := decide (top < f.emin) &&
      (let (s2, _) := roundAt mode neg m e (top - p + 1)
       decide (top < f.emin - 1) || decide (s2 < 2 ^ f.prec))
    (signBit f neg + enc, (if inx then fNX else 0) + (if inx && tiny then fUF else 0))

/-- round_to_format for an IEEE format or BF16 (R73); a NaN is treated by R63, raising NV when it signals. -/
def roundTo (f : Fmt) (mode : Nat) : FVal → Nat × Nat
  | .fin neg 0 _ => (signBit f neg, 0)
  | .fin neg m e => roundFinite f mode neg m e
  | .inf neg => (infBits f neg, 0)
  | .nan neg fr w => (quietNaN f neg fr w, if bitAt fr (w - 1) then 0 else fNV)

/-- The NaN result of R63 for operands in order: the first NaN made quiet, NV when any signals. -/
def nanResult (f : Fmt) (ops : List FVal) : Nat × Nat :=
  let nv := if ops.any FVal.isSNaN then fNV else 0
  match ops.find? FVal.isNaN with
  | some (.nan neg fr w) => (quietNaN f neg fr w, nv)
  | _ => (defaultNaN f, nv)

/-- The default NaN with NV: the invalid cases (R63). -/
def invalid (f : Fmt) : Nat × Nat := (defaultNaN f, fNV)

/-- The exact sum of two finite values; an exact zero takes its sign from R170. -/
def addFin (mode : Nat) (n1 : Bool) (m1 : Nat) (e1 : Int) (n2 : Bool) (m2 : Nat) (e2 : Int) : FVal :=
  let e := min e1 e2
  let a : Int := (m1 * 2 ^ (e1 - e).toNat : Nat)
  let b : Int := (m2 * 2 ^ (e2 - e).toNat : Nat)
  let x := (if n1 then -a else a) + (if n2 then -b else b)
  if x = 0 then
    (if m1 = 0 ∧ m2 = 0 ∧ n1 = n2 then .fin n1 0 0 else .fin (decide (mode = 4)) 0 0)
  else .fin (decide (x < 0)) x.natAbs e

/-- a + b as a value; the two infinities of opposite sign are the caller's (none). -/
def addVal (mode : Nat) : FVal → FVal → Option FVal
  | .fin n1 m1 e1, .fin n2 m2 e2 => some (addFin mode n1 m1 e1 n2 m2 e2)
  | .inf n1, .inf n2 => if n1 = n2 then some (.inf n1) else none
  | .inf n1, _ => some (.inf n1)
  | _, .inf n2 => some (.inf n2)
  | x, _ => some x

/-- a × b exactly; none for 0 × ∞. -/
def mulVal : FVal → FVal → Option FVal
  | .fin n1 m1 e1, .fin n2 m2 e2 => some (.fin (n1 != n2) (m1 * m2) (e1 + e2))
  | .inf n1, .inf n2 => some (.inf (n1 != n2))
  | .inf n1, .fin n2 m2 _ => if m2 = 0 then none else some (.inf (n1 != n2))
  | .fin n1 m1 _, .inf n2 => if m1 = 0 then none else some (.inf (n1 != n2))
  | x, _ => some x

/-- The value with its sign inverted. -/
def FVal.negate : FVal → FVal
  | .fin n m e => .fin (!n) m e
  | .inf n => .inf (!n)
  | .nan n fr w => .nan (!n) fr w

/-- FADD (R169, R170). -/
def fadd (f : Fmt) (mode : Nat) (a b : FVal) : Nat × Nat :=
  if a.isNaN || b.isNaN then nanResult f [a, b]
  else match addVal mode a b with
    | none => invalid f
    | some x => roundTo f mode x

/-- FSUB (R169, R170): a NaN operand B keeps its own sign. -/
def fsub (f : Fmt) (mode : Nat) (a b : FVal) : Nat × Nat :=
  if a.isNaN || b.isNaN then nanResult f [a, b]
  else match addVal mode a b.negate with
    | none => invalid f
    | some x => roundTo f mode x

/-- FMUL (R169, R170). -/
def fmul (f : Fmt) (mode : Nat) (a b : FVal) : Nat × Nat :=
  if a.isNaN || b.isNaN then nanResult f [a, b]
  else match mulVal a b with
    | none => invalid f
    | some x => roundTo f mode x

/-- An exact quotient of positive naturals as a dyadic number with a sticky low bit: more than `guard` significant bits, so that
one rounding of it is the rounding of the quotient. -/
def quotJam (m1 m2 guard : Nat) : Nat × Nat :=
  let k := guard + Nat.log2 m2 + 2
  let q := m1 * 2 ^ k / m2
  (2 * q + (if m1 * 2 ^ k % m2 = 0 then 0 else 1), k + 1)

/-- FDIV (R169, R170). -/
def fdiv (f : Fmt) (mode : Nat) (a b : FVal) : Nat × Nat :=
  if a.isNaN || b.isNaN then nanResult f [a, b]
  else
    let neg := a.neg != b.neg
    match a, b with
    | .inf _, .inf _ => invalid f
    | .inf _, _ => (infBits f neg, 0)
    | _, .inf _ => (signBit f neg, 0)
    | .fin _ m1 e1, .fin _ m2 e2 =>
      if m2 = 0 then (if m1 = 0 then invalid f else (infBits f neg, fDZ))
      else if m1 = 0 then (signBit f neg, 0)
      else
        let (q, k) := quotJam m1 m2 (f.prec + 4)
        roundFinite f mode neg q (e1 - e2 - (k : Int))
    | _, _ => invalid f

/-- FFMA (R169, R170): 0 × ∞ raises NV even beside a NaN c, and the result is then c's NaN. -/
def ffma (f : Fmt) (mode : Nat) (a b c : FVal) : Nat × Nat :=
  if a.isNaN || b.isNaN then nanResult f [a, b, c]
  else match mulVal a b with
    | none => if c.isNaN then ((nanResult f [c]).1, fNV) else invalid f
    | some p =>
      if c.isNaN then nanResult f [c]
      else match addVal mode p c with
        | none => invalid f
        | some x => roundTo f mode x

/-- Order of two values that are not NaN: −1, 0 or 1, with +0 equal to −0 (R157). -/
def cmpVal : FVal → FVal → Int
  | .inf n1, .inf n2 => if n1 = n2 then 0 else if n1 then -1 else 1
  | .inf n1, _ => if n1 then -1 else 1
  | _, .inf n2 => if n2 then 1 else -1
  | .fin n1 m1 e1, .fin n2 m2 e2 =>
    let e := min e1 e2
    let a : Int := (m1 * 2 ^ (e1 - e).toNat : Nat)
    let b : Int := (m2 * 2 ^ (e2 - e).toNat : Nat)
    let x := (if n1 then -a else a) - (if n2 then -b else b)
    if x < 0 then -1 else if x = 0 then 0 else 1
  | _, _ => 0

/-- a orders below b for FMIN and FMAX, where −0 orders below +0 (R171). -/
def orderBelow (a b : FVal) : Bool :=
  cmpVal a b == -1 || (cmpVal a b == 0 && a.neg && ! b.neg)

/-- FMIN and FMAX (R171) on the operands' encodings. -/
def fminmax (f : Fmt) (isMax : Bool) (xa xb : Nat) : Nat × Nat :=
  let a := decodeFloat f xa
  let b := decodeFloat f xb
  let nv := if a.isSNaN || b.isSNaN then fNV else 0
  if a.isNaN && b.isNaN then nanResult f [a, b]
  else if a.isNaN then (xb % 2 ^ f.width, nv)
  else if b.isNaN then (xa % 2 ^ f.width, nv)
  else if orderBelow b a != isMax then (xb % 2 ^ f.width, nv) else (xa % 2 ^ f.width, nv)

/-- FCLASS (R172): one-hot class mask. -/
def fclass (f : Fmt) (x : Nat) : Nat :=
  match decodeFloat f x with
  | .inf n => if n then 1 else 2 ^ 7
  | .nan n fr w => if (FVal.nan n fr w).isSNaN then 2 ^ 8 else 2 ^ 9
  | .fin n m _ =>
    if m = 0 then (if n then 2 ^ 3 else 2 ^ 4)
    else if m < 2 ^ f.fbits then (if n then 2 ^ 2 else 2 ^ 5)
    else (if n then 2 ^ 1 else 2 ^ 6)

/-- FSCALE (R173). -/
def fscale (f : Fmt) (mode : Nat) (a : FVal) (n : Int) : Nat × Nat :=
  match a with
  | .fin neg m e => roundTo f mode (.fin neg m (e + n))
  | .inf neg => (infBits f neg, 0)
  | .nan _ _ _ => nanResult f [a]

/-- Rounds a finite magnitude to an integer magnitude in a mode (R174, R181): the integer and whether it is inexact. RO takes the
integer toward zero and sets its bit 0 when inexact. -/
def roundInt (mode : Nat) (neg : Bool) (m : Nat) (e : Int) : Nat × Bool :=
  if e ≥ 0 then (m * 2 ^ e.toNat, false) else roundSig mode neg m (-e).toNat

/-- FRINT (R174). -/
def frint (f : Fmt) (mode : Nat) (a : FVal) : Nat × Nat :=
  match a with
  | .fin neg m e =>
    let (n, inx) := roundInt mode neg m e
    ((if n = 0 then signBit f neg else (roundFinite f mode neg n 0).1), if inx then fNX else 0)
  | .inf neg => (infBits f neg, 0)
  | .nan _ _ _ => nanResult f [a]

/-- The length of the run of bits equal to b from bit i down to bit 0 (R66). -/
def runLen (x : Nat) (b : Bool) : Nat → Nat
  | 0 => if bitAt x 0 = b then 1 else 0
  | i + 1 => if bitAt x (i + 1) = b then 1 + runLen x b i else 0

/-- The magnitude of a tapered code's magnitude field in units of 2^−16 (R66, R67, R70, R71). -/
def taperedMag (f : Fmt) (mag : Nat) : Nat :=
  if mag = 0 then 0
  else
    let w := f.width - 1
    let b := bitAt mag (w - 1)
    let m := runLen mag b (w - 1)
    let k : Int := if b then (m : Int) - 1 else -(m : Int)
    let rest := w - min w (m + 1)
    let hasE : Bool := f == .t8 && decide (rest ≥ 1)
    let nf := if hasE then rest - 1 else rest
    let e := if hasE && bitAt mag (rest - 1) then 1 else 0
    let x : Int := if f == .t8 then 2 * k + (e : Nat) else k
    let fr := mag % 2 ^ nf
    (2 ^ nf + fr) * 2 ^ (x + 16 - (nf : Int)).toNat

/-- decode_tapered (R69). -/
def decodeTapered (f : Fmt) (code s : Nat) : FVal :=
  let w := f.width
  let sgn := bitAt code (w - 1)
  let mag := bits code 0 (w - 1)
  if s = 0xFF then .nan false 1 1
  else if mag = 0 then (if sgn then .nan false 1 1 else .fin false 0 0)
  else .fin sgn (taperedMag f mag) ((s : Int) - 127 - 16)

/-- The largest magnitude code, at or below `c`, whose value is at most num / den in units of 2^−16. -/
def taperedFloor (f : Fmt) (num den : Nat) : Nat → Nat
  | 0 => 0
  | c + 1 => if taperedMag f (c + 1) * den ≤ num then c + 1 else taperedFloor f num den c

/-- NaR of a tapered format (R67). -/
def naR (f : Fmt) : Nat := 2 ^ (f.width - 1)

/-- round_to_format for T8 and T6 on a finite non-zero value with scale s (R74). -/
def roundTaperedFin (f : Fmt) (s mode : Nat) (neg : Bool) (m : Nat) (e : Int) : Nat × Nat :=
  let k : Int := e - ((s : Int) - 127) + 16
  let num := m * 2 ^ k.toNat
  let den := 2 ^ (-k).toNat
  let top := 2 ^ (f.width - 1) - 1
  let withSign (c : Nat) : Nat := if c = 0 then 0 else (if neg then naR f else 0) + c
  if num > taperedMag f top * den then (withSign top, fOF + fNX)
  else
    let c := taperedFloor f num den top
    let lo := taperedMag f c * den
    if lo = num then (withSign c, 0)
    else
      let hi := taperedMag f (c + 1) * den
      let up : Bool := match mode with
        | 0 => decide (num - lo > hi - num) || (decide (num - lo = hi - num) && decide (c % 2 = 1))
        | 1 => decide (num - lo ≥ hi - num)
        | 3 => ! neg
        | 4 => neg
        | 5 => decide (c % 2 = 0)
        | _ => false
      let r := if up then c + 1 else c
      (withSign r, fNX + (if r = 0 then fUF else 0))

/-- round_to_format for T8 and T6 (R74). -/
def roundTapered (f : Fmt) (s mode : Nat) : FVal → Nat × Nat
  | .fin _ 0 _ => (0, 0)
  | .fin neg m e => roundTaperedFin f s mode neg m e
  | .inf _ => (naR f, fNV)
  | .nan _ fr w => (naR f, if bitAt fr (w - 1) then 0 else fNV)

/-- The poisoned value a resolve or a conversion writes (R90, R182). -/
def poisonPattern : Fmt → Nat
  | .f64 => 0x7FFC000000000000 | .f32 => 0x7FE00000 | .f16 => 0x7F00 | .bf16 => 0x7FE0
  | .t8 => 0x80 | .t6 => 0x20 | .i32 => 0x80000000 | .i8 => 0xFFFFFF80 | .n8 => 0xFF | .b1 => 0

/-- A float or tapered value to an integer target of range [lo, hi] (R181). -/
def toIntRange (mode : Nat) (lo hi : Int) : FVal → Int × Nat
  | .fin neg m e =>
    let (n, _) := roundInt mode neg m e
    let x : Int := if neg then -(n : Int) else n
    let y := clampI x lo hi
    (y, if y = x then 0 else fNV)
  | .inf neg => (if neg then lo else hi, fNV)
  | .nan _ _ _ => (0, fNV)

/-- The range of an integer format (R64, R181). -/
def intRange : Fmt → Int × Int
  | .i8 => (-128, 127) | .n8 => (0, 255) | _ => (-2147483648, 2147483647)

/-- An integer written to a register in its format: .i sign-extended, .n zero-extended (R65). -/
def intToReg (_f : Fmt) (x : Int) : Nat := wrap x 32

/-- The integer value of a source in an integer format (R65). -/
def intOfSource (f : Fmt) (x : Nat) : Int :=
  match f with
  | .i8 => sext x 8
  | .n8 => ((x % 256 : Nat) : Int)
  | _ => sext x 32

/-- An integer as an exact value. -/
def FVal.ofInt (x : Int) : FVal := .fin (decide (x < 0)) x.natAbs 0

end Machine
end Sys2Proof
end

