-- ==== Sys2Proof/Machine/State.lean ====
section
/-! DEFINITION. The state of the device as plain data: everything the spec gives the machine, in flat lists keyed by context, grid,
team, thread, core, cluster and die, and State.reset. INVENTORY.md lists every item with its rule and its reset value. -/

namespace Sys2Proof
namespace Machine

/-- Scopes of R262, in the codes 1 to 5 of R102. -/
inductive Scope where
  | th | tm | cl | dv | sy
  deriving DecidableEq, Repr

/-- The spaces of R239. -/
inductive Space where
  | g | s | k | w
  deriving DecidableEq, Repr

/-- Counter classes of R458, in the order of WAITK's codes (R187). -/
inductive KClass where
  | ld | st | cp | mx | is | ws
  deriving DecidableEq, Repr

/-- Why a thread is Parked (R35, R298, R383). -/
inductive ParkReason where
  | fault | absentLine (line : Nat) | service | yielding | watch
  deriving DecidableEq, Repr

/-- Thread states of R35. -/
inductive TState where
  | ready | dependent | blocked | parked (why : ParkReason) | exited
  deriving DecidableEq, Repr

/-- A cached translation: a last-page register or a TLB entry (R123, R403). `stripe` is the resolved stripe list, none without one. -/
structure Translation where
  ctx : Nat
  page : Nat
  pages : Nat
  oa : Nat
  rd : Bool
  wr : Bool
  ex : Bool
  stripe : Option (List Nat)
  deriving DecidableEq, Repr

/-- A link slot: empty, a return PC (a refilled entry keeps all 64 bits it was read with, which R188 checks), a refill in flight, or
the fault mark of a refill with its address and class (R183, R189). -/
inductive LinkSlot where
  | empty | pc (a : Dword) | refill (op : Nat) (va : Nat) | mark (va cls : Nat)
  deriving DecidableEq, Repr

/-- One operation counted in an outstanding-operation counter, in issue order (R458, R460). -/
structure KEntry where
  cls : KClass
  op : Nat
  done : Bool
  deriving DecidableEq, Repr

/-- An answer to a record of a thread's park (R510). -/
inductive ParkAnswer where
  | resume | skip
  deriving DecidableEq, Repr

/-- A record a thread is parked on, and its answer when it has one (R510). -/
structure ParkRec where
  seq : Nat
  answer : Option ParkAnswer
  deriving DecidableEq, Repr

/-- What a resumed word takes from its record: the sources A, B, C and an element image (R167, R233, R376). -/
structure Resume where
  opnd : List Nat
  image : Option Nat
  rc : Nat
  deriving DecidableEq, Repr

/-- A thread (R30, R32, R121, R183, R458, R325, R373). -/
structure Thread where
  id : ThreadId
  role : Nat
  rrank : Nat
  tsize : Nat
  nteam : Nat
  lcore : Nat
  nlcore : Nat
  budget : Nat
  regs : List Word
  dead : List Bool
  preds : List Bool
  /-- Program-order position of the youngest applied write of each general register (0 to 63) and predicate (64 to 75) (R129). -/
  wpos : List Nat
  /-- Program-order position of the next word (R129). -/
  pos : Nat
  latch : List Word
  lastPage : Option Translation
  fpc : Word
  fps : Word
  st : TState
  /-- Cycle in which the thread last became Ready; its ready age counts from here (R30, R42). -/
  readyAt : Nat
  promoted : Bool
  /-- The bundle of the thread: the threads of its team, role, partition and PC that hold the same list (R37, R38). A branch adds its
  target, so that a bundle splits by next PC and never merges. -/
  bundle : Option (List Nat)
  /-- No word of the thread issues before this cycle: a taken branch, a MOVRS, an enabled trap (R116, R165, R375). -/
  holdUntil : Nat
  pc : Addr
  csd : BitVec 20
  ls : List LinkSlot
  ssp : BitVec 23
  signed : BitVec 16
  outstanding : List KEntry
  tdep : BitVec 4
  fbase : BitVec 23
  fsize : BitVec 23
  kregs : List Word
  parks : List ParkRec
  resume : Option Resume
  /-- The cairn offset and the phase of a CRN.WAIT the thread is Blocked in (R466). -/
  cairn : Option (Nat × Nat)
  /-- Writes the thread has observed that are not yet performed for everyone: operations it read from (R274). -/
  observed : List Nat
  deriving DecidableEq, Repr

/-- What an access does (R290, R294, R295, R298, R300, R303, R304, R189). -/
inductive AccKind where
  | load (sext : Bool)
  | store
  | atom (op : Nat)
  | cas
  | flush
  | inv
  | pin
  | unpin
  | wait (expect : Nat)
  | wake (n : Nat)
  | spill
  | refill
  deriving DecidableEq, Repr

/-- One memory access: at most one 64-byte sector of one thread (R240, R370). -/
structure Access where
  kind : AccKind
  space : Space
  /-- Effective address: virtual for .g and .k, an offset in the team's region for .s, a weight-store address for .w. -/
  va : Nat
  size : Nat
  scope : Scope
  acq : Bool
  rel : Bool
  cp : Nat
  pa : Option Nat
  /-- The bytes a store still has to write: a merge step takes bytes from the lower thread (R249). -/
  mask : Nat
  data : Nat
  data2 : Nat
  deriving DecidableEq, Repr

/-- How far an operation has come. `core` is a store that has left its core's store path (R265); `waiting` has faulted and waits for a place in the
replay queue (R371); `parked` lies there under a record (R369). -/
inductive Stage where
  | issued | walk | ready | core | bound | parked (seq : Nat) | waiting | done
  deriving DecidableEq, Repr

/-- What an operation in flight is. -/
inductive OpBody where
  | result
  | mem (a : Access)
  | fence (scope : Scope)
  /-- The .sy release of a LAUNCH that enqueued nothing (R285, R351). -/
  | release
  /-- The result of a fired collective, and whether its phase's operation can raise a flag (R166, R201). -/
  | collective (raises : Bool)
  | reply
  | island (job : Nat)
  | push (queue slot : Nat) (poison : Bool)
  /-- An ERET whose action takes effect at the end of its cycle: its action word and its target (R376). -/
  | eret (word : Nat) (target : List Nat)
  deriving DecidableEq, Repr

/-- An operation of a thread in flight: its issue record (R137), its results (R129) and its place in memory order. -/
structure Op where
  id : Nat
  thr : ThreadId
  role : Nat
  core : Nat
  part : Nat
  pos : Nat
  pc : Addr
  word : Word
  latch : List Word
  opnd : List Nat
  issued : Nat
  due : Option Nat
  dests : List Nat
  vals : List Nat
  flags : Nat
  en : Nat
  rc : Nat
  /-- Whether a trap of it is found after the word has issued, with younger words allowed to issue (R206). -/
  late : Bool
  /-- Whether the later words of the thread wait until it is written: an enable that counts for it was set at issue (R165, R233). -/
  holds : Bool
  image : Option Nat
  body : OpBody
  stage : Stage
  cls : Option KClass
  deriving DecidableEq, Repr

/-- Member statuses of R184. -/
inductive MStatus where
  | undeclared | declared | signed | withdrawn
  deriving DecidableEq, Repr

/-- What a collective deposits (R201 to R205, R220). -/
inductive CollKind where
  | shuffle (mode : Nat)
  | bcast (hi pair : Bool)
  | red (op : Nat)
  | scan (excl : Bool) (op : Nat)
  | vote (op : Nat)
  | matrix (kind tile slot : Nat)
  deriving DecidableEq, Repr

/-- A deposit (R184, R201, R209, R220). -/
structure Deposit where
  kind : CollKind
  word : Word
  rc : Nat
  en : Nat
  a : Nat
  b : Nat
  dests : List Nat
  pos : Nat
  pc : Addr
  latch : List Word
  issued : Nat
  signed : Bool
  op : Nat
  deriving DecidableEq, Repr

/-- A member of a convergence set (R184). -/
structure Member where
  rank : Nat
  st : MStatus
  dep : Option Deposit
  deriving DecidableEq, Repr

/-- KIND of a convergence register (R184, R209). -/
inductive ConvKind where
  | free | range | mask
  deriving DecidableEq, Repr

/-- A convergence register (R184). -/
structure ConvReg where
  kind : ConvKind
  lo : BitVec 14
  hi : BitVec 14
  base : BitVec 14
  mask : BitVec 64
  phase : BitVec 32
  members : List Member
  deriving DecidableEq, Repr

/-- One value of a store that a load of its own thread or core may see is an Op; a sector of an L1 is this (R241, R247). -/
structure L1Sector where
  cluster : Nat
  sector : Nat
  valid : BitVec 64
  dirty : BitVec 64
  data : BitVec 512
  poison : Bool
  keep : Bool
  /-- Whether it was allocated as its set's next victim (R250). -/
  next : Bool
  /-- The way group its bytes are written back for: that of the context that wrote them last (R252). -/
  group : Nat
  deriving DecidableEq, Repr

/-- A line of a constant cache: 64 bytes of the window of a grid, held by a core (R241, R251). -/
structure ConstSector where
  core : Nat
  grid : GridId
  sector : Nat
  data : BitVec 512
  deriving DecidableEq, Repr

/-- A line of 256 bytes that its home slice holds (R241, R252): its number, its way in its set, the way group it was allocated for, and
its pin bit (R254). Its data is the home memory's. -/
structure SliceLine where
  line : Nat
  way : Nat
  group : Nat
  pinned : Bool
  deriving DecidableEq, Repr

/-- An armed waiter of a park table (R298 to R301). -/
structure Waiter where
  cluster : Nat
  thr : ThreadId
  space : Space
  scope : Scope
  team : TeamId
  /-- The watched address: physical for .g, an offset for .s; and the address WAITA gave. -/
  addr : Nat
  va : Nat
  size : Nat
  expect : Nat
  armed : Nat
  deriving DecidableEq, Repr

/-- The name of a record that has been raised: its context, SEQ, grid and team (R362). -/
structure Raised where
  ctx : Nat
  seq : Nat
  grid : Nat
  team : Nat
  deriving DecidableEq, Repr

/-- A fault record (R367). -/
structure FRec where
  ctx : Nat
  seq : Nat
  cls : Nat
  ir : Bool
  as : Bool
  dfr : Bool
  np : Bool
  ent : Bool
  rst : Bool
  pre : Bool
  grid : Nat
  team : Nat
  rank : Nat
  role : Nat
  fpc : Nat
  ppc : Nat
  word : Nat
  latch : List Word
  detail : Nat
  addr : Nat
  /-- The 40 bytes of OPND, as one little-endian number. -/
  opnd : Nat
  user : Nat
  nrep : Nat
  /-- Whether OPND holds the sources of a word that re-executes (R167, R376). The model's own field. -/
  read : Bool
  deriving DecidableEq, Repr

/-- A record held on its die because its ring was full (R366). -/
structure Held where
  die : Nat
  record : FRec
  deriving DecidableEq, Repr

/-- A thread-less request of the replay queue, or the registration of one that belongs to an operation or a copy (R369, R370). The
request of a load, store or atomic is its Op; of a copy its sector; of a slice read its queue slot. -/
inductive ReplayOf where
  | op (id : Nat)
  | copy (id req : Nat)
  | slice (team : TeamId) (req : Nat)
  | done (grid : GridId) (addr value : Nat)
  | engine (die ctx : Nat) (id : Nat)
  | island (job : Nat)
  deriving DecidableEq, Repr

/-- A parked request (R370). -/
structure Replay where
  die : Nat
  seq : Nat
  ctx : Nat
  what : ReplayOf
  cls : Nat
  ir : Bool
  va : Nat
  deriving DecidableEq, Repr

/-- Slot states of an operand queue (R313). -/
inductive SlotState where
  | empty | reserved | ready
  deriving DecidableEq, Repr

/-- Producers of an operand queue (R313). -/
inductive Producer where
  | slice | island | thread
  deriving DecidableEq, Repr

/-- A slot of an operand queue: 256 bytes and its state (R313). `freeFrom` is the cycle from which it can be reserved (R315). -/
structure QSlot where
  st : SlotState
  prod : Producer
  freeFrom : Nat
  poison : Bool
  data : BitVec 2048
  deriving DecidableEq, Repr

/-- An operand queue (R313). `claims` counts the slots matrix firings have claimed: the oldest that many slots of the queue, those not
yet reserved among them (R210, R219). -/
structure OpQueue where
  slots : List QSlot
  claims : Nat
  tail : BitVec 4
  limit : BitVec 5
  sheld : BitVec 5
  deriving DecidableEq, Repr

/-- Run states of an access slice (R327). -/
inductive SliceRun where
  | running | exited | stopped
  deriving DecidableEq, Repr

/-- A level of the slice's loop stack (R327). -/
structure LoopLevel where
  start : Addr
  cnt : Word
  it : Word
  deriving DecidableEq, Repr

/-- How far a request of an engine has come: not yet translated, translated, read, faulted with its class and side (true for a write)
before its record is posted, parked under a record (R370, R504). -/
inductive ReqStage where
  | walk | ready | got | faulted (cls : Nat) (write : Bool) | parked (seq : Nat)
  deriving DecidableEq, Repr

/-- A request of a slice read: at most one 64-byte sector, for the bytes of its slot from `off` (R331, R370). -/
structure SliceReq where
  id : Nat
  row : Nat
  off : Nat
  n : Nat
  va : Nat
  pa : Nat
  st : ReqStage
  deriving DecidableEq, Repr

/-- A read of the slice in flight: the queue slot it fills and the requests still to arrive (R331). -/
structure SliceRead where
  id : Nat
  queue : Nat
  slot : Nat
  weight : Bool
  cp : Nat
  pc : Addr
  word : Word
  latch : List Word
  reqs : List SliceReq
  deriving DecidableEq, Repr

/-- An access slice (R327, R328). -/
structure Slice where
  /-- Its place: four to each affine address engine of the core (R314). -/
  place : Nat
  apc : Addr
  x : List Dword
  loops : List LoopLevel
  strides : List Word
  run : SliceRun
  latch : List Word
  reads : List SliceRead
  deriving DecidableEq, Repr

/-- An accumulator element of a team tile that ACZERO's state does not describe (R80, R81). -/
structure Elem where
  s : Nat
  c : Nat
  e : Int
  sticky : Bool
  poison : Bool
  canon : Bool
  int : Bool
  h : Nat
  deriving DecidableEq, Repr

/-- An element and its place: tile, the rank residue (site) whose partition holds the share, index in the share (R210, R211). -/
structure ElemAt where
  tile : Nat
  site : Nat
  idx : Nat
  el : Elem
  deriving DecidableEq, Repr

/-- An entry of the engine order of a team (R210, R223): a fired matrix instruction, or an issued accumulator instruction that has not
finished. ACRES and ACCMP are held by their result operations. -/
structure EngineEntry where
  id : Nat
  /-- 0 a matrix instruction, 1 ACZERO, 2 ACLD, 3 ACST, 4 ACMOV. -/
  kind : Nat
  word : Word
  tile : Nat
  tile2 : Nat
  /-- The A source word of a matrix instruction, or the scratchpad offset of ACLD and ACST. -/
  a : Nat
  b : Nat
  rc : Nat
  en : Nat
  thr : ThreadId
  pos : Nat
  /-- The team partition of an accumulator instruction (R211). -/
  site : Nat
  /-- Participants, each with the number its k.mx counts (R221, R222). -/
  members : List (ThreadId × Nat)
  /-- Queue slots claimed: queue and count, for A and for B (R219). -/
  claims : List (Nat × Nat)
  started : Bool
  /-- Until it starts, the firing cycle of a matrix instruction; then the cycle of its retirement, or of its finish. -/
  due : Nat
  deriving DecidableEq, Repr

/-- Handler-entry state of a team (R362, R372). -/
inductive EntryState where
  | closed | opened
  deriving DecidableEq, Repr

/-- A pending-copy count of a scratchpad line; the line is absent while it is listed (R241, R244). `fed` says whether a copy has delivered bytes
into it since it became absent. -/
structure LineCount where
  line : Nat
  count : Nat
  fed : Bool
  deriving DecidableEq, Repr

/-- A placed team (R32, R184, R210, R241, R313, R327, R362, R379). -/
structure Team where
  id : TeamId
  /-- The core of the team; the even core of its cluster when it spans (R33, R49). -/
  core : Nat
  spanning : Bool
  /-- Scratchpad region in 4 KiB blocks (R46). -/
  scr : Nat
  scratch : List Host.Cell
  lines : List LineCount
  /-- The cycle after the last one in which a cairn instruction of the team issued; the model's own field (R468). -/
  cairnAt : Nat
  tags : List Nat
  poison : List Nat
  crs : List ConvReg
  elems : List ElemAt
  engine : List EngineEntry
  queues : List OpQueue
  slice : Option Slice
  entry : EntryState
  posted : Nat
  frozen : Option Bool
  deadline : Option Nat
  lastIssue : Nat
  pausedUntil : Nat
  lastMove : Option Nat
  /-- The cycle of its placement (R348). -/
  placedAt : Nat
  /-- Register blocks: partition, top block and first register of each thread's block, by rank order (R131). -/
  blocks : List (Nat × Nat × Nat)
  segments : List (Nat × Nat × Nat)
  deriving DecidableEq, Repr

/-- A role descriptor of a launch record (R46). -/
structure RoleDesc where
  entry : Addr
  rcnt : Nat
  rbud : Nat
  deriving DecidableEq, Repr

/-- The fields of a launch record (R44 to R46). -/
structure LaunchRec where
  ver : Nat
  nrole : Nat
  prio : Nat
  det : Bool
  span : Bool
  depth : Nat
  acn32 : Nat
  acn64 : Nat
  svcp : Nat
  dl : Nat
  nteam : Nat
  scr : Nat
  depa : Nat
  depv : Nat
  dkind : Nat
  roles : List RoleDesc
  slots : List Word
  arg : Dword
  stkb : Nat
  stks : Nat
  aent : Nat
  donea : Nat
  donev : Dword
  user : Dword
  deriving DecidableEq, Repr

/-- Bytes of a copy that lie in one 64-byte sector on each side: row, first byte, count (R370, R504). -/
structure Chunk where
  row : Nat
  i : Nat
  n : Nat
  deriving DecidableEq, Repr

/-- A sector request a copy has made: its chunk, its translated addresses, its data with a mark per byte (R260), its stage. -/
structure CopyReq where
  id : Nat
  chunk : Chunk
  srcPa : Nat
  dstPa : Nat
  data : Nat
  marks : Nat
  st : ReqStage
  deriving DecidableEq, Repr

/-- A receiver of a copy's scratchpad bytes, with the bytes of a TCAST delivered to it so far in piece order, and those sent towards it (R307,
R398). -/
structure Receiver where
  team : TeamId
  core : Nat
  pos : Nat
  sent : Nat
  deriving DecidableEq, Repr

/-- Bytes of one destination unit a copy has delivered without a mark (R260): receiver, unit, byte mask. -/
structure CleanUnit where
  recv : Nat
  unit : Nat
  mask : Nat
  deriving DecidableEq, Repr

/-- An asynchronous copy in flight (R305 to R312, R504). `kind` is 0 TCOPY, 1 TCAST, 2 TRED.bf16, 3 TRED.f32. `group` numbers the
operation it counts as: its own, but for the parts of a restored copy (R312). -/
structure Copy where
  id : Nat
  group : Nat
  pos : Nat
  thr : ThreadId
  role : Nat
  core : Nat
  kind : Nat
  srcS : Space
  dstS : Space
  src : Nat
  dst : Nat
  rowb : Nat
  nrow : Nat
  sstr : Int
  dstr : Int
  cairn : Word
  scope : Option Scope
  cp : Nat
  pc : Addr
  word : Word
  latch : List Word
  srcTeam : TeamId
  /-- Receivers of scratchpad bytes; for a global or weight-store destination, the issuing team, which holds the cairn. -/
  recvs : List Receiver
  /-- Whether its destination lines are pending (R244). -/
  started : Bool
  todo : List Chunk
  /-- The piece a TCAST is moving (R397). -/
  piece : Nat
  reqs : List CopyReq
  clean : List CleanUnit
  skipped : Bool
  /-- A TCAST's chain in its present piece (R397, R398): whether its reservation is on its way, the members that have taken a tile buffer, the
  members whose grants have arrived, and the core in whose chain wait slot the reservation waits. -/
  walk : Bool
  taken : Nat
  grants : List Nat
  slotAt : Option Nat
  /-- The receivers it has completed in, whose ICNT has fallen (R467). -/
  done : List TeamId
  deriving DecidableEq, Repr

/-- A byte that a run of an engine or an island has read: its virtual address, its value and its poison mark (R436, R447). -/
structure GotByte where
  va : Nat
  val : Nat
  mark : Bool
  deriving DecidableEq, Repr

/-- A submission to an island (R323, R324, R446): ISUB and TRACE. -/
structure IslandJob where
  id : Nat
  /-- 0 raster, 1 ray, 2 filter. -/
  cls : Nat
  /-- The raster island of the device, the cluster of a ray island, or the core of a filter island. -/
  isl : Nat
  thr : ThreadId
  core : Nat
  ctl : Nat
  /-- CF[12:4] of the word (R336). -/
  cf : Nat
  /-- The record, as one little-endian number, and its size. -/
  recd : Nat
  size : Nat
  queue : Nat
  slots : List Nat
  trace : Bool
  /-- The payload frame of a TRACE: the address of its first frame word and the number of them (R325). -/
  frame : Nat
  frameWords : Nat
  /-- Whether its island has taken it into its input buffer (R323, R446). -/
  buffered : Bool
  /-- The bytes its run has read so far (R447). -/
  got : List GotByte
  /-- Bytes whose read was cancelled: address and count (R447). -/
  dead : List (Nat × Nat)
  /-- The request that faulted: its address, its size and whether it is a commit (R447). -/
  fault : Option (Nat × Nat × Bool)
  parked : Option Nat
  /-- Commits still to perform: address and value (R435, R475). -/
  commits : List (Nat × Nat)
  /-- Counts to add when it completes: STPRIM, STCULL, passes (R474, R475). -/
  prim : Nat
  cull : Nat
  passes : Nat
  queries : List Nat
  /-- Whether its slot data have been given to the network, and the slots still to arrive (R395). -/
  offered : Bool
  left : List Nat
  /-- The result: its bytes, their number, and how many of its slots, the first ones, carry the poison mark. -/
  result : Option (Nat × Nat × Nat)
  deriving DecidableEq, Repr

/-- A team of a restored image before it is placed (R385): the team, its threads, operations, copies and requests, their places counted
from core 0 of its cluster. -/
structure SavedTeam where
  team : Team
  threads : List Thread
  ops : List Op
  copies : List Copy
  jobs : List IslandJob
  replays : List Replay
  recs : List FRec
  deriving DecidableEq, Repr

/-- A live grid (R31, R44, R344). -/
structure Grid where
  id : GridId
  launch : LaunchRec
  /-- The 256 bytes of the record as read (R44). -/
  raw : List Byte
  kernelMode : Bool
  svcp : Nat
  order : Nat
  nextTeam : Nat
  relaunch : Nat
  /-- Cores that held a team of the grid (R251, R286). -/
  placedCores : List Nat
  /-- The die whose pending-launch store took the record (R340, R351). -/
  die : Nat
  /-- The launching thread, its core and the position of its LAUNCH, until the record's release completes (R344). -/
  src : Option (ThreadId × Nat × Nat)
  /-- Whether it is eligible: released, and journalled when a journal is on (R344, R490); the record's source address. -/
  elig : Bool
  srcVa : Nat
  /-- Whether its dependence is met (R346). -/
  ready : Bool
  /-- The cores it reserves: one, or both of a cluster, until a team of it is placed (R348). -/
  reserved : List Nat
  /-- Whether it is in a context image: its record keeps its store entry while its context is not resident (R344, R382). -/
  saved : Bool
  /-- While it is in an image: the number and the size of each saved relaunch team (R30, R355). -/
  sizes : List (Nat × Nat)
  /-- And its submissions to islands in their issue order: the team, and the queue of an ISUB or 8 and the rank of a TRACE (R335). -/
  subs : List (Nat × Nat)
  /-- And the numbers k of its saved relaunch batches, ascending (R361). -/
  ks : List Nat
  /-- Saved teams of a restore that still have to be placed (R385). -/
  waiting : List SavedTeam
  deriving DecidableEq, Repr

/-- A verified version of an island image (R440, R441): the number of its post, which tells versions apart (R443), class, identifier,
implemented operations, and bytes 0x000 to 0x3FF. -/
structure Img where
  post : Nat
  cls : Nat
  imid : Nat
  opmask : Nat
  body : List Byte
  deriving DecidableEq, Repr

/-- A slot of the image store: its current version, the superseded one, and the cycle in which the current one was posted (R24, R439,
R443). -/
structure ImgSlot where
  cur : Option Img
  old : Option Img
  posted : Option Nat
  deriving DecidableEq, Repr

/-- The resolved binding of a resident context (R445). -/
structure Bound where
  raster : Option Img
  ray : Option Img
  filter : Option Img
  ryjb : Nat
  sdfb : Nat
  eps : Nat
  lim : Nat
  deriving DecidableEq, Repr

/-- An addition to a statistics or query register in the present cycle of a die: 0 STPRIM, 1 STCULL, 2 + q OQNq (R473). -/
structure Addition where
  die : Nat
  reg : Nat
  n : Dword
  deriving DecidableEq, Repr

/-- A context: its register page and its own counters (R362, R365, R378, R404, R414, R478). -/
structure Ctx where
  num : Nat
  live : Bool
  fseq : Word
  fqb : Dword
  fqc : Word
  preq : Bool
  pstat : Nat
  csab : Dword
  csas : Word
  pneed : Word
  ttb : Dword
  inva : Dword
  invc : Word
  invBusy : Bool
  invLost : Bool
  invErr : Bool
  /-- The running invalidation: its first granule, its granules, and the first operation issued after it began (R415). -/
  invFrom : Nat
  gridSeq : Word
  wayGroup : Nat
  /-- CXC.BUSY, OWN and TEE, and CXPM0 to CXPM3 (R478). -/
  busy : Bool
  own : Nat
  tee : Bool
  cxpm : List Word
  /-- QMAP0 to QMAP7 (R343). -/
  qmap : List Word
  /-- JNB, JNC and JNS (R489). -/
  jnb : Dword
  jnc : Word
  jns : Bool
  /-- RLJB and RLJC, one pair per die (R423). -/
  rljb : List Dword
  rljc : List Word
  /-- Island bindings (R445), and what they resolved to (R439). -/
  imbd : Word
  ryjb : Dword
  sdfb : Dword
  sdft : Word
  sdfs : Word
  bound : Option Bound
  /-- Statistics and queries (R473). -/
  stprim : Dword
  stcull : Dword
  oqj : List Dword
  oqn : List Dword
  /-- The additions of the present cycle, which come after a write of it (R473). -/
  added : List Addition
  /-- The device partition sampled at the context's residency: its cores (R55, R479). -/
  cores : List Nat
  deriving DecidableEq, Repr

/-- A launch queue's register block (R340). -/
structure LaunchQ where
  lqb : Dword
  lqc : Word
  lqci : Word
  pw : Bool
  err : Bool
  full : Bool
  deriving DecidableEq, Repr

/-- The control plane's registers of a die: spill ring and service ring (R345, R356). -/
structure DieCtl where
  lsrb : Dword
  lsrc : Word
  lsrp : Nat
  lsrk : Nat
  sqb : Dword
  sqc : Word
  svres : Word
  deriving DecidableEq, Repr

/-- A record in a spill ring: its acceptance order, its launcher, and whether its context has ended since (R345, R346, R377). -/
structure Spill where
  die : Nat
  order : Nat
  src : ThreadId × Nat × Nat
  dead : Bool
  deriving DecidableEq, Repr

/-- A deposit of the reorder store of a core (R353). -/
structure ReorderDep where
  core : Nat
  grid : GridId
  entry : Addr
  key : Nat
  payload : List Word
  bud : Nat
  team : Nat
  rank : Nat
  /-- Program-order position of the REORD (R285). -/
  pos : Nat
  deriving DecidableEq, Repr

/-- A relaunch batch that has not been placed (R354, R355, R361). `anchor` is the saved core of a restored batch, and `chosen` says whether
the core of its deposits is settled. -/
structure ReBatch where
  core : Nat
  anchor : Option Nat
  chosen : Bool
  grid : GridId
  k : Nat
  deps : List ReorderDep
  deriving DecidableEq, Repr

/-- A member of a service batch: the thread, its D and the number of words (R357). -/
structure SvcMember where
  thr : ThreadId
  op : Nat
  d : Nat
  n : Nat
  deriving DecidableEq, Repr

/-- An outstanding service batch: its die, its number, its slot's address and its context (R357, R359). -/
structure SvcBatch where
  die : Nat
  j : Nat
  va : Nat
  ctx : Nat
  members : List SvcMember
  deriving DecidableEq, Repr

/-- An island: the context it serves and the version it holds, its acceptances since its boundary, the cycle its load ends, and the contexts
whose submissions wait, the oldest first (R446). -/
structure Island where
  cls : Nat
  isl : Nat
  ctx : Option Nat
  img : Option Img
  count : Nat
  loaded : Nat
  waiting : List Nat
  deriving DecidableEq, Repr

/-- A hand-off record on its way to a raster island of a die (R433). `lowest` marks an entry's record for its lowest bin. -/
structure HandOff where
  isl : Nat
  pos : Nat
  cl : Nat
  inst : Nat
  bin : Nat
  crec : Nat
  lowest : Bool
  deriving DecidableEq, Repr

/-- A key of the cut: cluster, instance, the fallback mark, the group that added it (R430, R431). -/
structure CutKey where
  cl : Nat
  inst : Nat
  fb : Bool
  gr : Nat
  deriving DecidableEq, Repr

/-- A walk under way (R417, R429): the visited marks, the counts, and what it has collected. -/
structure Cut where
  seen : List (Nat × Nat)
  visits : Nat
  culled : Nat
  bad : Nat
  keys : List CutKey
  misses : List (Nat × Nat)
  deriving DecidableEq, Repr

/-- A kept entry with what the engine reads of it: its key, box, bins, triangles (R432, R434). -/
structure CutEntry where
  key : CutKey
  box : List Nat
  bins : List Nat
  tris : Nat
  deriving DecidableEq, Repr

/-- What a Ridgeline job has still to do, one task at a time (R424 to R434): read its ring, read its descriptor, check it, take instance n, take
patch k of an instance, visit a group at λ with some depths left, select a group, go through children k to m of a list at `first`, sort and
cut off the keys, read an entry, and form the outputs. -/
inductive RidgeTask where
  | ring | descriptor | check
  | inst (n : Nat)
  | patch (n k : Nat)
  | visit (n patch lam left g : Nat)
  | select (n patch g : Nat)
  | kids (n patch lam left first k m : Nat)
  | sort
  | entry (key : CutKey)
  | outputs
  deriving DecidableEq, Repr

/-- A Ridgeline job (R417, R424, R436, R437): its ring and descriptor, the tasks, writes and hand-off records still to make, and its results. -/
structure RidgeJob where
  id : Nat
  ctx : Nat
  ring : Nat
  /-- The consumer count at its acceptance, its descriptor's address and the 512 bytes read there. -/
  cw : Nat
  desc : Nat
  raw : Nat
  /-- The graph's header, the bytes the engine has read in this run, each once (R436), and the tasks left, the next one first. -/
  hdr : Nat
  got : List GotByte
  todo : List RidgeTask
  cut : Cut
  entries : List CutEntry
  /-- Writes still to make: address, byte count, value. -/
  writes : List (Nat × Nat × Nat)
  handoffs : List HandOff
  code : Nat
  /-- NCUT, NMISS, NDROP, NVISIT, NCULL, NBAD. -/
  stats : List Nat
  prim : Nat
  cull : Nat
  passes : Nat
  queries : List Nat
  /-- The stamp of the acceptance of its next hand-off record, while the raster island holds that one (R447, R448); what the island has read
  for it, and the commits still to perform. -/
  taken : Option Nat
  islandGot : List GotByte
  commits : List (Nat × Nat)
  /-- Whether its reads are made and its outputs computed. -/
  computed : Bool
  dead : List (Nat × Nat)
  fault : Option (Nat × Nat × Bool)
  parked : Option Nat
  /-- Whether it makes the writes of its end (R424), the address of DONE, and whether its counts have been added (R474). -/
  ending : Bool
  doneVa : Option Nat
  counted : Bool
  deriving DecidableEq, Repr

/-- A die's Ridgeline engine (R417): its current job, its suspended jobs, the context it served last, and whether it is awake. -/
structure Ridge where
  cur : Option RidgeJob
  suspended : List RidgeJob
  last : Nat
  awake : Bool
  /-- Ordered-stream sequence towards each raster island of the die (R395, R433). -/
  seqs : List (BitVec 8)
  deriving DecidableEq, Repr

/-- The state of a virtual function's TDI (R482): 0 CONFIG_UNLOCKED, 1 CONFIG_LOCKED, 2 RUN, 3 ERROR; its ranges as first byte and size. -/
structure Tdi where
  vf : Nat
  st : Nat
  ranges : List (Nat × Nat)
  /-- The pages of the contexts that were bound to it when it ended. -/
  gone : List Nat
  deriving DecidableEq, Repr

/-- Trim and flit counters of a router port, and the n-cycle of their last clear, whose other increments are lost (R476). -/
structure TrimCount where
  die : Nat
  site : Nat
  port : Nat
  trims : Word
  flits : Word
  cleared : Option Nat
  deriving DecidableEq, Repr

/-- What a packet belongs to (R394): nothing that can be cancelled, an operation or a copy of a context, or a slot of a submission. -/
inductive NetOwner where
  | none
  | op (ctx id : Nat)
  | copy (ctx id : Nat)
  | slot (ctx job slot : Nat)
  deriving DecidableEq, Repr

/-- A place a packet's header has left: the site, the port it came in by, the unit, and the port it left by (R387). Site and last port name the
link it has crossed. -/
structure NetPlace where
  die : Nat
  site : Nat
  inPort : Nat
  unit : Nat
  port : Nat
  deriving DecidableEq, Repr

/-- A packet in the network: its header, its payload flits, what it belongs to, the site where its header stands, the port it came in by (as
R476 codes them: 0 to 3, 4 local, 6 a link module), and its unit there: 0 the router, 1 the crossing buffer, 2 the destination interface,
3 the receive reorder buffer, 4 a slice that has taken a write and not performed it (R386, R388, R393, R395). `trail` lists the places the
header has left, and `flits` how many links of that way each payload flit has crossed (R391). -/
structure Packet where
  id : Nat
  header : Dword
  payload : List (BitVec 512)
  owner : NetOwner
  die : Nat
  site : Nat
  inPort : Nat
  unit : Nat
  trail : List NetPlace
  flits : List Nat
  deriving DecidableEq, Repr

/-- A packet that waits in its interface to be sent (R396): whether it is new, and not an answer or a resend, and the sector of its payload. -/
structure Outgoing where
  header : Dword
  payload : List (BitVec 512)
  owner : NetOwner
  fresh : Bool
  sector : Option Nat
  deriving DecidableEq, Repr

/-- The n-cycles in which a link last moved a header and a payload flit (R391): by the site and the port it leads out of. -/
structure Wire where
  die : Nat
  site : Nat
  port : Nat
  head : Option Nat
  flit : Option Nat
  deriving DecidableEq, Repr

/-- The replay buffer of a die-to-die link module: the headers it sent last, at most 64 (R400). -/
structure LinkReplay where
  die : Nat
  site : Nat
  headers : List Dword
  deriving DecidableEq, Repr

/-- The order of headers at a router (R401): the port after which its rotation begins; the n-cycle of its last arrivals, the ports of the first
and the latest of them, and whether more than one came. -/
structure RouterTurn where
  die : Nat
  site : Nat
  after : Nat
  tick : Nat
  first : Nat
  latest : Nat
  contested : Bool
  deriving DecidableEq, Repr

/-- A retained payload: the header it was sent with, its flits, what it belongs to, and the 64-byte sector it is for, if for one (R393,
R394). -/
structure Retained where
  header : Dword
  payload : List (BitVec 512)
  owner : NetOwner
  sector : Option Nat
  deriving DecidableEq, Repr

/-- A re-request entry: the trimmed header, its trim count, the n-cycle its window ends, and whether the re-request has been sent (R393). -/
structure ReReq where
  header : Dword
  count : Nat
  due : Nat
  sent : Bool
  deriving DecidableEq, Repr

/-- An ordered stream, at its destination or at its source: its source and destination ports, as bits 30 to 11 of its headers, and the SEQ handed
on, or sent, next (R395). -/
structure Stream where
  ports : Nat
  next : BitVec 8
  deriving DecidableEq, Repr

/-- Who takes the next step. The model's own field (log 1). -/
inductive Turn where
  | event (i : Instr) (args : List Nat)
  | thread (t : ThreadId)
  | slice (t : TeamId)
  | cycle (die : Nat)
  deriving DecidableEq, Repr

/-- A level-1 TLB entry of a core, or a level-2 TLB entry of a die (R403). -/
structure TlbEntry where
  place : Nat
  tr : Translation
  deriving DecidableEq, Repr

/-- A vector pipe and the cycle until which a bundle holds it (R116). -/
structure PipeBusy where
  core : Nat
  part : Nat
  pipe : Nat
  till : Nat
  deriving DecidableEq, Repr

/-- The matrix engines of a core and the cycle until which a started matrix instruction holds them, whatever becomes of its team (R28,
R226). -/
structure EngineHold where
  core : Nat
  till : Nat
  deriving DecidableEq, Repr

/-- Whose word is being executed, or is to be. -/
inductive Actor where
  | none | thread (t : ThreadId) | slice (t : TeamId)
  deriving DecidableEq, Repr

/-- A thread, or the access slice of a team, that a partition of a core has picked to issue a word in the present cycle and that has not
issued it yet (R328, R350). -/
structure Pick where
  core : Nat
  part : Nat
  who : Actor
  deriving DecidableEq, Repr

/-- An affine address engine and the place of the instance that it served last (R328). -/
structure Rotor where
  core : Nat
  part : Nat
  last : Nat
  deriving DecidableEq, Repr

/-- The whole device. -/
structure State where
  /-- CAP0 to CAP3 (R25). -/
  caps : List Word
  /-- Cycles of each die since its cores were reset (R470, R21). -/
  cycles : List Nat
  ctxs : List Ctx
  grids : List Grid
  teams : List Team
  threads : List Thread
  ops : List Op
  copies : List Copy
  /-- Memory behind the slices, by physical address (R259). -/
  home : List Host.Cell
  homePoison : List Nat
  /-- The weight store, by .w address (R255). -/
  weights : List Host.Cell
  weightPoison : List Nat
  /-- Refresh slot of each die (R241, R255). -/
  refresh : List (BitVec 4)
  /-- When the slot of each die began: its cycle, its n-cycle, and whether its begin was seen: the slot at reset may be under way (R255,
  R257). -/
  slotAt : List (Nat × Nat × Bool)
  l1 : List L1Sector
  consts : List ConstSector
  tlb1 : List TlbEntry
  tlb2 : List TlbEntry
  /-- Lines of the stacked cache, those to be replaced first at the front (R241, R250, R252). -/
  slices : List SliceLine
  /-- Miss-status entries in flight: cluster and sector (R241, R248). -/
  misses : List (Nat × Nat)
  scwg : List Word
  waiters : List Waiter
  /-- Threads whose CRN.WAIT a completion of this cycle has passed: they become Ready as the cycle ends (R466, R468). -/
  freed : List ThreadId
  replays : List Replay
  held : List Held
  /-- Records not made yet, whose raisers wait for room among the 256 held records of their die, the oldest first (R366). Until such a record
  is made, a number of 2^32 or more stands for its SEQ. -/
  unposted : List Held
  /-- DONEV stores of completed grids that faulted while the replay queue of their die was full: die, grid, address, value (R48, R371). -/
  doneWait : List (Nat × GridId × Nat × Nat)
  /-- Records posted and not answered (R372). -/
  recs : List FRec
  /-- The SEQs each live context has given, with the team of each record: the records that ERET's status 1 asks about (R362, R376). -/
  raised : List Raised
  stsl : List Dword
  stsc : List Word
  lqs : List LaunchQ
  ctls : List DieCtl
  spills : List Spill
  reorder : List ReorderDep
  batches : List ReBatch
  svc : List SvcBatch
  imgSlots : List ImgSlot
  /-- IMGB, IMGC and IMGS (R443), and the post being verified. -/
  imgb : Dword
  imgc : Word
  imgs : Nat
  islands : List Island
  jobs : List IslandJob
  ridges : List Ridge
  /-- BOOT, SCUNP (R480, R487). -/
  boot : Word
  scunp : Word
  /-- Pending wake of the Summit core (R24, R194). -/
  summitWake : Bool
  /-- Public keys of slots 0 to 15 (R486); slot 0, which is fused, is listed as none. KEYB and KEYC. -/
  keys : List (Option (Nat × Nat))
  keyb : Dword
  keyc : Word
  tdis : List Tdi
  /-- SPDM certificate slots 1 to 7, and the last measurements response (R485). -/
  certs : List (List Byte)
  measured : List Byte
  /-- Clock levels, TCNT, PWLIM (R491). -/
  levels : List Nat
  tcnt : Nat
  pwlim : Word
  tcsel : Word
  trims : List TrimCount
  packets : List Packet
  routers : List RouterTurn
  retained : List Retained
  rereqs : List ReReq
  streams : List Stream
  /-- Packets that wait in their interfaces, the streams at their sources, the links' last uses, and the modules' replay buffers (R391, R395,
  R396, R400). -/
  outbox : List Outgoing
  sources : List Stream
  wires : List Wire
  linkReplays : List LinkReplay
  /-- N-cycles of each die's network clock (R256, R393). -/
  ncycs : List Nat
  pipes : List PipeBusy
  holds : List EngineHold
  /-- Whether the issues of the present cycle of each die are picked, and those picked that have not issued yet (R328, R350). -/
  dealt : List Bool
  picks : List Pick
  rotors : List Rotor
  /-- The launch queue each die's control plane scanned last, by its number in the die (R342). -/
  lqLast : List Nat
  /-- Cores, or even cores of clusters, on which a placement failed for want of contiguous space (R133, R348). -/
  compacting : List Nat
  /-- The model's own fields (log 1): operation numbers, the free-value counter, the turns to come, the actor and its word. -/
  nextId : Nat
  fresh : Nat
  agenda : List Turn
  /-- Which of the enabled occurrences of an event happens: the numbers of what it is about (log 1). -/
  pick : List Nat
  cur : Actor
  ir : Word
  deriving DecidableEq, Repr

/-- Why a step stops the model. -/
inductive Fault where
  /-- Raised by the meaning of a thread's or slice's word when no such thread or slice is acting: the model's own call outside a
  step. Safe: no step reaches it. -/
  | noActor
  deriving DecidableEq, Repr

/-- Why a step is refused. -/
inductive Refusal where
  /-- Raised by an arm whose instruction has no meaning yet. Safe. -/
  | notModelled (mnemonic : String)
  deriving DecidableEq, Repr

/-- The builds whose capability words the spec gives (R26). -/
inductive Build7400 where
  /-- PLN-7420, console build with 64 GiB. -/
  | console7420
  /-- PLN-7420, workstation build with 64 GiB, the external port and expansion memory. -/
  | workstation7420
  /-- PLN-7410, console build. -/
  | console7410
  deriving DecidableEq, Repr

/-- CAP0 to CAP3 of a build (R25, R26). -/
def capWords : Build7400 → List Word
  | .console7420 => [0x01002001, 0xFFFFFFFF, 0xFFFFFFFF, 0x00074001]
  | .workstation7420 => [0x01002001, 0xFFFFFFFF, 0xFFFFFFFF, 0x00074019]
  | .console7410 => [0x01001001, 0x00FFFFFF, 0x00FFFFFF, 0x00074002]

/-- The device right after power-on reset of a PLN-7420 console build (R26, R487; log 2). -/
def State.reset : State where
  caps := capWords .console7420
  cycles := [0, 0]
  ctxs := []
  grids := []
  teams := []
  threads := []
  ops := []
  copies := []
  home := []
  homePoison := []
  weights := []
  weightPoison := []
  refresh := [0, 0]
  slotAt := [(0, 0, false), (0, 0, false)]
  l1 := []
  consts := []
  tlb1 := []
  tlb2 := []
  slices := []
  misses := []
  scwg := [0xFFFF, 0, 0, 0, 0, 0, 0, 0]
  waiters := []
  freed := []
  replays := []
  held := []
  unposted := []
  doneWait := []
  recs := []
  raised := []
  stsl := List.replicate 16 0
  stsc := List.replicate 16 0
  lqs := List.replicate 32 ⟨0, 0, 0, false, false, false⟩
  ctls := [⟨0, 0, 0, 0, 0, 0, 0⟩, ⟨0, 0, 0, 0, 0, 0, 0⟩]
  spills := []
  reorder := []
  batches := []
  svc := []
  imgSlots := List.replicate 16 ⟨none, none, none⟩
  imgb := 0
  imgc := 0
  imgs := 0
  islands := []
  jobs := []
  ridges := [⟨none, [], 0, false, [0, 0, 0, 0]⟩, ⟨none, [], 0, false, [0, 0, 0, 0]⟩]
  boot := 0
  scunp := 0
  summitWake := false
  keys := List.replicate 16 none
  keyb := 0
  keyc := 0
  tdis := []
  certs := List.replicate 7 []
  measured := []
  levels := [0, 0]
  tcnt := 0
  pwlim := 420
  tcsel := 0
  trims := []
  packets := []
  routers := []
  retained := []
  rereqs := []
  streams := []
  outbox := []
  sources := []
  wires := []
  linkReplays := []
  ncycs := [0, 0]
  pipes := []
  holds := []
  dealt := [false, false]
  picks := []
  rotors := []
  lqLast := [15, 15]
  compacting := []
  nextId := 0
  fresh := 0
  agenda := []
  pick := []
  cur := .none
  ir := 0

/-- The device right after power-on reset of a build: its words are fixed from power-on, and all else is as in every build (R25, R26, R487). -/
def State.resetOf (b : Build7400) : State := { State.reset with caps := capWords b }

end Machine
end Sys2Proof
end

