-- ==== Sys2Proof/Machine/Memory.lean ====
section
/-! DEFINITION. Byte memories as canonical lists of cells: addresses strictly rising, and no entry equal to what an unlisted address
reads as (DESIGN CHOICE: 0, log 3). Wider reads and writes are little-endian (R9), decided here once. -/

namespace Sys2Proof
namespace Machine

/-- What an address that nothing lists reads as (log 3). -/
def unlisted : Byte := 0

/-- The byte at an address. -/
def cellGet : List Host.Cell → Nat → Byte
  | [], _ => unlisted
  | (a, b) :: m, x => if a = x then b else cellGet m x

/-- The memory with one byte written, in canonical form. -/
def cellPut : List Host.Cell → Nat → Byte → List Host.Cell
  | [], x, v => if v = unlisted then [] else [(x, v)]
  | (a, b) :: m, x, v =>
    if x < a then (if v = unlisted then (a, b) :: m else (x, v) :: (a, b) :: m)
    else if x = a then (if v = unlisted then m else (a, v) :: m)
    else (a, b) :: cellPut m x v

/-- Addresses strictly rise from a lower bound and no entry is the unlisted byte. -/
def Memory.wfFrom : Nat → List Host.Cell → Bool
  | _, [] => true
  | lo, (a, b) :: m => decide (lo ≤ a) && decide (b ≠ unlisted) && Memory.wfFrom (a + 1) m

/-- The canonical form of a memory. -/
def Memory.wf (m : List Host.Cell) : Bool := Memory.wfFrom 0 m

/-- The n bytes from address a, as one little-endian number. -/
def memRead (m : List Host.Cell) (a : Nat) : Nat → Nat
  | 0 => 0
  | n + 1 => (cellGet m a).toNat + 256 * memRead m (a + 1) n

/-- The memory with n little-endian bytes of v written from a, those whose bit of the mask is 1. -/
def memWriteMask (m : List Host.Cell) (a : Nat) : Nat → Nat → Nat → List Host.Cell
  | 0, _, _ => m
  | n + 1, v, mask =>
    memWriteMask (if mask % 2 = 1 then cellPut m a (BitVec.ofNat 8 v) else m) (a + 1) n (v / 256) (mask / 2)

/-- The memory with n little-endian bytes of v written from a. -/
def memWrite (m : List Host.Cell) (a n v : Nat) : List Host.Cell := memWriteMask m a n v (2 ^ n - 1)

/-- The bytes from a, n of them. -/
def memBytes (m : List Host.Cell) (a : Nat) : Nat → List Byte
  | 0 => []
  | n + 1 => cellGet m a :: memBytes m (a + 1) n

/-- A list of bytes stored from a. -/
def memStore (m : List Host.Cell) (a : Nat) : List Byte → List Host.Cell
  | [] => m
  | b :: bs => memStore (cellPut m a b) (a + 1) bs

/-- The memory without the n bytes from a: they read as unlisted again. -/
def memClear (m : List Host.Cell) (a n : Nat) : List Host.Cell := m.filter fun c => decide (c.1 < a ∨ a + n ≤ c.1)

/-- A set of natural numbers kept as a list without repeats: insertion. -/
def setAdd (l : List Nat) (x : Nat) : List Nat := if l.contains x then l else l ++ [x]

/-- Removal from a list kept as a set. -/
def setDel (l : List Nat) (x : Nat) : List Nat := l.filter (· ≠ x)

/-- The units of a size that the n bytes from a touch. -/
def unitsOf (a n unit : Nat) : List Nat :=
  if n = 0 then [] else (List.range ((a + n - 1) / unit - a / unit + 1)).map (a / unit + ·)

/-- The units of a size that the n bytes from a cover whole. -/
def wholeUnits (a n unit : Nat) : List Nat :=
  (unitsOf a n unit).filter fun u => decide (a ≤ u * unit ∧ u * unit + unit ≤ a + n)

end Machine
end Sys2Proof
end

