-- ==== Sys2Proof/Machine/Ops.lean ====
section
/-! DEFINITION. The named operations over the state: finding and updating threads, teams, grids and contexts, places and clocks, the
register file (R114, R129), home memory and waiters (R299), fault records (R364 to R367), taking a trap (R364), and the return from
one (R376, R510). -/

namespace Sys2Proof
namespace Machine

-- ---------------------------------------------------------------- finding and updating

/-- A thread by name. -/
def State.thread? (s : State) (t : ThreadId) : Option Thread := s.threads.find? fun x => decide (x.id = t)

/-- A team by name. -/
def State.team? (s : State) (t : TeamId) : Option Team := s.teams.find? fun x => decide (x.id = t)

/-- A live grid by name. -/
def State.grid? (s : State) (g : GridId) : Option Grid := s.grids.find? fun x => decide (x.id = g)

/-- A context by number. -/
def State.ctx? (s : State) (c : Nat) : Option Ctx := s.ctxs.find? fun x => decide (x.num = c)

/-- An operation in flight by number. -/
def State.op? (s : State) (o : Nat) : Option Op := s.ops.find? fun x => decide (x.id = o)

/-- Changes one thread. -/
def State.updThread (s : State) (t : ThreadId) (f : Thread → Thread) : State :=
  { s with threads := s.threads.map fun x => if x.id = t then f x else x }

/-- Changes one team. -/
def State.updTeam (s : State) (t : TeamId) (f : Team → Team) : State :=
  { s with teams := s.teams.map fun x => if x.id = t then f x else x }

/-- Changes one grid. -/
def State.updGrid (s : State) (g : GridId) (f : Grid → Grid) : State :=
  { s with grids := s.grids.map fun x => if x.id = g then f x else x }

/-- Changes one context. -/
def State.updCtx (s : State) (c : Nat) (f : Ctx → Ctx) : State :=
  { s with ctxs := s.ctxs.map fun x => if x.num = c then f x else x }

/-- Changes one operation. -/
def State.updOp (s : State) (o : Nat) (f : Op → Op) : State :=
  { s with ops := s.ops.map fun x => if x.id = o then f x else x }

/-- Removes an operation that has ended. -/
def State.dropOp (s : State) (o : Nat) : State := { s with ops := s.ops.filter fun x => decide (x.id ≠ o) }

-- ---------------------------------------------------------------- places and clocks

/-- The die of a core (R16). -/
def dieOf (core : Nat) : Nat := core / 64

/-- The cluster of a core, counted over the device (R16). -/
def clusterOf (core : Nat) : Nat := core / 2

/-- The cycle count of a die. -/
def State.cycleOf (s : State) (die : Nat) : Nat := nth s.cycles die 0

/-- The cycle count seen by a core. -/
def State.now (s : State) (core : Nat) : Nat := s.cycleOf (dieOf core)

/-- The site of a rank: the partition of a team, over both cores when it spans (R34). -/
def siteOf (spanning : Bool) (rank : Nat) : Nat := if spanning then rank % 8 else rank % 4

/-- The core that holds a rank of a team (R34). -/
def Team.coreOf (t : Team) (rank : Nat) : Nat := t.core + siteOf t.spanning rank / 4

/-- The partition index of a rank in its core (R34). -/
def Team.partOf (t : Team) (rank : Nat) : Nat := siteOf t.spanning rank % 4

/-- The core that holds a scratchpad offset (R33). -/
def Team.coreOfOffset (t : Team) (off : Nat) : Nat :=
  if t.spanning && decide (ceilDiv t.scr 2 * 4096 ≤ off) then t.core + 1 else t.core

/-- The core of a thread. -/
def State.coreOf (s : State) (t : ThreadId) : Nat :=
  match s.team? t.teamId with
  | some tm => tm.coreOf t.rank
  | none => 0

/-- Whether a thread is in kernel mode (R373). -/
def State.kernelMode (s : State) (g : GridId) : Bool :=
  match s.grid? g with
  | some x => x.kernelMode
  | none => false

/-- Whether a grid is deterministic (R45). -/
def State.detMode (s : State) (g : GridId) : Bool :=
  match s.grid? g with
  | some x => x.launch.det
  | none => false

/-- BOOT.ST (R487). -/
def State.stage (s : State) : Nat := bits s.boot.toNat 0 3

/-- Whether weight-store accesses are served: the part has the store (R25, R29) and the safe profile is over (R488). -/
def State.hasWeights (s : State) : Bool := bitAt (nth s.caps 3 0).toNat 0 && decide (2 ≤ s.stage)

/-- CAP3.F64M: the binary64 matrix rate is a quarter (R25, R28). -/
def State.slowF64 (s : State) : Bool := decide (bits (nth s.caps 3 0).toNat 1 2 = 1)

/-- Wall time that the refresh slot of a die lasts, in units of 4 ns (R255, R257): 2 µs; what was left at reset of the slot then under way is a
free value between 1 and 500 (log 4). -/
def State.slotUnits (s : State) (die : Nat) : Nat :=
  if (nth s.slotAt die (0, 0, false)).2.2 then 500 else (Config.refreshLeft die).toNat % 500 + 1

/-- The n-cycles that slot lasts, 7.2 to a unit at the mesh's 1.8 GHz (R255, R470): 3,600 for a whole one. -/
def State.slotTicks (s : State) (die : Nat) : Nat := (72 * s.slotUnits die + 9) / 10

/-- Whether a core is up (R488). -/
def State.coreUp (s : State) (core : Nat) : Bool := decide (dieOf core + 1 ≤ min s.stage 2)

/-- CAP3.MEMG (R25). -/
def State.memg (s : State) : Nat := bits (nth s.caps 3 0).toNat 8 8

/-- Whether a cluster of a die is enabled (R25, R27). -/
def State.clusterEnabled (s : State) (cluster : Nat) : Bool :=
  bitAt (nth s.caps (1 + cluster / 32) 0).toNat (cluster % 32)

/-- A number that says which occurrence of an event happens (log 1). -/
def State.arg (s : State) (i : Nat) : Nat := nth s.pick i 0
/-- A choice of two. -/
def State.argBool (s : State) (i : Nat) : Bool := decide (s.arg i ≠ 0)
/-- A grid an event is about. -/
def State.argGrid (s : State) (i : Nat) : GridId := ⟨s.arg i, s.arg (i + 1)⟩
/-- A team an event is about. -/
def State.argTeam (s : State) (i : Nat) : TeamId := ⟨s.arg i, s.arg (i + 1), s.arg (i + 2)⟩
/-- A thread an event is about. -/
def State.argThread (s : State) (i : Nat) : ThreadId := ⟨s.arg i, s.arg (i + 1), s.arg (i + 2), s.arg (i + 3)⟩

/-- The next operation number and the state after taking it. -/
def State.takeId (s : State) : Nat × State := (s.nextId, { s with nextId := s.nextId + 1 })

-- ---------------------------------------------------------------- registers

/-- The value of a general register: 0 when it is dead (R97, R114). -/
def Thread.reg (t : Thread) (n : Nat) : Nat := if nth t.dead n false then 0 else (nth t.regs n 0).toNat

/-- The value of k registers from n, the lowest first (R65). -/
def Thread.regsFrom (t : Thread) (n : Nat) : Nat → Nat
  | 0 => 0
  | k + 1 => t.reg n + 2 ^ 32 * t.regsFrom (n + 1) k

/-- Whether any of k registers from n is dead. -/
def Thread.anyDead (t : Thread) (n k : Nat) : Bool := (List.range k).any fun i => nth t.dead (n + i) false

/-- read_pred (R114): the value 12 reads true. -/
def Thread.pred (t : Thread) (k : Nat) : Bool := if k = 12 then true else nth t.preds k false

/-- Marks registers dead after their last use (R97, R126, R127). -/
def Thread.kill (t : Thread) (rs : List Nat) : Thread := { t with dead := rs.foldl (fun d n => d.set n true) t.dead }

/-- Sets flags of sr.fps (R60, R75). -/
def Thread.orFps (t : Thread) (f : Nat) : Thread := { t with fps := t.fps ||| BitVec.ofNat 32 f }

/-- Applies a completed write to a general register (0 to 63) or a predicate (64 to 75) unless a program-order-younger write to it
has been applied already (R129). -/
def Thread.applyWrite (t : Thread) (pos reg val : Nat) : Thread :=
  if pos < nth t.wpos reg 0 then t
  else if reg < 64 then
    { t with regs := t.regs.set reg (BitVec.ofNat 32 val), dead := t.dead.set reg false, wpos := t.wpos.set reg pos }
  else { t with preds := t.preds.set (reg - 64) (val % 2 == 1), wpos := t.wpos.set reg pos }

/-- Applies the writes of one operation. -/
def Thread.applyWrites (t : Thread) (pos : Nat) : List Nat → List Nat → Thread
  | r :: rs, v :: vs => (t.applyWrite pos r v).applyWrites pos rs vs
  | _, _ => t

/-- The number of operations a counter holds (R458). -/
def Thread.counter (t : Thread) (c : KClass) : Nat := (t.outstanding.filter fun k => decide (k.cls = c)).length

/-- Counts an operation (R459). -/
def Thread.count (t : Thread) (c : KClass) (op : Nat) : Thread := { t with outstanding := t.outstanding ++ [⟨c, op, false⟩] }

/-- Drops the completed operations of a class that have no older one of the class still outstanding: retirement in issue order
(R281, R460). -/
def retireFront (c : KClass) : Bool → List KEntry → List KEntry
  | _, [] => []
  | true, k :: ks => if k.cls = c then (if k.done then retireFront c true ks else k :: retireFront c false ks) else k :: retireFront c true ks
  | false, k :: ks => k :: retireFront c false ks

/-- Takes an operation out of its counter, as if it had not been counted (R298, R364). -/
def Thread.uncount (t : Thread) (op : Nat) : Thread := { t with outstanding := t.outstanding.filter fun k => decide (k.op ≠ op) }

/-- Marks an operation complete in its counter and retires what may retire (R460). -/
def Thread.retire (t : Thread) (op : Nat) : Thread :=
  match t.outstanding.find? fun k => decide (k.op = op) with
  | none => t
  | some e =>
    let marked := t.outstanding.map fun k => if k.op = op ∧ k.cls = e.cls then { k with done := true } else k
    { t with outstanding := retireFront e.cls true marked }

/-- Whether a deposit of the thread that has not fired will write a register (R41). -/
def State.pendingDeposit (s : State) (t : Thread) (reg : Nat) : Bool :=
  match s.team? t.id.teamId with
  | none => false
  | some tm => tm.crs.any fun c => c.members.any fun m => decide (m.rank = t.id.rank) &&
      (match m.dep with
       | some d => d.dests.contains reg && decide (nth t.wpos reg 0 ≤ d.pos)
       | none => false)

/-- Whether a general register or predicate has a write outstanding that a read must wait for (R35, R41, R130): an older write that a younger
one, already applied, has overtaken is not waited for. -/
def State.pendingWrite (s : State) (t : Thread) (reg : Nat) : Bool :=
  s.pendingDeposit t reg ||
  s.ops.any fun o => decide (o.thr = t.id) && decide (o.stage ≠ .done) && o.dests.contains reg && decide (nth t.wpos reg 0 ≤ o.pos)

/-- Whether any older write to a general register or predicate is outstanding, overtaken ones too (R159). -/
def State.olderWrite (s : State) (t : Thread) (reg : Nat) : Bool :=
  s.ops.any fun o => decide (o.thr = t.id) && decide (o.stage ≠ .done) && o.dests.contains reg

-- ---------------------------------------------------------------- waiters and home memory

/-- The thread becomes Ready in cycle n, in no bundle until those of the like threads that become Ready in the same cycle form (R37). Its
ready age counts from n, or from the end of a pause of its team (R30, R134). -/
def Thread.becomeReady (t : Thread) (n paused : Nat) : Thread :=
  { t with st := .ready, readyAt := max n paused, promoted := false, bundle := none }

/-- The cycle until which a team is paused (R134). -/
def State.pauseOf (s : State) (t : TeamId) : Nat :=
  match s.team? t with
  | some tm => tm.pausedUntil
  | none => 0

/-- Records a thread is parked on that have no answer yet (R510). -/
def Thread.openParks (t : Thread) : List Nat := (t.parks.filter fun p => p.answer.isNone).map (·.seq)

/-- Ends a thread's wait for a line, a value, a reply or the end of a save (R35): it is Ready, or, while a record of its park is unanswered,
stays parked on that (R510). -/
def State.wakeThread (s : State) (t : ThreadId) : State :=
  let n := s.now (s.coreOf t)
  let p := s.pauseOf t.teamId
  s.updThread t fun x =>
    if x.st = .exited then x else if x.openParks.isEmpty then x.becomeReady n p else { x with st := .parked .fault }

/-- Releases the armed waiters of a list (R299). -/
def State.releaseWaiters (s : State) (ws : List Waiter) : State :=
  let s := { s with waiters := s.waiters.filter fun w => ! ws.contains w }
  ws.foldl (fun s w => s.wakeThread w.thr) s

/-- Whether the place a waiter watches is the home slice (R299). -/
def Waiter.atHome (w : Waiter) : Bool := decide (w.space = .g) && (decide (w.scope = .dv) || decide (w.scope = .sy))

/-- The access of an operation, when it is one. -/
def Op.access (o : Op) : Option Access :=
  match o.body with
  | .mem a => some a
  | _ => none

/-- Whether an access is a store with data. -/
def AccKind.stores : AccKind → Bool
  | .store | .spill => true
  | _ => false

/-- Whether an operation waits in its core's store path, a store or atomic of a word that has issued (R265). -/
def Op.inPath (o : Op) : Bool := decide (o.stage = .walk) || decide (o.stage = .ready)

/-- Whether a pending store gives the byte at an offset of a watch. -/
def Access.watched (b : Access) (w : Waiter) (i : Nat) : Bool :=
  let (from_, x) : Nat × Nat := match b.pa with
    | some p => (p, w.addr + i)
    | none => (b.va, w.va + i)
  decide (b.space = w.space) && decide (from_ ≤ x) && decide (x < from_ + b.size) && bitAt b.mask (x - from_)

/-- Whether a byte that reaches the L1, the scratchpad or the home slice is hidden from a waiter by a store that its thread, or with `core`
its core, reads in its place (R265, R266). -/
def State.hides (s : State) (w : Waiter) (core : Bool) (i : Nat) : Bool :=
  s.ops.any fun o => match o.access with
    | some b => b.kind.stores && b.watched w i &&
        ((decide (o.thr = w.thr) && o.inPath) || (core && decide (o.stage = .core) && decide (o.core = s.coreOf w.thr)))
    | none => false

/-- Whether a write leaves bytes of a watch different from what it expects, as the waiter sees them (R299): `val` gives the value written to
an address. -/
def State.alters (s : State) (w : Waiter) (core : Bool) (val : Nat → Option Nat) : Bool :=
  (List.range w.size).any fun i => match val (w.addr + i) with
    | some b => decide (b ≠ byteOf w.expect i) && ! s.hides w core i
    | none => false

/-- What a write of the bytes of a mask writes to an address. -/
def writtenAt (a v mask x : Nat) : Option Nat := if a ≤ x ∧ bitAt mask (x - a) then some (byteOf v (x - a)) else none

/-- What a write of a list of bytes writes to an address. -/
def listedAt (a : Nat) (bs : List Byte) (x : Nat) : Option Nat := if a ≤ x then (bs[x - a]?).map (·.toNat) else none

/-- After bytes were written at home, which is performed for every thread (R265): releases the waiters armed there, and those armed in an L1
but that of the cluster whose write-back this is, whose watch it changes (R299). -/
def State.checkHomeWaiters (s : State) (from? : Option Nat) (val : Nat → Option Nat) : State :=
  s.releaseWaiters (s.waiters.filter fun w => decide (w.space = .g) && (w.atHome || decide (some w.cluster ≠ from?)) &&
    s.alters w (! w.atHome) val)

/-- Clears the poison of sectors that a write covers whole (R260). -/
def clearWhole (marks : List Nat) (a n unit : Nat) : List Nat :=
  let w := wholeUnits a n unit
  marks.filter fun u => ! w.contains u

-- ---------------------------------------------------------------- the lines of the stacked cache

/-- home_slice of R252. -/
def homeSlice (pa : Nat) : Nat :=
  bits pa 8 6 ^^^ bits pa 14 6 ^^^ bits pa 20 6 ^^^ bits pa 26 6 ^^^ bits pa 32 6 ^^^ bits pa 38 2

/-- Whether two lines fall in one set of one slice (R252). The slice hash and the number of sets are the spec's; which of a slice's 2,048
sets a line falls in is the model's: its number divided by 64, modulo 2,048 (DESIGN CHOICE, log 41). -/
def sameSliceSet (a b : Nat) : Bool := decide (homeSlice (a * 256) = homeSlice (b * 256)) && decide (a / 64 % 2048 = b / 64 % 2048)

/-- The way group of a context (R252, R478). -/
def State.wayGroup (s : State) (ctx : Nat) : Nat :=
  match s.ctx? ctx with
  | some c => c.wayGroup
  | none => 0

/-- The effective ways of a way group (R253). -/
def State.effWays (s : State) (group : Nat) : Nat :=
  let lower := (s.scwg.take group).foldl (fun x w => x ||| w.toNat % 65536) 0
  ((nth s.scwg group 0).toNat % 65536) &&& (65535 - (lower &&& 65535))

/-- The way in which a missing line is allocated for a group: a free effective way of its set, or that of the first line of these ways that
is not pinned; none when there is no such line (R252, R254). Which line goes is not visible to programs. -/
def State.slicePlaceFor (s : State) (line group : Nat) : Option (Nat × Option Nat) :=
  let ways := onesFrom 16 0 (s.effWays group)
  let set := s.slices.filter fun x => sameSliceSet x.line line
  match ways.find? fun w => ! set.any fun x => decide (x.way = w) with
  | some w => some (w, none)
  | none => (set.find? fun x => ways.contains x.way && ! x.pinned).map fun x => (x.way, some x.line)

/-- An access of a way group at the home slice of a physical address (R250, R252, R253): it hits a line in any way; a miss allocates in the
ways of its group, or of group 0 when it has none, a .stream one as the set's next victim; .noalloc allocates nothing. -/
def State.sliceTouch (s : State) (pa group cp : Nat) : State :=
  let line := pa / 256
  let g := if s.effWays group = 0 then 0 else group
  if decide (cp = 4) || s.slices.any (fun x => decide (x.line = line)) then s
  else match s.slicePlaceFor line g with
    | none => s
    | some (w, gone) =>
      let rest := s.slices.filter fun x => decide (some x.line ≠ gone)
      let new : SliceLine := ⟨line, w, g, false⟩
      { s with slices := if cp = 1 then new :: rest else rest ++ [new] }

/-- An access of a thread's context at the home slice. -/
def State.touchFor (s : State) (t : ThreadId) (pa cp : Nat) : State := s.sliceTouch pa (s.wayGroup t.ctx) cp

/-- An access of a way group to n bytes: one to each of their lines. -/
def State.touchSpan (s : State) (pa n group : Nat) : State :=
  (unitsOf pa n 256).foldl (fun s line => s.sliceTouch (line * 256) group 0) s

/-- A system-scope write of n bytes to home memory for a way group (R252, R265), with the waiters it releases. -/
def State.homeWriteBy (s : State) (group pa n v : Nat) : State :=
  ({ s with home := memWrite s.home pa n v, homePoison := clearWhole s.homePoison pa n 64 }.touchSpan pa n group).checkHomeWaiters none
    (writtenAt pa v (2 ^ n - 1))

/-- A system-scope write of n bytes for a context. -/
def State.homeWrite (s : State) (ctx pa n v : Nat) : State := s.homeWriteBy (s.wayGroup ctx) pa n v

/-- A system-scope write of bytes to home memory for a context. -/
def State.homeStore (s : State) (ctx pa : Nat) (bs : List Byte) : State :=
  ({ s with home := memStore s.home pa bs, homePoison := clearWhole s.homePoison pa bs.length 64 }.touchSpan pa bs.length
    (s.wayGroup ctx)).checkHomeWaiters none (listedAt pa bs)

/-- Wakes every waiter armed at home on a 64-byte granule, as WAKEA with the largest count does (R300, R366). -/
def State.wakeGranule (s : State) (pa : Nat) : State :=
  s.releaseWaiters (s.waiters.filter fun w => w.atHome && decide (w.addr / 64 = pa / 64))

-- ---------------------------------------------------------------- fault records

/-- The header word of a record (R367). -/
def FRec.hdr (r : FRec) : Nat :=
  r.cls + r.ir.toNat * 2 ^ 8 + r.as.toNat * 2 ^ 9 + r.dfr.toNat * 2 ^ 10 + r.np.toNat * 2 ^ 11 + r.ent.toNat * 2 ^ 12
    + r.rst.toNat * 2 ^ 13 + r.pre.toNat * 2 ^ 14

/-- The 128 bytes of a record (R367). -/
def FRec.bytes (r : FRec) : List Byte :=
  leBytes 4 r.hdr ++ leBytes 4 r.seq ++ leBytes 4 (r.ctx % 256) ++ leBytes 4 r.grid ++ leBytes 4 r.team
    ++ leBytes 4 (r.rank % 2 ^ 14 + r.role * 2 ^ 14) ++ leBytes 8 r.fpc ++ leBytes 8 (if r.np then 0 else r.ppc)
    ++ leBytes 4 r.word ++ leBytes 4 (nth r.latch 0 0).toNat ++ leBytes 4 (nth r.latch 1 0).toNat ++ leBytes 4 r.detail
    ++ leBytes 8 r.addr ++ leBytes 40 r.opnd ++ leBytes 8 r.user ++ leBytes 4 r.nrep ++ leBytes 12 0

/-- Base of a context's fault ring (R365). -/
def Ctx.ringBase (c : Ctx) : Nat := bits c.fqb.toNat 12 28 * 4096

/-- log2 of the ring's slots, 0 for no ring (R365). -/
def Ctx.ringSz (c : Ctx) : Nat := bits c.fqc.toNat 0 4

/-- Whether a ring of the context has room for a record (R366). -/
def State.ringRoom (s : State) (c : Ctx) : Bool :=
  let pw := memRead s.home c.ringBase 8
  let cw := memRead s.home (c.ringBase + 64) 8
  decide (c.ringSz ≠ 0) && decide ((pw + 2 ^ 64 - cw) % 2 ^ 64 < 2 ^ c.ringSz)

/-- Writes a record to its context's ring and wakes the waiters on PW's granule (R366); it is open until an action answers it (R372). -/
def State.writeRecord (s : State) (c : Ctx) (r : FRec) : State :=
  let pw := memRead s.home c.ringBase 8
  let s := s.homeStore c.num (c.ringBase + 128 * (1 + pw % 2 ^ c.ringSz)) r.bytes
  let s := s.homeWrite c.num c.ringBase 8 ((pw + 1) % 2 ^ 64)
  let s := s.wakeGranule c.ringBase
  let waits := r.np || (match s.thread? ⟨r.ctx, r.grid, r.team, r.rank⟩ with
    | some t => t.parks.any fun p => decide (p.seq = r.seq) && p.answer.isNone
    | none => false)
  let s := if r.ent || ! waits then s else { s with recs := s.recs ++ [r] }
  s.updTeam ⟨r.ctx, r.grid, r.team⟩ fun t => if r.ent then t else { t with posted := t.posted + 1 }

/-- The fault sequence counter after one record: 0 is skipped (R362). -/
def nextSeq (x : Word) : Word := if x + 1 = 0 then 1 else x + 1

/-- Whether a record that is raised goes to its ring at once (R366): there is room, and no older record of the context is held. -/
def State.ringOpen (s : State) (c : Ctx) : Bool := s.ringRoom c && ! (s.held.any fun h => decide (h.record.ctx = c.num))

/-- Whether a record raised on a die must wait with its raiser (R366): it cannot go to its ring, and the die holds 256 records or has others
waiting. -/
def State.storeFull (s : State) (die : Nat) (c : Ctx) : Bool :=
  ! s.ringOpen c && (decide (256 ≤ (s.held.filter fun h => decide (h.die = die)).length) || s.unposted.any fun h => decide (h.die = die))

/-- The SEQ the next record of a context raised on a die takes, or the number that stands for it while its raiser waits. -/
def State.nextSeqOf (s : State) (die ctx : Nat) : Nat :=
  match s.ctx? ctx with
  | some c => if s.storeFull die c then 2 ^ 32 + s.nextId else c.fseq.toNat
  | none => 0

/-- Makes a record: it takes the next SEQ of its context, and is posted or held (R362, R366). -/
def State.makeRecord (s : State) (die : Nat) (c : Ctx) (r : FRec) : State :=
  let r := { r with seq := c.fseq.toNat }
  let s1 := s.updCtx r.ctx fun c => { c with fseq := nextSeq c.fseq }
  let s2 : State := { s1 with raised := s1.raised ++ [⟨r.ctx, r.seq, r.grid, r.team % 2 ^ 32⟩] }
  if s.ringOpen c then s2.writeRecord c r else { s2 with held := s2.held ++ [⟨die, r⟩] }

/-- Raises a record on a die (R366): posted when the ring has room and no older record of the context is held, otherwise held; with the
held store full, it waits with its raiser. -/
def State.postRecord (s : State) (die : Nat) (r : FRec) : State :=
  match s.ctx? r.ctx with
  | none => s
  | some c =>
    if s.storeFull die c then
      { s with unposted := s.unposted ++ [⟨die, { r with seq := 2 ^ 32 + s.nextId }⟩], nextId := s.nextId + 1 }
    else s.makeRecord die c r

/-- A new SEQ in place of an old one. -/
def swapSeq (old new q : Nat) : Nat := if q = old then new else q

/-- A stage with a new SEQ. -/
def Stage.swap (old new : Nat) : Stage → Stage
  | .parked q => .parked (swapSeq old new q)
  | x => x

/-- A request stage with a new SEQ. -/
def ReqStage.swap (old new : Nat) : ReqStage → ReqStage
  | .parked q => .parked (swapSeq old new q)
  | x => x

/-- Trim counters as they stand in an n-cycle: 0 once that of their last clear is over (R476). -/
def TrimCount.shown (x : TrimCount) (now : Nat) : TrimCount :=
  match x.cleared with
  | some n => if n = now then x else { x with trims := 0, flits := 0, cleared := none }
  | none => x

/-- What belongs to a context (R394). -/
def NetOwner.inCtx (ctx : Nat) : NetOwner → Bool
  | .none => false
  | .op c _ | .copy c _ | .slot c _ _ => decide (c = ctx)

/-- The sources discard the payloads of cancelled transactions, sent or not (R394). -/
def State.dropPayloads (s : State) (gone : NetOwner → Bool) : State :=
  { s with retained := s.retained.filter fun r => ! gone r.owner, outbox := s.outbox.filter fun x => ! (x.fresh && gone x.owner) }

/-- Replaces a record's old SEQ wherever its context's requests and parks name it. -/
def State.swapSeqs (s : State) (ctx old new : Nat) : State :=
  let th (x : Thread) : Thread := if x.id.ctx ≠ ctx then x else
    { x with parks := x.parks.map fun p => { p with seq := swapSeq old new p.seq } }
  let op (o : Op) : Op := if o.thr.ctx ≠ ctx then o else { o with stage := o.stage.swap old new }
  let cp (c : Copy) : Copy := if c.thr.ctx ≠ ctx then c else
    { c with reqs := c.reqs.map fun r => { r with st := r.st.swap old new } }
  let rd (r : SliceRead) : SliceRead := { r with reqs := r.reqs.map fun q => { q with st := q.st.swap old new } }
  let tm (t : Team) : Team := if t.id.ctx ≠ ctx then t else
    { t with slice := t.slice.map fun sl => { sl with reads := sl.reads.map rd } }
  let rp (r : Replay) : Replay := if r.ctx ≠ ctx then r else { r with seq := swapSeq old new r.seq }
  let jb (j : IslandJob) : IslandJob := if j.thr.ctx ≠ ctx then j else { j with parked := j.parked.map (swapSeq old new) }
  let rj (j : RidgeJob) : RidgeJob := if j.ctx ≠ ctx then j else { j with parked := j.parked.map (swapSeq old new) }
  { s with
    threads := s.threads.map th, ops := s.ops.map op, copies := s.copies.map cp, teams := s.teams.map tm, replays := s.replays.map rp
    jobs := s.jobs.map jb
    ridges := s.ridges.map fun x => { x with cur := x.cur.map rj, suspended := x.suspended.map rj } }

/-- Makes one record that waits, under the SEQ it takes now. -/
def State.admitOne (s : State) (h : Held) : State :=
  let s := { s with unposted := s.unposted.eraseP fun x => decide (x = h) }
  match s.ctx? h.record.ctx with
  | none => s
  | some c => (s.swapSeqs c.num h.record.seq c.fseq.toNat).makeRecord h.die c h.record

/-- The records of a die that wait are made, the oldest first, while there is room for them (R366), by fuel. -/
def State.admitWaiting (s : State) (die : Nat) : Nat → State
  | 0 => s
  | n + 1 => match s.unposted.find? fun h => decide (h.die = die) with
    | none => s
    | some h =>
      let room : Bool := match s.ctx? h.record.ctx with
        | some c => s.ringOpen c || decide ((s.held.filter fun x => decide (x.die = die)).length < 256)
        | none => true
      if room then (s.admitOne h).admitWaiting die n else s

/-- USER of the grid's launch record (R44). -/
def State.userOf (s : State) (g : GridId) : Nat :=
  match s.grid? g with
  | some x => x.launch.user.toNat
  | none => 0

/-- The OPND field from sources A, B, C and a result not written (R367). -/
def opndOf (srcs : List Nat) (result : Nat) : Nat :=
  nth srcs 0 0 % 2 ^ 64 + 2 ^ 64 * (nth srcs 1 0 % 2 ^ 64) + 2 ^ 128 * (nth srcs 2 0 % 2 ^ 64) + 2 ^ 192 * (result % 2 ^ 64)

/-- A record of a thread, at a faulting word, before its SEQ is known. -/
def State.threadRecord (s : State) (t : Thread) (cls : Nat) (fpc : Addr) (word : Word) (latch : List Word) (detail addr : Nat)
    (opnd : Option Nat) : FRec :=
  { ctx := t.id.ctx, seq := 0, cls := cls, ir := false, as := false, dfr := decide (fpc ≠ t.pc), np := false, ent := false,
    rst := false, pre := false, grid := t.id.grid, team := t.id.team, rank := t.id.rank, role := t.role, fpc := fpc.toNat,
    ppc := t.pc.toNat, word := word.toNat, latch := latch, detail := detail, addr := addr, opnd := opnd.getD 0,
    user := s.userOf t.id.gridId, nrep := 0, read := opnd.isSome }

-- ---------------------------------------------------------------- taking a trap

/-- Class codes of R363. -/
def clsIllegal : Nat := 0x01
/-- Register out of budget. -/
def clsBudget : Nat := 0x02
/-- Absent unit. -/
def clsAbsent : Nat := 0x03
/-- Cross-team communication in deterministic mode. -/
def clsCrossTeam : Nat := 0x04
/-- Floating-point. -/
def clsFloat : Nat := 0x05
/-- Software trap. -/
def clsSoft : Nat := 0x06
/-- Yield. -/
def clsYield : Nat := 0x07
/-- Stack overflow. -/
def clsOverflow : Nat := 0x08
/-- Stack underflow. -/
def clsUnderflow : Nat := 0x09
/-- Misaligned access. -/
def clsMisaligned : Nat := 0x0A
/-- Scratchpad range. -/
def clsScratchRange : Nat := 0x0B
/-- Constant range. -/
def clsConstRange : Nat := 0x0C
/-- Weight-store range. -/
def clsWeightRange : Nat := 0x0D
/-- Cairn clobber. -/
def clsClobber : Nat := 0x0E
/-- Convergence misuse. -/
def clsConverge : Nat := 0x0F
/-- Accumulator class mismatch. -/
def clsAccClass : Nat := 0x10
/-- Matrix operand misuse. -/
def clsMatrix : Nat := 0x11
/-- Copy misuse. -/
def clsCopy : Nat := 0x12
/-- Copy target absent. -/
def clsCopyTarget : Nat := 0x13
/-- Uncorrectable data. -/
def clsPoison : Nat := 0x14
/-- Queue not permitted. -/
def clsQueue : Nat := 0x15
/-- Island misuse. -/
def clsIsland : Nat := 0x16
/-- Island not loaded. -/
def clsIslandLoad : Nat := 0x17
/-- Recursion limit. -/
def clsRecursion : Nat := 0x18
/-- Service not permitted. -/
def clsService : Nat := 0x19
/-- Island result overflow. -/
def clsIslandOver : Nat := 0x1A
/-- Cairn misuse. -/
def clsCairn : Nat := 0x1B
/-- Invalid launch record. -/
def clsLaunch : Nat := 0x20
/-- Launch queue fault. -/
def clsLaunchQueue : Nat := 0x21
/-- Launch dependence fault. -/
def clsDepend : Nat := 0x22
/-- Restore failure. -/
def clsRestore : Nat := 0x23
/-- Page not mapped. -/
def clsUnmapped : Nat := 0x40
/-- Permission. -/
def clsPerm : Nat := 0x41
/-- Address beyond 52 bits. -/
def clsBeyond : Nat := 0x42
/-- No memory at the physical address. -/
def clsNoMemory : Nat := 0x43
/-- Uncorrectable table entry. -/
def clsTablePoison : Nat := 0x44

/-- Whether a state is Parked. -/
def TState.isParked : TState → Bool
  | .parked _ => true
  | _ => false

/-- Parks a thread on a record and posts it (R364, R510): the thread's PC is where it stands, and a thread that is already parked for
something else stays parked for that too. -/
def State.parkOn (s : State) (t : Thread) (r : FRec) : State :=
  let die := dieOf (s.coreOf t.id)
  let seq := s.nextSeqOf die t.id.ctx
  let s := s.updThread t.id fun x => { x with
    st := if x.st.isParked then x.st else .parked .fault, parks := x.parks ++ [⟨seq, none⟩], bundle := none, promoted := false }
  s.postRecord die r

/-- raise_trap of R364 for a class found at issue: the thread parks at the word, whose hints stay latched, and a record is posted with
FPC equal to PPC. Class yield posts none and stands past its word; the latch keeps its contents there too. -/
def State.raiseTrap (s : State) (t : Thread) (cls : Nat) (word : Word) (detail addr : Nat) (opnd : Option Nat) : State :=
  if cls = clsYield then
    s.updThread t.id fun x => { x with st := .parked .yielding, pc := x.pc + 4, bundle := none, promoted := false }
  else s.parkOn t (s.threadRecord t cls t.pc word t.latch detail addr opnd)

/-- Stops an access slice at a word (R334): one record with the access-slice flag, its class and its APC; it parks no thread. -/
def State.stopSlice (s : State) (team : TeamId) (cls : Nat) (word : Word) (addr : Nat) : State :=
  match s.team? team with
  | none => s
  | some tm => match tm.slice with
    | none => s
    | some sl =>
      let s := s.updTeam team fun t => { t with slice := t.slice.map fun x => { x with run := .stopped } }
      s.postRecord (dieOf tm.core)
        { ctx := team.ctx, seq := 0, cls := cls, ir := false, as := true, dfr := false, np := true, ent := false, rst := false,
          pre := false, grid := team.grid, team := team.team, rank := 0, role := 0, fpc := sl.apc.toNat, ppc := 0,
          word := word.toNat, latch := sl.latch, detail := 0, addr := addr, opnd := 0, user := s.userOf ⟨team.ctx, team.grid⟩,
          nrep := 0, read := false }

/-- The word a thread is parked at for a record that is raised now (R364, R510): its next word that has not issued, for one that awaits a reply
the word after the SVC. -/
def Thread.parkPc (t : Thread) : Addr := if t.st = .parked .service then t.pc + 4 else t.pc

/-- A fault found after its word has issued (R206, R292): the thread parks at its next word that has not issued, and the record
carries both PCs with DEF set, since that word is another issue even where it has the same PC (R364). After the thread's exit the record is posted with issuer retired and parks no thread (R137, R369). -/
def State.raiseLate (s : State) (o : Op) (cls detail addr result : Nat) (nrep : Nat) : State :=
  match s.thread? o.thr with
  | some t =>
    let r := s.threadRecord t cls o.pc o.word o.latch detail addr (some (opndOf o.opnd result))
    if t.st = .exited then s.postRecord (dieOf o.core) { r with ir := true, np := true, dfr := false, nrep := nrep }
    else s.parkOn t { r with dfr := true, nrep := nrep, ppc := t.parkPc.toNat }
  | none =>
    s.postRecord (dieOf o.core)
      { ctx := o.thr.ctx, seq := 0, cls := cls, ir := true, as := false, dfr := false, np := true, ent := false, rst := false,
        pre := false, grid := o.thr.grid, team := o.thr.team, rank := o.thr.rank, role := o.role, fpc := o.pc.toNat, ppc := 0,
        word := o.word.toNat, latch := o.latch, detail := detail, addr := addr, opnd := opndOf o.opnd result,
        user := s.userOf o.thr.gridId, nrep := nrep, read := true }

/-- Whether a record has been answered or is still open: drops the answered ones of a thread (R372). -/
def State.closeRecord (s : State) (ctx seq : Nat) : State :=
  { s with
    recs := s.recs.filter fun r => ! (decide (r.ctx = ctx) && decide (r.seq = seq))
    unposted := s.unposted.filter fun h => ! (decide (h.record.ctx = ctx) && decide (h.record.seq = seq)) }

end Machine
end Sys2Proof
end

