-- ==== Sys2Proof/Machine/Operands.lean ====
section
/-! DEFINITION. How a word of a thread issues: the hints it accepts (R98 to R103), its operand forms, the order of the checks (R112),
the reading of sources and the last use (R97, R126, R127), dependence (R35, R130), and what an issued word commits. -/

namespace Sys2Proof
namespace Machine

/-- Consecutive registers an operand names: one, a pair, a group or a block (R65, R96, R126). -/
structure Src where
  reg : Nat
  n : Nat
  deriving DecidableEq, Repr

/-- The registers an operand names. -/
def Src.regs (x : Src) : List Nat := (List.range x.n).map (x.reg + ·)

/-- The hint fields a word accepts (R101, R103). `imm`: 0 none, 1 an I form, 2 any payload. `rm`: 0 none, 1 codes 0 to 4 and 6, 2 also
code 5. -/
structure Hints where
  imm : Nat := 0
  mod : Bool := true
  live : Bool := true
  rm : Nat := 0
  sat : Bool := false
  scope : Bool := false
  cp : Bool := false
  sem : List Nat := []
  lc : Bool := false
  ldt : Bool := false
  deriving DecidableEq, Repr

/-- Only SCHED may precede the word. -/
def schedOnly : Hints := { mod := false, live := false }

/-- The kind of a hint word (R95, R100). -/
def hintKind (w : Word) : Nat := bits w.toNat 22 4

/-- The payload of a latched hint of a kind (R100). -/
def latchPay (latch : List Word) (kind : Nat) : Option Nat :=
  (latch.find? fun w => decide (hintKind w = kind)).map fun w => bits w.toNat 0 22

/-- The payload of a latched hint, 0 without one. -/
def latchPay0 (latch : List Word) (kind : Nat) : Nat := (latchPay latch kind).getD 0

/-- RM and RMV of a MOD payload (R102). -/
def modRm (latch : List Word) : Option Nat :=
  let p := latchPay0 latch 1
  if bitAt p 3 then some (bits p 0 3) else none
/-- SAT of a MOD payload (R102). -/
def modSat (latch : List Word) : Bool := bitAt (latchPay0 latch 1) 4
/-- SCOPE of a MOD payload (R102). -/
def modScope (latch : List Word) : Nat := bits (latchPay0 latch 1) 5 3
/-- CP of a MOD payload (R102). -/
def modCp (latch : List Word) : Nat := bits (latchPay0 latch 1) 8 3
/-- SEM of a MOD payload (R102). -/
def modSem (latch : List Word) : Nat := bits (latchPay0 latch 1) 11 2
/-- LC of a LIVE payload (R100). -/
def liveLc (latch : List Word) : Bool := bitAt (latchPay0 latch 2) 0
/-- LDT of a LIVE payload (R100). -/
def liveLdt (latch : List Word) : Bool := bitAt (latchPay0 latch 2) 1

/-- Whether one latched hint is accepted (R101 to R103); so before a floating-point word or CVT, whose `Hints` name the rounding field alone, and
LC only where C is read, SAT, SCOPE, CP, SEM, IMM and LDT are misuses (R162). Where a rule says that a word accepts no hint of a kind, a hint of that kind is a misuse
whatever its fields; of a kind that it accepts, a field that is not its default is one unless the word names it (DEDUCED, log 43). -/
def hintOk (h : Hints) (w : Word) : Bool :=
  let p := bits w.toNat 0 22
  match hintKind w with
  | 0 => decide (h.imm = 2) || (decide (h.imm = 1) && decide (bits p 19 3 = 0))
  | 1 =>
    let rm := bits p 0 3
    h.mod && decide (bits p 13 9 = 0)
      && (if bitAt p 3 then decide (rm ≠ 7) && decide (h.rm ≥ 1) && (decide (rm ≠ 5) || decide (h.rm = 2)) else decide (rm = 0))
      && (! bitAt p 4 || h.sat)
      && (decide (bits p 5 3 = 0) || (h.scope && decide (bits p 5 3 ≤ 5)))
      && (decide (bits p 8 3 = 0) || (h.cp && decide (bits p 8 3 ≤ 4)))
      && (decide (bits p 11 2 = 0) || h.sem.contains (bits p 11 2))
  | 2 => h.live && decide (bits p 2 20 = 0) && (! bitAt p 0 || h.lc) && (! bitAt p 1 || h.ldt)
  | 3 => decide (bits p 1 21 = 0)
  | _ => false

/-- Whether every latched hint is accepted. -/
def hintsOk (h : Hints) (latch : List Word) : Bool := latch.all (hintOk h)

/-- The rounding mode of sr.fpc (R58). The values 5 to 7, which only an image can bring (R59, R385), name no mode: which one they act as is a free
value (log 16). -/
def fpcRounding (t : Thread) : Nat :=
  let mode := bits t.fpc.toNat 0 3
  if mode < 5 then mode else Config.openRounding mode % 5

/-- rounding_code of R114 under a thread's sr.fpc. -/
def roundingCode (t : Thread) : Nat :=
  let code := (modRm t.latch).getD 6
  if code = 6 then fpcRounding t else code

/-- The trap enables sr.fpc[13:8] (R58). -/
def enables (t : Thread) : Nat := bits t.fpc.toNat 8 6

/-- imm_value of R114, signed: a 32-bit value. -/
def immValue (latch : List Word) (i : Nat) : Nat :=
  match latchPay latch 0 with
  | some p => bits p 0 19 * 2 ^ 13 + i
  | none => wrap (sext i 13) 32

/-- mem_offset of R114. -/
def memOffset (latch : List Word) (off size : Nat) : Int :=
  match latchPay latch 0 with
  | some p => sext (p * 2 ^ 8 + off) 30 * size
  | none => sext off 8 * size

/-- The offset of major 0x36 (R101, R290). -/
def memOffsetGeneral (latch : List Word) (size : Nat) : Int :=
  match latchPay latch 0 with
  | some p => sext p 22 * size
  | none => 0

/-- branch_target of R114. -/
def branchTarget (latch : List Word) (pc : Addr) (off : Nat) : Addr :=
  let o : Int := match latchPay latch 0 with
    | some p => sext (p * 2 ^ 21 + off) 43
    | none => sext off 21
  BitVec.ofNat 52 (wrap ((pc.toNat : Int) + 4 * o) 52)

/-- The operands, hints and conditions of one word (R112). `dests` numbers a predicate pk as 64 + k. -/
structure Issue where
  srcs : List Src := []
  /-- How many of the sources are operands A, B and C, which a record holds (R367); the rest are data and descriptor registers. -/
  recs : Nat := 3
  dests : List Nat := []
  preds : List Nat := []
  kills : List Nat := []
  hints : Hints := {}
  flaw : Bool := false
  outside : Bool := false
  absent : Bool := false
  cross : Bool := false
  wait : Bool := false
  deriving DecidableEq, Repr

/-- What the effect of a word sees: the thread as it stood, the sources read, and where and when it issues. -/
structure Args where
  t : Thread
  vals : List Nat
  opnd : List Nat
  core : Nat
  part : Nat
  now : Nat
  deriving DecidableEq, Repr

/-- What the effect of a word does: it issues, or takes its own trap, or waits at the word without issuing, in the state given or in
the state as it stood. -/
inductive Res where
  | ok (s : State)
  | trap (cls detail addr : Nat)
  | hold (st : TState)
  | holdWith (st : TState) (s : State)

/-- The general registers a word names (R112 step 3). -/
def Issue.regs (i : Issue) : List Nat := (i.srcs.flatMap Src.regs) ++ i.dests.filter fun d => decide (d < 64)

/-- The register names a word must wait for: sources and predicates (R35, R141). -/
def Issue.reads (i : Issue) : List Nat :=
  (i.srcs.flatMap Src.regs) ++ (i.preds.filter fun p => decide (p < 12)).map (64 + ·)

/-- The values of a word's sources: its registers, or for A, B and C the record it resumes from (R97, R167). -/
def sourceVals (t : Thread) (i : Issue) : List Nat :=
  let live := i.srcs.map fun x => t.regsFrom x.reg x.n
  match t.resume with
  | some r => (List.range (min i.recs live.length)).map (fun k => nth r.opnd k 0) ++ live.drop i.recs
  | none => live

/-- The bundle of a thread after a word has issued: under SPLIT the thread leaves its bundle and stands alone until the next boundary
(R100; DEDUCED, log 40: threads that split in one cycle do not join each other). -/
def Thread.bundleAfter (t : Thread) (now : Nat) : Option (List Nat) :=
  if bitAt (latchPay0 t.latch 3) 0 then some [2, now, t.id.rank] else t.bundle

/-- The thread after a word has issued: sources' last uses (R97, R127), the DEAD flag (R60, R128), the next PC, an empty latch (R98), and
the bundle it is left in (R100). -/
def Thread.commit (t : Thread) (i : Issue) (now : Nat) : Thread :=
  let dead := (if t.resume.isNone then i.srcs else i.srcs.drop i.recs).any fun x => t.anyDead x.reg x.n
  let t := if dead then t.orFps fDEAD else t
  { t.kill i.kills with
    pc := t.pc + 4, latch := [], pos := t.pos + 1, resume := none, st := .ready, readyAt := now + 1, promoted := false,
    bundle := t.bundleAfter now }

/-- Sets the state of a thread that does not issue: it leaves its bundle when it blocks or parks (R38). -/
def State.setWaiting (s : State) (t : ThreadId) (st : TState) : State :=
  s.updThread t fun x => { x with st := st, bundle := if st = .dependent then x.bundle else none, promoted := false }

/-- Whether a FENCE, a WAITA, a WAKEA still in translation, or a floating-point result whose trap is enabled and that has not been
written holds the later words of its thread (R165, R230, R297, R298); so does an access whose fault waits for a place in the replay queue (R371). -/
def State.heldBack (s : State) (t : ThreadId) : Bool :=
  s.ops.any fun o => decide (o.thr = t) && match o.body with
    | .fence _ => true
    | .result => o.holds
    | .mem a => decide (o.stage = .waiting) || (match a.kind with
      | .wait _ => true
      | .wake _ => decide (o.stage = .walk)
      | _ => false)
    | _ => false

/-- Whether an outstanding-operation counter of a thread has reached 64, which no word may take it to (R460). -/
def State.overCount (s : State) (t : ThreadId) : Bool :=
  match s.thread? t with
  | some x => [KClass.ld, .st, .cp, .mx, .is, .ws].any fun c => decide (64 ≤ x.counter c)
  | none => false

/-- Issues one word of a thread (R112): illegal, out of budget, absent unit and deterministic mode in that order, then dependence, then
the word's own effect on the committed state. -/
def issueThread (s : State) (t : Thread) (i : Issue) (body : Args → State → Res) : State :=
  if i.flaw || ! hintsOk i.hints t.latch then s.raiseTrap t clsIllegal s.ir 0 0 none
  else if i.outside || i.regs.any (fun r => decide (t.budget ≤ r)) then s.raiseTrap t clsBudget s.ir 0 0 none
  else if i.absent then s.raiseTrap t clsAbsent s.ir 0 0 none
  else if i.cross && s.detMode t.id.gridId then s.raiseTrap t clsCrossTeam s.ir 0 0 none
  else if i.wait || s.heldBack t.id || i.reads.any (s.pendingWrite t) then s.setWaiting t.id .dependent
  else
    let core := s.coreOf t.id
    let part := match s.team? t.id.teamId with
      | some tm => tm.partOf t.id.rank
      | none => 0
    let vals := sourceVals t i
    let a : Args := { t := t, vals := vals, opnd := vals.take i.recs, core := core, part := part, now := s.now core }
    let s1 := (s.updThread t.id fun x => x.commit i a.now).updTeam t.id.teamId fun tm => { tm with lastIssue := a.now }
    match body a s1 with
    | .ok s2 => if s2.overCount t.id then s.setWaiting t.id .blocked else s2
    | .trap cls detail addr => s.raiseTrap t cls s.ir detail addr (some (opndOf a.opnd 0))
    | .hold st => s.setWaiting t.id st
    | .holdWith st s2 => if s2.overCount t.id then s.setWaiting t.id .blocked else s2.setWaiting t.id st

/-- Issues the current word of the acting thread; a slice stops at a word that is not its own (R328). -/
def issue (s : State) (i : Thread → Issue) (body : Args → State → Res) : Host.Outcome State Fault Refusal :=
  match s.cur with
  | .thread id => (match s.thread? id with
    | some t => .next (issueThread s t (i t) body)
    | none => .fault .noActor)
  | .slice t => .next (s.stopSlice t clsIllegal s.ir 0)
  | .none => .fault .noActor

/-- The issue record of the current word, with no result (R137). -/
def Args.op (a : Args) (s : State) (body : OpBody) : Op :=
  { id := s.nextId, thr := a.t.id, role := a.t.role, core := a.core, part := a.part, pos := a.t.pos, pc := a.t.pc, word := s.ir,
    latch := a.t.latch, opnd := a.opnd, issued := a.now, due := none, dests := [], vals := [], flags := 0, en := 0, rc := 0,
    late := false, holds := false, image := none, body := body, stage := .issued, cls := none }

/-- Adds an operation in flight. -/
def State.addOp (s : State) (o : Op) : State := { s with ops := s.ops ++ [o], nextId := s.nextId + 1 }

/-- The issued word writes results at a latency (R115, R129). -/
def State.result (s : State) (a : Args) (lat : Nat) (dests vals : List Nat) : State :=
  s.addOp { a.op s .result with due := some (a.now + lat), dests := dests, vals := vals }

/-- Sources of the T form, one register each, with the registers their last-use bits kill. -/
def killIf (lu : Bool) (x : Src) : List Nat := if lu then x.regs else []

/-- The scope a code of R102 names. -/
def Scope.ofCode : Nat → Option Scope
  | 1 => some .th | 2 => some .tm | 3 => some .cl | 4 => some .dv | 5 => some .sy | _ => none

/-- The code of a scope (R102). -/
def Scope.code : Scope → Nat
  | .th => 1 | .tm => 2 | .cl => 3 | .dv => 4 | .sy => 5

/-- Whether a scope is performed at the home slice (R265). -/
def Scope.wide (s : Scope) : Bool := decide (s.code ≥ 4)

end Machine
end Sys2Proof
end

