-- ==== Sys2Proof/Machine/Flags.lean ====
section
/-! DEFINITION. The flag computations of floating-point results: which flags meet an enable, what a trap's DETAIL says, and the frame
that every floating-point word issues through (R75, R163 to R165). -/

namespace Sys2Proof
namespace Machine

/-- The raised flags whose trap enable is set: TNV, TDZ, TOF, TUF, TNX guard the five IEEE flags and TPS guards PSN; DEAD has none
(R58, R60). -/
def trappedFlags (flags en : Nat) : Nat :=
  (flags &&& en &&& 0x1F) ||| (if bitAt flags 6 && bitAt en 5 then fPSN else 0)

/-- Whether a result traps (R75, R163). -/
def traps (flags en : Nat) : Bool := decide (trappedFlags flags en ≠ 0)

/-- DETAIL of a floating-point record: flags raised and the rounding code used (R367). -/
def floatDetail (flags rc : Nat) : Nat := flags % 2 ^ 7 + rc % 8 * 2 ^ 8

/-- The issued word writes a floating-point result with its flags; when one of `mask`'s enables is set, the thread's next word waits
until it is written (R165). -/
def State.floatResult (s : State) (a : Args) (lat rc mask : Nat) (dests vals : List Nat) (flags : Nat) : State :=
  let en := enables a.t
  s.addOp { a.op s .result with
    due := some (a.now + lat), dests := dests, vals := vals, flags := flags, en := en, rc := rc, holds := decide (en &&& mask ≠ 0) }

/-- The enables that hold the next word: TNV, TDZ, TOF, TUF, TNX (R165). -/
def holdMask : Nat := 0x1F

/-- For CVT, TPS counts too (R165). -/
def holdMaskCvt : Nat := 0x3F

end Machine
end Sys2Proof
end

