-- ==== Sys2Proof/Machine/Integer.lean ====
section
/-! DEFINITION. The results of the integer, address and bit-field instructions (06_integer_instructions, R145 to R156), each as a
function of its operands read as unsigned values and of the operation width w. -/

namespace Sys2Proof
namespace Machine

/-- ADD and SUB (R145): `.i` or `.n`, wrapping or saturating. -/
def addSub (w : Nat) (sub signed sat : Bool) (a b : Nat) : Nat :=
  let x : Int := if sub then (a : Int) - b else (a : Int) + b
  let sx : Int := if sub then sext a w - sext b w else sext a w + sext b w
  if sat then
    (if signed then wrap (clampI sx (-(2 ^ (w - 1) : Nat)) ((2 ^ (w - 1) : Nat) - 1)) w
     else wrap (clampI x 0 ((2 ^ w : Nat) - 1)) w)
  else wrap x w

/-- MULHI (R146): floor(sa × sb / 2^w) or floor(a × b / 2^w). -/
def mulHi (w : Nat) (signed : Bool) (a b : Nat) : Nat :=
  if signed then wrap ((sext a w * sext b w) / ((2 ^ w : Nat) : Int)) w else a * b / 2 ^ w % 2 ^ w

/-- DIV and REM (R147), defined for every operand pair; quotient and remainder. -/
def divRem (w : Nat) (signed : Bool) (a b : Nat) : Nat × Nat :=
  let n : Int := if signed then sext a w else a
  let d : Int := if signed then sext b w else b
  if d = 0 then (2 ^ w - 1, wrap n w)
  else if signed ∧ n = -(2 ^ (w - 1) : Nat) ∧ d = -1 then (2 ^ (w - 1), 0)
  else (wrap (n.tdiv d) w, wrap (n - n.tdiv d * d) w)

/-- MIN and MAX (R148). -/
def minMax (w : Nat) (signed isMax : Bool) (a b : Nat) : Nat :=
  let less : Bool := if signed then decide (sext a w < sext b w) else decide (a < b)
  if less != isMax then a else b

/-- ABS (R148). -/
def absInt (w a : Nat) : Nat := wrap ((sext a w).natAbs : Int) w

/-- NEG (R148). -/
def negInt (w a : Nat) : Nat := wrap (-(a : Int)) w

/-- NOT (R148). -/
def notInt (w a : Nat) : Nat := 2 ^ w - 1 - a % 2 ^ w

/-- The shifts and the rotation of R151 and R152 by a count n: 0 SHL, 1 SHR, 2 SHRA, 3 ROT. -/
def shiftOp (w op a n : Nat) : Nat :=
  match op with
  | 0 => if n ≥ w then 0 else a * 2 ^ n % 2 ^ w
  | 1 => if n ≥ w then 0 else a / 2 ^ n
  | 2 => wrap (sext a w / ((2 ^ (min n w) : Nat) : Int)) w
  | _ => (a * 2 ^ (n % w) + a / 2 ^ (w - n % w)) % 2 ^ w

/-- PERMB (R149): one byte of the result from its selector nibble. -/
def permByte (a sel : Nat) : Nat :=
  if sel ≥ 8 then 0
  else
    let byte := byteOf a (sel % 4)
    if sel ≥ 4 then (if byte ≥ 128 then 0xFF else 0x00) else byte

/-- PERMB (R149). -/
def permb (a b : Nat) : Nat :=
  permByte a (bits b 0 4) + 256 * permByte a (bits b 4 4) + 65536 * permByte a (bits b 8 4) + 16777216 * permByte a (bits b 12 4)

/-- BFX (R153). -/
def bfx (w : Nat) (signed : Bool) (a ctl : Nat) : Nat :=
  let pos := bits ctl 0 8
  let len := bits ctl 8 8
  if len = 0 then 0
  else
    let l := min len w
    let f := a / 2 ^ pos % 2 ^ l
    if signed then wrap (sext f l) w else f

/-- BFI (R153). -/
def bfi (a b ctl : Nat) : Nat :=
  let pos := bits ctl 0 8
  let len := bits ctl 8 8
  let mask := (2 ^ min len 32 - 1) * 2 ^ pos % 2 ^ 32
  (a &&& (2 ^ 32 - 1 - mask)) ||| (b * 2 ^ pos &&& mask)

/-- LEA (R156): the pair A plus an index scaled by 2^S. -/
def leaSum (a b : Nat) (signed : Bool) (s : Nat) : Nat :=
  wrap ((a : Int) + (if signed then sext b 32 else (b : Int)) * (2 ^ s : Nat)) 64

/-- An integer relation of CMP (R108, R157): 0 eq, 1 ne, 2 lt, 3 le, 4 gt, 5 ge. -/
def relInt (cond : Nat) (a b : Int) : Bool :=
  match cond with
  | 0 => decide (a = b) | 1 => decide (a ≠ b) | 2 => decide (a < b)
  | 3 => decide (a ≤ b) | 4 => decide (b < a) | _ => decide (b ≤ a)

end Machine
end Sys2Proof
end

