-- ==== Sys2Proof/Machine/Arith.lean ====
section
/-! DEFINITION. The meanings of the integer, carry, shift, bit-field, move and address instructions (R141 to R156): each issues through
the shared frame and writes its result at its frozen latency (R116). -/

namespace Sys2Proof
namespace Machine

/-- A unary word: one operand, one result (R142, R144). -/
def unaryWord (lat : Nat) (d a : Src) (l : Bool) (f : Nat → Nat) (s : State) : Host.Outcome State Fault Refusal :=
  issue s (fun _ => { srcs := [a], dests := d.regs, kills := killIf l a })
    fun x s1 => .ok (s1.result x lat d.regs (wordsOf d.n (f (nth x.vals 0 0))))

/-- A binary word: two operands, one result; SAT may govern it (R103, R142, R144). -/
def binaryWord (lat : Nat) (d a : Src) (l : Bool) (b : Src) (m sat : Bool) (f : Bool → Nat → Nat → Nat) (s : State) :
    Host.Outcome State Fault Refusal :=
  issue s (fun _ => { srcs := [a, b], dests := d.regs, kills := killIf l a ++ killIf m b, hints := { sat := sat } })
    fun x s1 => .ok (s1.result x lat d.regs (wordsOf d.n (f (modSat x.t.latch) (nth x.vals 0 0) (nth x.vals 1 0))))

/-- A word of three operands; LIVE.LC is the last use of C (R100, R144). -/
def ternaryWord (lat : Nat) (d a : Src) (l : Bool) (b : Src) (m : Bool) (c : Src) (f : Nat → Nat → Nat → Nat) (s : State) :
    Host.Outcome State Fault Refusal :=
  issue s (fun t => { srcs := [a, b, c], dests := d.regs, hints := { lc := true },
                      kills := killIf l a ++ killIf m b ++ killIf (liveLc t.latch) c })
    fun x s1 => .ok (s1.result x lat d.regs (wordsOf d.n (f (nth x.vals 0 0) (nth x.vals 1 0) (nth x.vals 2 0))))

/-- A word with an immediate (R101, R155). -/
def immWord (lat : Nat) (d a : Src) (l : Bool) (i : Nat) (sat : Bool) (f : Bool → Nat → Nat → Nat) (s : State) :
    Host.Outcome State Fault Refusal :=
  issue s (fun _ => { srcs := [a], dests := d.regs, kills := killIf l a, hints := { imm := 1, sat := sat } })
    fun x s1 => .ok (s1.result x lat d.regs (wordsOf d.n (f (modSat x.t.latch) (nth x.vals 0 0) (immValue x.t.latch i))))

/-- The shape of a w-bit operand: one register or a pair (R142). -/
def shape (w r : Nat) : Src := ⟨r, w / 32⟩

/-- ADD.i, 32-bit (R145). -/
def execAddI32 (d a : Nat) (l : Bool) (b : Nat) (m : Bool) (s : State) : Host.Outcome State Fault Refusal :=
  binaryWord 4 (shape 32 d) (shape 32 a) l (shape 32 b) m true (fun sat a b => addSub 32 false true sat a b) s

/-- ADD.n, 32-bit (R145). -/
def execAddN32 (d a : Nat) (l : Bool) (b : Nat) (m : Bool) (s : State) : Host.Outcome State Fault Refusal :=
  binaryWord 4 (shape 32 d) (shape 32 a) l (shape 32 b) m true (fun sat a b => addSub 32 false false sat a b) s

/-- SUB.i, 32-bit (R145). -/
def execSubI32 (d a : Nat) (l : Bool) (b : Nat) (m : Bool) (s : State) : Host.Outcome State Fault Refusal :=
  binaryWord 4 (shape 32 d) (shape 32 a) l (shape 32 b) m true (fun sat a b => addSub 32 true true sat a b) s

/-- SUB.n, 32-bit (R145). -/
def execSubN32 (d a : Nat) (l : Bool) (b : Nat) (m : Bool) (s : State) : Host.Outcome State Fault Refusal :=
  binaryWord 4 (shape 32 d) (shape 32 a) l (shape 32 b) m true (fun sat a b => addSub 32 true false sat a b) s

/-- MULLO, 32-bit (R146). -/
def execMullo32 (d a : Nat) (l : Bool) (b : Nat) (m : Bool) (s : State) : Host.Outcome State Fault Refusal :=
  binaryWord 6 (shape 32 d) (shape 32 a) l (shape 32 b) m false (fun _ a b => a * b) s

/-- MULHI.i, 32-bit (R146). -/
def execMulhiI32 (d a : Nat) (l : Bool) (b : Nat) (m : Bool) (s : State) : Host.Outcome State Fault Refusal :=
  binaryWord 6 (shape 32 d) (shape 32 a) l (shape 32 b) m false (fun _ a b => mulHi 32 true a b) s

/-- MULHI.n, 32-bit (R146). -/
def execMulhiN32 (d a : Nat) (l : Bool) (b : Nat) (m : Bool) (s : State) : Host.Outcome State Fault Refusal :=
  binaryWord 6 (shape 32 d) (shape 32 a) l (shape 32 b) m false (fun _ a b => mulHi 32 false a b) s

/-- DIV.i, 32-bit (R147). -/
def execDivI32 (d a : Nat) (l : Bool) (b : Nat) (m : Bool) (s : State) : Host.Outcome State Fault Refusal :=
  binaryWord 36 (shape 32 d) (shape 32 a) l (shape 32 b) m false (fun _ a b => (divRem 32 true a b).1) s

/-- DIV.n, 32-bit (R147). -/
def execDivN32 (d a : Nat) (l : Bool) (b : Nat) (m : Bool) (s : State) : Host.Outcome State Fault Refusal :=
  binaryWord 36 (shape 32 d) (shape 32 a) l (shape 32 b) m false (fun _ a b => (divRem 32 false a b).1) s

/-- REM.i, 32-bit (R147). -/
def execRemI32 (d a : Nat) (l : Bool) (b : Nat) (m : Bool) (s : State) : Host.Outcome State Fault Refusal :=
  binaryWord 36 (shape 32 d) (shape 32 a) l (shape 32 b) m false (fun _ a b => (divRem 32 true a b).2) s

/-- REM.n, 32-bit (R147). -/
def execRemN32 (d a : Nat) (l : Bool) (b : Nat) (m : Bool) (s : State) : Host.Outcome State Fault Refusal :=
  binaryWord 36 (shape 32 d) (shape 32 a) l (shape 32 b) m false (fun _ a b => (divRem 32 false a b).2) s

/-- MIN.i, 32-bit (R148). -/
def execMinI32 (d a : Nat) (l : Bool) (b : Nat) (m : Bool) (s : State) : Host.Outcome State Fault Refusal :=
  binaryWord 4 (shape 32 d) (shape 32 a) l (shape 32 b) m false (fun _ a b => minMax 32 true false a b) s

/-- MIN.n, 32-bit (R148). -/
def execMinN32 (d a : Nat) (l : Bool) (b : Nat) (m : Bool) (s : State) : Host.Outcome State Fault Refusal :=
  binaryWord 4 (shape 32 d) (shape 32 a) l (shape 32 b) m false (fun _ a b => minMax 32 false false a b) s

/-- MAX.i, 32-bit (R148). -/
def execMaxI32 (d a : Nat) (l : Bool) (b : Nat) (m : Bool) (s : State) : Host.Outcome State Fault Refusal :=
  binaryWord 4 (shape 32 d) (shape 32 a) l (shape 32 b) m false (fun _ a b => minMax 32 true true a b) s

/-- MAX.n, 32-bit (R148). -/
def execMaxN32 (d a : Nat) (l : Bool) (b : Nat) (m : Bool) (s : State) : Host.Outcome State Fault Refusal :=
  binaryWord 4 (shape 32 d) (shape 32 a) l (shape 32 b) m false (fun _ a b => minMax 32 false true a b) s

/-- AND, 32-bit (R148). -/
def execAnd32 (d a : Nat) (l : Bool) (b : Nat) (m : Bool) (s : State) : Host.Outcome State Fault Refusal :=
  binaryWord 4 (shape 32 d) (shape 32 a) l (shape 32 b) m false (fun _ a b => a &&& b) s

/-- OR, 32-bit (R148). -/
def execOr32 (d a : Nat) (l : Bool) (b : Nat) (m : Bool) (s : State) : Host.Outcome State Fault Refusal :=
  binaryWord 4 (shape 32 d) (shape 32 a) l (shape 32 b) m false (fun _ a b => a ||| b) s

/-- XOR, 32-bit (R148). -/
def execXor32 (d a : Nat) (l : Bool) (b : Nat) (m : Bool) (s : State) : Host.Outcome State Fault Refusal :=
  binaryWord 4 (shape 32 d) (shape 32 a) l (shape 32 b) m false (fun _ a b => a ^^^ b) s

/-- ANDN, 32-bit (R148). -/
def execAndn32 (d a : Nat) (l : Bool) (b : Nat) (m : Bool) (s : State) : Host.Outcome State Fault Refusal :=
  binaryWord 4 (shape 32 d) (shape 32 a) l (shape 32 b) m false (fun _ a b => a &&& notInt 32 b) s

/-- SHL, 32-bit (R151). -/
def execShl32 (d a : Nat) (l : Bool) (b : Nat) (m : Bool) (s : State) : Host.Outcome State Fault Refusal :=
  binaryWord 4 (shape 32 d) (shape 32 a) l ⟨b, 1⟩ m false (fun _ a b => shiftOp 32 0 a (b % 256)) s

/-- SHR, 32-bit (R151). -/
def execShr32 (d a : Nat) (l : Bool) (b : Nat) (m : Bool) (s : State) : Host.Outcome State Fault Refusal :=
  binaryWord 4 (shape 32 d) (shape 32 a) l ⟨b, 1⟩ m false (fun _ a b => shiftOp 32 1 a (b % 256)) s

/-- SHRA, 32-bit (R151). -/
def execShra32 (d a : Nat) (l : Bool) (b : Nat) (m : Bool) (s : State) : Host.Outcome State Fault Refusal :=
  binaryWord 4 (shape 32 d) (shape 32 a) l ⟨b, 1⟩ m false (fun _ a b => shiftOp 32 2 a (b % 256)) s

/-- ROT, 32-bit (R151). -/
def execRot32 (d a : Nat) (l : Bool) (b : Nat) (m : Bool) (s : State) : Host.Outcome State Fault Refusal :=
  binaryWord 4 (shape 32 d) (shape 32 a) l ⟨b, 1⟩ m false (fun _ a b => shiftOp 32 3 a (b % 256)) s

/-- BFX.i, 32-bit (R153). -/
def execBfxI32 (d a : Nat) (l : Bool) (b : Nat) (m : Bool) (s : State) : Host.Outcome State Fault Refusal :=
  binaryWord 4 (shape 32 d) (shape 32 a) l ⟨b, 1⟩ m false (fun _ a b => bfx 32 true a b) s

/-- BFX.n, 32-bit (R153). -/
def execBfxN32 (d a : Nat) (l : Bool) (b : Nat) (m : Bool) (s : State) : Host.Outcome State Fault Refusal :=
  binaryWord 4 (shape 32 d) (shape 32 a) l ⟨b, 1⟩ m false (fun _ a b => bfx 32 false a b) s

/-- PERMB, 32-bit (R149). -/
def execPermb (d a : Nat) (l : Bool) (b : Nat) (m : Bool) (s : State) : Host.Outcome State Fault Refusal :=
  binaryWord 4 (shape 32 d) (shape 32 a) l (shape 32 b) m false (fun _ a b => permb a b) s

/-- ABS, 32-bit (R148). -/
def execAbs32 (d a : Nat) (l : Bool) (s : State) : Host.Outcome State Fault Refusal :=
  unaryWord 4 (shape 32 d) (shape 32 a) l (absInt 32) s

/-- NEG, 32-bit (R148). -/
def execNeg32 (d a : Nat) (l : Bool) (s : State) : Host.Outcome State Fault Refusal :=
  unaryWord 4 (shape 32 d) (shape 32 a) l (negInt 32) s

/-- NOT, 32-bit (R148). -/
def execNot32 (d a : Nat) (l : Bool) (s : State) : Host.Outcome State Fault Refusal :=
  unaryWord 4 (shape 32 d) (shape 32 a) l (notInt 32) s

/-- POPC, 32-bit (R148). -/
def execPopc32 (d a : Nat) (l : Bool) (s : State) : Host.Outcome State Fault Refusal :=
  unaryWord 4 (shape 32 d) (shape 32 a) l (popcount 32) s

/-- CLZ, 32-bit (R148). -/
def execClz32 (d a : Nat) (l : Bool) (s : State) : Host.Outcome State Fault Refusal :=
  unaryWord 4 (shape 32 d) (shape 32 a) l (clz 32) s

/-- CTZ, 32-bit (R148). -/
def execCtz32 (d a : Nat) (l : Bool) (s : State) : Host.Outcome State Fault Refusal :=
  unaryWord 4 (shape 32 d) (shape 32 a) l (ctz 32) s

/-- BREV, 32-bit (R148). -/
def execBrev32 (d a : Nat) (l : Bool) (s : State) : Host.Outcome State Fault Refusal :=
  unaryWord 4 (shape 32 d) (shape 32 a) l (bitrev 32) s

/-- MOV, 32-bit (R148). -/
def execMov32 (d a : Nat) (l : Bool) (s : State) : Host.Outcome State Fault Refusal :=
  unaryWord 4 (shape 32 d) (shape 32 a) l ((fun a => a)) s

/-- ADD.i, 64-bit (R145). -/
def execAddI64 (d a : Nat) (l : Bool) (b : Nat) (m : Bool) (s : State) : Host.Outcome State Fault Refusal :=
  binaryWord 4 (shape 64 d) (shape 64 a) l (shape 64 b) m true (fun sat a b => addSub 64 false true sat a b) s

/-- ADD.n, 64-bit (R145). -/
def execAddN64 (d a : Nat) (l : Bool) (b : Nat) (m : Bool) (s : State) : Host.Outcome State Fault Refusal :=
  binaryWord 4 (shape 64 d) (shape 64 a) l (shape 64 b) m true (fun sat a b => addSub 64 false false sat a b) s

/-- SUB.i, 64-bit (R145). -/
def execSubI64 (d a : Nat) (l : Bool) (b : Nat) (m : Bool) (s : State) : Host.Outcome State Fault Refusal :=
  binaryWord 4 (shape 64 d) (shape 64 a) l (shape 64 b) m true (fun sat a b => addSub 64 true true sat a b) s

/-- SUB.n, 64-bit (R145). -/
def execSubN64 (d a : Nat) (l : Bool) (b : Nat) (m : Bool) (s : State) : Host.Outcome State Fault Refusal :=
  binaryWord 4 (shape 64 d) (shape 64 a) l (shape 64 b) m true (fun sat a b => addSub 64 true false sat a b) s

/-- MULLO, 64-bit (R146). -/
def execMullo64 (d a : Nat) (l : Bool) (b : Nat) (m : Bool) (s : State) : Host.Outcome State Fault Refusal :=
  binaryWord 10 (shape 64 d) (shape 64 a) l (shape 64 b) m false (fun _ a b => a * b) s

/-- MULHI.i, 64-bit (R146). -/
def execMulhiI64 (d a : Nat) (l : Bool) (b : Nat) (m : Bool) (s : State) : Host.Outcome State Fault Refusal :=
  binaryWord 10 (shape 64 d) (shape 64 a) l (shape 64 b) m false (fun _ a b => mulHi 64 true a b) s

/-- MULHI.n, 64-bit (R146). -/
def execMulhiN64 (d a : Nat) (l : Bool) (b : Nat) (m : Bool) (s : State) : Host.Outcome State Fault Refusal :=
  binaryWord 10 (shape 64 d) (shape 64 a) l (shape 64 b) m false (fun _ a b => mulHi 64 false a b) s

/-- DIV.i, 64-bit (R147). -/
def execDivI64 (d a : Nat) (l : Bool) (b : Nat) (m : Bool) (s : State) : Host.Outcome State Fault Refusal :=
  binaryWord 68 (shape 64 d) (shape 64 a) l (shape 64 b) m false (fun _ a b => (divRem 64 true a b).1) s

/-- DIV.n, 64-bit (R147). -/
def execDivN64 (d a : Nat) (l : Bool) (b : Nat) (m : Bool) (s : State) : Host.Outcome State Fault Refusal :=
  binaryWord 68 (shape 64 d) (shape 64 a) l (shape 64 b) m false (fun _ a b => (divRem 64 false a b).1) s

/-- REM.i, 64-bit (R147). -/
def execRemI64 (d a : Nat) (l : Bool) (b : Nat) (m : Bool) (s : State) : Host.Outcome State Fault Refusal :=
  binaryWord 68 (shape 64 d) (shape 64 a) l (shape 64 b) m false (fun _ a b => (divRem 64 true a b).2) s

/-- REM.n, 64-bit (R147). -/
def execRemN64 (d a : Nat) (l : Bool) (b : Nat) (m : Bool) (s : State) : Host.Outcome State Fault Refusal :=
  binaryWord 68 (shape 64 d) (shape 64 a) l (shape 64 b) m false (fun _ a b => (divRem 64 false a b).2) s

/-- MIN.i, 64-bit (R148). -/
def execMinI64 (d a : Nat) (l : Bool) (b : Nat) (m : Bool) (s : State) : Host.Outcome State Fault Refusal :=
  binaryWord 4 (shape 64 d) (shape 64 a) l (shape 64 b) m false (fun _ a b => minMax 64 true false a b) s

/-- MIN.n, 64-bit (R148). -/
def execMinN64 (d a : Nat) (l : Bool) (b : Nat) (m : Bool) (s : State) : Host.Outcome State Fault Refusal :=
  binaryWord 4 (shape 64 d) (shape 64 a) l (shape 64 b) m false (fun _ a b => minMax 64 false false a b) s

/-- MAX.i, 64-bit (R148). -/
def execMaxI64 (d a : Nat) (l : Bool) (b : Nat) (m : Bool) (s : State) : Host.Outcome State Fault Refusal :=
  binaryWord 4 (shape 64 d) (shape 64 a) l (shape 64 b) m false (fun _ a b => minMax 64 true true a b) s

/-- MAX.n, 64-bit (R148). -/
def execMaxN64 (d a : Nat) (l : Bool) (b : Nat) (m : Bool) (s : State) : Host.Outcome State Fault Refusal :=
  binaryWord 4 (shape 64 d) (shape 64 a) l (shape 64 b) m false (fun _ a b => minMax 64 false true a b) s

/-- AND, 64-bit (R148). -/
def execAnd64 (d a : Nat) (l : Bool) (b : Nat) (m : Bool) (s : State) : Host.Outcome State Fault Refusal :=
  binaryWord 4 (shape 64 d) (shape 64 a) l (shape 64 b) m false (fun _ a b => a &&& b) s

/-- OR, 64-bit (R148). -/
def execOr64 (d a : Nat) (l : Bool) (b : Nat) (m : Bool) (s : State) : Host.Outcome State Fault Refusal :=
  binaryWord 4 (shape 64 d) (shape 64 a) l (shape 64 b) m false (fun _ a b => a ||| b) s

/-- XOR, 64-bit (R148). -/
def execXor64 (d a : Nat) (l : Bool) (b : Nat) (m : Bool) (s : State) : Host.Outcome State Fault Refusal :=
  binaryWord 4 (shape 64 d) (shape 64 a) l (shape 64 b) m false (fun _ a b => a ^^^ b) s

/-- ANDN, 64-bit (R148). -/
def execAndn64 (d a : Nat) (l : Bool) (b : Nat) (m : Bool) (s : State) : Host.Outcome State Fault Refusal :=
  binaryWord 4 (shape 64 d) (shape 64 a) l (shape 64 b) m false (fun _ a b => a &&& notInt 64 b) s

/-- SHL, 64-bit (R151). -/
def execShl64 (d a : Nat) (l : Bool) (b : Nat) (m : Bool) (s : State) : Host.Outcome State Fault Refusal :=
  binaryWord 4 (shape 64 d) (shape 64 a) l ⟨b, 1⟩ m false (fun _ a b => shiftOp 64 0 a (b % 256)) s

/-- SHR, 64-bit (R151). -/
def execShr64 (d a : Nat) (l : Bool) (b : Nat) (m : Bool) (s : State) : Host.Outcome State Fault Refusal :=
  binaryWord 4 (shape 64 d) (shape 64 a) l ⟨b, 1⟩ m false (fun _ a b => shiftOp 64 1 a (b % 256)) s

/-- SHRA, 64-bit (R151). -/
def execShra64 (d a : Nat) (l : Bool) (b : Nat) (m : Bool) (s : State) : Host.Outcome State Fault Refusal :=
  binaryWord 4 (shape 64 d) (shape 64 a) l ⟨b, 1⟩ m false (fun _ a b => shiftOp 64 2 a (b % 256)) s

/-- ROT, 64-bit (R151). -/
def execRot64 (d a : Nat) (l : Bool) (b : Nat) (m : Bool) (s : State) : Host.Outcome State Fault Refusal :=
  binaryWord 4 (shape 64 d) (shape 64 a) l ⟨b, 1⟩ m false (fun _ a b => shiftOp 64 3 a (b % 256)) s

/-- BFX.i, 64-bit (R153). -/
def execBfxI64 (d a : Nat) (l : Bool) (b : Nat) (m : Bool) (s : State) : Host.Outcome State Fault Refusal :=
  binaryWord 4 (shape 64 d) (shape 64 a) l ⟨b, 1⟩ m false (fun _ a b => bfx 64 true a b) s

/-- BFX.n, 64-bit (R153). -/
def execBfxN64 (d a : Nat) (l : Bool) (b : Nat) (m : Bool) (s : State) : Host.Outcome State Fault Refusal :=
  binaryWord 4 (shape 64 d) (shape 64 a) l ⟨b, 1⟩ m false (fun _ a b => bfx 64 false a b) s

/-- ABS, 64-bit (R148). -/
def execAbs64 (d a : Nat) (l : Bool) (s : State) : Host.Outcome State Fault Refusal :=
  unaryWord 4 (shape 64 d) (shape 64 a) l (absInt 64) s

/-- NEG, 64-bit (R148). -/
def execNeg64 (d a : Nat) (l : Bool) (s : State) : Host.Outcome State Fault Refusal :=
  unaryWord 4 (shape 64 d) (shape 64 a) l (negInt 64) s

/-- NOT, 64-bit (R148). -/
def execNot64 (d a : Nat) (l : Bool) (s : State) : Host.Outcome State Fault Refusal :=
  unaryWord 4 (shape 64 d) (shape 64 a) l (notInt 64) s

/-- POPC, 64-bit (R148). -/
def execPopc64 (d a : Nat) (l : Bool) (s : State) : Host.Outcome State Fault Refusal :=
  unaryWord 4 (shape 32 d) (shape 64 a) l (popcount 64) s

/-- CLZ, 64-bit (R148). -/
def execClz64 (d a : Nat) (l : Bool) (s : State) : Host.Outcome State Fault Refusal :=
  unaryWord 4 (shape 32 d) (shape 64 a) l (clz 64) s

/-- CTZ, 64-bit (R148). -/
def execCtz64 (d a : Nat) (l : Bool) (s : State) : Host.Outcome State Fault Refusal :=
  unaryWord 4 (shape 32 d) (shape 64 a) l (ctz 64) s

/-- BREV, 64-bit (R148). -/
def execBrev64 (d a : Nat) (l : Bool) (s : State) : Host.Outcome State Fault Refusal :=
  unaryWord 4 (shape 64 d) (shape 64 a) l (bitrev 64) s

/-- MOV, 64-bit (R148). -/
def execMov64 (d a : Nat) (l : Bool) (s : State) : Host.Outcome State Fault Refusal :=
  unaryWord 4 (shape 64 d) (shape 64 a) l ((fun a => a)) s

/-- ADDC and SUBB (R150): the sum or difference with the predicate p as carry or borrow, which both results replace. -/
def carryWord (sub : Bool) (d a : Nat) (l : Bool) (b : Nat) (m : Bool) (p : Nat) (s : State) : Host.Outcome State Fault Refusal :=
  issue s (fun _ => { srcs := [⟨a, 1⟩, ⟨b, 1⟩], dests := [d, 64 + p], preds := [p], kills := killIf l ⟨a, 1⟩ ++ killIf m ⟨b, 1⟩ })
    fun x s1 =>
      let k : Int := (x.t.pred p).toNat
      let va : Int := (nth x.vals 0 0 : Nat)
      let vb : Int := (nth x.vals 1 0 : Nat)
      let r : Int := if sub then va - vb - k else va + vb + k
      let c : Bool := if sub then decide (r < 0) else decide (r ≥ 2 ^ 32)
      .ok (s1.result x 4 [d, 64 + p] [wrap r 32, c.toNat])

/-- ADDC (R150). -/
def execAddc (d a : Nat) (l : Bool) (b : Nat) (m : Bool) (p : Nat) (s : State) : Host.Outcome State Fault Refusal :=
  carryWord false d a l b m p s

/-- SUBB (R150). -/
def execSubb (d a : Nat) (l : Bool) (b : Nat) (m : Bool) (p : Nat) (s : State) : Host.Outcome State Fault Refusal :=
  carryWord true d a l b m p s

/-- SEL (R150). -/
def execSel (d a : Nat) (l : Bool) (b : Nat) (m : Bool) (p : Nat) (s : State) : Host.Outcome State Fault Refusal :=
  issue s (fun _ => { srcs := [⟨a, 1⟩, ⟨b, 1⟩], dests := [d], preds := [p], kills := killIf l ⟨a, 1⟩ ++ killIf m ⟨b, 1⟩ })
    fun x s1 => .ok (s1.result x 4 [d] [if x.t.pred p then nth x.vals 0 0 else nth x.vals 1 0])

/-- LEA (R156). -/
def execLea (d a : Nat) (l : Bool) (b : Nat) (m x : Bool) (sh : Nat) (s : State) : Host.Outcome State Fault Refusal :=
  binaryWord 4 ⟨d, 2⟩ ⟨a, 2⟩ l ⟨b, 1⟩ m false (fun _ va vb => leaSum va vb x sh) s

/-- BFI (R153). -/
def execBfi (d a : Nat) (l : Bool) (b : Nat) (m : Bool) (c : Nat) (s : State) : Host.Outcome State Fault Refusal :=
  ternaryWord 4 ⟨d, 1⟩ ⟨a, 1⟩ l ⟨b, 1⟩ m ⟨c, 1⟩ bfi s

/-- MAD, 32-bit (R146). -/
def execMad32 (d a : Nat) (l : Bool) (b : Nat) (m : Bool) (c : Nat) (s : State) : Host.Outcome State Fault Refusal :=
  ternaryWord 6 ⟨d, 1⟩ ⟨a, 1⟩ l ⟨b, 1⟩ m ⟨c, 1⟩ (fun x y z => x * y + z) s

/-- MAD, 64-bit (R146). -/
def execMad64 (d a : Nat) (l : Bool) (b : Nat) (m : Bool) (c : Nat) (s : State) : Host.Outcome State Fault Refusal :=
  ternaryWord 10 ⟨d, 2⟩ ⟨a, 2⟩ l ⟨b, 2⟩ m ⟨c, 2⟩ (fun x y z => x * y + z) s

/-- ADD.i with a 32-bit immediate (R155). -/
def execAddI32Imm (d a : Nat) (l : Bool) (i : Nat) (s : State) : Host.Outcome State Fault Refusal :=
  immWord 4 ⟨d, 1⟩ ⟨a, 1⟩ l i true (fun sat x y => addSub 32 false true sat x y) s

/-- AND with an immediate (R155). -/
def execAndImm (d a : Nat) (l : Bool) (i : Nat) (s : State) : Host.Outcome State Fault Refusal :=
  immWord 4 ⟨d, 1⟩ ⟨a, 1⟩ l i false (fun _ x y => x &&& y) s

/-- OR with an immediate (R155). -/
def execOrImm (d a : Nat) (l : Bool) (i : Nat) (s : State) : Host.Outcome State Fault Refusal :=
  immWord 4 ⟨d, 1⟩ ⟨a, 1⟩ l i false (fun _ x y => x ||| y) s

/-- XOR with an immediate (R155). -/
def execXorImm (d a : Nat) (l : Bool) (i : Nat) (s : State) : Host.Outcome State Fault Refusal :=
  immWord 4 ⟨d, 1⟩ ⟨a, 1⟩ l i false (fun _ x y => x ^^^ y) s

/-- ADD.i of 64 bits with a sign-extended 32-bit immediate (R155). -/
def execAddI64Imm (d a : Nat) (l : Bool) (i : Nat) (s : State) : Host.Outcome State Fault Refusal :=
  immWord 4 ⟨d, 2⟩ ⟨a, 2⟩ l i true (fun sat x y => addSub 64 false true sat x (wrap (sext y 32) 64)) s

/-- MOVI (R154). -/
def execMovi (d i : Nat) (s : State) : Host.Outcome State Fault Refusal :=
  issue s (fun _ => { dests := [d], hints := { imm := 1 } }) fun x s1 => .ok (s1.result x 4 [d] [immValue x.t.latch i])

/-- An immediate shift (R152): no IMM may govern it. -/
def shiftImm (op d a : Nat) (l w : Bool) (n : Nat) (s : State) : Host.Outcome State Fault Refusal :=
  let width := if w then 64 else 32
  unaryWord 4 (shape width d) (shape width a) l (fun x => shiftOp width op x n) s

/-- SHL by an immediate count (R152). -/
def execShlImm (d a : Nat) (l w : Bool) (n : Nat) (s : State) : Host.Outcome State Fault Refusal :=
  shiftImm 0 d a l w n s

/-- SHR by an immediate count (R152). -/
def execShrImm (d a : Nat) (l w : Bool) (n : Nat) (s : State) : Host.Outcome State Fault Refusal :=
  shiftImm 1 d a l w n s

/-- SHRA by an immediate count (R152). -/
def execShraImm (d a : Nat) (l w : Bool) (n : Nat) (s : State) : Host.Outcome State Fault Refusal :=
  shiftImm 2 d a l w n s

/-- ROT by an immediate count (R152). -/
def execRotImm (d a : Nat) (l w : Bool) (n : Nat) (s : State) : Host.Outcome State Fault Refusal :=
  shiftImm 3 d a l w n s

end Machine
end Sys2Proof
end

