-- ==== Sys2Proof/Machine/Elementary.lean ====
section
/-! DEFINITION. FSQRT, FRCP, FRSQ, FEXP2, FLOG2, FSIN and FCOS, correctly rounded (R175, R176). Square root and reciprocals come
from exact integer arithmetic with a sticky bit. The others come from fixed-point enclosures: an enclosure narrow enough that both
of its ends round alike gives the correctly rounded result (DEDUCED, log 5), and the precision doubles until one is. -/

namespace Sys2Proof
namespace Machine

/-- FSQRT (R176). -/
def fsqrt (f : Fmt) (mode : Nat) (a : FVal) : Nat × Nat :=
  match a with
  | .nan _ _ _ => nanResult f [a]
  | .inf neg => if neg then invalid f else (infBits f false, 0)
  | .fin neg m e =>
    if m = 0 then (signBit f neg, 0)
    else if neg then invalid f
    else
      let k := 2 * f.prec + 8
      let odd := decide (e % 2 ≠ 0)
      let x := (if odd then 2 * m else m) * 2 ^ (2 * k)
      let r := isqrt x
      let e' := (if odd then e - 1 else e) / 2 - (k : Int)
      roundFinite f mode false (2 * r + (if r * r = x then 0 else 1)) (e' - 1)

/-- FRCP (R176). -/
def frcp (f : Fmt) (mode : Nat) (a : FVal) : Nat × Nat :=
  match a with
  | .nan _ _ _ => nanResult f [a]
  | .inf neg => (signBit f neg, 0)
  | .fin neg m e =>
    if m = 0 then (infBits f neg, fDZ)
    else
      let (q, k) := quotJam 1 m (f.prec + 4)
      roundFinite f mode neg q (-e - (k : Int))

/-- FRSQ (R176). -/
def frsq (f : Fmt) (mode : Nat) (a : FVal) : Nat × Nat :=
  match a with
  | .nan _ _ _ => nanResult f [a]
  | .inf neg => if neg then invalid f else (0, 0)
  | .fin neg m e =>
    if m = 0 then (infBits f neg, fDZ)
    else if neg then invalid f
    else
      let odd := decide (e % 2 ≠ 0)
      let m' := if odd then 2 * m else m
      let e' := (if odd then e - 1 else e) / 2
      let k := 3 * f.prec + 8
      let r := isqrt (2 ^ (2 * k) / m')
      roundFinite f mode false (2 * r + (if r * r * m' = 2 ^ (2 * k) then 0 else 1)) (-e' - (k : Int) - 1)

/-- The alternating or plain series Σ x / ((2i+1) y^i) in units of one: atan or atanh of 1/k with y = k², by fuel. -/
def invSeries (alt : Bool) (y : Nat) : Nat → Nat → Nat → Int
  | 0, _, _ => 0
  | n + 1, i, x =>
    let t : Int := (x / (2 * i + 1) : Nat)
    (if alt && i % 2 == 1 then -t else t) + invSeries alt y n (i + 1) (x / y)

/-- π in units of 2^−p, to within 2^15 units (Machin's formula). -/
def piFix (p : Nat) : Nat :=
  (4 * (4 * invSeries true 25 (p / 4 + 8) 0 (2 ^ p / 5) - invSeries true 57121 (p / 15 + 8) 0 (2 ^ p / 239))).toNat

/-- ln 2 in units of 2^−p, to within 2^12 units: 2 atanh(1/3). -/
def ln2Fix (p : Nat) : Nat := (2 * invSeries false 9 (p / 3 + 8) 0 (2 ^ p / 3)).toNat

/-- Σ x^i / i! for 0 ≤ x < 1 in units of 2^−p, by fuel; `t` is the current term. -/
def expSeries (p x : Nat) : Nat → Nat → Nat → Nat
  | 0, _, _ => 0
  | n + 1, i, t => if t = 0 then 0 else t + expSeries p x n (i + 1) (t * x / 2 ^ p / (i + 1))

/-- The series of sine or cosine: terms of alternating sign, step by x²; `i` the index of the current term's power. -/
def trigSeries (p x2 : Nat) : Nat → Nat → Nat → Int
  | 0, _, _ => 0
  | n + 1, i, t => if t = 0 then 0 else (t : Int) - trigSeries p x2 n (i + 2) (t * x2 / 2 ^ p / ((i + 1) * (i + 2)))

/-- Σ 2 z^(2i+1)/(2i+1) for ln((1+z)/(1−z)) in units of 2^−p. -/
def logSeries (p z2 : Nat) : Nat → Nat → Nat → Nat
  | 0, _, _ => 0
  | n + 1, i, t => if t = 0 then 0 else t / (2 * i + 1) + logSeries p z2 n (i + 1) (t * z2 / 2 ^ p)

/-- Rounds the value v × 2^e known to within `err` units: both ends rounded alike give the result. -/
def roundEnclosed (f : Fmt) (mode : Nat) (neg : Bool) (v err : Nat) (e : Int) : Option (Nat × Nat) :=
  if v ≤ err then none
  else
    let lo := roundFinite f mode neg (2 * (v - err) + 1) (e - 1)
    let hi := roundFinite f mode neg (2 * (v + err) + 1) (e - 1)
    if lo = hi then some lo else none

/-- Tries an enclosure at doubling precision; the last resort is the enclosure's middle, which no operand reaches (log 5). -/
def refine (go : Nat → Option (Nat × Nat)) (last : Nat × Nat) : Nat → Nat → Nat × Nat
  | 0, _ => last
  | n + 1, p => match go p with
    | some r => r
    | none => refine go last n (2 * p)

/-- 2^x for x = ± m × 2^e, not an integer: the fixed-point value of 2^frac and the integer part. -/
def exp2Fix (p : Nat) (neg : Bool) (m : Nat) (e : Int) : Nat × Int :=
  let x : Int := if e ≥ 0 then (m * 2 ^ (p + e.toNat) : Nat)
    else if (-e).toNat ≤ p then (m * 2 ^ (p - (-e).toNat) : Nat) else (m / 2 ^ ((-e).toNat - p) : Nat)
  let x := if neg then -x else x
  let n := x / (2 ^ p : Nat)
  let fr := (x % (2 ^ p : Nat)).toNat
  (expSeries p (fr * ln2Fix p / 2 ^ p) (p / 2 + 16) 0 (2 ^ p), n)

/-- FEXP2 (R176): exact for an integer operand; operands beyond the format's range round from a value that stands in their place. -/
def fexp2 (f : Fmt) (mode : Nat) (a : FVal) : Nat × Nat :=
  match a with
  | .nan _ _ _ => nanResult f [a]
  | .inf neg => if neg then (0, 0) else (infBits f false, 0)
  | .fin neg m e =>
    let top : Int := (Nat.log2 m : Int) + e
    if m = 0 then roundFinite f mode false 1 0
    else if top ≥ 16 then roundFinite f mode false 3 (if neg then -65536 else 65536)
    else if top < -((f.prec : Int) + 8) then
      (if neg then roundFinite f mode false (2 ^ 200 - 1) (-200) else roundFinite f mode false (2 ^ 200 + 1) (-200))
    else if e ≥ 0 ∨ m % 2 ^ (-e).toNat = 0 then
      let n : Int := if e ≥ 0 then (m * 2 ^ e.toNat : Nat) else (m / 2 ^ (-e).toNat : Nat)
      roundFinite f mode false 1 (if neg then -n else n)
    else
      let go (p : Nat) : Option (Nat × Nat) :=
        let (v, n) := exp2Fix p neg m e
        roundEnclosed f mode false v (2 ^ 14) (n - (p : Int))
      let (v, n) := exp2Fix 512 neg m e
      refine go (roundFinite f mode false (2 * v + 1) (n - 513)) 5 (2 * f.prec + 96)

/-- log2 of m × 2^e: sign and magnitude in units of 2^−p, for a value that is not a power of two. -/
def log2Fix (p m : Nat) (e : Int) : Int :=
  let l := Nat.log2 m
  let num := m - 2 ^ l
  let den := m + 2 ^ l
  let z := num * 2 ^ p / den
  let z2 := z * z / 2 ^ p
  let ln := 2 * logSeries p z2 (p / 3 + 16) 0 z
  ((l : Int) + e) * (2 ^ p : Nat) + (ln * 2 ^ p / ln2Fix p : Nat)

/-- FLOG2 (R176). -/
def flog2 (f : Fmt) (mode : Nat) (a : FVal) : Nat × Nat :=
  match a with
  | .nan _ _ _ => nanResult f [a]
  | .inf neg => if neg then invalid f else (infBits f false, 0)
  | .fin neg m e =>
    if m = 0 then (infBits f true, fDZ)
    else if neg then invalid f
    else if m = 2 ^ Nat.log2 m then
      let n : Int := (Nat.log2 m : Int) + e
      roundTo f mode (FVal.ofInt n)
    else
      let go (p : Nat) : Option (Nat × Nat) :=
        let v := log2Fix p m e
        roundEnclosed f mode (decide (v < 0)) v.natAbs (2 ^ 14) (-(p : Int))
      let v := log2Fix 512 m e
      refine go (roundFinite f mode (decide (v < 0)) (2 * v.natAbs + 1) (-513)) 5 (2 * f.prec + 96)

/-- The quadrant of a positive argument m × 2^e and its remainder modulo π/2 in units of 2^−p (exact reduction, R175). -/
def reduceTrig (p m : Nat) (e : Int) : Nat × Nat :=
  let q := p + (max ((Nat.log2 m : Int) + e) 0).toNat + 8
  let x := if e + (q : Int) ≥ 0 then m * 2 ^ (e + (q : Int)).toNat else m / 2 ^ (-(e + (q : Int))).toNat
  let half := piFix (q + 16) / 2 ^ 17
  let n := x / half
  (n % 4, (x - n * half) / 2 ^ (q - p))

/-- sin or cos of a positive argument: sign and magnitude in units of 2^−p. -/
def trigFix (p : Nat) (cosine : Bool) (m : Nat) (e : Int) : Int :=
  let (n, r) := reduceTrig p m e
  let n := if cosine then n + 1 else n
  let r2 := r * r / 2 ^ p
  let v : Int := if n % 2 = 0 then trigSeries p r2 (p / 2 + 16) 1 r else trigSeries p r2 (p / 2 + 16) 0 (2 ^ p)
  if n % 4 ≥ 2 then -v else v

/-- FSIN and FCOS (R176). -/
def ftrig (f : Fmt) (cosine : Bool) (mode : Nat) (a : FVal) : Nat × Nat :=
  match a with
  | .nan _ _ _ => nanResult f [a]
  | .inf _ => invalid f
  | .fin neg m e =>
    if m = 0 then (if cosine then roundFinite f mode false 1 0 else (signBit f neg, 0))
    else if (Nat.log2 m : Int) + e < -((f.prec : Int) + 8) then
      (if cosine then roundFinite f mode false (2 ^ 200 - 1) (-200)
       else roundFinite f mode neg (m * 2 ^ 200 - 1) (e - 200))
    else
      let flip := neg && ! cosine
      let go (p : Nat) : Option (Nat × Nat) :=
        let v := trigFix p cosine m e
        roundEnclosed f mode (decide (v < 0) != flip) v.natAbs (2 ^ 14) (-(p : Int))
      let v := trigFix 1024 cosine m e
      refine go (roundFinite f mode (decide (v < 0) != flip) (2 * v.natAbs + 1) (-1025)) 6 (3 * f.prec + 96)

end Machine
end Sys2Proof
end

