-- ==== Sys2Proof/Machine/FloatInstr.lean ====
section
/-! DEFINITION. The meanings of the floating-point instructions (R160 to R176): one frame, one rounding, flags at completion. -/

namespace Sys2Proof
namespace Machine

/-- Registers of a value of a floating format (R161). -/
def fshape (f : Fmt) (r : Nat) : Src := ⟨r, if f = .f64 then 2 else 1⟩

/-- A floating-point word of one operand (R163). -/
def floatUnary (f : Fmt) (lat : Nat) (d : Src) (a : Nat) (l : Bool) (g : Nat → Nat → Nat × Nat) (s : State) :
    Host.Outcome State Fault Refusal :=
  let sa := fshape f a
  issue s (fun _ => { srcs := [sa], dests := d.regs, kills := killIf l sa, hints := { rm := 1 } })
    fun x s1 =>
      let rc := roundingCode x.t
      let r := g rc (nth x.vals 0 0)
      .ok (s1.floatResult x lat rc holdMask d.regs (wordsOf d.n r.1) r.2)

/-- A floating-point word of two operands (R163). -/
def floatBinary (f : Fmt) (lat d a : Nat) (l : Bool) (b : Src) (m : Bool) (g : Nat → Nat → Nat → Nat × Nat) (s : State) :
    Host.Outcome State Fault Refusal :=
  let sa := fshape f a
  let sd := fshape f d
  issue s (fun _ => { srcs := [sa, b], dests := sd.regs, kills := killIf l sa ++ killIf m b, hints := { rm := 1 } })
    fun x s1 =>
      let rc := roundingCode x.t
      let r := g rc (nth x.vals 0 0) (nth x.vals 1 0)
      .ok (s1.floatResult x lat rc holdMask sd.regs (wordsOf sd.n r.1) r.2)

/-- FFMA (R163, R169). -/
def floatFma (f : Fmt) (lat d a : Nat) (l : Bool) (b : Nat) (m : Bool) (c : Nat) (s : State) : Host.Outcome State Fault Refusal :=
  let sa := fshape f a
  let sb := fshape f b
  let sc := fshape f c
  let sd := fshape f d
  issue s (fun t => { srcs := [sa, sb, sc], dests := sd.regs, hints := { rm := 1, lc := true },
                      kills := killIf l sa ++ killIf m sb ++ killIf (liveLc t.latch) sc })
    fun x s1 =>
      let rc := roundingCode x.t
      let r := ffma f rc (decodeFloat f (nth x.vals 0 0)) (decodeFloat f (nth x.vals 1 0)) (decodeFloat f (nth x.vals 2 0))
      .ok (s1.floatResult x lat rc holdMask sd.regs (wordsOf sd.n r.1) r.2)

/-- FADD.f32 (R169). -/
def execFaddF32 (d a : Nat) (l : Bool) (b : Nat) (m : Bool) (s : State) : Host.Outcome State Fault Refusal :=
  floatBinary .f32 6 d a l (fshape .f32 b) m (fun rc x y => fadd .f32 rc (decodeFloat .f32 x) (decodeFloat .f32 y)) s

/-- FSUB.f32 (R169). -/
def execFsubF32 (d a : Nat) (l : Bool) (b : Nat) (m : Bool) (s : State) : Host.Outcome State Fault Refusal :=
  floatBinary .f32 6 d a l (fshape .f32 b) m (fun rc x y => fsub .f32 rc (decodeFloat .f32 x) (decodeFloat .f32 y)) s

/-- FMUL.f32 (R169). -/
def execFmulF32 (d a : Nat) (l : Bool) (b : Nat) (m : Bool) (s : State) : Host.Outcome State Fault Refusal :=
  floatBinary .f32 6 d a l (fshape .f32 b) m (fun rc x y => fmul .f32 rc (decodeFloat .f32 x) (decodeFloat .f32 y)) s

/-- FDIV.f32 (R169). -/
def execFdivF32 (d a : Nat) (l : Bool) (b : Nat) (m : Bool) (s : State) : Host.Outcome State Fault Refusal :=
  floatBinary .f32 24 d a l (fshape .f32 b) m (fun rc x y => fdiv .f32 rc (decodeFloat .f32 x) (decodeFloat .f32 y)) s

/-- FMIN.f32 (R171). -/
def execFminF32 (d a : Nat) (l : Bool) (b : Nat) (m : Bool) (s : State) : Host.Outcome State Fault Refusal :=
  floatBinary .f32 6 d a l (fshape .f32 b) m (fun _ x y => fminmax .f32 false x y) s

/-- FMAX.f32 (R171). -/
def execFmaxF32 (d a : Nat) (l : Bool) (b : Nat) (m : Bool) (s : State) : Host.Outcome State Fault Refusal :=
  floatBinary .f32 6 d a l (fshape .f32 b) m (fun _ x y => fminmax .f32 true x y) s

/-- FSCALE.f32 (R173). -/
def execFscaleF32 (d a : Nat) (l : Bool) (b : Nat) (m : Bool) (s : State) : Host.Outcome State Fault Refusal :=
  floatBinary .f32 6 d a l ⟨b, 1⟩ m (fun rc x y => fscale .f32 rc (decodeFloat .f32 x) (sext y 32)) s

/-- FABS.f32 (R172). -/
def execFabsF32 (d a : Nat) (l : Bool) (s : State) : Host.Outcome State Fault Refusal :=
  floatUnary .f32 6 (fshape .f32 d) a l (fun _ x => (x % 2 ^ (Fmt.width .f32 - 1), 0)) s

/-- FNEG.f32 (R172). -/
def execFnegF32 (d a : Nat) (l : Bool) (s : State) : Host.Outcome State Fault Refusal :=
  floatUnary .f32 6 (fshape .f32 d) a l (fun _ x => ((x % 2 ^ Fmt.width .f32) ^^^ 2 ^ (Fmt.width .f32 - 1), 0)) s

/-- FCLASS.f32 (R172). -/
def execFclassF32 (d a : Nat) (l : Bool) (s : State) : Host.Outcome State Fault Refusal :=
  floatUnary .f32 6 ⟨d, 1⟩ a l (fun _ x => (fclass .f32 x, 0)) s

/-- FRINT.f32 (R174). -/
def execFrintF32 (d a : Nat) (l : Bool) (s : State) : Host.Outcome State Fault Refusal :=
  floatUnary .f32 6 (fshape .f32 d) a l (fun rc x => frint .f32 rc (decodeFloat .f32 x)) s

/-- FSQRT.f32 (R176). -/
def execFsqrtF32 (d a : Nat) (l : Bool) (s : State) : Host.Outcome State Fault Refusal :=
  floatUnary .f32 24 (fshape .f32 d) a l (fun rc x => fsqrt .f32 rc (decodeFloat .f32 x)) s

/-- FRCP.f32 (R176). -/
def execFrcpF32 (d a : Nat) (l : Bool) (s : State) : Host.Outcome State Fault Refusal :=
  floatUnary .f32 12 (fshape .f32 d) a l (fun rc x => frcp .f32 rc (decodeFloat .f32 x)) s

/-- FRSQ.f32 (R176). -/
def execFrsqF32 (d a : Nat) (l : Bool) (s : State) : Host.Outcome State Fault Refusal :=
  floatUnary .f32 12 (fshape .f32 d) a l (fun rc x => frsq .f32 rc (decodeFloat .f32 x)) s

/-- FEXP2.f32 (R176). -/
def execFexp2F32 (d a : Nat) (l : Bool) (s : State) : Host.Outcome State Fault Refusal :=
  floatUnary .f32 16 (fshape .f32 d) a l (fun rc x => fexp2 .f32 rc (decodeFloat .f32 x)) s

/-- FLOG2.f32 (R176). -/
def execFlog2F32 (d a : Nat) (l : Bool) (s : State) : Host.Outcome State Fault Refusal :=
  floatUnary .f32 16 (fshape .f32 d) a l (fun rc x => flog2 .f32 rc (decodeFloat .f32 x)) s

/-- FSIN.f32 (R176). -/
def execFsinF32 (d a : Nat) (l : Bool) (s : State) : Host.Outcome State Fault Refusal :=
  floatUnary .f32 16 (fshape .f32 d) a l (fun rc x => ftrig .f32 false rc (decodeFloat .f32 x)) s

/-- FCOS.f32 (R176). -/
def execFcosF32 (d a : Nat) (l : Bool) (s : State) : Host.Outcome State Fault Refusal :=
  floatUnary .f32 16 (fshape .f32 d) a l (fun rc x => ftrig .f32 true rc (decodeFloat .f32 x)) s

/-- FFMA.f32 (R169). -/
def execFfmaF32 (d a : Nat) (l : Bool) (b : Nat) (m : Bool) (c : Nat) (s : State) : Host.Outcome State Fault Refusal :=
  floatFma .f32 6 d a l b m c s

/-- FADD.f64 (R169). -/
def execFaddF64 (d a : Nat) (l : Bool) (b : Nat) (m : Bool) (s : State) : Host.Outcome State Fault Refusal :=
  floatBinary .f64 10 d a l (fshape .f64 b) m (fun rc x y => fadd .f64 rc (decodeFloat .f64 x) (decodeFloat .f64 y)) s

/-- FSUB.f64 (R169). -/
def execFsubF64 (d a : Nat) (l : Bool) (b : Nat) (m : Bool) (s : State) : Host.Outcome State Fault Refusal :=
  floatBinary .f64 10 d a l (fshape .f64 b) m (fun rc x y => fsub .f64 rc (decodeFloat .f64 x) (decodeFloat .f64 y)) s

/-- FMUL.f64 (R169). -/
def execFmulF64 (d a : Nat) (l : Bool) (b : Nat) (m : Bool) (s : State) : Host.Outcome State Fault Refusal :=
  floatBinary .f64 10 d a l (fshape .f64 b) m (fun rc x y => fmul .f64 rc (decodeFloat .f64 x) (decodeFloat .f64 y)) s

/-- FDIV.f64 (R169). -/
def execFdivF64 (d a : Nat) (l : Bool) (b : Nat) (m : Bool) (s : State) : Host.Outcome State Fault Refusal :=
  floatBinary .f64 44 d a l (fshape .f64 b) m (fun rc x y => fdiv .f64 rc (decodeFloat .f64 x) (decodeFloat .f64 y)) s

/-- FMIN.f64 (R171). -/
def execFminF64 (d a : Nat) (l : Bool) (b : Nat) (m : Bool) (s : State) : Host.Outcome State Fault Refusal :=
  floatBinary .f64 10 d a l (fshape .f64 b) m (fun _ x y => fminmax .f64 false x y) s

/-- FMAX.f64 (R171). -/
def execFmaxF64 (d a : Nat) (l : Bool) (b : Nat) (m : Bool) (s : State) : Host.Outcome State Fault Refusal :=
  floatBinary .f64 10 d a l (fshape .f64 b) m (fun _ x y => fminmax .f64 true x y) s

/-- FSCALE.f64 (R173). -/
def execFscaleF64 (d a : Nat) (l : Bool) (b : Nat) (m : Bool) (s : State) : Host.Outcome State Fault Refusal :=
  floatBinary .f64 10 d a l ⟨b, 1⟩ m (fun rc x y => fscale .f64 rc (decodeFloat .f64 x) (sext y 32)) s

/-- FABS.f64 (R172). -/
def execFabsF64 (d a : Nat) (l : Bool) (s : State) : Host.Outcome State Fault Refusal :=
  floatUnary .f64 10 (fshape .f64 d) a l (fun _ x => (x % 2 ^ (Fmt.width .f64 - 1), 0)) s

/-- FNEG.f64 (R172). -/
def execFnegF64 (d a : Nat) (l : Bool) (s : State) : Host.Outcome State Fault Refusal :=
  floatUnary .f64 10 (fshape .f64 d) a l (fun _ x => ((x % 2 ^ Fmt.width .f64) ^^^ 2 ^ (Fmt.width .f64 - 1), 0)) s

/-- FCLASS.f64 (R172). -/
def execFclassF64 (d a : Nat) (l : Bool) (s : State) : Host.Outcome State Fault Refusal :=
  floatUnary .f64 10 ⟨d, 1⟩ a l (fun _ x => (fclass .f64 x, 0)) s

/-- FRINT.f64 (R174). -/
def execFrintF64 (d a : Nat) (l : Bool) (s : State) : Host.Outcome State Fault Refusal :=
  floatUnary .f64 10 (fshape .f64 d) a l (fun rc x => frint .f64 rc (decodeFloat .f64 x)) s

/-- FSQRT.f64 (R176). -/
def execFsqrtF64 (d a : Nat) (l : Bool) (s : State) : Host.Outcome State Fault Refusal :=
  floatUnary .f64 44 (fshape .f64 d) a l (fun rc x => fsqrt .f64 rc (decodeFloat .f64 x)) s

/-- FRCP.f64 (R176). -/
def execFrcpF64 (d a : Nat) (l : Bool) (s : State) : Host.Outcome State Fault Refusal :=
  floatUnary .f64 22 (fshape .f64 d) a l (fun rc x => frcp .f64 rc (decodeFloat .f64 x)) s

/-- FRSQ.f64 (R176). -/
def execFrsqF64 (d a : Nat) (l : Bool) (s : State) : Host.Outcome State Fault Refusal :=
  floatUnary .f64 22 (fshape .f64 d) a l (fun rc x => frsq .f64 rc (decodeFloat .f64 x)) s

/-- FEXP2.f64 (R176). -/
def execFexp2F64 (d a : Nat) (l : Bool) (s : State) : Host.Outcome State Fault Refusal :=
  floatUnary .f64 34 (fshape .f64 d) a l (fun rc x => fexp2 .f64 rc (decodeFloat .f64 x)) s

/-- FLOG2.f64 (R176). -/
def execFlog2F64 (d a : Nat) (l : Bool) (s : State) : Host.Outcome State Fault Refusal :=
  floatUnary .f64 34 (fshape .f64 d) a l (fun rc x => flog2 .f64 rc (decodeFloat .f64 x)) s

/-- FSIN.f64 (R176). -/
def execFsinF64 (d a : Nat) (l : Bool) (s : State) : Host.Outcome State Fault Refusal :=
  floatUnary .f64 34 (fshape .f64 d) a l (fun rc x => ftrig .f64 false rc (decodeFloat .f64 x)) s

/-- FCOS.f64 (R176). -/
def execFcosF64 (d a : Nat) (l : Bool) (s : State) : Host.Outcome State Fault Refusal :=
  floatUnary .f64 34 (fshape .f64 d) a l (fun rc x => ftrig .f64 true rc (decodeFloat .f64 x)) s

/-- FFMA.f64 (R169). -/
def execFfmaF64 (d a : Nat) (l : Bool) (b : Nat) (m : Bool) (c : Nat) (s : State) : Host.Outcome State Fault Refusal :=
  floatFma .f64 10 d a l b m c s

/-- FADD.f16 (R169). -/
def execFaddF16 (d a : Nat) (l : Bool) (b : Nat) (m : Bool) (s : State) : Host.Outcome State Fault Refusal :=
  floatBinary .f16 6 d a l (fshape .f16 b) m (fun rc x y => fadd .f16 rc (decodeFloat .f16 x) (decodeFloat .f16 y)) s

/-- FSUB.f16 (R169). -/
def execFsubF16 (d a : Nat) (l : Bool) (b : Nat) (m : Bool) (s : State) : Host.Outcome State Fault Refusal :=
  floatBinary .f16 6 d a l (fshape .f16 b) m (fun rc x y => fsub .f16 rc (decodeFloat .f16 x) (decodeFloat .f16 y)) s

/-- FMUL.f16 (R169). -/
def execFmulF16 (d a : Nat) (l : Bool) (b : Nat) (m : Bool) (s : State) : Host.Outcome State Fault Refusal :=
  floatBinary .f16 6 d a l (fshape .f16 b) m (fun rc x y => fmul .f16 rc (decodeFloat .f16 x) (decodeFloat .f16 y)) s

/-- FMIN.f16 (R171). -/
def execFminF16 (d a : Nat) (l : Bool) (b : Nat) (m : Bool) (s : State) : Host.Outcome State Fault Refusal :=
  floatBinary .f16 6 d a l (fshape .f16 b) m (fun _ x y => fminmax .f16 false x y) s

/-- FMAX.f16 (R171). -/
def execFmaxF16 (d a : Nat) (l : Bool) (b : Nat) (m : Bool) (s : State) : Host.Outcome State Fault Refusal :=
  floatBinary .f16 6 d a l (fshape .f16 b) m (fun _ x y => fminmax .f16 true x y) s

/-- FSCALE.f16 (R173). -/
def execFscaleF16 (d a : Nat) (l : Bool) (b : Nat) (m : Bool) (s : State) : Host.Outcome State Fault Refusal :=
  floatBinary .f16 6 d a l ⟨b, 1⟩ m (fun rc x y => fscale .f16 rc (decodeFloat .f16 x) (sext y 32)) s

/-- FABS.f16 (R172). -/
def execFabsF16 (d a : Nat) (l : Bool) (s : State) : Host.Outcome State Fault Refusal :=
  floatUnary .f16 6 (fshape .f16 d) a l (fun _ x => (x % 2 ^ (Fmt.width .f16 - 1), 0)) s

/-- FNEG.f16 (R172). -/
def execFnegF16 (d a : Nat) (l : Bool) (s : State) : Host.Outcome State Fault Refusal :=
  floatUnary .f16 6 (fshape .f16 d) a l (fun _ x => ((x % 2 ^ Fmt.width .f16) ^^^ 2 ^ (Fmt.width .f16 - 1), 0)) s

/-- FCLASS.f16 (R172). -/
def execFclassF16 (d a : Nat) (l : Bool) (s : State) : Host.Outcome State Fault Refusal :=
  floatUnary .f16 6 ⟨d, 1⟩ a l (fun _ x => (fclass .f16 x, 0)) s

/-- FRINT.f16 (R174). -/
def execFrintF16 (d a : Nat) (l : Bool) (s : State) : Host.Outcome State Fault Refusal :=
  floatUnary .f16 6 (fshape .f16 d) a l (fun rc x => frint .f16 rc (decodeFloat .f16 x)) s

/-- FFMA.f16 (R169). -/
def execFfmaF16 (d a : Nat) (l : Bool) (b : Nat) (m : Bool) (c : Nat) (s : State) : Host.Outcome State Fault Refusal :=
  floatFma .f16 6 d a l b m c s

/-- FADD.bf16 (R169). -/
def execFaddBf16 (d a : Nat) (l : Bool) (b : Nat) (m : Bool) (s : State) : Host.Outcome State Fault Refusal :=
  floatBinary .bf16 6 d a l (fshape .bf16 b) m (fun rc x y => fadd .bf16 rc (decodeFloat .bf16 x) (decodeFloat .bf16 y)) s

/-- FSUB.bf16 (R169). -/
def execFsubBf16 (d a : Nat) (l : Bool) (b : Nat) (m : Bool) (s : State) : Host.Outcome State Fault Refusal :=
  floatBinary .bf16 6 d a l (fshape .bf16 b) m (fun rc x y => fsub .bf16 rc (decodeFloat .bf16 x) (decodeFloat .bf16 y)) s

/-- FMUL.bf16 (R169). -/
def execFmulBf16 (d a : Nat) (l : Bool) (b : Nat) (m : Bool) (s : State) : Host.Outcome State Fault Refusal :=
  floatBinary .bf16 6 d a l (fshape .bf16 b) m (fun rc x y => fmul .bf16 rc (decodeFloat .bf16 x) (decodeFloat .bf16 y)) s

/-- FMIN.bf16 (R171). -/
def execFminBf16 (d a : Nat) (l : Bool) (b : Nat) (m : Bool) (s : State) : Host.Outcome State Fault Refusal :=
  floatBinary .bf16 6 d a l (fshape .bf16 b) m (fun _ x y => fminmax .bf16 false x y) s

/-- FMAX.bf16 (R171). -/
def execFmaxBf16 (d a : Nat) (l : Bool) (b : Nat) (m : Bool) (s : State) : Host.Outcome State Fault Refusal :=
  floatBinary .bf16 6 d a l (fshape .bf16 b) m (fun _ x y => fminmax .bf16 true x y) s

/-- FSCALE.bf16 (R173). -/
def execFscaleBf16 (d a : Nat) (l : Bool) (b : Nat) (m : Bool) (s : State) : Host.Outcome State Fault Refusal :=
  floatBinary .bf16 6 d a l ⟨b, 1⟩ m (fun rc x y => fscale .bf16 rc (decodeFloat .bf16 x) (sext y 32)) s

/-- FABS.bf16 (R172). -/
def execFabsBf16 (d a : Nat) (l : Bool) (s : State) : Host.Outcome State Fault Refusal :=
  floatUnary .bf16 6 (fshape .bf16 d) a l (fun _ x => (x % 2 ^ (Fmt.width .bf16 - 1), 0)) s

/-- FNEG.bf16 (R172). -/
def execFnegBf16 (d a : Nat) (l : Bool) (s : State) : Host.Outcome State Fault Refusal :=
  floatUnary .bf16 6 (fshape .bf16 d) a l (fun _ x => ((x % 2 ^ Fmt.width .bf16) ^^^ 2 ^ (Fmt.width .bf16 - 1), 0)) s

/-- FCLASS.bf16 (R172). -/
def execFclassBf16 (d a : Nat) (l : Bool) (s : State) : Host.Outcome State Fault Refusal :=
  floatUnary .bf16 6 ⟨d, 1⟩ a l (fun _ x => (fclass .bf16 x, 0)) s

/-- FRINT.bf16 (R174). -/
def execFrintBf16 (d a : Nat) (l : Bool) (s : State) : Host.Outcome State Fault Refusal :=
  floatUnary .bf16 6 (fshape .bf16 d) a l (fun rc x => frint .bf16 rc (decodeFloat .bf16 x)) s

/-- FFMA.bf16 (R169). -/
def execFfmaBf16 (d a : Nat) (l : Bool) (b : Nat) (m : Bool) (c : Nat) (s : State) : Host.Outcome State Fault Refusal :=
  floatFma .bf16 6 d a l b m c s

end Machine
end Sys2Proof
end

