-- ==== Sys2Proof/Machine/Convert.lean ====
section
/-! DEFINITION. Format slot words (R77 to R79) and CVT (R177 to R182). -/

namespace Sys2Proof
namespace Machine

/-- The fields of a format slot word (R77). -/
structure Slot where
  fa : Nat
  fb : Nat
  fd : Nat
  scl : Nat
  nsp : Nat
  ord : Bool
  sat : Bool
  rm : Nat
  top : Nat
  deriving DecidableEq, Repr

/-- The fields of a slot word (R77). -/
def Slot.ofWord (w : Nat) : Slot :=
  { fa := bits w 0 4, fb := bits w 4 4, fd := bits w 8 4, scl := bits w 12 2, nsp := bits w 14 4, ord := bitAt w 18,
    sat := bitAt w 19, rm := bits w 20 3, top := bits w 23 9 }

/-- Whether a format code is .t8 or .t6 (R78). -/
def taperedCode (c : Nat) : Bool := decide (c = 4) || decide (c = 5)

/-- A slot word is valid (R79). -/
def Slot.valid (x : Slot) : Bool :=
  decide (x.top = 0) && decide (x.fa ≤ 9) && decide (x.fb ≤ 9) && decide (x.fd ≤ 9) && decide (x.scl ≤ 1) && decide (x.nsp ≤ 11)
    && decide (x.rm ≠ 7) && (decide (x.scl = 1) == (taperedCode x.fa || taperedCode x.fb))

/-- The element class of a matrix slot: 0 A64, 1 A32 floating, 2 A32 integer, 3 A32 binary; none outside the rows of R79. -/
def Slot.matrixClass (x : Slot) : Option Nat :=
  if ! x.valid then none
  else if x.fa = 0 ∧ x.fb = 0 then (if x.fd ≤ 1 ∧ x.nsp = 0 ∧ ! x.sat then some 0 else none)
  else if (x.fa = 2 ∨ x.fa = 3) ∧ (x.fb = 2 ∨ x.fb = 3) ∨ taperedCode x.fa ∧ taperedCode x.fb then
    (if 1 ≤ x.fd ∧ x.fd ≤ 5 ∧ ! x.sat then some 1 else none)
  else if (x.fa = 6 ∨ x.fa = 7) ∧ (x.fb = 6 ∨ x.fb = 7) then (if x.fd = 8 ∧ ! x.ord then some 2 else none)
  else if x.fa = 9 ∧ x.fb = 9 then (if x.fd = 8 ∧ ! x.ord ∧ x.nsp = 0 then some 3 else none)
  else none

/-- Slot word i of a grid (R57). -/
def State.slotWord (s : State) (g : GridId) (i : Nat) : Nat :=
  match s.grid? g with
  | some x => (nth x.launch.slots i 0).toNat
  | none => 0

/-- The value of a CVT source in its format (R178, R180). -/
def cvtSource (fa : Fmt) (src scale : Nat) : FVal :=
  if fa.isTapered then decodeTapered fa src scale
  else if fa.isFloat then decodeFloat fa src
  else .ofInt (intOfSource fa src)

/-- CVT's result and flags (R180 to R182): formats, saturation, mode, source bits and E8 scale. -/
def cvt (fa fd : Fmt) (sat : Bool) (mode src scale : Nat) : Nat × Nat :=
  if fa.isFloat && decide (src % 2 ^ fa.width = poisonPattern fa) then (poisonPattern fd, fPSN)
  else
    let x := cvtSource fa src scale
    if fd.isFloat then roundTo fd mode x
    else if fd.isTapered then (if scale = 0xFF then (naR fd, 0) else roundTapered fd scale mode x)
    else
      let (lo, hi) := intRange fd
      if fa.isFloat || fa.isTapered then
        let r := toIntRange mode lo hi x
        (intToReg fd r.1, r.2)
      else
        let v := intOfSource fa src
        if sat then (wrap (clampI v lo hi) 32, 0)
        else (match fd with
          | .i8 => wrap (sext (wrap v 8) 8) 32
          | .n8 => wrap v 8
          | _ => wrap v 32, 0)

/-- CVT (R177 to R182): the slot fixes the formats, the shapes and the default rounding. -/
def execCvt (d a : Nat) (l : Bool) (b : Nat) (m : Bool) (sl : Nat) (s : State) : Host.Outcome State Fault Refusal :=
  let slot (t : Thread) : Slot := Slot.ofWord (s.slotWord t.id.gridId sl)
  let fmtOf (c : Nat) : Fmt := (Fmt.ofCode c).getD .b1
  let tapered (t : Thread) : Bool := taperedCode (slot t).fa || taperedCode (slot t).fd
  let wide (c : Nat) : Nat := if c = 0 then 2 else 1
  issue s (fun t =>
      let x := slot t
      let sa : Src := ⟨a, wide x.fa⟩
      let sd : Src := ⟨d, wide x.fd⟩
      let sb : Src := ⟨b, 1⟩
      { srcs := if tapered t then [sa, sb] else [sa], dests := sd.regs, hints := { rm := 2 },
        kills := killIf l sa ++ (if tapered t then killIf m sb else []),
        flaw := decide (x.fa ≥ 9) || decide (x.fd ≥ 9) || (! tapered t && (decide (b ≠ 0) || m))
          || (decide (x.fa = 0) && decide (a % 2 = 1)) || (decide (x.fd = 0) && decide (d % 2 = 1)) })
    fun x s1 =>
      let sw := slot x.t
      let code := (modRm x.t.latch).getD sw.rm
      let mode := if code = 6 then fpcRounding x.t else code
      let r := cvt (fmtOf sw.fa) (fmtOf sw.fd) sw.sat mode (nth x.vals 0 0) (nth x.vals 1 0 % 256)
      let n := wide sw.fd
      let lat := if sw.fa = 0 ∨ sw.fd = 0 then 10 else 6
      .ok (s1.floatResult x lat mode holdMaskCvt ((List.range n).map (d + ·)) (wordsOf n r.1) r.2)

end Machine
end Sys2Proof
end

