-- ==== Sys2Proof/Machine/Accum.lean ====
section
/-! DEFINITION. Accumulator elements as pure data: the window sum, tree order and chain order, resolve and comparison (R80 to R92, R234),
and the images of elements and of matrix operands (R83, R214 to R217). -/

namespace Sys2Proof
namespace Machine

-- ---------------------------------------------------------------- elements

/-- The element ACZERO leaves (R81). -/
def Elem.zero : Elem := ⟨0, 0, -2048, false, false, false, false, 0⟩

/-- Window width W of a class (R80): `wide` is A64. -/
def winW (wide : Bool) : Nat := if wide then 128 else 64
/-- Window base B (R80). -/
def winB (wide : Bool) : Int := if wide then 96 else 48
/-- Top position T (R80). -/
def winT (wide : Bool) : Int := if wide then 109 else 45

/-- signed_w (R80). -/
def signedW (wide : Bool) (x : Nat) : Int := sext (x % 2 ^ winW wide) (winW wide)

/-- The meta word (R81). -/
def Elem.meta (x : Elem) : Nat :=
  wrap x.e 12 + x.sticky.toNat * 2 ^ 12 + x.poison.toNat * 2 ^ 13 + x.canon.toNat * 2 ^ 14 + x.int.toNat * 2 ^ 15 + x.h % 2 ^ 16 * 2 ^ 16

/-- Bytes of an element's image (R83). -/
def elemSize (wide : Bool) : Nat := if wide then 36 else 20

/-- The image of an element as a little-endian number (R83). -/
def Elem.image (wide : Bool) (x : Elem) : Nat :=
  x.s + x.c * 2 ^ winW wide + x.meta * 2 ^ (2 * winW wide)

/-- The element an image holds (R83). -/
def Elem.ofImage (wide : Bool) (n : Nat) : Elem :=
  let w := winW wide
  let m := bits n (2 * w) 32
  { s := bits n 0 w, c := bits n w w, e := sext (bits m 0 12) 12, sticky := bitAt m 12, poison := bitAt m 13, canon := bitAt m 14,
    int := bitAt m 15, h := bits m 16 16 }

/-- Whether an image is ill-formed (R83). -/
def Elem.illFormed (x : Elem) : Bool :=
  (decide (x.e = -2048) && (decide (4 < x.s) || decide (x.c / 32 ≠ 0)))
    || (x.canon && (decide (x.s % 2 = 0) || decide (x.c / 32 ≠ 0)))
    || (x.int && (decide (x.e ≠ 0) || x.sticky || x.canon))

/-- Whether an element is empty (R82). -/
def Elem.empty (x : Elem) : Bool := decide (x.e = -2048) && decide (x.s = 0)

/-- make_special: the kind goes into S and pending flags into C; P stays (R82, R87, log 8). -/
def Elem.special (x : Elem) (kind flags : Nat) : Elem := ⟨kind, flags % 32, -2048, false, x.poison, false, false, 0⟩

/-- NaN with NV pending, beside the flags already pending. -/
def Elem.invalid (x : Elem) (flags : Nat) : Elem := x.special 3 (flags ||| fNV)

/-- The flags pending in an element: in C of a special or canonical element (R82). -/
def Elem.pending (x : Elem) : Nat := if x.e = -2048 ∨ x.canon then x.c % 32 else 0

/-- msb of R85. -/
def msb (x : Nat) : Int := (Nat.log2 x : Nat)

/-- The sign and magnitude of an integer. -/
def signMag (x : Int) : Bool × Nat := (decide (x < 0), x.natAbs)

/-- A finite value as m × 2^e with a signed m. -/
def finInt (neg : Bool) (m : Nat) : Int := if neg then -(m : Int) else m

/-- floor(m × 2^e) and whether anything was dropped. -/
def floorScaled (m e : Int) : Int × Bool :=
  if 0 ≤ e then (m * 2 ^ e.toNat, false)
  else
    let d : Int := 2 ^ (-e).toNat
    (m / d, decide (m % d ≠ 0))

/-- csa_add of R85. -/
def csaAdd (wide : Bool) (s c a : Nat) : Nat × Nat :=
  (s ^^^ c ^^^ a, ((s &&& c) ||| (s &&& a) ||| (c &&& a)) * 2 % 2 ^ winW wide)

/-- reanchor of R85 against an addend m × 2^e (m = 0 for none). -/
def Elem.reanchor (wide : Bool) (x : Elem) (m e : Int) : Elem :=
  let v := signedW wide (x.s + x.c)
  let t0 := x.e
  let t1 := if v = 0 then t0 else max t0 (msb v.natAbs + x.e - winT wide)
  let t2 := if m = 0 then t1 else max t1 (msb m.natAbs + e - winT wide + winB wide)
  if 2047 < t2 then
    let ve := x.e - winB wide
    let k := min ve e
    let total := v * 2 ^ (ve - k).toNat + m * 2 ^ (e - k).toNat
    x.special (if total < 0 then 2 else 1) (fOF ||| fNX)
  else
    let r := floorScaled v (x.e - t2)
    { x with s := wrap r.1 (winW wide), c := 0, e := t2, h := 0, sticky := x.sticky || r.2 }

/-- add_to_window of R85 on a floating element and a finite addend m × 2^e; the Nat counts reanchor calls (R226). -/
def Elem.addWindow (wide : Bool) (x : Elem) (m e : Int) : Elem × Nat :=
  if x.empty && decide (m = 0) then (x, 0)
  else
    let x := if x.empty then { x with e := max (msb m.natAbs + e - winT wide + winB wide) (-2047) } else x
    let big := decide (m ≠ 0) && decide (winT wide + 1 + x.e - winB wide ≤ msb m.natAbs + e)
    let x := if big then x.reanchor wide m e else x
    let n := big.toNat
    if x.e = -2048 then (x, n)
    else
      let a := floorScaled m (e - (x.e - winB wide))
      let p := csaAdd wide x.s x.c (wrap a.1 (winW wide))
      let x := { x with s := p.1, c := p.2, sticky := x.sticky || a.2 }
      if x.h = 0xFFFF then (x.reanchor wide 0 0, n + 1) else ({ x with h := x.h + 1 }, n)

-- ---------------------------------------------------------------- tree order

/-- A node of the tree: a value and the flags pending with it (R84, R87). -/
abbrev Node := FVal × Nat

/-- A NaN with no sign or payload that matters. -/
def plainNaN : FVal := .nan false 1 1

/-- An exact product with the special rules of R87. -/
def treeProd (x y : FVal) : Node :=
  if x.isNaN || y.isNaN then (plainNaN, if x.isSNaN || y.isSNaN then fNV else 0)
  else match mulVal x y with
    | none => (plainNaN, fNV)
    | some v => (v, 0)

/-- round_to_odd to p significant bits; an exact zero is +0 (R84). -/
def roundOdd (p : Nat) : FVal → FVal
  | .fin neg m e =>
    if m = 0 then .fin false 0 0
    else if m < 2 ^ p then .fin neg m e
    else
      let sh := Nat.log2 m + 1 - p
      .fin neg (if m % 2 ^ sh = 0 then m / 2 ^ sh else m / 2 ^ sh ||| 1) (e + sh)
  | v => v

/-- An inner node (R84, R87). -/
def treeNode (p : Nat) (a b : Node) : Node :=
  let f := a.2 ||| b.2
  if a.1.isNaN || b.1.isNaN then (plainNaN, f)
  else match addVal 0 a.1 b.1 with
    | none => (plainNaN, f ||| fNV)
    | some v => (roundOdd p v, f)

/-- One level of the tree: adjacent pairs (R84). -/
def treeLevel (p : Nat) : List Node → List Node
  | a :: b :: l => treeNode p a b :: treeLevel p l
  | l => l

/-- The tree over 2^n leaves (R84). -/
def treeSum (p : Nat) : Nat → List Node → Node
  | 0, l => l.headD (.fin false 0 0, 0)
  | n + 1, l => treeSum p n (treeLevel p l)

/-- Adds a floating tree output into an element (R85, R87, R92). -/
def Elem.addFloat (wide : Bool) (x : Elem) (t : Node) : Elem × Nat :=
  if x.illFormed then (x.invalid t.2, 0)
  else if x.int then (x.invalid (x.pending ||| t.2), 0)
  else
    -- R92: -0, empty elements with pending flags and canonical elements are emptied, and a canonical value is added again
    let (x, n0) : Elem × Nat :=
      if x.e = -2048 then (if x.s = 4 ∨ (x.s = 0 ∧ x.c ≠ 0) then { Elem.zero with poison := x.poison } else x, 0)
      else if x.canon then ({ Elem.zero with poison := x.poison }).addWindow wide (signedW wide x.s) (x.e - winB wide)
      else (x, 0)
    match t.1 with
    | .fin neg m e =>
      if x.e = -2048 ∧ x.s ≠ 0 then ({ x with c := x.c ||| t.2 }, n0)
      else
        let r := x.addWindow wide (finInt neg m) e
        (r.1, n0 + r.2)
    | .inf neg =>
      let k := if neg then 2 else 1
      if x.e = -2048 ∧ x.s = 3 then ({ x with c := x.c ||| t.2 }, n0)
      else if x.e = -2048 ∧ (x.s = 1 ∨ x.s = 2) ∧ x.s ≠ k then (x.invalid (x.c ||| t.2), n0)
      else (x.special k (x.pending ||| t.2), n0)
    | .nan _ _ _ => (x.special 3 (x.pending ||| t.2), n0)

/-- Adds an exact integer sum into an element (R86, R92, R225). -/
def Elem.addInt (wide : Bool) (x : Elem) (t : Int) : Elem × Nat :=
  if x.illFormed then (x.invalid 0, 0)
  else
    let x := if x.empty then (if x.c ≠ 0 then { Elem.zero with poison := x.poison, int := true, e := 0 } else { x with int := true, e := 0 }) else x
    if ! x.int then (x.invalid x.pending, 0)
    else
      let p := csaAdd wide x.s x.c (wrap t (winW wide))
      if x.h = 0xFFFF then ({ x with s := (p.1 + p.2) % 2 ^ winW wide, c := 0, h := 0 }, 1)
      else ({ x with s := p.1, c := p.2, h := x.h + 1 }, 0)

-- ---------------------------------------------------------------- resolve and chain order

/-- The kind of value of a special element (R82). -/
def specialValue : Nat → FVal
  | 0 => .fin false 0 0 | 1 => .inf false | 2 => .inf true | 4 => .fin true 0 0 | _ => plainNaN

/-- convert_exact (R89). -/
def convertExact (fd : Fmt) (mode : Nat) (v : FVal) : Nat × Nat :=
  if fd.isFloat then roundTo fd mode v
  else if fd.isTapered then roundTapered fd 0x7F mode v
  else
    let r := toIntRange mode (-2147483648) 2147483647 v
    (wrap r.1 32, r.2)

/-- resolve_element without its poison test (R89, R92). -/
def Elem.resolveClear (wide : Bool) (fd : Fmt) (sat : Bool) (mode : Nat) (x : Elem) : Nat × Nat :=
  if x.illFormed then
    let r := convertExact fd mode plainNaN
    (r.1, r.2 ||| fNV)
  else if x.e = -2048 then
    let v := if x.s = 0 ∧ mode = 4 then .fin true 0 0 else specialValue x.s
    let r := convertExact fd mode v
    (r.1, r.2 ||| x.c % 32)
  else if x.canon then
    let v := signMag (signedW wide x.s)
    let r := convertExact fd mode (.fin v.1 v.2 (x.e - winB wide))
    (r.1, r.2 ||| x.c % 32)
  else
    let v := signedW wide (x.s + x.c)
    if x.int then (wrap (if sat then clampI v (-2147483648) 2147483647 else v) 32, 0)
    else
      let y := signMag (2 * v + x.sticky.toNat)
      convertExact fd mode (.fin y.1 y.2 (x.e - winB wide - 1))

/-- resolve_element (R89, R90). -/
def Elem.resolve (wide : Bool) (fd : Fmt) (sat : Bool) (mode : Nat) (x : Elem) : Nat × Nat :=
  if x.poison then (poisonPattern fd, fPSN) else x.resolveClear wide fd sat mode

/-- The value a chain step starts from and the flags pending with it (R92). -/
def Elem.chainRead (wide : Bool) (fd : Fmt) (mode : Nat) (x : Elem) : FVal × Nat :=
  if ! x.illFormed && decide (x.e = -2048) then (specialValue x.s, x.c % 32)
  else if ! x.illFormed && x.canon then
    let v := signMag (signedW wide x.s)
    (.fin v.1 v.2 (x.e - winB wide), x.c % 32)
  else
    let r := x.resolveClear wide fd false mode
    (decodeFloat fd r.1, r.2)

/-- Halves a number while it is even: the odd part and the count, by fuel. -/
def oddPart : Nat → Nat → Nat × Nat
  | 0, m => (m, 0)
  | n + 1, m => if m % 2 = 0 ∧ m ≠ 0 then (let r := oddPart n (m / 2); (r.1, r.2 + 1)) else (m, 0)

/-- The element that holds a chain value (R92). -/
def Elem.chainStore (wide : Bool) (x : Elem) (v : FVal) (flags : Nat) : Elem :=
  match v with
  | .fin neg m e =>
    if m = 0 then x.special (if neg then 4 else 0) flags
    else
      let r := oddPart 256 m
      { s := wrap (finInt neg r.1) (winW wide), c := flags % 32, e := e + r.2 + winB wide, sticky := false, poison := x.poison,
        canon := true, int := false, h := 0 }
  | .inf neg => x.special (if neg then 2 else 1) flags
  | .nan _ _ _ => x.special 3 flags

/-- One chain step in FD (R91): a single rounding; a NaN keeps only its kind. -/
def chainStep (fd : Fmt) (mode : Nat) (acc : FVal × Nat) (x y : FVal) : FVal × Nat :=
  let r := ffma fd mode x y acc.1
  let v := decodeFloat fd r.1
  (if v.isNaN then plainNaN else v, acc.2 ||| (r.2 % 32))

/-- The chain steps of an instruction on one element (R91, R92); an integer element takes NaN with NV pending (R87). -/
def Elem.addChain (wide : Bool) (fd : Fmt) (mode : Nat) (x : Elem) (xs ys : List FVal) : Elem × Nat :=
  if ! x.illFormed && x.int then (x.invalid 0, 0)
  else
    let start := x.chainRead wide fd mode
    let r := (xs.zip ys).foldl (fun acc p => chainStep fd mode acc p.1 p.2) start
    (x.chainStore wide r.1 r.2, 0)

-- ---------------------------------------------------------------- comparison

/-- The value of an element for ACCMP; none when it is unordered (R234). -/
def Elem.value (wide : Bool) (x : Elem) : Option FVal :=
  if x.poison || x.illFormed then none
  else if x.e = -2048 then (if x.s = 3 then none else some (specialValue x.s))
  else if x.canon then (let v := signMag (signedW wide x.s); some (.fin v.1 v.2 (x.e - winB wide)))
  else if x.int then (let v := signMag (signedW wide (x.s + x.c)); some (.fin v.1 v.2 0))
  else (let v := signMag (2 * signedW wide (x.s + x.c) + x.sticky.toNat); some (.fin v.1 v.2 (x.e - winB wide - 1)))

/-- ACCMP's code (R234). -/
def elemCompare (wide : Bool) (x y : Elem) : Nat :=
  match x.value wide, y.value wide with
  | some a, some b =>
    if x.int ≠ y.int ∧ ! x.empty ∧ ! y.empty then 3
    else
      let c := cmpVal a b
      if c = 0 then 0 else if c < 0 then 1 else 2
  | _, _ => 3

-- ---------------------------------------------------------------- operand images

/-- Bits of an operand element (R214). -/
def opBits : Fmt → Nat
  | .bf16 | .f16 => 16 | .t6 => 6 | .b1 => 1 | .f64 => 64 | _ => 8

/-- K of MMA, MMAC and MMAB (R214). -/
def opK : Fmt → Nat
  | .bf16 | .f16 => 16 | .b1 => 256 | .f64 => 4 | _ => 32

/-- Groups of twelve per row (R214). -/
def opG : Fmt → Nat
  | .bf16 | .f16 => 4 | _ => 8

/-- The reduction extent (R214, R225). -/
def extent (sparse : Bool) (f : Fmt) : Nat := if sparse then 12 * opG f else opK f

/-- log2 of the tree width (R214). -/
def treeDepth (sparse : Bool) (f : Fmt) : Nat :=
  match f with
  | .bf16 | .f16 => if sparse then 6 else 4
  | .f64 => 2
  | .b1 => 8
  | _ => if sparse then 7 else 5

/-- Stored elements of a row or column (R216). -/
def stored (sparseA : Bool) (nsp : Nat) (sparse : Bool) (f : Fmt) : Nat := if sparseA then nsp * opG f else extent sparse f

/-- Bytes of the element plane of an image of `rows` rows (R216). -/
def planeBytes (rows n : Nat) (f : Fmt) : Nat := rows * n * opBits f / 8

/-- Size of an A share (`rows` 32) or a B quarter (`rows` 8) (R216). -/
def imageSize (isA sparse : Bool) (nsp : Nat) (f : Fmt) : Nat :=
  let rows := if isA then 32 else 8
  planeBytes rows (stored (isA && sparse) nsp sparse f) f
    + (if isA && sparse then rows * opG f * 2 else 0)
    + (if f.isTapered then rows * (if sparse then 3 else 1) else 0)

/-- Bytes with their poison marks: the data as a little-endian number, and a bit per byte. -/
structure Image where
  data : Nat
  marks : Nat
  deriving DecidableEq, Repr

/-- Whether any byte of n bits at a bit offset is marked. -/
def Image.marked (m : Image) (bit n : Nat) : Bool := decide (bits m.marks (bit / 8) ((bit % 8 + n + 7) / 8) ≠ 0)

/-- An operand row or column: its values in logical position and whether each position is stored, whether any of its elements is poisoned, and
whether its mask is malformed (R217, R228). -/
structure OpRow where
  vals : List FVal
  held : List Bool
  ints : List Int
  poison : Bool
  dead : Bool
  deriving DecidableEq, Repr

/-- An element's exact value (R69, R225). -/
def opValue (f : Fmt) (code scale : Nat) : FVal :=
  if f.isTapered then decodeTapered f code scale
  else if f.isFloat then decodeFloat f code
  else .fin false 0 0

/-- An integer operand element. -/
def opInt (f : Fmt) (code : Nat) : Int :=
  match f with
  | .i8 => sext code 8
  | _ => (code : Nat)

/-- Whether an element's bits are the pattern of R90 (R228). -/
def opPattern (f : Fmt) (code : Nat) : Bool := f.isFloat && decide (code = poisonPattern f)

/-- The logical positions of the stored elements of row r of a sparse share; none when a mask is malformed (R217). -/
def maskPositions (m : Image) (f : Fmt) (nsp r : Nat) : Option (List Nat) :=
  let base := planeBytes 32 (nsp * opG f) f + r * opG f * 2
  (List.range (opG f)).foldl (fun acc g => match acc with
    | none => none
    | some l =>
      let w := bits m.data (8 * (base + 2 * g)) 16
      if w / 2 ^ 12 ≠ 0 ∨ popcount 12 w ≠ nsp then none else some (l ++ (onesFrom 12 (12 * g) w))) (some [])

/-- Row or column r of an image (R216, R217, R228). -/
def opRow (isA sparse : Bool) (nsp : Nat) (f : Fmt) (m : Image) (r : Nat) : OpRow :=
  let rows := if isA then 32 else 8
  let spA := isA && sparse
  let n := stored spA nsp sparse f
  let b := opBits f
  let kl := extent sparse f
  let scaleAt := planeBytes rows n f + (if spA then rows * opG f * 2 else 0)
  let scaleByte (pos : Nat) : Nat := if sparse then scaleAt + 3 * r + pos / 32 else scaleAt + r
  let scale (pos : Nat) : Nat := if f.isTapered then bits m.data (8 * scaleByte pos) 8 else 0
  let scaleBad (pos : Nat) : Bool := f.isTapered && bitAt m.marks (scaleByte pos)
  let positions : Option (List Nat) := if spA then maskPositions m f nsp r else some (List.range n)
  match positions with
  | none => ⟨List.replicate kl (.fin false 0 0), List.replicate kl false, List.replicate kl 0, true, true⟩
  | some ps =>
    let bitAtK (k : Nat) : Nat := (r * n + k) * b
    let code (k : Nat) : Nat := bits m.data (bitAtK k) b
    let at? (pos : Nat) : Option Nat := let k := ps.findIdx fun x => decide (x = pos)
      if k < ps.length then some k else none
    { vals := (List.range kl).map fun pos => match at? pos with
        | some k => opValue f (code k) (scale pos)
        | none => .fin false 0 0
      held := (List.range kl).map fun pos => (at? pos).isSome
      ints := (List.range kl).map fun pos => match at? pos with
        | some k => opInt f (code k)
        | none => 0
      poison := ps.zipIdx.any fun p => m.marked (bitAtK p.2) b || opPattern f (code p.2) || scaleBad p.1
      dead := false }

/-- Pads a list of nodes with zero leaves up to a width (R225). -/
def padLeaves (n : Nat) (l : List Node) : List Node := l ++ List.replicate (n - l.length) (.fin false 0 0, 0)

/-- The leaves of the tree (R84, R225): the products, and +0 at a position that a sparse operand omits, whatever the other operand holds there
(R217; DEDUCED, log 20). -/
def rowLeaves (a b : OpRow) : List Node :=
  ((a.vals.zip b.vals).zip a.held).map fun p => if p.2 then treeProd p.1.1 p.1.2 else (.fin false 0 0, 0)

/-- The work of one matrix instruction on one element (R225, R228): kind 0 MMA, 1 MMAS, 2 MMAB.xor, 3 MMAB.and, 4 MMAC. -/
def elemWork (kind : Nat) (wide : Bool) (fa fd : Fmt) (mode : Nat) (x : Elem) (a b : OpRow) : Elem × Nat :=
  let x := { x with poison := x.poison || a.poison || b.poison }
  let sparse := decide (kind = 1)
  if fa = .i8 ∨ fa = .n8 ∨ fa = .b1 then
    let op (p : Int × Int) : Int := match kind with
      | 2 => ((p.1.toNat ^^^ p.2.toNat : Nat) : Int)
      | 3 => ((p.1.toNat &&& p.2.toNat : Nat) : Int)
      | _ => p.1 * p.2
    x.addInt wide (if a.dead then 0 else ((a.ints.zip b.ints).map op).foldl (· + ·) 0)
  else if kind = 4 then x.addChain wide fd mode a.vals b.vals
  else
    x.addFloat wide (treeSum (if wide then 66 else 34) (treeDepth sparse fa) (padLeaves (2 ^ treeDepth sparse fa) (rowLeaves a b)))

end Machine
end Sys2Proof
end

