-- ==== Sys2Proof/Machine/Matrix.lean ====
section
/-! DEFINITION. The engine order of a team and its matrix instructions: classes and source words (R215, R221), firing (R222, R223), claims
(R219), start (R224, R225) and retirement (R226). -/

namespace Sys2Proof
namespace Machine

-- ---------------------------------------------------------------- words and classes

/-- Fields of a matrix word (R220): KIND, TILE, CN, SLOT. -/
def mxKind (w : Word) : Nat := bits w.toNat 0 3
/-- TILE. -/
def mxTile (w : Word) : Nat := bits w.toNat 3 3
/-- CN. -/
def mxSet (w : Word) : Nat := bits w.toNat 6 4
/-- SLOT. -/
def mxSlot (w : Word) : Nat := bits w.toNat 10 3

/-- The team partitions NP (R211). -/
def Team.np (t : Team) : Nat := if t.spanning then 8 else 4

/-- The launch record of a team's grid. -/
def State.launchOf (s : State) (g : GridId) : Option LaunchRec := (s.grid? g).map (·.launch)

/-- Whether a tile is A64 (R210). -/
def State.tileWide (s : State) (g : GridId) (tile : Nat) : Bool :=
  match s.launchOf g with
  | some l => decide (tile < l.acn64)
  | none => false

/-- Whether a team was placed for a reorder batch (R355). -/
def relaunched (t : TeamId) : Bool := decide (2 ^ 31 ≤ t.team)

/-- Whether a tile lies beyond those of a team (R112 step 3): those of its record, and none for a relaunched team (R355). -/
def State.tileOutside (s : State) (t : TeamId) (tile : Nat) : Bool :=
  match s.launchOf t.gridId with
  | some l => relaunched t || decide (l.acn64 + l.acn32 ≤ tile)
  | none => true

/-- Whether a slot serves a matrix kind (R110, R220). -/
def slotServes (kind : Nat) (x : Slot) : Bool :=
  x.matrixClass.isSome && (match kind with
    | 0 => decide (x.nsp = 0) && ! x.ord && decide (x.fa ≠ 9)
    | 1 => decide (1 ≤ x.nsp) && ! x.ord && decide (x.fa ≠ 9)
    | 2 => decide (x.fa = 9)
    | 3 => decide (x.fa = 9)
    | 4 => x.ord && decide (x.nsp = 0) && (if x.fa = 0 then decide (x.fd = 0) else decide (1 ≤ x.fd ∧ x.fd ≤ 3))
    | _ => false)

/-- The format of a code, .b1 beyond the codes. -/
def fmtOf (c : Nat) : Fmt := (Fmt.ofCode c).getD .b1

/-- A source word names a queue (R215). -/
def srcQueue (w : Nat) : Bool := decide (bits w 30 2 = 0)

/-- Whether a source word is well formed (R215). -/
def srcOk (w : Nat) : Bool :=
  decide (bits w 20 10 = 0) &&
    (match bits w 30 2 with
     | 0 => decide (bits w 3 17 = 0)
     | 1 => decide (bits w 0 6 = 0)
     | _ => false)

/-- Bytes of one A share or B quarter under a slot and kind (R216). -/
def pieceSize (isA : Bool) (kind : Nat) (x : Slot) : Nat :=
  imageSize isA (decide (kind = 1)) x.nsp (fmtOf (if isA then x.fa else x.fb))

/-- Queue slots of an operand: its pieces, each in whole slots (R219). -/
def operandSlots (isA : Bool) (np kind : Nat) (x : Slot) : Nat := (if isA then np else 4) * ceilDiv (pieceSize isA kind x) 256

/-- Bytes of the region a scratchpad operand spans (R218). -/
def operandSpan (isA : Bool) (np kind : Nat) (x : Slot) : Nat :=
  ((if isA then np else 4) - 1) * roundUp (pieceSize isA kind x) 64 + pieceSize isA kind x

/-- Whether a scratchpad operand reaches beyond the region (R221). -/
def operandBeyond (isA : Bool) (np scr kind : Nat) (x : Slot) (w : Nat) : Bool :=
  ! srcQueue w && decide (scr * 4096 < bits w 0 20 + operandSpan isA np kind x)

-- ---------------------------------------------------------------- deposits and firing

/-- The issue record of a deposit (R137, R201). -/
def State.depositOp (s : State) (t : TeamId) (rank : Nat) (d : Deposit) : Op :=
  let id : ThreadId := ⟨t.ctx, t.grid, t.team, rank⟩
  let role := match s.thread? id with
    | some x => x.role
    | none => 0
  { id := s.nextId, thr := id, role := role, core := s.coreOf id, part := 0, pos := d.pos, pc := d.pc, word := d.word,
    latch := d.latch, opnd := [d.a, d.b], issued := d.issued, due := none, dests := d.dests, vals := [], flags := 0, en := d.en,
    rc := d.rc, late := true, holds := false, image := none, body := .collective false, stage := .issued, cls := none }

/-- Whether a deposit is of the matrix family (R222). -/
def Deposit.isMatrix (d : Deposit) : Bool :=
  match d.kind with
  | .matrix _ _ _ => true
  | _ => false

/-- A member's deposit is of the matrix family. -/
def Member.isMatrix (m : Member) : Bool :=
  match m.dep with
  | some d => d.isMatrix
  | none => false

/-- An operation number retires from its thread's counter (R460). -/
def State.retireOf (s : State) (t : ThreadId) (op : Nat) : State := s.updThread t fun x => x.retire op

/-- A participant of the other family: no result, a convergence misuse at its next word, and its k.mx falls (R222). -/
def State.misfit (s : State) (t : TeamId) (m : Member) : State :=
  match m.dep with
  | none => s
  | some d =>
    let s := if d.isMatrix then s.retireOf ⟨t.ctx, t.grid, t.team, m.rank⟩ d.op else s
    s.raiseLate (s.depositOp t m.rank d) clsConverge 0 0 0 0

/-- The queue slots an executed deposit claims (R219): A first. -/
def claimsOf (np : Nat) (x : Slot) (word : Word) (a b : Nat) : List (Nat × Nat) :=
  (if srcQueue a then [(bits a 0 3, operandSlots true np (mxKind word) x)] else [])
    ++ (if srcQueue b then [(bits b 0 3, operandSlots false np (mxKind word) x)] else [])

/-- Changes one queue of a team. -/
def Team.updQueue (t : Team) (q : Nat) (f : OpQueue → OpQueue) : Team :=
  { t with queues := t.queues.zipIdx.map fun p => if p.2 = q then f p.1 else p.1 }

/-- Adds claims to a team's queues (R210, R219). -/
def Team.claim (t : Team) (l : List (Nat × Nat)) : Team :=
  l.foldl (fun t c => t.updQueue c.1 fun q => { q with claims := q.claims + c.2 }) t

/-- The frozen latency of an entry of an accumulator instruction (R116): ACZERO, ACLD, ACST, ACMOV. -/
def accLatency : Nat → Nat
  | 1 => 4 | 4 => 8 | _ => 48

/-- Whether an entry stands behind a firing of a cycle (R223): an accumulator instruction's issued in it, or the firing in it of a register
with a higher number. -/
def EngineEntry.behind (x : EngineEntry) (now set : Nat) : Bool :=
  if x.kind = 0 then decide (x.due = now) && ! x.started && decide (set < mxSet x.word)
  else decide (x.due = now + accLatency x.kind)

/-- Places the entry of a firing in the order of R223: before those entries of the same cycle that stand behind it, which are last. -/
def placeEntry (now : Nat) (e : EngineEntry) : List EngineEntry → List EngineEntry
  | [] => [e]
  | x :: xs => if x.behind now (mxSet e.word) then e :: x :: xs else x :: placeEntry now e xs

/-- A phase with matrix deposits fires (R222, R223): the lowest participant's deposit enters the engine order for the whole team tile, and
claims its queue slots. `due` holds the firing cycle until the start. -/
def matrixFire (s : State) (t : TeamId) (parts : List Member) : State :=
  let mine := parts.filter Member.isMatrix
  match mine.head?, s.team? t with
  | some m0, some tm =>
    (match m0.dep with
     | none => s
     | some d =>
       let x := Slot.ofWord (s.slotWord ⟨t.ctx, t.grid⟩ (mxSlot d.word))
       let claims := claimsOf tm.np x d.word d.a d.b
       let e : EngineEntry :=
         { id := s.nextId, kind := 0, word := d.word, tile := mxTile d.word, tile2 := mxTile d.word, a := d.a, b := d.b, rc := d.rc,
           en := d.en, thr := ⟨t.ctx, t.grid, t.team, m0.rank⟩, pos := d.pos, site := 0,
           members := mine.filterMap fun m => m.dep.map fun d => (⟨t.ctx, t.grid, t.team, m.rank⟩, d.op),
           claims := claims, started := false, due := s.now tm.core }
       let s := ({ s with nextId := s.nextId + 1 }).updTeam t fun tm =>
         { tm.claim claims with engine := placeEntry (s.now tm.core) e tm.engine }
       (parts.filter fun m => ! m.isMatrix).foldl (fun s m => s.misfit t m) s)
  | _, _ => s

-- ---------------------------------------------------------------- queues as sources

/-- Slot numbers of a queue from the tail on that are not Empty, the oldest first (R315). -/
def OpQueue.order (q : OpQueue) : List Nat :=
  ((List.range 16).map fun i => (q.tail.toNat + i) % 16).filter fun i =>
    match q.slots[i]? with
    | some x => decide (x.st ≠ .empty)
    | none => false

/-- A slot of a queue. -/
def OpQueue.slot (q : OpQueue) (i : Nat) : QSlot := nth q.slots i ⟨.empty, .slice, 0, false, 0⟩

/-- A queue of a team. -/
def Team.queue (t : Team) (q : Nat) : OpQueue := nth t.queues q ⟨[], 0, 0, 16, 0⟩

/-- The front of a queue: the oldest slot neither Empty nor claimed (R315). -/
def OpQueue.front (q : OpQueue) : Option Nat := (q.order.drop q.claims).head?

/-- Empties a slot (R313, R315): it can be reserved from the next cycle. -/
def OpQueue.pop (q : OpQueue) (now i : Nat) : OpQueue :=
  { q with slots := q.slots.zipIdx.map fun p => if p.2 = i then { p.1 with st := .empty, freeFrom := now + 1 } else p.1,
           sheld := if (q.slot i).prod = .slice then q.sheld - 1 else q.sheld }

/-- Takes one operand's claimed slots off a queue's front: the slots, or none when they have not all arrived (R224). -/
def OpQueue.takeClaim (q : OpQueue) (skip n : Nat) : Option (List QSlot) :=
  let l := ((q.order.drop skip).take n).map q.slot
  if l.length = n ∧ l.all (fun x => decide (x.st = .ready)) then some l else none

/-- The image in whole queue slots (R219). -/
def slotsImage : List QSlot → Image
  | [] => ⟨0, 0⟩
  | x :: xs =>
    let r := slotsImage xs
    ⟨x.data.toNat + 2 ^ 2048 * r.data, (if x.poison then 2 ^ 256 - 1 else 0) + 2 ^ 256 * r.marks⟩

/-- The images of an operand's pieces from its queue slots. -/
def queueImages (per : Nat) : Nat → List QSlot → List Image
  | 0, _ => []
  | n + 1, l => slotsImage (l.take per) :: queueImages per n (l.drop per)

/-- The image at an offset of the team's scratchpad (R218). -/
def Team.scratchImage (t : Team) (off size : Nat) : Image :=
  { data := memRead t.scratch off size
    marks := (List.range size).foldl (fun m i => if t.poison.contains ((off + i) / 32) then m + 2 ^ i else m) 0 }

/-- Whether every line of n bytes of the region is present (R224, R244). -/
def Team.present (t : Team) (off n : Nat) : Bool :=
  (unitsOf off n 128).all fun l => ! (t.lines.any fun c => decide (c.line = l))

/-- The pieces of one operand: from its claimed slots, or from scratchpad; none when they have not arrived (R218, R219, R224). `skip`
claimed slots of the same queue lie ahead. -/
def Team.operand (t : Team) (isA : Bool) (kind : Nat) (x : Slot) (w skip : Nat) : Option (List Image) :=
  let n := if isA then t.np else 4
  let size := pieceSize isA kind x
  if srcQueue w then
    let per := ceilDiv size 256
    ((t.queue (bits w 0 3)).takeClaim skip (n * per)).map fun l => queueImages per n l
  else
    let off := bits w 0 20
    if t.present off (operandSpan isA t.np kind x) then
      some ((List.range n).map fun i => t.scratchImage (off + i * roundUp size 64) size)
    else none

-- ---------------------------------------------------------------- start

/-- The interval I of R226, with the part's factor for binary64 on the engine's hold (R28). -/
def interval (kind : Nat) (x : Slot) : Nat :=
  match kind with
  | 1 => 4 * max x.nsp 6
  | 4 => if x.fa = 0 then 512 else 128
  | _ => if x.fa = 0 then 64 else 16

/-- The element at a place of a team tile (R210): the ACZERO state unless it is listed. -/
def Team.elem (t : Team) (tile site idx : Nat) : Elem :=
  match t.elems.find? fun p => decide (p.tile = tile) && decide (p.site = site) && decide (p.idx = idx) with
  | some p => p.el
  | none => Elem.zero

/-- Replaces a share's elements, keeping the list in order of tile, site and index, and the ACZERO state unlisted. -/
def Team.setShare (t : Team) (tile site : Nat) (f : Nat → Elem) : Team :=
  let before (p : ElemAt) : Bool := decide (p.tile < tile) || (decide (p.tile = tile) && decide (p.site < site))
  let after (p : ElemAt) : Bool := decide (tile < p.tile) || (decide (p.tile = tile) && decide (site < p.site))
  let new := (List.range 1024).filterMap fun i => let e := f i
    if e = Elem.zero then none else some (⟨tile, site, i, e⟩ : ElemAt)
  { t with elems := t.elems.filter before ++ new ++ t.elems.filter after }

/-- The work of a matrix instruction on one share (R225): its new elements in row-major order and the most reanchor calls. -/
def shareWork (kind : Nat) (wide : Bool) (x : Slot) (mode : Nat) (old : Nat → Elem) (a : Image) (cols : List OpRow) : List (Elem × Nat) :=
  let fa := fmtOf x.fa
  (List.range 32).flatMap fun r =>
    let row := opRow true (decide (kind = 1)) x.nsp fa a r
    cols.zipIdx.map fun p => elemWork kind wide fa (fmtOf x.fd) mode (old (32 * r + p.2)) row p.1

/-- The columns of the B operand in ascending order (R214). -/
def columns (kind : Nat) (x : Slot) (bs : List Image) : List OpRow :=
  bs.flatMap fun b => (List.range 8).map fun j => opRow false (decide (kind = 1)) x.nsp (fmtOf x.fb) b j

/-- Computes a started matrix instruction over the team tile (R225): the new team and A of R226. -/
def Team.matrixWork (t : Team) (wide : Bool) (x : Slot) (e : EngineEntry) (as bs : List Image) : Team × Nat :=
  let kind := mxKind e.word
  let mode := if x.rm = 6 then e.rc else x.rm
  let cols := columns kind x bs
  as.zipIdx.foldl (fun acc p =>
    let work := shareWork kind wide x mode (t.elem e.tile p.2) p.1 cols
    (acc.1.setShare e.tile p.2 (fun i => (nth work i (Elem.zero, 0)).1), work.foldl (fun m w => max m w.2) acc.2)) (t, 0)

/-- Pops the claimed slots of a started instruction (R219). -/
def Team.popClaims (t : Team) (now : Nat) (l : List (Nat × Nat)) : Team :=
  l.foldl (fun t c => t.updQueue c.1 fun q =>
    { (q.order.take c.2).foldl (fun q i => q.pop now i) q with claims := q.claims - c.2 }) t

/-- Whether a result operation of ACRES or ACCMP still reads a tile of a team in some partition (R230). -/
def State.tileRead (s : State) (t : TeamId) (tile : Nat) (site : Option Nat) : Bool :=
  s.ops.any fun o => decide (o.thr.teamId = t) && decide (bits o.word.toNat 26 6 = 0x2D) &&
    (decide (bits o.word.toNat 0 3 = 3) || decide (bits o.word.toNat 0 3 = 4)) &&
    (decide (bits o.word.toNat 3 3 = tile) || (decide (bits o.word.toNat 0 3 = 4) && decide (bits o.word.toNat 6 3 = tile))) &&
    (match site, s.team? t with
     | some k, some tm => decide (siteOf tm.spanning o.thr.rank = k)
     | _, _ => true)

/-- The cores whose engines a team's matrix work holds. -/
def Team.engineCores (t : Team) : List Nat := if t.spanning then [t.core, t.core + 1] else [t.core]

/-- Whether matrix work, of a team's own or of another's, holds an engine of a team's partitions (R224, R226). -/
def State.engineBusy (s : State) (tm : Team) : Bool :=
  s.holds.any fun h => tm.engineCores.contains h.core && decide (s.now tm.core < h.till)

/-- The entries ahead of an entry. -/
def entriesBefore (l : List EngineEntry) (id : Nat) : List EngineEntry := l.takeWhile fun e => decide (e.id ≠ id)

/-- Whether the entries ahead of a matrix instruction let it start (R224): matrix entries have started, and others do not touch its tile. -/
def aheadClear (tile : Nat) (l : List EngineEntry) : Bool :=
  l.all fun e => if e.kind = 0 then e.started else decide (e.tile ≠ tile) && decide (e.tile2 ≠ tile)

/-- Tries to start a fired matrix instruction (R224, R225): it holds the engines of its team for its interval (R226), on PLN-7410 for four times
I with binary64 operands (R28). -/
def State.startMatrix (s : State) (tm : Team) (e : EngineEntry) : State :=
  let now := s.now tm.core
  let x := Slot.ofWord (s.slotWord ⟨tm.id.ctx, tm.id.grid⟩ (mxSlot e.word))
  let kind := mxKind e.word
  let skip := if srcQueue e.a && decide (bits e.a 0 3 = bits e.b 0 3) then operandSlots true tm.np kind x else 0
  if ! aheadClear e.tile (entriesBefore tm.engine e.id) || s.engineBusy tm || s.tileRead tm.id e.tile none then s
  else match tm.operand true kind x e.a 0, tm.operand false kind x e.b skip with
    | some as, some bs =>
      let w := tm.matrixWork (s.tileWide ⟨tm.id.ctx, tm.id.grid⟩ e.tile) x e as bs
      let i := interval kind x
      let hold := (if x.fa = 0 ∧ s.slowF64 then 4 * i else i) + 4 * w.2
      let tm' := w.1.popClaims now e.claims
      let s1 : State := { s with holds := s.holds ++ tm.engineCores.map fun c => EngineHold.mk c (now + hold) }
      s1.updTeam tm.id fun _ =>
        { tm' with engine := tm'.engine.map fun y => if y.id = e.id then { y with started := true, due := now + i + 16 + 4 * w.2 } else y }
    | _, _ => s

/-- MATRIX_START (R224): the oldest fired matrix instruction of a team that has not started starts, when the engine, its operands and the
earlier entries allow. -/
def execMatrixStart (s : State) : Host.Outcome State Fault Refusal :=
  let team := s.argTeam 0
  match s.team? team with
  | none => .next s
  | some tm => match tm.engine.find? fun e => decide (e.kind = 0) && ! e.started with
    | none => .next s
    | some e => .next (s.startMatrix tm e)

/-- MATRIX_RETIRE (R226): the oldest started matrix instruction of a team retires at its time and leaves k.mx of every participant. -/
def execMatrixRetire (s : State) : Host.Outcome State Fault Refusal :=
  let team := s.argTeam 0
  match s.team? team with
  | none => .next s
  | some tm => match tm.engine.find? fun e => decide (e.kind = 0) && e.started with
    | none => .next s
    | some e =>
      if e.due ≤ s.now tm.core then
        let s := e.members.foldl (fun s m => s.retireOf m.1 m.2) s
        .next (s.updTeam team fun t => { t with engine := t.engine.filter fun y => decide (y.id ≠ e.id) })
      else .next s

end Machine
end Sys2Proof
end

