-- ==== Sys2Proof/Machine/Pred.lean ====
section
/-! DEFINITION. Comparisons and predicate logic (R157 to R159). -/

namespace Sys2Proof
namespace Machine

/-- write_pred of R114: the new value combined with the old by CMB. -/
def combine (cmb : Nat) (old v : Bool) : Bool :=
  match cmb with
  | 0 => v | 1 => old && v | 2 => old || v | _ => old != v

/-- A floating comparison (R157): the outcome and the flags it raises. -/
def cmpFloat (f : Fmt) (cond xa xb : Nat) : Bool × Nat :=
  let a := decodeFloat f xa
  let b := decodeFloat f xb
  let nan := a.isNaN || b.isNaN
  let sig := a.isSNaN || b.isSNaN
  let c := cmpVal a b
  let v : Bool := match cond with
    | 0 => ! nan && decide (c = 0) | 1 => nan || decide (c ≠ 0) | 2 => ! nan && decide (c < 0) | 3 => ! nan && decide (c ≤ 0)
    | 4 => ! nan && decide (c > 0) | 5 => ! nan && decide (c ≥ 0) | 6 => ! nan | _ => nan
  let ordered := decide (2 ≤ cond) && decide (cond ≤ 5)
  (v, if (if ordered then nan else sig) then fNV else 0)

/-- A comparison by type code (R108, R157). -/
def compareBy (ty cond xa xb : Nat) : Bool × Nat :=
  match ty with
  | 0 => (relInt cond (sext xa 32) (sext xb 32), 0)
  | 1 => (relInt cond (xa : Int) xb, 0)
  | 2 => (relInt cond (sext xa 64) (sext xb 64), 0)
  | 3 => (relInt cond (xa : Int) xb, 0)
  | 4 => cmpFloat .f32 cond xa xb
  | 5 => cmpFloat .f64 cond xa xb
  | 6 => cmpFloat .f16 cond xa xb
  | _ => cmpFloat .bf16 cond xa xb

/-- A word that combines waits for every older write to its predicate (R159). -/
def State.combineWaits (s : State) (t : Thread) (cmb p : Nat) : Bool := decide (cmb ≠ 0) && s.olderWrite t (64 + p)

/-- CMP (R157): p destination, c CMB, o condition, t type. -/
def execCmp (p c a : Nat) (l : Bool) (b : Nat) (m : Bool) (o t : Nat) (s : State) : Host.Outcome State Fault Refusal :=
  let n := if t = 2 ∨ t = 3 ∨ t = 5 then 2 else 1
  issue s (fun t0 => { srcs := [⟨a, n⟩, ⟨b, n⟩], dests := [64 + p], preds := if c = 0 then [] else [p],
                       kills := killIf l ⟨a, n⟩ ++ killIf m ⟨b, n⟩, hints := { live := false },
                       wait := s.combineWaits t0 c p })
    fun x s1 =>
      let r := compareBy t o (nth x.vals 0 0) (nth x.vals 1 0)
      let v := (combine c (x.t.pred p) r.1).toNat
      if t < 4 then .ok (s1.result x 4 [64 + p] [v])
      else .ok (s1.floatResult x 4 (roundingCode x.t) holdMask [64 + p] [v] r.2)

/-- A word of major 0x21 (R158). -/
def predWord (p c a b : Nat) (f : Bool → Bool → Bool) (s : State) : Host.Outcome State Fault Refusal :=
  issue s (fun t => { dests := [64 + p], preds := [a, b] ++ (if c = 0 then [] else [p]), wait := s.combineWaits t c p })
    fun x s1 => .ok (s1.result x 4 [64 + p] [(combine c (x.t.pred p) (f (x.t.pred a) (x.t.pred b))).toNat])

/-- PAND (R158). -/
def execPand (p c a b : Nat) (s : State) : Host.Outcome State Fault Refusal := predWord p c a b (fun x y => x && y) s

/-- POR (R158). -/
def execPor (p c a b : Nat) (s : State) : Host.Outcome State Fault Refusal := predWord p c a b (fun x y => x || y) s

/-- PXOR (R158). -/
def execPxor (p c a b : Nat) (s : State) : Host.Outcome State Fault Refusal := predWord p c a b (fun x y => x != y) s

/-- PNOT (R158). -/
def execPnot (p c a : Nat) (s : State) : Host.Outcome State Fault Refusal := predWord p c a 12 (fun x _ => ! x) s

/-- PMOV (R158). -/
def execPmov (p c a : Nat) (s : State) : Host.Outcome State Fault Refusal := predWord p c a 12 (fun x _ => x) s

end Machine
end Sys2Proof
end

