-- ==== Sys2Proof/Machine/Converge.lean ====
section
/-! DEFINITION. Convergence sets and collectives (R184, R195 to R206): declaration, signature, withdrawal, the firing of a phase as
one event, and what each collective computes over the participants in ascending rank. -/

namespace Sys2Proof
namespace Machine

/-- The ranks of a range or of a mask over base, ascending (R184). -/
def rangeRanks (lo hi : Nat) : List Nat := (List.range (hi + 1 - lo)).map (lo + ·)

/-- The ranks a 64-bit mask over base names (R184). -/
def maskRanks (base mask : Nat) : List Nat := onesFrom 64 base mask

/-- The convergence register n of a team. -/
def Team.cr (t : Team) (n : Nat) : ConvReg := nth t.crs n ⟨.free, 0, 0, 0, 0, 0, []⟩

/-- A convergence register that is Free, keeping its PHASE (R196). -/
def ConvReg.freed (c : ConvReg) : ConvReg := { c with kind := .free, members := [] }

/-- The status of a rank in a set; none when it is no member. -/
def ConvReg.status (c : ConvReg) (rank : Nat) : Option MStatus :=
  (c.members.find? fun m => decide (m.rank = rank)).map (·.st)

/-- The deposit a rank holds in a set. -/
def ConvReg.deposit (c : ConvReg) (rank : Nat) : Option Deposit :=
  match c.members.find? fun m => decide (m.rank = rank) with
  | some m => m.dep
  | none => none

/-- Changes one member. -/
def ConvReg.upd (c : ConvReg) (rank : Nat) (f : Member → Member) : ConvReg :=
  { c with members := c.members.map fun m => if m.rank = rank then f m else m }

/-- Sets convergence register n of a team. -/
def State.setCr (s : State) (t : TeamId) (n : Nat) (c : ConvReg) : State := s.updTeam t fun x => { x with crs := x.crs.set n c }

/-- Identity of a reduction (R203). -/
def redIdentity (op : Nat) : Nat :=
  nth [0, 0x7FFFFFFF, 0x80000000, 0xFFFFFFFF, 0, 0xFFFFFFFF, 0, 0, 0x80000000, 0x7FC00000, 0x7FC00000, 0x8000000000000000,
    0x7FF8000000000000, 0x7FF8000000000000] op 0

/-- One step of a fold, acc := op(acc, x), with its flags (R205). -/
def redStep (op mode acc x : Nat) : Nat × Nat :=
  match op with
  | 0 => ((acc + x) % 2 ^ 32, 0)
  | 1 => (minMax 32 true false acc x, 0)
  | 2 => (minMax 32 true true acc x, 0)
  | 3 => (minMax 32 false false acc x, 0)
  | 4 => (minMax 32 false true acc x, 0)
  | 5 => (acc &&& x, 0)
  | 6 => (acc ||| x, 0)
  | 7 => (acc ^^^ x, 0)
  | 8 => fadd .f32 mode (decodeFloat .f32 acc) (decodeFloat .f32 x)
  | 9 => fminmax .f32 false acc x
  | 10 => fminmax .f32 true acc x
  | 11 => fadd .f64 mode (decodeFloat .f64 acc) (decodeFloat .f64 x)
  | 12 => fminmax .f64 false acc x
  | _ => fminmax .f64 true acc x

/-- The fold of deposits from the left with the flags of its steps (R205). -/
def foldSteps (op mode : Nat) : Nat → Nat → List Nat → Nat × Nat
  | acc, f, [] => (acc, f)
  | acc, f, x :: xs => let r := redStep op mode acc x
    foldSteps op mode r.1 (f ||| r.2) xs

/-- The fold of a non-empty list. -/
def foldRed (op mode : Nat) : List Nat → Nat × Nat
  | [] => (redIdentity op, 0)
  | x :: xs => foldSteps op mode x 0 xs

/-- Width in bits of a reduction's operands (R203). -/
def redWidth (op : Nat) : Nat := if op ≥ 11 then 64 else 32

/-- Width in bits of a collective's operands (R201 to R204). -/
def CollKind.width : CollKind → Nat
  | .shuffle _ => 32
  | .bcast _ pair => if pair then 64 else 32
  | .red op => redWidth op
  | .scan _ op => redWidth op
  | .vote _ => 1
  | .matrix _ _ _ => 64

/-- Latency of a collective, counted from the firing (R116, R117). -/
def CollKind.latency : CollKind → Nat
  | .shuffle _ => 12
  | .bcast _ _ => 12
  | .red op => if op ≥ 11 then 28 else 20
  | .scan _ op => if op ≥ 11 then 28 else 20
  | .vote _ => 8
  | .matrix _ _ _ => 0

/-- The position of a rank in a set's membership (R184). -/
def posIn (ranks : List Nat) (r : Nat) : Nat := ranks.findIdx fun x => decide (x = r)

/-- The result of one participant (rank r, its deposit d) under the phase's operation, over all participants in ascending rank
(R201 to R205); `ranks` is the membership. -/
def collResult (k : CollKind) (ranks : List Nat) (parts : List (Nat × Deposit)) (r : Nat) (d : Deposit) : Nat × Nat :=
  let val (x : Deposit) : Nat := x.a % 2 ^ k.width
  let all := parts.map fun p => val p.2
  match k with
  | .shuffle mode =>
    let pos : Int := posIn ranks r
    let b : Int := (d.b % 2 ^ 14 : Nat)
    let src : Int := match mode with
      | 0 => b | 1 => pos - b | 2 => pos + b | _ => ((posIn ranks r) ^^^ (d.b % 2 ^ 14) : Nat)
    if src < 0 ∨ (ranks.length : Int) ≤ src then (val d, 0)
    else match parts.find? fun p => decide (p.1 = nth ranks src.toNat 0) with
      | some p => (val p.2, 0)
      | none => (val d, 0)
  | .bcast hi _ => ((if hi then all.getLast?.getD 0 else all.head?.getD 0), 0)
  | .red op => foldRed op d.rc all
  | .scan excl op =>
    let i := parts.findIdx fun p => decide (p.1 = r)
    if excl then (if i = 0 then (redIdentity op, 0) else foldRed op d.rc (all.take i)) else foldRed op d.rc (all.take (i + 1))
  | .vote op =>
    let trues := (parts.filter fun p => decide (val p.2 = 1)).map fun p => p.1
    match op with
    | 0 => ((if trues.length = parts.length then 1 else 0), 0)
    | 1 => ((if trues.length = 0 then 0 else 1), 0)
    | 2 => (trues.length, 0)
    | _ =>
      let base := 64 * (posIn ranks r / 64)
      (((trues.map (posIn ranks)).filter fun p => decide (base ≤ p) && decide (p < base + 64)).foldl (fun x p => x + 2 ^ (p - base)) 0, 0)
  | .matrix _ _ _ => (0, 0)

/-- Whether the operation of a phase can raise a floating-point flag (R166, R203). -/
def CollKind.raises : CollKind → Bool
  | .red op | .scan _ op => decide (8 ≤ op)
  | _ => false

/-- The operation that carries a participant's result to its registers under the phase's operation (R129, R201, R206). The odd register of a pair receives 0 when the
phase's operation is 32 bits wide: the result zero-extended (DESIGN CHOICE, log 24; R201 says only what a single register receives). -/
def State.collOp (s : State) (t : TeamId) (now : Nat) (k : CollKind) (rank : Nat) (d : Deposit) (r : Nat × Nat) : State :=
  s.addOp { s.depositOp t rank d with
    due := some (now + k.latency), vals := wordsOf d.dests.length r.1, flags := r.2, body := .collective k.raises }

/-- Computes a fired phase over its participants and starts their result writes (R201), or puts its matrix instruction into the engine
order; a participant of the other family has no result (R222). -/
def State.collect (s : State) (t : TeamId) (now : Nat) (ranks : List Nat) (members : List Member) : State :=
  let parts := members.filter fun m => match m.dep with
    | some d => d.signed
    | none => false
  match parts.head? with
  | none => s
  | some m0 => match m0.dep with
    | none => s
    | some d0 => match d0.kind with
      | .matrix _ _ _ => matrixFire s t parts
      | k =>
        let ps := (parts.filter fun m => ! m.isMatrix).filterMap fun m => m.dep.map fun d => (m.rank, d)
        let s := ps.foldl (fun s p => s.collOp t now k p.1 p.2 (collResult k ranks ps p.1 p.2)) s
        (parts.filter Member.isMatrix).foldl (fun s m => s.misfit t m) s

/-- Whether a phase can fire: somebody signed and nobody is still undeclared or declared (R199). -/
def ConvReg.complete (c : ConvReg) : Bool :=
  c.members.any (fun m => decide (m.st = .signed)) &&
  c.members.all fun m => decide (m.st = .signed) || decide (m.st = .withdrawn)

/-- The members after a firing: deposits consumed, signers declared again (R199). -/
def Member.afterFire (m : Member) : Member :=
  { m with st := if m.st = .signed then .declared else m.st, dep := none }

/-- A discarded deposit of the matrix family leaves k.mx (log 9). -/
def State.discard (s : State) (t : TeamId) (m : Member) : State :=
  match m.dep with
  | some d => if d.isMatrix then s.retireOf ⟨t.ctx, t.grid, t.team, m.rank⟩ d.op else s
  | none => s

/-- Clears signed-phase bit n of the threads of some ranks of a team. -/
def State.clearSigned (s : State) (t : TeamId) (n : Nat) (ranks : List Nat) : State :=
  { s with threads := s.threads.map fun x =>
      if x.id.teamId = t ∧ ranks.contains x.id.rank then { x with signed := x.signed &&& ~~~(1#16 <<< n) } else x }

/-- Frees a set whose members have all withdrawn, or fires its phase when it is complete, as one event (R198, R199). The signed-phase bit of
every signer clears, of those that withdrew after they signed too, and (DEDUCED, log 24) when the set becomes Free, since that phase never
fires. -/
def State.settle (s : State) (t : TeamId) (n : Nat) : State :=
  match s.team? t with
  | none => s
  | some tm =>
    let c := tm.cr n
    if c.kind = .free then s
    else if c.members.all fun m => decide (m.st = .withdrawn) then
      ((c.members.foldl (fun s m => s.discard t m) s).setCr t n c.freed).clearSigned t n (c.members.map (·.rank))
    else if c.complete then
      let s := s.collect t (s.now tm.core) (c.members.map (·.rank)) c.members
      (s.setCr t n { c with phase := c.phase + 1, members := c.members.map Member.afterFire }).clearSigned t n (c.members.map (·.rank))
    else s

/-- A member withdraws from one set: a deposit it had not signed is discarded, a signed one stands (R198). -/
def State.withdraw (s : State) (t : TeamId) (n rank : Nat) : State :=
  match s.team? t with
  | none => s
  | some tm =>
    let c := tm.cr n
    let c' := c.upd rank fun m =>
      { m with st := .withdrawn, dep := match m.dep with
          | some d => if d.signed then some d else none
          | none => none }
    let s := match c.members.find? fun m => decide (m.rank = rank) with
      | some m => (match m.dep with
        | some d => if d.signed then s else s.discard t m
        | none => s)
      | none => s
    (s.setCr t n c').settle t n

/-- A thread that exits withdraws from every set it is a member of (R190, R198). -/
def State.withdrawAll (s : State) (t : ThreadId) : State :=
  (List.range 16).foldl (fun s n =>
    match s.team? t.teamId with
    | none => s
    | some tm => if ((tm.cr n).status t.rank).isSome then s.withdraw t.teamId n t.rank else s) s

/-- Declares a set (R196): ranks in ascending order, the register's new fields, and what happens to the thread. -/
def declare (s1 : State) (a : Args) (n : Nat) (ranks : List Nat) (bad : Bool) (fresh : ConvReg → ConvReg) : Res :=
  match s1.team? a.t.id.teamId with
  | none => .trap clsConverge 0 0
  | some tm =>
    let c := tm.cr n
    let me := a.t.id.rank
    if bad || ranks.any (fun r => decide (a.t.tsize ≤ r)) || ! ranks.contains me then .trap clsConverge 0 0
    else if c.kind = .free then
      let gone (r : Nat) : Bool := match s1.thread? ⟨a.t.id.ctx, a.t.id.grid, a.t.id.team, r⟩ with
        | some x => decide (x.st = .exited)
        | none => true
      let ms := ranks.map fun r => (⟨r, if r = me then .declared else if gone r then .withdrawn else .undeclared, none⟩ : Member)
      .ok (s1.setCr a.t.id.teamId n { fresh c with members := ms })
    else if (c.members.map (·.rank)) ≠ ranks then .trap clsConverge 0 0
    else match c.status me with
      | some .withdrawn => .trap clsConverge 0 0
      | some .undeclared => .ok (s1.setCr a.t.id.teamId n (c.upd me fun m => { m with st := .declared }))
      | _ => .ok s1

/-- CDECL.r (R195, R196): a range, or a withdrawal when HI is below LO. -/
def execCdeclRange (a : Nat) (l : Bool) (n : Nat) (s : State) : Host.Outcome State Fault Refusal :=
  issue s (fun _ => { srcs := [⟨a, 1⟩], kills := killIf l ⟨a, 1⟩ })
    fun x s1 =>
      let w := nth x.vals 0 0
      let lo := bits w 0 14
      let hi := bits w 16 14
      if hi < lo then
        match s1.team? x.t.id.teamId with
        | some tm => if ((tm.cr n).status x.t.id.rank).isSome then .ok (s1.withdraw x.t.id.teamId n x.t.id.rank)
          else .trap clsConverge 0 0
        | none => .trap clsConverge 0 0
      else declare s1 x n (rangeRanks lo hi) (decide (bits w 14 2 ≠ 0) || decide (bits w 30 2 ≠ 0))
        fun c => { c with kind := .range, lo := BitVec.ofNat 14 lo, hi := BitVec.ofNat 14 hi, base := 0, mask := 0 }

/-- CDECL.m (R195, R196): a 64-bit mask over a base. -/
def execCdeclMask (d a : Nat) (l : Bool) (n : Nat) (s : State) : Host.Outcome State Fault Refusal :=
  issue s (fun _ => { srcs := [⟨a, 1⟩, ⟨d, 2⟩], recs := 1, kills := killIf l ⟨a, 1⟩ })
    fun x s1 =>
      let w := nth x.vals 0 0
      let mask := nth x.vals 1 0
      let base := bits w 0 14
      declare s1 x n (maskRanks base mask) (decide (bits w 14 18 ≠ 0) || decide (base % 64 ≠ 0) || decide (mask = 0))
        fun c => { c with kind := .mask, lo := 0, hi := 0, base := BitVec.ofNat 14 base, mask := BitVec.ofNat 64 mask }

/-- CSIGN (R197): Dependent while the thread's signature of an unfired phase stands. -/
def execCsign (n : Nat) (s : State) : Host.Outcome State Fault Refusal :=
  issue s (fun t => { wait := t.signed.getLsbD n })
    fun x s1 =>
      match s1.team? x.t.id.teamId with
      | none => .trap clsConverge 0 0
      | some tm =>
        let c := tm.cr n
        match c.status x.t.id.rank with
        | some .declared | some .signed =>
          let c' := c.upd x.t.id.rank fun m => { m with st := .signed, dep := m.dep.map fun d => { d with signed := true } }
          let s2 := s1.updThread x.t.id fun t => { t with signed := t.signed ||| (1#16 <<< n) }
          .ok ((s2.setCr x.t.id.teamId n c').settle x.t.id.teamId n)
        | _ => .trap clsConverge 0 0

/-- CWAIT (R200). -/
def execCwait (n : Nat) (s : State) : Host.Outcome State Fault Refusal :=
  issue s (fun _ => {}) fun x s1 => if x.t.signed.getLsbD n then .hold .blocked else .ok s1

/-- Deposits a collective in a set (R201). -/
def depositIn (s0 s1 : State) (x : Args) (n : Nat) (k : CollKind) (a b : Nat) (dests : List Nat) : Res :=
  match s1.team? x.t.id.teamId with
  | none => .trap clsConverge 0 0
  | some tm =>
    let c := tm.cr n
    let d : Deposit :=
      { kind := k, word := s0.ir, rc := roundingCode x.t, en := enables x.t, a := a, b := b, dests := dests,
        pos := x.t.pos, pc := x.t.pc, latch := x.t.latch, issued := x.now, signed := false, op := 0 }
    match c.status x.t.id.rank with
    | some .declared | some .signed =>
      if (c.deposit x.t.id.rank).isSome then .trap clsConverge 0 0
      else .ok (s1.setCr x.t.id.teamId n (c.upd x.t.id.rank fun m => { m with dep := some d }))
    | _ => .trap clsConverge 0 0

/-- A collective of one operand (R203). -/
def collWord (k : CollKind) (rm : Nat) (d a : Src) (l : Bool) (n : Nat) (s : State) : Host.Outcome State Fault Refusal :=
  issue s (fun t => { srcs := [a], dests := d.regs, kills := killIf l a, hints := { rm := rm }, wait := t.signed.getLsbD n })
    fun x s1 => depositIn s s1 x n k (nth x.vals 0 0) 0 d.regs

/-- XSHF in one of its modes (R202). -/
def shuffleWord (mode d a : Nat) (l : Bool) (b : Nat) (m : Bool) (n : Nat) (s : State) : Host.Outcome State Fault Refusal :=
  issue s (fun t => { srcs := [⟨a, 1⟩, ⟨b, 1⟩], dests := [d], kills := killIf l ⟨a, 1⟩ ++ killIf m ⟨b, 1⟩,
                      wait := t.signed.getLsbD n })
    fun x s1 => depositIn s s1 x n (.shuffle mode) (nth x.vals 0 0) (nth x.vals 1 0) [d]

/-- XSHF.idx (R202). -/
def execXshfIdx (d a : Nat) (l : Bool) (b : Nat) (m : Bool) (n : Nat) (s : State) : Host.Outcome State Fault Refusal :=
  shuffleWord 0 d a l b m n s

/-- XSHF.up (R202). -/
def execXshfUp (d a : Nat) (l : Bool) (b : Nat) (m : Bool) (n : Nat) (s : State) : Host.Outcome State Fault Refusal :=
  shuffleWord 1 d a l b m n s

/-- XSHF.down (R202). -/
def execXshfDown (d a : Nat) (l : Bool) (b : Nat) (m : Bool) (n : Nat) (s : State) : Host.Outcome State Fault Refusal :=
  shuffleWord 2 d a l b m n s

/-- XSHF.xor (R202). -/
def execXshfXor (d a : Nat) (l : Bool) (b : Nat) (m : Bool) (n : Nat) (s : State) : Host.Outcome State Fault Refusal :=
  shuffleWord 3 d a l b m n s

/-- XBCAST (R203, R204): w the pair form, h the highest participant. -/
def execXbcast (d a : Nat) (l w h : Bool) (n : Nat) (s : State) : Host.Outcome State Fault Refusal :=
  collWord (.bcast h w) 0 ⟨d, if w then 2 else 1⟩ ⟨a, if w then 2 else 1⟩ l n s

/-- Registers of a reduction operand (R203). -/
def redShape (o r : Nat) : Src := ⟨r, redWidth o / 32⟩

/-- Whether a reduction accepts a rounding hint: the floating operations (R103, R203). -/
def redRm (o : Nat) : Nat := if o ≥ 8 then 1 else 0

/-- XRED (R203, R205). -/
def execXred (d a : Nat) (l : Bool) (o n : Nat) (s : State) : Host.Outcome State Fault Refusal :=
  collWord (.red o) (redRm o) (redShape o d) (redShape o a) l n s

/-- XSCAN.inc (R203, R205). -/
def execXscanInc (d a : Nat) (l : Bool) (o n : Nat) (s : State) : Host.Outcome State Fault Refusal :=
  collWord (.scan false o) (redRm o) (redShape o d) (redShape o a) l n s

/-- XSCAN.exc (R203, R205). -/
def execXscanExc (d a : Nat) (l : Bool) (o n : Nat) (s : State) : Host.Outcome State Fault Refusal :=
  collWord (.scan true o) (redRm o) (redShape o d) (redShape o a) l n s

/-- XVOTE (R203, R204): the predicate a, operation o. -/
def execXvote (d a o n : Nat) (s : State) : Host.Outcome State Fault Refusal :=
  let sd : Src := ⟨d, if o = 3 then 2 else 1⟩
  issue s (fun t => { dests := sd.regs, preds := [a], wait := t.signed.getLsbD n })
    fun x s1 => depositIn s s1 x n (.vote o) (x.t.pred a).toNat 0 sd.regs

end Machine
end Sys2Proof
end

