-- ==== Sys2Proof/Machine/Chunks.lean ====
section
/-! DEFINITION. The geometry of asynchronous copies (R305, R306, R309, R397, R504): addresses, the chunks a copy requests and delivers, and the
scratchpad lines it writes. -/

namespace Sys2Proof
namespace Machine

/-- Granule g of a copy kind (R305). -/
def copyGranule (kind : Nat) : Nat := if kind = 2 then 2 else 4

/-- Source address of a chunk, exact (R306). -/
def Copy.srcAt (c : Copy) (x : Chunk) : Int := (c.src : Int) + x.row * c.sstr + x.i

/-- Destination address of a chunk, exact (R306). -/
def Copy.dstAt (c : Copy) (x : Chunk) : Int := (c.dst : Int) + x.row * c.dstr + x.i

/-- An address in its space: modulo 2^64 for .g (R306). -/
def addrIn (sp : Space) (a : Int) : Nat := if sp = .g then wrap a 64 else a.toNat

/-- Source address of a chunk in its space. -/
def Copy.srcAddr (c : Copy) (x : Chunk) : Nat := addrIn c.srcS (c.srcAt x)

/-- Destination address of a chunk in its space. -/
def Copy.dstAddr (c : Copy) (x : Chunk) : Nat := addrIn c.dstS (c.dstAt x)

/-- Position of a chunk's first byte in row and byte order (R397). -/
def Copy.posOf (c : Copy) (x : Chunk) : Nat := x.row * c.rowb + x.i

/-- Bytes of the copy. -/
def Copy.total (c : Copy) : Nat := c.rowb * c.nrow

/-- The chunks of one row from byte i on, by fuel: each a power of two of bytes in one 64-byte sector on each side, and for a TCAST in one
packet of 256 bytes of its piece (R370, R398). -/
def chunksFrom (c : Copy) (row : Nat) : Nat → Nat → List Chunk
  | 0, _ => []
  | f + 1, i =>
    if c.rowb ≤ i then []
    else
      let x : Chunk := ⟨row, i, 1⟩
      let n := min (min (64 - c.srcAddr x % 64) (64 - c.dstAddr x % 64)) (c.rowb - i)
      let n := if c.kind = 1 then min n (256 - c.posOf x % 256) else n
      let n := 2 ^ Nat.log2 n
      ⟨row, i, n⟩ :: chunksFrom c row f (i + n)

/-- The sector requests of a copy: in ascending source address (R504), for a TCAST piece by piece (R397). -/
def Copy.requests (c : Copy) : List Chunk :=
  let all := (List.range c.nrow).flatMap fun r => chunksFrom c r c.rowb 0
  sortBy (fun x y => if c.kind = 1 ∧ c.posOf x / 4096 ≠ c.posOf y / 4096 then decide (c.posOf x < c.posOf y)
    else decide (c.srcAddr x < c.srcAddr y)) all

/-- The destination lines of a copy into scratchpad (R309). -/
def Copy.dstLines (c : Copy) : List Nat :=
  if c.dstS = .s ∧ c.rowb ≠ 0 then
    ((List.range c.nrow).flatMap fun r => unitsOf (c.dstAddr ⟨r, 0, 0⟩) c.rowb 128).dedup
  else []

/-- The lines a chunk writes. -/
def Copy.linesOf (c : Copy) (x : Chunk) : List Nat := if c.dstS = .s then unitsOf (c.dstAddr x) x.n 128 else []

/-- Whether a chunk has not been delivered to a receiver: requests made or to make, and for a TCAST by the receiver's position. -/
def Copy.open (c : Copy) (r : Receiver) : List Chunk :=
  if c.kind = 1 then (c.requests.filter fun x => decide (r.pos < c.posOf x + x.n)) else c.todo ++ c.reqs.map (·.chunk)

end Machine
end Sys2Proof
end

