-- ==== Sys2Proof/Machine/Journal.lean ====
section
/-! DEFINITION. The input journal of a context (R489, R490). -/

namespace Sys2Proof
namespace Machine

/-- Whether a context's journal is on and has a ring (R489). -/
def Ctx.journals (c : Ctx) : Bool :=
  let sz := bits c.jnc.toNat 0 4
  bitAt c.jnc.toNat 4 && decide (1 ≤ sz) && decide (sz ≤ 12)

/-- Appends an entry to the journal ring (R489, R490): 512 bytes and then PW; none when the ring is full. -/
def State.journalPut (s : State) (c : Ctx) (kind grid addr : Nat) (bs : List Byte) : Option State :=
  let base := bits c.jnb.toNat 12 28 * 4096
  let n := 2 ^ bits c.jnc.toNat 0 4
  let pw := memRead s.home base 8
  let cw := memRead s.home (base + 64) 8
  if n ≤ (pw + 2 ^ 64 - cw) % 2 ^ 64 then none
  else
    let entry := leBytes 4 kind ++ leBytes 4 grid ++ leBytes 8 addr ++ bs
    let entry := entry ++ List.replicate (512 - entry.length) 0
    some (((s.homeStore c.num (base + 512 * (1 + pw % n)) entry).homeWrite c.num base 8 ((pw + 1) % 2 ^ 64)).wakeGranule base)

/-- A context's STALL after its journal may have been turned off: nothing waits for a journal that is off (R489). -/
def Ctx.restall (c : Ctx) : Ctx := if c.journals then c else { c with jns := false }

/-- Sets JNS.STALL of a context. A record that still waits sets it again when it is next tried (R489, R490). -/
def State.setStall (s : State) (ctx : Nat) (b : Bool) : State := s.updCtx ctx fun c => { c with jns := b }

/-- Records a thing of a context, or finds that it must wait with STALL set (R490). -/
def State.journal (s : State) (ctx kind grid addr : Nat) (bs : List Byte) : State × Bool :=
  match s.ctx? ctx with
  | none => (s, true)
  | some c =>
    if ! c.journals then (s, true)
    else match s.journalPut c kind grid addr bs with
      | none => (s.setStall ctx true, false)
      | some s1 => (s1.setStall ctx false, true)

/-- A read of a sector performed at its home slice for a grid (R490): journalled when the grid is deterministic and the sector lies in
host memory. -/
def State.journalRead (s : State) (g : GridId) (pa : Nat) : State × Bool :=
  if s.detMode g && decide (0x4000000000 ≤ pa) then
    let sector := pa / 64 * 64
    s.journal g.ctx 2 g.grid sector (memBytes s.home sector 64)
  else (s, true)

/-- The same for several grids, an entry for each: all are made, or none and the context whose ring is full. -/
def State.journalEach (s : State) (pa : Nat) : List GridId → Except Nat State
  | [] => .ok s
  | g :: gs => match s.journalRead g pa with
    | (s1, true) => s1.journalEach pa gs
    | (_, false) => .error g.ctx

/-- A read of a sector that several grids take part in is journalled for each of them, or waits (R490). -/
def State.journalReads (s : State) (gs : List GridId) (pa : Nat) : State × Bool :=
  match s.journalEach pa gs with
  | .ok s1 => (s1, true)
  | .error ctx => (s.setStall ctx true, false)

end Machine
end Sys2Proof
end

