-- ==== Sys2Proof/Machine/Translate.lean ====
section
/-! DEFINITION. Translation of global addresses (R403 to R413): the walk of the four-level table, the leaf's physical address with its
stripe set, the lookup order and the fills, and what physical addresses exist (R259). -/

namespace Sys2Proof
namespace Machine

/-- Access codes of a translation record's DETAIL (R367). -/
inductive AccCode where
  | fetch | load | store | atomic | copyRead | copyWrite | sliceRead
  deriving DecidableEq, Repr

/-- The number of an access code (R367). -/
def AccCode.num : AccCode → Nat
  | .fetch => 0 | .load => 1 | .store => 2 | .atomic => 3 | .copyRead => 4 | .copyWrite => 5 | .sliceRead => 6

/-- Whether a physical byte address reaches memory (R259): GDDR7 below MEMG × 2^26 in its group, expansion memory when attached,
host memory. -/
def State.memExists (s : State) (pa : Nat) : Bool :=
  if pa < 0x1000000000 then decide (pa % 2 ^ 32 < s.memg * 2 ^ 26)
  else if pa < 0x2000000000 then bitAt (nth s.caps 3 0).toNat 4
  else decide (0x4000000000 ≤ pa) && decide (pa < 0x8000000000)

/-- Whether an entry read at a level is not valid (R407). -/
def entryInvalid (level e : Nat) : Bool :=
  let leaf := bitAt e 1
  let p64 := bitAt e 5
  ! bitAt e 0 || bitAt e 7 || decide (bits e 40 24 ≠ 0) || (leaf && decide (level ≤ 1)) || (! leaf && decide (level = 3))
    || (! leaf && decide (bits e 2 10 ≠ 0)) || (p64 && ! (leaf && decide (level = 3)))
    || (leaf && decide (level = 2) && decide (bits e 12 9 ≠ 0)) || (leaf && p64 && decide (bits e 12 4 ≠ 0))

/-- Bit position of a level's index and its width (R405). -/
def levelIndex (level va : Nat) : Nat :=
  match level with
  | 0 => bits va 39 13 | 1 => bits va 30 9 | 2 => bits va 21 9 | _ => bits va 12 9

/-- The translation a leaf gives (R405, R406, R409). -/
def leafTranslation (s : State) (ctx level va e : Nat) : Translation :=
  let pages := if level = 2 then 512 else if bitAt e 5 then 16 else 1
  let set := bits e 8 4
  let n := 2 ^ bits (nth s.stsc set 0).toNat 0 3
  { ctx := ctx, page := va / 4096 / pages * pages, pages := pages, oa := bits e 12 28,
    rd := bitAt e 2, wr := bitAt e 3, ex := bitAt e 4,
    stripe := if bitAt e 6 then some ((List.range n).map fun k => bits (nth s.stsl set 0).toNat (4 * k) 4) else none }

/-- The outcome of a translation: a physical address and the translation used, or a fault class. -/
inductive TrRes where
  | ok (pa : Nat) (tr : Translation)
  | fault (cls : Nat)
  deriving DecidableEq, Repr

/-- The physical address of a virtual address under a translation (R409); none when it lies beyond the group's device. -/
def physOf (memg : Nat) (tr : Translation) (va : Nat) : Option Nat :=
  match tr.stripe with
  | some list =>
    if tr.oa / 2 ^ 24 ≠ 0 then some (tr.oa * 4096 + va % (tr.pages * 4096))
    else
      let n := list.length
      let lo := tr.oa % 2 ^ 20 + (va / 4096 % tr.pages) / n
      if memg * 2 ^ 14 ≤ lo then none else some (nth list (va / 4096 % n) 0 * 2 ^ 32 + lo * 4096 + va % 4096)
  | none => some (tr.oa * 4096 + va % (tr.pages * 4096))

/-- The walk from a level's table base (R405 to R407, R410): one entry per level, by fuel. -/
def walkFrom (s : State) (ctx va : Nat) : Nat → Nat → Nat → Translation ⊕ Nat
  | 0, _, _ => .inr clsUnmapped
  | n + 1, level, base =>
    let a := base + 8 * levelIndex level va
    if s.homePoison.contains (a / 64) then .inr clsTablePoison
    else if ! s.memExists a then .inr clsNoMemory
    else
      let e := memRead s.home a 8
      if entryInvalid level e then .inr clsUnmapped
      else if bitAt e 1 then .inl (leafTranslation s ctx level va e)
      else walkFrom s ctx va n (level + 1) (bits e 12 28 * 4096)

/-- The permissions an access needs (R411). -/
def permitted (tr : Translation) (rd wr ex : Bool) : Bool := (! rd || tr.rd) && (! wr || tr.wr) && (! ex || tr.ex)

/-- translate of R410 by a walk of the context's table. -/
def State.translate (s : State) (ctx va : Nat) (rd wr ex : Bool) : TrRes :=
  match s.ctx? ctx with
  | none => .fault clsUnmapped
  | some c =>
    if 2 ^ 52 ≤ va then .fault clsBeyond
    else if ! bitAt c.ttb.toNat 0 then .fault clsUnmapped
    else match walkFrom s ctx va 4 0 (bits c.ttb.toNat 16 24 * 65536) with
      | .inr cls => .fault cls
      | .inl tr =>
        if ! permitted tr rd wr ex then .fault clsPerm
        else match physOf s.memg tr va with
          | none => .fault clsNoMemory
          | some pa => if s.memExists pa then .ok pa tr else .fault clsNoMemory

/-- The addresses of the table entries a walk reads (R405). -/
def walkReads (s : State) (va : Nat) : Nat → Nat → Nat → List Nat
  | 0, _, _ => []
  | n + 1, level, base =>
    let a := base + 8 * levelIndex level va
    if ! s.memExists a then []
    else
      let e := memRead s.home a 8
      a :: (if s.homePoison.contains (a / 64) || entryInvalid level e || bitAt e 1 then [] else walkReads s va n (level + 1) (bits e 12 28 * 4096))

/-- A walk's reads at the home slices (R252). -/
def State.touchWalk (s : State) (ctx va : Nat) : State :=
  match s.ctx? ctx with
  | none => s
  | some c =>
    if 2 ^ 52 ≤ va ∨ ! bitAt c.ttb.toNat 0 then s
    else (walkReads s va 4 0 (bits c.ttb.toNat 16 24 * 65536)).foldl (fun s a => s.sliceTouch a c.wayGroup 0) s

/-- Whether a cached translation serves an access. A cached entry without the permission counts as a miss, so that the table decides
(log 7). -/
def Translation.serves (tr : Translation) (ctx va : Nat) (rd wr ex : Bool) : Bool :=
  decide (tr.ctx = ctx) && decide (va < 2 ^ 52) && decide (tr.page ≤ va / 4096) && decide (va / 4096 < tr.page + tr.pages)
    && permitted tr rd wr ex

/-- A cached translation of a level-1 TLB. -/
def State.tlb1Hit (s : State) (core ctx va : Nat) (rd wr ex : Bool) : Option Translation :=
  (s.tlb1.find? fun e => decide (e.place = core) && e.tr.serves ctx va rd wr ex).map (·.tr)

/-- A cached translation of a level-2 TLB. -/
def State.tlb2Hit (s : State) (die ctx va : Nat) (rd wr ex : Bool) : Option Translation :=
  (s.tlb2.find? fun e => decide (e.place = die) && e.tr.serves ctx va rd wr ex).map (·.tr)

/-- Adds an entry to a TLB, dropping the oldest of its place beyond the capacity (R403; replacement is not visible to programs). -/
def tlbAdd (cap : Nat) (l : List TlbEntry) (e : TlbEntry) : List TlbEntry :=
  let l := l.filter fun x => ! (decide (x.place = e.place) && decide (x.tr.ctx = e.tr.ctx) && decide (x.tr.page = e.tr.page))
  let n := (l.filter fun x => decide (x.place = e.place)).length
  let l := if cap ≤ n then l.eraseP fun x => decide (x.place = e.place) else l
  l ++ [e]

/-- Fills the level-2 and level-1 TLBs after a lookup (R412). -/
def State.fillTlb (s : State) (core : Nat) (tr : Translation) : State :=
  { s with tlb1 := tlbAdd 512 s.tlb1 ⟨core, tr⟩, tlb2 := tlbAdd 8192 s.tlb2 ⟨dieOf core, tr⟩ }

/-- A lookup without a last-page register: level-1 TLB, level-2 TLB, walk (R412). -/
def State.lookup (s : State) (core ctx va : Nat) (rd wr ex : Bool) : State × TrRes :=
  let cached := match s.tlb1Hit core ctx va rd wr ex with
    | some tr => some tr
    | none => s.tlb2Hit (dieOf core) ctx va rd wr ex
  match cached with
  | some tr =>
    (match physOf s.memg tr va with
     | some pa => if s.memExists pa then (s.fillTlb core tr, .ok pa tr) else (s, .fault clsNoMemory)
     | none => (s, .fault clsNoMemory))
  | none =>
    (match s.translate ctx va rd wr ex with
     | .ok pa tr => ((s.touchWalk ctx va).fillTlb core tr, .ok pa tr)
     | .fault cls => (s.touchWalk ctx va, .fault cls))

/-- The physical address by cached translations only, and where the lookup hit: 0 in the last-page register, 1 in the level-1 TLB, 2 in the
level-2 TLB (R412). -/
def State.cachedPa (s : State) (core ctx va : Nat) (lp : Option Translation) (rd wr ex : Bool) : Option (Nat × Translation × Nat) :=
  let try1 (tr : Translation) (fast : Nat) : Option (Nat × Translation × Nat) :=
    match physOf s.memg tr va with
    | some pa => if s.memExists pa then some (pa, tr, fast) else none
    | none => none
  match lp with
  | some tr => if tr.serves ctx va rd wr ex then try1 tr 0 else
      (match s.tlb1Hit core ctx va rd wr ex with
       | some tr => try1 tr 1
       | none => match s.tlb2Hit (dieOf core) ctx va rd wr ex with
         | some tr => try1 tr 2
         | none => none)
  | none => match s.tlb1Hit core ctx va rd wr ex with
    | some tr => try1 tr 1
    | none => match s.tlb2Hit (dieOf core) ctx va rd wr ex with
      | some tr => try1 tr 2
      | none => none

end Machine
end Sys2Proof
end

