-- ==== Sys2Proof/Machine/MemOps.lean ====
section
/-! DEFINITION. Where accesses are performed and bound (R247 to R250, R265 to R282, R299, R509): the L1 of a cluster, the view a load
has of each byte, the orders kept within a thread, acquire, release and fences, and the write-back and invalidation at system scope. -/

namespace Sys2Proof
namespace Machine

-- ---------------------------------------------------------------- the weight store

/-- The bank in refresh in a slot (R255). -/
def refreshBank (slot : BitVec 4) : Nat := bitrev 4 slot.toNat

/-- The die a weight-store address names (R255). -/
def weightDie (ea : Nat) : Nat := ea / 2 ^ 30 % 2

/-- The bank of a weight-store address (R255). -/
def weightBank (ea : Nat) : Nat := bits ea 8 4

/-- The lines outstanding to a bank of its own die from a core: LD.w accesses and slice reads (R256). -/
def State.weightLines (s : State) (core bank : Nat) : List Nat :=
  let here (va : Nat) : Bool := decide (weightDie va = dieOf core) && decide (weightBank va = bank)
  let ofOps := s.ops.filterMap fun o => match o.body with
    | .mem a => if o.core = core ∧ a.space = .w ∧ here a.va then some (a.va / 256) else none
    | _ => none
  let ofSlices := s.teams.flatMap fun t => if t.core ≠ core then [] else match t.slice with
    | some sl => sl.reads.flatMap fun r => if r.weight then
        r.reqs.filterMap fun q => if q.st = .ready ∧ here q.va then some (q.va / 256) else none else []
    | none => []
  (ofOps ++ ofSlices).dedup

-- ---------------------------------------------------------------- bytes of a sector

/-- The byte mask of n bytes at an offset in a unit. -/
def byteMask (off n : Nat) : Nat := (2 ^ n - 1) * 2 ^ off

/-- Merges n bytes of two values: the new byte where the mask's bit is 1. -/
def mergeBytes : Nat → Nat → Nat → Nat → Nat
  | 0, _, _, _ => 0
  | n + 1, old, new, mask => (if mask % 2 = 1 then new % 256 else old % 256) + 256 * mergeBytes n (old / 256) (new / 256) (mask / 2)

/-- A sector of a cluster's L1. -/
def State.l1Sector? (s : State) (cluster sector : Nat) : Option L1Sector :=
  s.l1.find? fun x => decide (x.cluster = cluster) && decide (x.sector = sector)

/-- Whether the L1 holds every byte of a mask in a sector as valid. -/
def State.l1Has (s : State) (cluster sector mask : Nat) : Bool :=
  match s.l1Sector? cluster sector with
  | some x => decide (x.valid.toNat &&& mask = mask)
  | none => false

/-- Writes a sector's dirty bytes to the home slice, with its poison mark (R247, R260), for the way group of the context that wrote them last
(R252; log 41). -/
def State.writeBackSector (s : State) (x : L1Sector) : State :=
  if x.dirty = 0 then s
  else
    let m := memWriteMask s.home (x.sector * 64) 64 x.data.toNat x.dirty.toNat
    let marks := if x.poison then setAdd s.homePoison x.sector
      else if x.dirty.toNat = 2 ^ 64 - 1 then setDel s.homePoison x.sector else s.homePoison
    ({ s with home := m, homePoison := marks }.sliceTouch (x.sector * 64) x.group 0).checkHomeWaiters (some x.cluster)
      (writtenAt (x.sector * 64) x.data.toNat x.dirty.toNat)

/-- Changes the sectors a condition picks. -/
def State.mapL1 (s : State) (p : L1Sector → Bool) (f : L1Sector → L1Sector) : State :=
  { s with l1 := s.l1.map fun x => if p x then f x else x }

/-- Writes back the dirty bytes of the sectors a condition picks and leaves their valid bytes valid (R303). -/
def State.writeBack (s : State) (p : L1Sector → Bool) : State :=
  ((s.l1.filter p).foldl State.writeBackSector s).mapL1 p fun x => { x with dirty := 0 }

/-- Invalidates every clean byte of the picked sectors and clears their .keep marks (R275); empty sectors go. -/
def State.invalidateClean (s : State) (p : L1Sector → Bool) : State :=
  let s := s.mapL1 p fun x => { x with valid := x.dirty, keep := false }
  { s with l1 := s.l1.filter fun x => ! (p x && decide (x.valid = 0)) }

/-- The L1 set of a sector's line: one of 128 sets of 256-byte lines, indexed by physical address (R247). Which bits index it, the spec does
not say: the line number modulo 128 (DESIGN CHOICE, log 41). -/
def l1Set (sector : Nat) : Nat := sector / 4 % 128

/-- The lines a set of a cluster holds, in replacement order. -/
def State.l1Lines (s : State) (cluster set : Nat) : List Nat :=
  ((s.l1.filter fun x => decide (x.cluster = cluster) && decide (l1Set x.sector = set)).map fun x => x.sector / 4).dedup

/-- Makes room for a line: with 16 lines in its set, evicts the newest that was allocated as the set's next victim; else one that is not marked
.keep while there is one, the `victim`-th of the candidates (R247, R250; which one is not visible to programs). -/
def State.l1Room (s : State) (cluster sector victim : Nat) : State :=
  let lines := s.l1Lines cluster (l1Set sector)
  if lines.contains (sector / 4) || decide (lines.length < 16) then s
  else
    let kept (line : Nat) : Bool := s.l1.any fun x => decide (x.cluster = cluster) && decide (x.sector / 4 = line) && x.keep
    let free := lines.filter fun x => ! kept x
    let cands := if free.isEmpty then lines else free
    let next := lines.filter fun x => s.l1.any fun y => decide (y.cluster = cluster) && decide (y.sector / 4 = x) && y.next
    let line := next.getLast?.getD (nth cands victim (nth cands 0 0))
    let p (x : L1Sector) : Bool := decide (x.cluster = cluster) && decide (x.sector / 4 = line)
    let s := s.writeBack p
    { s with l1 := s.l1.filter fun x => ! p x }

/-- Places a sector in an L1. -/
def State.l1Put (s : State) (x : L1Sector) : State :=
  if (s.l1Sector? x.cluster x.sector).isSome then
    s.mapL1 (fun y => decide (y.cluster = x.cluster) && decide (y.sector = x.sector)) fun _ => x
  else { s with l1 := s.l1 ++ [x] }

/-- An empty sector, allocated with a cache policy (R250). -/
def emptySector (cluster sector cp : Nat) : L1Sector := ⟨cluster, sector, 0, 0, 0, false, false, decide (cp = 1), 0⟩

/-- After bytes became visible to the threads of some cores of a cluster, in the L1 or as they left a core's store path: releases the waiters
armed in that L1 whose watch they change (R265, R299); with `core`, bytes that their core's store path still hides do not. -/
def State.checkL1Waiters (s : State) (cluster : Nat) (cores : Nat → Bool) (core : Bool) (val : Nat → Option Nat) : State :=
  s.releaseWaiters (s.waiters.filter fun w => decide (w.cluster = cluster) && decide (w.space = .g) && ! w.atHome &&
    cores (s.coreOf w.thr) && s.alters w core val)

/-- Writes bytes of a context into a cluster's L1: valid and dirty, allocating the sector without a fill (R247). A store that covers a marked
sector whole clears its mark (R260). -/
def State.l1Write (s : State) (ctx cluster pa n v mask cp victim : Nat) : State :=
  let sector := pa / 64
  let off := pa % 64
  let s := s.l1Room cluster sector victim
  let x := (s.l1Sector? cluster sector).getD (emptySector cluster sector cp)
  let m := BitVec.ofNat 64 (mask * 2 ^ off)
  let data := mergeBytes 64 x.data.toNat (v % 256 ^ n * 256 ^ off) m.toNat
  let x := { x with valid := x.valid ||| m, dirty := x.dirty ||| m, data := BitVec.ofNat 512 data,
                    poison := x.poison && decide (m.toNat ≠ 2 ^ 64 - 1), keep := x.keep || decide (cp = 2), group := s.wayGroup ctx }
  s.l1Put x

/-- Merges a sector fetched from the home slice under the valid mask: stored bytes win (R248). -/
def State.l1Fill (s : State) (cluster sector cp victim : Nat) : State :=
  let s := s.l1Room cluster sector victim
  let x := (s.l1Sector? cluster sector).getD (emptySector cluster sector cp)
  let fetched := memRead s.home (sector * 64) 64
  let data := mergeBytes 64 fetched x.data.toNat x.valid.toNat
  let x := { x with valid := BitVec.ofNat 64 (2 ^ 64 - 1), data := BitVec.ofNat 512 data,
                    poison := x.poison || s.homePoison.contains sector, keep := x.keep || decide (cp = 2) }
  s.l1Put x

/-- Drops bytes from a cluster's L1, as a store at .dv or .sy or a .nol1 store does (R250, R265). -/
def State.l1Drop (s : State) (cluster pa n : Nat) : State :=
  let m := ~~~ (BitVec.ofNat 64 (byteMask (pa % 64) n))
  let s := s.mapL1 (fun x => decide (x.cluster = cluster) && decide (x.sector = pa / 64))
    fun x => { x with valid := x.valid &&& m, dirty := x.dirty &&& m }
  { s with l1 := s.l1.filter fun x => decide (x.valid ≠ 0) }

-- ---------------------------------------------------------------- pending stores and the view of a byte

/-- Whether an access only reads (R272). -/
def AccKind.reads : AccKind → Bool
  | .load _ | .refill | .wait _ => true
  | _ => false

/-- Whether an access is an atomic. -/
def AccKind.atomic : AccKind → Bool
  | .atom _ | .cas => true
  | _ => false

/-- The address two accesses of one space are compared by: physical when both are translated. -/
def Access.addr (a b : Access) : Nat := match a.pa, b.pa with
  | some p, some _ => p
  | _, _ => a.va

/-- Whether two accesses of one team's space touch a common byte. -/
def Access.overlaps (a b : Access) : Bool :=
  decide (a.space = b.space) && decide (a.addr b < b.addr a + b.size) && decide (b.addr a < a.addr b + a.size)

/-- Whether a pending store gives the byte at an offset of an access. -/
def Access.gives (st a : Access) (i : Nat) : Bool :=
  let x := a.addr st + i
  let y := st.addr a
  decide (st.space = a.space) && decide (y ≤ x) && decide (x < y + st.size) && bitAt st.mask (x - y)

/-- The byte a pending store gives. -/
def Access.byteFor (st a : Access) (i : Nat) : Nat := byteOf st.data (a.addr st + i - st.addr a)

/-- The youngest pending store among operations, by program order. -/
def youngest (l : List Op) : Option Op := leastBy (fun a b => decide (b.pos < a.pos)) l

/-- The pending stores of a thread older than a position. -/
def State.ownStores (s : State) (t : ThreadId) (pos : Nat) : List Op :=
  s.ops.filter fun o => decide (o.thr = t) && decide (o.pos < pos) &&
    (match o.access with
     | some a => a.kind.stores
     | none => false) && decide (o.stage ≠ .done)

/-- The stores of a core that have left its store path and not yet reached the L1, in the order in which they left, which is their coherence
order (R265, R271), without a thread's own younger ones. -/
def State.coreStores (s : State) (t : ThreadId) (pos core : Nat) : List Op :=
  s.ops.filter fun o => decide (o.core = core) && decide (o.stage = .core) && ! (decide (o.thr = t) && decide (pos ≤ o.pos))

/-- What a thread's read of one byte returns: a value, and the operation it was read from when that is not yet everyone's. -/
structure ByteView where
  val : Nat
  poison : Bool
  from? : Option Nat
  deriving DecidableEq, Repr

/-- Whether an operation is a store that gives the byte at an offset of an access. -/
def Op.gives (x : Op) (a : Access) (i : Nat) : Bool :=
  match x.access with
  | some st => st.gives a i
  | none => false

/-- Byte i of an access as the issuing thread sees it (R266, R268): of its youngest older store that is still in the store path; else of the
last store of the core to leave it; else of the L1 or the home slice; none when a fill must come first. -/
def State.viewByte (s : State) (o : Op) (a : Access) (i : Nat) : Option ByteView :=
  let own := youngest ((s.ownStores o.thr o.pos).filter fun x => decide (x.stage ≠ .core) && x.gives a i)
  match own with
  | some x => match x.access with
    | some st => some ⟨st.byteFor a i, false, none⟩
    | none => none
  | none =>
    match a.space with
    | .s => match s.team? o.thr.teamId with
      | some tm => some ⟨(cellGet tm.scratch (a.va + i)).toNat, tm.poison.contains ((a.va + i) / 32), none⟩
      | none => some ⟨0, false, none⟩
    | .w => some ⟨(cellGet s.weights (a.va + i)).toNat, s.weightPoison.contains ((a.va + i) / 64), none⟩
    | _ =>
      let pa := a.pa.getD 0 + i
      let home : ByteView := ⟨(cellGet s.home pa).toNat, s.homePoison.contains (pa / 64), none⟩
      if a.scope.wide then some home
      else
        match ((s.coreStores o.thr o.pos o.core).filter fun x => x.gives a i).getLast? with
        | some x => match x.access with
          | some st => some ⟨st.byteFor a i, false, if x.thr = o.thr then none else some x.id⟩
          | none => none
        | none =>
          let held := s.l1Has (clusterOf o.core) (pa / 64) (byteMask (pa % 64) 1)
          match s.l1Sector? (clusterOf o.core) (pa / 64) with
          | some x => if held then some ⟨byteOf x.data.toNat (pa % 64), x.poison, none⟩
            else if a.cp = 3 then some home else none
          | none => if a.cp = 3 then some home else none

/-- All bytes of an access; none when a fill must come first. -/
def State.viewBytes (s : State) (o : Op) (a : Access) : Nat → Option (List ByteView)
  | 0 => some []
  | n + 1 => match s.viewBytes o a n, s.viewByte o a n with
    | some l, some b => some (l ++ [b])
    | _, _ => none

/-- The little-endian value of a view. -/
def viewValue : List ByteView → Nat
  | [] => 0
  | b :: bs => b.val + 256 * viewValue bs

-- ---------------------------------------------------------------- orders

/-- Whether an operation is an access that must complete (R509). -/
def Op.isAccess (o : Op) : Bool := o.access.isSome && decide (o.stage ≠ .done)

/-- The older accesses of an operation's thread that have not completed. -/
def State.olderAccesses (s : State) (o : Op) : List Op :=
  s.ops.filter fun x => decide (x.thr = o.thr) && decide (x.pos < o.pos) && x.isAccess

/-- Whether an operation is a TRACE with frame words to store (R325, R509). -/
def State.storesFrames (s : State) (o : Op) : Bool :=
  match o.body with
  | .island id => s.jobs.any fun j => decide (j.id = id) && j.trace && decide (j.frameWords ≠ 0)
  | _ => false

/-- Whether every older access of a thread has completed (R280, R509): accesses, the frame stores of TRACEs, copies, and the element accesses
of ACLD and ACST. -/
def State.olderComplete (s : State) (t : ThreadId) (pos : Nat) : Bool :=
  ! (s.ops.any fun x => decide (x.thr = t) && decide (x.pos < pos) && (x.isAccess || s.storesFrames x))
    && ! (s.copies.any fun c => decide (c.thr = t) && decide (c.pos < pos))
    && ! (s.teams.any fun tm => decide (tm.id = t.teamId) &&
        tm.engine.any fun e => decide (e.thr = t) && decide (e.pos < pos) && (decide (e.kind = 2) || decide (e.kind = 3)))

/-- Whether every write the thread has observed is performed (R274): none is still in a store path. -/
def State.observedDone (s : State) (t : ThreadId) : Bool :=
  match s.thread? t with
  | some x => x.observed.all fun o => (s.op? o).isNone
  | none => true

/-- Whether an operation's read has been bound. -/
def Op.isBound (o : Op) : Bool := decide (o.stage = .bound) || decide (o.stage = .done)

/-- Whether an access is at .dv or .sy on the global space. -/
def Access.isWide (a : Access) : Bool := decide (a.space = .g) && a.scope.wide

/-- An older acquire of the thread holds its later accesses until its read is bound (R275). -/
def State.acquireHolds (s : State) (o : Op) : Bool :=
  (s.olderAccesses o).any fun x => match x.access with
    | some a => a.acq && ! x.isBound
    | none => false

/-- An older ACST of the thread that still has to write bytes of a scratchpad access holds it (R232, R271). -/
def State.storeImageHolds (s : State) (o : Op) (a : Access) : Bool :=
  decide (a.space = .s) && (match s.team? o.thr.teamId with
    | some tm => tm.engine.any fun e => decide (e.kind = 3) && decide (e.thr = o.thr) && decide (e.pos < o.pos) &&
        decide (e.a < a.va + a.size) && decide (a.va < e.a + e.b)
    | none => false)

/-- A read waits for older reads of the same bytes and older wide reads to bind, and for older atomics on its bytes (R271, R272). -/
def State.readHeld (s : State) (o : Op) (a : Access) : Bool :=
  s.acquireHolds o || s.storeImageHolds o a || (s.olderAccesses o).any fun x => match x.access with
    | some b => (b.kind.reads || b.kind.atomic) && ! x.isBound && (b.overlaps a || (a.isWide && b.isWide))
    | none => false

/-- A write waits until every older read and atomic of its thread is bound, and until older stores to its bytes have gone as far
(R271, R272, R275). -/
def State.writeHeld (s : State) (o : Op) (a : Access) (past : Op → Bool) : Bool :=
  s.acquireHolds o || s.storeImageHolds o a || (s.olderAccesses o).any fun x => match x.access with
    | some b => ((b.kind.reads || b.kind.atomic) && ! x.isBound) || (b.kind.stores && b.overlaps a && ! past x)
    | none => false

/-- Whether a release may be performed (R274). -/
def State.releaseReady (s : State) (o : Op) (a : Access) : Bool :=
  ! a.rel || (s.olderComplete o.thr o.pos && s.observedDone o.thr)

/-- Whether an operation is a narrow global store on a sector: by its physical address, or, before its translation, by the virtual address in
the same context. -/
def Op.storesIn (x : Op) (ctx va pa : Nat) : Bool :=
  match x.access with
  | some b => b.kind.stores && decide (b.space = .g) && ! b.scope.wide && (match b.pa with
      | some p => decide (p / 64 = pa / 64)
      | none => decide (x.thr.ctx = ctx) && decide (b.va / 64 = va / 64))
  | none => false

/-- Whether two operations were issued in one cycle by one partition, by different threads: they belong to one merge step (R249). -/
def Op.sameStep (o x : Op) : Bool :=
  decide (x.issued = o.issued) && decide (x.core = o.core) && decide (x.part = o.part) && decide (x.thr ≠ o.thr)

/-- Whether a store that waits in its core's store path is pending for an access (R267): older in its thread, or issued in an earlier cycle. A
store whose request is parked has left the path. -/
def Op.pendingFor (x o : Op) : Bool :=
  x.inPath && (if x.thr = o.thr then decide (x.pos < o.pos) else decide (x.issued < o.issued))

/-- Step 1 of R267: the pending narrow stores of the issuing core on the sector must reach the L1 first. -/
def State.pathBusy (s : State) (o : Op) (va pa : Nat) : Bool :=
  s.ops.any fun x => decide (x.core = o.core) && decide (x.id ≠ o.id) && x.storesIn o.thr.ctx va pa &&
    (decide (x.stage = .core) || x.pendingFor o)

/-- Whether a store of a core has left its store path and still has to bring one of n bytes to the L1: an atomic or a copy that writes them in
the L1 comes after it (R271). -/
def State.coreOverlap (s : State) (core pa n : Nat) : Bool :=
  s.ops.any fun x => decide (x.core = core) && decide (x.stage = .core) && (match x.access with
    | some b => (match b.pa with
        | some p => decide (p < pa + n) && decide (pa < p + b.size)
        | none => false)
    | none => false)

/-- Step 2 of R267: the cluster's L1 writes back the dirty bytes of the sector. -/
def State.pushSector (s : State) (cluster pa : Nat) : State :=
  s.writeBack fun x => decide (x.cluster = cluster) && decide (x.sector = pa / 64)

/-- The write-back of a .sy release: every dirty byte of the cluster's L1 (R274). -/
def State.flushL1 (s : State) (cluster : Nat) : State := s.writeBack fun x => decide (x.cluster = cluster)

/-- The invalidation of a .sy acquire (R275). -/
def State.invalidateL1 (s : State) (cluster : Nat) : State := s.invalidateClean fun x => decide (x.cluster = cluster)

/-- Adds observed writes to a thread (R274, R276). -/
def State.observe (s : State) (t : ThreadId) (l : List ByteView) : State :=
  let ids := (l.filterMap fun b => b.from?).dedup
  if ids.isEmpty then s else s.updThread t fun x => { x with observed := (x.observed.filter fun o => (s.op? o).isSome) ++ ids }

end Machine
end Sys2Proof
end

