-- ==== Sys2Proof/Machine/MemStep.lean ====
section
/-! DEFINITION. The steps an access takes after its word has issued: translation (TABLE_WALK), fills (L1_FILL), the binding of reads and
the writing of results (RESULT_WRITE), and the performing of stores (STORE_PERFORMED), with the faults found on the way (R292, R368). -/

namespace Sys2Proof
namespace Machine

-- ---------------------------------------------------------------- issue of an access

/-- The access code of an access (R367). -/
def AccKind.code : AccKind → AccCode
  | .store | .spill => .store
  | .atom _ | .cas => .atomic
  | _ => .load

/-- Whether an access needs RD (R411). -/
def AccKind.needsRd : AccKind → Bool
  | .store | .spill => false
  | _ => true

/-- Whether an access needs WR (R411). -/
def AccKind.needsWr : AccKind → Bool
  | .store | .spill | .atom _ | .cas => true
  | _ => false

/-- CBASE of a grid (R251). -/
def Grid.cbase (g : Grid) : Nat :=
  let e := match g.launch.roles.head? with
    | some r => r.entry.toNat
    | none => 0
  (e / 0x10000 * 0x10000 + 2 ^ 52 - 0x10000) % 2 ^ 52

/-- The scratch area of a thread (R46); one that reaches beyond 52 bits faults there (R410). -/
def State.scratchArea (s : State) (t : Thread) : Nat :=
  match s.grid? t.id.gridId with
  | some g => g.launch.stkb + (t.id.team * t.tsize + t.id.rank) * g.launch.stks * 64
  | none => 0

/-- STKS × 64 of a thread's grid (R46). -/
def State.scratchSize (s : State) (t : Thread) : Nat :=
  match s.grid? t.id.gridId with
  | some g => g.launch.stks * 64
  | none => 0

/-- The global address of an address of the constant window (R251). -/
def State.windowVa (s : State) (t : ThreadId) (ea : Nat) : Nat :=
  match s.grid? t.gridId with
  | some g => (g.cbase + ea) % 2 ^ 52
  | none => ea

/-- The global address of an access: its own, or that of its place in the constant window (R251). -/
def State.globalVa (s : State) (t : ThreadId) (a : Access) : Nat := if a.space = .k then s.windowVa t a.va else a.va

/-- Whether a constant cache holds a sector of the window (R251). -/
def State.constSector? (s : State) (core : Nat) (g : GridId) (sector : Nat) : Option ConstSector :=
  s.consts.find? fun x => decide (x.core = core) && decide (x.grid = g) && decide (x.sector = sector)

/-- The order of threads by sr.grid, sr.team and sr.rank, whatever their contexts (R249, R300); threads that agree in these stand by context. -/
def threadInOrder (a b : ThreadId) : Bool :=
  ThreadId.before { a with ctx := 0 } { b with ctx := 0 } || (decide ({ a with ctx := b.ctx } = b) && decide (a.ctx < b.ctx))

/-- The bytes that a store of a merge step still writes beside another one, of a higher thread, which takes those they share (R249). -/
def loseBytes (mine other : Access) : Nat :=
  (List.range mine.size).foldl (fun m i => if other.gives mine i && bitAt m i then m - 2 ^ i else m) mine.mask

/-- The stores and atomics to one space that a merge step has in the store path, a given one among them (R249). -/
def State.stepStores (s : State) (o : Op) (a : Access) : List (Op × Access) :=
  s.ops.filterMap fun x => if (decide (x.id = o.id) || o.sameStep x) && x.inPath then
      (x.access.filter fun b => (b.kind.stores || b.kind.atomic) && decide (b.space = a.space) &&
        (decide (a.space ≠ .s) || decide (x.thr.teamId = o.thr.teamId))).map fun b => (x, b)
    else none

/-- The stores and atomics of a merge step that share bytes with a given one, or with one that does, in the order of their threads: accesses are
aligned, so all of them lie in the largest (R240, R249). -/
def State.mergeGroup (s : State) (o : Op) (a : Access) : List (Op × Access) :=
  let l := s.stepStores o a
  let big := (l.filter fun p => p.2.overlaps a).foldl (fun b p => if b.size < p.2.size then p.2 else b) a
  sortBy (fun x y => threadInOrder x.1.thr y.1.thr) (l.filter fun p => p.2.overlaps big)

/-- Whether a store or atomic waits for others of its merge step (R249): until all of them are translated; and, where an atomic is among those
that share bytes, which reads what the others write, until those of lower threads are performed. -/
def State.mergeWaits (s : State) (o : Op) (a : Access) : Bool :=
  ((s.stepStores o a).any fun p => decide (p.1.stage = .walk)) ||
    let g := s.mergeGroup o a
    (g.any fun p => p.2.kind.atomic) && g.any fun p => threadInOrder p.1.thr o.thr

/-- Whether the merge step of a store or atomic is complete: its cycle is over (R249). -/
def State.stepClosed (s : State) (o : Op) : Bool := decide (o.issued < s.now o.core)

/-- Whether an access misses its sector (R248): a narrow global read whose bytes are not all in view, whatever its cache policy, or an atomic
whose bytes the L1 does not hold. -/
def State.needsFill (s : State) (o : Op) (a : Access) : Bool :=
  decide (o.stage = .ready) && decide (a.space = .g) && ! a.scope.wide &&
    ((a.kind.reads && (s.viewBytes o { a with cp := 0 } a.size).isNone) ||
     (a.kind.atomic && ! s.l1Has (clusterOf o.core) (a.pa.getD 0 / 64) (byteMask (a.pa.getD 0 % 64) a.size)))

/-- The missing sectors of a cluster's accesses take miss-status entries in the order of issue: one to each sector, as long as one of the 256
is free (R248). -/
def State.takeMisses (s : State) (cluster : Nat) : State :=
  let want (o : Op) : Option Nat := if clusterOf o.core ≠ cluster then none
    else (o.access.filter fun a => s.needsFill o a).map fun a => a.pa.getD 0 / 64
  let take (l : List (Nat × Nat)) (sector : Nat) : List (Nat × Nat) :=
    if l.contains (cluster, sector) || decide (256 ≤ (l.filter fun m => decide (m.1 = cluster)).length) then l else l ++ [(cluster, sector)]
  { s with misses := (s.ops.filterMap want).foldl take s.misses }

/-- Starts an access of the issued word: its issue record, its counter, and its translation when a cached one serves (R290, R412). A load that
hits the constant cache needs none: fills of that cache translate (R116, R412). -/
def State.startAccess (s : State) (x : Args) (a : Access) (cls : Option KClass) (dests : List Nat) (due : Option Nat) : State :=
  let id := s.nextId
  let va := s.globalVa x.t.id a
  let tr := s.cachedPa x.core x.t.id.ctx va (if a.space = .g then x.t.lastPage else none) a.kind.needsRd a.kind.needsWr false
  let translated : Option Nat := match a.space with
    | .g | .k => tr.map fun r => r.1
    | _ => some a.va
  let cached := decide (a.space = .k) && (s.constSector? x.core x.t.id.gridId (a.va / 64)).isSome
  let stage : Stage := if translated.isSome || cached then .ready else .walk
  let o := { x.op s (.mem { a with pa := translated }) with due := due, dests := dests, cls := cls, stage := stage }
  let s := s.addOp o
  let s := match cls with
    | some c => s.updThread x.t.id fun t => t.count c id
    | none => s
  let s := match a.space, tr with
    | .g, some r => (if r.2.2 = 0 then s else s.fillTlb x.core r.2.1).updThread x.t.id fun t => { t with lastPage := some r.2.1 }
    | .k, some r => s.fillTlb x.core r.2.1
    | _, _ => s
  s.takeMisses (clusterOf x.core)

-- ---------------------------------------------------------------- ending, faulting

/-- An operation completes: it retires from its counter and its issue record goes (R280, R460). -/
def State.completeOp (s : State) (o : Op) : State := (s.updThread o.thr fun t => t.retire o.id).dropOp o.id

/-- Writes an operation's results and completes it (R129, R280). -/
def State.writeBackResult (s : State) (o : Op) : State :=
  (s.updThread o.thr fun t => t.applyWrites o.pos o.dests o.vals).completeOp o

/-- The number of requests of a die that stand under a record (R362). The first 1,024 are in its replay queue; those beyond them, of a group that
shares its record (R504), of a restored image (R385) or of a record that had to wait (R366), wait at their engines until places free, and no
other request enters before them (R371). One whose record is not made yet is at its engine and not counted (R366). -/
def State.replayCount (s : State) (die : Nat) : Nat :=
  (s.replays.filter fun r => decide (r.die = die) && decide (r.seq < 2 ^ 32)).length

/-- A refill that faults leaves its slot a fault mark, and no record (R189). -/
def State.markRefill (s : State) (o : Op) (va cls : Nat) : State :=
  (s.updThread o.thr fun t => { t with ls := t.ls.map fun l => match l with
    | .refill op v => if op = o.id then .mark va cls else .refill op v
    | l => l }).completeOp o

/-- A fault of an access found after issue (R292, R298, R368): a refill leaves a mark; WAITA and WAKEA trap at their word; anything
else parks its request in the replay queue and its thread at the next word; after the thread's exit its register write is dropped (R137). A
full replay queue holds the request at its engine and its thread (R371). A WAITA or WAKEA whose thread is parked on a record already adds one
for the word after it (R510; DEDUCED, log 30). -/
def State.accessFault (s : State) (o : Op) (a : Access) (cls : Nat) : State :=
  let va := s.globalVa o.thr a
  let detail := if cls ≥ 0x40 then a.kind.code.num else 0
  match a.kind with
  | .refill => s.markRefill o va cls
  | .wait _ | .wake _ =>
    let s := (s.dropOp o.id).updThread o.thr fun t => t.uncount o.id
    match s.thread? o.thr with
    | some t =>
      if t.openParks.isEmpty then
        let y := { t with pc := o.pc, latch := o.latch }
        (s.updThread t.id fun _ => y).parkOn y (s.threadRecord y cls o.pc o.word o.latch detail va (some (opndOf o.opnd 0)))
      else s.raiseLate o cls detail va 0 0
    | none => s
  | _ =>
    let die := dieOf o.core
    if 1024 ≤ s.replayCount die then s.updOp o.id fun x => { x with stage := .waiting }
    else
      let seq := s.nextSeqOf die o.thr.ctx
      let gone := match s.thread? o.thr with
        | some t => decide (t.st = .exited)
        | none => true
      let s := s.raiseLate o cls detail va 0 1
      let s := s.updOp o.id fun x => { x with stage := .parked seq, dests := if gone then [] else x.dests }
      { s with replays := s.replays ++
          [{ die := die, seq := seq, ctx := o.thr.ctx, what := .op o.id, cls := cls, ir := gone, va := va }] }

-- ---------------------------------------------------------------- translation and fills

/-- One walk for an access that no cached translation served (R412, R413): it fills and makes the access ready, or faults. -/
def State.walkAccess (s : State) (o : Op) (a : Access) : State :=
  let va := s.globalVa o.thr a
  match s.lookup o.core o.thr.ctx va a.kind.needsRd a.kind.needsWr false with
  | (s1, .ok pa tr) =>
    let s2 := if a.space = .g then s1.updThread o.thr fun t => { t with lastPage := some tr } else s1
    (s2.updOp o.id fun x => { x with stage := .ready, body := .mem { a with pa := some pa } }).takeMisses (clusterOf o.core)
  | (s1, .fault cls) => s1.accessFault o a cls

/-- Frees a miss-status entry; the sectors that waited for one take it (R248). -/
def State.freeMiss (s : State) (cluster sector : Nat) : State :=
  State.takeMisses { s with misses := s.misses.filter fun m => decide (m ≠ (cluster, sector)) } cluster

-- ---------------------------------------------------------------- reads, atomics, waits

/-- A loaded value in register words: signed sizes extended, others zero-extended (R65, R290). -/
def loadWords (sx : Bool) (size v : Nat) : List Nat :=
  if size ≤ 4 then [if sx then wrap (sext v (8 * size)) 32 else v] else wordsOf (size / 4) v

/-- The new value of ATOM (R294). -/
def atomNew (op w old x : Nat) : Nat :=
  match op with
  | 0 => (old + x) % 2 ^ w
  | 1 => old &&& x
  | 2 => old ||| x
  | 3 => old ^^^ x
  | 4 => minMax w true false old x
  | 5 => minMax w true true old x
  | 6 => minMax w false false old x
  | 7 => minMax w false true old x
  | 8 => x
  | _ => if w = 32 then (fadd .f32 0 (decodeFloat .f32 old) (decodeFloat .f32 x)).1
         else (fadd .f64 0 (decodeFloat .f64 old) (decodeFloat .f64 x)).1

/-- Writes scratchpad bytes: their poison clears where a granule is covered whole (R260), and the waiters they release (R299). -/
def State.scratchWrite (s : State) (t : TeamId) (off n v mask : Nat) : State :=
  let s := s.updTeam t fun x => { x with
    scratch := memWriteMask x.scratch off n v mask,
    poison := if mask = 2 ^ n - 1 then clearWhole x.poison off n 32 else x.poison }
  s.releaseWaiters (s.waiters.filter fun w => decide (w.space = .s) && decide (w.team = t) && s.alters w false (writtenAt off v mask))

/-- Performs the write of an atomic at its place (R265, R268). -/
def State.atomicWrite (s : State) (o : Op) (a : Access) (v : Nat) : State :=
  let pa := a.pa.getD 0
  match a.space with
  | .s => s.scratchWrite o.thr.teamId a.va a.size v a.mask
  | _ =>
    if a.scope.wide then
      ((({ s with home := memWriteMask s.home pa a.size v a.mask, homePoison := clearWhole s.homePoison pa a.size 64 }.touchFor
        o.thr pa a.cp).l1Drop (clusterOf o.core) pa a.size).checkHomeWaiters none (writtenAt pa v a.mask))
    else (s.l1Write o.thr.ctx (clusterOf o.core) pa a.size v a.mask 0 0).checkL1Waiters (clusterOf o.core) (fun _ => true) true
      (writtenAt pa v a.mask)

/-- Steps 1 and 2 of R267 and the write-back of a .sy release, before an access is performed. -/
def State.beforePerform (s : State) (o : Op) (a : Access) : State :=
  let s := if a.isWide then s.pushSector (clusterOf o.core) (a.pa.getD 0) else s
  if a.rel && decide (a.scope = .sy) then s.flushL1 (clusterOf o.core) else s

/-- The invalidation of a .sy acquire, once its read is bound (R275). -/
def State.afterAcquire (s : State) (o : Op) (a : Access) : State :=
  if a.acq && decide (a.scope = .sy) then s.invalidateL1 (clusterOf o.core) else s

/-- Binds a load (R266, R268, R275), or finds its data uncorrectable (R261). -/
def State.bindLoad (s : State) (o : Op) (a : Access) (sx : Bool) : State :=
  let s0 := if a.isWide then s.pushSector (clusterOf o.core) (a.pa.getD 0) else s
  let pa := a.pa.getD 0
  let atHome := a.isWide || (decide (a.space = .g) && decide (a.cp = 3) && ! s.l1Has (clusterOf o.core) (pa / 64) (byteMask (pa % 64) a.size))
  match s0.viewBytes o a a.size with
  | none => s
  | some l =>
    if l.any ByteView.poison then s.accessFault o a clsPoison
    else
      let (sj, ok) := if atHome then (s0.touchFor o.thr pa a.cp).journalRead o.thr.gridId pa else (s0, true)
      if ! ok then sj
      else
        let s1 := (sj.updOp o.id fun x => { x with stage := .bound, vals := loadWords sx a.size (viewValue l) }).observe o.thr l
        s1.afterAcquire o a

/-- The constant caches with room for one more sector of 64 bytes in a core's 64 KiB (R241): at 1,024 its oldest goes. Which one goes, the spec
does not say (DESIGN CHOICE, log 41). -/
def constRoom (core : Nat) (l : List ConstSector) : List ConstSector :=
  if 1024 ≤ (l.filter fun x => decide (x.core = core)).length then l.eraseP fun x => decide (x.core = core) else l

/-- A load of the constant window (R251): from the core's constant cache, or the sector is fetched there first, once it is translated. -/
def State.bindConst (s : State) (o : Op) (a : Access) (sx : Bool) : State :=
  match s.constSector? o.core o.thr.gridId (a.va / 64) with
  | some c => s.updOp o.id fun x =>
      { x with stage := .bound, vals := loadWords sx a.size (c.data.toNat / 256 ^ (a.va % 64) % 256 ^ a.size) }
  | none =>
    let pa := a.pa.getD 0 / 64 * 64
    if a.pa = none then s.updOp o.id fun x => { x with stage := .walk }
    else if s.homePoison.contains (pa / 64) then s.accessFault o a clsPoison
    else
      let (s, ok) := s.journalRead o.thr.gridId pa
      if ! ok then s
      else
        let s := s.touchFor o.thr pa 0
        { s with consts := constRoom o.core s.consts ++ [⟨o.core, o.thr.gridId, a.va / 64, BitVec.ofNat 512 (memRead s.home pa 64)⟩] }

/-- A refill reaches its link slot (R189). -/
def State.finishRefill (s : State) (o : Op) (v : Nat) : State :=
  (s.updThread o.thr fun t => { t with ls := t.ls.map fun l => match l with
    | .refill op va => if op = o.id then .pc (BitVec.ofNat 64 v) else .refill op va
    | l => l }).completeOp o

/-- Binds a refill (R189). -/
def State.bindRefill (s : State) (o : Op) (a : Access) : State :=
  match s.viewBytes o a a.size with
  | none => s
  | some l => if l.any ByteView.poison then s.accessFault o a clsPoison else (s.observe o.thr l).finishRefill o (viewValue l)

/-- Whether any granule of n bytes of a team's region is cairn-tagged (R246). -/
def State.tagged (s : State) (t : TeamId) (off n : Nat) : Bool :=
  match s.team? t with
  | some tm => (unitsOf off n 32).any fun g => tm.tags.contains g
  | none => false

/-- A store or atomic that meets, as it is performed, a granule that was tagged after it issued: it writes nothing, and its thread takes the
trap at its next word (R246; DESIGN CHOICE, log 42). -/
def State.clobbered (s : State) (o : Op) (a : Access) : State := (s.completeOp o).raiseLate o clsClobber 0 a.va 0 0

/-- Performs ATOM or ATOMC as one indivisible step (R269, R294, R295). -/
def State.performAtomic (s : State) (o : Op) (a : Access) : State :=
  let s0 := s.beforePerform o a
  let pa := a.pa.getD 0
  let old : Nat := match a.space with
    | .s => (match s0.team? o.thr.teamId with
      | some tm => memRead tm.scratch a.va a.size
      | none => 0)
    | _ => if a.scope.wide then memRead s0.home pa a.size
      else match s0.l1Sector? (clusterOf o.core) (pa / 64) with
        | some x => x.data.toNat / 256 ^ (pa % 64) % 256 ^ a.size
        | none => 0
  let poison : Bool := match a.space with
    | .s => (match s0.team? o.thr.teamId with
      | some tm => tm.poison.contains (a.va / 32)
      | none => false)
    | _ => if a.scope.wide then s0.homePoison.contains (pa / 64)
      else match s0.l1Sector? (clusterOf o.core) (pa / 64) with
        | some x => x.poison
        | none => false
  let tagged : Bool := decide (a.space = .s) && s0.tagged o.thr.teamId a.va a.size
  let (s0, ok) := if a.isWide && ! poison then (s0.touchFor o.thr pa a.cp).journalRead o.thr.gridId pa else (s0, true)
  if poison then s.accessFault o a clsPoison
  else if tagged then s.clobbered o a
  else if ! ok then s0
  else
    let (new, writes) := match a.kind with
      | .cas => (a.data2, decide (old = a.data))
      | .atom op => (atomNew op (8 * a.size) old a.data, true)
      | _ => (0, false)
    let s1 := if writes then s0.atomicWrite o a new else s0
    (s1.updOp o.id fun x => { x with stage := .bound, vals := wordsOf (a.size / 4) old }).afterAcquire o a

/-- The waiter a WAITA arms (R298). -/
def waiterOf (o : Op) (a : Access) (expect armed : Nat) : Waiter :=
  { cluster := clusterOf o.core, thr := o.thr, space := a.space, scope := a.scope, team := o.thr.teamId,
    addr := if a.space = .g then a.pa.getD 0 else a.va, va := a.va, size := a.size, expect := expect, armed := armed }

/-- Arms a waiter; a full park table first releases its earliest entry spuriously (R301). -/
def State.arm (s : State) (w : Waiter) : State :=
  let mine := s.waiters.filter fun x => decide (x.cluster = w.cluster)
  let first := leastBy (fun x y => decide (x.armed < y.armed) || (decide (x.armed = y.armed) && x.thr.before y.thr)) mine
  let s := if 1024 ≤ mine.length then (match first with
    | some x => s.releaseWaiters [x]
    | none => s) else s
  { s with waiters := s.waiters ++ [w] }

/-- WAITA's comparison (R298): an equal value arms the waiter and parks the thread at its next word. -/
def State.performWait (s : State) (o : Op) (a : Access) (expect : Nat) : State :=
  let pa := a.pa.getD 0
  let s0 := if a.isWide then (s.pushSector (clusterOf o.core) pa).touchFor o.thr pa 0 else s
  match s0.viewBytes o a a.size with
  | none => s
  | some l =>
    if l.any ByteView.poison then s.accessFault o a clsPoison
    else
      let s1 := (s0.observe o.thr l).dropOp o.id
      if viewValue l ≠ expect then s1
      else
        let s2 := s1.arm (waiterOf o a expect (s.now o.core))
        s2.updThread o.thr fun t => if t.st = .exited then t else
          { t with st := .parked .watch, bundle := none, promoted := false }

/-- WAKEA (R300): releases the earliest waiters of its granule that are in scope and armed at its place, and returns their number. -/
def State.performWake (s : State) (o : Op) (a : Access) (n : Nat) : State :=
  let addr := if a.space = .g then a.pa.getD 0 else a.va
  let place (w : Waiter) : Bool := decide (w.space = a.space) && decide (w.addr / 64 = addr / 64) &&
    (match a.space with
     | .s => decide (w.team = o.thr.teamId)
     | _ => if a.scope.wide then w.atHome else ! w.atHome && decide (w.cluster = clusterOf o.core)) &&
    (decide (a.scope ≠ .tm ∧ a.scope ≠ .th) || decide (w.team = o.thr.teamId)) &&
    (decide (w.scope ≠ .tm ∧ w.scope ≠ .th) || decide (w.team = o.thr.teamId)) &&
    (decide (a.scope ≠ .th) || decide (w.thr = o.thr)) && (decide (w.scope ≠ .th) || decide (w.thr = o.thr))
  let ws := sortBy (fun x y => decide (x.armed < y.armed) || (decide (x.armed = y.armed) && threadInOrder x.thr y.thr)) (s.waiters.filter place)
  let chosen := ws.take n
  (s.releaseWaiters chosen).updOp o.id fun x => { x with stage := .bound, vals := [chosen.length] }

/-- The pinned lines of the set a line falls in (R252, R254). -/
def State.pinsInSet (s : State) (line : Nat) : Nat := (s.slices.filter fun x => x.pinned && sameSliceSet x.line line).length

/-- Sets the pin bit of a line that its slice holds (R254). -/
def State.setPin (s : State) (line : Nat) (b : Bool) : State :=
  { s with slices := s.slices.map fun x => if x.line = line then { x with pinned := b } else x }

/-- Brings a line into the effective ways of a group to be pinned there (R254): one that lies in another way moves. -/
def State.pinPlace (s : State) (line group : Nat) : State :=
  let ways := s.effWays group
  let s1 : State := { s with slices := s.slices.filter fun x => decide (x.line ≠ line) || bitAt ways x.way }
  s1.sliceTouch (line * 256) group 0

/-- PIN and UNPIN (R254, R304): status as bound result. PIN makes the line resident; one that finds every effective way of its group pinned
takes no pin, as where the group has no way (DESIGN CHOICE, log 41). -/
def State.performPin (s : State) (o : Op) (a : Access) (group : Nat) : State :=
  let line := a.pa.getD 0 / 256
  let pinned := s.slices.any fun x => decide (x.line = line) && x.pinned
  let resident (t : State) : Bool := t.slices.any fun x => decide (x.line = line)
  let (s1, st) : State × Nat := match a.kind with
    | .pin =>
      let t := s.pinPlace line group
      if pinned then (s, 1)
      else if 8 ≤ s.pinsInSet line ∨ s.effWays group = 0 ∨ ! resident t then (s, 2)
      else (t.setPin line true, 0)
    | _ => if pinned then (s.setPin line false, 0) else (s, 3)
  s1.updOp o.id fun x => { x with stage := .bound, vals := [st] }

/-- CFLUSH and CINV (R303): write the line's dirty bytes back; CINV then invalidates it. -/
def State.performFlush (s : State) (o : Op) (a : Access) (inv : Bool) : State :=
  let p (x : L1Sector) : Bool := decide (x.cluster = clusterOf o.core) && decide (x.sector / 4 = a.pa.getD 0 / 256)
  let s1 := s.writeBack p
  let s2 := if inv then { s1 with l1 := s1.l1.filter fun x => ! p x } else s1
  s2.completeOp o

/-- FENCE completes when every earlier access and observed write allows (R277, R297); at .sy it also writes back and invalidates. -/
def State.performFence (s : State) (o : Op) (sc : Scope) : State :=
  if s.olderComplete o.thr o.pos && (decide (sc = .th) || s.observedDone o.thr) then
    let s1 := if sc = .sy then (s.flushL1 (clusterOf o.core)).invalidateL1 (clusterOf o.core) else s
    s1.dropOp o.id
  else s

/-- Whether a read of scratchpad, issued while its line was present, would meet bytes that a copy has delivered into the line since, before
the line is present again (R244). -/
def State.readsAbsent (s : State) (o : Op) (a : Access) : Bool :=
  decide (a.space = .s) && (match s.team? o.thr.teamId with
    | some tm => tm.lines.any fun c => decide (c.line = a.va / 128) && c.fed
    | none => false)

/-- Whether the frozen latency of an operation has passed by a cycle (R115): a load of its own die's weight store has had its core's turn by
then (R256). -/
def Op.dueBy (o : Op) (now : Nat) : Bool := match o.due with
  | some c => decide (c ≤ now)
  | none => false

/-- Whether a read of the weight store meets a bank in refresh (R255). -/
def State.bankRefreshes (s : State) (a : Access) : Bool :=
  decide (a.space = .w) && decide (refreshBank (nth s.refresh (weightDie a.va) 0) = weightBank a.va)

/-- Whether an atomic may be performed (R249, R267, R269, R271, R272, R274). -/
def State.atomicReady (s : State) (o : Op) (a : Access) : Bool :=
  let pa := a.pa.getD 0
  s.stepClosed o && ! s.mergeWaits o a && ! s.writeHeld o a (fun _ => false) && s.releaseReady o a && ! s.needsFill o a &&
    (if a.isWide then ! s.pathBusy o a.va pa else decide (a.space = .s) || ! s.coreOverlap o.core pa a.size)

/-- An access acts at its place, if its order allows: reads bind, atomics perform, waits compare. None acts before the read of an older
acquire of its thread is bound (R275). -/
def State.actAccess (s : State) (o : Op) (a : Access) : State :=
  if s.acquireHolds o || s.readsAbsent o a then s
  else match a.kind with
  | .load sx =>
    if a.space = .k then s.bindConst o a sx
    else if (a.space = .w ∧ weightDie a.va = dieOf o.core ∧ ! o.dueBy (s.now o.core)) ∨ s.bankRefreshes a then s
    else if s.readHeld o a || (a.isWide && s.pathBusy o a.va (a.pa.getD 0)) || s.needsFill o a then s else s.bindLoad o a sx
  | .refill => if s.readHeld o a then s else s.bindRefill o a
  | .atom _ | .cas => if s.atomicReady o a then s.performAtomic o a else s
  | .wait e => if s.readHeld o a || (a.isWide && s.pathBusy o a.va (a.pa.getD 0)) then s else s.performWait o a e
  | .wake n => s.performWake o a n
  | .pin | .unpin => s.performPin o a (s.wayGroup o.thr.ctx)
  | .flush => s.performFlush o a false
  | .inv => s.performFlush o a true
  | .store | .spill => s

/-- A .nol1 load binds as its missing bytes arrive from the home slice, if its order allows (R248, R250). -/
def State.bindNol1 (s : State) (o : Op) (a : Access) : State :=
  match a.kind with
  | .load sx => if s.acquireHolds o || s.readHeld o a then s else s.bindLoad o a sx
  | _ => s

/-- L1_FILL (R248, R290): the sector is fetched for the accesses of the cluster that miss it and its miss-status entry is free again; `victim`
picks the line that makes room. A sector without an entry waits for one. What is fetched for .nol1 loads alone is not allocated: they bind what
the L1 holds and the fetched rest, and one whose order does not allow it yet keeps the entry (R250). The read is journalled for every grid that
takes part (R490). -/
def execL1Fill (s0 : State) : Host.Outcome State Fault Refusal :=
  let cluster := s0.arg 0
  let sector := s0.arg 1
  let victim := s0.arg 2
  let s := s0.takeMisses cluster
  if ! s.misses.contains (cluster, sector) then .next s
  else
    let wants := s.ops.filterMap fun o => if clusterOf o.core ≠ cluster then none
      else (o.access.filter fun a => s.needsFill o a && decide (a.pa.getD 0 / 64 = sector)).map fun a => (o, a)
    let placed := wants.filter fun p => decide (p.2.cp ≠ 3) || p.2.kind.atomic
    match wants.head?, placed.head? with
    | none, _ => .next (s.freeMiss cluster sector)
    | some _, some (o, a) =>
      let cp := if a.kind.atomic then 0 else a.cp
      let (s, ok) := s.journalReads (wants.map fun p => p.1.thr.gridId).dedup (sector * 64)
      .next (if ok then ((s.touchFor o.thr (sector * 64) cp).l1Fill cluster sector cp victim).freeMiss cluster sector else s)
    | some _, none =>
      let s1 := wants.foldl (fun s p => s.bindNol1 p.1 p.2) s
      let left := wants.any fun p => match s1.op? p.1.id with
        | some x => decide (x.stage = .ready)
        | none => false
      .next (if left then s1 else s1.freeMiss cluster sector)

-- ---------------------------------------------------------------- the events

/-- A floating-point result that traps (R75, R167): its flags are raised, its destination keeps its value, and the thread parks at the
instruction with its hints latched again; one that is parked on a record already stays where it is and is parked on this one too (R510;
DEDUCED, log 30). -/
def State.floatTrap (s : State) (o : Op) : State :=
  let s := s.dropOp o.id
  let parked := match s.thread? o.thr with
    | some t => ! t.openParks.isEmpty
    | none => false
  if o.late || parked then s.raiseLate o clsFloat (floatDetail o.flags o.rc) 0 (valOfWords o.vals) 0
  else
    let s := s.updThread o.thr fun t => if t.st = .exited then t else { t with pc := o.pc, latch := o.latch }
    match s.thread? o.thr with
    | some t =>
      let opnd := match o.image with
        | some i => i % 2 ^ 320
        | none => opndOf o.opnd 0
      if t.st = .exited then s.raiseLate o clsFloat (floatDetail o.flags o.rc) 0 0 0
      else s.parkOn t (s.threadRecord t clsFloat o.pc o.word o.latch (floatDetail o.flags o.rc) 0 (some opnd))
    | none => s

/-- A computed result completes (R75, R129, R163, R166): flags are ORed in, then the writes are applied or discarded, or it traps. -/
def State.finishResult (s : State) (o : Op) : State :=
  let s := if o.flags = 0 then s else s.updThread o.thr fun t => t.orFps o.flags
  if traps o.flags o.en then s.floatTrap o else s.writeBackResult o

/-- Whether an operation's time has come: its frozen latency has passed (R115, R116). -/
def State.isDue (s : State) (o : Op) : Bool :=
  match o.due with
  | some c => decide (c ≤ s.now o.core)
  | none => true

/-- The .sy release of a LAUNCH that enqueued nothing completes: the cluster's dirty bytes are written back (R274, R351). -/
def State.performRelease (s : State) (o : Op) : State :=
  if s.olderComplete o.thr o.pos && s.observedDone o.thr then (s.flushL1 (clusterOf o.core)).dropOp o.id else s

/-- RESULT_WRITE (R129): the operation moves one stage: a read binds, a result is applied or discarded by program order, a fence
completes. An operation whose time or order has not come stays where it is. -/
def execResultWrite (s : State) : Host.Outcome State Fault Refusal :=
  let op := s.arg 0
  match s.op? op with
  | none => .next s
  | some o => match o.body with
    | .result | .collective _ => .next (if s.isDue o && decide (o.stage = .issued) then s.finishResult o else s)
    | .fence sc => .next (s.performFence o sc)
    | .release => .next (s.performRelease o)
    | .mem a =>
      if o.stage = .ready then .next (s.actAccess o a)
      else if o.stage = .bound then .next (if s.isDue o then s.writeBackResult o else s)
      else .next s
    | .reply | .island _ | .push _ _ _ | .eret _ _ => .next s

/-- TABLE_WALK (R413) for an access of a thread. -/
def State.walkOp (s : State) (op : Nat) : State :=
  match s.op? op with
  | none => s
  | some o => match o.body with
    | .mem a => if o.stage = .walk ∨ o.stage = .waiting then s.walkAccess o a else s
    | _ => s

/-- Older core-stage stores of the core to the same bytes, which must reach the L1 first (R271). -/
def State.pathOlder (s : State) (o : Op) (a : Access) : Bool :=
  (s.ops.takeWhile fun x => decide (x.id ≠ o.id)).any fun x => decide (x.core = o.core) && decide (x.stage = .core) &&
    (match x.access with
     | some b => b.overlaps a
     | none => false)

/-- A store's bytes are written at the home slice and dropped from the L1 of its cluster (R250, R265). -/
def State.storeHome (s : State) (o : Op) (a : Access) : State :=
  let pa := a.pa.getD 0
  let marks := if a.mask = 2 ^ a.size - 1 then clearWhole s.homePoison pa a.size 64 else s.homePoison
  (({ s with home := memWriteMask s.home pa a.size a.data a.mask, homePoison := marks }.touchFor o.thr pa a.cp).l1Drop
    (clusterOf o.core) pa a.size).checkHomeWaiters none (writtenAt pa a.data a.mask)

/-- A store reaches the L1 of its cluster and is complete (R247, R250, R265, R280), also a call-stack spill, which lies in global memory (R46,
R189; DESIGN CHOICE, log 23). One all of whose bytes went to a higher thread's store of its merge step is complete (R249). -/
def State.reachL1 (s : State) (o : Op) (a : Access) (victim : Nat) : State :=
  let pa := a.pa.getD 0
  if s.pathOlder o a then s
  else if a.mask = 0 then s.completeOp o
  else if a.cp = 3 then
    (s.storeHome o a).completeOp o
  else ((s.l1Write o.thr.ctx (clusterOf o.core) pa a.size a.data a.mask a.cp victim).checkL1Waiters (clusterOf o.core)
    (fun c => decide (c ≠ o.core)) true (writtenAt pa a.data a.mask)).completeOp o

/-- Whether a store of a merge step may be performed (R267, R271, R272, R274): older stores of its thread to its bytes have left the path, and
where it does not go to an L1, are complete. -/
def State.storeReady (s : State) (o : Op) (a : Access) : Bool :=
  let past (x : Op) : Bool := decide (a.space = .g) && ! a.scope.wide && decide (x.stage = .core)
  decide (o.stage = .ready) && ! s.writeHeld o a past && s.releaseReady o a && ! (a.isWide && s.pathBusy o a.va (a.pa.getD 0))

/-- One store is performed (R265, R268): in the scratchpad at the single copy of its line (R246); at .dv or .sy at the home slice, for every
thread and agent at once; else it leaves its core's store path, so that the other threads of the core can read it. -/
def State.performStore (s : State) (o : Op) (a : Access) : State :=
  if a.space = .s then
    if s.tagged o.thr.teamId a.va a.size then s.clobbered o a
    else (s.scratchWrite o.thr.teamId a.va a.size a.data a.mask).completeOp o
  else if a.scope.wide then
    if a.mask = 0 then (s.beforePerform o a).completeOp o else ((s.beforePerform o a).storeHome o a).completeOp o
  else
    let s1 := s.dropOp o.id
    ({ s1 with ops := s1.ops ++ [{ o with stage := .core, body := .mem a }] }).checkL1Waiters (clusterOf o.core) (fun c => decide (c = o.core))
      false (writtenAt (a.pa.getD 0) a.data a.mask)

/-- Stores of a merge step that share bytes are performed together, in the order of their threads: each byte is written by the highest (R249). -/
def State.performStores (s : State) : List (Op × Access) → State
  | [] => s
  | (o, a) :: rest => (s.performStore o (rest.foldl (fun m p => { m with mask := loseBytes m p.2 }) a)).performStores rest

/-- A store leaves the store path with those of its merge step that share its bytes, when all of them may (R249); where an atomic is among
them, alone. -/
def State.leavePath (s : State) (o : Op) (a : Access) : State :=
  let g := s.mergeGroup o a
  let mine := if g.any fun p => p.2.kind.atomic then [(o, a)] else g
  if ! s.stepClosed o || s.mergeWaits o a || ! mine.all (fun p => s.storeReady p.1 p.2) then s
  else s.performStores mine

/-- STORE_PERFORMED (R265): the store moves one stage on its way: out of the store path, to the home slice or into the scratchpad; into the L1;
`victim` picks the line that makes room. -/
def execStorePerformed (s : State) : Host.Outcome State Fault Refusal :=
  let op := s.arg 0
  let victim := s.arg 1
  match s.op? op with
  | none => .next s
  | some o => match o.body with
    | .mem a =>
      if ! a.kind.stores then .next s
      else if o.stage = .ready then .next (s.leavePath o a)
      else if o.stage = .core then .next (s.reachL1 o a victim)
      else .next s
    | _ => .next s

end Machine
end Sys2Proof
end

