-- ==== Sys2Proof/Machine/MemInstr.lean ====
section
/-! DEFINITION. Loads, stores, atomics, fences, waits on an address, and the cache and pin instructions (R289 to R304): the checks at
issue and the access each starts. -/

namespace Sys2Proof
namespace Machine

/-- The scope of an access from its scope field, its default and the widest the space can use (R263). -/
def scopeOf (space : Space) (dflt : Scope) (code : Nat) : Scope :=
  let s := (Scope.ofCode code).getD dflt
  if space = .s ∧ s.code > 3 then .cl else s

/-- An access with nothing special. -/
def plainAccess (kind : AccKind) (space : Space) (va size : Nat) (scope : Scope) : Access :=
  { kind := kind, space := space, va := va, size := size, scope := scope, acq := false, rel := false, cp := 0, pa := none,
    mask := 2 ^ size - 1, data := 0, data2 := 0 }

/-- Registers of a data operand of a size (R289). -/
def dataShape (d size : Nat) : Src := ⟨d, if size ≤ 4 then 1 else size / 4⟩

/-- Registers of an address operand (R239). -/
def addrShape (space : Space) (a : Nat) : Src := ⟨a, if space = .g then 2 else 1⟩

/-- The trap an address takes against its alignment and its space (R239, R240); none when it is valid. -/
def rangeTrap (scr : Nat) (space : Space) (ea size : Nat) : Option Nat :=
  if ea % size ≠ 0 then some clsMisaligned
  else match space with
    | .g => none
    | .s => if scr * 4096 ≤ ea then some clsScratchRange else none
    | .k => if 65535 < ea then some clsConstRange else none
    | .w => if 2 ^ 31 ≤ ea then some clsWeightRange else none

/-- SCR of a team's region (R46): 0 for a relaunch team, which `placeBatch` places with no region (R355). -/
def State.scrOf (s : State) (t : TeamId) : Nat :=
  match s.team? t with
  | some x => x.scr
  | none => 0

/-- Whether a scratchpad line of a team is absent (R244). -/
def State.lineAbsent (s : State) (t : TeamId) (line : Nat) : Bool :=
  match s.team? t with
  | some x => x.lines.any fun c => decide (c.line = line)
  | none => false

/-- Whether every byte of a load is valid in its cluster's L1 and its translation comes from the last-page register or the level-1 TLB:
an L1 hit (R116). -/
def State.l1Hit (s : State) (x : Args) (va size : Nat) : Bool :=
  match s.cachedPa x.core x.t.id.ctx va x.t.lastPage true false false with
  | some (pa, _, level) => decide (level ≤ 1) && s.l1Has (clusterOf x.core) (pa / 64) (byteMask (pa % 64) size)
  | none => false

/-- Whether a load of the weight store would be a third line outstanding to its bank from its core (R256). -/
def State.weightBlocked (s : State) (core ea : Nat) : Bool :=
  let lines := s.weightLines core (weightBank ea)
  decide (weightDie ea = dieOf core) && ! lines.contains (ea / 256) && decide (2 ≤ lines.length)

/-- The frozen latency of a load, when it has one (R116, R291). -/
def State.loadDue (s : State) (x : Args) (space : Space) (ea size : Nat) (wide : Bool) (cp : Nat) : Option Nat :=
  match space with
  | .g => if s.l1Hit x ea size && ! wide && decide (cp ≠ 3) then some (x.now + 60) else none
  | .s => match s.team? x.t.id.teamId with
    | some tm => some (x.now + (if tm.coreOfOffset ea = x.core then 24 else 40))
    | none => some (x.now + 24)
  | .k => if (s.constSector? x.core x.t.id.gridId (ea / 64)).isSome then some (x.now + 16) else none
  | .w => if weightDie ea = dieOf x.core ∧ refreshBank (nth s.refresh (dieOf x.core) 0) ≠ weightBank ea then some (x.now + 90) else none

/-- The hints a load or store accepts (R103, R291). -/
def ldstHints (space : Space) (store : Bool) : Hints :=
  match space with
  | .g | .s => { imm := 2, scope := true, cp := true, sem := if store then [2] else [1], ldt := store }
  | _ => { imm := 2, cp := true }

/-- Effective address of an access (R239, R290). -/
def effAddr (space : Space) (base : Nat) (off : Int) : Nat := wrap ((base : Int) + off) (if space = .g then 64 else 32)

/-- A load (R290): guard g with sense gs, data register d, address register a. -/
def loadWord (space : Space) (sx : Bool) (size d a : Nat) (l : Bool) (g : Nat) (gs : Bool) (off : List Word → Int) (s : State) :
    Host.Outcome State Fault Refusal :=
  let sa := addrShape space a
  let sd := dataShape d size
  issue s (fun _ => { srcs := [sa], dests := sd.regs, preds := [g], kills := killIf l sa, hints := ldstHints space false,
                      absent := decide (space = .w) && ! s.hasWeights })
    fun x s1 =>
      if x.t.pred g = gs then .ok s1
      else
        let ea := effAddr space (nth x.vals 0 0) (off x.t.latch)
        match rangeTrap (s.scrOf x.t.id.teamId) space ea size with
        | some cls => .trap cls 0 ea
        | none =>
          if space = .s ∧ s.lineAbsent x.t.id.teamId (ea / 128) then .hold (.parked (.absentLine (ea / 128)))
          else if space = .w ∧ s.weightBlocked x.core ea then .hold .blocked
          else
            let sc := scopeOf space (if space = .s then .tm else .cl) (modScope x.t.latch)
            let acc := { plainAccess (.load sx) space ea size sc with
              acq := decide (modSem x.t.latch = 1), cp := if space = .g then modCp x.t.latch else 0 }
            .ok (s1.startAccess x acc (some (if space = .w then .ws else .ld)) sd.regs
              (s.loadDue x space ea size sc.wide acc.cp))

/-- A store (R290). -/
def storeWord (space : Space) (size d a : Nat) (l : Bool) (g : Nat) (gs : Bool) (off : List Word → Int) (s : State) :
    Host.Outcome State Fault Refusal :=
  let sa := addrShape space a
  let sd := dataShape d size
  issue s (fun t => { srcs := [sa, sd], recs := 1, preds := [g], hints := ldstHints space true,
                      kills := killIf l sa ++ killIf (liveLdt t.latch) sd })
    fun x s1 =>
      if x.t.pred g = gs then .ok s1
      else
        let ea := effAddr space (nth x.vals 0 0) (off x.t.latch)
        match rangeTrap (s.scrOf x.t.id.teamId) space ea size with
        | some cls => .trap cls 0 ea
        | none =>
          if space = .s ∧ s.tagged x.t.id.teamId ea size then .trap clsClobber 0 ea
          else
            let sc := scopeOf space (if space = .s then .tm else .cl) (modScope x.t.latch)
            let acc := { plainAccess .store space ea size sc with
              rel := decide (modSem x.t.latch = 2), cp := if space = .g then modCp x.t.latch else 0,
              data := nth x.vals 1 0 % 256 ^ size }
            .ok (s1.startAccess x acc (some .st) [] none)

/-- LD.g.b32 (R289, R290). -/
def execLdGB32 (d a : Nat) (l : Bool) (g : Nat) (gs : Bool) (o : Nat) (s : State) : Host.Outcome State Fault Refusal :=
  loadWord .g false 4 d a l g gs (fun h => memOffset h o 4) s

/-- ST.g.b32 (R289, R290). -/
def execStGB32 (d a : Nat) (l : Bool) (g : Nat) (gs : Bool) (o : Nat) (s : State) : Host.Outcome State Fault Refusal :=
  storeWord .g 4 d a l g gs (fun h => memOffset h o 4) s

/-- LD.g.b64 (R289, R290). -/
def execLdGB64 (d a : Nat) (l : Bool) (g : Nat) (gs : Bool) (o : Nat) (s : State) : Host.Outcome State Fault Refusal :=
  loadWord .g false 8 d a l g gs (fun h => memOffset h o 8) s

/-- ST.g.b64 (R289, R290). -/
def execStGB64 (d a : Nat) (l : Bool) (g : Nat) (gs : Bool) (o : Nat) (s : State) : Host.Outcome State Fault Refusal :=
  storeWord .g 8 d a l g gs (fun h => memOffset h o 8) s

/-- LD.s.b32 (R289, R290). -/
def execLdSB32 (d a : Nat) (l : Bool) (g : Nat) (gs : Bool) (o : Nat) (s : State) : Host.Outcome State Fault Refusal :=
  loadWord .s false 4 d a l g gs (fun h => memOffset h o 4) s

/-- ST.s.b32 (R289, R290). -/
def execStSB32 (d a : Nat) (l : Bool) (g : Nat) (gs : Bool) (o : Nat) (s : State) : Host.Outcome State Fault Refusal :=
  storeWord .s 4 d a l g gs (fun h => memOffset h o 4) s

/-- The space of a code of R111. -/
def Space.ofCode : Nat → Space
  | 0 => .g | 1 => .s | 2 => .k | _ => .w

/-- The size in bytes of an SZ code (R111). -/
def sizeOfCode : Nat → Nat
  | 0 => 1 | 1 => 2 | 2 => 4 | 3 => 8 | 4 => 16 | 5 => 1 | _ => 2

/-- LD of every size and space, major 0x36 (R111, R290): gs the sense, g the guard, p the space, z the size. -/
def execLdGeneral (d a : Nat) (l gs : Bool) (g p z : Nat) (s : State) : Host.Outcome State Fault Refusal :=
  loadWord (Space.ofCode p) (decide (5 ≤ z)) (sizeOfCode z) d a l g gs (fun h => memOffsetGeneral h (sizeOfCode z)) s

/-- ST of every size and space, major 0x36 (R111, R290). -/
def execStGeneral (d a : Nat) (l gs : Bool) (g p z : Nat) (s : State) : Host.Outcome State Fault Refusal :=
  storeWord (Space.ofCode p) (sizeOfCode z) d a l g gs (fun h => memOffsetGeneral h (sizeOfCode z)) s

/-- The space bit of major 0x37 (R293). -/
def atomSpace (p : Bool) : Space := if p then .s else .g

/-- The scope of a word of major 0x37 (R263, R293). -/
def atomScope (p : Bool) (code : Nat) : Scope := scopeOf (atomSpace p) (if p then .tm else .dv) code

/-- Whether an atomic is at a scope wider than team (R51). -/
def widerThanTeam (sc : Scope) : Bool := decide (3 ≤ sc.code)

/-- The scope an atomic names, before the widest of its space is applied (R51, R263). -/
def namedScope (p : Bool) (code : Nat) : Scope := (Scope.ofCode code).getD (if p then .tm else .dv)

/-- ATOM and ATOMC (R293 to R296): n data registers from d, of which the first `outs` receive the old value. -/
def atomWord (kind : AccKind) (d n outs a : Nat) (l p w : Bool) (sv : Nat) (s : State) : Host.Outcome State Fault Refusal :=
  let space := atomSpace p
  let sa := addrShape space a
  let sd : Src := ⟨d, n⟩
  let size := if w then 8 else 4
  let sc := atomScope p sv
  issue s (fun t => { srcs := [sa, sd], recs := 1, dests := (⟨d, outs⟩ : Src).regs, kills := killIf l sa ++ killIf (liveLdt t.latch) sd,
                      hints := { cp := true, sem := [1, 2, 3], ldt := true }, cross := widerThanTeam (namedScope p sv) })
    fun x s1 =>
      let ea := effAddr space (nth x.vals 0 0) 0
      match rangeTrap (s.scrOf x.t.id.teamId) space ea size with
      | some cls => .trap cls 0 ea
      | none =>
        if space = .s ∧ s.tagged x.t.id.teamId ea size then .trap clsClobber 0 ea
        else if space = .s ∧ s.lineAbsent x.t.id.teamId (ea / 128) then .hold (.parked (.absentLine (ea / 128)))
        else
          let v := nth x.vals 1 0
          let sem := modSem x.t.latch
          let acc := { plainAccess kind space ea size sc with
            acq := decide (sem % 2 = 1), rel := decide (2 ≤ sem), cp := if space = .g ∧ sc.wide then modCp x.t.latch else 0,
            data := v % 256 ^ size, data2 := if kind = .cas then v / 256 ^ size else 0 }
          let due := if space = .g ∧ (sc = .tm ∨ sc = .cl) ∧ s.l1Hit x ea size then some (x.now + 72) else none
          .ok (s1.startAccess x acc (some .ld) (⟨d, outs⟩ : Src).regs due)

/-- ATOM (R294): p the space, w the width, o the operation, sv the scope. -/
def execAtom (d a : Nat) (l p w : Bool) (o sv : Nat) (s : State) : Host.Outcome State Fault Refusal :=
  atomWord (.atom o) d (if w then 2 else 1) (if w then 2 else 1) a l p w sv s

/-- ATOMC (R295). -/
def execAtomc (d a : Nat) (l p w : Bool) (sv : Nat) (s : State) : Host.Outcome State Fault Refusal :=
  atomWord .cas d (if w then 4 else 2) (if w then 2 else 1) a l p w sv s

/-- FENCE (R277, R297): it issues, and holds every later word of the thread until it completes. -/
def execFence (sv : Nat) (s : State) : Host.Outcome State Fault Refusal :=
  issue s (fun _ => { hints := schedOnly }) fun x s1 => .ok (s1.addOp (x.op s1 (.fence ((Scope.ofCode sv).getD .dv))))

/-- WAITA (R298). -/
def execWaita (d a : Nat) (l p w : Bool) (sv : Nat) (s : State) : Host.Outcome State Fault Refusal :=
  let space := atomSpace p
  let sa := addrShape space a
  let size := if w then 8 else 4
  issue s (fun _ => { srcs := [sa, ⟨d, if w then 2 else 1⟩], recs := 1, kills := killIf l sa, hints := schedOnly, cross := ! p })
    fun x s1 =>
      let ea := effAddr space (nth x.vals 0 0) 0
      match rangeTrap (s.scrOf x.t.id.teamId) space ea size with
      | some cls => .trap cls 0 ea
      | none =>
        if space = .s ∧ s.lineAbsent x.t.id.teamId (ea / 128) then .hold (.parked (.absentLine (ea / 128)))
        else .ok (s1.startAccess x (plainAccess (.wait (nth x.vals 1 0)) space ea size (atomScope p sv)) none [] none)

/-- WAKEA (R300): the count in D is replaced by the number released. -/
def execWakea (d a : Nat) (l p : Bool) (sv : Nat) (s : State) : Host.Outcome State Fault Refusal :=
  let space := atomSpace p
  let sa := addrShape space a
  issue s (fun _ => { srcs := [sa, ⟨d, 1⟩], recs := 1, dests := [d], kills := killIf l sa, hints := schedOnly, cross := ! p })
    fun x s1 =>
      let ea := effAddr space (nth x.vals 0 0) 0
      match rangeTrap (s.scrOf x.t.id.teamId) space ea 1 with
      | some cls => .trap cls 0 ea
      | none => .ok (s1.startAccess x (plainAccess (.wake (nth x.vals 1 0)) space ea 1 (atomScope p sv)) (some .ld) [d] none)

/-- A cache instruction on the line of a global address (R303). -/
def lineWord (kind : AccKind) (a : Nat) (l : Bool) (s : State) : Host.Outcome State Fault Refusal :=
  issue s (fun _ => { srcs := [⟨a, 2⟩], kills := killIf l ⟨a, 2⟩, hints := schedOnly })
    fun x s1 => .ok (s1.startAccess x (plainAccess kind .g (nth x.vals 0 0) 1 .cl) (some .st) [] none)

/-- CFLUSH (R303). -/
def execCflush (a : Nat) (l : Bool) (s : State) : Host.Outcome State Fault Refusal := lineWord .flush a l s

/-- CINV (R303). -/
def execCinv (a : Nat) (l : Bool) (s : State) : Host.Outcome State Fault Refusal := lineWord .inv a l s

/-- A pin instruction (R304): a status to D, counted in k.ld. -/
def pinWord (kind : AccKind) (d a : Nat) (l : Bool) (s : State) : Host.Outcome State Fault Refusal :=
  issue s (fun _ => { srcs := [⟨a, 2⟩], dests := [d], kills := killIf l ⟨a, 2⟩, hints := schedOnly })
    fun x s1 => .ok (s1.startAccess x (plainAccess kind .g (nth x.vals 0 0) 1 .dv) (some .ld) [d] none)

/-- PIN (R304). -/
def execPin (d a : Nat) (l : Bool) (s : State) : Host.Outcome State Fault Refusal := pinWord .pin d a l s

/-- UNPIN (R304). -/
def execUnpin (d a : Nat) (l : Bool) (s : State) : Host.Outcome State Fault Refusal := pinWord .unpin d a l s

end Machine
end Sys2Proof
end

