-- ==== Sys2Proof/Machine/Control.lean ====
section
/-! DEFINITION. Branches, calls and returns (R183 to R189), EXIT, YIELD, WAITK and TRAP (R190 to R193), and the hint words (R98 to
R103). -/

namespace Sys2Proof
namespace Machine

-- ---------------------------------------------------------------- changes of the PC

/-- A taken change of PC: the next word is available after `lat` cycles (R116, R186). The bundle splits by next PC (R38). -/
def State.jump (s : State) (x : Args) (target : Addr) (lat : Nat) : State :=
  s.updThread x.t.id fun t =>
    { t with
      pc := target
      holdUntil := x.now + lat
      readyAt := x.now + lat
      bundle := if target = x.t.pc + 4 then t.bundle else t.bundle.map (· ++ [target.toNat]) }

/-- A call-stack slot access: 8 bytes of the scratch area at thread scope (R189). -/
def stackAccess (kind : AccKind) (va v : Nat) : Access := { plainAccess kind .g va 8 .th with data := v }

/-- What a push does with the oldest slot (R189): a free push, an overflow, or a wait for a refill in flight. -/
inductive PushRes where
  | ok (s : State)
  | overflow
  | wait

/-- push_return (R189). -/
def State.pushReturn (s : State) (x : Args) (ret : Addr) : PushRes :=
  let t := x.t
  let shift (s : State) (ssp : BitVec 23) : State := s.updThread t.id fun th =>
    { th with ls := [.pc (ret.setWidth 64), nth th.ls 0 .empty, nth th.ls 1 .empty, nth th.ls 2 .empty], csd := th.csd + 1, ssp := ssp }
  if t.csd.toNat < 4 then .ok (shift s t.ssp)
  else if s.scratchSize t < t.ssp.toNat + 8 then .overflow
  else
    let va := s.scratchArea t + t.ssp.toNat
    match nth t.ls 3 .empty with
    | .refill _ _ => .wait
    | .mark _ _ => .ok (shift s (t.ssp + 8))
    | .pc a => .ok (shift (s.startAccess x (stackAccess .spill va a.toNat) (some .st) [] none) (t.ssp + 8))
    | .empty => .ok (shift (s.startAccess x (stackAccess .spill va 0) (some .st) [] none) (t.ssp + 8))

/-- pop_return (R189). -/
def State.popReturn (s : State) (x : Args) : State :=
  let t := x.t
  let s := s.updThread t.id fun th =>
    { th with ls := [nth th.ls 1 .empty, nth th.ls 2 .empty, nth th.ls 3 .empty, .empty], csd := th.csd - 1 }
  if t.csd.toNat < 5 then s
  else
    let va := s.scratchArea t + t.ssp.toNat - 8
    let id := s.nextId
    let s := s.updThread t.id fun th => { th with ls := th.ls.set 3 (.refill id va), ssp := th.ssp - 8 }
    s.startAccess x (stackAccess .refill va 0) (some .ld) [] none

/-- BR (R185). -/
def execBr (g : Nat) (sv : Bool) (o : Nat) (s : State) : Host.Outcome State Fault Refusal :=
  issue s (fun _ => { preds := [g], hints := { schedOnly with imm := 2 } })
    fun x s1 => if x.t.pred g = sv then .ok s1 else .ok (s1.jump x (branchTarget x.t.latch x.t.pc o) 4)

/-- CALL (R185, R189). -/
def execCall (g : Nat) (sv : Bool) (o : Nat) (s : State) : Host.Outcome State Fault Refusal :=
  issue s (fun _ => { preds := [g], hints := { schedOnly with imm := 2 } })
    fun x s1 =>
      if x.t.pred g = sv then .ok s1
      else match s1.pushReturn x (x.t.pc + 4) with
        | .ok s2 => .ok (s2.jump x (branchTarget x.t.latch x.t.pc o) 4)
        | .overflow => .trap clsOverflow 0 0
        | .wait => .hold .dependent

/-- Whether a value is a word address (R188). -/
def targetOk (t : Nat) : Bool := decide (t % 4 = 0) && decide (t < 2 ^ 52)

/-- BRX (R188). -/
def execBrx (a : Nat) (l : Bool) (s : State) : Host.Outcome State Fault Refusal :=
  issue s (fun _ => { srcs := [⟨a, 2⟩], kills := killIf l ⟨a, 2⟩, hints := schedOnly })
    fun x s1 =>
      let t := nth x.vals 0 0
      if targetOk t then .ok (s1.jump x (BitVec.ofNat 52 t) 8) else .trap clsIllegal 0 0

/-- CALLX (R188, R189). -/
def execCallx (a : Nat) (l : Bool) (s : State) : Host.Outcome State Fault Refusal :=
  issue s (fun _ => { srcs := [⟨a, 2⟩], kills := killIf l ⟨a, 2⟩, hints := schedOnly })
    fun x s1 =>
      let t := nth x.vals 0 0
      if ! targetOk t then .trap clsIllegal 0 0
      else match s1.pushReturn x (x.t.pc + 4) with
        | .ok s2 => .ok (s2.jump x (BitVec.ofNat 52 t) 8)
        | .overflow => .trap clsOverflow 0 0
        | .wait => .hold .dependent

/-- RET (R188, R189): a refill in flight makes it Dependent; a fault mark is taken precisely, and on resumption the refill is issued
anew. -/
def execRet (s : State) : Host.Outcome State Fault Refusal :=
  issue s (fun _ => { hints := schedOnly })
    fun x s1 =>
      if x.t.csd = 0 then .trap clsUnderflow 0 0
      else match nth x.t.ls 0 .empty with
        | .empty => .trap clsIllegal 0 0
        | .refill _ _ => .hold .dependent
        | .mark va cls =>
          if x.t.resume.isSome then
            let id := s.nextId
            let s2 := s.updThread x.t.id fun t => { t with ls := t.ls.set 0 (.refill id va), resume := none }
            .holdWith .dependent (s2.startAccess x (stackAccess .refill va 0) (some .ld) [] none)
          else .trap cls (if cls ≥ 0x40 then AccCode.load.num else 0) va
        | .pc a =>
          if ! targetOk a.toNat then .trap clsIllegal 0 0
          else .ok ((s1.popReturn x).jump x (a.setWidth 52) 8)

-- ---------------------------------------------------------------- the end of a thread, waits, traps

/-- A CRN.WAIT waiter leaves its cairn (R461, R466): WAITERS at byte 0x14 falls by one. -/
def State.leaveCairn (s : State) (t : ThreadId) : State :=
  match s.thread? t with
  | none => s
  | some th => match th.cairn with
    | none => s
    | some (off, _) =>
      let s := { s with freed := s.freed.filter fun x => decide (x ≠ t) }.updThread t fun x => { x with cairn := none }
      s.updTeam t.teamId fun tm =>
        { tm with scratch := memWrite tm.scratch (off + 0x14) 2 ((memRead tm.scratch (off + 0x14) 2 + 0xFFFF) % 2 ^ 16) }

/-- When the last thread of a team has exited, its access slice ends in whatever state it holds (R334). -/
def State.endSlice (s : State) (t : TeamId) : State :=
  if s.threads.any fun x => decide (x.id.teamId = t) && decide (x.st ≠ .exited) then s
  else s.updTeam t fun tm => { tm with slice := tm.slice.map fun sl => { sl with run := if sl.run = .running then .exited else sl.run } }

/-- Ends a thread (R35, R190, R198, R325): it withdraws from every set, its call stack, trace state and park are gone, and its waiters
leave their tables. Its operations in flight complete on their own (R136, R137), those with a parked request without a register write. -/
def State.exitThread (s : State) (t : ThreadId) : State :=
  let s := (s.leaveCairn t).updThread t fun x =>
    { x with st := .exited, bundle := none, promoted := false, ls := [.empty, .empty, .empty, .empty], csd := 0, ssp := 0, tdep := 0,
             fbase := 0, fsize := 0, latch := [], resume := none, parks := [] }
  let drop (o : Op) : Op := if o.thr = t then (match o.stage with
    | .parked _ => { o with dests := [] }
    | _ => o) else o
  let s := { s with waiters := s.waiters.filter fun w => decide (w.thr ≠ t), ops := s.ops.map drop }
  (s.withdrawAll t).endSlice t.teamId

/-- EXIT (R190). -/
def execExit (s : State) : Host.Outcome State Fault Refusal :=
  issue s (fun _ => { hints := schedOnly }) fun x s1 => .ok (s1.exitThread x.t.id)

/-- sr.preq as a thread reads it (R379). -/
def State.preqOf (s : State) (t : ThreadId) : Bool :=
  ! s.kernelMode t.gridId && (match s.ctx? t.ctx with
    | some c => c.preq
    | none => false)

/-- YIELD (R191): the trap parks the thread at PC + 4. -/
def execYield (s : State) : Host.Outcome State Fault Refusal :=
  issue s (fun _ => { hints := schedOnly }) fun x s1 => if s.preqOf x.t.id then .trap clsYield 0 0 else .ok s1

/-- The counter class of a code (R187). -/
def KClass.ofCode : Nat → KClass
  | 0 => .ld | 1 => .st | 2 => .cp | 3 => .mx | 4 => .is | _ => .ws

/-- WAITK (R192). -/
def execWaitk (k n : Nat) (s : State) : Host.Outcome State Fault Refusal :=
  issue s (fun _ => { hints := schedOnly }) fun x s1 => if n < x.t.counter (KClass.ofCode k) then .hold .blocked else .ok s1

/-- TRAP (R193). -/
def execTrap (c : Nat) (s : State) : Host.Outcome State Fault Refusal :=
  issue s (fun _ => { hints := schedOnly }) fun _ _ => .trap clsSoft c 0

-- ---------------------------------------------------------------- hint words

/-- Whether a hint word is a misuse: a third consecutive one, or a second of its kind (R98, R103). -/
def hintMisuse (latch : List Word) (kind : Nat) : Bool :=
  decide (2 ≤ latch.length) || latch.any fun w => decide (hintKind w = kind)

/-- A hint word of a thread or of a slice: it is latched and governs the next word (R98, R100, R328). -/
def hintWord (kind pay : Nat) (s : State) : Host.Outcome State Fault Refusal :=
  let w : Word := BitVec.ofNat 32 (0xFC000000 + kind * 2 ^ 22 + pay)
  match s.cur with
  | .thread id => (match s.thread? id with
    | none => .fault .noActor
    | some t =>
      if hintMisuse t.latch kind then .next (s.raiseTrap t clsIllegal s.ir 0 0 none)
      else
        let now := s.now (s.coreOf id)
        .next ((s.updThread id fun t => { t with
          pc := t.pc + 4, latch := t.latch ++ [w], pos := t.pos + 1, st := .ready, readyAt := now + 1, promoted := false }).updTeam
            id.teamId fun tm => { tm with lastIssue := now }))
  | .slice id => (match s.team? id with
    | none => .fault .noActor
    | some tm => match tm.slice with
      | none => .fault .noActor
      | some sl =>
        if hintMisuse sl.latch kind then .next (s.stopSlice id clsIllegal s.ir 0)
        else .next (s.updTeam id fun t => { t with slice := some { sl with apc := sl.apc + 4, latch := sl.latch ++ [w] } }))
  | .none => .fault .noActor

/-- IMM (R100, R101). -/
def execImm (p : Nat) (s : State) : Host.Outcome State Fault Refusal := hintWord 0 p s

/-- MOD (R102): e is SEM, c CP, sv SCOPE, t SAT, v RMV, r RM, z the reserved bits. -/
def execMod (e c sv : Nat) (t v : Bool) (r z : Nat) (s : State) : Host.Outcome State Fault Refusal :=
  hintWord 1 (z * 2 ^ 13 + e * 2 ^ 11 + c * 2 ^ 8 + sv * 2 ^ 5 + t.toNat * 2 ^ 4 + v.toNat * 2 ^ 3 + r) s

/-- LIVE (R100): x is LDT, c is LC, z the reserved bits. -/
def execLive (x c : Bool) (z : Nat) (s : State) : Host.Outcome State Fault Refusal :=
  hintWord 2 (z * 2 ^ 2 + x.toNat * 2 + c.toNat) s

/-- SCHED (R100): sv is SPLIT, z the reserved bits. -/
def execSched (sv : Bool) (z : Nat) (s : State) : Host.Outcome State Fault Refusal := hintWord 3 (z * 2 + sv.toNat) s

end Machine
end Sys2Proof
end

