-- ==== Sys2Proof/Machine/Cairn.lean ====
section
/-! DEFINITION. Cairns (R461 to R468), the cycle count (R470) and the counter generator (R471, R472): majors 0x3C. A cairn's 32 bytes are
bytes of the team's scratchpad. -/

namespace Sys2Proof
namespace Machine

-- ---------------------------------------------------------------- the object

/-- The fields of a cairn (R461). -/
structure CairnObj where
  exp : Nat
  pend : Nat
  phase : Nat
  waiters : Nat
  armed : Bool
  auto : Bool
  scope : Nat
  icnt : Nat
  deriving DecidableEq, Repr

/-- Reads a cairn's 32 bytes (R461). -/
def Team.cairn (t : Team) (off : Nat) : CairnObj :=
  let m := t.scratch
  let f := memRead m (off + 0x16) 2
  { exp := memRead m off 8, pend := memRead m (off + 8) 8, phase := memRead m (off + 0x10) 4, waiters := memRead m (off + 0x14) 2,
    armed := bitAt f 0, auto := bitAt f 1, scope := bits f 2 3, icnt := memRead m (off + 0x18) 2 }

/-- The 32 bytes of a cairn as one little-endian number (R461). -/
def CairnObj.value (c : CairnObj) : Nat :=
  c.exp % 2 ^ 64 + c.pend % 2 ^ 64 * 2 ^ 64 + c.phase % 2 ^ 32 * 2 ^ 128 + c.waiters % 2 ^ 16 * 2 ^ 160
    + (c.armed.toNat + 2 * c.auto.toNat + 4 * (c.scope % 8)) * 2 ^ 176 + c.icnt % 2 ^ 16 * 2 ^ 192

/-- Writes a cairn's bytes. -/
def State.putCairn (s : State) (t : TeamId) (off : Nat) (c : CairnObj) : State :=
  s.updTeam t fun tm => { tm with scratch := memWrite tm.scratch off 32 c.value }

/-- The phases completed at once by check_complete (R462): none unless armed with nothing owed. Under AUTO each completion adds EXP. -/
def CairnObj.completions (c : CairnObj) : Nat :=
  let p := sext c.pend 64
  if ! c.armed || decide (0 < p) then 0
  else if c.auto && decide (c.exp ≠ 0) then (-p).toNat / c.exp + 1
  else 1

/-- check_complete (R462). -/
def CairnObj.check (c : CairnObj) : CairnObj :=
  let n := c.completions
  if n = 0 then c
  else { c with phase := (c.phase + n) % 2 ^ 32, pend := if c.auto then (c.pend + n * c.exp) % 2 ^ 64 else c.pend, armed := c.auto }

/-- The test of CRN.WAIT (R466). -/
def phaseReached (phase p : Nat) : Bool := decide ((phase + 2 ^ 32 - p % 2 ^ 32) % 2 ^ 32 < 2 ^ 31)

/-- Whether one of n completions that follow a phase reaches the phase a waiter waits for (R462, R466): each releases on its own. -/
def reachedWithin (phase n p : Nat) : Bool := decide ((p % 2 ^ 32 + 2 ^ 32 - phase) % 2 ^ 32 ≤ n)

/-- Releases every CRN.WAIT of a cairn whose test held after one of n completions that followed a phase (R462, R466): the threads leave the cairn
as the cycle ends, after every other change of it (R468). -/
def State.releaseCairn (s : State) (t : TeamId) (off phase n : Nat) : State :=
  let ready := s.threads.filter fun x => decide (x.id.teamId = t) && (match x.cairn with
    | some (o, p) => decide (o = off) && reachedWithin phase n p
    | none => false)
  if n = 0 then s else { s with freed := s.freed ++ (ready.map (·.id)).filter fun x => ! s.freed.contains x }

/-- The waiters of a die that a completion has released leave their cairns and are Ready (R466, R468). -/
def State.freeWaiters (s : State) (die : Nat) : State :=
  let mine := s.freed.filter fun t => decide (dieOf (s.coreOf t) = die)
  mine.foldl (fun s t => (s.leaveCairn t).wakeThread t) { s with freed := s.freed.filter fun t => ! mine.contains t }

/-- Counts n bytes on a cairn, with the completion rule (R462, R465, R467). A phase of scope .dv or .sy is complete only with the bytes that
counted towards it performed for its whole instance: each arrival first writes back the arriver's L1 (R274, R283). -/
def State.cairnArrive (s : State) (t : TeamId) (off n core : Nat) : State :=
  match s.team? t with
  | none => s
  | some tm =>
    let c := tm.cairn off
    let c := { c with pend := (c.pend + 2 ^ 64 - n % 2 ^ 64) % 2 ^ 64 }
    let s := if 4 ≤ c.scope then s.flushL1 (clusterOf core) else s
    (s.putCairn t off c.check).releaseCairn t off c.phase c.completions

/-- Changes ICNT of a cairn (R467). -/
def State.cairnCopies (s : State) (t : TeamId) (off : Nat) (up : Bool) : State :=
  match s.team? t with
  | none => s
  | some tm =>
    let c := tm.cairn off
    s.putCairn t off { c with icnt := if up then c.icnt + 1 else (c.icnt + 0xFFFF) % 2 ^ 16 }

/-- Whether a granule of a team is cairn-tagged (R246). -/
def Team.taggedAt (t : Team) (off : Nat) : Bool := t.tags.contains (off / 32)

-- ---------------------------------------------------------------- the cairn instructions

/-- The checks every cairn instruction makes, in order (R464); `misuse` is the table's condition and `named` the scope CRN.INIT names. -/
def cairnCheck (s : State) (g : GridId) (tm : Team) (off : Nat) (named : Option Nat) (misuse : Bool) : Option Nat :=
  if off % 32 ≠ 0 then some clsMisaligned
  else if tm.scr * 4096 ≤ off + 31 then some clsScratchRange
  else if tm.poison.contains (off / 32) then some clsPoison
  else if s.detMode g && (match named with
    | some c => decide (2 < c)
    | none => tm.taggedAt off && decide (2 < (tm.cairn off).scope)) then some clsCrossTeam
  else if misuse then some clsCairn
  else none

/-- A cairn word (R463 to R465): the team's cairns have taken an instruction in this cycle (R468). -/
def cairnWord (i : Thread → Issue) (named : Option Nat) (misuse : Team → Nat → Nat → Bool) (body : Args → Team → Nat → Nat → State → Res)
    (s : State) : Host.Outcome State Fault Refusal :=
  issue s (fun t => { i t with hints := schedOnly }) fun x s1 =>
    match s1.team? x.t.id.teamId with
    | none => .trap clsCairn 0 0
    | some tm =>
      let off := nth x.vals 0 0
      let v := nth x.vals 1 0
      match cairnCheck s1 x.t.id.gridId tm off named (misuse tm off v) with
      | some cls => .trap cls 0 off
      | none => body x tm off v (s1.updTeam tm.id fun y => { y with cairnAt := x.now + 1 })

/-- CRN.INIT (R465): u is AUTO, sv SCOPE, where 0 acts as .tm. -/
def execCrnInit (d a : Nat) (l u : Bool) (sv : Nat) (s : State) : Host.Outcome State Fault Refusal :=
  let sc := if sv = 0 then 2 else sv
  cairnWord (fun _ => { srcs := [⟨a, 1⟩, ⟨d, 2⟩], recs := 1, kills := killIf l ⟨a, 1⟩ }) (some sc)
    (fun tm off v => (tm.taggedAt off && (decide ((tm.cairn off).waiters ≠ 0) || decide ((tm.cairn off).icnt ≠ 0)))
      || (u && decide (v = 0)))
    (fun x _ off v s1 =>
      let c : CairnObj := { exp := v, pend := v, phase := 0, waiters := 0, armed := decide (v ≠ 0), auto := u, scope := sc, icnt := 0 }
      .ok ((s1.putCairn x.t.id.teamId off c).updTeam x.t.id.teamId fun tm => { tm with tags := setAdd tm.tags (off / 32) })) s

/-- CRN.FREE (R465). -/
def execCrnFree (a : Nat) (l : Bool) (s : State) : Host.Outcome State Fault Refusal :=
  cairnWord (fun _ => { srcs := [⟨a, 1⟩], kills := killIf l ⟨a, 1⟩ }) none
    (fun tm off _ => ! tm.taggedAt off || decide ((tm.cairn off).waiters ≠ 0) || decide ((tm.cairn off).icnt ≠ 0))
    (fun x _ off _ s1 => .ok (s1.updTeam x.t.id.teamId fun tm =>
      { tm with scratch := memWrite tm.scratch off 32 0, tags := setDel tm.tags (off / 32) })) s

/-- CRN.EXPECT (R465). -/
def execCrnExpect (d a : Nat) (l : Bool) (s : State) : Host.Outcome State Fault Refusal :=
  cairnWord (fun _ => { srcs := [⟨a, 1⟩, ⟨d, 2⟩], recs := 1, kills := killIf l ⟨a, 1⟩ }) none
    (fun tm off _ => ! tm.taggedAt off || (tm.cairn off).armed || (tm.cairn off).auto)
    (fun x tm off v s1 =>
      let c := tm.cairn off
      let c := { c with exp := v, pend := (c.pend + v) % 2 ^ 64, armed := true }
      let s2 := if c.completions ≠ 0 ∧ 4 ≤ c.scope then s1.flushL1 (clusterOf x.core) else s1
      .ok ((s2.putCairn x.t.id.teamId off c.check).releaseCairn x.t.id.teamId off c.phase c.completions)) s

/-- Whether a thread's release may be performed now (R274, R465). -/
def State.releasable (s : State) (t : Thread) : Bool := s.olderComplete t.id t.pos && s.observedDone t.id

/-- CRN.ARRIVE (R465): it issues once every earlier access has completed, and is a release at the cairn's scope. -/
def execCrnArrive (d a : Nat) (l : Bool) (s : State) : Host.Outcome State Fault Refusal :=
  cairnWord (fun t => { srcs := [⟨a, 1⟩, ⟨d, 1⟩], recs := 1, kills := killIf l ⟨a, 1⟩, wait := ! s.releasable t }) none
    (fun tm off _ => ! tm.taggedAt off)
    (fun x _ off v s1 => .ok (s1.cairnArrive x.t.id.teamId off v x.core)) s

/-- The acquire of a cairn's scope, once its phase is seen (R275, R283). -/
def State.cairnAcquire (s : State) (core scope : Nat) : State := if scope = 5 then s.invalidateL1 (clusterOf core) else s

/-- CRN.WAIT (R466): Blocked until the cairn reaches the phase, counted once in WAITERS. A waiter whose operands a handler has changed leaves the
cairn it waited on and tests anew; a restored one whose phase is already reached passes. -/
def execCrnWait (d a : Nat) (l : Bool) (s : State) : Host.Outcome State Fault Refusal :=
  cairnWord (fun _ => { srcs := [⟨a, 1⟩, ⟨d, 1⟩], recs := 1, kills := killIf l ⟨a, 1⟩ }) none
    (fun tm off _ => ! tm.taggedAt off)
    (fun x tm off v s1 =>
      let c := tm.cairn off
      if x.t.cairn = some (off, v) then
        if phaseReached c.phase v && ! s.freed.contains x.t.id then .ok ((s1.leaveCairn x.t.id).cairnAcquire x.core c.scope) else .hold .blocked
      else if x.t.cairn.isSome then .holdWith .blocked (s.leaveCairn x.t.id)
      else if phaseReached c.phase v then .ok (s1.cairnAcquire x.core c.scope)
      else .holdWith .blocked
        ((s.putCairn x.t.id.teamId off { c with waiters := c.waiters + 1 }).updThread x.t.id fun t => { t with cairn := some (off, v) })) s

/-- CRN.TEST (R465). -/
def execCrnTest (d a : Nat) (l : Bool) (s : State) : Host.Outcome State Fault Refusal :=
  cairnWord (fun _ => { srcs := [⟨a, 1⟩], dests := [d], kills := killIf l ⟨a, 1⟩ }) none
    (fun tm off _ => ! tm.taggedAt off)
    (fun x tm off _ s1 =>
      let c := tm.cairn off
      .ok ((s1.cairnAcquire x.core c.scope).result x 24 [d] [c.phase])) s

-- ---------------------------------------------------------------- cycles and draws

/-- RDCYC (R470). -/
def execRdcyc (d : Nat) (s : State) : Host.Outcome State Fault Refusal :=
  issue s (fun _ => { dests := [d, d + 1], hints := schedOnly }) fun x s1 => .ok (s1.result x 4 [d, d + 1] (pairWords (x.now % 2 ^ 64)))

/-- The words of the generator: the counter and the key (R471). -/
structure RngState where
  x0 : Nat
  x1 : Nat
  x2 : Nat
  x3 : Nat
  y0 : Nat
  y1 : Nat
  deriving DecidableEq, Repr

/-- One round of rng_block (R471). -/
def RngState.round (r : RngState) : RngState :=
  let y0 := (r.y0 + 0x6C8E9CF5) % 2 ^ 32
  let y1 := r.y1 ^^^ rotl32 y0 11
  let x0 := (r.x0 + (r.x1 ^^^ y0)) % 2 ^ 32
  let x2 := r.x2 ^^^ rotl32 ((r.x3 + y1) % 2 ^ 32) 7
  let x1 := rotl32 r.x1 13 ^^^ x2
  let x3 := (r.x3 + rotl32 x0 17) % 2 ^ 32
  { x0 := x1, x1 := x2, x2 := x3, x3 := x0, y0 := y0, y1 := y1 }

/-- Rounds of rng_block. -/
def RngState.rounds : Nat → RngState → RngState
  | 0, r => r
  | n + 1, r => r.round.rounds n

/-- rng_block of R471 on a 128-bit counter and a 64-bit key, as its four words. -/
def rngBlock (c k : Nat) : List Nat :=
  let r := RngState.rounds 10
    { x0 := bits c 0 32, x1 := bits c 32 32, x2 := bits c 64 32, x3 := bits c 96 32, y0 := bits k 0 32, y1 := bits k 32 32 }
  [r.x0 ^^^ r.y1, r.x1, r.x2 ^^^ r.y0, r.x3]

/-- RNGX (R472). -/
def execRngx (d a : Nat) (l : Bool) (b : Nat) (m : Bool) (s : State) : Host.Outcome State Fault Refusal :=
  let dests := (⟨d, 4⟩ : Src).regs
  issue s (fun _ => { srcs := [⟨a, 4⟩, ⟨b, 2⟩], dests := dests, kills := killIf l ⟨a, 4⟩ ++ killIf m ⟨b, 2⟩, hints := schedOnly })
    fun x s1 => .ok (s1.result x 20 dests (rngBlock (nth x.vals 0 0) (nth x.vals 1 0)))

/-- RNGADD (R472): k is M. -/
def execRngadd (d a : Nat) (l : Bool) (b : Nat) (m k : Bool) (s : State) : Host.Outcome State Fault Refusal :=
  let dests := (⟨d, 4⟩ : Src).regs
  let sb : Src := ⟨b, if k then 1 else 4⟩
  issue s (fun _ => { srcs := [⟨a, 4⟩, sb], dests := dests, kills := killIf l ⟨a, 4⟩ ++ killIf m sb, hints := schedOnly })
    fun x s1 => .ok (s1.result x 6 dests (quadWords ((nth x.vals 0 0 + nth x.vals 1 0) % 2 ^ 128)))

end Machine
end Sys2Proof
end

