-- ==== Sys2Proof/Machine/Header.lean ====
section
/-! DEFINITION. The headers of packets, and the sites and ports they name (R15, R16, R387, R390). -/

namespace Sys2Proof
namespace Machine

-- ---------------------------------------------------------------- headers

/-- NF of a header (R390). -/
def hdrNf (h : Dword) : Nat := bits h.toNat 0 3
/-- TR. -/
def hdrTr (h : Dword) : Bool := bitAt h.toNat 3
/-- LANE. -/
def hdrLane (h : Dword) : Nat := bits h.toNat 4 2
/-- KIND. -/
def hdrKind (h : Dword) : Nat := bits h.toNat 6 4
/-- OS. -/
def hdrOs (h : Dword) : Bool := bitAt h.toNat 10
/-- The destination port: DD to DC. -/
def hdrDst (h : Dword) : Nat := bits h.toNat 11 10
/-- The source port: SD to SC. -/
def hdrSrc (h : Dword) : Nat := bits h.toNat 21 10
/-- TAG. -/
def hdrTag (h : Dword) : Nat := bits h.toNat 32 16
/-- SEQ. -/
def hdrSeq (h : Dword) : Nat := bits h.toNat 48 8
/-- CNT. -/
def hdrCnt (h : Dword) : Nat := bits h.toNat 56 8

/-- Die of a port (R390). -/
def portDie (p : Nat) : Nat := p % 2
/-- Column of a port. -/
def portX (p : Nat) : Nat := bits p 1 3
/-- Row of a port. -/
def portY (p : Nat) : Nat := bits p 4 3

-- ---------------------------------------------------------------- sites and ports

/-- Whether a site has a full router (R15). -/
def fullSite (site : Nat) : Bool := (site % 8 + site / 8) % 2 == 0

/-- The site of a cluster of a die (R15). -/
def clusterSite (c : Nat) : Nat := 8 * (c / 4) + 2 * (c % 4) + c / 4 % 2

/-- The site of a cache slice of a die (R15). -/
def sliceSite (s : Nat) : Nat := 8 * (s / 4) + 2 * (s % 4) + 1 - s / 4 % 2

/-- The site of the vertical port of a weight-store bank (R387). -/
def bankSite (b : Nat) : Nat := sliceSite (2 * b)

/-- What stands at a port of a site (R13 to R16, R387): a cluster or a slice, an edge unit of the row, or the base die. -/
inductive PortUnit where
  | cluster (c : Nat)
  | slice (s : Nat)
  | raster (isl : Nat)
  | ridgeline
  | tlb2
  | iodLink (m : Nat)
  | peerLink (m : Nat)
  | baseDie (s : Nat)
  deriving DecidableEq, Repr

/-- The unit at the west port of a row (R16). -/
def westUnit (y : Nat) : Option PortUnit :=
  if y < 4 then some (.raster y)
  else match y with
    | 4 => some .ridgeline | 5 => some .tlb2 | 6 => some (.peerLink 2) | 7 => some (.peerLink 3) | _ => none

/-- The unit at the east port of a row (R16). -/
def eastUnit (y : Nat) : Option PortUnit :=
  if y < 4 then some (.iodLink y) else match y with
    | 4 => some (.peerLink 0) | 5 => some (.peerLink 1) | _ => none

/-- The unit at a port of a site, by the codes of DP (R390); none where there is no such port: edge ports stand at the row ends (R16), vertical
ones at half sites (R14). -/
def unitAt (site port : Nat) : Option PortUnit :=
  let k := 4 * (site / 8) + site % 8 / 2
  match port with
  | 0 => some (if fullSite site then .cluster k else .slice k)
  | 1 => if site % 8 = 0 then westUnit (site / 8) else none
  | 2 => if site % 8 = 7 then eastUnit (site / 8) else none
  | 3 => if fullSite site then none else some (.baseDie k)
  | _ => none

/-- The unit a port field names: bit 0 the die, then column, row, port and core (R390). -/
def portUnit (p : Nat) : Option PortUnit :=
  match unitAt (8 * portY p + portX p) (bits p 7 2) with
  | some (.cluster c) => some (.cluster c)
  | u => if bitAt p 9 then none else u

/-- A header (R390): flits, lane, kind, whether it belongs to an ordered stream, destination and source ports, TAG, SEQ and CNT. -/
def mkHdr (nf lane kind : Nat) (os : Bool) (dst src tag seq cnt : Nat) : Dword :=
  BitVec.ofNat 64 (nf + lane * 2 ^ 4 + kind * 2 ^ 6 + os.toNat * 2 ^ 10 + dst * 2 ^ 11 + src * 2 ^ 21 + tag % 2 ^ 16 * 2 ^ 32 + seq % 2 ^ 8 * 2 ^ 48
    + min cnt 255 * 2 ^ 56)

/-- The port at a site of a die: its code as DP and its core (R390). -/
def portAt (die site dp core : Nat) : Nat := die + site % 8 * 2 + site / 8 * 2 ^ 4 + dp * 2 ^ 7 + core * 2 ^ 9

/-- The port of a core's interface (R390). -/
def corePort (core : Nat) : Nat := portAt (dieOf core) (clusterSite (clusterOf core % 32)) 0 (core % 2)

/-- The port of a raster island of the device (R16). -/
def rasterPort (isl : Nat) : Nat := portAt (isl / 4) (8 * (isl % 4)) 1 0

/-- The trimmed header (R392): TR := 1, LANE := 2, every other field unchanged. -/
def trimmedHdr (h : Dword) : Dword := (h &&& ~~~(0x30 : Dword)) ||| 0x28

/-- A header with a trim count (R393). -/
def withCnt (h : Dword) (n : Nat) : Dword := BitVec.ofNat 64 (h.toNat % 2 ^ 56 + min n 255 * 2 ^ 56)

/-- A header with a SEQ (R395). -/
def withSeq (h : Dword) (n : Nat) : Dword :=
  BitVec.ofNat 64 (h.toNat % 2 ^ 48 + n % 256 * 2 ^ 48 + h.toNat / 2 ^ 56 * 2 ^ 56)

/-- A header-lane answer to a packet: a kind and a count, towards its source (R393). -/
def answerHdr (h : Dword) (kind cnt : Nat) : Dword :=
  BitVec.ofNat 64 (2 * 2 ^ 4 + kind * 2 ^ 6 + hdrSrc h * 2 ^ 11 + hdrDst h * 2 ^ 21 + hdrTag h * 2 ^ 32 + min cnt 255 * 2 ^ 56)

/-- Splits bytes into payload flits of 64 bytes (R390). -/
def flitsOf (n v : Nat) : List (BitVec 512) := (List.range n).map fun i => BitVec.ofNat 512 (v / 2 ^ (512 * i))

end Machine
end Sys2Proof
end

