-- ==== Sys2Proof/Machine/MatrixInstr.lean ====
section
/-! DEFINITION. The words of majors 0x2C and 0x2D: matrix deposits (R220, R221) and the accumulator instructions (R229 to R234), with the
finishing of their engine entries. -/

namespace Sys2Proof
namespace Machine

-- ---------------------------------------------------------------- matrix deposits

/-- Matrix deposits of the threads of a partition that have not retired (R221): unfired in a set, or in an engine order. -/
def State.openDeposits (s : State) (core part : Nat) : Nat :=
  let here (tm : Team) (rank : Nat) : Bool := decide (tm.coreOf rank = core) && decide (tm.partOf rank = part)
  (s.teams.map fun tm =>
    (tm.crs.map fun c => (c.members.filter fun m => m.isMatrix && here tm m.rank).length).sum
      + ((tm.engine.filter fun e => decide (e.kind = 0)).map fun e => (e.members.filter fun m => here tm m.1.rank).length).sum).sum

/-- A matrix word (R220, R221): sets of four partial checks in order, then the deposit. -/
def matrixWord (kind sa sb : Nat) (l : Bool) (slot cn tile : Nat) (s : State) : Host.Outcome State Fault Refusal :=
  let slotOf (t : Thread) : Slot := Slot.ofWord (s.slotWord t.id.gridId slot)
  issue s (fun t =>
      { srcs := [⟨sb, 1⟩, ⟨sa, 1⟩], recs := 1, kills := killIf l ⟨sb, 1⟩, hints := schedOnly, flaw := ! slotServes kind (slotOf t),
        outside := s.tileOutside t.id.teamId tile, wait := t.signed.getLsbD cn })
    fun x s1 =>
      let sw := slotOf x.t
      let a := nth x.vals 1 0
      let b := nth x.vals 0 0
      match s1.team? x.t.id.teamId with
      | none => .trap clsConverge 0 0
      | some tm =>
        let c := tm.cr cn
        if 4 ≤ s1.openDeposits x.core x.part then .hold .blocked
        else if decide (sw.matrixClass = some 0) ≠ s1.tileWide x.t.id.gridId tile then .trap clsAccClass 0 0
        else if ! (decide (c.status x.t.id.rank = some .declared) || decide (c.status x.t.id.rank = some .signed))
            || (match c.deposit x.t.id.rank with
                | some d => ! d.signed
                | none => false) then .trap clsConverge 0 0
        else if ! srcOk a || ! srcOk b then .trap clsMatrix 0 0
        else if operandBeyond true tm.np tm.scr kind sw a then .trap clsScratchRange 0 (bits a 0 20)
        else if operandBeyond false tm.np tm.scr kind sw b then .trap clsScratchRange 0 (bits b 0 20)
        else
          let id := s1.nextId
          let d : Deposit :=
            { kind := .matrix kind tile slot, word := s.ir, rc := fpcRounding x.t, en := enables x.t, a := a, b := b,
              dests := [], pos := x.t.pos, pc := x.t.pc, latch := x.t.latch, issued := x.now, signed := false, op := id }
          let s2 := { s1 with nextId := id + 1 }
          .ok ((s2.setCr x.t.id.teamId cn (c.upd x.t.id.rank fun m => { m with dep := some d })).updThread x.t.id
            fun t => t.count .mx id)

/-- MMA (R220 to R225): sv is SA_REG, b SB_REG with its last use l, p the slot, n the set, t the tile. -/
def execMma (sv b : Nat) (l : Bool) (p n t : Nat) (s : State) : Host.Outcome State Fault Refusal := matrixWord 0 sv b l p n t s

/-- MMAS (R217, R220 to R225). -/
def execMmas (sv b : Nat) (l : Bool) (p n t : Nat) (s : State) : Host.Outcome State Fault Refusal := matrixWord 1 sv b l p n t s

/-- MMAB.xor (R220 to R225). -/
def execMmabXor (sv b : Nat) (l : Bool) (p n t : Nat) (s : State) : Host.Outcome State Fault Refusal := matrixWord 2 sv b l p n t s

/-- MMAB.and (R220 to R225). -/
def execMmabAnd (sv b : Nat) (l : Bool) (p n t : Nat) (s : State) : Host.Outcome State Fault Refusal := matrixWord 3 sv b l p n t s

/-- MMAC (R91, R92, R220 to R225). -/
def execMmac (sv b : Nat) (l : Bool) (p n t : Nat) (s : State) : Host.Outcome State Fault Refusal := matrixWord 4 sv b l p n t s

-- ---------------------------------------------------------------- accumulator instructions

/-- Whether an unfinished entry of a partition's engine order writes a tile (R230). -/
def Team.tileWritten (t : Team) (site tile : Nat) : Bool :=
  t.engine.any fun e => decide (e.tile = tile) &&
    (decide (e.kind = 0) || (decide (e.site = site) && (decide (e.kind = 1) || decide (e.kind = 2) || decide (e.kind = 4))))

/-- Whether an unfinished entry of a partition's engine order reads a tile, besides ACRES and ACCMP (R230). -/
def Team.tileHeld (t : Team) (site tile : Nat) : Bool :=
  t.engine.any fun e => decide (e.site = site) &&
    ((decide (e.kind = 3) && decide (e.tile = tile)) || (decide (e.kind = 4) && decide (e.tile2 = tile)))

/-- The address word of ACLD and ACST is well formed (R229). -/
def addrWordOk (w : Nat) : Bool := decide (w / 2 ^ 20 = 0) && decide (w % 64 = 0)

/-- An accumulator word (R229, R230): class check, address check, range check, Blocked, then its effect. `tiles` are the tiles it names,
`slot` the slot whose class must match them, `writes` the tile it writes. -/
def accWord (i : Thread → Issue) (tiles : List Nat) (slot writes : Option Nat) (addr : Bool) (body : Args → Team → Nat → State → Res) (s : State) :
    Host.Outcome State Fault Refusal :=
  issue s (fun t => { i t with hints := schedOnly, outside := (i t).outside || tiles.any (s.tileOutside t.id.teamId) })
    fun x s1 =>
      match s1.team? x.t.id.teamId with
      | none => .trap clsAccClass 0 0
      | some tm =>
        let g := x.t.id.gridId
        let site := siteOf tm.spanning x.t.id.rank
        let w := nth x.vals 0 0
        let t0 := nth tiles 0 0
        let size := 1024 * elemSize (s1.tileWide g t0)
        let wrong : Bool := match slot with
          | some k => decide (decide ((Slot.ofWord (s1.slotWord g k)).matrixClass = some 0) ≠ s1.tileWide g t0)
          | none => tiles.any fun t => s1.tileWide g t ≠ s1.tileWide g t0
        if wrong then .trap clsAccClass 0 0
        else if addr && ! addrWordOk w then .trap clsMatrix 0 0
        else if addr && decide (tm.scr * 4096 < w + size) then .trap clsScratchRange 0 w
        else if tiles.any (tm.tileWritten site) then .hold .blocked
        else if (match writes with
            | some t => tm.tileHeld site t || s1.tileRead tm.id t (some site)
            | none => false) then .hold .blocked
        else body x tm site s1

/-- Adds an accumulator instruction's entry to its partition's engine order (R223, R230). -/
def State.addEntry (s : State) (x : Args) (kind tile tile2 a b site lat : Nat) (opId : Nat) : State :=
  let e : EngineEntry :=
    { id := s.nextId, kind := kind, word := s.ir, tile := tile, tile2 := tile2, a := a, b := b, rc := 0, en := 0, thr := x.t.id,
      pos := x.t.pos, site := site, members := if kind = 3 then [(x.t.id, opId)] else [], claims := [], started := true,
      due := x.now + lat }
  ({ s with nextId := s.nextId + 1 }).updTeam x.t.id.teamId fun tm => { tm with engine := tm.engine ++ [e] }

/-- ACZERO (R231). -/
def execAczero (t : Nat) (s : State) : Host.Outcome State Fault Refusal :=
  accWord (fun _ => {}) [t] none (some t) false
    (fun x _ site s1 => .ok ((s1.updTeam x.t.id.teamId fun tm => tm.setShare t site fun _ => Elem.zero).addEntry x 1 t t 0 0 site 4 0)) s

/-- The bytes of an ACLD's image as the issuing thread's LD.s would read them, and their marks (R232). -/
def State.imageBytes (s : State) (x : Args) (off n : Nat) : Nat × Bool :=
  let acc := plainAccess (.load false) .s off n .tm
  match s.viewBytes (x.op s (.mem acc)) acc n with
  | some l => (viewValue l, l.any ByteView.poison)
  | none => (0, false)

/-- Older reads of the thread that still have to bind, whose order an image read at issue must keep (R271, R275). -/
def State.imageHeld (s : State) (x : Args) (off n : Nat) : Bool :=
  let acc := plainAccess (.load false) .s off n .tm
  s.readHeld (x.op s (.mem acc)) acc

/-- The first absent line of n bytes of a region (R244). -/
def Team.absentIn (t : Team) (off n : Nat) : Option Nat := (unitsOf off n 128).find? fun l => t.lines.any fun c => decide (c.line = l)

/-- ACLD (R232): a byte with a mark sets P of its element; an absent line parks the thread. -/
def execAcld (a : Nat) (l : Bool) (t : Nat) (s : State) : Host.Outcome State Fault Refusal :=
  accWord (fun _ => { srcs := [⟨a, 1⟩], kills := killIf l ⟨a, 1⟩ }) [t] none (some t) true
    (fun x tm site s1 =>
      let wide := s1.tileWide x.t.id.gridId t
      let off := nth x.vals 0 0
      let n := elemSize wide
      match tm.absentIn off (1024 * n) with
      | some line => .hold (.parked (.absentLine line))
      | none =>
        if s1.imageHeld x off (1024 * n) then .hold .dependent
        else
          let el (i : Nat) : Elem :=
            let r := s1.imageBytes x (off + i * n) n
            let e := Elem.ofImage wide r.1
            { e with poison := e.poison || r.2 }
          .ok ((s1.updTeam x.t.id.teamId fun tm => tm.setShare t site el).addEntry x 2 t t off (1024 * n) site 48 0)) s

/-- ACST (R232, R246): the element stores are performed at the finish, counted in k.mx. -/
def execAcst (a : Nat) (l : Bool) (t : Nat) (s : State) : Host.Outcome State Fault Refusal :=
  accWord (fun _ => { srcs := [⟨a, 1⟩], kills := killIf l ⟨a, 1⟩ }) [t] none none true
    (fun x _ site s1 =>
      let off := nth x.vals 0 0
      let n := 1024 * elemSize (s1.tileWide x.t.id.gridId t)
      if s1.tagged x.t.id.teamId off n then .trap clsClobber 0 off
      else
        let id := s1.nextId
        let s2 := { s1 with nextId := id + 1 }
        .ok ((s2.updThread x.t.id fun th => th.count .mx id).addEntry x 3 t t off n site 48 id)) s

/-- ACMOV aT, aU (R231): u is the source tile, t the destination. -/
def execAcmov (u t : Nat) (s : State) : Host.Outcome State Fault Refusal :=
  accWord (fun _ => {}) [t, u] none (some t) false
    (fun x _ site s1 =>
      .ok ((s1.updTeam x.t.id.teamId fun tm => tm.setShare t site fun i => tm.elem u site i).addEntry x 4 t u 0 0 site 8 0)) s

/-- The index in a share that an index word selects (R229). -/
def elemIndex (w : Nat) : Nat := 32 * bits w 0 5 + bits w 8 5

/-- The holding mask of ACRES: any of the six enables (R233). -/
def holdMaskAcres : Nat := 0x3F

/-- ACRES (R233): a resumed one resolves the element image of its record under the rounding code the record carries. -/
def execAcres (d a : Nat) (l : Bool) (sv t : Nat) (s : State) : Host.Outcome State Fault Refusal :=
  let slotOf (th : Thread) : Slot := Slot.ofWord (s.slotWord th.id.gridId sv)
  let regs (th : Thread) : Nat := if (slotOf th).fd = 0 then 2 else 1
  accWord (fun th =>
      { srcs := [⟨a, 1⟩], dests := (List.range (regs th)).map (d + ·), kills := killIf l ⟨a, 1⟩,
        flaw := (slotOf th).matrixClass.isNone || (decide (regs th = 2) && decide (d % 2 = 1)) }) [t] (some sv) none false
    (fun x tm site s1 =>
      let wide := s1.tileWide x.t.id.gridId t
      let sw := slotOf x.t
      let el := match x.t.resume with
        | some r => (match r.image with
          | some i => Elem.ofImage wide i
          | none => tm.elem t site (elemIndex (nth x.vals 0 0)))
        | none => tm.elem t site (elemIndex (nth x.vals 0 0))
      let rc := match x.t.resume with
        | some r => if r.image.isSome then r.rc else if sw.rm = 6 then fpcRounding x.t else sw.rm
        | none => if sw.rm = 6 then fpcRounding x.t else sw.rm
      let r := el.resolve wide (fmtOf sw.fd) sw.sat rc
      let n := regs x.t
      let en := enables x.t
      let s2 := s1.addOp { x.op s1 .result with
        due := some (x.now + 24), dests := (List.range n).map (d + ·), vals := wordsOf n r.1, flags := r.2, en := en, rc := rc,
        holds := decide (en &&& holdMaskAcres ≠ 0), image := some (el.image wide) }
      .ok s2) s

/-- ACCMP gD, aT, aU, gA (R234). -/
def execAccmp (d a : Nat) (l : Bool) (u t : Nat) (s : State) : Host.Outcome State Fault Refusal :=
  accWord (fun _ => { srcs := [⟨a, 1⟩], dests := [d], kills := killIf l ⟨a, 1⟩ }) [t, u] none none false
    (fun x tm site s1 =>
      let wide := s1.tileWide x.t.id.gridId t
      let i := elemIndex (nth x.vals 0 0)
      .ok (s1.result x 12 [d] [elemCompare wide (tm.elem t site i) (tm.elem u site i)])) s

/-- The element stores of an ACST are performed in the scratchpad, when the thread's order allows (R232, R272); a granule that was tagged after
it issued keeps its bytes (R246; DESIGN CHOICE, log 42). -/
def State.storeImage (s : State) (tm : Team) (e : EngineEntry) : State :=
  let wide := s.tileWide e.thr.gridId e.tile
  let n := elemSize wide
  (List.range 1024).foldl (fun s i =>
    if s.tagged tm.id (e.a + i * n) n then s
    else s.scratchWrite tm.id (e.a + i * n) n ((tm.elem e.tile e.site i).image wide) (2 ^ n - 1)) s

/-- Clears the marks of the granules an ACST wrote whole (R260). -/
def State.clearImageMarks (s : State) (tm : Team) (e : EngineEntry) : State :=
  s.updTeam tm.id fun t =>
    { t with poison := clearWhole t.poison e.a e.b 32 ++ t.poison.filter fun g => t.tags.contains g && (wholeUnits e.a e.b 32).contains g }

/-- Whether an older read of the thread has still to bind, or an older store of it to the same bytes to land, before which the stores of an ACST
are not performed (R271, R272): they are then performed later than 48 cycles after the issue (DESIGN CHOICE, log 42). -/
def State.entryHeld (s : State) (e : EngineEntry) : Bool :=
  s.ops.any fun o => decide (o.thr = e.thr) && decide (o.pos < e.pos) && o.isAccess &&
    (match o.access with
     | some b => (b.kind.reads || b.kind.atomic) && ! o.isBound || (b.kind.stores && decide (b.space = .s) &&
        decide (b.va < e.a + e.b) && decide (e.a < b.va + b.size))
     | none => false)

/-- ACCUMULATOR_INSTRUCTION_FINISH (R230, R232): an issued ACZERO, ACLD, ACMOV or ACST leaves its engine order at its latency; ACST
performs its stores and leaves k.mx. -/
def execAccumulatorInstructionFinish (s : State) : Host.Outcome State Fault Refusal :=
  let team := s.argTeam 0
  let entry := s.arg 3
  match s.team? team with
  | none => .next s
  | some tm => match tm.engine.find? fun e => decide (e.id = entry) && decide (e.kind ≠ 0) with
    | none => .next s
    | some e =>
      if s.now tm.core < e.due then .next s
      else if e.kind = 3 ∧ s.entryHeld e then .next s
      else
        let s := if e.kind = 3 then (s.storeImage tm e).clearImageMarks tm e else s
        let s := e.members.foldl (fun s m => s.retireOf m.1 m.2) s
        .next (s.updTeam team fun t => { t with engine := t.engine.filter fun y => decide (y.id ≠ e.id) })

end Machine
end Sys2Proof
end

