-- ==== Sys2Proof/Machine/Copy.lean ====
section
/-! DEFINITION. Asynchronous copies (R305 to R312, R467, R504): the descriptor and its checks, the sector requests of the tile copy
engine, the delivery of bytes with presence, cairns and poison, and cancellation. -/

namespace Sys2Proof
namespace Machine

-- ---------------------------------------------------------------- lines

/-- Starts one more pending copy of a line (R244). -/
def Team.raiseLine (t : Team) (line : Nat) : Team :=
  if t.lines.any (fun c => decide (c.line = line)) then
    { t with lines := t.lines.map fun c => if c.line = line then { c with count := c.count + 1 } else c }
  else { t with lines := t.lines ++ [⟨line, 1, false⟩] }

/-- The pending count of a line. -/
def Team.lineCount (t : Team) (line : Nat) : Nat :=
  match t.lines.find? fun c => decide (c.line = line) with
  | some c => c.count
  | none => 0

-- ---------------------------------------------------------------- finding

/-- A copy in flight by number. -/
def State.copy? (s : State) (id : Nat) : Option Copy := s.copies.find? fun c => decide (c.id = id)

/-- Changes a copy. -/
def State.updCopy (s : State) (id : Nat) (f : Copy → Copy) : State :=
  { s with copies := s.copies.map fun c => if c.id = id then f c else c }

/-- The issue record of a copy (R137). -/
def Copy.op (c : Copy) : Op :=
  { id := c.id, thr := c.thr, role := c.role, core := c.core, part := 0, pos := c.pos, pc := c.pc, word := c.word, latch := c.latch,
    opnd := [c.cairn.toNat], issued := 2 ^ 64, due := none, dests := [], vals := [], flags := 0, en := 0, rc := 0, late := true, holds := false,
    image := none, body := .reply, stage := .ready, cls := some .cp }

/-- COFF of a copy's cairn word (R306). -/
def Copy.coff (c : Copy) : Nat := bits c.cairn.toNat 0 20

/-- EN of a copy's cairn word (R306). -/
def Copy.en (c : Copy) : Bool := bitAt c.cairn.toNat 31

/-- The copy's scope for global bytes (R263). -/
def Copy.gscope (c : Copy) : Scope := c.scope.getD .dv

/-- The record of a copy: it parks no thread (R311). -/
def State.copyRecord (s : State) (c : Copy) (cls detail addr nrep : Nat) : FRec :=
  let gone := match s.thread? c.thr with
    | some t => decide (t.st = .exited)
    | none => true
  { ctx := c.thr.ctx, seq := 0, cls := cls, ir := gone, as := false, dfr := false, np := true, ent := false, rst := false, pre := false,
    grid := c.thr.grid, team := c.thr.team, rank := c.thr.rank, role := c.role, fpc := c.pc.toNat, ppc := 0, word := c.word.toNat,
    latch := c.latch, detail := detail, addr := addr, opnd := c.cairn.toNat, user := s.userOf c.thr.gridId, nrep := nrep, read := false }

-- ---------------------------------------------------------------- the start of a copy, and its lines

/-- The loads of a team's scratchpad that were issued while the lines were present are bound before a copy clears their presence (R244). -/
def State.bindPresent (s : State) (t : TeamId) (lines : List Nat) : State :=
  s.ops.foldl (fun s o => match o.body with
    | .mem a => if a.kind.reads ∧ a.space = .s ∧ o.thr.teamId = t ∧ o.stage = .ready ∧ lines.contains (a.va / 128) then s.actAccess o a else s
    | _ => s) s

/-- Starts a copy at its engine: its destination lines become pending, unless a count stands at 15 (R244). -/
def State.startCopy (s : State) (c : Copy) : State :=
  let lines := c.dstLines
  let full := c.recvs.any fun r => match s.team? r.team with
    | some tm => lines.any fun l => decide (15 ≤ tm.lineCount l)
    | none => false
  if full then s
  else
    let s := if c.dstS = .s then c.recvs.foldl (fun s r => (s.bindPresent r.team lines).updTeam r.team fun tm => lines.foldl Team.raiseLine tm) s
      else s
    s.updCopy c.id fun y => { y with started := true }

/-- A copy has delivered a line, or is cancelled: the count falls, a copy that it held starts its lines, and at 0 the line is present and its
threads wake (R35, R244, R245). -/
def State.lowerLine (s : State) (t : TeamId) (line : Nat) : State :=
  let s := s.updTeam t fun x =>
    { x with lines := (x.lines.map fun c => if c.line = line then { c with count := c.count - 1 } else c).filter fun c => decide (c.count ≠ 0) }
  let s := (s.copies.filter fun c => ! c.started).foldl State.startCopy s
  if s.lineAbsent t line then s
  else (s.threads.filter fun x => decide (x.id.teamId = t) && decide (x.st = .parked (.absentLine line))).foldl (fun s x => s.wakeThread x.id) s

/-- The lines of a chunk that a receiver's remaining chunks no longer touch lose the copy (R244). -/
def State.settleLines (s : State) (c : Copy) (r : Receiver) (x : Chunk) : State :=
  let rest := (c.open r).filter fun y => y ≠ x
  let parts := s.copies.filter fun y => decide (y.group = c.group) && decide (y.id ≠ c.id)
  ((c.linesOf x).filter fun l => ! (rest.any (fun y => (c.linesOf y).contains l) || parts.any fun y => y.dstLines.contains l)).foldl (fun s l => s.lowerLine r.team l) s

-- ---------------------------------------------------------------- ending

/-- The parts a copy is in flight as (R312): itself, and the others of its group. -/
def State.partsOf (s : State) (c : Copy) : List Copy := s.copies.filter fun y => decide (y.group = c.group)

/-- Whether a copy has anything left to deliver to a team. -/
def Copy.openTo (c : Copy) (t : TeamId) : Bool := c.recvs.any fun r => decide (r.team = t) && ! (c.open r).isEmpty

/-- A copy that has nothing left for a team is complete in it: its ICNT falls (R467), once. -/
def State.finishRecv (s : State) (c : Copy) (t : TeamId) : State :=
  if ! c.en || decide (c.total = 0) || c.done.contains t || (s.partsOf c).any fun y => y.openTo t then s
  else
    let s1 := s.cairnCopies t c.coff false
    { s1 with copies := s1.copies.map fun y => if y.group = c.group then { y with done := y.done ++ [t] } else y }

/-- The copy is done with its receivers: ICNT falls, k.cp retires, and the copy goes (R280, R467). -/
def State.endCopy (s : State) (c : Copy) : State :=
  let s := { s with copies := s.copies.filter fun x => decide (x.id ≠ c.id) }
  let s := (c.recvs.map (·.team)).foldl (fun s t => s.finishRecv c t) s
  if s.copies.any (fun x => decide (x.group = c.group)) then s else s.retireOf c.thr c.group

/-- Cancels one part of a copy: lines it still holds fall, undelivered bytes keep their contents. -/
def State.cancelPart (s : State) (id : Nat) : State :=
  match s.copy? id with
  | none => s
  | some c =>
    let parts := s.copies.filter fun y => decide (y.group = c.group) && decide (y.id ≠ c.id)
    let held (r : Receiver) : List Nat :=
      ((c.open r).flatMap c.linesOf).dedup.filter fun l => ! parts.any fun y => y.dstLines.contains l
    let s := if c.started then c.recvs.foldl (fun s r => (held r).foldl (fun s l => s.lowerLine r.team l) s) s else s
    let s := { s with replays := s.replays.filter fun r => match r.what with
      | .copy i _ => decide (i ≠ id)
      | _ => true }
    (s.dropPayloads fun o => decide (o = .copy c.thr.ctx id)).endCopy c

/-- Cancels a copy whole (R311, R376). -/
def State.cancelCopy (s : State) (id : Nat) : State :=
  match s.copy? id with
  | none => s
  | some c => ((s.copies.filter fun y => decide (y.group = c.group)).map (·.id)).foldl State.cancelPart s

/-- Ends the copy when nothing of it is left to deliver, or completes it in the receivers that have all of it (R467). -/
def State.checkCopy (s : State) (id : Nat) : State :=
  match s.copy? id with
  | none => s
  | some c =>
    if c.recvs.all (fun r => (c.open r).isEmpty) then s.endCopy c
    else (c.recvs.map (·.team)).foldl (fun s t => match s.copy? id with
      | some y => if y.openTo t then s else s.finishRecv y t
      | none => s) s

-- ---------------------------------------------------------------- reading and delivering

/-- Marks per byte from a unit mark test (R260). -/
def marksOf (n : Nat) (p : Nat → Bool) : Nat := (List.range n).foldl (fun m i => if p i then m + 2 ^ i else m) 0

/-- Reads n global bytes at a physical address as the copy's relaxed access, an access of its thread (R266, R267, R274, R282): the state after
it, the bytes, the marks; none while pending stores or a fill must come first. -/
def State.copyReadG (s : State) (c : Copy) (va pa n : Nat) : State × Option (Nat × Nat) :=
  let acc : Access := { plainAccess (.load false) .g va n c.gscope with pa := some pa, cp := c.cp }
  if acc.isWide && s.pathBusy c.op va pa then (s, none)
  else
    let s1 := if acc.isWide then s.pushSector (clusterOf c.core) pa else s
    let home := acc.isWide || (s1.viewBytes c.op { acc with cp := 0 } n).isNone
    let (s2, ok) := if home then (s1.touchFor c.thr pa c.cp).journalRead c.thr.gridId pa else (s1, true)
    if ! ok then (s2, none)
    else
      let s3 := if home && ! acc.isWide && decide (c.cp ≠ 3) then s2.l1Fill (clusterOf c.core) (pa / 64) c.cp 0 else s2
      match s3.viewBytes c.op acc n with
      | some l => (s3.observe c.thr l, some (viewValue l, marksOf n fun i => match l[i]? with
          | some b => b.poison
          | none => false))
      | none => (s3, none)

/-- Whether a copy still writes a line of a team: a pending copy of the line is its own. -/
def State.ownLine (s : State) (c : Copy) (t : TeamId) (line : Nat) : Bool :=
  decide (c.dstS = .s) && (s.partsOf c).any fun y => y.recvs.any fun r => decide (r.team = t) && (y.open r).any fun x => (y.linesOf x).contains line

/-- Whether the source lines of n bytes are present to a copy (R309): its own pending bytes do not hold it back, since a byte that is both source
and destination ends with a delivered value (DEDUCED, log 42). -/
def State.presentTo (s : State) (c : Copy) (tm : Team) (a n : Nat) : Bool :=
  (unitsOf a n 128).all fun l => decide (tm.lineCount l ≤ (s.ownLine c tm.id l).toNat)

/-- Reads a request's source bytes (R282, R309): an absent source line delays it, and a bank of the weight store in refresh (R255). -/
def State.copyRead (s : State) (c : Copy) (r : CopyReq) : State × Option (Nat × Nat) :=
  let a := c.srcAddr r.chunk
  let n := r.chunk.n
  match c.srcS with
  | .s => (match s.team? c.srcTeam with
    | none => (s, none)
    | some tm => (s, if s.presentTo c tm a n then some (memRead tm.scratch a n, marksOf n fun i => tm.poison.contains ((a + i) / 32)) else none))
  | .w => (s, if s.bankRefreshes (plainAccess (.load false) .w a n .cl) then none
      else some (memRead s.weights a n, marksOf n fun i => s.weightPoison.contains ((a + i) / 64)))
  | _ => s.copyReadG c a r.srcPa n

/-- Adds delivered bytes to the clean bytes of their units, and finds the units now wholly clean (R260). -/
def addClean (l : List CleanUnit) (recv a n unit marks : Nat) : List CleanUnit × List Nat :=
  (unitsOf a n unit).foldl (fun acc u =>
    let inUnit (i : Nat) : Bool := decide ((a + i) / unit = u)
    let bad := (List.range n).any fun i => inUnit i && bitAt marks i
    let m := (List.range n).foldl (fun m i => if inUnit i then m ||| 2 ^ ((a + i) % unit) else m) 0
    let old := match acc.1.find? fun x => decide (x.recv = recv) && decide (x.unit = u) with
      | some x => x.mask
      | none => 0
    let rest := acc.1.filter fun x => ! (decide (x.recv = recv) && decide (x.unit = u))
    if bad then acc
    else if old ||| m = 2 ^ unit - 1 then (rest, acc.2 ++ [u])
    else (rest ++ [⟨recv, u, old ||| m⟩], acc.2)) (l, [])

/-- Units of n bytes that a marked byte reaches. -/
def markedUnits (a n unit marks : Nat) : List Nat :=
  (unitsOf a n unit).filter fun u => (List.range n).any fun i => decide ((a + i) / unit = u) && bitAt marks i

/-- The new marks of a storage after bytes with marks are delivered, without the units now wholly clean. -/
def newMarks (old set clear : List Nat) : List Nat := set.foldl setAdd (clear.foldl setDel old)

/-- TRED's sum of one element of g bytes (R310). -/
def tredElem (g y x : Nat) : Nat :=
  let f : Fmt := if g = 2 then .bf16 else .f32
  (fadd f 0 (decodeFloat f y) (decodeFloat f x)).1

/-- TRED's sums over n bytes (R310). -/
def tredBytes (g : Nat) : Nat → Nat → Nat → Nat
  | 0, _, _ => 0
  | n + 1, old, new => tredElem g (old % 256 ^ g) (new % 256 ^ g) + 256 ^ g * tredBytes g n (old / 256 ^ g) (new / 256 ^ g)

/-- The bytes a copy writes over old ones: its own, or for TRED the sums. -/
def Copy.combine (c : Copy) (n old new : Nat) : Nat :=
  if c.kind ≥ 2 then tredBytes (copyGranule c.kind) (n / copyGranule c.kind) old new else new

/-- Delivers bytes into a receiver's scratchpad (R244, R246, R260, R268): tagged granules are skipped. -/
def State.deliverS (s : State) (c : Copy) (recv : Nat) (r : Receiver) (x : Chunk) (data marks : Nat) : State :=
  match s.team? r.team with
  | none => s
  | some tm =>
    let a := c.dstAddr x
    let skip := marksOf x.n fun i => tm.taggedAt (a + i)
    let mask := 2 ^ x.n - 1 - skip
    let v := c.combine x.n (memRead tm.scratch a x.n) data
    let units := if c.kind ≥ 2 then (c.clean, []) else addClean c.clean recv a x.n 32 (marks ||| skip)
    let skippedUnits := markedUnits a x.n 32 skip
    let set := (markedUnits a x.n 32 marks).filter fun u => ! skippedUnits.contains u
    let s := s.scratchWrite r.team a x.n v mask
    let s := s.updTeam r.team fun t => { t with
      poison := newMarks tm.poison set units.2
      lines := t.lines.map fun l => if (c.linesOf x).contains l.line then { l with fed := true } else l }
    let s := s.updCopy c.id fun y => { y with clean := units.1 }
    if skip ≠ 0 ∧ ! c.skipped then
      (s.updCopy c.id fun y => { y with skipped := true }).postRecord (dieOf c.core)
        (s.copyRecord c clsClobber 0 (a + ctz x.n skip) 0)
    else s

/-- Delivers bytes to global memory at the copy's scope (R260, R265, R267, R282), a .nol1 copy's through to the home slice (R250). -/
def State.deliverG (s : State) (c : Copy) (x : Chunk) (pa data marks : Nat) : State :=
  let a := c.dstAddr x
  let units := if c.kind ≥ 2 then (c.clean, []) else addClean c.clean 0 pa x.n 64 marks
  let set := markedUnits pa x.n 64 marks
  let cl := clusterOf c.core
  let s := s.updCopy c.id fun y => { y with clean := units.1 }
  let acc : Access := { plainAccess .store .g a x.n c.gscope with pa := some pa, cp := c.cp }
  if acc.isWide ∨ (c.cp = 3 ∧ c.kind < 2) then
    let s := if acc.isWide then s.pushSector cl pa else s
    let v := c.combine x.n (memRead s.home pa x.n) data
    ((({ s with home := memWrite s.home pa x.n v, homePoison := newMarks s.homePoison set units.2 }.touchFor c.thr pa c.cp).l1Drop
      cl pa x.n).checkHomeWaiters none (writtenAt pa v (2 ^ x.n - 1)))
  else
    let s := if c.kind ≥ 2 ∧ ! s.l1Has cl (pa / 64) (byteMask (pa % 64) x.n) then s.l1Fill cl (pa / 64) c.cp 0 else s
    let held := (s.l1Sector? cl (pa / 64)).getD (emptySector cl (pa / 64) c.cp)
    let old := held.data.toNat / 256 ^ (pa % 64) % 256 ^ x.n
    let v := c.combine x.n old data
    let s := (s.l1Write c.thr.ctx cl pa x.n v (2 ^ x.n - 1) c.cp 0).checkL1Waiters cl (fun _ => true) true (writtenAt pa v (2 ^ x.n - 1))
    s.mapL1 (fun y => decide (y.cluster = cl) && decide (y.sector = pa / 64)) fun y =>
      { y with poison := (held.poison && ! units.2.contains (pa / 64)) || ! set.isEmpty }

/-- The requests of a copy, with its parts, that write a 64-byte word of the weight store: whether all of them have their bytes. -/
def State.wordFull (s : State) (c : Copy) (word : Nat) : Bool :=
  (s.copies.filter fun y => decide (y.group = c.group)).all fun y =>
    ! (y.todo.any fun x => decide (y.dstAddr x / 64 = word)) &&
      y.reqs.all fun r => decide (y.dstAddr r.chunk / 64 ≠ word) || decide (r.st = .got)

/-- Delivers bytes to the weight store, as kernel-mode copies may (R255, R308). -/
def State.deliverW (s : State) (c : Copy) (x : Chunk) (data marks : Nat) : State :=
  let a := c.dstAddr x
  let units := addClean c.clean 0 a x.n 64 marks
  let s := s.updCopy c.id fun y => { y with clean := units.1 }
  { s with weights := memWrite s.weights a x.n data, weightPoison := newMarks s.weightPoison (markedUnits a x.n 64 marks) units.2 }

/-- Counts delivered bytes on a receiver's cairn (R467). -/
def State.deliverCount (s : State) (c : Copy) (team : TeamId) (n : Nat) : State :=
  if c.en then s.cairnArrive team c.coff n c.core else s

/-- Delivers one request of a TCOPY or TRED whole, in the order of R244 and R468: its bytes, its lines, its cairn. -/
def State.deliverReq (s : State) (c : Copy) (r : CopyReq) : State :=
  match c.recvs.head? with
  | none => s
  | some rc =>
    let s := match c.dstS with
      | .s => s.deliverS c 0 rc r.chunk r.data r.marks
      | .w => s.deliverW c r.chunk r.data r.marks
      | _ => s.deliverG c r.chunk r.dstPa r.data r.marks
    let s := s.settleLines c rc r.chunk
    let s := s.updCopy c.id fun y => { y with reqs := y.reqs.filter fun z => decide (z.id ≠ r.id) }
    (s.deliverCount c rc.team r.chunk.n).checkCopy c.id

/-- Delivers all requests of a copy, with its parts, that write one 64-byte word of the weight store: a read finds the word old or new, whole
(R258). -/
def State.deliverWord (s : State) (c : Copy) (word : Nat) : State :=
  let parts := s.copies.filter fun y => decide (y.group = c.group)
  let mine := parts.flatMap fun y => (y.reqs.filter fun r => decide (y.dstAddr r.chunk / 64 = word)).map fun r => (y.id, r)
  mine.foldl (fun s p => match s.copy? p.1 with
    | some y => s.deliverReq y p.2
    | none => s) s

-- ---------------------------------------------------------------- the tile copy engine

/-- The 4 KiB granule by which faulting requests of one side share a record (R504). -/
def Copy.granule (c : Copy) (write : Bool) (x : Chunk) : Nat := (if write then c.dstAddr x else c.srcAddr x) / 4096

/-- The requests of a copy with a fault whose record is not posted: their class and side, by granule (R504). -/
def Copy.faulted (c : Copy) : List (Nat × Bool × Nat) :=
  c.reqs.filterMap fun r => match r.st with
    | .faulted cls w => some (cls, w, c.granule w r.chunk)
    | _ => none

/-- Whether a copy has a chunk of a granule still to request: for a TCAST, in its present piece. -/
def Copy.owes (c : Copy) (w : Bool) (granule : Nat) : Bool :=
  (c.todo.any fun x => decide (c.granule w x = granule) && (decide (c.kind ≠ 1) || decide (c.posOf x / 4096 = c.piece)))
    || c.reqs.any fun r => decide (r.st = .walk) && decide (c.granule w r.chunk = granule)

/-- Posts the records of faulted requests whose granule has no request left to issue (R504), one for all parts of a copy, while the replay queue
has room (R371). -/
def State.postCopyFaults (s : State) (id : Nat) : State :=
  match s.copy? id with
  | none => s
  | some c => c.faulted.dedup.foldl (fun s k =>
      let parts := s.partsOf c
      let group := parts.flatMap fun y =>
        (y.reqs.filter fun r => decide (r.st = .faulted k.1 k.2.1) && decide (y.granule k.2.1 r.chunk = k.2.2)).map fun r => (y, r)
      let die := dieOf c.core
      if (parts.any fun y => y.owes k.2.1 k.2.2) || decide (1024 ≤ s.replayCount die) || group.isEmpty then s
      else
        let vaOf (p : Copy × CopyReq) : Nat := if k.2.1 then p.1.dstAddr p.2.chunk else p.1.srcAddr p.2.chunk
        let addr := group.foldl (fun m p => min m (vaOf p)) (2 ^ 64)
        let seq := s.nextSeqOf die c.thr.ctx
        let rec0 := s.copyRecord c k.1 (if k.2.1 then AccCode.copyWrite.num else AccCode.copyRead.num) addr group.length
        let s := s.postRecord die rec0
        let park (y : Copy) (r : CopyReq) : CopyReq :=
          if group.any fun g => decide (g.1.id = y.id) && decide (g.2.id = r.id) then { r with st := .parked seq } else r
        { s with
          copies := s.copies.map fun y => if y.group = c.group then { y with reqs := y.reqs.map (park y) } else y
          replays := s.replays ++ group.map fun p =>
            { die := die, seq := seq, ctx := c.thr.ctx, what := .copy p.1.id p.2.id, cls := k.1, ir := rec0.ir, va := vaOf p } }) s

/-- Whether a copy makes no progress: a request of it has faulted and the replay queue has no place for it (R371). -/
def State.copyStuck (s : State) (c : Copy) : Bool := decide (1024 ≤ s.replayCount (dieOf c.core)) && ! c.faulted.isEmpty

/-- Translates one side of a request (R411, R412): nothing to do outside .g. -/
def State.copyTranslate (s : State) (c : Copy) (write : Bool) (va : Nat) : State × TrRes :=
  if (if write then c.dstS else c.srcS) = .g then s.lookup c.core c.thr.ctx va (! write || decide (c.kind ≥ 2)) write false
  else (s, .ok 0 ⟨0, 0, 0, 0, false, false, false, none⟩)

/-- Makes or makes again one request: both sides are translated (R504). -/
def State.makeRequest (s : State) (c : Copy) (r : CopyReq) : State :=
  let put (s : State) (f : CopyReq → CopyReq) : State :=
    s.updCopy c.id fun y => { y with reqs := y.reqs.map fun z => if z.id = r.id then f z else z }
  match s.copyTranslate c false (c.srcAddr r.chunk) with
  | (s1, .fault cls) => (put s1 fun z => { z with st := .faulted cls false }).postCopyFaults c.id
  | (s1, .ok pa _) => match s1.copyTranslate c true (c.dstAddr r.chunk) with
    | (s2, .fault cls) => (put s2 fun z => { z with st := .faulted cls true }).postCopyFaults c.id
    | (s2, .ok pd _) => (put s2 fun z => { z with st := .ready, srcPa := pa, dstPa := pd }).postCopyFaults c.id

/-- COPY_SECTOR_REQUEST (R282, R309, R504): the engine starts a copy, or makes its next sector request: a released one first, then the next
in ascending source address. -/
def execCopySectorRequest (s : State) : Host.Outcome State Fault Refusal :=
  let copy := s.arg 0
  match s.copy? copy with
  | none => .next s
  | some c =>
    if ! c.started then .next (s.startCopy c)
    else if ! s.olderComplete c.thr c.pos || s.copyStuck c then .next s
    else match c.reqs.find? fun r => decide (r.st = .walk) with
      | some r => .next (s.makeRequest c r)
      | none => match c.todo with
        | [] => .next (s.postCopyFaults copy)
        | x :: rest =>
          if c.kind = 1 ∧ c.posOf x / 4096 ≠ c.piece then .next s
          else
            let r : CopyReq := ⟨s.nextId, x, 0, 0, 0, 0, .walk⟩
            let s1 := { s with nextId := s.nextId + 1 }.updCopy copy fun y => { y with todo := rest, reqs := y.reqs ++ [r] }
            match s1.copy? copy with
            | some c1 => .next (s1.makeRequest c1 r)
            | none => .next s1

/-- Whether a copy that adds reads its destination sector at the home slice: for a D grid it is journalled there (R310, R490). -/
def State.sumRead (s : State) (c : Copy) (r : CopyReq) : State × Bool :=
  let held := ! c.gscope.wide && s.l1Has (clusterOf c.core) (r.dstPa / 64) (byteMask (r.dstPa % 64) r.chunk.n)
  if c.kind < 2 ∨ c.dstS ≠ .g ∨ held then (s, true) else (s.touchFor c.thr r.dstPa c.cp).journalRead c.thr.gridId r.dstPa

/-- Whether bytes of a copy may be delivered to a team now: an arrival on its cairns falls before the cairn instructions of its cycle (R468), and
one after them in the next. -/
def State.cairnOpen (s : State) (c : Copy) (t : TeamId) : Bool :=
  ! c.en || (match s.team? t with
    | some tm => decide (tm.cairnAt ≠ s.now tm.core + 1)
    | none => true)

/-- COPY_DELIVERY (R244, R282, R309): one translated request moves on: its source bytes are read, then, for a TCOPY or TRED, delivered. The
bytes of a TCAST go to its receivers by the chain of R397. -/
def execCopyDelivery (s : State) : Host.Outcome State Fault Refusal :=
  let copy := s.arg 0
  let req := s.arg 1
  match s.copy? copy with
  | none => .next s
  | some c => match c.reqs.find? fun r => decide (r.id = req) with
    | none => .next s
    | some r => match r.st with
      | .ready => (match s.copyRead c r with
        | (s1, none) => .next s1
        | (s1, some (v, m)) => .next (s1.updCopy copy fun y =>
            { y with reqs := y.reqs.map fun z => if z.id = req then { z with data := v, marks := m, st := .got } else z }))
      | .got =>
        if c.kind = 1 ∨ s.copyStuck c ∨ ! (c.recvs.all fun r => s.cairnOpen c r.team) then .next s
        else if c.dstS = .w then .next (if s.wordFull c (c.dstAddr r.chunk / 64) then s.deliverWord c (c.dstAddr r.chunk / 64) else s)
        else if c.dstS = .g ∧ (if c.gscope.wide then s.pathBusy c.op (c.dstAddr r.chunk) r.dstPa else s.coreOverlap c.core r.dstPa r.chunk.n) then
          .next s
        else
          let (s1, ok) := s.sumRead c r
          .next (if ok then s1.deliverReq c r else s1)
      | _ => .next s

-- ---------------------------------------------------------------- the words

/-- The space a code names in a copy word (R305). -/
def copySpace : Nat → Space
  | 0 => .g | 1 => .s | 3 => .w | _ => .k

/-- Reserved bits of an address word (R306). -/
def addrWordBad (sp : Space) (w : Nat) : Bool :=
  match sp with
  | .s => decide (w / 2 ^ 22 ≠ 0)
  | .w => decide (w / 2 ^ 31 ≠ 0)
  | _ => false

/-- The address an address word gives in its space (R306). -/
def addrOf (sp : Space) (w : Nat) : Nat :=
  match sp with
  | .s => bits w 0 20
  | _ => w

/-- PEER of an address word (R306). -/
def peerBit (sp : Space) (w : Nat) : Bool := decide (sp = .s) && bitAt w 20

/-- Whether a team stands on a core. -/
def Team.onCore (t : Team) (core : Nat) : Bool := decide (t.core = core) || (t.spanning && decide (t.core + 1 = core))

/-- The team of a grid with the lowest identifier on a core, other than one (R307). -/
def State.gridTeamOn (s : State) (g : GridId) (core : Nat) (other : Option TeamId) : Option TeamId :=
  (leastBy (fun a b => decide (a.team < b.team))
    ((s.teams.filter fun t => decide (t.id.ctx = g.ctx) && decide (t.id.grid = g.grid) && t.onCore core && decide (some t.id ≠ other)).map (·.id)))

/-- The peer team an address word names, from the issuing core (R307). -/
def State.peerTeam (s : State) (t : TeamId) (core w : Nat) : Option TeamId :=
  s.gridTeamOn ⟨t.ctx, t.grid⟩ (core / 2 * 2 + bits w 21 1) (some t)

/-- The first row byte outside [0, limit) among the rows of one side (R308); none when every byte lies inside. -/
def firstOutside (base : Nat) (stride : Int) (rowb limit : Nat) (nrow : Nat) : Option Nat :=
  if rowb = 0 then none
  else (List.range nrow).findSome? fun (r : Nat) =>
    let a : Int := (base : Int) + r * stride
    if a < 0 then some (wrap a 64) else if (limit : Int) < a + rowb then some (max a.toNat limit) else none

/-- The trap a copy takes at issue, in the order of R308 and R467. -/
def copyTrap (s : State) (x : Args) (c : Copy) (srcW dstW mask : Nat) (flawed : Bool) (recvs : List (Option TeamId)) : Option (Nat × Nat) :=
  let g := copyGranule c.kind
  let limit (t : TeamId) : Nat := s.scrOf t * 4096
  let die := dieOf x.core
  let maskBits := onesFrom 64 0 mask
  if flawed || decide (c.src % g ≠ 0) || decide (c.dst % g ≠ 0) || decide (c.rowb % g ≠ 0) || decide (c.sstr % g ≠ 0)
      || decide (c.dstr % g ≠ 0) || (c.en && decide (c.coff % 32 ≠ 0)) || (decide (c.kind = 1) && (decide (mask = 0) || peerBit .s dstW))
      || (decide (c.kind = 1) && peerBit c.srcS srcW)
      || (decide (c.dstS = .w) && ! s.kernelMode x.t.id.gridId) then some (clsCopy, 0)
  else if ((decide (c.srcS = .w) || decide (c.dstS = .w)) && ! s.hasWeights)
      || (decide (c.kind = 1) && maskBits.any (fun b => ! s.clusterEnabled (die * 32 + b / 2))) then some (clsAbsent, 0)
  else if s.detMode x.t.id.gridId &&
      ((decide (c.kind ≠ 1) && peerBit c.dstS dstW) || (decide (c.kind = 1) && maskBits.any (fun b => decide (die * 64 + b ≠ x.core)))) then
    some (clsCrossTeam, 0)
  else if recvs.any Option.isNone || (peerBit c.srcS srcW && (s.peerTeam x.t.id.teamId x.core srcW).isNone) then some (clsCopyTarget, 0)
  else
    let srcOut := if c.srcS = .s then firstOutside c.src c.sstr c.rowb (limit c.srcTeam) c.nrow else none
    let dstOut := if c.dstS = .s then c.recvs.findSome? fun r => firstOutside c.dst c.dstr c.rowb (limit r.team) c.nrow else none
    let cairnOut := if (c.en && c.recvs.any (fun r => decide (limit r.team < c.coff + 32))) then some c.coff else none
    match srcOut <|> dstOut <|> cairnOut with
    | some a => some (clsScratchRange, a)
    | none =>
      let wOut := (if c.srcS = .w then firstOutside c.src c.sstr c.rowb (2 ^ 31) c.nrow else none)
        <|> (if c.dstS = .w then firstOutside c.dst c.dstr c.rowb (2 ^ 31) c.nrow else none)
      match wOut with
      | some a => some (clsWeightRange, a)
      | none =>
        if (c.en && c.recvs.any (fun r => match s.team? r.team with
          | some tm => ! tm.taggedAt c.coff
          | none => true)) then some (clsCairn, c.coff)
        else none

/-- Source address word of a copy's descriptor (R306). -/
def descSrc (v : Nat) : Nat := bits v 0 64
/-- Destination address word of a copy's descriptor (R306). -/
def descDst (v : Nat) : Nat := bits v 64 64
/-- MASK of a TCAST's descriptor (R306). -/
def descMask (v : Nat) : Nat := bits v 256 64

/-- The teams a copy delivers to with their cores (R306, R307): its own, its peer, or one on each core of a TCAST's mask. -/
def State.copyTargets (s : State) (x : Args) (kind v : Nat) (dstS : Space) : List (Option TeamId × Nat) :=
  let me := x.t.id.teamId
  if kind = 1 then (onesFrom 64 0 (descMask v)).map fun b =>
      let core := dieOf x.core * 64 + b
      (if core = x.core then some me else s.gridTeamOn x.t.id.gridId core none, core)
  else if peerBit dstS (descDst v) then [(s.peerTeam me x.core (descDst v), x.core / 2 * 2 + bits (descDst v) 21 1)]
  else [(some me, x.core)]

/-- The receivers of a copy: its targets, each team once. -/
def receiversOf (targets : List (Option TeamId × Nat)) : List Receiver :=
  targets.foldl (fun (acc : List Receiver) p => match p.1 with
    | some t => if acc.any (fun r => decide (r.team = t)) then acc else acc ++ [⟨t, p.2, 0, 0⟩]
    | none => acc) []

/-- The copy a word describes (R305, R306): v its descriptor, cw its cairn word; nothing of it has been requested. -/
def State.copyDesc (s : State) (x : Args) (id kind sc dc cw v : Nat) : Copy :=
  let srcS := copySpace sc
  let dstS := copySpace dc
  let me := x.t.id.teamId
  { id := id, group := id, pos := x.t.pos, thr := x.t.id, role := x.t.role, core := x.core, kind := kind, srcS := srcS, dstS := dstS,
    src := addrOf srcS (descSrc v), dst := addrOf dstS (descDst v), rowb := bits v 128 20, nrow := bits v 160 16,
    sstr := sext (bits v 192 32) 32, dstr := sext (bits v 224 32) 32, cairn := BitVec.ofNat 32 cw,
    scope := Scope.ofCode (modScope x.t.latch), cp := modCp x.t.latch, pc := x.t.pc, word := s.ir, latch := x.t.latch,
    srcTeam := if peerBit srcS (descSrc v) then (s.peerTeam me x.core (descSrc v)).getD me else me,
    recvs := receiversOf (s.copyTargets x kind v dstS), started := false, todo := [], piece := 0, reqs := [], clean := [],
    skipped := false, walk := false, taken := 0, grants := [], slotAt := none, done := [] }

/-- Reserved bits of a copy's descriptor and cairn word (R306). -/
def descFlawed (sc dc cw v : Nat) : Bool :=
  addrWordBad (copySpace sc) (descSrc v) || addrWordBad (copySpace dc) (descDst v) || decide (bits v 148 12 ≠ 0)
    || decide (bits v 176 16 ≠ 0) || decide (bits cw 20 11 ≠ 0)

/-- Whether a copy must wait for its cairn: ICNT of a receiver's stands at its largest (R461). -/
def State.cairnFull (s : State) (c : Copy) : Bool :=
  c.en && c.recvs.any fun r => match s.team? r.team with
    | some tm => decide (65535 ≤ (tm.cairn c.coff).icnt)
    | none => false

/-- A copy of at least one byte begins (R309, R459, R467): it is counted in k.cp and on its receivers' cairns. -/
def State.beginCopy (s : State) (c : Copy) : State :=
  let s := { s with nextId := s.nextId + 1, copies := s.copies ++ [c] }
  let s := s.updThread c.thr fun t => t.count .cp c.id
  (if c.en then c.recvs.foldl (fun s r => s.cairnCopies r.team c.coff true) s else s).startCopy c

/-- A copy of no bytes: it completes at once (R309). -/
def State.emptyCopy (s : State) (c : Copy) : State :=
  (({ s with nextId := s.nextId + 1 }).updThread c.thr fun t => t.count .cp c.id).retireOf c.thr c.id

/-- A copy word (R305 to R309): kind, source and destination space codes. -/
def copyWord (kind d a : Nat) (l : Bool) (sc dc : Nat) (s : State) : Host.Outcome State Fault Refusal :=
  let n := if kind = 1 then 10 else 8
  issue s (fun _ => { srcs := [⟨a, 1⟩, ⟨d, n⟩], recs := 1, kills := killIf l ⟨a, 1⟩, hints := { scope := true, cp := true, live := false } })
    fun x s1 =>
      let cw := nth x.vals 0 0
      let v := nth x.vals 1 0
      let c := s.copyDesc x s1.nextId kind sc dc cw v
      match copyTrap s x c (descSrc v) (descDst v) (descMask v) (descFlawed sc dc cw v) ((s.copyTargets x kind v c.dstS).map (·.1)) with
      | some (cls, addr) => .trap cls 0 addr
      | none =>
        if c.total = 0 then .ok (s1.emptyCopy c)
        else if s.cairnFull c then .hold .blocked
        else .ok (s1.beginCopy { c with todo := c.requests })

/-- TCOPY (R309): e the destination space, sv the source space. -/
def execTcopy (d a : Nat) (l : Bool) (e sv : Nat) (s : State) : Host.Outcome State Fault Refusal := copyWord 0 d a l sv e s

/-- TCAST (R309, R397). -/
def execTcast (d a : Nat) (l : Bool) (sv : Nat) (s : State) : Host.Outcome State Fault Refusal := copyWord 1 d a l sv 1 s

/-- TRED.bf16 (R310). -/
def execTredBf16 (d a : Nat) (l : Bool) (e sv : Nat) (s : State) : Host.Outcome State Fault Refusal := copyWord 2 d a l sv e s

/-- TRED.f32 (R310). -/
def execTredF32 (d a : Nat) (l : Bool) (e sv : Nat) (s : State) : Host.Outcome State Fault Refusal := copyWord 3 d a l sv e s

end Machine
end Sys2Proof
end

