-- ==== Sys2Proof/Machine/Queue.lean ====
section
/-! DEFINITION. Operand queues and submissions to islands (R313 to R326): QPOP, QPEEK, QPUSH, ISUB and TRACE. -/

namespace Sys2Proof
namespace Machine

-- ---------------------------------------------------------------- slots

/-- Whether n slots from the tail on can be reserved (R315): each is Empty, and was not emptied in this cycle. -/
def OpQueue.room (q : OpQueue) (now n : Nat) : Bool :=
  (List.range n).all fun i =>
    let x := q.slot ((q.tail.toNat + i) % 16)
    decide (x.st = .empty) && decide (x.freeFrom ≤ now)

/-- Reserves n slots from the tail on (R313): their numbers, and the queue. -/
def OpQueue.reserve (q : OpQueue) (n : Nat) (p : Producer) : List Nat × OpQueue :=
  let l := (List.range n).map fun i => (q.tail.toNat + i) % 16
  (l, { q with
    slots := q.slots.zipIdx.map fun x => if l.contains x.2 then { x.1 with st := .reserved, prod := p, poison := false, data := 0 } else x.1
    tail := q.tail + BitVec.ofNat 4 n
    sheld := if p = .slice then q.sheld + BitVec.ofNat 5 n else q.sheld })

/-- Changes one slot. -/
def OpQueue.updSlot (q : OpQueue) (i : Nat) (f : QSlot → QSlot) : OpQueue :=
  { q with slots := q.slots.zipIdx.map fun x => if x.2 = i then f x.1 else x.1 }

/-- A reserved slot becomes Ready with bytes and a mark (R315). -/
def Team.fillSlot (t : Team) (q i data : Nat) (mark : Bool) : Team :=
  t.updQueue q fun x => x.updSlot i fun y => { y with st := .ready, data := BitVec.ofNat 2048 data, poison := y.poison || mark }

/-- The bytes of a slot from an offset (R319). -/
def QSlot.bytes (x : QSlot) (off n : Nat) : Nat := x.data.toNat / 256 ^ off % 256 ^ n

-- ---------------------------------------------------------------- QPOP, QPEEK, QPUSH

/-- The size a size code names, 0 for none (R318). -/
def popSize (z : Nat) : Nat := if z = 0 then 0 else 2 ^ (z + 1)

/-- QPOP and QPEEK (R319, R320): the slot must be Ready; its bytes are read in the issue cycle. -/
def popWord (pop : Bool) (d a : Nat) (l : Bool) (q z : Nat) (s : State) : Host.Outcome State Fault Refusal :=
  let size := popSize z
  let dests := (Src.mk d (size / 4)).regs
  issue s (fun _ => { srcs := if size = 0 then [] else [⟨a, 1⟩], dests := dests, kills := killIf (l && decide (size ≠ 0)) ⟨a, 1⟩,
                      hints := schedOnly })
    fun x s1 =>
      let off := nth x.vals 0 0 % 256
      if size ≠ 0 ∧ off % size ≠ 0 then .trap clsMisaligned 0 0
      else match s1.team? x.t.id.teamId with
        | none => .hold .blocked
        | some tm =>
          let qu := tm.queue q
          match qu.front with
          | none => .hold .blocked
          | some i =>
            let f := qu.slot i
            if f.st ≠ .ready then .hold .blocked
            else if size ≠ 0 ∧ f.poison then .trap clsPoison 0 0
            else
              let s2 := if pop then s1.updTeam tm.id fun t => t.updQueue q fun y => y.pop x.now i else s1
              .ok (if size = 0 then s2 else s2.result x 8 dests (wordsOf (size / 4) (f.bytes off size)))

/-- QPOP (R319). -/
def execQpop (d a : Nat) (l : Bool) (q z : Nat) (s : State) : Host.Outcome State Fault Refusal := popWord true d a l q z s

/-- QPEEK (R319, R320). -/
def execQpeek (d a : Nat) (l : Bool) (q z : Nat) (s : State) : Host.Outcome State Fault Refusal := popWord false d a l q z s

/-- QPUSH (R321): the slot is reserved and the bytes are read at issue; they arrive by QUEUE_SLOT_ARRIVAL once the thread's earlier
accesses have completed. -/
def execQpush (a : Nat) (l : Bool) (q : Nat) (s : State) : Host.Outcome State Fault Refusal :=
  issue s (fun _ => { srcs := [⟨a, 1⟩], kills := killIf l ⟨a, 1⟩, hints := schedOnly })
    fun x s1 =>
      let o := nth x.vals 0 0
      if o % 64 ≠ 0 then .trap clsMisaligned 0 0
      else if s.scrOf x.t.id.teamId * 4096 < o + 256 then .trap clsScratchRange 0 o
      else match s1.team? x.t.id.teamId with
        | none => .hold .blocked
        | some tm =>
          match tm.absentIn o 256 with
          | some line => .hold (.parked (.absentLine line))
          | none =>
            let qu := tm.queue q
            if s1.imageHeld x o 256 then .hold .dependent
            else if ! qu.room x.now 1 then .hold .blocked
            else
              let r := qu.reserve 1 .thread
              let b := s1.imageBytes x o 256
              let s2 := s1.updTeam tm.id fun t => t.updQueue q fun _ => r.2
              let op := { x.op s2 (.push q (nth r.1 0 0) b.2) with vals := [b.1], cls := some .st }
              .ok ((s2.addOp op).updThread x.t.id fun t => t.count .st op.id)

/-- The bytes of a QPUSH arrive (R321): its slot is Ready and k.st retires. -/
def State.pushArrives (s : State) (o : Op) : State :=
  match o.body with
  | .push q i mark =>
    if s.olderComplete o.thr o.pos && s.observedDone o.thr then
      (s.updTeam o.thr.teamId fun t => t.fillSlot q i (nth o.vals 0 0) mark).completeOp o
    else s
  | _ => s

-- ---------------------------------------------------------------- submissions

/-- The image a context's binding resolved to for a class (R445). -/
def State.boundImage (s : State) (ctx cls : Nat) : Option Img :=
  match s.ctx? ctx with
  | none => none
  | some c => match c.bound with
    | none => none
    | some b => if cls = 0 then b.raster else if cls = 1 then b.ray else b.filter

/-- An island. -/
def State.island (s : State) (cls isl : Nat) : Island :=
  (s.islands.find? fun x => decide (x.cls = cls) && decide (x.isl = isl)).getD ⟨cls, isl, none, none, 0, 0, []⟩

/-- Puts an island back. -/
def State.setIsland (s : State) (x : Island) : State :=
  { s with islands := (s.islands.filter fun y => ! (decide (y.cls = x.cls) && decide (y.isl = x.isl))) ++ [x] }

/-- Whether an island takes a submission of a context into its buffer now (R323, R446): it serves the context with the version that resolved
for it. The spec gives the buffer no size, and here it has no end (DESIGN CHOICE, log 27). -/
def Island.takes (x : Island) (ctx : Nat) (img : Option Img) (now : Nat) : Bool :=
  decide (x.ctx = some ctx) && decide (x.img = img) && decide (x.loaded ≤ now) &&
    (decide (x.count < 4096) || x.waiting.all fun c => decide (c = ctx))

/-- A submission that waits is Blocked, and its context waits for the island (R446). -/
def State.waitIsland (s : State) (x : Island) (ctx : Nat) : State := s.setIsland { x with waiting := setAdd x.waiting ctx }

/-- An island that takes a submission of a context (R446): one more accepted, and none of that context's waits any more. -/
def State.takeIsland (s : State) (x : Island) (ctx : Nat) : State :=
  s.setIsland { x with count := x.count + 1, waiting := x.waiting.filter fun c => decide (c ≠ ctx) }

/-- The enabled queries that name a job's descriptor (R473, R475). -/
def State.probes (s : State) (ctx job : Nat) : List Nat :=
  match s.ctx? ctx with
  | none => []
  | some c => (List.range 8).filter fun q =>
      let w := (nth c.oqj q 0).toNat
      bitAt w 0 && decide (bits w 9 43 * 512 = job)

/-- A submission that its island has accepted: a DRAW has its queries sampled (R475). -/
def IslandJob.buffer (s : State) (j : IslandJob) : IslandJob :=
  let draw := decide (j.cls = 0) && ! j.trace && decide (bits j.ctl 8 8 = 1)
  { j with buffered := true, queries := if draw then s.probes j.thr.ctx (bits j.recd (8 * 0x18) 64) else [] }

/-- Changes a submission. -/
def State.updJob (s : State) (id : Nat) (f : IslandJob → IslandJob) : State :=
  { s with jobs := s.jobs.map fun j => if j.id = id then f j else j }

/-- A submission before its control word, record and slots are known. -/
def jobOf (x : Args) (id cls isl ctl cf : Nat) : IslandJob :=
  { id := id, cls := cls, isl := isl, thr := x.t.id, core := x.core, ctl := ctl, cf := cf, recd := 0, size := 0, queue := 0, slots := [],
    trace := false, frame := 0, frameWords := 0, buffered := false, got := [], dead := [], fault := none, parked := none, commits := [], prim := 0, cull := 0,
    passes := 0, queries := [], offered := false, left := [], result := none }

/-- The island an ISUB addresses (R322). -/
def islandOf (cls core ri : Nat) : Nat :=
  if cls = 0 then dieOf core * 4 + ri else if cls = 1 then clusterOf core else core

/-- ISUB (R322, R323): c is the class, r the record size code. -/
def execIsub (d a : Nat) (l : Bool) (c r : Nat) (s : State) : Host.Outcome State Fault Refusal :=
  let n := 4 * 2 ^ r
  issue s (fun _ => { srcs := [⟨a, 1⟩, ⟨d, n⟩], recs := 1, kills := killIf l ⟨a, 1⟩, hints := schedOnly })
    fun x s1 =>
      let ctl := nth x.vals 0 0
      let q := bits ctl 0 3
      let nr := bits ctl 4 4
      let ri := bits ctl 16 2
      if bitAt ctl 3 ∨ bits ctl 18 14 ≠ 0 ∨ (c ≠ 0 ∧ ri ≠ 0) then .trap clsIsland 0 0
      else if (s1.boundImage x.t.id.ctx c).isNone then .trap clsIslandLoad 0 0
      else match s1.team? x.t.id.teamId with
        | none => .hold .blocked
        | some tm =>
          let isl := s1.island c (islandOf c x.core ri)
          let qu := tm.queue q
          if ! isl.takes x.t.id.ctx (s1.boundImage x.t.id.ctx c) x.now then .holdWith .blocked (s.waitIsland isl x.t.id.ctx)
          else if ! qu.room x.now nr then .hold .blocked
          else
            let res := qu.reserve nr .island
            let s2 := (s1.takeIsland isl x.t.id.ctx).updTeam tm.id fun t => t.updQueue q fun _ => res.2
            let id := s2.nextId
            let job := { jobOf x id c isl.isl ctl (r + 4 * c) with
              recd := nth x.vals 1 0, size := 4 * n, queue := q, slots := res.1 }
            let s3 := s2.addOp { x.op s2 (.island id) with cls := some .is }
            .ok { s3.updThread x.t.id fun t => t.count .is id with jobs := s3.jobs ++ [job.buffer s3] }

/-- The trace state of a thread as TRACE first leaves it (R325): earlier frames are released when no trace is outstanding. -/
def Thread.freeFrames (t : Thread) : Thread :=
  if t.tdep = 0 ∧ t.fsize ≠ 0 ∧ t.ssp = t.fbase + t.fsize then { t with ssp := t.fbase, fsize := 0 } else t

/-- TRACE (R324, R325). -/
def execTrace (d a : Nat) (l : Bool) (s : State) : Host.Outcome State Fault Refusal :=
  issue s (fun _ => { srcs := [⟨a, 1⟩, ⟨d, 8⟩], recs := 1, dests := (Src.mk d 8).regs, kills := killIf l ⟨a, 1⟩, hints := schedOnly })
    fun x s1 =>
      let ctl := nth x.vals 0 0
      let np := bits ctl 0 5
      let depth := match s1.launchOf x.t.id.gridId with
        | some g => g.depth
        | none => 0
      if bits ctl 5 3 ≠ 0 ∨ bits ctl 16 16 ≠ 0 ∨ 24 < np then .trap clsIsland 0 0
      else if (s1.boundImage x.t.id.ctx 1).isNone then .trap clsIslandLoad 0 0
      else if depth ≤ x.t.tdep.toNat then .trap clsRecursion 0 0
      else
        let t1 := x.t.freeFrames
        let beyond := d + 8 + np - x.t.budget
        let fsz := 8 * ceilDiv beyond 2
        if s1.scratchSize x.t < t1.ssp.toNat + fsz then .trap clsOverflow 0 0
        else
          let isl := s1.island 1 (clusterOf x.core)
          if ! isl.takes x.t.id.ctx (s1.boundImage x.t.id.ctx 1) x.now then .holdWith .blocked (s.waitIsland isl x.t.id.ctx)
          else
            let frame := s1.scratchArea x.t + t1.ssp.toNat
            let id := s1.nextId
            let fs := BitVec.ofNat 23 fsz
            let dests := (Src.mk d (8 + np - beyond)).regs
            let job := { jobOf x id 1 isl.isl ctl 0 with
              recd := nth x.vals 1 0, size := 64, trace := true, frame := frame, frameWords := beyond }
            let s2 := (s1.takeIsland isl x.t.id.ctx).addOp { x.op s1 (.island id) with cls := some .is, dests := dests }
            let s3 := s2.updThread x.t.id fun t =>
              { t.count .is id with
                fbase := if fsz ≠ 0 ∧ t1.fsize = 0 then t1.ssp else t1.fbase, fsize := t1.fsize + fs, ssp := t1.ssp + fs, tdep := t1.tdep + 1 }
            .ok { s3 with jobs := s3.jobs ++ [job.buffer s3] }

end Machine
end Sys2Proof
end

