-- ==== Sys2Proof/Machine/Slice.lean ====
section
/-! DEFINITION. The access slice (R327 to R334): its words, the reads it makes, their translation (TABLE_WALK) and their arrival
(QUEUE_SLOT_ARRIVAL). -/

namespace Sys2Proof
namespace Machine

-- ---------------------------------------------------------------- words of a slice

/-- What a slice word does: the slice moves on in a state, it waits at the word, or it stops with a class and an address (R334). -/
inductive SliceRes where
  | go (sl : Slice) (s : State)
  | wait
  | stop (cls addr : Nat)

/-- Changes a team's slice. -/
def State.setSlice (s : State) (t : TeamId) (sl : Slice) : State := s.updTeam t fun x => { x with slice := x.slice.map fun _ => sl }

/-- The slice at its next word (R327). -/
def Slice.next (sl : Slice) : Slice := { sl with apc := sl.apc + 4, latch := [] }

/-- A word of major 0x3A (R328): a thread takes illegal instruction (R113), a slice checks its hints. -/
def sliceWord (h : Hints) (s : State) (body : Team → Slice → SliceRes) : Host.Outcome State Fault Refusal :=
  match s.cur with
  | .none => .fault .noActor
  | .thread id => (match s.thread? id with
    | some t => .next (s.raiseTrap t clsIllegal s.ir 0 0 none)
    | none => .fault .noActor)
  | .slice id => match s.team? id with
    | none => .fault .noActor
    | some tm => match tm.slice with
      | none => .fault .noActor
      | some sl =>
        if sl.run ≠ .running then .next s
        else if ! hintsOk h sl.latch then .next (s.stopSlice id clsIllegal s.ir 0)
        else match body tm sl with
          | .wait => .next s
          | .stop cls addr => .next (s.stopSlice id cls s.ir addr)
          | .go sl1 s1 => .next (s1.setSlice id sl1)

/-- imm9 of R329: with an IMM hint, sext(PAY × 2^9 + CF[12:4], 31). -/
def imm9 (latch : List Word) (i : Nat) : Int :=
  match latchPay latch 0 with
  | some p => sext (p * 2 ^ 9 + i) 31
  | none => sext i 9

/-- An x register of a slice. -/
def Slice.xreg (sl : Slice) (n : Nat) : Nat := (nth sl.x n 0).toNat

/-- The stride of an x register at a level (R327). -/
def Slice.stride (sl : Slice) (n level : Nat) : Int := sext (nth sl.strides (4 * n + level) 0).toNat 32

/-- A.LOOP (R329): a fifth level stops the instance. -/
def execALoop (c : Nat) (s : State) : Host.Outcome State Fault Refusal :=
  sliceWord { schedOnly with imm := 2 } s fun _ sl =>
    if 4 ≤ sl.loops.length then .stop clsIllegal 0
    else
      let n := (latchPay0 sl.latch 0) * 2 ^ 9 + c + 1
      .go { sl.next with loops := sl.loops ++ [⟨sl.apc + 4, BitVec.ofNat 32 n, 0⟩] } s

/-- Adds a number of strides of a level to every x register (R330). -/
def Slice.advance (sl : Slice) (level : Nat) (k : Int) : Slice :=
  { sl with x := (List.range 8).map fun n => BitVec.ofNat 64 (wrap ((sl.xreg n : Int) + k * sl.stride n level) 64) }

/-- A.END (R330). -/
def execAEnd (s : State) : Host.Outcome State Fault Refusal :=
  sliceWord schedOnly s fun _ sl =>
    match sl.loops.getLast? with
    | none => .stop clsIllegal 0
    | some lv =>
      let level := sl.loops.length - 1
      let it := lv.it.toNat + 1
      if it < lv.cnt.toNat then
        .go { (sl.next.advance level 1) with apc := lv.start, loops := sl.loops.dropLast ++ [{ lv with it := BitVec.ofNat 32 it }] } s
      else .go { (sl.next.advance level (-((lv.cnt.toNat : Int) - 1))) with loops := sl.loops.dropLast } s

/-- A.ADDR (R329): d the x register, a the level. -/
def execAAddr (d a i : Nat) (s : State) : Host.Outcome State Fault Refusal :=
  sliceWord { schedOnly with imm := 2 } s fun _ sl =>
    .go { sl.next with strides := sl.strides.set (4 * d + a) (BitVec.ofNat 32 (wrap (imm9 sl.latch i * 32) 32)) } s

/-- A.BASE (R329): a = 8 names the constant 1. -/
def execABase (d a i : Nat) (s : State) : Host.Outcome State Fault Refusal :=
  sliceWord { schedOnly with imm := 2 } s fun _ sl =>
    let v : Nat := if a = 8 then 1 else sl.xreg a
    .go { sl.next with x := sl.x.set d (BitVec.ofNat 64 (wrap ((sl.xreg d : Int) + v * (imm9 sl.latch i * 32)) 64)) } s

/-- A.SETQ (R329). -/
def execASetq (d l : Nat) (s : State) : Host.Outcome State Fault Refusal :=
  sliceWord schedOnly s fun tm sl =>
    .go sl.next (s.updTeam tm.id fun t => t.updQueue d fun q => { q with limit := BitVec.ofNat 5 (l + 1) })

/-- A.EXIT (R329). -/
def execAExit (s : State) : Host.Outcome State Fault Refusal :=
  sliceWord schedOnly s fun _ sl => .go { sl.next with run := .exited } s

/-- A.WAITQ (R333): it pops the front once it is Ready. -/
def execAWaitq (d : Nat) (s : State) : Host.Outcome State Fault Refusal :=
  sliceWord schedOnly s fun tm sl =>
    let q := tm.queue d
    match q.front with
    | none => .wait
    | some i =>
      if (q.slot i).st ≠ .ready then .wait
      else .go sl.next (s.updTeam tm.id fun t => t.updQueue d fun y => y.pop (s.now tm.core) i)

-- ---------------------------------------------------------------- A.LDQ and A.LDWQ

/-- The sector requests of n bytes of a row from an address (R370): slot offset `off`; `left` bounds the sectors. -/
def rowRequests (row : Nat) : Nat → Nat → Nat → Nat → List SliceReq
  | 0, _, _, _ => []
  | left + 1, va, off, n =>
    if n = 0 then []
    else
      let k := min n (64 - va % 64)
      ⟨0, row, off, k, va, 0, .walk⟩ :: rowRequests row left ((va + k) % 2 ^ 64) (off + k) (n - k)

/-- Numbers requests from a first number on. -/
def numberReqs : Nat → List SliceReq → List SliceReq
  | _, [] => []
  | k, r :: rs => { r with id := k } :: numberReqs (k + 1) rs

/-- A.LDQ and A.LDWQ (R331): d the queue, a the x register, sv the row stride's register, r the rows code. -/
def loadQueue (weight : Bool) (d a sv r : Nat) (s : State) : Host.Outcome State Fault Refusal :=
  sliceWord { cp := true, live := false } s fun tm sl =>
    let rows := 2 ^ r
    let size := 256 / rows
    let base := sl.xreg a
    let stride : Int := if r = 0 then 0 else sext (sl.xreg sv) 32
    let addr (i : Nat) : Nat := wrap ((base : Int) + i * stride) (if weight then 31 else 64)
    let q := tm.queue d
    if weight ∧ ! s.hasWeights then .stop clsAbsent 0
    else if weight ∧ base / 2 ^ 31 ≠ 0 then .stop clsWeightRange base
    else match (List.range rows).find? fun i => decide (addr i % 32 ≠ 0) with
      | some i => .stop clsMisaligned (addr i)
      | none =>
        if ! q.room (s.now tm.core) 1 || decide (q.limit ≤ q.sheld) then .wait
        else
          let res := q.reserve 1 .slice
          let reqs := numberReqs (s.nextId + 1) ((List.range rows).flatMap fun i => rowRequests i 9 (addr i) (i * size) size)
          let rd : SliceRead :=
            { id := s.nextId, queue := d, slot := nth res.1 0 0, weight := weight, cp := modCp sl.latch, pc := sl.apc, word := s.ir,
              latch := sl.latch, reqs := reqs }
          let s1 := { s with nextId := s.nextId + 1 + reqs.length }.updTeam tm.id fun t => t.updQueue d fun _ => res.2
          .go { sl.next with reads := sl.reads ++ [rd] } s1

/-- A.LDQ (R331). -/
def execALdq (d a sv r : Nat) (s : State) : Host.Outcome State Fault Refusal := loadQueue false d a sv r s

/-- A.LDWQ (R331, R256). -/
def execALdwq (d a sv r : Nat) (s : State) : Host.Outcome State Fault Refusal := loadQueue true d a sv r s

-- ---------------------------------------------------------------- the reads

/-- Changes one request of a slice read. -/
def State.updReq (s : State) (t : TeamId) (req : Nat) (f : SliceReq → SliceReq) : State :=
  s.updTeam t fun x => { x with slice := x.slice.map fun sl =>
    { sl with reads := sl.reads.map fun r => { r with reqs := r.reqs.map fun q => if q.id = req then f q else q } } }

/-- A slice read and one of its requests, by the request's number. -/
def Team.sliceReq (t : Team) (req : Nat) : Option (SliceRead × SliceReq) :=
  match t.slice with
  | none => none
  | some sl => sl.reads.findSome? fun r => (r.reqs.find? fun q => decide (q.id = req)).map fun q => (r, q)

/-- A fault of a slice read (R331, R334, R368): the request parks and a record with the access-slice flag is posted; no thread parks. -/
def State.sliceFault (s : State) (tm : Team) (r : SliceRead) (q : SliceReq) (cls : Nat) : State :=
  let die := dieOf tm.core
  if 1024 ≤ s.replayCount die then s
  else
    let seq := s.nextSeqOf die tm.id.ctx
    let s1 := s.postRecord die
      { ctx := tm.id.ctx, seq := 0, cls := cls, ir := false, as := true, dfr := false, np := true, ent := false, rst := false,
        pre := false, grid := tm.id.grid, team := tm.id.team, rank := 0, role := 0, fpc := r.pc.toNat, ppc := 0, word := r.word.toNat,
        latch := r.latch, detail := AccCode.sliceRead.num, addr := q.va, opnd := 0, user := s.userOf ⟨tm.id.ctx, tm.id.grid⟩, nrep := 1,
        read := false }
    let s2 := s1.updReq tm.id q.id fun x => { x with st := .parked seq }
    { s2 with replays := s2.replays ++
        [{ die := die, seq := seq, ctx := tm.id.ctx, what := .slice tm.id q.id, cls := cls, ir := false, va := q.va }] }

/-- TABLE_WALK for a slice read (R331, R411): a weight-store read waits there for its bank's allowance (R256). -/
def State.walkSlice (s : State) (tm : Team) (r : SliceRead) (q : SliceReq) : State :=
  if q.st ≠ .walk then s
  else if r.weight then
    let lines := s.weightLines tm.core (weightBank q.va)
    if weightDie q.va = dieOf tm.core ∧ 2 ≤ lines.length ∧ ! lines.contains (q.va / 256) then s
    else s.updReq tm.id q.id fun x => { x with st := .ready, pa := q.va }
  else match s.lookup tm.core tm.id.ctx q.va true false false with
    | (s1, .ok pa _) => s1.updReq tm.id q.id fun x => { x with st := .ready, pa := pa }
    | (s1, .fault cls) => s1.sliceFault tm r q cls

/-- Bytes of a request arrive in the slot; with the last one the slot is Ready (R315, R331). -/
def State.sliceDeliver (s : State) (tm : Team) (r : SliceRead) (q : SliceReq) (v : Nat) (mark : Bool) : State :=
  let mark1 (x : SliceReq) : SliceReq := if x.id = q.id then { x with st := .got } else x
  let reqs := r.reqs.map mark1
  let full := reqs.all fun x => decide (x.st = .got)
  s.updTeam tm.id fun t =>
    let t1 := t.updQueue r.queue fun x => x.updSlot r.slot fun y =>
      { y with
        data := y.data ||| BitVec.ofNat 2048 (v % 256 ^ q.n * 256 ^ q.off)
        poison := y.poison || mark
        st := if full then .ready else y.st }
    let shrink (x : SliceRead) : SliceRead := if x.id = r.id then { x with reqs := reqs } else x
    let left (l : List SliceRead) : List SliceRead :=
      if full then l.filter (fun x => decide (x.id ≠ r.id)) else l.map shrink
    { t1 with slice := t1.slice.map fun sl => { sl with reads := left sl.reads } }

/-- The pseudo-operation a slice reads memory as: its team's, of no thread, relaxed at .cl (R331). -/
def sliceOp (tm : Team) (pos : Nat) : Op :=
  { id := 0, thr := ⟨tm.id.ctx, tm.id.grid, tm.id.team, 2 ^ 14⟩, role := 0, core := tm.core, part := 0, pos := pos, pc := 0, word := 0,
    latch := [], opnd := [], issued := 0, due := none, dests := [], vals := [], flags := 0, en := 0, rc := 0, late := false,
    holds := false, image := none, body := .reply, stage := .ready, cls := none }

/-- One request of the weight store reads its bytes, when its bank is not in refresh (R255, R331). -/
def State.weightArrive (s : State) (tm : Team) (r : SliceRead) (q : SliceReq) : State :=
  if refreshBank (nth s.refresh (weightDie q.va) 0) = weightBank q.va then s
  else s.sliceDeliver tm r q (memRead s.weights q.va q.n) (s.weightPoison.contains (q.va / 64))

/-- One request reads its bytes (R266, R331): from the other die's weight store, whose reads take no turn (R256), or as a .cl read. -/
def State.sliceBind (s : State) (tm : Team) (r : SliceRead) (q : SliceReq) : State :=
  if r.weight then (if weightDie q.va = dieOf tm.core then s else s.weightArrive tm r q)
  else
    let acc : Access := { plainAccess (.load false) .g q.va q.n .cl with pa := some q.pa, cp := r.cp }
    let held := (s.viewBytes (sliceOp tm 0) acc q.n).isSome
    let (s1, ok) := if ! held || decide (r.cp = 3) then
        (s.sliceTouch q.pa (s.wayGroup tm.id.ctx) r.cp).journalRead ⟨tm.id.ctx, tm.id.grid⟩ q.pa else (s, true)
    if ! ok then s1
    else
      let s2 := if held then s1 else s1.l1Fill (clusterOf tm.core) (q.pa / 64) r.cp 0
      match s2.viewBytes (sliceOp tm 0) acc q.n with
      | some l => s2.sliceDeliver tm r q (viewValue l) (l.any ByteView.poison)
      | none => s2

/-- QUEUE_SLOT_ARRIVAL (R315): bytes of a reserved slot arrive: one request of a slice read, or a QPUSH; `which` numbers the request or
the operation. The last byte makes the slot Ready. -/
def execQueueSlotArrival (s : State) : Host.Outcome State Fault Refusal :=
  let team := s.argTeam 0
  let which := s.arg 3
  match s.op? which with
  | some o => .next (s.pushArrives o)
  | none => match s.team? team with
    | none => .next s
    | some tm => match tm.sliceReq which with
      | some (r, q) => .next (if q.st = .ready then s.sliceBind tm r q else s)
      | none => .next s

/-- TABLE_WALK (R413): the walk of an access of a thread, or of a request of a slice read, that no cached translation served. -/
def execTableWalk (s : State) : Host.Outcome State Fault Refusal :=
  let which := s.arg 0
  match s.op? which with
  | some _ => .next (s.walkOp which)
  | none =>
    match s.teams.findSome? fun tm => (tm.sliceReq which).map fun p => (tm, p) with
    | some (tm, r, q) => .next (s.walkSlice tm r q)
    | none => .next s

end Machine
end Sys2Proof
end

