-- ==== Sys2Proof/Machine/Record.lean ====
section
/-! DEFINITION. Launch records (R44 to R47, R56, R360), logical cores (R49), device records, reads and writes of the control plane and the
engines, and the acceptance of a grid (R344). -/

namespace Sys2Proof
namespace Machine

-- ---------------------------------------------------------------- the record

/-- Little-endian 64-bit word of a record at a byte offset. -/
def recWord (raw off : Nat) : Nat := bits raw (8 * off) 64

/-- A launch record's fields (R44 to R46). -/
def LaunchRec.ofRaw (raw : Nat) : LaunchRec :=
  let ctl := recWord raw 0
  { ver := bits ctl 0 8, nrole := bits ctl 8 2, prio := bits ctl 10 2, det := bitAt ctl 12, span := bitAt ctl 13, depth := bits ctl 16 4,
    acn32 := bits ctl 20 4, acn64 := bits ctl 24 3, svcp := bits ctl 32 16, dl := bits ctl 48 13,
    nteam := bits (recWord raw 8) 0 32, scr := bits (recWord raw 8) 32 8,
    depa := bits (recWord raw 0x10) 0 52, depv := bits (recWord raw 0x18) 0 32, dkind := bits (recWord raw 0x18) 32 2,
    roles := (List.range (bits ctl 8 2 + 1)).map fun i =>
      { entry := BitVec.ofNat 52 (recWord raw (0x20 + 16 * i)), rcnt := bits (recWord raw (0x28 + 16 * i)) 0 15,
        rbud := bits (recWord raw (0x28 + 16 * i)) 16 2 },
    slots := (List.range 8).map fun i => BitVec.ofNat 32 (bits raw (8 * (0x60 + 4 * i)) 32),
    arg := BitVec.ofNat 64 (recWord raw 0x80), stkb := bits (recWord raw 0x88) 0 52, stks := bits (recWord raw 0x90) 0 16,
    aent := bits (recWord raw 0x98) 0 52, donea := bits (recWord raw 0xA0) 0 52, donev := BitVec.ofNat 64 (recWord raw 0xA8),
    user := BitVec.ofNat 64 (recWord raw 0xB0) }

/-- The registers a budget code gives (R46). -/
def budgetOf (code : Nat) : Nat := 8 * 2 ^ code

/-- The team size (R31). -/
def LaunchRec.tsize (r : LaunchRec) : Nat := r.roles.foldl (fun n x => n + x.rcnt) 0

/-- Whether a team spans a cluster (R33). -/
def LaunchRec.spans (r : LaunchRec) : Bool :=
  r.span || decide (8192 < r.tsize) || decide (2 ^ 21 < r.roles.foldl (fun n x => n + x.rcnt * budgetOf x.rbud * 4) 0)

/-- Reserved fields of a record: word offset, lowest bit, width (R45, R46). -/
def reservedFields : List (Nat × Nat × Nat) :=
  [(0x00, 14, 2), (0x00, 27, 5), (0x00, 61, 3), (0x08, 40, 24), (0x10, 52, 12), (0x18, 34, 30), (0x88, 52, 12), (0x90, 16, 48),
   (0x98, 52, 12), (0xA0, 52, 12)]
  ++ (List.range 4).flatMap fun i => [(0x20 + 16 * i, 52, 12), (0x28 + 16 * i, 15, 1), (0x28 + 16 * i, 18, 46)]

/-- Byte offsets in its word that an invalid format slot word names (R47, R79). -/
def slotBad (w : Nat) : List Nat :=
  let x := Slot.ofWord w
  let tap := taperedCode x.fa || taperedCode x.fb
  (if x.fa > 9 ∨ x.fb > 9 ∨ (decide (x.scl = 1) != tap) then [0] else [])
    ++ (if x.fd > 9 ∨ x.scl > 1 ∨ x.nsp > 11 then [1] else []) ++ (if x.top ≠ 0 ∨ x.rm = 7 then [2] else [])

/-- The least of a list of offsets. -/
def leastOf : List Nat → Option Nat
  | [] => none
  | x :: xs => some (xs.foldl min x)

/-- The offset R47 names for a record that fails a check; none when every check holds. -/
def recordFlaw (raw : Nat) : Option Nat :=
  let r := LaunchRec.ofRaw raw
  let when (b : Bool) (o : Nat) : List Nat := if b then [o] else []
  leastOf ((reservedFields.flatMap fun f => when (decide (bits (recWord raw f.1) f.2.1 f.2.2 ≠ 0)) (f.1 + f.2.1 / 8))
    ++ ((List.range 72).flatMap fun i => when (decide (bits raw (8 * (0xB8 + i)) 8 ≠ 0)) (0xB8 + i))
    ++ when (decide (r.ver ≠ 1)) 0 ++ when (decide (r.nteam = 0)) 8
    ++ ((List.range 4).flatMap fun i =>
      let w0 := recWord raw (0x20 + 16 * i)
      let w1 := recWord raw (0x28 + 16 * i)
      if r.nrole < i then when (decide (w0 ≠ 0) || decide (w1 ≠ 0)) (0x20 + 16 * i)
      else when (decide (bits w1 0 15 = 0)) (0x28 + 16 * i) ++ when (decide (bits w0 0 52 = 0) || decide (w0 % 4 ≠ 0)) (0x20 + 16 * i))
    ++ when (decide (16384 < r.tsize)) 0x28 ++ when (decide ((if r.spans then 192 else 96) < r.scr)) 0x0C
    ++ when (decide (8 < r.depth) || decide (8 < r.acn32 + 2 * r.acn64)) 2 ++ when (decide (r.dl = 0) || decide (4096 < r.dl)) 6
    ++ when (decide (r.dkind ≠ 0) && decide (r.depa % (if r.dkind = 1 then 32 else 4) ≠ 0)) 0x10
    ++ ((List.range 8).flatMap fun i => (slotBad (nth r.slots i 0).toNat).map (0x60 + 4 * i + ·)))

-- ---------------------------------------------------------------- partitions

/-- The enabled cores that are up of a device partition (R27, R49, R488). -/
def State.partitionCores (s : State) (cxpm : List Word) : List Nat :=
  (List.range 128).filter fun c => bitAt (nth cxpm (c / 32) 0).toNat (c % 32) && s.clusterEnabled (clusterOf c) && s.coreUp c

/-- The even cores of the logical clusters of a list of cores (R49). -/
def clustersOf (cores : List Nat) : List Nat := cores.filter fun c => decide (c % 2 = 0) && cores.contains (c + 1)

/-- The cores of a context's device partition. -/
def State.coresOf (s : State) (ctx : Nat) : List Nat :=
  match s.ctx? ctx with
  | some c => c.cores
  | none => []

/-- R56: a deterministic grid of spanning teams needs a logical cluster. -/
def State.noCluster (s : State) (ctx : Nat) (r : LaunchRec) : Bool := r.det && r.spans && (clustersOf (s.coresOf ctx)).isEmpty

-- ---------------------------------------------------------------- records and accesses of the device's own

/-- The team of a record that is tied to no team: its field in the ring reads 0 (R367). -/
def noTeam : Nat := 2 ^ 32

/-- A record that parks no thread and names no word (R366, R367): it is tied to no team until one is named. -/
def State.deviceRecord (s : State) (ctx cls detail addr grid : Nat) : FRec :=
  { ctx := ctx, seq := 0, cls := cls, ir := false, as := false, dfr := false, np := true, ent := false, rst := false, pre := false,
    grid := grid, team := noTeam, rank := 0, role := 0, fpc := 0, ppc := 0, word := 0, latch := [], detail := detail, addr := addr, opnd := 0,
    user := s.userOf ⟨ctx, grid⟩, nrep := 0, read := false }

/-- A translation by the walker of a die, for the control plane and the engines (R403, R412): the level-2 TLB, then a walk. -/
def State.dieTranslate (s : State) (die ctx va : Nat) (rd wr : Bool) : TrRes :=
  match s.tlb2Hit die ctx va rd wr false with
  | some tr => (match physOf s.memg tr va with
    | some pa => if s.memExists pa then .ok pa tr else .fault clsNoMemory
    | none => .fault clsNoMemory)
  | none => s.translate ctx va rd wr false

/-- A read of a device unit at the home slice, and the walk it needs where its die's TLB does not serve it (R252). -/
def State.touchVia (s : State) (die ctx va pa : Nat) : State :=
  let s := if (s.tlb2Hit die ctx va true false false).isSome then s else s.touchWalk ctx va
  s.sliceTouch pa (s.wayGroup ctx) 0

/-- What a read of bytes gives: a fault's class and address, or the value and whether a byte is marked. -/
inductive ReadRes where
  | ok (v : Nat) (mark : Bool)
  | fault (cls va : Nat)
  deriving DecidableEq, Repr

/-- Reads n bytes at home by virtual address, sector by sector, by fuel (R265, R436, R447). `dead` lists cancelled reads, which give
zeros with the mark. -/
def State.readVa (s : State) (die ctx : Nat) (dead : List (Nat × Nat)) : Nat → Nat → Nat → ReadRes
  | 0, _, _ => .ok 0 false
  | fuel + 1, va, n =>
    if n = 0 then .ok 0 false
    else
      let k := min n (64 - va % 64)
      let part : ReadRes :=
        if dead.any (fun d => decide (d.1 < va + k) && decide (va < d.1 + d.2)) then .ok 0 true
        else match s.dieTranslate die ctx va true false with
          | .fault cls => .fault cls va
          | .ok pa _ => .ok (memRead s.home pa k) (s.homePoison.contains (pa / 64))
      match part with
      | .fault c v => .fault c v
      | .ok v m => match s.readVa die ctx dead fuel (va + k) (n - k) with
        | .fault c x => .fault c x
        | .ok v2 m2 => .ok (v + 256 ^ k * v2) (m || m2)

/-- Reads up to 1 KiB. -/
def State.read1k (s : State) (die ctx va n : Nat) : ReadRes := s.readVa die ctx [] 18 va n

/-- Writes n bytes at home by virtual address, sector by sector, by fuel: the state, and the fault that stopped it. -/
def State.writeVa (s : State) (die ctx : Nat) : Nat → Nat → Nat → Nat → State × Option (Nat × Nat)
  | 0, _, _, _ => (s, none)
  | fuel + 1, va, n, v =>
    if n = 0 then (s, none)
    else
      let k := min n (64 - va % 64)
      match s.dieTranslate die ctx va false true with
      | .fault cls => (s, some (cls, va))
      | .ok pa _ => (s.homeWrite ctx pa k (v % 256 ^ k)).writeVa die ctx fuel (va + k) (n - k) (v / 256 ^ k)

/-- Wakes the waiters armed at home on the granule of a virtual address, as WAKEA does (R424). -/
def State.wakeVa (s : State) (die ctx va : Nat) : State :=
  match s.dieTranslate die ctx va true false with
  | .ok pa _ => s.wakeGranule pa
  | .fault _ => s

-- ---------------------------------------------------------------- the store

/-- The entries of a die's pending-launch store in use (R344): grids with a team still to be placed. -/
def State.storeUsed (s : State) (die : Nat) : Nat :=
  (s.grids.filter fun g => decide (g.die = die) && decide (g.nextTeam < g.launch.nteam)).length

/-- Whether the store of a die has a free entry (R339). -/
def State.storeRoom (s : State) (die : Nat) : Bool := decide (s.storeUsed die < 256)

/-- Whether a context is resident (R479). -/
def Ctx.resident (c : Ctx) : Bool := c.live && decide (c.pstat ≠ 3) && decide (c.pstat ≠ 4) && decide (c.pstat ≠ 8)

/-- The next sr.grid of a context that no live grid of it holds, by fuel (R30). -/
def freeGridId (used : List Nat) : Nat → Nat → Nat
  | 0, n => n
  | fuel + 1, n => if used.contains n then freeGridId used fuel ((n + 1) % 2 ^ 32) else n

/-- Whether a dependence is met by the word it reads (R346). -/
def depMet (kind depv w : Nat) : Bool :=
  match kind with
  | 0 => true
  | 1 => decide ((w + 2 ^ 32 - depv) % 2 ^ 32 < 2 ^ 31)
  | 2 => decide (w = depv)
  | _ => decide (depv ≤ w)

/-- The test of the dependence of an eligible record (R346): its object is read with a .sy acquire, and a met dependence is never tested
again. -/
def State.testDep (s : State) (g : Grid) : State :=
  if ! g.elig || g.ready then s
  else if g.launch.dkind = 0 then s.updGrid g.id fun y => { y with ready := true }
  else
    let va := g.launch.depa + (if g.launch.dkind = 1 then 0x10 else 0)
    match s.read1k g.die g.id.ctx va 4 with
    | .fault _ a => s.postRecord g.die (s.deviceRecord g.id.ctx clsDepend 0 a g.id.grid)
    | .ok w mark =>
      if mark then s.postRecord g.die (s.deviceRecord g.id.ctx clsDepend 0 va g.id.grid)
      else s.updGrid g.id fun y => { y with ready := depMet y.launch.dkind y.launch.depv w }

/-- Tests every waiting dependence of a die (R346). -/
def State.testDeps (s : State) (die : Nat) : State := (s.grids.filter fun g => decide (g.die = die) && ! g.saved).foldl State.testDep s

/-- A record becomes eligible (R344): journalled first when the journal is on (R490); its dependence is tested then (R346). -/
def State.makeEligible (s : State) (g : GridId) : State :=
  match s.grid? g with
  | none => s
  | some x =>
    let (s1, ok) := s.journal g.ctx 1 g.grid x.srcVa x.raw
    if ok then (s1.updGrid g fun y => { y with elig := true }).testDep { x with elig := true } else s1

/-- Accepts a record into a die's pending-launch store (R344). -/
def State.acceptGrid (s : State) (ctx die order : Nat) (raw : Nat) (km : Bool) (src : Option (ThreadId × Nat × Nat)) (va : Nat) : State :=
  match s.ctx? ctx with
  | none => s
  | some c =>
    let used := (s.grids.filter fun g => decide (g.id.ctx = ctx)).map fun g => g.id.grid
    let id := freeGridId used (used.length + 1) c.gridSeq.toNat
    let r := LaunchRec.ofRaw raw
    let g : Grid :=
      { id := ⟨ctx, id⟩, launch := r, raw := leBytes 256 raw, kernelMode := km, svcp := r.svcp, order := order, nextTeam := 0,
        relaunch := 0, placedCores := [], die := die, src := src, elig := false, srcVa := va, ready := false, reserved := [],
        saved := false, sizes := [], subs := [], ks := [], waiting := [] }
    let s1 := { s.updCtx ctx fun y => { y with gridSeq := BitVec.ofNat 32 (id + 1) } with grids := s.grids ++ [g] }
    if src.isNone then s1.makeEligible g.id else s1

-- ---------------------------------------------------------------- the spill ring

/-- 2^SZ of a spill ring, 0 without one (R345). -/
def DieCtl.spillSize (c : DieCtl) : Nat := if bits c.lsrc.toNat 0 4 = 0 then 0 else 2 ^ bits c.lsrc.toNat 0 4

/-- The control-plane registers of a die. -/
def State.ctl (s : State) (die : Nat) : DieCtl := nth s.ctls die ⟨0, 0, 0, 0, 0, 0, 0⟩

/-- Changes the control-plane registers of a die. -/
def State.updCtl (s : State) (die : Nat) (f : DieCtl → DieCtl) : State := { s with ctls := s.ctls.set die (f (s.ctl die)) }

/-- Records in a die's spill ring (R345). -/
def DieCtl.spilled (c : DieCtl) : Nat := (c.lsrp + 2 ^ 16 - c.lsrk) % 2 ^ 16

/-- Address of an entry of the spill ring. -/
def DieCtl.spillAt (c : DieCtl) (i : Nat) : Nat := bits c.lsrb.toNat 9 31 * 512 + 512 * (i % c.spillSize)

/-- Writes a record to the spill ring (R345, R346). -/
def State.spill (s : State) (die ctx grid raw : Nat) (src : ThreadId × Nat × Nat) : State :=
  let c := s.ctl die
  let a := c.spillAt c.lsrp
  let s := s.homeStore ctx a (leBytes 256 raw ++ leBytes 4 ctx ++ leBytes 4 grid)
  let s := s.updCtl die fun c => { c with lsrp := (c.lsrp + 1) % 2 ^ 16 }
  { s with spills := s.spills ++ [⟨die, s.nextId, src, false⟩], nextId := s.nextId + 1 }

/-- Takes the oldest spilled record of a die out of its ring. -/
def State.popSpill (s : State) (x : Spill) : State :=
  { s.updCtl x.die fun c => { c with lsrk := (c.lsrk + 1) % 2 ^ 16 } with
    spills := s.spills.eraseP fun y => decide (y.die = x.die) && decide (y.order = x.order) }

/-- Drops the records of ended contexts from the head of a spill ring (R377), by fuel. -/
def State.dropSpills (s : State) (die : Nat) : Nat → State
  | 0 => s
  | n + 1 => match s.spills.find? fun x => decide (x.die = die) with
    | none => s
    | some x => if x.dead then (s.popSpill x).dropSpills die n else s

/-- The oldest spilled record moves into a freed entry (R346). -/
def State.drainSpill (s : State) (die : Nat) : State :=
  let s := s.dropSpills die s.spills.length
  match s.spills.find? fun x => decide (x.die = die) with
  | none => s
  | some x =>
    if ! s.storeRoom die then s
    else
      let c := s.ctl die
      let raw := memRead s.home (c.spillAt c.lsrk) 256
      (s.popSpill x).acceptGrid x.src.1.ctx die x.order raw false (some x.src) 0

/-- Spilled records move into the freed entries of a die's store, one to each, the oldest first (R346). -/
def State.drainSpills (s : State) (die : Nat) : State := s.spills.foldl (fun s _ => s.drainSpill die) s

/-- The same on both dies. -/
def State.drainAll (s : State) : State := (s.drainSpills 0).drainSpills 1

end Machine
end Sys2Proof
end

