-- ==== Sys2Proof/Machine/Launch.lean ====
section
/-! DEFINITION. Launch queues (R340 to R343), SOFTI (R194), LAUNCH (R351), the stages of a pending record (R344 to R346). -/

namespace Sys2Proof
namespace Machine

/-- A launch queue. -/
def State.lq (s : State) (q : Nat) : LaunchQ := nth s.lqs q ⟨0, 0, 0, false, false, false⟩

/-- Changes a launch queue. -/
def State.updLq (s : State) (q : Nat) (f : LaunchQ → LaunchQ) : State := { s with lqs := s.lqs.set q (f (s.lq q)) }

/-- A wake of a launch queue (R24, R340): the dependences that wait on its die are tested again (R346). -/
def State.wakeLq (s : State) (q : Nat) : State := (s.updLq q fun x => { x with pw := true }).testDeps (q / 16)

/-- CTX of a queue (R340). -/
def LaunchQ.ctx (q : LaunchQ) : Nat := bits q.lqc.toNat 8 8

/-- SZ of a queue. -/
def LaunchQ.sz (q : LaunchQ) : Nat := bits q.lqc.toNat 0 4

/-- KM of a queue. -/
def LaunchQ.km (q : LaunchQ) : Bool := bitAt q.lqc.toNat 7

/-- Whether a queue can be scanned (R340, R488). -/
def State.scannable (s : State) (q : Nat) : Bool :=
  let x := s.lq q
  bitAt x.lqc.toNat 6 && decide (3 ≤ x.sz) && decide (x.sz ≤ 12) && decide (q / 16 + 1 ≤ min s.stage 2) &&
    (match s.ctx? x.ctx with
     | some c => c.live
     | none => false)

/-- The entry a context's queue map holds for a number (R343): the device queue, none when it is not valid. -/
def State.mapQueue (s : State) (ctx q : Nat) : Option Nat :=
  match s.ctx? ctx with
  | none => none
  | some c =>
    let e := byteOf (nth c.qmap (q / 4) 0).toNat (q % 4)
    if q < 32 ∧ bitAt e 7 then some (e % 32) else none

/-- SOFTI (R194, R343): 0x3FF names the Summit core. -/
def execSofti (q : Nat) (s : State) : Host.Outcome State Fault Refusal :=
  issue s (fun _ => { hints := schedOnly }) fun x s1 =>
    if q = 0x3FF then .ok { s1 with summitWake := true }
    else match s1.mapQueue x.t.id.ctx q with
      | some n => .ok (s1.wakeLq n)
      | none => .trap clsQueue 0 0

/-- Whether a TDI that is locked or running binds the context, so that ERET and HALT find no context (R482). -/
def State.tdiBound (s : State) (c : Ctx) : Bool :=
  c.tee && s.tdis.any fun x => decide (x.vf = c.own) && (decide (x.st = 1) || decide (x.st = 2))

/-- Whether a launch queue serves a context that a locked or running TDI binds, so that writes to its block are ignored (R482). -/
def State.queueLocked (s : State) (q : Nat) : Bool :=
  match s.ctx? (s.lq q).ctx with
  | some c => s.tdiBound c
  | none => false

/-- LAUNCH_QUEUE_WAKE (R340): a write to LQW of a queue, ignored where the queue is locked (R482). -/
def execLaunchQueueWake (s : State) : Host.Outcome State Fault Refusal :=
  let q := s.arg 0 % 32
  .next (if s.queueLocked q then s else s.wakeLq q)

/-- Writes ST of a ring entry with a .sy store (R341). -/
def State.writeEntry (s : State) (die ctx va e st : Nat) : State := (s.writeVa die ctx 2 va 8 (e / 4 * 4 + st)).1

/-- The scan of a ring (R342), by fuel. -/
def State.scan (s : State) (q : Nat) : Nat → State
  | 0 => s
  | fuel + 1 =>
    let x := s.lq q
    let die := q / 16
    let ctx := x.ctx
    let ci := bits x.lqci.toNat 0 12
    let va := bits x.lqb.toNat 6 46 * 64 + 8 * (ci % 2 ^ x.sz)
    let queueFault (s : State) (a : Nat) : State := s.postRecord die (s.deviceRecord ctx clsLaunchQueue 0 a 0)
    let step (s : State) (e st : Nat) : State :=
      (s.writeEntry die ctx va e st).updLq q fun y => { y with lqci := BitVec.ofNat 32 ((ci + 1) % 2 ^ x.sz) }
    match s.read1k die ctx va 8 with
    | .fault _ a => queueFault s a
    | .ok e mark =>
      if mark then queueFault s va
      else if e % 4 ≠ 1 then s
      else if ! s.storeRoom die || s.spills.any (fun y => decide (y.die = die)) then s.updLq q fun y => { y with full := true }
      else
        let rva := bits e 8 44 * 256
        match s.read1k die ctx rva 256 with
        | .fault _ a => queueFault s a
        | .ok raw m =>
          if m then queueFault s rva
          else if bits e 2 6 ≠ 0 ∨ e / 2 ^ 52 ≠ 0 then ((step s e 3).updLq q fun y => { y with err := true }).scan q fuel
          else
            let r := LaunchRec.ofRaw raw
            let flaw : Option Nat := match recordFlaw raw with
              | some o => some o
              | none =>
                if s.noCluster ctx r then some 0
                else if x.km && decide (r.nteam ≠ 1) then some 8
                else if x.km && r.spans then some 1
                else none
            match flaw with
            | some o => ((step s e 3).postRecord die (s.deviceRecord ctx clsLaunch o rva 0)).scan q fuel
            | none =>
              let s1 := { s with nextId := s.nextId + 1 }.acceptGrid ctx die s.nextId raw x.km none rva
              (step s1 e 2).scan q fuel

/-- Whether a queue waits for a scan: a pending wake, or a scan stopped at a full store that now has room (R342). -/
def State.wantsScan (s : State) (q : Nat) : Bool :=
  let x := s.lq q
  s.scannable q && (x.pw || (x.full && s.storeRoom (q / 16) && ! s.spills.any fun y => decide (y.die = q / 16)))

/-- LVL of a queue (R340). -/
def State.lvl (s : State) (q : Nat) : Nat := bits (s.lq q).lqc.toNat 4 2

/-- How far a queue stands behind the one its die scanned last, in the rotation of R342. -/
def State.turnOf (s : State) (q : Nat) : Nat := (q % 16 + 15 - nth s.lqLast (q / 16) 15) % 16

/-- Whether a queue is scanned before another of its die (R342): of a higher LVL, or of the same one and nearer in the rotation. -/
def State.scansBefore (s : State) (p q : Nat) : Bool :=
  decide (s.lvl q < s.lvl p) || (decide (s.lvl q = s.lvl p) && decide (s.turnOf p < s.turnOf q))

/-- LAUNCH_QUEUE_SCAN (R342): the control plane takes a queue's wake and scans its ring, when no queue that waits on the die goes first. -/
def execLaunchQueueScan (s : State) : Host.Outcome State Fault Refusal :=
  let queue := s.arg 0
  if queue < 32 ∧ s.wantsScan queue ∧
      ! ((List.range 32).any fun p => decide (p / 16 = queue / 16) && s.wantsScan p && s.scansBefore p queue) then
    let s1 : State := { s with lqLast := s.lqLast.set (queue / 16) (queue % 16) }
    .next ((s1.updLq queue fun x => { x with pw := false, full := false }).scan queue 4096)
  else .next s

/-- LAUNCH (R351). -/
def execLaunch (a : Nat) (l : Bool) (p : Nat) (s : State) : Host.Outcome State Fault Refusal :=
  issue s (fun _ => { srcs := [⟨a, 1⟩], dests := [64 + p], kills := killIf l ⟨a, 1⟩, hints := schedOnly })
    fun x s1 =>
      let o := nth x.vals 0 0
      let g := x.t.id.gridId
      if o % 256 ≠ 0 then .trap clsMisaligned 0 0
      else if s.scrOf x.t.id.teamId * 4096 < o + 256 then .trap clsScratchRange 0 o
      else match s1.team? x.t.id.teamId, s1.grid? g with
        | some tm, some gr =>
          if ! tm.present o 256 then .hold .blocked
          else if s1.imageHeld x o 256 then .hold .dependent
          else
            let b := s1.imageBytes x o 256
            if b.2 then .trap clsPoison 0 0
            else
              let flaw : Option Nat := match recordFlaw b.1 with
                | some k => some k
                | none => if s1.noCluster g.ctx (LaunchRec.ofRaw b.1) then some 0 else none
              match flaw with
              | some k => .trap clsLaunch k 0
              | none =>
                let die := dieOf x.core
                let c := s1.ctl die
                let ctl := recWord b.1 0
                let masked := bits ctl 32 16 &&& gr.svcp
                let raw := b.1 - bits ctl 32 16 * 2 ^ 32 + masked * 2 ^ 32
                let src : ThreadId × Nat × Nat := (x.t.id, x.t.pos, x.core)
                if c.spilled = 0 ∧ s1.storeRoom die then
                  .ok (({ s1 with nextId := s1.nextId + 1 }.acceptGrid g.ctx die s1.nextId raw false (some src) 0).result x 12 [64 + p] [1])
                else if c.spillSize ≠ 0 ∧ c.spilled < c.spillSize then
                  .ok ((s1.spill die g.ctx g.grid raw src).result x 12 [64 + p] [1])
                else
                  let s2 := s1.result x 12 [64 + p] [0]
                  .ok (s2.addOp (x.op s2 .release))
        | _, _ => .hold .blocked

/-- LAUNCH_RELEASE_COMPLETE (R285, R344): the .sy release of a LAUNCH completes, its cluster writes back, and the record is eligible; also
a record whose journal entry waited (R490). -/
def execLaunchReleaseComplete (s : State) : Host.Outcome State Fault Refusal :=
  let ctx := s.arg 0
  let grid := s.arg 1
  match s.grid? ⟨ctx, grid⟩ with
  | none => .next s
  | some g =>
    if g.elig then .next s
    else match g.src with
      | none => .next (s.makeEligible g.id)
      | some (t, pos, core) =>
        if s.olderComplete t pos && s.observedDone t then
          .next (((s.flushL1 (clusterOf core)).updGrid g.id fun y => { y with src := none }).makeEligible g.id)
        else .next s

/-- LAUNCH_DEPENDENCE_TEST (R346): an eligible record's dependence object is read with a .sy acquire. -/
def execLaunchDependenceTest (s : State) : Host.Outcome State Fault Refusal :=
  match s.grid? (s.argGrid 0) with
  | none => .next s
  | some g => .next (s.testDep g)

end Machine
end Sys2Proof
end

