-- ==== Sys2Proof/Machine/Place.lean ====
section
/-! DEFINITION. Placement of teams (R31 to R36, R49, R50, R131 to R135, R212, R243, R314, R347 to R349, R355, R360), the reorder unit (R352 to
R355), the end of a team (R136, R137, R334), the compactor (R134) and the completion of a grid (R48, R286). -/

namespace Sys2Proof
namespace Machine

-- ---------------------------------------------------------------- the end of a team

/-- Whether a thread's register block stays allocated (R136): until its register-writing operations are over, a collective it has signed
among them until its phase fires or its set becomes Free (R198). -/
def State.blockHeld (s : State) (t : Thread) : Bool :=
  decide (t.st ≠ .exited)
    || (s.ops.any fun o => decide (o.thr = t.id) && ! o.dests.isEmpty)
    || (match s.team? t.id.teamId with
      | some tm => tm.crs.any fun c => c.members.any fun m => decide (m.rank = t.id.rank) && (match m.dep with
        | some d => d.signed && ! d.dests.isEmpty
        | none => false)
      | none => false)

/-- Whether every thread of a team has exited. -/
def State.allExited (s : State) (t : TeamId) : Bool := s.threads.all fun x => decide (x.id.teamId ≠ t) || decide (x.st = .exited)

/-- Whether an operation works in its team's region or queues. -/
def Op.inRegion (o : Op) : Bool :=
  match o.body with
  | .mem a => decide (a.space = .s)
  | .push _ _ _ => true
  | _ => false

/-- Whether a team's segments, queue set, slice place and tile places are held (R137, R314, R334): until its threads have exited, its
register blocks are free, and every copy into its region is done; also while a copy still reads its region or an access of its own is in
flight there (DEDUCED, log 28). -/
def State.regionHeld (s : State) (t : Team) : Bool :=
  (s.threads.any fun x => decide (x.id.teamId = t.id) && s.blockHeld x)
    || (s.ops.any fun o => decide (o.thr.teamId = t.id) && o.inRegion)
    || (s.copies.any fun c => (decide (c.dstS = .s) && c.recvs.any (fun r => decide (r.team = t.id)))
      || (decide (c.srcS = .s) && decide (c.srcTeam = t.id)))

/-- Whether a LAUNCH or REORD of a team has a release that waits for writes which its thread has observed (R274, R285). -/
def State.releasing (s : State) (t : TeamId) : Bool :=
  let mine (x : ThreadId) : Bool := decide (x.teamId = t) && ! s.observedDone x
  (s.batches.any fun b => b.deps.any fun d => mine ⟨d.grid.ctx, d.grid.grid, d.team, d.rank⟩)
    || (s.reorder.any fun d => mine ⟨d.grid.ctx, d.grid.grid, d.team, d.rank⟩)
    || (s.grids.any fun g => match g.src with
      | some x => mine x.1
      | none => false)
    || s.spills.any fun x => mine x.src.1

/-- Whether nothing of a team is left (R137, R226, R285, R334): its region is free, its operations and copies are done, no submission is in flight,
its reads have arrived, no matrix work is started, and no release of it waits. -/
def State.teamOver (s : State) (t : Team) : Bool :=
  s.allExited t.id && ! s.regionHeld t
    && ! (s.ops.any fun o => decide (o.thr.teamId = t.id))
    && ! (s.copies.any fun c => c.recvs.any (fun r => decide (r.team = t.id)) || decide (c.srcTeam = t.id) || decide (c.thr.teamId = t.id))
    && ! (s.jobs.any fun j => decide (j.thr.teamId = t.id))
    && ! (t.engine.any fun e => e.started) && ! s.releasing t.id
    && (match t.slice with
      | some sl => sl.reads.isEmpty
      | none => true)

/-- Takes the teams of which nothing is left out of the state. -/
def State.reapTeams (s : State) : State :=
  let gone := (s.teams.filter s.teamOver).map (·.id)
  if gone.isEmpty then s
  else
    { s with
      teams := s.teams.filter fun t => ! gone.contains t.id
      threads := s.threads.filter fun t => ! gone.contains t.id.teamId }

-- ---------------------------------------------------------------- allocation

/-- Register blocks held in a partition of a core: top block, first register, size (R131). -/
def State.usedBlocks (s : State) (core part : Nat) : List (Nat × Nat × Nat) :=
  s.threads.filterMap fun t => match s.team? t.id.teamId with
    | some tm =>
      if tm.coreOf t.id.rank = core ∧ tm.partOf t.id.rank = part ∧ s.blockHeld t then
        (let b := nth tm.blocks t.id.rank (0, 0, 0)
         some (b.2.1, b.2.2, t.budget))
      else none
    | none => none

/-- A list as it stands, or from its end. -/
def fromEnd {α : Type} (up : Bool) (l : List α) : List α := if up then l.reverse else l

/-- The first free aligned block of a size among the top blocks from lo to hi, or the last one (R131). -/
def findBlockBy (up : Bool) (used : List (Nat × Nat × Nat)) (size lo hi : Nat) : Option (Nat × Nat) :=
  (fromEnd up ((List.range (hi - lo)).map (lo + ·))).findSome? fun top =>
    let here := used.filter fun u => decide (u.1 = top)
    ((fromEnd up ((List.range (64 / size)).map (size * ·))).find? fun f =>
      here.all fun u => decide (u.2.1 + u.2.2 ≤ f) || decide (f + size ≤ u.2.1)).map fun f => (top, f)

/-- The block a new thread gets. -/
def findBlock (used : List (Nat × Nat × Nat)) (size lo hi : Nat) : Option (Nat × Nat) := findBlockBy false used size lo hi

/-- Grants a block to each budget of a list, in rank order, from the lists of used blocks per site; none to a budget of 0, that of a thread
which had exited before a save. -/
def grantBlocks (lo hi : Nat → Nat) : List Nat → Nat → Nat → List (List (Nat × Nat × Nat)) → Option (List (Nat × Nat × Nat))
  | [], _, _, _ => some []
  | b :: bs, rank, sites, used =>
    let site := rank % sites
    let u := nth used site []
    if b = 0 then (grantBlocks lo hi bs (rank + 1) sites used).map fun l => (site % 4, 0, 0) :: l
    else match findBlock u b (lo site) (hi site) with
    | none => none
    | some (top, f) =>
      (grantBlocks lo hi bs (rank + 1) sites (used.set site ((top, f, b) :: u))).map fun l => (site % 4, top, f) :: l

/-- Scratchpad segments held on a core: first block and size (R132). -/
def State.usedSegs (s : State) (core : Nat) : List (Nat × Nat) :=
  (s.teams.filter s.regionHeld).flatMap fun t => t.segments.filterMap fun g => if g.1 = core then some g.2 else none

/-- The first free buddy segment of a size on a core, or the last one (R132): of its 128 positions, 96 to 127 are taken. -/
def findSegBy (up : Bool) (used : List (Nat × Nat)) (size : Nat) : Option Nat :=
  (fromEnd up ((List.range (128 / size)).map (size * ·))).find? fun p =>
    decide (p + size ≤ 96) && used.all fun u => decide (u.1 + u.2 ≤ p) || decide (p + size ≤ u.1)

/-- The segment a new team gets. -/
def findSeg (used : List (Nat × Nat)) (size : Nat) : Option Nat := findSegBy false used size

/-- Grants the segments of a number of blocks, from the largest down (R132). -/
def grantSegs (core : Nat) : List Nat → List (Nat × Nat) → Option (List (Nat × Nat × Nat))
  | [], _ => some []
  | k :: ks, used => match findSeg used (2 ^ k) with
    | none => none
    | some p => (grantSegs core ks ((p, 2 ^ k) :: used)).map fun l => (core, p, 2 ^ k) :: l

/-- The set bits of a number of blocks, the largest first. -/
def segSizes (n : Nat) : List Nat := (onesFrom 8 0 n).reverse

/-- What a team needs of its place (R347). -/
structure Need where
  budgets : List Nat
  spanning : Bool
  scr : Nat
  places : Nat
  slice : Bool
  kernel : Bool
  deriving DecidableEq, Repr

/-- The teams that hold a core's places (R137, R334). -/
def State.teamsOn (s : State) (core : Nat) : List Team := s.teams.filter fun t => t.onCore core && s.regionHeld t

/-- Threads resident in a partition of a core (R17). -/
def State.residentIn (s : State) (core part : Nat) : Nat :=
  (s.threads.filter fun t => decide (t.st ≠ .exited) && (match s.team? t.id.teamId with
    | some tm => decide (tm.coreOf t.id.rank = core) && decide (tm.partOf t.id.rank = part)
    | none => false)).length

/-- The ranks of a team that stand at a site (R34). -/
def siteCount (budgets : List Nat) (sites site : Nat) : Nat :=
  ((budgets.zipIdx).filter fun x => decide (x.1 ≠ 0) && decide (x.2 % sites = site)).length

/-- Deposits a core's reorder store holds: those of no batch yet, and those of batches whose team is not placed (R353, R355); restored batches
are in no core's store until the core they go to is settled (R361). -/
def State.storedDeps (s : State) (core : Nat) : Nat :=
  (s.reorder.filter fun d => decide (d.core = core)).length
    + ((s.batches.filter fun b => b.chosen && decide (b.core = core)).map fun b => b.deps.length).sum

/-- Whether an ordinary or relaunch team finds the rest of what it needs on a core: tile places, the one team per cycle, room in the reorder
store for ordinary teams, and, on its even core alone when it spans, a queue set and a slice place (R212, R314, R348, R353). -/
def State.coreOpen (s : State) (core : Nat) (n : Need) (ordinary even : Bool) : Bool :=
  let on := s.teamsOn core
  let places (t : Team) : Nat := match s.launchOf ⟨t.id.ctx, t.id.grid⟩ with
    | some g => if t.id.team < 2 ^ 31 then g.acn32 + 2 * g.acn64 else 0
    | none => 0
  let first := on.filter fun t => decide (t.core = core)
  decide ((on.map places).sum + n.places ≤ 8)
    && (! even || (decide (first.length < 16) && (! n.slice || decide ((first.filter fun t => t.slice.isSome).length < 16))))
    && ! (s.teams.any fun t => t.onCore core && decide (t.placedAt = s.now core))
    && (! ordinary || decide (s.storedDeps core < 4096))

/-- The top blocks of each partition of a core that a team may take: those SVRES reserves for a service grid, the rest for the others
(R347, R356, R360). -/
def State.topBlocks (s : State) (core : Nat) (kernel : Bool) : Nat × Nat :=
  let blk := if core % 64 = 0 then min 2048 (bits (s.ctl (dieOf core)).svres.toNat 0 11) else 0
  if kernel then (2048 - blk, 2048) else (0, 2048 - blk)

/-- The cores a team takes on a core or on the cluster of an even core. -/
def Need.coresAt (n : Need) (core : Nat) : List Nat := if n.spanning then [core, core + 1] else [core]

/-- Whether a team finds all it needs on its cores but for the blocks and segments, and no partition gets more than its 2,048 resident
threads (R17, R34). -/
def State.coresOpen (s : State) (core : Nat) (n : Need) (ordinary : Bool) : Bool :=
  let sites := 4 * (n.coresAt core).length
  ((n.coresAt core).all fun c => s.coreOpen c n ordinary (decide (c = core)))
    && (List.range sites).all fun i => decide (s.residentIn (core + i / 4) (i % 4) + siteCount n.budgets sites i ≤ 2048)

/-- The grants a team gets on a core, or on the cluster of an even core; none when it does not fit (R347). -/
def State.fits (s : State) (core : Nat) (n : Need) (ordinary : Bool) : Option (List (Nat × Nat × Nat) × List (Nat × Nat × Nat)) :=
  if ! s.coresOpen core n ordinary then none
  else
    let cores := n.coresAt core
    let lo (site : Nat) : Nat := (s.topBlocks (core + site / 4) n.kernel).1
    let hi (site : Nat) : Nat := (s.topBlocks (core + site / 4) n.kernel).2
    let used := cores.flatMap fun c => (List.range 4).map (s.usedBlocks c)
    let segs := if n.spanning then
        (match grantSegs core (segSizes (ceilDiv n.scr 2)) (s.usedSegs core),
               grantSegs (core + 1) (segSizes (n.scr / 2)) (s.usedSegs (core + 1)) with
         | some a, some b => some (a ++ b)
         | _, _ => none)
      else grantSegs core (segSizes n.scr) (s.usedSegs core)
    match grantBlocks lo hi n.budgets 0 (4 * cores.length) used, segs with
    | some b, some g => some (b, g)
    | _, _ => none

/-- Registers a team needs at a site (R34). -/
def siteRegs (budgets : List Nat) (sites site : Nat) : Nat :=
  (((budgets.zipIdx).filter fun x => decide (x.2 % sites = site)).map (·.1)).sum

/-- Whether a team does not fit its cores only because the free space is not contiguous: there is enough of it in total (R133). -/
def State.fragmented (s : State) (core : Nat) (n : Need) (ordinary : Bool) : Bool :=
  let sites := 4 * (n.coresAt core).length
  let regsFree (i : Nat) : Nat :=
    let b := s.topBlocks (core + i / 4) n.kernel
    let used := (s.usedBlocks (core + i / 4) (i % 4)).filter fun u => decide (b.1 ≤ u.1) && decide (u.1 < b.2)
    64 * (b.2 - b.1) - (used.map fun u => u.2.2).sum
  let segsFree (c : Nat) : Nat := 96 - ((s.usedSegs c).map (·.2)).sum
  let blocks (c : Nat) : Nat := if ! n.spanning then n.scr else if c = core then ceilDiv n.scr 2 else n.scr / 2
  s.coresOpen core n ordinary && (s.fits core n ordinary).isNone
    && ((List.range sites).all fun i => decide (siteRegs n.budgets sites i ≤ regsFree i))
    && (n.coresAt core).all fun c => decide (blocks c ≤ segsFree c)

/-- A free slice place of a core: four to each affine address engine (R314). -/
def State.slicePlace (s : State) (core : Nat) : Nat :=
  let used := (s.teamsOn core).filterMap fun t => if t.core = core then t.slice.map (·.place) else none
  ((List.range 16).find? fun p => ! used.contains p).getD 0

-- ---------------------------------------------------------------- new teams

/-- A new thread (R36, R121, R183, R325, R373, R458). -/
def newThread (id : ThreadId) (role rrank tsize nteam lcore nlcore budget : Nat) (regs : List Word) (pc : Addr) (now : Nat) : Thread :=
  { id := id, role := role, rrank := rrank, tsize := tsize, nteam := nteam, lcore := lcore, nlcore := nlcore, budget := budget,
    regs := regs ++ List.replicate (budget - regs.length) 0, dead := List.replicate budget false, preds := List.replicate 12 false,
    wpos := List.replicate 76 0, pos := 0, latch := [], lastPage := none, fpc := 0, fps := 0, st := .ready, readyAt := now,
    promoted := false, bundle := none, holdUntil := 0, pc := pc, csd := 0, ls := [.empty, .empty, .empty, .empty], ssp := 0, signed := 0,
    outstanding := [], tdep := 0, fbase := 0, fsize := 0, kregs := List.replicate 6 0, parks := [], resume := none, cairn := none,
    observed := [] }

/-- An empty operand queue (R313). -/
def emptyQueue : OpQueue := ⟨List.replicate 16 ⟨.empty, .slice, 0, false, 0⟩, 0, 0, 16, 0⟩

/-- A new access slice at an entry (R327). -/
def newSlice (place entry : Nat) (arg : Dword) (team nteam : Nat) : Slice :=
  { place := place, apc := BitVec.ofNat 52 entry, x := [arg, BitVec.ofNat 64 team, BitVec.ofNat 64 nteam, 0, 0, 0, 0, 0], loops := [],
    strides := List.replicate 32 0, run := .running, latch := [], reads := [] }

/-- A new team's own state (R184, R210, R241, R243, R313, R327, R362). -/
def newTeam (id : TeamId) (core : Nat) (spanning : Bool) (scr : Nat) (slice : Option Slice) (blocks segs : List (Nat × Nat × Nat)) (now : Nat) :
    Team :=
  { id := id, core := core, spanning := spanning, scr := scr, scratch := [], lines := [], cairnAt := 0, tags := [], poison := [],
    crs := List.replicate 16 ⟨.free, 0, 0, 0, 0, 0, []⟩, elems := [], engine := [], queues := List.replicate 8 emptyQueue, slice := slice,
    entry := .closed, posted := 0, frozen := none, deadline := none, lastIssue := now, pausedUntil := 0, lastMove := none, placedAt := now,
    blocks := blocks, segments := segs }

/-- The role, the rank in the role and the descriptor of a rank (R31). -/
def roleOf : List RoleDesc → Nat → Nat → Option (Nat × Nat × RoleDesc)
  | [], _, _ => none
  | r :: rs, k, rank => if rank < r.rcnt then some (k, rank, r) else roleOf rs (k + 1) (rank - r.rcnt)

/-- Budgets of the ranks of a record (R31). -/
def LaunchRec.budgets (r : LaunchRec) : List Nat := r.roles.flatMap fun x => List.replicate x.rcnt (budgetOf x.rbud)

/-- sr.lcore and sr.nlcore of a thread's place (R30, R49). -/
def lcoreOf (cores : List Nat) (det spanning : Bool) (core threadCore : Nat) : Nat × Nat :=
  if ! det then (threadCore, 0)
  else if spanning then ((clustersOf cores).findIdx (fun c => decide (c = core)), (clustersOf cores).length)
  else (cores.findIdx (fun c => decide (c = core)), cores.length)

/-- Adds a team with its threads (R243, R251, R285): the L1s of clusters new to the grid invalidate, and cores new to it drop their
constant caches. -/
def State.addTeam (s : State) (g : GridId) (t : Team) (ths : List Thread) : State :=
  let cores := if t.spanning then [t.core, t.core + 1] else [t.core]
  let old := match s.grid? g with
    | some x => x.placedCores
    | none => []
  let fresh := cores.filter fun c => ! old.contains c
  let s := if old.any (fun c => decide (clusterOf c = clusterOf t.core)) then s else s.invalidateL1 (clusterOf t.core)
  let s := { s with consts := s.consts.filter fun x => ! fresh.contains x.core }
  let s := s.updGrid g fun x => { x with placedCores := x.placedCores ++ fresh, reserved := [] }
  { s with teams := s.teams ++ [t], threads := s.threads ++ ths }

/-- Places the next ordinary team of a grid (R32, R36, R243). -/
def State.placeOrdinary (s : State) (g : Grid) (core : Nat) (grants : List (Nat × Nat × Nat) × List (Nat × Nat × Nat)) : State :=
  let r := g.launch
  let id : TeamId := ⟨g.id.ctx, g.id.grid, g.nextTeam⟩
  let now := s.now core
  let slice := if r.aent = 0 then none else some (newSlice (s.slicePlace core) r.aent r.arg id.team r.nteam)
  let t := newTeam id core r.spans r.scr slice grants.1 grants.2 now
  let cores := s.coresOf g.id.ctx
  let ths := (List.range r.tsize).filterMap fun rank => (roleOf r.roles 0 rank).map fun x =>
    let lc := lcoreOf cores r.det r.spans core (t.coreOf rank)
    newThread ⟨id.ctx, id.grid, id.team, rank⟩ x.1 x.2.1 r.tsize r.nteam lc.1 lc.2 (budgetOf x.2.2.rbud)
      [BitVec.ofNat 32 r.arg.toNat, BitVec.ofNat 32 (r.arg.toNat / 2 ^ 32)] x.2.2.entry now
  (s.addTeam g.id t ths).updGrid g.id fun y => { y with nextTeam := y.nextTeam + 1 }

/-- Places a relaunch team (R355). -/
def State.placeBatch (s : State) (g : Grid) (b : ReBatch) (core : Nat) (grants : List (Nat × Nat × Nat) × List (Nat × Nat × Nat)) : State :=
  let id : TeamId := ⟨g.id.ctx, g.id.grid, 2 ^ 31 + b.k⟩
  let now := s.now core
  let t := newTeam id core false 0 none grants.1 grants.2 now
  let ths := b.deps.zipIdx.map fun x =>
    newThread ⟨id.ctx, id.grid, id.team, x.2⟩ 0 x.2 b.deps.length g.launch.nteam (lcoreOf [] false false core core).1 0 (budgetOf x.1.bud)
      x.1.payload x.1.entry now
  { s.addTeam g.id t ths with batches := s.batches.filter fun y => ! (decide (y.grid = b.grid) && decide (y.k = b.k)) }

-- ---------------------------------------------------------------- the order of placement

/-- Threads resident on a core (R349). -/
def State.residents (s : State) (core : Nat) : Nat :=
  (s.threads.filter fun t => decide (t.st ≠ .exited) && decide (s.coreOf t.id = core)).length

/-- Registers in use on a core (R348). -/
def State.regsUsed (s : State) (core : Nat) : Nat :=
  ((List.range 4).map fun p => ((s.usedBlocks core p).map fun b => b.2.2).sum).sum

/-- What the next ordinary team of a grid needs. -/
def Grid.need (g : Grid) : Need :=
  { budgets := g.launch.budgets, spanning := g.launch.spans, scr := g.launch.scr, places := g.launch.acn32 + 2 * g.launch.acn64,
    slice := decide (g.launch.aent ≠ 0), kernel := g.kernelMode }

/-- What a relaunch batch needs (R355). -/
def ReBatch.need (b : ReBatch) : Need :=
  { budgets := b.deps.map fun d => budgetOf d.bud, spanning := false, scr := 0, places := 0, slice := false, kernel := false }

/-- The cores a team of a grid may go to (R49, R347, R360): for a deterministic grid the one its number names. -/
def State.eligible (s : State) (g : Grid) (team : Nat) : List Nat :=
  let cores := s.coresOf g.id.ctx
  if g.kernelMode then [64 * g.die]
  else
    let l := if g.launch.spans then clustersOf cores else cores
    if g.launch.det then (match l[team % l.length]? with
      | some c => [c]
      | none => [])
    else l

/-- The least of a list by a key, the first among equals. -/
def leastKey {α : Type} (key : α → Nat) (l : List α) : Option α := leastBy (fun a b => decide (key a < key b)) l

/-- The core a team goes to (R349): the fitting core with the fewest resident threads, ties to the lowest, none reserved by others. -/
def State.chooseCore (s : State) (cores taken : List Nat) (n : Need) (ordinary : Bool) :
    Option (Nat × List (Nat × Nat × Nat) × List (Nat × Nat × Nat)) :=
  let free := cores.filter fun c => ! taken.contains c && ! (n.spanning && taken.contains (c + 1))
  let fit := free.filterMap fun c => (s.fits c n ordinary).map fun g => (c, g)
  leastKey (fun x => s.residents x.1 + if n.spanning then s.residents (x.1 + 1) else 0) fit

/-- Whether the control plane may place teams of a grid: its context is resident, and no pre-emption request applies (R344, R360, R379). -/
def State.placeable (s : State) (g : Grid) : Bool :=
  match s.ctx? g.id.ctx with
  | some c => c.live && c.resident && (! c.preq || g.kernelMode) && ! g.saved
  | none => false

/-- Whether every release of a batch's deposits has completed (R285, R353): what its depositors wrote and what they observed is performed. -/
def State.batchReleased (s : State) (b : ReBatch) : Bool :=
  b.deps.all fun d =>
    let t : ThreadId := ⟨d.grid.ctx, d.grid.grid, d.team, d.rank⟩
    s.olderComplete t d.pos && s.observedDone t

/-- The batches of a grid in the order they are tried: restored ones by ascending saved core, then by their numbers (R348, R361). -/
def State.batchesOf (s : State) (g : GridId) : List ReBatch :=
  let key (b : ReBatch) : Nat := match b.anchor with
    | some a => a
    | none => 128
  sortBy (fun a b : ReBatch => decide (key a < key b) || (decide (key a = key b) && decide (a.k < b.k))) (s.batches.filter fun b => decide (b.grid = g))

/-- The largest of the restored batches that go to one core together with a batch (R361). -/
def State.largestMate (s : State) (b : ReBatch) : ReBatch :=
  let mates := s.batches.filter fun x => decide (x.grid.ctx = b.grid.ctx) && decide (x.anchor = b.anchor) && ! x.chosen
  (leastKey (fun x => 2 ^ 14 - x.deps.length) mates).getD b

/-- The order of R348 and R360: service grids, then higher PRIO, then earlier acceptance. -/
def Grid.before (a b : Grid) : Bool :=
  let key (g : Grid) : Nat := (if g.kernelMode then 0 else 4 - g.launch.prio)
  decide (key a < key b) || (decide (key a = key b) && decide (a.order < b.order))

/-- The ready grids in their order. -/
def State.placeOrder (s : State) : List Grid := sortBy Grid.before (s.grids.filter s.placeable)

/-- The cores that grids earlier in the order reserve, whether or not they may place a team now (R348). -/
def State.takenBefore (s : State) (g : Grid) : List Nat :=
  (s.grids.filter fun x => x.before g && ! x.saved && decide (x.id ≠ g.id)).flatMap (·.reserved)

-- ---------------------------------------------------------------- the reorder unit

/-- REORD (R352, R353): deposits the thread and ends it as EXIT does. -/
def execReord (d a : Nat) (l : Bool) (o n : Nat) (s : State) : Host.Outcome State Fault Refusal :=
  issue s (fun _ => { srcs := [⟨a, 1⟩, ⟨d, n⟩], recs := 1, kills := killIf l ⟨a, 1⟩, hints := { schedOnly with imm := 2 }, cross := true })
    fun x s1 =>
      let off : Int := match latchPay x.t.latch 0 with
        | some p => sext (p * 2 ^ 5 + o) 27
        | none => sext o 5
      let dep : ReorderDep :=
        { core := x.core, grid := x.t.id.gridId, entry := BitVec.ofNat 52 (wrap ((x.t.pc.toNat : Int) + 4 * off) 52),
          key := nth x.vals 0 0 % 2 ^ 16, payload := (wordsOf n (nth x.vals 1 0)).map (BitVec.ofNat 32),
          bud := Nat.log2 (x.t.budget / 8), team := x.t.id.team, rank := x.t.id.rank, pos := x.t.pos }
      .ok ({ s1 with reorder := s1.reorder ++ [dep] }.exitThread x.t.id)

/-- Whether a deposit belongs to a group (R354). -/
def ReorderDep.inGroup (d : ReorderDep) (core : Nat) (grid : GridId) (entry : Addr) (bud : Nat) : Bool :=
  decide (d.core = core) && decide (d.grid = grid) && decide (d.entry = entry) && decide (d.bud = bud)

/-- Whether a thread keeps a group from being formed (R354). -/
def State.stillRunning (s : State) (core : Nat) (grid : GridId) : Bool :=
  s.threads.any fun t => decide (t.id.gridId = grid) && decide (s.coreOf t.id = core) &&
    (match t.st with
     | .ready | .dependent | .blocked => true
     | _ => false)

/-- Forms a batch of a group, in sort order (R354, R355). -/
def State.formBatch (s : State) (core : Nat) (grid : GridId) (entry : Addr) (bud : Nat) : State :=
  let group := (s.reorder.filter fun d => d.inGroup core grid entry bud).take 2048
  if group.isEmpty then s
  else
    let lt (a b : ReorderDep) : Bool :=
      decide (a.key < b.key) || (decide (a.key = b.key) && (decide (a.team < b.team) || (decide (a.team = b.team) && decide (a.rank < b.rank))))
    let k := match s.grid? grid with
      | some g => g.relaunch
      | none => 0
    let b : ReBatch := { core := core, anchor := none, chosen := true, grid := grid, k := k, deps := sortBy lt group }
    { s.updGrid grid fun g => { g with relaunch := g.relaunch + 1 } with
      reorder := s.reorder.filter fun d => ! group.contains d
      batches := s.batches ++ [b] }

/-- REORDER_BATCH_FORM (R354): the reorder unit of a core sorts a group of deposits into a batch, when the group is full or no thread of
the grid runs on the core. -/
def execReorderBatchForm (s : State) : Host.Outcome State Fault Refusal :=
  let core := s.arg 0
  let grid := s.argGrid 1
  let entry := s.arg 3
  let bud := s.arg 4
  let n := (s.reorder.filter fun d => d.inGroup core grid (BitVec.ofNat 52 entry) bud).length
  if 2048 ≤ n ∨ ! s.stillRunning core grid then .next (s.formBatch core grid (BitVec.ofNat 52 entry) bud) else .next s

-- ---------------------------------------------------------------- the compactor

/-- Moves the blocks of a team's ranks down, or up, in rank order, while the bytes to move last (R134): the state, and the bytes left. -/
def State.moveBlocks (s : State) (up : Bool) (t : TeamId) : List Nat → Nat → State × Nat
  | [], left => (s, left)
  | rank :: rs, left => match s.team? t, s.thread? ⟨t.ctx, t.grid, t.team, rank⟩ with
    | some tm, some th =>
      let own := nth tm.blocks rank (0, 0, 0)
      let used := (s.usedBlocks (tm.coreOf rank) (tm.partOf rank)).filter fun b => ! (decide (b.1 = own.2.1) && decide (b.2.1 = own.2.2))
      let range := s.topBlocks (tm.coreOf rank) (s.kernelMode ⟨t.ctx, t.grid⟩)
      match findBlockBy up used th.budget range.1 range.2 with
      | some (top, f) =>
        let here := 64 * own.2.1 + own.2.2
        if (if up then here < 64 * top + f else 64 * top + f < here) ∧ th.budget * 4 ≤ left then
          (s.updTeam t fun x => { x with blocks := x.blocks.set rank (own.1, top, f) }).moveBlocks up t rs (left - th.budget * 4)
        else s.moveBlocks up t rs left
      | none => s.moveBlocks up t rs left
    | _, _ => s.moveBlocks up t rs left

/-- Moves the scratchpad segments of a team down, or up, the largest first, while the bytes to move last (R132, R134). -/
def State.moveSegs (s : State) (up : Bool) (t : TeamId) : List Nat → Nat → State
  | [], _ => s
  | i :: is, left => match s.team? t with
    | none => s
    | some tm =>
      let g := nth tm.segments i (0, 0, 0)
      let used := (s.usedSegs g.1).filter fun u => decide (u ≠ g.2)
      match findSegBy up used g.2.2 with
      | some p =>
        if (if up then g.2.1 < p else p < g.2.1) ∧ g.2.2 * 4096 ≤ left then
          (s.updTeam t fun x => { x with segments := x.segments.set i (g.1, p, g.2.2) }).moveSegs up t is (left - g.2.2 * 4096)
        else s.moveSegs up t is left
      | none => s.moveSegs up t is left

/-- Whether the compactor may pause a team (R134): a placement found its core too fragmented, no team is paused, and it was not paused within
8,192 cycles. -/
def State.mayCompact (s : State) (t : Team) : Bool :=
  let now := s.now t.core
  let cores := if t.spanning then [t.core, t.core + 1] else [t.core]
  let recent : Bool := match t.lastMove with
    | some c => decide (now < c + 8192)
    | none => false
  (s.compacting.any fun c => cores.contains c) && ! (s.teams.any fun x => decide (s.now x.core < x.pausedUntil)) && ! recent

/-- A team's blocks and segments moved towards one end of what holds them (R134): at most 128 KiB of them. -/
def State.moveTeam (s : State) (up : Bool) (tm : Team) : State :=
  let r := s.moveBlocks up tm.id (List.range tm.blocks.length) 131072
  r.1.moveSegs up tm.id (List.range tm.segments.length) r.2

/-- Whether a move of a team towards one end changes its place. -/
def State.moves (s : State) (up : Bool) (tm : Team) : Bool :=
  match (s.moveTeam up tm).team? tm.id with
  | some x => decide (x.blocks ≠ tm.blocks ∨ x.segments ≠ tm.segments)
  | none => false

/-- COMPACTOR_MOVE (R134, R135): pauses a team for at most 512 cycles and moves at most 128 KiB of its blocks and segments, down or up; its Ready
threads do not age meanwhile. Which team it takes and which way, the spec leaves open (DESIGN CHOICE, log 16). -/
def execCompactorMove (s : State) : Host.Outcome State Fault Refusal :=
  let team := s.argTeam 0
  let pause := s.arg 3
  let up := s.argBool 4
  match s.team? team with
  | none => .next s
  | some tm =>
    if ! s.mayCompact tm || decide (512 < pause) then .next s
    else
      let now := s.now tm.core
      let s1 := s.updTeam team fun t => { t with pausedUntil := now + pause, lastMove := some now }
      let age (t : Thread) : Thread :=
        if t.id.teamId = team ∧ t.st = .ready then { t with readyAt := min now (max t.readyAt t.holdUntil) + pause } else t
      .next (State.moveTeam { s1 with threads := s1.threads.map age } up tm)

-- ---------------------------------------------------------------- the end of a grid

/-- Whether an operation is a store or an atomic that R48 waits for. -/
def Op.isStore (o : Op) : Bool :=
  match o.body with
  | .mem a => a.kind.stores || a.kind.atomic || decide (a.kind = .flush) || decide (a.kind = .inv)
  | .push _ _ _ => true
  | _ => false

/-- Whether a grid has completed (R48, R355): no team to place, every thread of it exited, no deposit, and every store of it done. -/
def State.gridOver (s : State) (g : Grid) : Bool :=
  decide (g.launch.nteam ≤ g.nextTeam) && g.waiting.isEmpty && ! g.saved
    && (s.threads.all fun t => decide (t.id.gridId ≠ g.id) || decide (t.st = .exited))
    && ! (s.reorder.any fun d => decide (d.grid = g.id)) && ! (s.batches.any fun b => decide (b.grid = g.id))
    && ! (s.ops.any fun o => decide (o.thr.gridId = g.id) && o.isStore)
    && ! (s.teams.any fun t => decide (t.id.gridId = g.id) && t.engine.any fun e => decide (e.kind = 3))
    && ! (s.copies.any fun c => decide (c.thr.gridId = g.id)) && ! (s.jobs.any fun j => decide (j.thr.gridId = g.id))

/-- Where a DONEV store goes: the physical address, or the class of its fault, of translation or on uncorrectable data (R48). A DONEA that is
not 8-byte aligned takes the 8 bytes from the translation of its first (DESIGN CHOICE, log 28: R46 calls it aligned and R47 does not
check it). -/
def State.doneTarget (s : State) (die ctx addr : Nat) : TrRes :=
  match s.dieTranslate die ctx addr false true with
  | .ok pa tr => if s.homePoison.contains (pa / 64) then .fault clsPoison else .ok pa tr
  | .fault cls => .fault cls

/-- A faulting DONEV store becomes a parked request whose issuer is retired (R48, R369), or waits while the replay queue is full (R371). -/
def State.parkDone (s : State) (die : Nat) (g : GridId) (addr value cls : Nat) : State :=
  if 1024 ≤ s.replayCount die then { s with doneWait := s.doneWait ++ [(die, g, addr, value)] }
  else
    let seq := s.nextSeqOf die g.ctx
    let r := s.deviceRecord g.ctx cls (if cls ≥ 0x40 then AccCode.store.num else 0) addr g.grid
    let s1 := s.postRecord die { r with ir := true, nrep := 1 }
    { s1 with replays := s1.replays ++ [⟨die, seq, g.ctx, .done g addr value, cls, true, addr⟩] }

/-- The DONEV store of a completed grid (R48, R286). -/
def State.doneStore (s : State) (g : Grid) : State :=
  if g.launch.donea = 0 then s
  else match s.doneTarget g.die g.id.ctx g.launch.donea with
    | .ok pa _ => s.homeWrite g.id.ctx pa 8 g.launch.donev.toNat
    | .fault cls => s.parkDone g.die g.id g.launch.donea g.launch.donev.toNat cls

/-- The oldest DONEV store that waits for the replay queue is made, or parks, when there is room (R371). -/
def State.retryDone (s : State) : State :=
  match s.doneWait with
  | [] => s
  | (die, g, addr, value) :: rest =>
    let s1 : State := { s with doneWait := rest }
    match s1.doneTarget die g.ctx addr with
    | .ok pa _ => s1.homeWrite g.ctx pa 8 value
    | .fault cls => if 1024 ≤ s.replayCount die then s else s1.parkDone die g addr value cls

/-- A completed grid leaves: the L1s that held its teams write back, then DONEV is written (R48, R286); waiting dependences are tested
(R346). -/
def State.endGrid (s : State) (g : Grid) : State :=
  let s := (g.placedCores.map clusterOf).dedup.foldl State.flushL1 s
  let s := s.doneStore g
  let s : State := { s with grids := s.grids.filter fun x => decide (x.id ≠ g.id) }
  (s.testDeps 0).testDeps 1

/-- GRID_COMPLETE (R48): a grid whose teams and stores are over completes once. -/
def execGridComplete (s : State) : Host.Outcome State Fault Refusal :=
  let ctx := s.arg 0
  let grid := s.arg 1
  let s := s.reapTeams.retryDone
  match s.grid? ⟨ctx, grid⟩ with
  | none => .next s
  | some g => .next (if s.gridOver g then s.endGrid g else s)

end Machine
end Sys2Proof
end

