-- ==== Sys2Proof/Machine/Sched.lean ====
section
/-! DEFINITION. Bundles and promotion (R37, R38, R42): who shares a bundle, BUNDLE_REFORM and THREAD_PROMOTION. -/

namespace Sys2Proof
namespace Machine

/-- The threads of a partition of a core (R34). -/
def State.partThreads (s : State) (core part : Nat) : List Thread :=
  s.threads.filter fun t => match s.team? t.id.teamId with
    | some tm => decide (tm.coreOf t.id.rank = core) && decide (tm.partOf t.id.rank = part)
    | none => false

/-- Whether two threads share team, role and PC (R37). -/
def Thread.like (a b : Thread) : Bool := decide (a.id.teamId = b.id.teamId) && decide (a.role = b.role) && decide (a.pc = b.pc)

/-- Whether a thread stands at a word that its bundle can issue in a cycle or waits for: Ready, and out of the hold of an earlier word, or
stalled on a register (R35, R38, R116). -/
def Thread.inRun (t : Thread) (now : Nat) : Bool :=
  (decide (t.st = .ready) && decide (t.readyAt ≤ now) || decide (t.st = .dependent)) && decide (t.holdUntil ≤ now)

/-- The bundle of a thread in a cycle: the threads of its partition that hold its list and are like it, in ascending rank (R37, R38). -/
def State.bundleOf (s : State) (t : Thread) (now : Nat) : List Thread :=
  match t.bundle, s.team? t.id.teamId with
  | some b, some tm =>
    let same (x : Thread) : Bool := decide (x.id = t.id) || (decide (x.bundle = some b) && x.like t
      && decide (siteOf tm.spanning x.id.rank = siteOf tm.spanning t.id.rank) && x.inRun now)
    sortBy (fun a b : Thread => decide (a.id.rank < b.id.rank)) (s.threads.filter same)
  | _, _ => [t]

/-- The threads that issue a word with a member of a bundle in its cycle (R38, R115). -/
def State.mates (s : State) (t : Thread) (now : Nat) : List Thread :=
  (s.bundleOf t now).filter fun x => decide (x.id ≠ t.id) && decide (x.st = .ready)

/-- The cycle since which a Ready thread has been Ready and unissued (R30, R42). -/
def Thread.since (t : Thread) : Nat := max t.readyAt t.holdUntil

/-- Whether a thread is Ready in a cycle: its next word can issue, and no hold of an earlier word keeps it (R35, R116). -/
def Thread.readyIn (t : Thread) (now : Nat) : Bool := decide (t.st = .ready) && decide (t.since ≤ now)

/-- The bundle a thread is formed into among those of a list that form with it: the like ones, in ascending rank, are cut into runs of 32
(R37). `key` tells apart the groups that form in one cycle. Deterministic mode fixes this order (R52); elsewhere the choice is free, and
the model makes the same one. -/
def bundleAt (now key : Nat) (forming : List Thread) (t : Thread) : List Nat :=
  let before := (forming.filter fun x => x.like t && decide (x.id.rank < t.id.rank)).length
  [now, key, t.role, t.pc.toNat, before / 32]

/-- The bundle a thread of the partition is in after a boundary (R37): a new one when it is Ready, and none when it waits. -/
def reformed (now : Nat) (mine : List Thread) (t : Thread) : Option (List Nat) :=
  if t.readyIn now then some (bundleAt now 0 (mine.filter fun x => x.readyIn now) t) else none

/-- The bundle a thread of the partition is in in a cycle between boundaries (R37): that of the like threads that became Ready in the same
cycle, when it is Ready and in none. -/
def joined (now : Nat) (mine : List Thread) (t : Thread) : Option (List Nat) :=
  let joins (x : Thread) : Bool := x.readyIn now && x.bundle.isNone
  if joins t then some (bundleAt now (t.since + 1) (mine.filter fun x => joins x && decide (x.since = t.since)) t) else t.bundle

/-- Gives every thread of a partition its bundle. -/
def State.bundlePart (s : State) (core part : Nat) (f : Nat → List Thread → Thread → Option (List Nat)) : State :=
  let now := s.now core
  let mine := s.partThreads core part
  { s with threads := s.threads.map fun t => if mine.contains t then { t with bundle := f now mine t } else t }

/-- The bundles of a partition dissolve and its Ready threads form new ones (R37, R38). -/
def State.reformPart (s : State) (core part : Nat) : State := s.bundlePart core part reformed

/-- The threads of a partition that have become Ready form their bundles (R37). -/
def State.joinPart (s : State) (core part : Nat) : State := s.bundlePart core part joined

/-- BUNDLE_REFORM (R37, R38): at a cycle that is a multiple of 4 every bundle of a partition dissolves and its Ready threads form new
ones. -/
def execBundleReform (s : State) : Host.Outcome State Fault Refusal :=
  let core := s.arg 0
  .next (if s.now core % 4 = 0 then s.reformPart core (s.arg 1) else s)

/-- THREAD_PROMOTION (R42): a thread that has been Ready and unissued for 256 consecutive cycles is promoted. -/
def execThreadPromotion (s : State) : Host.Outcome State Fault Refusal :=
  let t := s.argThread 0
  let now := s.now (s.coreOf t)
  .next (s.updThread t fun x => if x.st = .ready ∧ x.since + 256 ≤ now then { x with promoted := true } else x)

end Machine
end Sys2Proof
end

