-- ==== Sys2Proof/Machine/Service.lean ====
section
/-! DEFINITION. Service calls (R356 to R359): SVC and the reply of the service unit. -/

namespace Sys2Proof
namespace Machine

/-- The context of a die's service ring: that of its service grid, or of the kernel-mode queue that would launch one (R356, R360). -/
def State.serviceCtx (s : State) (die : Nat) : Option Nat :=
  match s.grids.find? fun g => g.kernelMode && decide (g.die = die) with
  | some g => some g.id.ctx
  | none => ((List.range 16).find? fun i => (s.lq (16 * die + i)).km && bitAt (s.lq (16 * die + i)).lqc.toNat 6).map
      fun i => (s.lq (16 * die + i)).ctx

/-- The service ring of a die: the virtual address of its header, and its slots; none without a ring (R356). -/
def DieCtl.serviceRing (c : DieCtl) : Option (Nat × Nat) :=
  let sz := bits c.sqc.toNat 0 4
  if 1 ≤ sz ∧ sz ≤ 10 then some (bits c.sqb.toNat 11 41 * 2048, 2 ^ sz) else none

/-- A thread of a batch with its function word and its argument words. -/
structure SvcCaller where
  t : Thread
  fn : Nat
  args : Nat
  deriving DecidableEq, Repr

/-- Bytes 0x000 to 0x03F of a batch slot (R358). -/
def slotHeader (t : Thread) (cls na m user : Nat) : Nat :=
  leVal (leBytes 8 0 ++ leBytes 8 t.pc.toNat ++ leBytes 4 t.id.grid ++ leBytes 4 t.id.team ++ leBytes 4 (cls + na * 16 + m * 64)
    ++ leBytes 4 t.id.ctx ++ leBytes 8 user ++ leBytes 24 0)

/-- An entry of a batch slot (R358). -/
def slotEntry (x : SvcCaller) (n : Nat) : Nat :=
  leVal (leBytes 4 x.t.id.rank ++ leBytes 4 x.fn ++ leBytes 32 (x.args % 2 ^ (32 * n)) ++ leBytes 8 0)

/-- The bytes of a batch slot, as one number (R358). -/
def slotValue (l : List SvcCaller) (t : Thread) (cls na n user : Nat) : Nat :=
  slotHeader t cls na l.length user
    + l.zipIdx.foldl (fun v x => v + slotEntry x.1 n * 256 ^ (64 + 48 * x.2)) 0

/-- A member of a batch parks at its SVC with an operation that waits for the reply (R357, R359). -/
def State.parkService (s : State) (a : Args) (i : Issue) (x : SvcCaller) (dests : List Nat) : State :=
  let op := { a.op s .reply with thr := x.t.id, pos := x.t.pos, latch := x.t.latch, opnd := [x.fn], dests := dests }
  (s.addOp op).updThread x.t.id fun t =>
    { t.commit i a.now with pc := t.pc, st := .parked .service, bundle := none }

/-- The form of SVC with k argument registers (R357): it waits for its thread's release. -/
def svcForm (s : State) (d a : Nat) (l : Bool) (k : Nat) (t : Thread) : Issue :=
  { srcs := [⟨a, 1⟩, ⟨d, k⟩], recs := 1, kills := killIf l ⟨a, 1⟩, hints := schedOnly, wait := ! s.releasable t }

/-- The members of a batch in ascending rank (R357, R358): the issuing thread with its sources, and the mates that issue with it. -/
def State.svcCallers (s s1 : State) (x : Args) (d a : Nat) (l : Bool) (k : Nat) : List SvcCaller :=
  let able (t : Thread) : Bool := ! ((svcForm s d a l k t).reads.any (s.pendingWrite t)) && s.releasable t && ! s.heldBack t.id
  sortBy (fun p q => decide (p.t.id.rank < q.t.id.rank))
    (⟨x.t, nth x.vals 0 0, nth x.vals 1 0⟩ :: ((s1.mates x.t x.now).filter able).map fun t => SvcCaller.mk t (t.reg a) (t.regsFrom d k))

/-- The batch j of a die's ring is written and its members park (R357 to R359), after its two stores. -/
def State.parkBatch (s s3 : State) (x : Args) (d a : Nat) (l : Bool) (k j ctx base va : Nat) (all : List SvcCaller) : State :=
  let die := dieOf x.core
  let s4 := all.foldl (fun u y => u.parkService x (svcForm s d a l k y.t) y (Src.mk d k).regs) (s3.updThread x.t.id fun _ => x.t)
  let members := all.zipIdx.map fun y => SvcMember.mk y.1.t.id (s3.nextId + y.2) d k
  { s4 with svc := s4.svc ++ [(SvcBatch.mk die j va ctx members)] }.wakeVa die ctx base

/-- SVC (R357): n is NA, c the class. -/
def execSvc (d a : Nat) (l : Bool) (n c : Nat) (s : State) : Host.Outcome State Fault Refusal :=
  let k := 2 * 2 ^ n
  issue s (svcForm s d a l k) fun x s1 =>
    let die := dieOf x.core
    let permitted : Bool := match s1.grid? x.t.id.gridId with
      | some g => bitAt g.svcp c
      | none => false
    if ! permitted then .trap clsService 0 0
    else match (s1.ctl die).serviceRing, s1.serviceCtx die with
      | some (base, slots), some ctx =>
        (match s1.read1k die ctx base 8, s1.read1k die ctx (base + 64) 8 with
         | .ok pw _, .ok cw _ =>
           let j := pw % slots
           let open_ := decide ((pw + 2 ^ 64 - cw) % 2 ^ 64 < slots) && ! (s1.svc.any fun b => decide (b.die = die) && decide (b.j % slots = j))
           if ! open_ then .hold .blocked
           else
             let all := s.svcCallers s1 x d a l k
             let va := base + 2048 * (1 + j)
             let (s2, f1) := s1.writeVa die ctx 40 va (64 + 48 * all.length)
               (slotValue all x.t c n k (s1.userOf x.t.id.gridId))
             let (s3, f2) := s2.writeVa die ctx 2 base 8 ((pw + 1) % 2 ^ 64)
             if f1.isSome || f2.isSome then .hold .blocked
             else .holdWith (.parked .service) (s.parkBatch s3 x d a l k pw ctx base va all)
         | _, _ => .hold .blocked)
      | _, _ => .hold .blocked

/-- The reply words reach one member, unless it has been killed (R359). A poison mark on the ring's words, the reply or STATUS changes nothing: the
spec names no fault of the service unit (DESIGN CHOICE, log 29). -/
def State.replyTo (s : State) (b : SvcBatch) (m : SvcMember) (i : Nat) : State :=
  match s.op? m.op, s.thread? m.thr, s.read1k b.die b.ctx (b.va + 64 + 48 * i + 8) (4 * m.n) with
  | some o, some _, .ok v _ =>
    let s := (s.updThread m.thr fun t => t.applyWrites o.pos o.dests (wordsOf m.n v)).dropOp o.id
    let s := s.updThread m.thr fun t => if t.st = .exited then t else { t with pc := t.pc + 4 }
    s.wakeThread m.thr
  | _, _, _ => s

/-- SERVICE_REPLY (R359): the service unit of a die sees DONE in a slot's STATUS at the home slice, and writes the reply words; a batch with a
member in a context image waits for its restore (R383). -/
def execServiceReply (s : State) : Host.Outcome State Fault Refusal :=
  let die := s.arg 0
  let j := s.arg 1
  match s.svc.find? fun b => decide (b.die = die) && decide (b.j = j) with
  | none => .next s
  | some b => match s.read1k b.die b.ctx b.va 8 with
    | .fault _ _ => .next s
    | .ok st _ =>
      let saved (m : SvcMember) : Bool := match s.ctx? m.thr.ctx with
        | some c => c.live && ([3, 4, 7, 8] : List Nat).contains c.pstat
        | none => false
      if ! bitAt st 0 || b.members.any saved then .next s
      else
        let s1 := b.members.zipIdx.foldl (fun s m => s.replyTo b m.1 m.2) s
        .next { s1 with svc := s1.svc.filter fun x => ! (decide (x.die = die) && decide (x.j = j)) }

end Machine
end Sys2Proof
end

