-- ==== Sys2Proof/Machine/Special.lean ====
section
/-! DEFINITION. Special registers (R124, R125, R257, R373 to R375): MOVSR and MOVRS; and the word that is no instruction (R113). -/

namespace Sys2Proof
namespace Machine

/-- Whether a number names a user special register (R124). -/
def userSpecial (n : Nat) : Bool :=
  decide (n ≤ 9) || decide (n = 0x10) || decide (n = 0x11) || (decide (0x18 ≤ n) && decide (n ≤ 0x23)) || (decide (0x28 ≤ n) && decide (n ≤ 0x2A))

/-- Whether a number names an assigned kernel register (R373). -/
def kernelSpecial (n : Nat) : Bool := decide (0x100 ≤ n) && decide (n ≤ 0x105)

/-- R113: a number that is unassigned, or reserved to kernel mode and named outside it. -/
def State.badSpecial (s : State) (t : Thread) (n : Nat) : Bool :=
  ! (userSpecial n || (kernelSpecial n && s.kernelMode t.id.gridId))

/-- REM of sr.wsref: the time left in the slot of a die, in units of 4 ns rounded up, from 1 to 500 (R257): 7.2 n-cycles each. -/
def State.slotLeft (s : State) (die : Nat) : Nat :=
  max 1 (s.slotUnits die - (nth s.ncycs die 0 - (nth s.slotAt die (0, 0, false)).2.1) * 10 / 72)

/-- sr.wsref (R257, R488). -/
def State.wsref (s : State) (core : Nat) : Nat :=
  if s.hasWeights then refreshBank (nth s.refresh (dieOf core) 0) + 2 ^ 4 + s.slotLeft (dieOf core) * 2 ^ 16 else 0

/-- The value of a special register (R30, R57, R58, R60, R124, R373). -/
def State.special (s : State) (t : Thread) (core n : Nat) : Nat :=
  if kernelSpecial n then (nth t.kregs (n - 0x100) 0).toNat
  else match n with
    | 0 => t.id.rank
    | 1 => t.role
    | 2 => t.rrank
    | 3 => t.tsize
    | 4 => t.id.team
    | 5 => t.nteam
    | 6 => t.id.grid
    | 7 => t.lcore
    | 8 => t.nlcore
    | 9 => t.budget
    | 0x10 => t.fpc.toNat
    | 0x11 => t.fps.toNat
    | 0x20 => (nth s.caps 0 0).toNat
    | 0x21 => (nth s.caps 1 0).toNat
    | 0x22 => (nth s.caps 2 0).toNat
    | 0x23 => (nth s.caps 3 0).toNat
    | 0x28 => s.now core
    | 0x29 => s.wsref core
    | 0x2A => (s.preqOf t.id).toNat
    | _ => s.slotWord t.id.gridId (n - 0x18)

/-- Whether a word can raise a floating-point flag as its result completes (R166): the majors of the floating-point chapter, a floating
comparison, and ACRES. -/
def raisesFlags (w : Word) : Bool :=
  let m := w.toNat / 2 ^ 26
  (decide (0x10 ≤ m) && decide (m < 0x20)) || (decide (m = 0x20) && decide (4 ≤ bits w.toNat 0 3)) || decide (w &&& 0xFC0011C7 = 0xB4000003)

/-- Whether a flag-raising result of the thread is in flight (R166): a collective's from its firing on. -/
def State.flagsInFlight (s : State) (t : ThreadId) : Bool :=
  s.ops.any fun o => decide (o.thr = t) && (match o.body with
    | .result => raisesFlags o.word
    | .collective raises => raises
    | _ => false)

/-- MOVSR (R125, R375). -/
def execMovsr (d n : Nat) (s : State) : Host.Outcome State Fault Refusal :=
  let k := if n = 0x28 then 2 else 1
  issue s (fun t =>
      { dests := (Src.mk d k).regs, hints := schedOnly, flaw := s.badSpecial t n || (decide (n = 0x28) && decide (d % 2 = 1)),
        wait := decide (n = 0x11) && s.flagsInFlight t.id })
    fun x s1 =>
      let v := s1.special { x.t with fps := match s1.thread? x.t.id with
        | some t => t.fps
        | none => x.t.fps } x.core n
      .ok (s1.result x 8 (Src.mk d k).regs (wordsOf k v))

/-- The bits of sr.fpc that are not reserved (R58). -/
def fpcMask : Word := 0x3F07

/-- The bits of sr.fps that are not reserved (R60). -/
def fpsMask : Word := 0x7F

/-- Whether a value for sr.fpc carries an illegal rounding mode (R59). -/
def badFpc (v : Nat) : Bool := decide (5 ≤ v % 8)

/-- Writes a special register; a read-only one keeps its value (R125). -/
def Thread.setSpecial (t : Thread) (n v : Nat) : Thread :=
  if kernelSpecial n then { t with kregs := t.kregs.set (n - 0x100) (BitVec.ofNat 32 v) }
  else if n = 0x10 then { t with fpc := BitVec.ofNat 32 v &&& fpcMask }
  else if n = 0x11 then { t with fps := BitVec.ofNat 32 v &&& fpsMask }
  else t

/-- MOVRS (R59, R125, R166, R375). -/
def execMovrs (a : Nat) (l : Bool) (n : Nat) (s : State) : Host.Outcome State Fault Refusal :=
  issue s (fun t =>
      { srcs := [⟨a, 1⟩], kills := killIf l ⟨a, 1⟩, hints := schedOnly, flaw := s.badSpecial t n, wait := decide (n = 0x11) && s.flagsInFlight t.id })
    fun x s1 =>
      let v := nth x.vals 0 0
      if n = 0x10 ∧ badFpc v then .trap clsIllegal 0 0
      else .ok (s1.updThread x.t.id fun t => { t.setSpecial n v with holdUntil := x.now + 8, readyAt := x.now + 8 })

/-- ILL, and any other word with major 0x00 (R113): illegal instruction, in a thread or a slice. -/
def execIll (s : State) : Host.Outcome State Fault Refusal := issue s (fun _ => { flaw := true }) fun _ s1 => .ok s1

end Machine
end Sys2Proof
end

