-- ==== Sys2Proof/Machine/Eret.lean ====
section
/-! DEFINITION. The return from an exception and the end of a context: the actions of ERET (R376, R510) with the release and the
cancellation of parked requests (R370, R371), and HALT (R377). -/

namespace Sys2Proof
namespace Machine

-- ---------------------------------------------------------------- parked requests

/-- Takes a parked request out of the replay queue. -/
def State.dropReplay (s : State) (r : Replay) : State :=
  { s with replays := s.replays.filter fun x => ! (decide (x.ctx = r.ctx) && decide (x.seq = r.seq) && decide (x.what = r.what)) }

/-- Changes the Ridgeline engine of a die. -/
def State.updRidge (s : State) (die : Nat) (f : Ridge → Ridge) : State :=
  { s with ridges := s.ridges.set die (f (nth s.ridges die ⟨none, [], 0, false, [0, 0, 0, 0]⟩)) }

/-- Releases one parked request: it is translated and made again (R370, R371). -/
def State.releaseReq (s : State) (r : Replay) : State :=
  let s := s.dropReplay r
  match r.what with
  | .op id => s.updOp id fun o => { o with stage := .walk }
  | .copy id req => s.updCopy id fun c => { c with reqs := c.reqs.map fun q => if q.id = req then { q with st := .walk } else q }
  | .slice team req => s.updReq team req fun q => { q with st := .walk }
  | .done g addr value =>
    (match s.doneTarget r.die r.ctx addr with
     | .ok pa _ => s.homeWrite r.ctx pa 8 value
     | .fault cls => s.parkDone r.die g addr value cls)
  | .engine die _ id =>
    let put (j : RidgeJob) : RidgeJob := if j.id = id then { j with parked := none } else j
    s.updRidge die fun x => { x with cur := x.cur.map put, suspended := x.suspended.map put, awake := true }
  | .island job => s.updJob job fun j => { j with parked := none }

/-- What a cancelled request of an engine leaves: a read gives zeros with the poison mark, a write is not made (R376, R447). -/
def cancelFault (fault : Option (Nat × Nat × Bool)) : List (Nat × Nat) :=
  match fault with
  | some (va, n, false) => [(va, n)]
  | _ => []

/-- A Ridgeline job whose parked request is cancelled (R437, R447): a request of its end is not made; before its records are handed off the job
ends with CODE 5; a read of a raster island gives marked zeros, and a commit is not made. -/
def RidgeJob.cancelled (j : RidgeJob) : RidgeJob :=
  if j.ending then { j with parked := none, writes := j.writes.drop 1 }
  else if ! j.computed || ! j.writes.isEmpty then
    { j with parked := none, fault := none, code := 5, computed := true, todo := [], writes := [], handoffs := [], commits := [] }
  else
    let skip : Bool := match j.fault with
      | some (_, _, w) => w
      | none => false
    let last : Bool := skip && decide (j.commits.length ≤ 1)
    { j with
      dead := if last then [] else j.dead ++ cancelFault j.fault
      parked := none
      commits := if skip then j.commits.drop 1 else j.commits
      handoffs := if last then j.handoffs.drop 1 else j.handoffs
      taken := if last then none else j.taken
      islandGot := if last then [] else j.islandGot }

/-- Cancels one parked request (R376): a Ridgeline job ends with CODE 5, but for a request of a raster island or of its end (R437, R447); a copy is cancelled whole, a slice read delivers poisoned zeros, a load or atomic drops its
register write, a store writes nothing; each counted operation retires. -/
def State.cancelReq (s : State) (r : Replay) : State :=
  let s := (s.dropReplay r).setStall r.ctx false
  match r.what with
  | .op id => (match s.op? id with
    | some o => (s.completeOp o).dropPayloads fun x => decide (x = .op r.ctx id)
    | none => s)
  | .copy id _ => s.cancelCopy id
  | .slice team req => (match s.team? team with
    | some tm => (match tm.sliceReq req with
      | some (rd, q) => s.sliceDeliver tm rd q 0 true
      | none => s)
    | none => s)
  | .done _ _ _ => s
  | .engine die _ id =>
    let put (j : RidgeJob) : RidgeJob := if j.id ≠ id then j else j.cancelled
    let unread (j : RidgeJob) : Bool := decide (j.id = id) && decide (j.todo.head? = some .ring)
    s.updRidge die fun x => { x with suspended := (x.suspended.filter fun j => ! unread j).map put }
  | .island job => s.updJob job fun j =>
      let skip : Bool := match j.fault with
        | some (_, _, w) => w
        | none => false
      { j with dead := j.dead ++ cancelFault j.fault, parked := none,
               commits := if skip then j.commits.drop 1 else j.commits }

/-- The parked requests linked to some records of a context (R376). -/
def State.linked (s : State) (ctx : Nat) (seqs : List Nat) : List Replay :=
  s.replays.filter fun r => decide (r.ctx = ctx) && seqs.contains r.seq

/-- Releases the requests linked to records. -/
def State.releaseAll (s : State) (ctx : Nat) (seqs : List Nat) : State := (s.linked ctx seqs).foldl State.releaseReq s

/-- Cancels the requests linked to records. -/
def State.cancelAll (s : State) (ctx : Nat) (seqs : List Nat) : State := (s.linked ctx seqs).foldl State.cancelReq s

-- ---------------------------------------------------------------- the actions on a thread

/-- What a resumed word takes from its record (R167, R233, R376): the sources, and for ACRES the element image and the rounding code. -/
def FRec.resumption (r : FRec) : Option Resume :=
  if ! r.read || r.dfr then none
  else
    let image := if r.cls = clsFloat ∧ (BitVec.ofNat 32 r.word &&& 0xFC0011C7) = (0xB4000003 : Word) then some r.opnd else none
    some { opnd := if image.isSome then [] else [bits r.opnd 0 64, bits r.opnd 64 64, bits r.opnd 128 64], image := image,
           rc := bits r.detail 8 3 }

/-- The word a thread is parked at has no further effect (R376): its wait for a value, a reply or a cairn's phase is over, and it has left the
cairn's count (R461, R466). -/
def State.unwait (s : State) (t : ThreadId) : State :=
  ({ s with
    waiters := s.waiters.filter fun w => decide (w.thr ≠ t)
    ops := s.ops.filter fun o => ! (decide (o.thr = t) && decide (o.body = OpBody.reply)) }).leaveCairn t

/-- Answers records of a thread with RESUME or SKIP, and makes it Ready when none is left (R510): after RESUME a thread that is also parked
for a line, a value or a reply stays parked for that. -/
def State.answer (s : State) (t : ThreadId) (seqs : List Nat) (how : ParkAnswer) : State :=
  let res := ((s.recs ++ s.held.map (·.record)).filter fun r => decide (r.ctx = t.ctx) && seqs.contains r.seq).findSome? FRec.resumption
  let s := seqs.foldl (fun s q => s.closeRecord t.ctx q) s
  let s := s.updThread t fun x => { x with
    parks := x.parks.map fun p => if seqs.contains p.seq then { p with answer := some how } else p
    resume := match res with
      | some r => some r
      | none => x.resume }
  match s.thread? t with
  | none => s
  | some x =>
    if ! x.openParks.isEmpty then s
    else if x.parks.any (fun p => decide (p.answer = some .skip)) then
      (s.unwait t).updThread t (fun y => { y with pc := x.parkPc + 4, latch := [], resume := none, parks := [] }) |>.wakeThread t
    else
      let s1 := s.updThread t fun y => { y with parks := [] }
      if x.st = .parked .fault then s1.wakeThread t else s1

/-- KILL (R376): the thread exits, its records are answered and their requests cancelled; a reply it awaited finds it gone (R359). -/
def State.killThread (s : State) (t : ThreadId) : State :=
  match s.thread? t with
  | none => s
  | some x =>
    let seqs := x.parks.map (·.seq)
    let s := (s.setStall t.ctx false).cancelAll t.ctx seqs
    let s := seqs.foldl (fun s q => s.closeRecord t.ctx q) s
    let s := { s with ops := s.ops.filter fun o => ! (decide (o.thr = t) && decide (o.body = OpBody.reply)) }
    s.exitThread t

/-- WRITE (R376): the write counts as younger than every write of the thread still outstanding; none when REG or the value is refused. -/
def Thread.eretWrite (t : Thread) (reg v : Nat) : Option Thread :=
  if reg < 64 then (if reg < t.budget then some { t.applyWrite t.pos reg v with pos := t.pos + 1 } else none)
  else if reg = 64 then (if badFpc v then none else some (t.setSpecial 0x10 v))
  else if reg = 65 then some (t.setSpecial 0x11 v)
  else if reg < 78 then some { t.applyWrite t.pos (reg - 2) v with pos := t.pos + 1 }
  else none

-- ---------------------------------------------------------------- ERET

/-- The target an ERET names (R373). -/
structure Target where
  ctx : Nat
  grid : Nat
  team : Nat
  rank : Nat
  seq : Nat
  val : Nat
  deriving DecidableEq, Repr

/-- The target that six kernel registers name (R373). -/
def Target.of (ks : List Nat) : Target :=
  ⟨nth ks 0 0 % 256, nth ks 1 0, nth ks 2 0, nth ks 3 0 % 2 ^ 14, nth ks 4 0, nth ks 5 0⟩

/-- The kernel registers of a thread that name an ERET's target (R373). -/
def Thread.target (t : Thread) : List Nat := (List.range 6).map fun i => (nth t.kregs i 0).toNat

/-- sr.kseq names every record of the team (R373). -/
def allSeq : Nat := 0xFFFFFFFF

/-- The records of a target's team that sr.kseq names, answered or not (R373, R376). -/
def State.named (s : State) (k : Target) : List Nat :=
  (s.raised.filter fun r => decide (r.ctx = k.ctx) && decide (r.grid = k.grid) && decide (r.team = k.team)
    && (decide (k.seq = allSeq) || decide (r.seq = k.seq))).map (·.seq)

/-- Whether the SEQ a target names is a record of its team (R376). -/
def State.recordExists (s : State) (k : Target) : Bool := decide (k.seq = allSeq) || ! (s.named k).isEmpty

/-- The size of a team: the record's, or a relaunch team's number of threads (R31, R355). -/
def State.teamSize (s : State) (t : TeamId) : Nat :=
  match s.threads.find? fun x => decide (x.id.teamId = t) with
  | some x => x.tsize
  | none => 0

/-- RESUME and SKIP (R376, R510). -/
def State.eretAnswer (s : State) (k : Target) (how : ParkAnswer) : State × Nat :=
  let t : ThreadId := ⟨k.ctx, k.grid, k.team, k.rank⟩
  match s.thread? t with
  | none => (s, 1)
  | some x =>
    let opn := if x.st.isParked then x.openParks.filter fun q => decide (q < 2 ^ 32) else []
    let sel := if k.seq = allSeq then opn else opn.filter fun q => decide (q = k.seq)
    if sel.isEmpty then (s, 2)
    else
      let s := match how with
        | .resume => s.releaseAll k.ctx sel
        | .skip => s.cancelAll k.ctx sel
      (s.answer t sel how, 0)

/-- One action of ERET and its status (R376), checked in the order the rule gives. -/
def State.eretAct (s : State) (w : Nat) (k : Target) : State × Nat :=
  let op := bits w 0 4
  let reg := bits w 4 8
  if w / 2 ^ 12 ≠ 0 ∨ 6 < op then (s, 6)
  else match s.ctx? k.ctx with
    | none => (s, 1)
    | some c =>
      if ! c.live || s.tdiBound c then (s, 1)
      else if ! c.resident then (s, 4)
      else
        let team : TeamId := ⟨k.ctx, k.grid, k.team⟩
        let t : ThreadId := ⟨k.ctx, k.grid, k.team, k.rank⟩
        let seqs := s.named k
        let beyond := (s.team? team).isSome && decide (s.teamSize team ≤ k.rank)
        let unknown := if op = 4 ∨ op = 5 then seqs.isEmpty && (decide (k.seq ≠ allSeq) || (s.team? team).isNone)
          else (s.team? team).isNone || ! s.recordExists k
        if beyond || unknown then (s, 1)
        else match op with
        | 4 | 5 =>
          if op = 4 then (s.releaseAll k.ctx seqs, 0) else (s.cancelAll k.ctx seqs, 0)
        | 6 => (match s.team? team with
          | none => (s, 1)
          | some tm =>
            if tm.entry ≠ .opened then (s, 3)
            else
              let s := s.updTeam team fun x => { x with entry := .closed }
              let np := s.recs.filter fun r => r.np && decide (r.ctx = k.ctx) && decide (r.grid = k.grid) && decide (r.team % 2 ^ 32 = k.team)
              ({ s with recs := s.recs.filter fun r => ! np.contains r }, 0))
        | _ => (match s.thread? t with
          | none => (s, 1)
          | some x =>
            if x.st = .exited then (s, 2)
            else match op with
              | 0 => s.eretAnswer k .resume
              | 1 => s.eretAnswer k .skip
              | 2 => (s.killThread t, 0)
              | _ =>
                if ! x.st.isParked ∨ x.openParks.isEmpty ∨ (k.seq ≠ allSeq ∧ ! x.openParks.contains k.seq) then (s, 2)
                else match x.eretWrite reg k.val with
                  | some y => (s.updThread t fun _ => y, 0)
                  | none => (s, 5))

/-- Performs the action of an ERET: its status is the result it will write (R376). -/
def State.performEret (s : State) (o : Op) : State :=
  match o.body with
  | .eret w k =>
    let r := s.eretAct w (.of k)
    r.1.updOp o.id fun x => { x with body := .result, vals := [r.2] }
  | _ => s

/-- At the end of a cycle of a die the actions of its ERETs take effect, after every other event of the cycle (R376). -/
def State.performErets (s : State) (die : Nat) : State :=
  (s.ops.filter fun o => decide (dieOf o.core = die)).foldl State.performEret s

/-- ERET (R376): it waits for its thread's .sy release; the action its A names takes effect at the end of the cycle, and the status comes 8
cycles after the issue. -/
def eretWord (d a : Nat) (l : Bool) (s : State) : Host.Outcome State Fault Refusal :=
  issue s (fun t =>
      { srcs := [⟨a, 1⟩], dests := [d], kills := killIf l ⟨a, 1⟩, hints := schedOnly, flaw := ! s.kernelMode t.id.gridId, wait := ! s.releasable t })
    fun x s1 =>
      let s2 := s1.flushL1 (clusterOf x.core)
      .ok (s2.addOp { x.op s2 (.eret (nth x.vals 0 0) x.t.target) with due := some (x.now + 8), dests := [d], vals := [0] })

/-- ERET with OP 0, RESUME; and one whose action word is malformed, which has status 6 (R376). The action is the one A names. -/
def execEretResume (d a : Nat) (l : Bool) (s : State) : Host.Outcome State Fault Refusal := eretWord d a l s

/-- ERET with OP 1, SKIP (R376). -/
def execEretSkip (d a : Nat) (l : Bool) (s : State) : Host.Outcome State Fault Refusal := eretWord d a l s

/-- ERET with OP 2, KILL (R376). -/
def execEretKill (d a : Nat) (l : Bool) (s : State) : Host.Outcome State Fault Refusal := eretWord d a l s

/-- ERET with OP 3, WRITE (R376). -/
def execEretWrite (d a : Nat) (l : Bool) (s : State) : Host.Outcome State Fault Refusal := eretWord d a l s

/-- ERET with OP 4, RQREL (R376). -/
def execEretRqrel (d a : Nat) (l : Bool) (s : State) : Host.Outcome State Fault Refusal := eretWord d a l s

/-- ERET with OP 5, RQCAN (R376). -/
def execEretRqcan (d a : Nat) (l : Bool) (s : State) : Host.Outcome State Fault Refusal := eretWord d a l s

/-- ERET with OP 6, DONE (R376). -/
def execEretDone (d a : Nat) (l : Bool) (s : State) : Host.Outcome State Fault Refusal := eretWord d a l s

-- ---------------------------------------------------------------- HALT

/-- Ends the Ridgeline jobs of a context (R438). -/
def State.killRidge (s : State) (ctx : Nat) : State :=
  let clear (x : Ridge) : Ridge :=
    { x with
      cur := match x.cur with
        | some j => if j.ctx = ctx then none else some j
        | none => none
      suspended := x.suspended.filter fun j => decide (j.ctx ≠ ctx)
      awake := true }
  { s with ridges := s.ridges.map clear }

/-- Ends a context without a save (R377): its threads, copies, parked requests, deposits, pending and spilled records and held records
go; nothing it stored is undone, and no DONEA is written. -/
def State.killContext (s : State) (ctx : Nat) : State :=
  let other (t : ThreadId) : Bool := decide (t.ctx ≠ ctx)
  let idle (x : Island) : Island :=
    { x with waiting := x.waiting.filter fun c => decide (c ≠ ctx) }
  let gone (x : Spill) : Spill := if x.src.1.ctx = ctx then { x with dead := true } else x
  let s := ((s.killRidge ctx).setStall ctx false).dropPayloads (NetOwner.inCtx ctx)
  { s with
    grids := s.grids.filter fun g => decide (g.id.ctx ≠ ctx)
    teams := s.teams.filter fun t => decide (t.id.ctx ≠ ctx)
    threads := s.threads.filter fun t => other t.id
    ops := s.ops.filter fun o => other o.thr
    copies := s.copies.filter fun c => other c.thr
    waiters := s.waiters.filter fun w => other w.thr
    replays := s.replays.filter fun r => decide (r.ctx ≠ ctx)
    held := s.held.filter fun h => decide (h.record.ctx ≠ ctx)
    unposted := s.unposted.filter fun h => decide (h.record.ctx ≠ ctx)
    doneWait := s.doneWait.filter fun d => decide (d.2.1.ctx ≠ ctx)
    recs := s.recs.filter fun r => decide (r.ctx ≠ ctx)
    raised := s.raised.filter fun r => decide (r.ctx ≠ ctx)
    reorder := s.reorder.filter fun d => decide (d.grid.ctx ≠ ctx)
    batches := s.batches.filter fun b => decide (b.grid.ctx ≠ ctx)
    jobs := s.jobs.filter fun j => other j.thr
    spills := s.spills.map gone
    islands := s.islands.map idle
    consts := s.consts.filter fun x => decide (x.grid.ctx ≠ ctx) }

/-- Ends a context without a save (R377), and the store entries it freed take spilled records (R346). -/
def State.haltContext (s : State) (ctx : Nat) : State := (s.killContext ctx).drainAll

/-- Whether a context is a kernel-mode one (R377). -/
def State.kernelCtx (s : State) (ctx : Nat) : Bool :=
  (s.grids.any fun g => decide (g.id.ctx = ctx) && g.kernelMode) || s.lqs.any fun q => q.km && decide (q.ctx = ctx)

/-- HALT (R377): the status of an ended context has no frozen latency. -/
def execHalt (d a : Nat) (l : Bool) (s : State) : Host.Outcome State Fault Refusal :=
  issue s (fun t => { srcs := [⟨a, 1⟩], dests := [d], kills := killIf l ⟨a, 1⟩, hints := schedOnly, flaw := ! s.kernelMode t.id.gridId })
    fun x s1 =>
      let ctx := nth x.vals 0 0 % 256
      match s1.ctx? ctx with
      | none => .ok (s1.result x 8 [d] [1])
      | some c =>
        if ! c.live || s1.tdiBound c then .ok (s1.result x 8 [d] [1])
        else if s1.kernelCtx ctx then .ok (s1.result x 8 [d] [2])
        else
          let s2 := s1.haltContext ctx
          .ok (s2.addOp { x.op s2 .result with dests := [d], vals := [0] })

end Machine
end Sys2Proof
end

