-- ==== Sys2Proof/Machine/Context.lean ====
section
/-! DEFINITION. Contexts and the system's own acts on the data plane: creation and destruction (R478, R479), the binding of images (R445),
invalidation of translations (R414, R415), unpinning (R480), host accesses (R279) and uncorrectable errors (R260). -/

namespace Sys2Proof
namespace Machine

-- ---------------------------------------------------------------- pages

/-- A context register page at its reset values (R362, R365, R378, R404, R414, R423, R445, R473, R478, R489). -/
def emptyCtx (n : Nat) : Ctx :=
  { num := n, live := false, fseq := 1, fqb := 0, fqc := 0, preq := false, pstat := 0, csab := 0, csas := 0, pneed := 0, ttb := 0, inva := 0,
    invc := 0, invBusy := false, invLost := false, invErr := false, invFrom := 0, gridSeq := 0, wayGroup := 0,
    busy := false, own := 0, tee := false, cxpm := [0, 0, 0, 0], qmap := List.replicate 8 0, jnb := 0, jnc := 0, jns := false, rljb := [0, 0],
    rljc := [0, 0], imbd := 0, ryjb := 0, sdfb := 0, sdft := 0, sdfs := 0, bound := none, stprim := 0, stcull := 0,
    oqj := List.replicate 8 0, oqn := List.replicate 8 0, added := [], cores := [] }

/-- A statistics or query register by its number (R473): 0 STPRIM, 1 STCULL, 2 + q OQNq. -/
def Ctx.countOf (c : Ctx) (reg : Nat) : Dword :=
  match reg with
  | 0 => c.stprim
  | 1 => c.stcull
  | q + 2 => nth c.oqn q 0

/-- Sets a statistics or query register. -/
def Ctx.setCount (c : Ctx) (reg : Nat) (v : Dword) : Ctx :=
  match reg with
  | 0 => { c with stprim := v }
  | 1 => { c with stcull := v }
  | q + 2 => { c with oqn := c.oqn.set q v }

/-- The page of a context, in use or not (R478). -/
def State.page (s : State) (n : Nat) : Ctx := (s.ctx? n).getD (emptyCtx n)

/-- Changes the page of a context. -/
def State.updPage (s : State) (n : Nat) (f : Ctx → Ctx) : State :=
  match s.ctx? n with
  | some _ => s.updCtx n f
  | none => { s with ctxs := s.ctxs ++ [f (emptyCtx n)] }

-- ---------------------------------------------------------------- image bindings

/-- The clock by which two things happen in one cycle of the device: it moves with the cycle of either die. -/
def State.clock (s : State) : Nat := s.cycleOf 0 + s.cycleOf 1

/-- A slot that holds no image. -/
def emptySlot : ImgSlot := ⟨none, none, none⟩

/-- The version of a slot that a binding now takes (R24): a post of this cycle counts as arriving after it. -/
def State.bindable (s : State) (x : ImgSlot) : Option Img := if x.posted = some s.clock then x.old else x.cur

/-- The current version of a slot for a class, none when the slot is empty or holds another class (R445). -/
def State.slotImage (s : State) (valid : Bool) (slot cls : Nat) : Option Img :=
  if ! valid then none
  else match s.bindable (nth s.imgSlots slot emptySlot) with
    | some i => if i.cls = cls then some i else none
    | none => none

/-- What a context's bindings resolve to as it becomes resident (R445). -/
def State.resolve (s : State) (c : Ctx) : Bound :=
  let b := c.imbd.toNat
  let lim := c.sdfs.toNat % 256
  { raster := s.slotImage (bitAt b 4) (bits b 0 4) 0, ray := s.slotImage (bitAt b 12) (bits b 8 4) 1,
    filter := s.slotImage (bitAt b 20) (bits b 16 4) 2, ryjb := c.ryjb.toNat, sdfb := c.sdfb.toNat, eps := c.sdft.toNat,
    lim := if lim = 0 then 1 else lim }

/-- Whether a resident context holds a version (R443): versions of equal content are told apart by their posts. -/
def State.imageHeld? (s : State) (i : Img) : Bool :=
  s.ctxs.any fun c => match c.bound with
    | some b => decide (b.raster = some i) || decide (b.ray = some i) || decide (b.filter = some i)
    | none => false

/-- Drops the superseded versions that no resident context holds (R443), and no binding of this cycle can take (R24). -/
def State.releaseImages (s : State) : State :=
  let keep (x : ImgSlot) : ImgSlot := match x.old with
    | some i => if s.imageHeld? i || decide (x.posted = some s.clock) then x else { x with old := none }
    | none => x
  { s with imgSlots := s.imgSlots.map keep }

/-- A context becomes resident: its bindings resolve and its partition is sampled (R55, R445, R479). -/
def State.becomeResident (s : State) (n : Nat) : State :=
  s.updCtx n fun c => { c with bound := some (s.resolve c), cores := s.partitionCores c.cxpm }

-- ---------------------------------------------------------------- creation and destruction

/-- CONTEXT_CREATE (R479): a write of CXC with LIVE = 1 to a page that is neither live nor busy; `cxc` is the word written. -/
def execContextCreate (s : State) : Host.Outcome State Fault Refusal :=
  let ctx := s.arg 0
  let cxc := s.arg 1
  let n := ctx % 256
  let c := s.page n
  if c.live || c.busy || ! bitAt cxc 0 || s.tdiBound c then .next s
  else
    let fresh : Ctx := { emptyCtx n with wayGroup := bits cxc 8 3, own := bits cxc 16 6, tee := bitAt cxc 22, cxpm := c.cxpm }
    let s1 := s.updPage n fun _ => fresh
    if (s.partitionCores c.cxpm).isEmpty then .next s1
    else .next ((s1.updCtx n fun x => { x with live := true }).becomeResident n)

/-- Removes the cached translations of a context over a range of granules (R415), and empties the last-page registers of its threads (R121). -/
def State.sweep (s : State) (ctx lo n : Nat) : State :=
  let hit (t : Translation) : Bool := decide (t.ctx = ctx) && decide (lo < t.page + t.pages) && decide (t.page < lo + n)
  let clear (x : Thread) : Thread := if x.id.ctx = ctx then { x with lastPage := none } else x
  { s with tlb1 := s.tlb1.filter fun e => ! hit e.tr, tlb2 := s.tlb2.filter fun e => ! hit e.tr, threads := s.threads.map clear }

/-- The granules of the whole address space (R239). -/
def allGranules : Nat := 2 ^ 40

/-- CONTEXT_DESTROY (R479): LIVE := 0 halts the context, writes back the L1s its teams used, and drops its translations and images. -/
def execContextDestroy (s : State) : Host.Outcome State Fault Refusal :=
  let ctx := s.arg 0
  match s.ctx? ctx with
  | none => .next s
  | some c =>
    if ! c.live || c.busy || s.tdiBound c then .next s
    else
      let s1 := (s.killContext ctx).drainAll.writeBack fun _ => true
      let s2 := (s1.sweep ctx 0 allGranules).updCtx ctx fun x => { x with live := false, busy := true, bound := none }
      .next s2.releaseImages

/-- CONTEXT_DESTROY_DONE (R479): BUSY clears and the page returns to reset. -/
def execContextDestroyDone (s : State) : Host.Outcome State Fault Refusal :=
  let ctx := s.arg 0
  match s.ctx? ctx with
  | none => .next s
  | some c => if c.busy && ! c.live then .next (s.updCtx ctx fun _ => emptyCtx ctx) else .next s

-- ---------------------------------------------------------------- invalidation

/-- A write to INVC (R414): `kind`, WBI, and the granules it covers. -/
def State.startInvalidation (s : State) (ctx : Nat) (wbi : Bool) (lo n : Nat) : State :=
  let c := s.page ctx
  if c.invBusy then s.updPage ctx fun x => { x with invLost := true }
  else (s.updPage ctx fun x =>
      { x with invc := if wbi then 4 else 0, invBusy := true, invFrom := s.nextId }).sweep ctx lo n

/-- INVALIDATE_PAGE (R414, R415): KIND 0, every page that contains VA. -/
def execInvalidatePage (s : State) : Host.Outcome State Fault Refusal :=
  let ctx := s.arg 0
  let wbi := s.argBool 1
  .next (s.startInvalidation (ctx % 256) wbi (bits (s.page (ctx % 256)).inva.toNat 12 40) 1)

/-- INVALIDATE_RANGE (R414, R415): KIND 1, NG + 1 granules from VA. -/
def execInvalidateRange (s : State) : Host.Outcome State Fault Refusal :=
  let ctx := s.arg 0
  let ng := s.arg 1
  let wbi := s.argBool 2
  .next (s.startInvalidation (ctx % 256) wbi (bits (s.page (ctx % 256)).inva.toNat 12 40) (ng % 2 ^ 20 + 1))

/-- INVALIDATE_CONTEXT (R414, R415): KIND 2. -/
def execInvalidateContext (s : State) : Host.Outcome State Fault Refusal :=
  let ctx := s.arg 0
  let wbi := s.argBool 1
  .next (s.startInvalidation (ctx % 256) wbi 0 allGranules)

/-- Whether an access that may have translated through a removed entry is still under way (R415): any of the context that was translated
before the removal, since an entry of 64 KiB or 2 MiB goes whole; not one whose request is parked. -/
def State.usesOld (s : State) (c : Ctx) : Bool :=
  let old (id : Nat) : Bool := decide (id < c.invFrom)
  (s.ops.any fun o => decide (o.thr.ctx = c.num) && old o.id && (match o.body, o.stage with
    | .mem _, .walk => false
    | .mem _, .parked _ => false
    | .mem a, _ => decide (a.space = .g) || decide (a.space = .k)
    | _, _ => false))
  || (s.copies.any fun y => decide (y.thr.ctx = c.num) && y.reqs.any fun r => old r.id && (match r.st with
    | .ready | .got => decide (y.srcS = .g) || decide (y.dstS = .g)
    | _ => false))
  || (s.teams.any fun t => decide (t.id.ctx = c.num) && (match t.slice with
    | some sl => sl.reads.any fun r => ! r.weight && r.reqs.any fun q => old q.id && decide (q.st = .ready)
    | none => false))

/-- Writes back and invalidates every L1 of the device (R415, R275). -/
def State.sweepL1 (s : State) : State := (s.writeBack fun _ => true).invalidateClean fun _ => true

/-- INVALIDATION_COMPLETE (R415): BUSY clears once no access that used a removed entry is left, and, with WBI, every L1 is written back. -/
def execInvalidationComplete (s : State) : Host.Outcome State Fault Refusal :=
  let ctx := s.arg 0
  match s.ctx? ctx with
  | none => .next s
  | some c =>
    if ! c.invBusy || s.usesOld c then .next s
    else
      let s1 := if bitAt c.invc.toNat 2 then s.sweepL1 else s
      .next (s1.updCtx ctx fun x => { x with invBusy := false, invc := 0 })

-- ---------------------------------------------------------------- pins

/-- SCUNP (R480): BUSY := 1 starts the sweep of a way group. -/
def execScunp (s : State) : Host.Outcome State Fault Refusal :=
  let grp := s.arg 0
  if bitAt s.scunp.toNat 31 then .next s else .next { s with scunp := BitVec.ofNat 32 (grp % 8 + 2 ^ 31) }

/-- SCUNP_DONE (R480): every line pinned in the effective ways of the group is unpinned, and BUSY clears. -/
def execScunpDone (s : State) : Host.Outcome State Fault Refusal :=
  if ! bitAt s.scunp.toNat 31 then .next s
  else
    let g := s.scunp.toNat % 8
    let clear (x : SliceLine) : SliceLine := if bitAt (s.effWays g) x.way then { x with pinned := false } else x
    .next { s with slices := s.slices.map clear, scunp := BitVec.ofNat 32 g }

-- ---------------------------------------------------------------- the host, and storage errors

/-- HOST_ACCESS (R279): a read changes no memory, and like a write may bring its line into the slice for way group 0 (R252; log 41); a write is performed at the home slice as a .sy store, at most one sector at a time. -/
def execHostAccess (s : State) : Host.Outcome State Fault Refusal :=
  let write := s.argBool 0
  let pa := s.arg 1
  let n := s.arg 2
  let v := s.arg 3
  if 64 < n ∨ pa / 64 ≠ (pa + n - 1) / 64 ∨ ! s.memExists pa then .next s
  else if ! write then .next (s.touchSpan pa n 0)
  else .next (s.homeWriteBy 0 pa n (v % 256 ^ n))

/-- UNCORRECTABLE_ERROR (R260): `kind` 0 marks a sector at home, 1 a sector of a cluster's L1, 2 a granule of a team's scratchpad, 3 a word of
the weight store. -/
def execUncorrectableError (s : State) : Host.Outcome State Fault Refusal :=
  let kind := s.arg 0
  let place := s.arg 1
  let unit := s.arg 2
  let team := s.argTeam 3
  match kind with
  | 0 => .next { s with homePoison := setAdd s.homePoison unit }
  | 1 => .next (s.mapL1 (fun x => decide (x.cluster = place) && decide (x.sector = unit)) fun x => { x with poison := true })
  | 2 => .next (s.updTeam team fun t => if unit < t.scr * 128 then { t with poison := setAdd t.poison unit } else t)
  | _ => .next (if unit < 2 ^ 25 then { s with weightPoison := setAdd s.weightPoison unit } else s)

end Machine
end Sys2Proof
end

