-- ==== Sys2Proof/Machine/Geometry.lean ====
section
/-! DEFINITION. What the islands and the Ridgeline engine share: binary32 steps (R428, R442), reads that may fault or wait (R436, R447,
R490), the records of a graph and of a job (R418 to R425), and the raster rule of R449. -/

namespace Sys2Proof
namespace Machine

-- ---------------------------------------------------------------- binary32 steps

/-- A binary32 value. -/
def f32 (x : Nat) : FVal := decodeFloat .f32 (x % 2 ^ 32)
/-- Binary32 addition, to nearest even. -/
def addF (a b : Nat) : Nat := (fadd .f32 0 (f32 a) (f32 b)).1
/-- Binary32 subtraction. -/
def subF (a b : Nat) : Nat := (fsub .f32 0 (f32 a) (f32 b)).1
/-- Binary32 multiplication. -/
def mulF (a b : Nat) : Nat := (fmul .f32 0 (f32 a) (f32 b)).1
/-- Binary32 division. -/
def divF (a b : Nat) : Nat := (fdiv .f32 0 (f32 a) (f32 b)).1
/-- Binary32 a × b + c with one rounding. -/
def fmaF (a b c : Nat) : Nat := (ffma .f32 0 (f32 a) (f32 b) (f32 c)).1
/-- Binary32 square root. -/
def sqrtF (a : Nat) : Nat := (fsqrt .f32 0 (f32 a)).1
/-- The lesser of two, as FMIN (R171). -/
def minF (a b : Nat) : Nat := (fminmax .f32 false a b).1
/-- The greater of two, as FMAX (R171). -/
def maxF (a b : Nat) : Nat := (fminmax .f32 true a b).1
/-- An integer as binary32. -/
def ofIntF (x : Int) : Nat := (roundTo .f32 0 (FVal.ofInt x)).1
/-- a < b; false on a NaN. -/
def ltF (a b : Nat) : Bool := ! (f32 a).isNaN && ! (f32 b).isNaN && decide (cmpVal (f32 a) (f32 b) < 0)
/-- a ≤ b; false on a NaN. -/
def leF (a b : Nat) : Bool := ! (f32 a).isNaN && ! (f32 b).isNaN && decide (cmpVal (f32 a) (f32 b) ≤ 0)
/-- The floor as an integer, clamped to 32 bits; a NaN gives 0, as CVTFI of FLOOR does (R442, log 13). -/
def floorI (x : Nat) : Int := (toIntRange 4 (-2147483648) 2147483647 (f32 x)).1
/-- LERP of R442: FFMA(b − a, f, a). -/
def lerpF (a b f : Nat) : Nat := fmaF (subF b a) f a
/-- +∞ in binary32. -/
def infF : Nat := 0x7F800000
/-- −∞ in binary32. -/
def negInfF : Nat := 0xFF800000

/-- A row of a matrix times (x, y, z, 1), summed left to right (R428). -/
def rowDot (r : List Nat) (v : List Nat) : Nat :=
  addF (addF (addF (mulF (nth r 0 0) (nth v 0 0)) (mulF (nth r 1 0) (nth v 1 0))) (mulF (nth r 2 0) (nth v 2 0))) (nth r 3 0)

/-- Rows of four words. -/
def rowsOf : List Nat → List (List Nat)
  | a :: b :: c :: d :: rest => [a, b, c, d] :: rowsOf rest
  | _ => []

/-- A matrix of rows times a point (R428). -/
def place (m : List (List Nat)) (v : List Nat) : List Nat := m.map fun r => rowDot r v

-- ---------------------------------------------------------------- reads

/-- A run of a unit under way: the state, and the bytes it has read. -/
structure Reader where
  st : State
  got : List GotByte

/-- Why a unit's run stops short: a request of it faults, with its class, address, size and side (true for a write), or it must wait for
room in the journal (R490). What it has read so far stays read: it goes on from there (R436, R437, R447). -/
inductive Halted where
  | fault (r : Reader) (cls va n : Nat) (write : Bool)
  | wait (r : Reader)

/-- A run of a unit over the state. -/
abbrev Run := StateT Reader (Except Halted)

/-- A unit's port to memory: its die, its context, the grid it reads for (R490), the core whose thread submitted its work, cancelled reads,
and whether a mark is a fault (R437). -/
structure Port where
  die : Nat
  grid : GridId
  core : Option Nat
  dead : List (Nat × Nat)
  strict : Bool

/-- Before an access for a thread the L1 of its cluster writes back the sector's dirty bytes (R267, R447). -/
def State.pushFor (s : State) (core : Option Nat) (pa : Nat) : State :=
  match core with
  | some c => s.pushSector (clusterOf c) pa
  | none => s

/-- The byte a run has read at an address, if it has. -/
def gotByte (got : List GotByte) (va : Nat) : Option GotByte := got.find? fun b => decide (b.va = va)

/-- The value of bytes read, and whether one is marked. -/
def gotValue (bs : List GotByte) : Nat × Bool := (bs.foldr (fun b v => b.val + 256 * v) 0, bs.any (·.mark))

/-- Reads up to the end of a sector. A byte that the run has read is not read again (R436). -/
def Port.part (p : Port) (va n : Nat) : Run (Nat × Bool) := fun r =>
  if p.dead.any (fun d => decide (d.1 < va + n) && decide (va < d.1 + d.2)) then .ok ((0, true), r)
  else match (List.range n).mapM fun i => gotByte r.got (va + i) with
  | some bs => .ok (gotValue bs, r)
  | none => match r.st.dieTranslate p.die p.grid.ctx va true false with
    | .fault cls => .error (.fault r cls va n false)
    | .ok pa _ =>
      let s := r.st.pushFor p.core pa
      let mark := s.homePoison.contains (pa / 64)
      if mark && p.strict then .error (.fault r clsPoison va n false)
      else match s.journalRead p.grid pa with
        | (s1, true) =>
          let v := memRead s.home pa n
          let byte (i : Nat) : GotByte := (gotByte r.got (va + i)).getD ⟨va + i, bits v (8 * i) 8, mark⟩
          let bs := (List.range n).map byte
          let new := bs.filter fun b => (gotByte r.got b.va).isNone
          .ok (gotValue bs, ⟨s1.touchVia p.die p.grid.ctx va pa, r.got ++ new⟩)
        | (s1, false) => .error (.wait ⟨s1, r.got⟩)

/-- Reads n bytes, sector by sector, by fuel: the value, and whether a byte is marked. -/
def Port.readBy (p : Port) : Nat → Nat → Nat → Run (Nat × Bool)
  | 0, _, _ => pure (0, false)
  | fuel + 1, va, n =>
    if n = 0 then pure (0, false)
    else do
      let k := min n (64 - va % 64)
      let x ← p.part (va % 2 ^ 64) k
      let y ← p.readBy fuel (va + k) (n - k)
      pure (x.1 + 256 ^ k * y.1, x.2 || y.2)

/-- Reads n bytes. -/
def Port.read (p : Port) (va n : Nat) : Run (Nat × Bool) := p.readBy (n / 64 + 2) va n

/-- Reads a field of w bits at a bit of a stream. -/
def Port.readBits (p : Port) (base bit w : Nat) : Run (Nat × Bool) := do
  let x ← p.read (base + bit / 8) ((bit % 8 + w + 7) / 8)
  pure (bits x.1 (bit % 8) w, x.2)

-- ---------------------------------------------------------------- records

/-- A field of a record: n bits at a byte offset and a bit in it. -/
def rfld (raw off lo n : Nat) : Nat := bits raw (8 * off + lo) n

/-- A 32-bit word of a record. -/
def rword (raw off : Nat) : Nat := rfld raw off 0 32

/-- A 64-bit word of a record. -/
def rdword (raw off : Nat) : Nat := rfld raw off 0 64

/-- Words of a record from an offset. -/
def rwords (raw off n : Nat) : List Nat := (List.range n).map fun i => rword raw (off + 4 * i)

/-- The fixed sequence of R421 for one axis. -/
def coordOf (q b lo hi : Nat) : Nat := fmaF (ofIntF (q : Int)) (divF (subF hi lo) (ofIntF ((2 ^ b - 1 : Nat) : Int))) lo

/-- A cluster record's words (R421). -/
structure Cluster where
  raw : Nat
  /-- The address of its data block. -/
  block : Nat

/-- NV: vertices minus 1. -/
def Cluster.nv (c : Cluster) : Nat := rfld c.raw 0x18 0 7
/-- NT: triangles minus 1. -/
def Cluster.nt (c : Cluster) : Nat := rfld c.raw 0x18 7 7
/-- Bits of each axis. -/
def Cluster.axis (c : Cluster) : List Nat := [rfld c.raw 0x18 14 4 + 1, rfld c.raw 0x18 18 4 + 1, rfld c.raw 0x18 22 4 + 1]
/-- Whether a reserved bit is set. -/
def Cluster.bad (c : Cluster) : Bool := decide (rfld c.raw 0x18 26 6 ≠ 0)

/-- The record at an address, for a graph whose data base is `dat` (R421). -/
def Port.cluster (p : Port) (va dat : Nat) : Run (Cluster × Bool) := do
  let x ← p.read va 32
  pure (⟨x.1, dat + 64 * rword x.1 0x1C⟩, x.2)

/-- A decoded vertex in instance space (R421). -/
def Port.vertex (p : Port) (c : Cluster) (i : Nat) : Run (List Nat × Bool) := do
  let ax := c.axis
  let bx := nth ax 0 0
  let byy := nth ax 1 0
  let bz := nth ax 2 0
  let w := bx + byy + bz
  let q ← p.readBits c.block (i * w) w
  let lo (k : Nat) : Nat := rword c.raw (4 * k)
  let hi (k : Nat) : Nat := rword c.raw (12 + 4 * k)
  pure ([coordOf (bits q.1 0 bx) bx (lo 0) (hi 0), coordOf (bits q.1 bx byy) byy (lo 1) (hi 1), coordOf (bits q.1 (bx + byy) bz) bz (lo 2) (hi 2)],
    q.2)

/-- The three vertex indices of a triangle (R421). -/
def Port.indices (p : Port) (c : Cluster) (t : Nat) : Run (List Nat × Bool) := do
  let w := c.axis.sum
  let base := c.block + 4 * ceilDiv ((c.nv + 1) * w) 32
  let q ← p.readBits base (21 * t) 21
  pure ([bits q.1 0 7, bits q.1 7 7, bits q.1 14 7], q.2)

/-- The vertices of a triangle in instance space, none when an index is above NV; and whether a byte was marked. -/
def Port.triangle (p : Port) (c : Cluster) (t : Nat) : Run (Option (List (List Nat)) × Bool) := do
  let ix ← p.indices c t
  if ix.1.any fun i => decide (c.nv < i) then pure (none, ix.2)
  else
    let vs ← ix.1.mapM fun i => p.vertex c i
    pure (some (vs.map (·.1)), ix.2 || vs.any (·.2))

/-- The transform of an instance record: three rows (R427). -/
def instRows (raw : Nat) : List (List Nat) := rowsOf (rwords raw 0 12)

/-- The view-projection rows of a job descriptor (R425). -/
def jobRows (raw : Nat) : List (List Nat) := rowsOf (rwords raw 0x60 16)

/-- Screen coordinates of a clip position (R432 step 3). -/
def screen (raw : Nat) (clip : List Nat) : Nat × Nat :=
  let w := nth clip 3 0
  let half : Nat := 0x3F000000
  let wd := ofIntF (rfld raw 0x44 0 14 : Nat)
  let ht := ofIntF (rfld raw 0x44 16 14 : Nat)
  (mulF (addF (mulF (divF (nth clip 0 0) w) half) half) wd, mulF (subF half (mulF (divF (nth clip 1 0) w) half)) ht)

-- ---------------------------------------------------------------- the raster rule

/-- Sample offsets in 256ths of a pixel (R449). -/
def sampleOffsets : Nat → List (Nat × Nat)
  | 0 => [(128, 128)]
  | 1 => [(64, 64), (192, 192)]
  | 2 => [(96, 32), (224, 96), (32, 160), (160, 224)]
  | _ => [(144, 80), (112, 176), (208, 144), (80, 48), (48, 208), (16, 112), (176, 240), (240, 16)]

/-- A screen coordinate in 256ths, rounded to an integer; none when it is out of range or no number (R449, log 13). -/
def fixed256 (x : Nat) : Option Int :=
  match f32 x with
  | .fin neg m e =>
    let n := (roundInt 0 neg m (e + 8)).1
    if 2 ^ 24 ≤ n then none else some (if neg then -(n : Int) else n)
  | _ => none

/-- E_k of R449 for an edge from a to b, at a point. -/
def edgeFn (a b p : Int × Int) : Int := (b.1 - a.1) * (p.2 - a.2) - (b.2 - a.2) * (p.1 - a.1)

/-- Whether a sample is on the covered side of an edge (R449). -/
def edgeCovers (sgn e : Int) (a b : Int × Int) : Bool :=
  let dx := sgn * (b.1 - a.1)
  let dy := sgn * (b.2 - a.2)
  decide (0 < sgn * e) || (decide (e = 0) && (decide (0 < dy) || (decide (dy = 0) && decide (dx < 0))))

/-- A set-up triangle: its corners in 256ths, its depths, its area. -/
structure Setup where
  xy : List (Int × Int)
  z : List Nat
  area : Int

/-- The setup of a triangle (R449); none when it is discarded. -/
def setupTri (raw : Nat) (m : List (List Nat)) (vs : List (List Nat)) : Option Setup :=
  let clips := vs.map fun v => place (jobRows raw) (place m v)
  let zn := rword raw 0x5C
  if clips.any fun c => leF (nth c 3 0) zn then none
  else
    let sc := clips.map (screen raw)
    match sc.mapM fun s => (fixed256 s.1).bind fun x => (fixed256 s.2).map fun y => (x, y) with
    | some [a, b, c] =>
      let area := edgeFn b c a
      if area = 0 then none
      else some ⟨[a, b, c], clips.map fun k => divF (nth k 2 0) (nth k 3 0), area⟩
    | _ => none

/-- The depth of a sample point of a triangle, none when it is not covered (R449). -/
def Setup.depth (t : Setup) (p : Int × Int) : Option Nat :=
  let v (k : Nat) : Int × Int := nth t.xy (k % 3) (0, 0)
  let e (k : Nat) : Int := edgeFn (v (k + 1)) (v (k + 2)) p
  let sgn : Int := if t.area < 0 then -1 else 1
  if (List.range 3).all fun k => edgeCovers sgn (e k) (v (k + 1)) (v (k + 2)) then
    let lam (k : Nat) : Nat := divF (ofIntF (e k)) (ofIntF t.area)
    some (addF (addF (mulF (lam 0) (nth t.z 0 0)) (mulF (lam 1) (nth t.z 1 0))) (mulF (lam 2) (nth t.z 2 0)))
  else none

/-- The depth word of a commit (R435): −0 becomes +0; a negative depth or a NaN is discarded. -/
def commitDepth (d : Nat) : Option Nat :=
  let x := f32 d
  if x.isNaN then none else if x.isZero then some 0 else if x.neg then none else some d

/-- PRIM of R435 under IB. -/
def primOf (ib inst pos t : Nat) : Nat := (inst * 2 ^ (32 - ib) + pos * 2 ^ 7 + t) % 2 ^ 32

/-- The pixels of an axis that a triangle can cover, in a viewport and in a bin when there is one. -/
def span (cs : List Int) (limit : Nat) (bin : Option Nat) : List Nat :=
  let lo := (cs.foldl min (2 ^ 24)) / 256
  let hi := (cs.foldl max (-(2 ^ 24))) / 256
  let lo := max lo (match bin with
    | some b => (64 * b : Nat)
    | none => 0)
  let hi := min (min hi ((limit : Int) - 1)) (match bin with
    | some b => (64 * b + 63 : Nat)
    | none => (limit : Int))
  if hi < lo then [] else (List.range (hi - lo + 1).toNat).map fun i => lo.toNat + i

/-- The commits of a triangle: the address and the word of each covered sample of the record's bin (R435, R449). -/
def Setup.commits (t : Setup) (raw bin prim : Nat) : List (Nat × Nat) :=
  let lsmp := rfld raw 0x40 14 2
  let pitch := rfld raw 0x40 0 14
  let nbx := ceilDiv (rfld raw 0x44 0 14) 64
  let all := decide (bin = 0xFFFF)
  let xs := span (t.xy.map (·.1)) (rfld raw 0x44 0 14) (if all then none else some (bin % nbx))
  let ys := span (t.xy.map (·.2)) (rfld raw 0x44 16 14) (if all then none else some (bin / nbx))
  let offs := sampleOffsets lsmp
  ys.flatMap fun y => xs.flatMap fun x => (List.range offs.length).filterMap fun i =>
    let o := nth offs i (0, 0)
    ((t.depth ((256 * x + o.1 : Nat), (256 * y + o.2 : Nat))).bind commitDepth).map fun d =>
      ((rdword raw 0x38 + 8 * ((y * pitch + x) * 2 ^ lsmp + i)) % 2 ^ 64, d * 2 ^ 32 + prim)

/-- What a raster record gives: commits, triangles drawn, triangles culled (R449, R474). -/
structure Drawn where
  commits : List (Nat × Nat)
  prim : Nat
  cull : Nat

/-- One triangle of a record added to what it gives. -/
def Port.drawTri (p : Port) (raw : Nat) (m : List (List Nat)) (c : Cluster) (bad : Bool) (pos inst bin : Nat) (d : Drawn) (t : Nat) : Run Drawn := do
  let tr ← p.triangle c t
  let culled : Drawn := { d with cull := d.cull + 1 }
  if bad || tr.2 then pure culled
  else match tr.1.bind (setupTri raw m) with
    | none => pure culled
    | some st => pure { d with commits := d.commits ++ st.commits raw bin (primOf (rfld raw 0 8 4) inst pos t), prim := d.prim + 1 }

/-- A hand-off record or a DRAW (R448, R449): draws a cluster of an instance under the job at an address. -/
def Port.draw (p : Port) (pos inst bin crec job : Nat) : Run Drawn := do
  if pos = 0xFFFFFFFF then pure ⟨[], 0, 0⟩
  else
    let d ← p.read job 512
    let g ← p.read (rdword d.1 0x08) 64
    let i ← p.read (rdword d.1 0x10 + 64 * inst) 64
    let c ← p.cluster crec (rdword g.1 0x28)
    let bad := d.2 || g.2 || i.2 || c.2 || c.1.bad
    (List.range (c.1.nt + 1)).foldlM (p.drawTri d.1 (instRows i.1) c.1 bad pos inst bin) ⟨[], 0, 0⟩

end Machine
end Sys2Proof
end

