-- ==== Sys2Proof/Machine/Image.lean ====
section
/-! DEFINITION. What the standard ray and filter images compute (R450 to R457), the cells of an image (R442), and what an
image gives a submission (R444, R448). -/

namespace Sys2Proof
namespace Machine

-- ---------------------------------------------------------------- vectors

/-- A component of a vector. -/
def vx (v : List Nat) (k : Nat) : Nat := nth v k 0
/-- Component-wise difference. -/
def subV (a b : List Nat) : List Nat := [subF (vx a 0) (vx b 0), subF (vx a 1) (vx b 1), subF (vx a 2) (vx b 2)]
/-- A dot product summed left to right (R452). -/
def dotV (a b : List Nat) : Nat := addF (addF (mulF (vx a 0) (vx b 0)) (mulF (vx a 1) (vx b 1))) (mulF (vx a 2) (vx b 2))
/-- A cross product, each product a separate multiplication (R452). -/
def crossV (a b : List Nat) : List Nat :=
  [subF (mulF (vx a 1) (vx b 2)) (mulF (vx a 2) (vx b 1)), subF (mulF (vx a 2) (vx b 0)) (mulF (vx a 0) (vx b 2)),
   subF (mulF (vx a 0) (vx b 1)) (mulF (vx a 1) (vx b 0))]

-- ---------------------------------------------------------------- rays

/-- A ray (R324, R450). -/
structure Ray where
  o : List Nat
  d : List Nat
  tmin : Nat
  tmax : Nat
  flags : Nat

/-- A hit: its t, whether a brick, its place in the order (PRIM or brick index), its result words after the second, its payload. -/
structure Hit where
  t : Nat
  brick : Bool
  key : Nat
  words : List Nat
  payload : List Nat

/-- A trace under way: the best hit, the counts of boxes, triangles and samples, whether a byte read was marked, whether it has stopped. -/
structure Trav where
  best : Option Hit
  boxes : Nat
  tris : Nat
  samples : Nat
  mark : Bool
  stop : Bool

/-- The t of the best hit, +∞ without one. -/
def Trav.bestT (x : Trav) : Nat := match x.best with
  | some h => h.t
  | none => infF

/-- Whether a hit comes before another (R452): the lesser t, then triangles, then the lower PRIM or brick index. -/
def Hit.beats (a b : Hit) : Bool :=
  ltF a.t b.t || (! ltF b.t a.t && (if a.brick ≠ b.brick then b.brick else decide (a.key < b.key)))

/-- Takes an accepted hit; under FLAGS bit 2 the first one ends the trace (R450). -/
def Trav.accept (x : Trav) (r : Ray) (h : Hit) : Trav :=
  let best := match x.best with
    | some b => if h.beats b then h else b
    | none => h
  { x with best := some best, stop := x.stop || bitAt r.flags 2 }

/-- One axis of the slab test: the interval, none when the ray cannot pass (R452). -/
def slabAxis (o d lo hi : Nat) (t : Nat × Nat) : Option (Nat × Nat) :=
  if (f32 d).isZero then (if leF lo o && leF o hi then some t else none)
  else
    let a := divF (subF lo o) d
    let b := divF (subF hi o) d
    some (maxF t.1 (minF a b), minF t.2 (maxF a b))

/-- The slab test of a box (R452). -/
def slab (r : Ray) (lo hi : List Nat) : Option (Nat × Nat) :=
  (List.range 3).foldl (fun t k => t.bind (slabAxis (vx r.o k) (vx r.d k) (vx lo k) (vx hi k))) (some (negInfF, infF))

/-- The triangle test of R452: t, u, v and cross(e1, e2). -/
def hitTri (r : Ray) (vs : List (List Nat)) : Option (Nat × Nat × Nat × List Nat) :=
  let v0 := nth vs 0 []
  let e1 := subV (nth vs 1 []) v0
  let e2 := subV (nth vs 2 []) v0
  let pv := crossV r.d e2
  let det := dotV e1 pv
  if (f32 det).isZero || (bitAt r.flags 3 && leF det 0) then none
  else
    let tv := subV r.o v0
    let u := divF (dotV tv pv) det
    let qv := crossV tv e1
    let v := divF (dotV r.d qv) det
    let t := divF (dotV e2 qv) det
    if leF 0 u && leF 0 v && leF (addF u v) 0x3F800000 && leF r.tmin t && leF t r.tmax then some (t, u, v, crossV e1 e2) else none

/-- The job a ray is traced against: its descriptor, its graph header (R452). -/
structure RayJob where
  raw : Nat
  hdr : Nat

/-- The triangles of a cut position, in ascending index (R452). -/
def Port.traceLeaf (p : Port) (r : Ray) (j : RayJob) (pos : Nat) (x : Trav) : Run Trav := do
  let e ← p.read (rdword j.raw 0x18 + 16 * pos) 16
  let cl := rword e.1 0
  let inst := rfld e.1 4 0 16
  let i ← p.read (rdword j.raw 0x10 + 64 * inst) 64
  let c ← p.cluster (rdword j.hdr 0x18 + 32 * cl) (rdword j.hdr 0x28)
  let m := instRows i.1
  let one (x : Trav) (t : Nat) : Run Trav := do
    if x.stop then pure x
    else
      let tr ← p.triangle c.1 t
      let x := { x with tris := x.tris + 1, mark := x.mark || tr.2 }
      match tr.1 with
      | none => pure x
      | some vs => match hitTri r (vs.map (place m)) with
        | none => pure x
        | some (tt, u, v, n) =>
          let prim := primOf (rfld j.raw 0 8 4) inst pos t
          pure (x.accept r ⟨tt, false, prim, [prim, u, v] ++ n, [cl, inst, rword e.1 8]⟩)
  let x := { x with mark := x.mark || e.2 || i.2 || c.2 }
  if c.1.bad then pure x else (List.range (c.1.nt + 1)).foldlM one x

/-- The number of nodes of a level of a hierarchy over n positions (R434). -/
def levelNodes (n level : Nat) : Nat := ceilDiv n (2 ^ level)

/-- The nodes of the levels below one (R434). -/
def levelBase (n level : Nat) : Nat := ((List.range level).map (levelNodes n)).sum

/-- Visits a node depth first, node 2j before node 2j + 1 (R452). -/
def Port.visit (p : Port) (r : Ray) (j : RayJob) (n : Nat) : Nat → Nat → Trav → Run Trav
  | level, k, x => do
    if x.stop || decide (levelNodes n level ≤ k) then pure x
    else
      let b ← p.read (rdword j.raw 0x30 + 32 * (levelBase n level + k)) 32
      let x := { x with boxes := x.boxes + 1, mark := x.mark || b.2 }
      let pass := match slab r (rwords b.1 0 3) (rwords b.1 12 3) with
        | some (t0, t1) => leF t0 t1 && leF r.tmin t1 && leF t0 (minF r.tmax x.bestT)
        | none => false
      if ! pass then pure x
      else match level with
        | 0 => p.traceLeaf r j k x
        | l + 1 => do
          let x ← p.visit r j n l (2 * k) x
          p.visit r j n l (2 * k + 1) x

/-- The level of the top node (R434). -/
def topLevel (n : Nat) : Nat := if n ≤ 1 then 0 else Nat.log2 (n - 1) + 1

/-- A brick record: 1,024 bytes (R453). -/
def codeAt (va : Nat) (p : Port) (i j k : Int) : Run (Nat × Bool) := do
  let c ← p.read (va + 0x18 + (100 * (k + 1) + 10 * (j + 1) + (i + 1)).toNat) 1
  pure (ofIntF (sext c.1 8), c.2)

/-- One axis of a sample point: i0 and fx (R453). -/
def brickAxis (p o h : Nat) : Int × Nat :=
  let g := subF (divF (subF p o) h) 0x3F000000
  let i := clampI (floorI g) (-1) 7
  (i, subF g (ofIntF i))

/-- sample(b, p) of R453. -/
def Port.sample (p : Port) (va hdr : Nat) (pt : List Nat) : Run (Nat × Bool) := do
  let h := rword hdr 0x0C
  let x := brickAxis (vx pt 0) (rword hdr 0) h
  let y := brickAxis (vx pt 1) (rword hdr 4) h
  let z := brickAxis (vx pt 2) (rword hdr 8) h
  let row (j k : Int) : Run (Nat × Bool) := do
    let a ← codeAt va p x.1 j k
    let b ← codeAt va p (x.1 + 1) j k
    pure (lerpF a.1 b.1 x.2, a.2 || b.2)
  let plane (k : Int) : Run (Nat × Bool) := do
    let a ← row y.1 k
    let b ← row (y.1 + 1) k
    pure (lerpF a.1 b.1 y.2, a.2 || b.2)
  let a ← plane z.1
  let b ← plane (z.1 + 1)
  pure (mulF (lerpF a.1 b.1 z.2) (rword hdr 0x10), a.2 || b.2)

/-- The gradient at a point (R453). -/
def Port.gradient (p : Port) (va hdr : Nat) (pt : List Nat) : Run (List Nat × Bool) := do
  let h := rword hdr 0x0C
  let axis (k : Nat) : Run (Nat × Bool) := do
    let a ← p.sample va hdr (pt.set k (addF (vx pt k) h))
    let b ← p.sample va hdr (pt.set k (subF (vx pt k) h))
    pure (subF a.1 b.1, a.2 || b.2)
  let g ← (List.range 3).mapM axis
  pure (g.map (·.1), g.any (·.2))

/-- The steps of one brick (R454): the steps left, the sample number, t; the hit's t and number, the samples taken, a mark. -/
def Port.march (p : Port) (r : Ray) (va hdr eps tend : Nat) : Nat → Nat → Nat → Bool → Run (Option (Nat × Nat) × Nat × Bool)
  | 0, n, _, mark => pure (none, n - 1, mark)
  | fuel + 1, n, t, mark => do
    let pt := (List.range 3).map fun k => fmaF t (vx r.d k) (vx r.o k)
    let q ← p.sample va hdr pt
    let mark := mark || q.2
    if ltF q.1 eps then pure (some (t, n), n, mark)
    else
      let t := addF t q.1
      if ltF tend t then pure (none, n, mark) else p.march r va hdr eps tend fuel (n + 1) t mark

/-- One brick (R454). -/
def Port.brick (p : Port) (r : Ray) (table eps lim : Nat) (x : Trav) (b : Nat) : Run Trav := do
  if x.stop then pure x
  else
    let va := table + 64 + 1024 * b
    let hd ← p.read va 24
    let org := rwords hd.1 0 3
    let h := rword hd.1 0x0C
    let top := org.map fun o => addF o (mulF 0x41000000 h)
    let x := { x with mark := x.mark || hd.2 }
    match slab r org top with
    | none => pure x
    | some (t0, t1) =>
      if ltF t1 t0 then pure x
      else
        let tend := minF (minF t1 r.tmax) x.bestT
        let m ← p.march r va hd.1 eps tend lim 1 (maxF t0 r.tmin) false
        let x := { x with samples := x.samples + m.2.1, mark := x.mark || m.2.2 }
        match m.1 with
        | none => pure x
        | some (t, n) =>
          let g ← p.gradient va hd.1 ((List.range 3).map fun k => fmaF t (vx r.d k) (vx r.o k))
          pure ({ x with mark := x.mark || g.2 }.accept r ⟨t, true, b, [b, n, 0] ++ g.1, [0, 0, 0]⟩)

/-- The result of a ray: eight words and six payload words (R451). -/
def Trav.result (x : Trav) : List Nat × List Nat :=
  let counts := [x.boxes, x.tris, x.samples]
  if x.mark then ([0, 0xFFFFFFFF, 0, 0, 0, 0, 0, 0], [])
  else match x.best with
    | none => ([infF, 0, 0, 0, 0, 0, 0, 0], [0, 0, 0] ++ counts)
    | some h => ([h.t, if h.brick then 2 else 1] ++ h.words, h.payload ++ counts)

/-- The standard ray image (R450 to R454) on eight ray words and FLAGS. -/
def Port.ray (p : Port) (b : Bound) (words : List Nat) (flags : Nat) : Run (List Nat × List Nat) := do
  let r : Ray := ⟨[nth words 0 0, nth words 1 0, nth words 2 0], [nth words 4 0, nth words 5 0, nth words 6 0], nth words 3 0, nth words 7 0, flags⟩
  let x : Trav := ⟨none, 0, 0, 0, false, false⟩
  let x ← if ! bitAt flags 0 || decide (b.ryjb = 0) then pure x
    else do
      let d ← p.read b.ryjb 512
      let g ← p.read (rdword d.1 0x08) 64
      let n := rword d.1 0x104
      let x := { x with mark := d.2 || g.2 }
      if n = 0 then pure x else p.visit r ⟨d.1, g.1⟩ n (topLevel n) 0 x
  let x ← if ! bitAt flags 1 || decide (b.sdfb = 0) || x.stop then pure x
    else do
      let hd ← p.read b.sdfb 64
      let x := { x with mark := x.mark || hd.2 }
      (List.range (min (rword hd.1 0) (2 ^ 20))).foldlM (p.brick r b.sdfb b.eps b.lim) x
  pure x.result

-- ---------------------------------------------------------------- filter

/-- A texture descriptor (R456). -/
structure Texture where
  raw : Nat

/-- The width and height of a level. -/
def Texture.size (t : Texture) (l : Nat) : Nat × Nat := (max 1 (rfld t.raw 8 0 14 / 2 ^ l), max 1 (rfld t.raw 8 16 14 / 2 ^ l))

/-- Bytes of a texel. -/
def Texture.texel (t : Texture) : Nat := match rfld t.raw 0x0C 0 4 with
  | 1 => 8
  | 2 => 16
  | 3 => 1
  | _ => 4

/-- The address of a level: each follows the one before it (R456). -/
def Texture.level (t : Texture) (l : Nat) : Nat :=
  rdword t.raw 0 + t.texel * ((List.range l).map fun k => (t.size k).1 * (t.size k).2).sum

/-- An index wrapped into a level (R457). -/
def Texture.wrap (t : Texture) (i : Int) (n : Nat) : Nat :=
  if rfld t.raw 0x0C 8 2 = 0 then (i % (n : Int)).toNat else (clampI i 0 ((n : Int) - 1)).toNat

/-- A unorm code (R457). -/
def unormF (c : Nat) : Nat := divF (ofIntF (c : Int)) (ofIntF 255)

/-- The RGBA of a texel's bytes (R456, R457). -/
def Texture.rgba (t : Texture) (v : Nat) : List Nat := match rfld t.raw 0x0C 0 4 with
  | 1 => (List.range 4).map fun k => (roundTo .f32 0 (decodeFloat .f16 (bits v (16 * k) 16))).1
  | 2 => (List.range 4).map fun k => bits v (32 * k) 32
  | 3 => [unormF (v % 256), 0, 0, 0x3F800000]
  | _ => (List.range 4).map fun k => unormF (bits v (8 * k) 8)

/-- Fetches a texel of a level. -/
def Port.texel (p : Port) (t : Texture) (l : Nat) (i j : Int) : Run (List Nat × Bool) := do
  let sz := t.size l
  let v ← p.read (t.level l + t.texel * (t.wrap j sz.2 * sz.1 + t.wrap i sz.1)) t.texel
  pure (t.rgba v.1, v.2)

/-- Nearest filtering (R457). -/
def Port.nearest (p : Port) (t : Texture) (l u v : Nat) : Run (List Nat × Bool) :=
  let sz := t.size l
  p.texel t l (floorI (mulF u (ofIntF (sz.1 : Int)))) (floorI (mulF v (ofIntF (sz.2 : Int))))

/-- Component-wise LERP. -/
def lerpV (a b : List Nat) (f : Nat) : List Nat := List.zipWith (fun x y => lerpF x y f) a b

/-- Bilinear filtering (R457). -/
def Port.bilinear (p : Port) (t : Texture) (l u v : Nat) : Run (List Nat × Bool) := do
  let sz := t.size l
  let x := subF (mulF u (ofIntF (sz.1 : Int))) 0x3F000000
  let y := subF (mulF v (ofIntF (sz.2 : Int))) 0x3F000000
  let i := floorI x
  let j := floorI y
  let fx := subF x (ofIntF i)
  let fy := subF y (ofIntF j)
  let a ← p.texel t l i j
  let b ← p.texel t l (i + 1) j
  let c ← p.texel t l i (j + 1)
  let d ← p.texel t l (i + 1) (j + 1)
  pure (lerpV (lerpV a.1 b.1 fx) (lerpV c.1 d.1 fx) fy, a.2 || b.2 || c.2 || d.2)

/-- One sample (R457). -/
def Port.filterOne (p : Port) (t : Texture) (lod u v : Nat) : Run (List Nat × Bool) := do
  let nlv := rfld t.raw 0x0C 4 4
  let lam := if (f32 lod).isNaN then 0 else minF (maxF lod 0) (ofIntF (nlv : Int))
  let l0 := (floorI lam).toNat
  match rfld t.raw 0x0C 10 2 with
  | 0 => p.nearest t l0 u v
  | 1 => p.bilinear t l0 u v
  | _ => do
    let a ← p.bilinear t l0 u v
    let b ← p.bilinear t (min (l0 + 1) nlv) u v
    pure (lerpV a.1 b.1 (subF lam (ofIntF (l0 : Int))), a.2 || b.2)

-- ---------------------------------------------------------------- the array of cells

/-- A little-endian 32-bit word of an image's bytes (R440). -/
def imageWord (bs : List Byte) (off : Nat) : Nat := leVal ((bs.drop off).take 4)

/-- All ones for a true comparison (R442). -/
def allOnes (b : Bool) : Nat := if b then 0xFFFFFFFF else 0

/-- The greatest integer that is no greater, as binary32 (R442). -/
def floorF (a : Nat) : Nat := (frint .f32 4 (f32 a)).1

/-- The operation of a cell on its sources (R442): `imm` is IMM9, `tab` the constant words. -/
def cellOp (op imm : Nat) (tab : Nat → Nat) (a b c : Nat) : Nat :=
  match op with
  | 0x00 => a
  | 0x01 => addF a b
  | 0x02 => subF a b
  | 0x03 => mulF a b
  | 0x04 => fmaF a b c
  | 0x05 => minF a b
  | 0x06 => maxF a b
  | 0x07 => divF 0x3F800000 a
  | 0x08 => sqrtF a
  | 0x09 => allOnes (ltF a b)
  | 0x0A => allOnes (leF a b)
  | 0x0B => allOnes (leF a b && leF b a)
  | 0x0C => if c ≠ 0 then a else b
  | 0x0D => (a + b) % 2 ^ 32
  | 0x0E => (a + 2 ^ 32 - b) % 2 ^ 32
  | 0x0F => a * b % 2 ^ 32
  | 0x10 => a &&& b
  | 0x11 => a ||| b
  | 0x12 => a ^^^ b
  | 0x13 => a * 2 ^ (b % 32) % 2 ^ 32
  | 0x14 => a / 2 ^ (b % 32)
  | 0x15 => wrap (sext a 32 / 2 ^ (b % 32)) 32
  | 0x16 => a / 2 ^ (imm % 32) % 2 ^ (b % 32 + 1)
  | 0x17 => wrap (toIntRange 2 (-2147483648) 2147483647 (f32 a)).1 32
  | 0x18 => ofIntF (sext a 32)
  | 0x19 => min a b
  | 0x1A => max a b
  | 0x1B => wrap (sext imm 9) 32
  | 0x1C => floorF a
  | 0x1D => subF a (floorF a)
  | 0x1E => lerpF a b c
  | _ => tab (a % 32)

/-- What a source code names for a cell of the row after those computed (R442): a column of the row above or an input lane, a track of its own
row, the iteration index, or zero. -/
def cellSource (bs : List Byte) (lanes : List Nat) (iter : Nat) (rows : List (List Nat)) (code : Nat) : Nat :=
  let r := rows.length
  if code < 16 then nth (if r = 0 then lanes else nth rows (r - 1) []) code 0
  else if code < 48 then
    let x := (bs.getD (0x300 + 32 * r + (code - 16)) 0).toNat
    if bitAt x 7 then nth (nth rows (bits x 4 3) []) (bits x 0 4) 0 else 0
  else if code = 48 then iter % 2 ^ 32
  else 0

/-- The outputs of the next row of cells (R440, R442). -/
def cellRow (bs : List Byte) (lanes : List Nat) (iter : Nat) (rows : List (List Nat)) : List Nat :=
  let src := cellSource bs lanes iter rows
  (List.range 16).map fun c =>
    let w := imageWord bs (0x100 + 4 * (16 * rows.length + c))
    cellOp (bits w 0 5) (bits w 23 9) (fun k => imageWord bs (0x20 + 4 * k)) (src (bits w 5 6)) (src (bits w 11 6)) (src (bits w 17 6))

/-- The outputs of row 7 of an image's cells, which feed the packer (R442). -/
def cellArray (bs : List Byte) (lanes : List Nat) (iter : Nat) : List Nat :=
  nth ((List.range 8).foldl (fun rows _ => rows ++ [cellRow bs lanes iter rows]) []) 7 []

-- ---------------------------------------------------------------- an image on a record

/-- The value of 32-bit words, as bytes of a slot. -/
def slotOfWords (ws : List Nat) : Nat := valOfWords ws

/-- What a submission gives: the slot bytes, their number, the number of slots that carry the mark, and what it draws. -/
structure Given where
  bytes : Nat
  n : Nat
  mark : Nat
  drawn : Drawn

/-- A given result that draws nothing. -/
def Given.slot (bytes n mark : Nat) : Given := ⟨bytes, n, mark, ⟨[], 0, 0⟩⟩

/-- The standard filter image on a record (R455). -/
def Port.filter (p : Port) (recd : Nat) : Run Given := do
  let n := rword recd 12
  if n < 1 ∨ 6 < n then pure (.slot 0 256 1)
  else
    let d ← p.read (rdword recd 0) 32
    let one (i : Nat) : Run (List Nat × Bool) := p.filterOne ⟨d.1⟩ (rword recd 8) (rword recd (16 + 8 * i)) (rword recd (20 + 8 * i))
    let rs ← (List.range n).mapM one
    pure (.slot (slotOfWords (rs.flatMap (·.1))) 256 (d.2 || rs.any (·.2)).toNat)

/-- The standard image of a class: identifier and operations of R441 and R448 to R455; its bytes are the Summit core's (log 11). -/
def standardImage (cls : Nat) : Img :=
  ⟨0, cls, cls + 1, match cls with
    | 0 => 0x6
    | 1 => 0x3
    | _ => 0x2, Config.standardBody cls⟩

/-- Whether a version is the standard image of its class, whichever post brought it. -/
def Img.standard (i : Img) : Bool := decide ({ i with post := 0 } = standardImage i.cls)

/-- The reads of an image other than a standard one, in turn, by fuel (R442, R444): their values and marks (log 11). -/
def Port.imageReads (p : Port) (img : Img) (op recd : Nat) : Nat → List (Nat × Bool) → Run (List (Nat × Bool))
  | 0, vs => pure vs
  | fuel + 1, vs => match Config.imageRead img.cls (cellArray img.body) op recd vs with
    | none => pure vs
    | some (va, n) => do
      let x ← p.read va n
      p.imageReads img op recd fuel (vs ++ [x])

/-- The greatest number of reads an image other than a standard one makes for a submission (log 11). -/
def maxImageReads : Nat := 2 ^ 20

/-- The slots an ISUB can reserve: NR has four bits (R322). -/
def mostSlots : Nat := 15

/-- What a resolved image gives one submission (R444, R448, R450, R455). `op` is the operation, 0 for TRACE; a record of TRACE holds the ray
words and the control word as R450 lays them out. -/
def Port.image (p : Port) (b : Bound) (img : Img) (op recd : Nat) : Run Given := do
  if ! bitAt img.opmask op || decide (32 ≤ op) then pure (.slot 0 0 mostSlots)
  else if ! img.standard then
    let vs ← p.imageReads img op recd maxImageReads []
    let r := Config.imageRun img.cls (cellArray img.body) op recd vs
    pure ⟨r.1.1, r.1.2.1, r.1.2.2, ⟨r.2.1, r.2.2.1, r.2.2.2⟩⟩
  else match img.cls with
    | 0 =>
      if op = 1 then do
        let d ← p.draw (rword recd 0) (rfld recd 8 0 16) (rfld recd 8 16 16) (rdword recd 0x10) (rdword recd 0x18)
        pure ⟨0, 0, 0, d⟩
      else pure (.slot (recd % 2 ^ 128) 16 0)
    | 1 => do
      let r ← p.ray b (rwords recd 0 8) (rfld recd 32 8 8)
      pure (.slot (slotOfWords (r.1 ++ r.2)) 256 0)
    | _ => p.filter recd

end Machine
end Sys2Proof
end

