-- ==== Sys2Proof/Machine/Island.lean ====
section
/-! DEFINITION. The islands' own steps (R323, R325, R446, R447): the boundary between contexts, the acceptance of a submission and its
result, with the commits of the raster class (R435, R475). -/

namespace Sys2Proof
namespace Machine

-- ---------------------------------------------------------------- boundaries

/-- The die of an island (R18). -/
def islandDie (cls isl : Nat) : Nat := if cls = 0 then isl / 4 else if cls = 1 then isl / 32 else isl / 64

/-- The jobs of a die's Ridgeline engine: the current one and the suspended ones. -/
def State.ridgeJobs (s : State) (die : Nat) : List RidgeJob :=
  match nth (s.ridges.map some) die none with
  | some x => x.cur.toList ++ x.suspended
  | none => []

/-- Whether a raster island holds the next hand-off record of a job, also while a request of it lies parked (R447). -/
def RidgeJob.holds (j : RidgeJob) (die isl : Nat) : Bool :=
  j.taken.isSome && (match j.handoffs with
    | h :: _ => decide (4 * die + h.isl = isl)
    | [] => false)

/-- Whether an island has work in flight: a submission in its buffer, or a hand-off record (R446, R447). -/
def State.islandBusy (s : State) (cls isl : Nat) : Bool :=
  (s.jobs.any fun j => j.buffered && decide (j.cls = cls) && decide (j.isl = isl)) ||
  (decide (cls = 0) && (s.ridgeJobs (isl / 4)).any fun j => j.holds (isl / 4) isl)

/-- The context an island moves to: the oldest waiting one other than its own, or its own when nothing else waits: it has no other version to
hold, or has another version of that context's. -/
def Island.successor (x : Island) : Option Nat :=
  match x.waiting.find? fun c => decide (some c ≠ x.ctx) with
  | some c => some c
  | none => x.waiting.head?

/-- ISLAND_CONTEXT_BOUNDARY (R446): an island with nothing in flight, whose own context has nothing waiting for the version it holds or has had
its 4,096 acceptances, loads the resolved version of the context whose oldest submission is oldest, in 256 cycles. -/
def execIslandContextBoundary (s : State) : Host.Outcome State Fault Refusal :=
  let cls := s.arg 0
  let isl := s.arg 1
  let x := s.island cls isl
  let own := match x.ctx with
    | some c => x.waiting.contains c && decide (x.img = s.boundImage c cls)
    | none => false
  if s.islandBusy cls isl || (own && (decide (x.count < 4096) || x.waiting.all fun c => decide (some c = x.ctx))) then .next s
  else match x.successor with
    | none => .next s
    | some c =>
      .next (s.setIsland { x with
        ctx := some c
        img := s.boundImage c cls
        count := 0
        loaded := s.cycleOf (islandDie cls isl) + 256
        waiting := x.waiting.filter fun y => decide (y ≠ c) })

-- ---------------------------------------------------------------- faults and commits

/-- The record of a submission's faulting request (R367, R447): NP, with DETAIL 4 for a read and 3 for a commit. -/
def State.jobRecord (s : State) (j : IslandJob) (cls va : Nat) (write : Bool) : FRec :=
  let gone := match s.thread? j.thr with
    | some t => decide (t.st = .exited)
    | none => true
  let base := s.deviceRecord j.thr.ctx cls (if write then 3 else 4) va j.thr.grid
  match s.op? j.id with
  | some o => { base with
      ir := gone, team := j.thr.team, rank := j.thr.rank, role := o.role, fpc := o.pc.toNat, word := o.word.toNat, latch := o.latch, nrep := 1 }
  | none => { base with ir := gone, team := j.thr.team, rank := j.thr.rank, nrep := 1 }

/-- Parks a submission's faulting request while the replay queue has room (R371, R447). -/
def State.parkJob (s : State) (j : IslandJob) (cls va n : Nat) (write : Bool) : State :=
  let die := dieOf j.core
  if 1024 ≤ s.replayCount die then s
  else
    let seq := s.nextSeqOf die j.thr.ctx
    let r := s.jobRecord j cls va write
    let s1 := s.postRecord die r
    let s2 := s1.updJob j.id fun x => { x with fault := some (va, n, write), parked := some seq }
    { s2 with replays := s2.replays ++
        [{ die := die, seq := seq, ctx := j.thr.ctx, what := .island j.id, cls := cls, ir := r.ir, va := va }] }

/-- One commit at its sample (R435, R475): an unsigned minimum, or for a probe a read that passes when the new word is below it. The L1 of the
core whose thread drew it, if one did, has first written back the word's sector (R267). -/
def State.commitOne (s0 : State) (g : GridId) (die : Nat) (core : Option Nat) (probe : Bool) (va word : Nat) : Except Halted (State × Bool) :=
  match s0.dieTranslate die g.ctx va true (! probe) with
  | .fault cls => .error (.fault ⟨s0, []⟩ cls va 8 true)
  | .ok pa _ =>
    let s := s0.pushFor core pa
    if s.homePoison.contains (pa / 64) then .error (.fault ⟨s, []⟩ clsPoison va 8 true)
    else match s.journalRead g pa with
      | (s1, false) => .error (.wait ⟨s1, []⟩)
      | (s0, true) =>
        let s1 := s0.touchVia die g.ctx va pa
        let old := memRead s1.home pa 8
        if probe then .ok (s1, decide (word < old))
        else .ok (if word < old then s1.homeWrite g.ctx pa 8 word else s1, false)

/-- Commits in turn: the state, those left, the passes, and what stopped the next one. -/
def State.commitAll (s : State) (g : GridId) (die : Nat) (core : Option Nat) (probe : Bool) :
    List (Nat × Nat) → State × List (Nat × Nat) × Nat × Option Halted
  | [] => (s, [], 0, none)
  | (va, w) :: rest =>
    match s.commitOne g die core probe va w with
    | .error (.wait r) => (r.st, (va, w) :: rest, 0, some (.wait r))
    | .error (.fault r cls a n wr) => (r.st, (va, w) :: rest, 0, some (.fault r cls a n wr))
    | .ok (s1, hit) =>
      let r := s1.commitAll g die core probe rest
      (r.1, r.2.1, r.2.2.1 + hit.toNat, r.2.2.2)

/-- One addition to a statistics or query register (R473). -/
def Ctx.add (c : Ctx) (a : Addition) : Ctx := c.setCount a.reg (c.countOf a.reg + a.n)

/-- Adds the counts of work that a die has finished to its context's registers (R473 to R475). -/
def State.addStats (s : State) (die ctx prim cull passes : Nat) (queries : List Nat) : State :=
  let adds : List Addition := [⟨die, 0, BitVec.ofNat 64 prim⟩, ⟨die, 1, BitVec.ofNat 64 cull⟩] ++ queries.map fun q => ⟨die, 2 + q, BitVec.ofNat 64 passes⟩
  s.updCtx ctx fun c => { adds.foldl Ctx.add c with added := c.added ++ adds }

-- ---------------------------------------------------------------- acceptance

/-- Whether a submission has been accepted: it has its result, or a request of it has faulted. -/
def IslandJob.accepted (j : IslandJob) : Bool := j.result.isSome || j.fault.isSome

/-- The operation of a submission: 0 for TRACE (R441, R444). -/
def IslandJob.op (j : IslandJob) : Nat := if j.trace then 0 else bits j.ctl 8 8

/-- The record an image sees: a TRACE lays its control word behind the ray words (R450). -/
def IslandJob.record (j : IslandJob) : Nat := if j.trace then j.recd % 2 ^ 256 + j.ctl * 2 ^ 256 else j.recd

/-- Earlier submissions in the buffer of the same island. -/
def State.jobsBefore (s : State) (j : IslandJob) : List IslandJob :=
  (s.jobs.takeWhile fun x => decide (x.id ≠ j.id)).filter fun x => x.buffered && decide (x.cls = j.cls) && decide (x.isl = j.isl)

/-- Runs a submission's image, of the version its island holds (R444, R446, R447): its result, or the request that stopped it, from which it goes
on later. -/
def State.runJob (s : State) (j : IslandJob) : State :=
  match s.ctx? j.thr.ctx with
  | none => s
  | some c => match c.bound, (s.island j.cls j.isl).img with
    | some b, some img =>
      let p : Port := ⟨dieOf j.core, j.thr.gridId, some j.core, j.dead, false⟩
      let kept (r : Reader) : State := r.st.updJob j.id fun x => { x with got := r.got }
      (match (p.image b img j.op j.record).run ⟨s, j.got⟩ with
       | .error (.fault r cls va n w) => (kept r).parkJob j cls va n w
       | .error (.wait r) => kept r
       | .ok (g, r) =>
         let put (x : IslandJob) : IslandJob :=
           { x with
             fault := none
             got := []
             result := some (g.bytes, g.n, g.mark)
             commits := g.drawn.commits
             prim := g.drawn.prim
             cull := g.drawn.cull }
         r.st.updJob j.id put)
    | _, _ => s

/-- Submits a replayed submission again (R335, R384): its island takes it into its buffer, or its context waits for the island (R446). -/
def State.resubmit (s : State) (j : IslandJob) : State :=
  let x := s.island j.cls j.isl
  if x.takes j.thr.ctx (s.boundImage j.thr.ctx j.cls) (s.cycleOf (islandDie j.cls j.isl)) then
    (s.takeIsland x j.thr.ctx).updJob j.id fun y => y.buffer s
  else if x.waiting.contains j.thr.ctx then s
  else s.waitIsland x j.thr.ctx

/-- ISLAND_ACCEPT (R323, R335, R446, R447): a replayed submission is submitted; an island takes the oldest submission of its buffer once the
thread's earlier accesses have completed, and runs it; or it runs on one whose faulting read has been answered. -/
def execIslandAccept (s : State) : Host.Outcome State Fault Refusal :=
  let job := s.arg 0
  match s.jobs.find? fun x => decide (x.id = job) with
  | none => .next s
  | some j =>
    if ! j.buffered then .next (s.resubmit j)
    else match j.result, j.fault, j.parked with
    | some _, _, _ => .next s
    | none, some _, none => .next (s.runJob j)
    | none, some _, some _ => .next s
    | none, none, _ =>
      let older := match s.op? j.id with
        | some o => s.olderComplete o.thr o.pos
        | none => true
      if ! older || ! ((s.jobsBefore j).all IslandJob.accepted) then .next s
      else .next (s.runJob j)

-- ---------------------------------------------------------------- results

/-- The 256 bytes of a result for slot i; zeros where it gives none (R323). -/
def slotBytes (bytes i : Nat) : Nat := bytes / 256 ^ (256 * i) % 256 ^ 256

/-- Writes a result into reserved slots of an ISUB (R323): the first `marks` slots carry the poison mark (R444, R447). -/
def State.fillSlots (s : State) (j : IslandJob) (bytes marks : Nat) (slots : List Nat) : State :=
  slots.foldl (fun s i => s.updTeam j.thr.teamId fun t =>
    t.fillSlot j.queue (nth j.slots i 0) (slotBytes bytes i) (decide (i < marks))) s

/-- Bytes of a result beyond the slots reserved for it are dropped, and a record is posted (R323). -/
def State.dropOver (s : State) (j : IslandJob) (n : Nat) : State :=
  if n ≤ 256 * j.slots.length then s
  else
    let r := s.jobRecord j clsIslandOver 0 false
    s.postRecord (dieOf j.core) { r with detail := 0, nrep := 0 }

/-- An ISUB is complete (R323): k.is retires, and the counts of a DRAW are added (R474, R475). -/
def State.completeJob (s : State) (j : IslandJob) : State :=
  let s1 := if j.cls = 0 ∧ j.op = 1 then s.addStats (dieOf j.core) j.thr.ctx j.prim j.cull j.passes j.queries else s
  let s2 := match s1.op? j.id with
    | some o => s1.completeOp o
    | none => s1
  { s2 with jobs := s2.jobs.filter fun x => decide (x.id ≠ j.id) }

/-- The data of slot i of a raster submission as a packet of its island's ordered stream to the core (R395). -/
def IslandJob.slotPacket (j : IslandJob) (tag bytes i : Nat) : Outgoing :=
  ⟨mkHdr 4 0 4 true (corePort j.core) (rasterPort j.isl) tag 0 0, flitsOf 4 (slotBytes bytes i), .slot j.thr.ctx j.id i, true, none⟩

/-- A raster island gives the data of a submission's slots to the network (R395); a submission without slots is complete. -/
def State.offerSlots (s : State) (j : IslandJob) (bytes : Nat) : State :=
  if j.slots.isEmpty then s.completeJob j
  else
    let is := List.range j.slots.length
    let s1 := s.updJob j.id fun x => { x with offered := true, left := is }
    { s1 with outbox := s1.outbox ++ is.map fun i => j.slotPacket (s.nextId + i) bytes i, nextId := s.nextId + j.slots.length }

/-- The data of a slot of a raster submission arrive in their stream's order (R323, R395): the slot is Ready, and with the last one the
submission is complete. -/
def State.slotArrives (s : State) (job i : Nat) : State :=
  match s.jobs.find? fun x => decide (x.id = job) with
  | none => s
  | some j => match j.result with
    | none => s
    | some (bytes, _, marks) =>
      if ! j.left.contains i then s
      else
        let j1 := { j with left := j.left.filter fun k => decide (k ≠ i) }
        let s1 := (s.fillSlots j bytes marks [i]).updJob job fun _ => j1
        if j1.left.isEmpty then s1.completeJob j1 else s1

/-- The frame words of a TRACE become stores of the thread at thread scope (R325). -/
def State.storeFrames (s : State) (j : IslandJob) (o : Op) (words : List Nat) : State :=
  let put (s : State) (x : Nat × Nat) : State :=
    let acc := { plainAccess .store .g (j.frame + 4 * x.1) 4 .th with data := x.2 }
    let op := { o with id := s.nextId, body := .mem acc, stage := .walk, dests := [], vals := [], cls := none }
    (s.addOp op).updJob j.id fun y => { y with slots := y.slots ++ [op.id] }
  (List.zip (List.range words.length) words).foldl put s

/-- The payload words a TRACE returns: NP of them, zeros where the contract gives fewer (R324). -/
def IslandJob.payload (j : IslandJob) (bytes : Nat) : List Nat := (List.range (bits j.ctl 0 5)).map fun i => bits bytes (256 + 32 * i) 32

/-- A TRACE's result (R324, R325): first its frame words are stored, then its registers are written and it completes. -/
def State.finishTrace (s : State) (j : IslandJob) (bytes : Nat) : State :=
  match s.op? j.id with
  | none => { s with jobs := s.jobs.filter fun x => decide (x.id ≠ j.id) }
  | some o =>
    let pay := j.payload bytes
    if j.frameWords ≠ 0 then
      (s.storeFrames j o (pay.drop (pay.length - j.frameWords))).updJob j.id fun y => { y with frameWords := 0 }
    else if j.slots.any fun i => (s.op? i).isSome then s
    else
      let vals := (wordsOf 8 bytes ++ pay).take o.dests.length
      let s1 := s.writeBackResult { o with vals := vals }
      let s2 := s1.updThread o.thr fun t => { t with tdep := if t.tdep = 0 then 0 else t.tdep - 1 }
      { s2 with jobs := s2.jobs.filter fun x => decide (x.id ≠ j.id) }

/-- Whether a submission still has earlier work of its context on its raster island: submissions, and hand-off records the island took before it
(R448). -/
def State.uncommitted (s : State) (j : IslandJob) : Bool :=
  (s.jobsBefore j).any (fun x => decide (x.thr.ctx = j.thr.ctx)) ||
  (s.ridgeJobs (j.isl / 4)).any fun r => decide (r.ctx = j.thr.ctx) && r.holds (j.isl / 4) j.isl && (match r.taken with
    | some n => decide (n ≤ j.id)
    | none => false)

/-- ISLAND_RESULT (R323, R395, R435, R448, R475): a submission's commits are performed, then its slots or registers are written and it completes; a
raster island's slots travel as packets. A MARK waits until every earlier submission of its context to the island is committed. -/
def execIslandResult (s : State) : Host.Outcome State Fault Refusal :=
  let job := s.arg 0
  match s.jobs.find? fun x => decide (x.id = job) with
  | none => .next s
  | some j => match j.result, j.parked with
    | some (bytes, n, mark), none =>
      if ! j.commits.isEmpty then
        let r := s.commitAll j.thr.gridId (dieOf j.core) (some j.core) (! j.queries.isEmpty) j.commits
        let s1 := r.1.updJob j.id fun x => { x with commits := r.2.1, passes := x.passes + r.2.2.1, fault := none }
        (match r.2.2.2 with
         | some (.fault _ cls va k w) => .next (s1.parkJob j cls va k w)
         | _ => .next s1)
      else if decide (j.cls = 0) && decide (j.op = 2) && s.uncommitted j then .next s
      else if j.trace then .next (s.finishTrace j bytes)
      else if j.offered then .next s
      else if j.cls = 0 then .next ((s.dropOver j n).offerSlots j bytes)
      else .next (((s.fillSlots j bytes mark (List.range j.slots.length)).dropOver j n).completeJob j)
    | _, _ => .next s

end Machine
end Sys2Proof
end

