-- ==== Sys2Proof/Machine/Network.lean ====
section
/-! DEFINITION. The on-chip network (R386 to R396, R399 to R402): the fixed route, headers and payload flits on the links, trimming, retained
payloads, re-requests, ordered streams and the checks of the die-to-die links. Packets of chains (R397) and of the slots of raster
islands (R395) come from those; which others there are is the choice of the events (log 15): no value that a program sees depends on
one (R394). -/

namespace Sys2Proof
namespace Machine

-- ---------------------------------------------------------------- what may be sent

/-- The IOD link module by which a packet for an address leaves a die (R259, R389): that of its GDDR7 channel group, else 0. -/
def iodModule (sector : Nat) : Nat := if 64 * sector < 2 ^ 36 then 64 * sector / 2 ^ 32 % 4 else 0

/-- Whether a header keeps to the modules of R389: the IOD delivers to a die through module DY mod 4 of that die, and a packet for the IOD leaves
its die through the module of its address. -/
def iodRouted (h : Dword) (sector : Nat) : Bool :=
  (match portUnit (hdrSrc h) with
   | some (.iodLink m) => decide (m = portY (hdrDst h) % 4) && decide (portDie (hdrSrc h) = portDie (hdrDst h))
   | _ => true) &&
  (match portUnit (hdrDst h) with
   | some (.iodLink m) => decide (m = iodModule sector) && decide (portDie (hdrSrc h) = portDie (hdrDst h))
   | _ => true)

/-- Whether a port is the vertical port of a bank of the weight store (R387). -/
def bankPort (p : Nat) : Bool := (List.range 16).any fun b => decide (p = portAt (portDie p) (bankSite b) 3 0)

/-- The lane and the flits of a packet of a kind that a unit may send of itself (R390, R399): weight-store reads and their data ride lane 3 on
their own die and lane 0 to the other, between a core and a bank; everything else that may be trimmed rides lane 0. -/
def kindFits (h : Dword) (sector : Nat) : Bool :=
  let near := portDie (hdrSrc h) = portDie (hdrDst h)
  let weight : Bool := decide (hdrLane h = if near then 3 else 0)
  match hdrKind h with
  | 0 => decide (hdrLane h = 0) && decide (hdrNf h = 1)
  | 1 | 2 | 3 | 4 => decide (hdrLane h = 0)
  | 11 => weight && decide (hdrNf h = 1) && decide (hdrDst h = portAt (portDie (hdrDst h)) (bankSite (weightBank (64 * sector))) 3 0)
  | 12 => weight && bankPort (hdrSrc h)
  | _ => false

/-- A header of a packet that a unit may send of itself (R389, R390, R393): new, so its trim count is 0, with SEQ 0 outside an ordered stream. -/
def hdrSendable (h : Dword) (sector : Nat) : Bool :=
  iodRouted h sector && (portUnit (hdrDst h)).isSome && (portUnit (hdrSrc h)).isSome && decide (hdrNf h ≤ 4) && ! hdrTr h && ! bitAt h.toNat 31
    && decide (hdrCnt h = 0) && decide (hdrOs h = decide (hdrKind h = 4)) && (hdrOs h || decide (hdrSeq h = 0)) && kindFits h sector

/-- Whether a retained payload or an entry belongs to a transaction: its source, destination and TAG. -/
def sameTransaction (a b : Dword) : Bool :=
  decide (hdrSrc a = hdrSrc b) && decide (hdrDst a = hdrDst b) && decide (hdrTag a = hdrTag b)

/-- Whether a packet keeps its payload at its source until it is delivered (R393). -/
def keepsPayload (h : Dword) : Bool := decide (hdrNf h ≠ 0) && decide (hdrLane h ≠ 1)

/-- Whether a port is that of a link module (R16). -/
def linkPort (p : Nat) : Bool :=
  match portUnit p with
  | some (.iodLink _) | some (.peerLink _) => true
  | _ => false

/-- Whether a source is within its limit (R396): 16 transactions towards a destination, or 64 in all for a link module. -/
def State.withinLimit (s : State) (h : Dword) : Bool :=
  let mine := s.retained.filter fun r => decide (hdrSrc r.header = hdrSrc h)
  if linkPort (hdrSrc h) then decide (mine.length < 64)
  else decide ((mine.filter fun r => decide (hdrDst r.header = hdrDst h)).length < 16)

/-- Whether a source has an undelivered payload for a sector of a destination (R394). -/
def State.undelivered (s : State) (h : Dword) (sector : Nat) : Bool :=
  s.retained.any fun r => decide (hdrSrc r.header = hdrSrc h) && decide (hdrDst r.header = hdrDst h) && decide (r.sector = some sector)

/-- The ports of a stream: bits 30 to 11 of a header (R395). -/
def hdrPorts (h : Dword) : Nat := bits h.toNat 11 20

/-- The SEQ that comes next in a list of streams (R395). -/
def seqNext (l : List Stream) (ports : Nat) : BitVec 8 :=
  match l.find? fun x => decide (x.ports = ports) with
  | some x => x.next
  | none => 0

/-- A list of streams with one at another SEQ. -/
def seqPut (l : List Stream) (ports : Nat) (next : BitVec 8) : List Stream := (l.filter fun x => decide (x.ports ≠ ports)) ++ [⟨ports, next⟩]

/-- Whether a source may start a transaction now (R394, R396): its TAG is not in use, no payload of it for the sector is undelivered at the
destination, and it is within its limit. -/
def State.mayStart (s : State) (h : Dword) (sector : Option Nat) : Bool :=
  ! keepsPayload h ||
    (! (s.retained.any fun r => sameTransaction r.header h) && s.withinLimit h && (match sector with
      | some x => ! s.undelivered h x
      | none => true))

/-- Whether a unit may send a packet of itself for a sector now (R389 to R396): a member of an ordered stream carries its source's next SEQ. -/
def State.maySend (s : State) (h : Dword) (sector : Nat) : Bool :=
  hdrSendable h sector && (! hdrOs h || decide (hdrSeq h = (seqNext s.sources (hdrPorts h)).toNat)) && s.mayStart h (some sector)

-- ---------------------------------------------------------------- routes

/-- Site of the port of a peer link module (R16). -/
def peerSite (m : Nat) : Nat := match m with
  | 0 => 39
  | 1 => 47
  | 2 => 48
  | _ => 56

/-- The edge port of a peer link module: 1 east, 3 west (R16, R476). -/
def peerEdge (m : Nat) : Nat := if m < 2 then 1 else 3

/-- The site a header makes for on a die (R388, R389). -/
def targetSite (h : Dword) (die : Nat) : Nat :=
  if portDie (hdrDst h) = die then 8 * portY (hdrDst h) + portX (hdrDst h) else peerSite (portY (hdrDst h) % 4)

/-- A port towards which a packet goes on, and the place it reaches: die, site, the port it comes in by, the unit. -/
structure Hop where
  port : Nat
  die : Nat
  site : Nat
  inPort : Nat
  unit : Nat
  deriving DecidableEq, Repr

/-- The next hop of a packet from where its header stands (R387 to R389). -/
def Packet.hop (p : Packet) : Hop :=
  let t := targetSite p.header p.die
  let x := p.site % 8
  let y := p.site / 8
  let tx := t % 8
  let ty := t / 8
  let row := decide (p.inPort = 1) || decide (p.inPort = 3)
  if x < tx then ⟨1, p.die, p.site + 1, 3, 0⟩
  else if tx < x then ⟨3, p.die, p.site - 1, 1, 0⟩
  else if y = ty then
    if portDie (hdrDst p.header) = p.die then ⟨4, p.die, p.site, p.inPort, 2⟩
    else
      let m := portY (hdrDst p.header) % 4
      ⟨peerEdge m, 1 - p.die, peerSite m, 6, 0⟩
  else if row && ! fullSite p.site && decide (p.unit = 0) then ⟨5, p.die, p.site, p.inPort, 1⟩
  else if y < ty then ⟨2, p.die, p.site + 8, 0, 0⟩
  else ⟨0, p.die, p.site - 8, 2, 0⟩

/-- The place a header stands at, with the port it leaves by. -/
def Packet.place (p : Packet) : NetPlace := ⟨p.die, p.site, p.inPort, p.unit, p.hop.port⟩

/-- Whether two places lead out by one link. -/
def NetPlace.link (a b : NetPlace) : Bool := decide (a.die = b.die) && decide (a.site = b.site) && decide (a.port = b.port)

/-- Flits of a packet that have not left the place its way has after i links. -/
def Packet.left (p : Packet) (i : Nat) : Nat := (p.flits.filter fun k => decide (k ≤ i)).length

/-- Whether all flits of a packet have followed its header (R391). -/
def Packet.whole (p : Packet) : Bool := p.flits.all fun k => decide (k = p.trail.length)

-- ---------------------------------------------------------------- counters, packets

/-- Counts a packet cut towards a port (R402); a clear counts from its n-cycle's end on, and an increment of that n-cycle is lost (R476). -/
def State.countTrim (s : State) (die site port nf : Nat) : State :=
  let here (x : TrimCount) : Bool := decide (x.die = die) && decide (x.site = site) && decide (x.port = port)
  let old := (s.trims.find? here).getD ⟨die, site, port, 0, 0, none⟩
  if old.cleared = some (nth s.ncycs die 0) then s
  else
    let base := old.shown (nth s.ncycs die 0)
    { s with trims := (s.trims.filter fun x => ! here x) ++ [{ base with trims := base.trims + 1, flits := base.flits + BitVec.ofNat 32 nf }] }

/-- Whether a header names a trimmable packet with a payload (R392). -/
def trimmable (h : Dword) : Bool := decide (hdrLane h = 0) && ! hdrTr h && decide (hdrNf h ≠ 0)

/-- Changes a packet. -/
def State.updPacket (s : State) (id : Nat) (f : Packet → Packet) : State :=
  { s with packets := s.packets.map fun p => if p.id = id then f p else p }

/-- Removes a packet. -/
def State.dropPacket (s : State) (id : Nat) : State := { s with packets := s.packets.filter fun p => decide (p.id ≠ id) }

/-- A packet by its number. -/
def State.packet? (s : State) (id : Nat) : Option Packet := s.packets.find? fun p => decide (p.id = id)

/-- A packet that has lost its payload (R392). -/
def Packet.cut (p : Packet) : Packet := { p with header := trimmedHdr p.header, payload := [], flits := [] }

/-- The port of its router by which a unit's packets come in (R16, R401): west or east for an edge unit, else local (DESIGN CHOICE, log 15: R387 calls every
unit's port a local one). -/
def entryPort (p : Nat) : Nat := match bits p 7 2 with
  | 1 => 3
  | 2 => 1
  | _ => 4

/-- The port code of a packet at the router of its source: a link module is that of R476, every other unit is local. -/
def sourcePort (p : Nat) : Nat := if linkPort p then 6 else 4

/-- A packet as it enters the mesh at the site of its source (R387), its flits behind it in the interface. -/
def enteringPacket (id : Nat) (h : Dword) (payload : List (BitVec 512)) (owner : NetOwner) : Packet :=
  let p := hdrSrc h
  let site := 8 * portY p + portX p
  { id := id, header := h, payload := payload, owner := owner, die := portDie p, site := site, inPort := sourcePort p, unit := 0,
    trail := [⟨portDie p, site, 4, 2, 8 + bits p 7 3⟩], flits := payload.map fun _ => 0 }

/-- Gives an interface a packet to send, which waits there for its turn (R396). -/
def State.offer (s : State) (x : Outgoing) : State := { s with outbox := s.outbox ++ [x] }

/-- An answer of an interface (R393, R394, R396). -/
def State.reply (s : State) (h : Dword) : State := s.offer ⟨h, [], .none, false, none⟩

-- ---------------------------------------------------------------- buffers and links

/-- Packets or headers that the input buffer of a router port holds of a lane (R386): weight, header and reserved. -/
def laneCap (lane : Nat) : Nat := match lane with
  | 3 => 4
  | 2 => 16
  | _ => 8

/-- The place of a lane in the order of a link (R391): weight, header, reserved, trimmable. -/
def lanePlace (lane : Nat) : Nat := match lane with
  | 3 => 0
  | 2 => 1
  | 1 => 2
  | _ => 3

/-- Whether a packet takes up the buffer at the end of a link: its header stands there, or a flit has not gone on. -/
def Packet.fills (p : Packet) (l : NetPlace) : Bool :=
  p.trail.zipIdx.any fun x => x.1.link l && (if x.2 + 1 = p.trail.length then decide (p.unit < 2) else decide (0 < p.left (x.2 + 1)))

/-- Headers in the header store of an interface (R396): those to be processed, the entries of re-requests, and the answers that wait. -/
def State.headerStore (s : State) (port : Nat) : Nat :=
  (s.packets.filter fun q => decide (2 ≤ q.unit) && decide (hdrDst q.header = port)).length
    + (s.rereqs.filter fun r => decide (hdrDst r.header = port)).length + (s.outbox.filter fun x => ! x.fresh && decide (hdrSrc x.header = port)).length

/-- Packets of the weight lane an interface has space for (R256, R399): the data of two lines of each bank at a core, one request of each core at
a bank. -/
def weightCap (h : Dword) : Nat := if hdrKind h = 12 then 32 else 64

/-- Whether a packet that is not trimmable finds room at the end of a link (R386, R391, R396, R399): in a router's input buffer of its lane, in a
crossing buffer of four packets of each lane, or at an interface. A trimmable packet never waits for a buffer. -/
def State.roomAt (s : State) (l : NetPlace) (unit : Nat) (h : Dword) : Bool :=
  let there := (s.packets.filter fun q => decide (hdrLane q.header = hdrLane h) && q.fills l).length
  let landed := (s.packets.filter fun q => decide (q.unit = 2) && decide (hdrLane q.header = 3) && decide (hdrDst q.header = hdrDst h)).length
  match unit with
  | 0 => decide (hdrLane h = 0) || decide (there < laneCap (hdrLane h))
  | 1 => decide (hdrLane h = 0) || decide (there < 4)
  | _ => decide (s.headerStore (hdrDst h) < 1536) && (decide (hdrLane h ≠ 3) || decide (landed < weightCap h))

/-- Whether a packet's header may cross the link before it as far as room goes. -/
def State.hopRoom (s : State) (p : Packet) : Bool := s.roomAt p.place p.hop.unit p.header

/-- Whether a header of a higher lane, which has room where it goes, stands for the same link (R391). -/
def State.outranked (s : State) (p : Packet) : Bool :=
  s.packets.any fun q => decide (q.unit < 2) && q.place.link p.place && decide (lanePlace (hdrLane q.header) < lanePlace (hdrLane p.header))
    && s.hopRoom q

/-- The record of a link. -/
def State.wire (s : State) (l : NetPlace) : Wire :=
  (s.wires.find? fun w => decide (w.die = l.die) && decide (w.site = l.site) && decide (w.port = l.port)).getD ⟨l.die, l.site, l.port, none, none⟩

/-- Puts the record of a link back. -/
def State.setWire (s : State) (w : Wire) : State :=
  { s with wires := (s.wires.filter fun x => ! (decide (x.die = w.die) && decide (x.site = w.site) && decide (x.port = w.port))) ++ [w] }

/-- A link moves one header in an n-cycle (R391): none when it has moved one in the present n-cycle. -/
def State.useHead (s : State) (l : NetPlace) : Option State :=
  let w := s.wire l
  let now := nth s.ncycs l.die 0
  if w.head = some now then none else some (s.setWire { w with head := some now })

/-- Flits of trimmable packets in the buffer of a router towards a port, those still to come to it among them (R386, R392). -/
def State.flitsFor (s : State) (l : NetPlace) (but : Nat) : Nat :=
  ((s.packets.filter fun q => decide (q.id ≠ but) && trimmable q.header).map fun q =>
    (((q.trail ++ [q.place]).zipIdx.filter fun x => x.1.link l && decide (x.1.unit = 0)).map fun x => q.left x.2).sum).sum

/-- Whether the buffer in which a trimmable packet has arrived cannot take its payload (R386, R392): 20 flits at a router towards its next
hop, four packets in a crossing buffer. -/
def State.noRoom (s : State) (p : Packet) : Bool :=
  match p.unit, p.trail.getLast? with
  | 0, _ => decide (20 < s.flitsFor p.place p.id + hdrNf p.header)
  | 1, some l => decide (4 ≤ (s.packets.filter fun q => decide (q.id ≠ p.id) && trimmable q.header && q.fills l).length)
  | _, _ => false

/-- Trims a packet at the unit where its header has arrived, when its buffer has no room (R392, R402). -/
def State.decideTrim (s : State) (id : Nat) : State :=
  match s.packet? id with
  | none => s
  | some p =>
    if s.noRoom p && trimmable p.header then (s.countTrim p.die p.site p.hop.port (hdrNf p.header)).updPacket id Packet.cut else s

/-- The place of a port in the rotation north, east, south, west, local that begins after a port (R401). -/
def portPlace (after port : Nat) : Nat := (port + 4 - after) % 5

/-- A header reaches a router in the present n-cycle of its die by a port, or from its local interface (R401): none when one that comes later in
the port order, or by the same port, has been decided there in this n-cycle, so that this one arrives in another. The order begins after the
port that came first in the last contested n-cycle. -/
def State.contend (s : State) (die site port : Nat) : Option State :=
  let n := nth s.ncycs die 0
  let here (x : RouterTurn) : Bool := decide (x.die = die) && decide (x.site = site)
  let others := s.routers.filter fun x => ! here x
  match s.routers.find? here with
  | none => some { s with routers := others ++ [⟨die, site, 4, n, port, port, false⟩] }
  | some x =>
    let after := if x.contested && decide (x.tick ≠ n) then x.first else x.after
    if x.tick ≠ n then some { s with routers := others ++ [⟨die, site, after, n, port, port, false⟩] }
    else if portPlace after x.latest < portPlace after port then
      some { s with routers := others ++ [{ x with latest := port, contested := true }] }
    else none

/-- The port of a router by which a hop enters it: a packet from the other die comes in by the edge of its link module (R16, R389). -/
def Hop.entry (k : Hop) : Nat := if k.inPort = 6 then (if k.site % 8 = 7 then 1 else 3) else k.inPort

-- ---------------------------------------------------------------- interfaces

/-- The window of a trim count, in n-cycles (R393). -/
def window (n : Nat) : Nat := min (64 * 2 ^ (n - 1)) 4096

/-- A trimmed header at its interface records a re-request entry (R393). -/
def State.noteTrim (s : State) (h : Dword) : State :=
  let n := min (hdrCnt h + 1) 255
  let entry : ReReq := ⟨h, n, nth s.ncycs (portDie (hdrDst h)) 0 + window n, false⟩
  { s with rereqs := (s.rereqs.filter fun r => ! sameTransaction r.header h) ++ [entry] }

/-- An interface accepts a payload (R393): the entry of the transaction closes and a delivered header is due to its source. -/
def State.acceptPayload (s : State) (h : Dword) : State :=
  let s := { s with rereqs := s.rereqs.filter fun r => ! sameTransaction r.header h }
  if keepsPayload h then s.reply (answerHdr h 5 0) else s

/-- Data of an ordered stream are handed on (R323, R395): the bytes of a raster island's slot make it Ready, and the last slot of a submission
completes it. -/
def State.deliver (s : State) : NetOwner → State
  | .slot _ job i => s.slotArrives job i
  | _ => s

/-- Hands on the packets of a stream that stand whole in its reorder buffer in order, by fuel (R395). -/
def State.handOn (s : State) (ports : Nat) : Nat → State
  | 0 => s
  | n + 1 =>
    let k := seqNext s.streams ports
    match s.packets.find? fun p => decide (p.unit = 3) && decide (hdrPorts p.header = ports) && decide (hdrSeq p.header = k.toNat) with
    | none => s
    | some p => ({ s.dropPacket p.id with streams := seqPut s.streams ports (k + 1) }.deliver p.owner).handOn ports n

/-- Whether a packet is a write that the slice which took it has not performed: its store is still in flight (R280, R393). -/
def State.unperformed (s : State) (p : Packet) : Bool :=
  decide (hdrKind p.header = 2) && (match p.owner with
    | .op _ id => (match s.op? id with
      | some o => decide (o.stage ≠ .done)
      | none => false)
    | _ => false)

/-- A whole packet is taken by its destination interface (R393, R395): a member of a stream takes a place of the reorder buffer and is handed on
in order; when no place is free its payload is trimmed there. A write waits at its slice until it is performed. -/
def State.arrive (s : State) (p : Packet) : State :=
  let h := p.header
  let ports := hdrPorts h
  let places := (s.packets.filter fun q => decide (q.unit = 3) && decide (hdrDst q.header = hdrDst h)).length
  if hdrOs h && trimmable h then
    if decide (32 ≤ places) && decide (hdrSeq h ≠ (seqNext s.streams ports).toNat) then
      (((s.dropPacket p.id).countTrim p.die p.site 4 (hdrNf h)).noteTrim (trimmedHdr h))
    else ((s.updPacket p.id fun q => { q with unit := 3 }).acceptPayload h).handOn ports 33
  else if s.unperformed p then s.updPacket p.id fun q => { q with unit := 4 }
  else (s.dropPacket p.id).acceptPayload h

/-- Whether a packet belongs to a chain whose copy is gone (R311). -/
def State.orphan (s : State) (p : Packet) : Bool :=
  decide (7 ≤ hdrKind p.header) && decide (hdrKind p.header ≤ 10) && (match p.owner with
    | .copy _ id => (s.copy? id).isNone
    | _ => true)

/-- What a packet does at its destination interface: a trimmed header records its entry, a whole payload is taken, and a delivered header, a
re-request and the packets of a chain stay for their own events. -/
def State.settleAt (s : State) (id : Nat) : State :=
  match s.packet? id with
  | none => s
  | some p =>
    if p.unit = 4 then (if s.unperformed p then s else (s.dropPacket id).acceptPayload p.header)
    else if p.unit ≠ 2 then s
    else if hdrTr p.header then (s.dropPacket id).noteTrim p.header
    else if s.orphan p then s.dropPacket id
    else if (5 ≤ hdrKind p.header ∧ hdrKind p.header ≤ 10) ∨ ! p.whole then s
    else s.arrive p

-- ---------------------------------------------------------------- the moves

/-- Puts a packet into the mesh, if its router has room and a turn for it in this n-cycle (R391, R396, R401). -/
def State.inject (s : State) (h : Dword) (payload : List (BitVec 512)) (owner : NetOwner) : Option State :=
  let p := enteringPacket s.nextId h payload owner
  match p.trail.head? with
  | none => none
  | some l =>
    if ! s.roomAt l 0 h then none
    else match s.useHead l with
      | none => none
      | some s1 => match s1.contend p.die p.site (entryPort (hdrSrc h)) with
        | none => none
        | some s2 => some ({ s2 with packets := s2.packets ++ [p], nextId := s.nextId + 1 }.decideTrim s.nextId)

/-- A source starts a transaction (R393, R395): it keeps the payload until it is delivered, and its stream moves on by 1. -/
def State.startSend (s : State) (h : Dword) (payload : List (BitVec 512)) (owner : NetOwner) (sector : Option Nat) : State :=
  let s := if keepsPayload h then { s with retained := s.retained ++ [⟨h, payload, owner, sector⟩] } else s
  if hdrOs h then { s with sources := seqPut s.sources (hdrPorts h) (seqNext s.sources (hdrPorts h) + 1) } else s

/-- The owner three numbers name. -/
def ownerOf (kind ctx id : Nat) : NetOwner := match kind with
  | 1 => .op ctx id
  | 2 => .copy ctx id
  | _ => .none

/-- A unit sends a packet of itself: its header, its sector, its owner and its payload come with the event (log 15). -/
def State.sendNew (s : State) : State :=
  let h : Dword := BitVec.ofNat 64 (s.arg 1)
  let sector := s.arg 2
  let payload := (List.range (hdrNf h)).map fun i => BitVec.ofNat 512 (s.arg (6 + i))
  let owner := ownerOf (s.arg 3) (s.arg 4) (s.arg 5)
  if ! s.maySend h sector then s
  else ((s.startSend h payload owner (some sector)).inject h payload owner).getD s

/-- A packet that waits in its interface is sent (R393, R395, R396): a new one takes its stream's SEQ. -/
def State.sendWaiting (s : State) (k : Nat) : State :=
  match s.outbox[k]? with
  | none => s
  | some x =>
    let h := if hdrOs x.header && x.fresh then withSeq x.header (seqNext s.sources (hdrPorts x.header)).toNat else x.header
    if x.fresh && ! s.mayStart h x.sector then s
    else
      let s1 := { s with outbox := s.outbox.eraseIdx k }
      let s2 := if x.fresh then s1.startSend h x.payload x.owner x.sector else s1
      (s2.inject h x.payload x.owner).getD s

/-- A module's replay buffer takes a header it sends to the other die (R400). -/
def State.keepHeader (s : State) (p : Packet) : State :=
  if p.hop.inPort ≠ 6 then s
  else
    let here (x : LinkReplay) : Bool := decide (x.die = p.die) && decide (x.site = p.site)
    let old := ((s.linkReplays.find? here).map (·.headers)).getD []
    let kept := (old ++ [p.header]).drop (old.length - 63)
    { s with linkReplays := (s.linkReplays.filter fun x => ! here x) ++ [⟨p.die, p.site, kept⟩] }

/-- The header of a packet crosses the link before it (R387 to R392). -/
def Packet.hopped (p : Packet) : Packet :=
  let k := p.hop
  { p with die := k.die, site := k.site, inPort := k.inPort, unit := k.unit, trail := p.trail ++ [p.place] }

/-- A header moves on, unless the buffer there has no room, a higher lane has its link, or its turn at the router has passed (R391, R401). -/
def State.moveHeader (s : State) (id : Nat) : State :=
  match s.packet? id with
  | none => s
  | some p =>
    if 2 ≤ p.unit then s.settleAt id
    else if ! s.hopRoom p ∨ s.outranked p then s
    else match s.useHead p.place with
      | none => s
      | some s1 => match if p.hop.unit = 0 then s1.contend p.hop.die p.hop.site p.hop.entry else some s1 with
        | none => s
        | some s2 => (((s2.keepHeader p).updPacket id Packet.hopped).decideTrim id).settleAt id

/-- Whether flit f of a packet stands before link i of its way, with the flits before it gone on. -/
def Packet.ready (p : Packet) (f i : Nat) : Bool :=
  decide (p.flits[f]? = some i) && decide (i < p.trail.length) && (f = 0 || (match p.flits[f - 1]? with
    | some k => decide (i < k)
    | none => false))

/-- A payload flit follows its header over the next link of its way (R391): one in an n-cycle, a weight-lane flit before a reserved one and that
before a trimmable one. The last to arrive makes the packet whole. -/
def State.moveFlit (s : State) (id f : Nat) : State :=
  match s.packet? id with
  | none => s
  | some p => match p.flits[f]? with
    | none => s
    | some i => match p.trail[i]? with
      | none => s
      | some l =>
        let w := s.wire l
        let now := nth s.ncycs l.die 0
        let higher := s.packets.any fun q => decide (lanePlace (hdrLane q.header) < lanePlace (hdrLane p.header))
          && q.trail.zipIdx.any fun x => x.1.link l && (List.range q.flits.length).any fun k => q.ready k x.2
        if ! p.ready f i ∨ w.flit = some now ∨ higher then s
        else ((s.setWire { w with flit := some now }).updPacket id fun q => { q with flits := q.flits.set f (i + 1) }).settleAt id

-- ---------------------------------------------------------------- the events

/-- PACKET_HEADER_ARRIVAL (R386 to R392, R401): `kind` 0 sends a packet that a unit makes of itself, 1 moves the header of the packet the second
argument numbers one hop, 2 sends the packet of that number that waits in its interface, 3 moves flit `f` of a packet over a link. -/
def execPacketHeaderArrival (s : State) : Host.Outcome State Fault Refusal :=
  match s.arg 0 with
  | 0 => .next s.sendNew
  | 1 => .next (s.moveHeader (s.arg 1))
  | 2 => .next (s.sendWaiting (s.arg 1))
  | _ => .next (s.moveFlit (s.arg 1) (s.arg 2))

/-- RE_REQUEST_WINDOW (R393): the window of the entry the argument numbers has run out, and its re-request is due to the source. -/
def execReRequestWindow (s : State) : Host.Outcome State Fault Refusal :=
  match s.rereqs[s.arg 0]? with
  | none => .next s
  | some r =>
    if r.sent || decide (nth s.ncycs (portDie (hdrDst r.header)) 0 < r.due) then .next s
    else .next ({ s with rereqs := s.rereqs.set (s.arg 0) { r with sent := true } }.reply (answerHdr r.header 6 r.count))

/-- Whether a packet stands at its interface as a header of a kind. -/
def Packet.landed (p : Packet) (kind : Nat) : Bool := decide (p.unit = 2) && decide (hdrKind p.header = kind)

/-- A packet at its interface as a header of a kind, by its number. -/
def State.landed? (s : State) (id kind : Nat) : Option Packet := s.packets.find? fun p => decide (p.id = id) && p.landed kind

/-- Whether a retained payload is the one an answer to its source is about (R393). -/
def Retained.answers (r : Retained) (h : Dword) : Bool :=
  decide (hdrSrc r.header = hdrDst h) && decide (hdrDst r.header = hdrSrc h) && decide (hdrTag r.header = hdrTag h)

/-- RE_REQUEST (R393, R394): the source resends the retained payload at once with the count it was asked with; one that it has discarded is
answered with a delivered header whose CNT is 255. -/
def execReRequest (s : State) : Host.Outcome State Fault Refusal :=
  match s.landed? (s.arg 0) 6 with
  | none => .next s
  | some p =>
    match s.retained.find? fun r => r.answers p.header with
    | some r => .next ((s.dropPacket p.id).offer ⟨withCnt r.header (hdrCnt p.header), r.payload, r.owner, false, r.sector⟩)
    | none => .next ((s.dropPacket p.id).reply (answerHdr p.header 5 255))

/-- The hole that a cancelled packet leaves in its stream is closed, with nothing handed on (R394, R395). -/
def State.closeHole (s : State) (h : Dword) : State :=
  if ! hdrOs h then s
  else
    let p : Packet := { enteringPacket s.nextId h [] .none with unit := 3 }
    ({ s with packets := s.packets ++ [p], nextId := s.nextId + 1 } : State).handOn (hdrPorts h) 33

/-- DELIVERED (R393, R394): a delivered header frees the retained payload; one with CNT 255 closes the destination's entry with nothing
written. -/
def execDelivered (s : State) : Host.Outcome State Fault Refusal :=
  match s.landed? (s.arg 0) 5 with
  | none => .next s
  | some p =>
    let h := p.header
    let s1 := s.dropPacket p.id
    if hdrCnt h = 255 then
      let mine (r : ReReq) : Bool := decide (hdrSrc r.header = hdrSrc h) && decide (hdrDst r.header = hdrDst h) && decide (hdrTag r.header = hdrTag h)
      let s2 := { s1 with rereqs := s1.rereqs.filter fun r => ! mine r }
      .next (((s1.rereqs.filter mine).map (·.header)).foldl State.closeHole s2)
    else .next { s1 with retained := s1.retained.filter fun r => ! r.answers h }

/-- Whether the way of a packet crosses a link module between the places i and i + 1: the other die's, or the IOD's at its source (R14, R400). -/
def Packet.viaModule (p : Packet) (i : Nat) : Bool :=
  if i = 0 then (match portUnit (hdrSrc p.header) with
    | some (.iodLink _) => true
    | _ => false)
  else match p.trail[i]?, (p.trail ++ [p.place])[i + 1]? with
    | some a, some b => decide (a.die ≠ b.die)
    | _, _ => false

/-- The packet is put back before the link it crossed last (R400). -/
def Packet.back (p : Packet) : Packet :=
  match p.trail.getLast? with
  | none => p
  | some l => { p with die := l.die, site := l.site, inPort := l.inPort, unit := l.unit, trail := p.trail.dropLast,
                       flits := p.flits.map fun k => min k (p.trail.length - 1) }

/-- LINK_CRC_FAILURE (R400): a header or a flit of a packet fails its check at the receiving link module. A header (second argument 0) is sent
again from the sending module's replay buffer; a flit, the third argument, of a trimmable packet trims it there, and that of a reserved one
is asked for again. -/
def execLinkCrcFailure (s : State) : Host.Outcome State Fault Refusal :=
  match s.packet? (s.arg 0) with
  | none => .next s
  | some p =>
    let n := p.trail.length - 1
    if s.arg 1 = 0 then
      let sender : List Dword := match p.trail.getLast? with
        | some l => ((s.linkReplays.find? fun x => decide (x.die = l.die) && decide (x.site = l.site)).map (·.headers)).getD []
        | none => []
      .next (if p.unit = 0 ∧ 0 < n ∧ p.viaModule n ∧ sender.contains p.header then s.updPacket p.id Packet.back else s)
    else match p.flits[s.arg 2]? with
      | none => .next s
      | some k =>
        if k = 0 ∨ ! p.viaModule (k - 1) then .next s
        else if trimmable p.header then
          let at_ : NetPlace := nth (p.trail ++ [p.place]) k p.place
          .next (((s.countTrim at_.die at_.site 6 (hdrNf p.header)).updPacket p.id Packet.cut).settleAt p.id)
        else .next (s.updPacket p.id fun q => { q with flits := q.flits.set (s.arg 2) (k - 1) })

end Machine
end Sys2Proof
end

