-- ==== Sys2Proof/Machine/Chain.lean ====
section
/-! DEFINITION. Chained reservations (R397, R398): a TCAST moves its bytes piece by piece along the chain of its members. -/

namespace Sys2Proof
namespace Machine

/-- The chain rank of a core of a die (R397): its cluster's site row by row, even rows rising in x and odd rows falling. -/
def chainRank (core : Nat) : Nat :=
  let c := core / 2 % 32
  let y := c / 4
  let k := c % 4
  2 * (4 * y + if y % 2 = 0 then k else 3 - k) + core % 2

/-- The members of a TCAST's pieces in chain order, each as its receiver's place in the list (R397). -/
def Copy.chain (c : Copy) : List Nat :=
  (sortBy (fun a b => decide (chainRank a.1.core < chainRank b.1.core)) c.recvs.zipIdx).map (·.2)

/-- A receiver by its place in the list. -/
def Copy.recv (c : Copy) (i : Nat) : Receiver := nth c.recvs i ⟨c.srcTeam, 0, 0, 0⟩

/-- End of the present piece, in copy order (R397). -/
def Copy.pieceEnd (c : Copy) : Nat := min (4096 * (c.piece + 1)) c.total

/-- The member at a place of the chain. -/
def Copy.member (c : Copy) (k : Nat) : Receiver := c.recv (nth c.chain k 0)

/-- Whether the member at a place of the chain has written and forwarded the whole of the present piece; the last one forwards nothing. -/
def Copy.passed (c : Copy) (k : Nat) : Bool :=
  decide (c.pieceEnd ≤ (c.member k).pos) && (decide (c.chain.length ≤ k + 1) || decide (c.pieceEnd ≤ (c.member (k + 1)).sent))

/-- Tile buffers that a copy holds on a core (R397, R398): taken, and its piece not yet written and forwarded. -/
def Copy.buffers (c : Copy) (core : Nat) : Nat :=
  ((List.range c.taken).filter fun k => decide ((c.member k).core = core) && ! c.passed k).length

/-- Tile buffers of a core in use. -/
def State.buffersUsed (s : State) (core : Nat) : Nat := ((s.copies.filter fun c => decide (c.kind = 1)).map fun c => c.buffers core).sum

/-- Whether a copy's reservation walk is under way. -/
def Copy.walking (c : Copy) : Bool := decide (c.kind = 1) && c.walk && decide (c.taken < c.recvs.length)

/-- The port of the tile copy engine of a copy's cluster: its cluster's, with no core named (R390, log 15). -/
def Copy.enginePort (c : Copy) : Nat := corePort (2 * clusterOf c.core)

/-- The port before a place of the chain: the engine's, or the member's before it. -/
def Copy.portBefore (c : Copy) (k : Nat) : Nat := match k with
  | 0 => c.enginePort
  | j + 1 => corePort (c.member j).core

/-- A packet of a copy's chain (R390, R397, R398): in the reserved lane with flits, in the header lane without. -/
def Copy.chainPacket (c : Copy) (kind src dst seq : Nat) (payload : List (BitVec 512)) : Outgoing :=
  ⟨mkHdr payload.length (if payload.isEmpty then 2 else 1) kind false dst src c.id seq 0, payload, .copy c.thr.ctx c.id, false, none⟩

/-- The flit of a chain reservation: MASK, and above it the piece's place in the copy (R397; their places in the flit are log 15's). -/
def Copy.reservation (c : Copy) : List (BitVec 512) :=
  let mask := (c.recvs.map fun r => 2 ^ (r.core % 64)).sum
  [BitVec.ofNat 512 (mask + c.piece * 2 ^ 64)]

/-- A packet of a kind that has come to a port for a copy, whole. -/
def State.chainAt (s : State) (c : Copy) (kind dst : Nat) : Option Packet :=
  s.packets.find? fun p => p.landed kind && p.whole && decide (hdrDst p.header = dst) && decide (p.owner = .copy c.thr.ctx c.id)

/-- The member whose turn it is takes a tile buffer (R397): it sends a grant to the one before it, and the reservation on to the next. -/
def State.takeBuffer (s : State) (c : Copy) : State :=
  let here := corePort (c.member c.taken).core
  let s1 := s.updCopy c.id fun y => { y with taken := y.taken + 1, slotAt := none }
  let s2 := s1.offer (c.chainPacket 9 here (c.portBefore c.taken) 0 [])
  if c.taken + 1 < c.chain.length then s2.offer (c.chainPacket 7 here (corePort (c.member (c.taken + 1)).core) 0 c.reservation)
  else if c.pieceEnd ≤ (c.member c.taken).pos then s2.offer (c.chainPacket 10 here c.enginePort 0 []) else s2

/-- The receivers of a copy on the cores where their teams stand: a restored copy's are placed anew (R385). -/
def State.seatedRecvs (s : State) (c : Copy) : List Receiver :=
  c.recvs.map fun r => match s.team? r.team with
    | some tm => if r.core = tm.core ∨ (tm.spanning ∧ r.core = tm.core + 1) then r else { r with core := tm.core }
    | none => r

/-- Whether a receiver's team waits to be placed (R385). -/
def State.unseated (s : State) (r : Receiver) : Bool :=
  match s.grid? ⟨r.team.ctx, r.team.grid⟩ with
  | some g => g.waiting.any fun v => decide (v.team.id = r.team)
  | none => false

/-- CHAIN_RESERVATION (R397): the engine sends the reservation of the present piece, one walk at a time; at its next member's interface it takes a
free tile buffer, or waits in the chain wait slot until there is one. -/
def execChainReservation (s : State) : Host.Outcome State Fault Refusal :=
  match s.copy? (s.arg 0) with
  | none => .next s
  | some c =>
    let busy := s.copies.any fun y => decide (y.id ≠ c.id) && decide (clusterOf y.core = clusterOf c.core) && y.walking
    if c.kind ≠ 1 ∨ ! c.started ∨ c.total ≤ 4096 * c.piece then .next s
    else if ! c.walk then
      if busy ∨ c.recvs.any s.unseated then .next s
      else
        let c1 := { c with recvs := s.seatedRecvs c, walk := true }
        let s1 := s.updCopy c.id fun _ => c1
        .next (if c1.chain.isEmpty then s1
          else s1.offer (c1.chainPacket 7 c1.enginePort (corePort (c1.member 0).core) 0 c1.reservation))
    else if c.chain.length ≤ c.taken then .next s
    else
      let core := (c.member c.taken).core
      let room := decide (s.buffersUsed core < 4)
      if c.slotAt = some core then .next (if room then s.takeBuffer c else s)
      else match s.chainAt c 7 (corePort core) with
        | none => .next s
        | some p =>
          let s1 := s.dropPacket p.id
          .next (if room then s1.takeBuffer c else s1.updCopy c.id fun y => { y with slotAt := some core })

/-- CHAIN_GRANT (R397, R398): the grant of a member reaches the one before it, or the engine. -/
def execChainGrant (s : State) : Host.Outcome State Fault Refusal :=
  match s.copy? (s.arg 0) with
  | none => .next s
  | some c =>
    match (List.range c.taken).find? fun k => (s.chainAt c 9 (c.portBefore k)).any fun p => decide (hdrSrc p.header = corePort (c.member k).core) with
    | none => .next s
    | some k => match s.chainAt c 9 (c.portBefore k) with
      | none => .next s
      | some p => .next ((s.dropPacket p.id).updCopy c.id fun y => { y with grants := setAdd y.grants k })

/-- Completes a copy in a receiver that has all of it (R467). -/
def State.checkRecv (s : State) (id : Nat) (t : TeamId) : State :=
  match s.copy? id with
  | some c => if c.openTo t then s else s.finishRecv c t
  | none => s

/-- Writes one chunk of a packet at a member: its bytes, its lines, its cairn (R244, R398, R467). -/
def State.chainChunk (s : State) (id i : Nat) (r : CopyReq) : State :=
  match s.copy? id with
  | none => s
  | some c =>
    let s := s.deliverS c i (c.recv i) r.chunk r.data r.marks
    let s := s.settleLines c (c.recv i) r.chunk
    let s := s.updCopy id fun y => { y with recvs := y.recvs.set i { y.recv i with pos := y.posOf r.chunk + r.chunk.n } }
    (s.deliverCount c (c.recv i).team r.chunk.n).checkRecv id (c.recv i).team

/-- The end of the packet that begins at a position of the present piece (R398). -/
def Copy.packetEnd (c : Copy) (p : Nat) : Nat := min (256 * (p / 256 + 1)) c.pieceEnd

/-- The requests whose bytes the packet at a position carries: those of the next 256 bytes of the piece (R398). -/
def Copy.packet (c : Copy) (p : Nat) : List CopyReq :=
  sortBy (fun a b => decide (c.posOf a.chunk < c.posOf b.chunk))
    (c.reqs.filter fun r => decide (p ≤ c.posOf r.chunk) && decide (c.posOf r.chunk / 256 = p / 256))

/-- Whether the engine holds all bytes of the packet at a position. -/
def Copy.hasPacket (c : Copy) (p : Nat) : Bool :=
  let rs := c.packet p
  decide ((rs.map fun r => r.chunk.n).sum = c.packetEnd p - p) && rs.all fun r => decide (r.st = .got)

/-- The bytes of the packet at a position, in flits (R398). -/
def Copy.packetFlits (c : Copy) (p : Nat) : List (BitVec 512) :=
  let v := (c.packet p).foldl (fun v r => v + r.data % 256 ^ r.chunk.n * 256 ^ (c.posOf r.chunk - p)) 0
  flitsOf (ceilDiv (c.packetEnd p - p) 64) v

/-- Sends the next packet of the piece to the member at a place of the chain (R398): its grant has come, and the engine, or the member before it,
holds the packet. -/
def State.sendChain (s : State) (c : Copy) (k : Nat) : State :=
  let m := c.member k
  let p := m.sent
  let held := match k with
    | 0 => c.hasPacket p
    | j + 1 => decide (c.packetEnd p ≤ (c.member j).pos)
  if ! c.grants.contains k ∨ c.pieceEnd ≤ p ∨ ! held then s
  else
    let i := nth c.chain k 0
    (s.updCopy c.id fun y => { y with recvs := y.recvs.set i { m with sent := c.packetEnd p } }).offer
      (c.chainPacket 8 (c.portBefore k) (corePort m.core) (p % 4096 / 256) (c.packetFlits p))

/-- CHAIN_DATA (R398): at the member of a place in the chain, a packet that has come is written into the scratchpad, and the last member says when
the piece is done; with none, the next packet is sent to that member. -/
def execChainData (s : State) : Host.Outcome State Fault Refusal :=
  let k := s.arg 1
  match s.copy? (s.arg 0) with
  | none => .next s
  | some c => match c.chain[k]? with
    | none => .next s
    | some i => match s.chainAt c 8 (corePort (c.recv i).core) with
      | none => .next (s.sendChain c k)
      | some x =>
        let p := (c.recv i).pos
        if hdrSeq x.header ≠ p % 4096 / 256 ∨ ! c.hasPacket p ∨ s.copyStuck c ∨ ! s.cairnOpen c (c.recv i).team then .next s
        else
          let s1 := (c.packet p).foldl (fun s r => s.chainChunk c.id i r) (s.dropPacket x.id)
          let last := decide (c.chain.length ≤ k + 1) && decide (c.packetEnd p = c.pieceEnd)
          .next (if last then s1.offer (c.chainPacket 10 (corePort (c.recv i).core) c.enginePort 0 []) else s1)

/-- The engine starts the next piece, or the copy ends (R398). -/
def State.nextPiece (s : State) (c : Copy) : State :=
  let keep (r : CopyReq) : Bool := decide (c.pieceEnd ≤ c.posOf r.chunk)
  (s.updCopy c.id fun y =>
    { y with reqs := y.reqs.filter keep, piece := y.piece + 1, walk := false, taken := 0, grants := [] }).checkCopy c.id

/-- CHAIN_DONE (R398): the last member's word that the piece is done reaches the engine. -/
def execChainDone (s : State) : Host.Outcome State Fault Refusal :=
  match s.copy? (s.arg 0) with
  | none => .next s
  | some c => match s.chainAt c 10 c.enginePort with
    | none => .next s
    | some p => .next ((s.dropPacket p.id).nextPiece c)

end Machine
end Sys2Proof
end

