-- ==== Sys2Proof/Machine/Handler.lean ====
section
/-! DEFINITION. The fault ring's own steps (R365, R366), handler entry (R372), and the plain registers of functions 0 and above (R10, R478). -/

namespace Sys2Proof
namespace Machine

-- ---------------------------------------------------------------- the ring

/-- Posts the oldest held record of a context, while its ring has room (R366). -/
def State.postHeld (s : State) (ctx : Nat) : State :=
  match s.ctx? ctx, s.held.find? fun h => decide (h.record.ctx = ctx) with
  | some c, some h =>
    if s.ringRoom c then
      { s with held := s.held.eraseP fun x => decide (x.record.ctx = ctx) }.writeRecord c h.record
    else s
  | _, _ => s

/-- Posts every held record of a context that finds room, by fuel. -/
def State.postAllHeld (s : State) (ctx : Nat) : Nat → State
  | 0 => s
  | n + 1 => (s.postHeld ctx).postAllHeld ctx n

/-- The records that wait on both dies are made as room allows (R366). -/
def State.admitAll (s : State) : State := (s.admitWaiting 0 s.unposted.length).admitWaiting 1 s.unposted.length

/-- HELD_RECORD_POST (R366): the oldest held record of a context is posted, and records that wait for the room take it. -/
def execHeldRecordPost (s : State) : Host.Outcome State Fault Refusal :=
  let ctx := s.arg 0
  .next (s.postHeld ctx).admitAll

/-- FQC_WRITE (R365): it takes effect while SZ is 0 or PW equals CW; held records are then posted. Sizes above 12 are no ring size: such a
write is ignored. -/
def execFqcWrite (s : State) : Host.Outcome State Fault Refusal :=
  let ctx := s.arg 0
  let v := s.arg 1
  let c := s.page (ctx % 256)
  let idle := decide (c.ringSz = 0) || decide (memRead s.home c.ringBase 8 = memRead s.home (c.ringBase + 64) 8)
  if ! idle || decide (12 < v % 16) then .next s
  else
    let s1 := s.updPage (ctx % 256) fun x => { x with fqc := BitVec.ofNat 32 (v % 16) }
    .next (s1.postAllHeld (ctx % 256) s1.held.length).admitAll

-- ---------------------------------------------------------------- handler entry

/-- Whether every thread of a team that has not exited is in one of the states a test picks. -/
def State.teamAll (s : State) (t : TeamId) (p : TState → Bool) : Bool :=
  s.threads.all fun x => decide (x.id.teamId ≠ t) || decide (x.st = .exited) || p x.st

/-- HANDLER_ENTRY_OPEN (R372): a Closed team that holds an open record, with every thread Parked or none issued for 256 cycles. -/
def execHandlerEntryOpen (s : State) : Host.Outcome State Fault Refusal :=
  let team := s.argTeam 0
  match s.team? team with
  | none => .next s
  | some tm =>
    let hasOpen := s.recs.any fun r => decide (r.ctx = team.ctx) && decide (r.grid = team.grid) && decide (r.team = team.team)
    let still := s.teamAll team TState.isParked || decide (tm.lastIssue + 256 ≤ s.now tm.core)
    if tm.entry ≠ .closed ∨ ! hasOpen ∨ ! still then .next s
    else
      let r := s.deviceRecord team.ctx 0 tm.posted 0 team.grid
      let s1 := s.updTeam team fun t => { t with entry := .opened, posted := 0 }
      .next (s1.postRecord (dieOf tm.core) { r with ent := true, team := team.team })

-- ---------------------------------------------------------------- plain registers

/-- A 32-bit word of a 64-bit register written: the half, and the bits that are not reserved (R10). -/
def put64 (x : Dword) (hi : Bool) (v : Nat) (mask : Nat) : Dword :=
  let n := x.toNat
  BitVec.ofNat 64 ((if hi then n % 2 ^ 32 + v % 2 ^ 32 * 2 ^ 32 else n / 2 ^ 32 * 2 ^ 32 + v % 2 ^ 32) &&& mask)

/-- A mask of bits lo to hi - 1. -/
def maskOf (lo hi : Nat) : Nat := 2 ^ hi - 2 ^ lo

/-- A 32-bit register written, without its reserved bits (R10). -/
def put32 (v mask : Nat) : Word := BitVec.ofNat 32 (v &&& mask)

/-- A half of a statistics or query register written (R473): what has been added in the cycle is applied after it. -/
def Ctx.putCount (c : Ctx) (reg : Nat) (hi : Bool) (v : Nat) : Ctx :=
  let a := ((c.added.filter fun x => decide (x.reg = reg)).map (·.n)).foldl (· + ·) 0
  c.setCount reg (put64 (c.countOf reg - a) hi v (maskOf 0 64) + a)

/-- A plain word of a context page written (R10): registers whose writes act otherwise, reserved words and read-only words are left. -/
def Ctx.writeWord (c : Ctx) (o v : Nat) : Ctx :=
  let hi := decide (o / 4 % 2 = 1)
  let half (base : Nat) : Bool := decide (o = base) || decide (o = base + 4)
  if half 0x40 then ({ c with jnb := put64 c.jnb hi v (maskOf 12 40) } : Ctx)
  else if o = 0x48 then ({ c with jnc := put32 v 0x1F } : Ctx).restall
  else if 0x80 ≤ o ∧ o < 0xA0 then { c with qmap := c.qmap.set ((o - 0x80) / 4) (put32 v 0x9F9F9F9F) }
  else if half 0x108 then { c with csab := put64 c.csab hi v (maskOf 12 40) }
  else if o = 0x110 then { c with csas := put32 v (maskOf 0 24) }
  else if half 0x120 then { c with fqb := put64 c.fqb hi v (maskOf 12 40) }
  else if half 0x140 then { c with ttb := put64 c.ttb hi v (maskOf 16 40 + 1) }
  else if half 0x148 then { c with inva := put64 c.inva hi v (maskOf 12 52) }
  else if o = 0x150 then (if v % 4 = 3 then { c with invLost := c.invLost || c.invBusy, invErr := true } else c)
  else if o = 0x154 then { c with invLost := c.invLost && ! bitAt v 1, invErr := c.invErr && ! bitAt v 2 }
  else if half 0x160 then { c with rljb := c.rljb.set 0 (put64 (nth c.rljb 0 0) hi v (maskOf 7 52)) }
  else if o = 0x168 then { c with rljc := c.rljc.set 0 (put32 v 0xF) }
  else if half 0x170 then { c with rljb := c.rljb.set 1 (put64 (nth c.rljb 1 0) hi v (maskOf 7 52)) }
  else if o = 0x178 then { c with rljc := c.rljc.set 1 (put32 v 0xF) }
  else if o = 0x180 then { c with imbd := put32 v 0x1F1F1F }
  else if half 0x188 then { c with ryjb := put64 c.ryjb hi v (maskOf 0 64) }
  else if half 0x190 then { c with sdfb := put64 c.sdfb hi v (maskOf 0 64) }
  else if o = 0x198 then { c with sdft := put32 v (maskOf 0 32) }
  else if o = 0x19C then { c with sdfs := put32 v 0xFF }
  else if half 0x1C0 then c.putCount 0 hi v
  else if half 0x1C8 then c.putCount 1 hi v
  else if 0x200 ≤ o ∧ o < 0x280 then
    let q := (o - 0x200) / 16
    if o / 8 % 2 = 0 then { c with oqj := c.oqj.set q (put64 (nth c.oqj q 0) hi v (maskOf 9 52 + 1)) }
    else c.putCount (2 + q) hi v
  else c

/-- CXC and CXPM written through function 0, with no change of LIVE (R478, R479). -/
def Ctx.writeOwn (c : Ctx) (o v : Nat) : Ctx :=
  if o = 0 then
    if c.busy || (bitAt v 0 != c.live) then c
    else { c with wayGroup := bits v 8 3, own := bits v 16 6, tee := bitAt v 22 }
  else if 8 ≤ o ∧ o < 24 then { c with cxpm := c.cxpm.set ((o - 8) / 4) (put32 v (maskOf 0 32)) }
  else c

/-- A word of a launch queue's block written (R340). LQW is a wake register, which LAUNCH_QUEUE_WAKE writes. -/
def State.writeQueue (s : State) (q o v : Nat) : State :=
  if s.queueLocked q then s
  else match o with
    | 0 => s.updLq q fun y => { y with lqb := put64 y.lqb false v (maskOf 6 52) }
    | 4 => s.updLq q fun y => { y with lqb := put64 y.lqb true v (maskOf 6 52) }
    | 8 =>
      let bad := bitAt v 6 && (decide (v % 16 < 3) || decide (12 < v % 16))
      s.updLq q fun y => { y with lqc := put32 v (maskOf 0 16), err := y.err || bad }
    | 12 => s.updLq q fun y => if bitAt y.lqc.toNat 6 then y else { y with lqci := put32 v (maskOf 0 12) }
    | 20 => s.updLq q fun y => { y with err := y.err && ! bitAt v 1 }
    | _ => s

/-- A plain word of function 0's global registers written (R10, R253, R345, R356, R408, R443, R476, R486, R491). -/
def State.writeGlobal (s : State) (o v : Nat) : State :=
  let hi := decide (o / 4 % 2 = 1)
  let half (base : Nat) : Bool := decide (o = base) || decide (o = base + 4)
  if 0x200 ≤ o ∧ o < 0x220 then { s with scwg := s.scwg.set ((o - 0x200) / 4) (put32 v 0xFFFF) }
  else if o = 0x240 then (if bitAt s.scunp.toNat 31 || bitAt v 31 then s else { s with scunp := put32 v 7 })
  else if 0x300 ≤ o ∧ o < 0x400 then
    let i := (o - 0x300) / 16
    if o / 8 % 2 = 0 then { s with stsl := s.stsl.set i (put64 (nth s.stsl i 0) hi v (maskOf 0 64)) }
    else if hi || decide (4 < v % 8) then s
    else { s with stsc := s.stsc.set i (put32 v 7) }
  else if half 0x400 || half 0x410 then
    s.updCtl ((o - 0x400) / 16) fun c => { c with lsrb := put64 c.lsrb hi v (maskOf 9 40) }
  else if o = 0x408 ∨ o = 0x418 then
    s.updCtl ((o - 0x400) / 16) fun c => if c.spilled = 0 then { c with lsrc := put32 v 0xF } else c
  else if half 0x480 || half 0x490 then
    s.updCtl ((o - 0x480) / 16) fun c => { c with sqb := put64 c.sqb hi v (maskOf 11 52) }
  else if o = 0x488 ∨ o = 0x498 then
    let die := (o - 0x480) / 16
    if s.svc.any (fun b => decide (b.die = die)) then s else s.updCtl die fun c => { c with sqc := put32 v 0xF }
  else if o = 0x4A0 ∨ o = 0x4A4 then s.updCtl ((o - 0x4A0) / 4) fun c => { c with svres := put32 v 0x7FF }
  else if half 0x500 then { s with imgb := put64 s.imgb hi v (maskOf 6 40) }
  else if o = 0x508 then (if bitAt v 6 || decide (s.imgs = 1) then s else { s with imgc := put32 v 0x3F })
  else if half 0x520 then { s with keyb := put64 s.keyb hi v (maskOf 6 40) }
  else if o = 0x528 then (if bitAt v 4 then s else { s with keyc := BitVec.ofNat 32 (s.keyc.toNat / 16 * 16 + v % 16) })
  else if o = 0x600 then (if bitAt v 31 then s else { s with tcsel := put32 v 0x3FF })
  else if o = 0x708 then
    { s with pwlim := BitVec.ofNat 32 (max 200 (min 420 (v % 1024))) }
  else if 0x1000 ≤ o ∧ o < 0x1400 then s.writeQueue ((o - 0x1000) / 32) (o % 32) v
  else s

/-- One 32-bit word written through a function's window (R478): before stage 1 nothing responds (R487). -/
def State.writeReg (s : State) (fn off v : Nat) : State :=
  if s.stage = 0 ∨ off % 4 ≠ 0 then s
  else if fn = 0 then
    if off < 0x10000 then s.writeGlobal off v
    else if 0x100000 ≤ off ∧ off < 0x200000 then
      let n := (off - 0x100000) / 4096
      let o := off % 4096
      if o < 0x40 then (if s.tdiBound (s.page n) then s else s.updPage n fun c => c.writeOwn o v)
      else s.updPage n fun c => c.writeWord o v
    else s
  else
    let n := off / 4096
    let o := off % 4096
    if n < 256 ∧ 0x40 ≤ o ∧ (s.page n).own = fn ∧ fn < 64 then s.updPage n fun c => c.writeWord o v else s

/-- REGISTER_WRITE (R10): a write to registers with no behaviour of their own. The widths that a window takes are the model's (DESIGN CHOICE, log
39): 4 bytes, or 8 at a multiple of 8 as two words, the low one first; a write of another width is ignored. -/
def execRegisterWrite (s : State) : Host.Outcome State Fault Refusal :=
  let fn := s.arg 0
  let off := s.arg 1
  let n := s.arg 2
  let v := s.arg 3
  if n = 8 ∧ off % 8 = 0 then .next ((s.writeReg fn off (v % 2 ^ 32)).writeReg fn (off + 4) (v / 2 ^ 32 % 2 ^ 32))
  else if n = 4 then .next (s.writeReg fn off (v % 2 ^ 32))
  else .next s

/-- TRIM_COUNTER_CLEAR (R476): a write to TCSEL with CLR clears the two counters of the port it selects, at the end of the n-cycle. -/
def execTrimCounterClear (s : State) : Host.Outcome State Fault Refusal :=
  let sel := s.arg 0
  let now := nth s.ncycs (bits sel 0 1) 0
  let p (x : TrimCount) : Bool := decide (x.die = bits sel 0 1) && decide (x.site = bits sel 1 6) && decide (x.port = bits sel 7 3)
  let old := ((s.trims.find? p).getD ⟨bits sel 0 1, bits sel 1 6, bits sel 7 3, 0, 0, none⟩).shown now
  .next { s with tcsel := put32 sel 0x3FF, trims := (s.trims.filter fun x => ! p x) ++ [{ old with cleared := some now }] }

end Machine
end Sys2Proof
end

