-- ==== Sys2Proof/Machine/Ridgeline.lean ====
section
/-! DEFINITION. The Ridgeline engine (R417 to R438): its job ring, the cut, the bins, the hierarchy and the hand-off, and the end of a job. -/

namespace Sys2Proof
namespace Machine

-- ---------------------------------------------------------------- the descriptor

/-- Reserved fields of a descriptor: byte offset, first bit, bits (R425). -/
def jobReserved : List (Nat × Nat × Nat) :=
  [(0x00, 18, 14), (0x24, 4, 28), (0x40, 16, 16), (0x44, 14, 2), (0x44, 30, 2), (0x54, 0, 32), (0x58, 0, 32), (0x100, 16, 16), (0x11C, 0, 32),
   (0x15C, 0, 1184)]

/-- Addresses of a descriptor and their alignments (R418, R425). -/
def jobAligned : List (Nat × Nat) := [(0x08, 64), (0x10, 64), (0x18, 16), (0x28, 64), (0x30, 32), (0x38, 8)]

/-- Whether a descriptor is rejected by its own fields (R426). -/
def jobRejected (raw : Nat) : Bool :=
  let ib := rfld raw 0 8 4
  let ninst := rword raw 4
  let w := rfld raw 0x44 0 14
  let h := rfld raw 0x44 16 14
  let ccap := rword raw 0x20
  decide (rfld raw 0 0 8 ≠ 1) || jobReserved.any (fun f => decide (rfld raw f.1 f.2.1 f.2.2 ≠ 0))
    || decide (ninst < 1) || decide (4096 < ninst) || decide (2 ^ ib < ninst) || decide (12 < ib)
    || (bitAt raw 16 && decide (rfld raw 0 12 4 = 0))
    || decide (w < 1) || decide (8192 < w) || decide (h < 1) || decide (8192 < h) || decide (rfld raw 0x40 0 14 < w)
    || decide (ccap < 1) || decide (2 ^ 25 < ccap) || jobAligned.any (fun x => decide (rdword raw x.1 % x.2 ≠ 0))

/-- Whether a graph header is rejected: its version, and the alignment of its arrays (R418, R426). -/
def graphRejected (hdr : Nat) : Bool :=
  decide (rfld hdr 0 0 8 ≠ 1) || decide (rdword hdr 0x10 % 64 ≠ 0) || decide (rdword hdr 0x18 % 32 ≠ 0) || decide (rdword hdr 0x20 % 4 ≠ 0)
    || decide (rdword hdr 0x28 % 64 ≠ 0) || decide (rdword hdr 0x30 % 8 ≠ 0) || decide (rdword hdr 0x38 % 32 ≠ 0)

-- ---------------------------------------------------------------- the cut

/-- What a walk is over: the descriptor and the graph header. -/
structure Walk where
  p : Port
  raw : Nat
  hdr : Nat

/-- An instance as the walk sees it: its number, its transform rows and its scale (R427). -/
structure Inst where
  n : Nat
  m : List (List Nat)
  scale : Nat

/-- level(p, i) of R428 for an anchor sphere. -/
def levelOf (raw : Nat) (i : Inst) (sphere : List Nat) : Nat :=
  let w := place i.m sphere
  let dv := subV w (rwords raw 0x48 3)
  let d := sqrtF (addF (addF (mulF (vx dv 0) (vx dv 0)) (mulF (vx dv 1) (vx dv 1))) (mulF (vx dv 2) (vx dv 2)))
  let n := maxF (subF d (mulF (vx sphere 3) i.scale)) (rword raw 0x5C)
  ((List.range 15).filter fun k => ltF n (mulF (rword raw (0x120 + 4 * k)) i.scale)).length

/-- Whether a sphere lies outside one of the six planes (R429). -/
def sphereCulled (raw : Nat) (i : Inst) (sphere : List Nat) : Bool :=
  let w := place i.m sphere
  let lim := mulF (vx sphere 3) i.scale ^^^ 0x80000000
  (rowsOf (rwords raw 0xA0 24)).any fun pl =>
    ltF (addF (addF (addF (mulF (vx pl 0) (vx w 0)) (mulF (vx pl 1) (vx w 1))) (mulF (vx pl 2) (vx w 2))) (vx pl 3)) lim

/-- Adds a key: one that is there already loses its fallback mark to an unmarked one (R430). -/
def Cut.add (x : Cut) (k : CutKey) : Cut :=
  if x.keys.any fun y => decide (y.cl = k.cl) && decide (y.inst = k.inst) then
    let put (y : CutKey) : CutKey := if y.cl = k.cl ∧ y.inst = k.inst ∧ y.fb = true ∧ k.fb = false then k else y
    { x with keys := x.keys.map put }
  else { x with keys := x.keys ++ [k] }

/-- A group record (R420), which must lie below NG and belong to the patch; none is a skipped reference (R429). -/
def Walk.group (w : Walk) (g patch : Nat) : Run (Option Nat) := do
  if rword w.hdr 4 ≤ g then pure none
  else
    let r ← w.p.read (rdword w.hdr 0x10 + 64 * g) 64
    if rword r.1 0x24 ≠ patch then pure none else pure (some r.1)

/-- Whether a cluster is resident (R418). -/
def Walk.resident (w : Walk) (c : Nat) : Run Bool := do
  let b ← w.p.read (rdword w.hdr 0x30 + c / 8) 1
  pure (bitAt b.1 (c % 8))

/-- The clusters of a group, none when the range reaches beyond NC (R429). -/
def Walk.clusters (w : Walk) (grp : Nat) : Option (List Nat) :=
  let f := rword grp 0x14
  let n := rfld grp 0x18 0 8
  if rword w.hdr 8 < f + n then none else some ((List.range n).map (f + ·))

/-- The first ancestor all of whose clusters are resident (R430), by fuel: its number and clusters, and skipped references. -/
def Walk.ancestor (w : Walk) (patch : Nat) : Nat → Nat → Run (Option (Nat × List Nat) × Nat)
  | 0, _ => pure (none, 0)
  | fuel + 1, par => do
    if par = 0xFFFFFFFF then pure (none, 0)
    else match ← w.group par patch with
      | none => pure (none, 1)
      | some grp => match w.clusters grp with
        | none => pure (none, 1)
        | some cs => do
          let rs ← cs.mapM w.resident
          if rs.all id then pure (some (par, cs), 0) else w.ancestor patch fuel (rword grp 0x20)

/-- Selects a group for an instance (R430). -/
def Walk.select (w : Walk) (n patch g grp : Nat) (x : Cut) : Run Cut :=
  match w.clusters grp with
  | none => pure { x with bad := x.bad + 1 }
  | some cs => do
    let one (x : Cut) (c : Nat) : Run Cut := do
      if ← w.resident c then pure (x.add ⟨c, n, false, g⟩)
      else
        let x := if x.misses.contains (c, n) then x else { x with misses := x.misses ++ [(c, n)] }
        let a ← w.ancestor patch (rword w.hdr 4 + 1) (rword grp 0x20)
        let x := { x with bad := x.bad + a.2 }
        match a.1 with
        | none => pure x
        | some (ag, acs) => pure (acs.foldl (fun x k => x.add ⟨k, n, true, ag⟩) x)
    cs.foldlM one x

/-- The record of instance n, as the walk sees it, and its words (R427). -/
def Walk.instance? (w : Walk) (n : Nat) : Run (Inst × Nat) := do
  let r ← w.p.read (rdword w.raw 0x10 + 64 * n) 64
  pure (⟨n, instRows r.1, rword r.1 0x30⟩, r.1)

/-- The patches an instance draws: none when it is not enabled or has a reserved bit set (R427). -/
def patchesOf (raw : Nat) : Nat :=
  if ! bitAt (rword raw 0x38) 0 || decide (rfld raw 0x38 1 15 ≠ 0) || decide (rword raw 0x3C ≠ 0) then 0 else rfld raw 0x38 16 16

/-- The walk goes on to an instance: its patches in ascending order, then the next instance (R429). -/
def Walk.instTask (w : Walk) (n : Nat) : Run (List RidgeTask) := do
  let i ← w.instance? n
  pure ((if patchesOf i.2 = 0 then [] else [.patch n 0]) ++ if n + 1 < rword w.raw 4 then [.inst (n + 1)] else [])

/-- Patch k of an instance (R428, R429): a walk from its root at the level of its anchor sphere, then the next patch. -/
def Walk.patchTask (w : Walk) (n k : Nat) (x : Cut) : Run (Cut × List RidgeTask) := do
  let i ← w.instance? n
  let patch := rword i.2 0x34 + k
  let next : List RidgeTask := if k + 1 < patchesOf i.2 then [.patch n (k + 1)] else []
  if rfld w.hdr 0 8 24 ≤ patch then pure ({ x with bad := x.bad + 1 }, next)
  else
    let a ← w.p.read (rdword w.hdr 0x38 + 32 * patch) 32
    pure (x, .visit n patch (levelOf w.raw i.1 (rwords a.1 0 4)) 32 (rword a.1 0x10) :: next)

/-- visit of R429, with the depths left below the group; a child of a group at depth 32 is skipped (log 13). -/
def Walk.visitTask (w : Walk) (n patch lam left g : Nat) (x : Cut) : Run (Cut × List RidgeTask) := do
  if x.seen.contains (g, n) then pure (x, [])
  else match ← w.group g patch with
    | none => pure ({ x with bad := x.bad + 1 }, [])
    | some grp =>
      let i ← w.instance? n
      let x := { x with seen := x.seen ++ [(g, n)], visits := x.visits + 1 }
      let lmin := rfld grp 0x10 0 4
      let lmax := rfld grp 0x10 4 4
      let nch := rfld grp 0x18 8 8
      let f := rword grp 0x1C
      if sphereCulled w.raw i.1 (rwords grp 0 4) then pure ({ x with culled := x.culled + 1 }, [])
      else if lmin ≤ lam ∧ lam ≤ lmax then pure (x, [.select n patch g])
      else if lam ≤ lmax ∨ nch = 0 then pure (x, [])
      else if left = 0 then pure ({ x with bad := x.bad + nch }, [])
      else if rword w.hdr 0x0C < f + nch then pure ({ x with bad := x.bad + 1 }, [])
      else pure (x, [.kids n patch lam (left - 1) f 0 nch])

/-- Child k of m of a child list (R429): a visit of it, then the next child. -/
def Walk.kidTask (w : Walk) (n patch lam left first k m : Nat) : Run (List RidgeTask) := do
  let h ← w.p.read (rdword w.hdr 0x20 + 4 * (first + k)) 4
  pure (.visit n patch lam left h.1 :: if k + 1 < m then [.kids n patch lam left first (k + 1) m] else [])

/-- The order of keys: ascending cluster, then instance (R431). -/
def CutKey.lt (a b : CutKey) : Bool := decide (a.cl < b.cl) || (decide (a.cl = b.cl) && decide (a.inst < b.inst))

-- ---------------------------------------------------------------- bins and boxes

/-- The corners of a cluster's box. -/
def boxCorners (c : Cluster) : List (List Nat) :=
  (List.range 8).map fun k => (List.range 3).map fun a => rword c.raw (if bitAt k a then 12 + 4 * a else 4 * a)

/-- A row times (x, y, z, 1) with every operation rounded in a mode (R434). -/
def rowDotBy (mode : Nat) (r v : List Nat) : Nat :=
  let mul (a b : Nat) : Nat := (fmul .f32 mode (f32 a) (f32 b)).1
  let add (a b : Nat) : Nat := (fadd .f32 mode (f32 a) (f32 b)).1
  add (add (add (mul (vx r 0) (vx v 0)) (mul (vx r 1) (vx v 1))) (mul (vx r 2) (vx v 2))) (vx r 3)

/-- The least of values by FMIN. -/
def leastF : List Nat → Nat
  | [] => infF
  | [x] => x
  | x :: xs => minF x (leastF xs)

/-- The greatest of values by FMAX. -/
def mostF : List Nat → Nat
  | [] => negInfF
  | [x] => x
  | x :: xs => maxF x (mostF xs)

/-- A level-0 box of the hierarchy: six words (R434). -/
def boxOf (m : List (List Nat)) (c : Cluster) : List Nat :=
  let cs := boxCorners c
  (m.map fun r => leastF (cs.map (rowDotBy 4 r))) ++ (m.map fun r => mostF (cs.map (rowDotBy 3 r)))

/-- The bins of an entry (R432). -/
def binsOf (raw : Nat) (m : List (List Nat)) (c : Cluster) : List Nat :=
  let nbx := ceilDiv (rfld raw 0x44 0 14) 64
  let nby := ceilDiv (rfld raw 0x44 16 14) 64
  let clips := (boxCorners c).map fun v => place (jobRows raw) (place m v)
  if clips.any fun k => leF (vx k 3) (rword raw 0x5C) then List.range (nbx * nby)
  else
    let sc := clips.map (screen raw)
    let xs := sc.map (·.1)
    let ys := sc.map (·.2)
    let w := ofIntF (rfld raw 0x44 0 14 : Nat)
    let h := ofIntF (rfld raw 0x44 16 14 : Nat)
    let nan := (xs ++ ys).any fun v => (f32 v).isNaN
    if nan || ltF (mostF xs) 0 || leF w (leastF xs) || ltF (mostF ys) 0 || leF h (leastF ys) then []
    else
      let bin (v n : Nat) : Nat := (clampI (floorI v / 64) 0 ((n : Int) - 1)).toNat
      let x0 := bin (leastF xs) nbx
      let y0 := bin (leastF ys) nby
      (List.range (bin (mostF ys) nby - y0 + 1)).flatMap fun j => (List.range (bin (mostF xs) nbx - x0 + 1)).map fun i =>
        (y0 + j) * nbx + (x0 + i)

/-- Reads the cluster and the instance of a kept key (R432). -/
def Walk.entry (w : Walk) (k : CutKey) : Run CutEntry := do
  let i ← w.p.read (rdword w.raw 0x10 + 64 * k.inst) 64
  let c ← w.p.cluster (rdword w.hdr 0x18 + 32 * k.cl) (rdword w.hdr 0x28)
  let m := instRows i.1
  pure ⟨k, boxOf m c.1, binsOf w.raw m c.1, c.1.nt + 1⟩

/-- A node of the hierarchy: its box, its first position, its count (R434). -/
def nodeWords (x : List Nat × Nat × Nat) : Nat := valOfWords (x.1 ++ [x.2.1, x.2.2])

/-- Joins two boxes. -/
def joinBox (a b : List Nat) : List Nat := (List.range 6).map fun k => if k < 3 then minF (vx a k) (vx b k) else maxF (vx a k) (vx b k)

/-- Joins nodes in pairs (R434). -/
def joinNodes : List (List Nat × Nat × Nat) → List (List Nat × Nat × Nat)
  | a :: b :: rest => (joinBox a.1 b.1, a.2.1, a.2.2 + b.2.2) :: joinNodes rest
  | l => l

/-- The levels of a hierarchy in ascending order, by fuel (R434). -/
def hierarchy : Nat → List (List Nat × Nat × Nat) → List (List Nat × Nat × Nat)
  | 0, l => l
  | fuel + 1, l => if l.length ≤ 1 then l else l ++ hierarchy fuel (joinNodes l)

/-- The hand-off records: bins ascending, positions ascending in each, then an end record for each island of RMASK (R433). -/
def handoffsOf (raw clu : Nat) (es : List CutEntry) : List HandOff :=
  let isls := onesFrom 4 0 (rfld raw 0 12 4)
  let nb := ceilDiv (rfld raw 0x44 0 14) 64 * ceilDiv (rfld raw 0x44 16 14) 64
  let rec1 (b : Nat) (x : Nat × CutEntry) : Option HandOff :=
    if x.2.bins.contains b then
      some ⟨nth isls (b % isls.length) 0, x.1, x.2.key.cl, x.2.key.inst, b, clu + 32 * x.2.key.cl, decide (leastOf x.2.bins = some b)⟩
    else none
  let placed := List.zip (List.range es.length) es
  ((List.range nb).flatMap fun b => placed.filterMap (rec1 b)) ++ isls.map fun i => ⟨i, 0xFFFFFFFF, 0, 0, 0, 0, false⟩

-- ---------------------------------------------------------------- computing a job

/-- The miss ring's writes: those posted with PW, the number posted, the number dropped (R430). -/
def Walk.missWrites (w : Walk) (ms : List (Nat × Nat)) : Run (List (Nat × Nat × Nat) × Nat × Nat) := do
  let msz := rfld w.raw 0x24 0 4
  let base := rdword w.raw 0x28
  if msz = 0 then pure ([], 0, ms.length)
  else
    let pw ← w.p.read base 8
    let cw ← w.p.read (base + 64) 8
    let room := 2 ^ msz - (pw.1 + 2 ^ 64 - cw.1) % 2 ^ 64
    let post := ms.take room
    let put (x : Nat × (Nat × Nat)) : Nat × Nat × Nat :=
      (base + 128 + 8 * ((pw.1 + x.1) % 2 ^ msz), 8, x.2.1 + x.2.2 % 2 ^ 16 * 2 ^ 32)
    let ws := (List.zip (List.range post.length) post).map put
    pure (ws ++ (if post.isEmpty then [] else [(base, 8, (pw.1 + post.length) % 2 ^ 64)]), post.length, ms.length - post.length)

/-- The kept keys of a cut in their order, and whether keys were left over (R431). -/
def keptKeys (raw : Nat) (x : Cut) : List CutKey × Bool :=
  let limit := min (rword raw 0x20) (2 ^ (25 - rfld raw 0 8 4))
  let sorted := sortBy CutKey.lt x.keys
  (sorted.take limit, decide (limit < sorted.length))

/-- The outputs of a job from its walk and its entries (R430 to R434, R474). -/
def Walk.outputs (w : Walk) (j : RidgeJob) : Run RidgeJob := do
  let x := j.cut
  let es := j.entries
  let ms := sortBy (fun a b => decide (a.1 < b.1) || (decide (a.1 = b.1) && decide (a.2 < b.2))) x.misses
  let miss ← w.missWrites ms
  let placed := List.zip (List.range es.length) es
  let cutWrite (e : Nat × CutEntry) : Nat × Nat × Nat :=
    (rdword w.raw 0x18 + 16 * e.1, 16, valOfWords [e.2.key.cl, e.2.key.inst + e.2.key.fb.toNat * 2 ^ 16, e.2.key.gr, 0])
  let nodes := hierarchy 26 (placed.map fun e => (e.2.box, e.1, 1))
  let hierWrite (e : Nat × (List Nat × Nat × Nat)) : Nat × Nat × Nat := (rdword w.raw 0x30 + 32 * e.1, 32, nodeWords e.2)
  let hier := if bitAt w.raw 17 then (List.zip (List.range nodes.length) nodes).map hierWrite else []
  let rast := bitAt w.raw 16
  pure { j with
    writes := placed.map cutWrite ++ hier ++ miss.1
    handoffs := if rast then handoffsOf w.raw (rdword w.hdr 0x18) es else []
    code := if (keptKeys w.raw x).2 then 2 else 1
    stats := [es.length, miss.2.1, miss.2.2, x.visits, x.culled, x.bad]
    cull := if rast then ((es.filter fun e => e.bins.isEmpty).map (·.tris)).sum else 0
    computed := true }

/-- A job that ends at its check, without output (R426). -/
def RidgeJob.refused (j : RidgeJob) (code : Nat) : RidgeJob := { j with code := code, computed := true, todo := [] }

/-- The check of a descriptor and of the graph's header (R426): the walk begins, or the job ends. -/
def Port.check (p : Port) (loaded : Bool) (j : RidgeJob) : Run RidgeJob := do
  if jobRejected j.raw then pure (j.refused 3)
  else
    let g ← p.read (rdword j.raw 0x08) 64
    if graphRejected g.1 then pure (j.refused 3)
    else if bitAt j.raw 16 && ! loaded then pure (j.refused 4)
    else pure { j with hdr := g.1, todo := [.inst 0, .sort] }

/-- Performs one task of a job, which has been taken from its list (R424 to R434). -/
def Port.task (p : Port) (loaded : Bool) (j : RidgeJob) : RidgeTask → Run RidgeJob :=
  let w : Walk := ⟨p, j.raw, j.hdr⟩
  let then_ (r : Cut × List RidgeTask) : RidgeJob := { j with cut := r.1, todo := r.2 ++ j.todo }
  fun
  | .ring => pure j
  | .descriptor => do
    let r ← p.read j.desc 512
    pure { j with raw := r.1, todo := .check :: j.todo }
  | .check => p.check loaded j
  | .inst n => do
    let ts ← w.instTask n
    pure (then_ (j.cut, ts))
  | .patch n k => do
    let r ← w.patchTask n k j.cut
    pure (then_ r)
  | .visit n patch lam left g => do
    let r ← w.visitTask n patch lam left g j.cut
    pure (then_ r)
  | .select n patch g => do
    match ← w.group g patch with
    | none => pure j
    | some grp => do
      let x ← w.select n patch g grp j.cut
      pure (then_ (x, []))
  | .kids n patch lam left first k m => do
    let ts ← w.kidTask n patch lam left first k m
    pure (then_ (j.cut, ts))
  | .sort => pure (then_ (j.cut, (keptKeys j.raw j.cut).1.map .entry ++ [.outputs]))
  | .entry key => do
    let e ← w.entry key
    pure { j with entries := j.entries ++ [e] }
  | .outputs => w.outputs j

-- ---------------------------------------------------------------- the engine

/-- The engine of a die. -/
def State.ridge (s : State) (die : Nat) : Ridge := nth s.ridges die ⟨none, [], 0, false, [0, 0, 0, 0]⟩

/-- The port of an engine for a context (R436, R437). It reads for no grid: the number is none that sr.grid can hold. -/
def ridgePort (die ctx : Nat) (dead : List (Nat × Nat)) (strict : Bool) : Port := ⟨die, ⟨ctx, 2 ^ 32⟩, none, dead, strict⟩

/-- Puts a job on the engine. -/
def State.putJob (s : State) (die : Nat) (j : RidgeJob) : State := s.updRidge die fun x => { x with cur := some j }

/-- Suspends the current job on a faulting request (R437, R447): the record has NP, and the request lies in the replay queue. While that is full
the request waits for a place (R371): the engine makes it again. -/
def State.suspendJob (s : State) (die : Nat) (j : RidgeJob) (cls va n detail : Nat) (write : Bool) : State :=
  if 1024 ≤ s.replayCount die then s.putJob die j
  else
    let seq := s.nextSeqOf die j.ctx
    let r := { s.deviceRecord j.ctx cls detail va 0 with nrep := 1 }
    let s1 := s.postRecord die r
    let j1 := { j with fault := some (va, n, write), parked := some seq }
    let s2 := s1.updRidge die fun x => { x with cur := none, suspended := x.suspended ++ [j1] }
    { s2 with replays := s2.replays ++ [{ die := die, seq := seq, ctx := j.ctx, what := .engine die j.ctx j.id, cls := cls, ir := false, va := va }] }

/-- RIDGELINE_ENGINE_WAKE (R423): a write performed in the granule of a ring's PW wakes the engine. -/
def execRidgelineEngineWake (s : State) : Host.Outcome State Fault Refusal :=
  let die := s.arg 0
  .next (s.updRidge die fun x => { x with awake := true })

/-- log2 of the entries of a context's job ring for a die; 0 without a ring (R423). -/
def Ctx.ridgeSize (c : Ctx) (die : Nat) : Nat :=
  let n := bits (nth c.rljc die 0).toNat 0 4
  if 3 ≤ n ∧ n ≤ 12 then n else 0

/-- What the engine finds at a context's ring (R423, R424): the ring, the consumer count and the descriptor of a posted entry. -/
def Port.posted (p : Port) (c : Ctx) : Run (Option (Nat × Nat × Nat)) := do
  let n := c.ridgeSize p.die
  if n = 0 then pure none
  else
    let base := bits (nth c.rljb p.die 0).toNat 7 45 * 128
    let cw ← p.read (base + 64) 8
    let e ← p.read (base + 128 + 8 * (cw.1 % 2 ^ n)) 8
    if bits e.1 0 2 = 1 then pure (some (base, cw.1, bits e.1 9 43 * 512)) else pure none

/-- The contexts in the engine's rotation: resident, ascending after the one served last, none with a suspended job (R417, R424).
Where it begins after reset the spec does not say: after context 0 (DESIGN CHOICE, log 45). -/
def State.ridgeOrder (s : State) (die : Nat) : List Ctx :=
  let x := s.ridge die
  let cs := sortBy (fun a b => decide (a.num < b.num)) (s.ctxs.filter fun c =>
    c.resident && decide (c.ridgeSize die ≠ 0) && ! (x.suspended.any fun j => decide (j.ctx = c.num)))
  (cs.filter fun c => decide (x.last < c.num)) ++ cs.filter fun c => decide (c.num ≤ x.last)

/-- A job as the engine accepts it (R424, R475). -/
def newJob (id ctx base cw desc : Nat) (todo : List RidgeTask) (queries : List Nat) : RidgeJob :=
  { id := id, ctx := ctx, ring := base, cw := cw, desc := desc, raw := 0, hdr := 0, got := [], todo := todo, cut := ⟨[], 0, 0, 0, [], []⟩,
    entries := [], writes := [], handoffs := [], code := 0, stats := [0, 0, 0, 0, 0, 0], prim := 0, cull := 0, passes := 0,
    queries := queries, taken := none, islandGot := [], commits := [], computed := false, dead := [], fault := none, parked := none,
    ending := false, doneVa := none, counted := false }

/-- Goes on with the current job, at most so many tasks of it (R417, R436): a fault suspends it where it stands (R437). -/
def State.computeJob (s : State) (die : Nat) : Nat → RidgeJob → State
  | 0, j => s.putJob die j
  | fuel + 1, j => match j.todo with
    | [] => s.putJob die j
    | t :: rest =>
      match ((ridgePort die j.ctx [] true).task (s.boundImage j.ctx 0).isSome { j with todo := rest } t).run ⟨s, j.got⟩ with
      | .error (.fault r cls va n _) => r.st.suspendJob die { j with got := r.got } cls va n 4 false
      | .error (.wait r) => r.st.putJob die { j with got := r.got }
      | .ok (j1, r) => r.st.computeJob die fuel { j1 with got := r.got, fault := none }

/-- The tasks a step performs at most when it names no number. -/
def ridgeTasks : Nat := 4096

/-- Takes the entry at CW of the first context of the rotation whose entry is posted (R424); with none, the engine sleeps until a wake. A ring
that cannot be read suspends the engine's work for its context. -/
def State.takeJob (s : State) (die tasks : Nat) : List Ctx → State
  | [] => s.updRidge die fun x => { x with awake := false }
  | c :: rest =>
    let id := s.nextId
    let serve (s : State) : State := ({ s with nextId := id + 1 }).updRidge die fun x => { x with last := c.num }
    match ((ridgePort die c.num [] true).posted c).run ⟨s, []⟩ with
    | .ok (some (base, cw, desc), r) =>
      (serve r.st).computeJob die tasks (newJob id c.num base cw desc [.descriptor] (s.probes c.num desc))
    | .ok (none, _) => s.takeJob die tasks rest
    | .error (.fault r cls va n _) => (serve r.st).suspendJob die (newJob id c.num 0 0 0 [.ring] []) cls va n 4 false
    | .error (.wait r) => r.st

/-- The counts of a job are added when it ends with CODE 1, 2 or 5, before the release of DONE (R474). -/
def State.addJobCounts (s : State) (die : Nat) (j : RidgeJob) : State :=
  if j.code = 1 ∨ j.code = 2 ∨ j.code = 5 then s.addStats die j.ctx j.prim j.cull j.passes j.queries else s

/-- Performs the current job's writes in turn, suspending it on a fault (R436, R437). The write of DONE comes after its counts, and wakes the
waiters armed on it (R424, R474). -/
def State.ridgeWrites (s : State) (die : Nat) : Nat → RidgeJob → State
  | 0, j => s.putJob die j
  | fuel + 1, j => match j.writes with
    | [] => s.putJob die j
    | (va, n, v) :: rest =>
      match s.writeVa die j.ctx (n / 64 + 2) va n v with
      | (s1, some (cls, a)) => s1.suspendJob die j cls a (min n 64) 5 true
      | (s1, none) =>
        let j1 := { j with writes := rest, fault := none }
        if j.ending ∧ j.doneVa = some va ∧ n = 8 ∧ j.counted = false then
          ((s1.wakeVa die j.ctx va).addJobCounts die j).ridgeWrites die fuel { j1 with counted := true }
        else s1.ridgeWrites die fuel j1

/-- Resumes a job whose request has been answered from where it stood (R437); the engine's work for a context whose ring could not be read is
over, and the ring is read again. -/
def State.resumeJob (s : State) (die : Nat) (j : RidgeJob) : State :=
  let s1 := s.updRidge die fun x => { x with suspended := x.suspended.filter fun y => decide (y.id ≠ j.id), awake := true }
  if j.todo.head? = some .ring then s1 else s1.putJob die j

/-- Whether the entry at CW of a context's ring can be read and is posted (R423, R424). -/
def State.ringPosted (s : State) (die : Nat) (c : Ctx) : Bool :=
  match ((ridgePort die c.num [] true).posted c).run ⟨s, []⟩ with
  | .ok (some _, _) => true
  | _ => false

/-- RIDGELINE_JOB_ACCEPT (R423, R424, R429, R430, R436, R437): an idle engine resumes a suspended job that may go on (DESIGN CHOICE, log 45), or
takes the next posted entry, awake or not, and works through its tasks, so many as the step names; a busy one goes on with its tasks, then
makes its writes. -/
def execRidgelineJobAccept (s : State) : Host.Outcome State Fault Refusal :=
  let die := s.arg 0
  let tasks := if s.arg 1 = 0 then ridgeTasks else s.arg 1
  let x := s.ridge die
  match x.cur with
  | some j =>
    if ! j.computed then .next (s.computeJob die tasks j)
    else if j.ending then .next s
    else .next (s.ridgeWrites die (j.writes.length + 1) j)
  | none =>
    match x.suspended.find? fun j => j.parked.isNone with
    | some j => .next (s.resumeJob die j)
    | none =>
      let ring := s.ridgeOrder die
      let open_ := if x.awake then ring else ring.filter (s.ringPosted die)
      if x.awake || ! open_.isEmpty then .next (s.takeJob die tasks open_) else .next s

/-- The record of a hand-off as its island reads it (R433). -/
def HandOff.record (h : HandOff) (job : Nat) : Nat :=
  valOfWords [h.pos, h.cl, h.inst + h.bin * 2 ^ 16, 0] + h.crec * 2 ^ 128 + job * 2 ^ 192

/-- A raster island takes the next record of a job's streams (R433, R446): one more acceptance, one more in the sequence of the stream. -/
def State.takeHandoff (s : State) (die ctx : Nat) (x : Island) (h : HandOff) : State :=
  (s.takeIsland x ctx).updRidge die fun y => { y with seqs := y.seqs.set h.isl (nth y.seqs h.isl 0 + 1) }

/-- The commits of the record that a raster island holds for a job are performed in turn (R435, R475); with all done, the island is free of
it. -/
def State.commitRecord (s : State) (die : Nat) (j : RidgeJob) (rest : List HandOff) : State :=
  match s.commitAll ⟨j.ctx, 2 ^ 32⟩ die none (! j.queries.isEmpty) j.commits with
  | (s1, left, passes, why) =>
    let j1 := { j with commits := left, passes := j.passes + passes, fault := none }
    match why with
    | some (.fault _ cls va n _) => s1.suspendJob die j1 cls va n 3 true
    | some (.wait _) => s1.putJob die j1
    | none => s1.putJob die { j1 with handoffs := rest, dead := [], taken := none, islandGot := [] }

/-- A raster island runs its image on the record it holds for a job (R444, R447, R448, R449): the counts of an entry are those of its lowest
bin (R474), and its commits follow. -/
def State.drawRecord (s : State) (die : Nat) (j : RidgeJob) (h : HandOff) (rest : List HandOff) : State :=
  match s.ctx? j.ctx, (s.island 0 (4 * die + h.isl)).img with
  | some c, some img =>
    (match c.bound with
     | none => s
     | some b =>
      match ((ridgePort die j.ctx j.dead false).image b img 1 (h.record j.desc)).run ⟨s, j.islandGot⟩ with
      | .error (.fault r cls va n _) => r.st.suspendJob die { j with islandGot := r.got } cls va n 4 false
      | .error (.wait r) => r.st.putJob die { j with islandGot := r.got }
      | .ok (g, r) =>
        let counted (n : Nat) : Nat := if h.lowest then n else 0
        r.st.commitRecord die { j with
          commits := g.drawn.commits
          prim := j.prim + counted g.drawn.prim
          cull := j.cull + counted g.drawn.cull } rest)
  | _, _ => s

/-- RASTER_HANDOFF_RECORD (R433, R435, R444, R446, R447, R449, R474, R475): a raster island of the context takes the stream's next record and runs
its image on it, and its commits are performed before the next one. -/
def execRasterHandoffRecord (s : State) : Host.Outcome State Fault Refusal :=
  let die := s.arg 0
  match (s.ridge die).cur with
  | none => .next s
  | some j =>
    if ! j.computed || j.ending || ! j.writes.isEmpty then .next s
    else match j.handoffs with
      | [] => .next s
      | h :: rest =>
        let x := s.island 0 (4 * die + h.isl)
        if ! j.commits.isEmpty then .next (s.commitRecord die j rest)
        else if j.taken.isSome then .next (s.drawRecord die j h rest)
        else if ! x.takes j.ctx (s.boundImage j.ctx 0) (s.cycleOf die) then .next (s.waitIsland x j.ctx)
        else
          let s1 := { s.takeHandoff die j.ctx x h with nextId := s.nextId + 1 }
          .next (s1.drawRecord die { j with taken := some s.nextId } h rest)

/-- The writes that end a job, in order (R424, R425): the status area but for RST, DONEV to DONE, the entry and CW; and the address of DONE,
none where its read was cancelled (log 13). -/
def Port.endWrites (p : Port) (j : RidgeJob) (size : Nat) : Run (List (Nat × Nat × Nat) × Option Nat) := do
  let d ← p.read (j.desc + 0x1F0) 16
  let done := if d.2 then none else some (rdword d.1 8)
  let put (va : Nat) : Nat × Nat × Nat := (va, 8, rdword d.1 0)
  pure ([(j.desc + 0x100, 1, j.code), (j.desc + 0x104, 24, valOfWords j.stats)] ++ done.toList.map put ++
    [(j.ring + 128 + 8 * (j.cw % 2 ^ size), 8, j.desc + (if j.code = 3 then 3 else 2)), (j.ring + 64, 8, (j.cw + 1) % 2 ^ 64)], done)

/-- A job with nothing left to write or hand off forms the writes of its end (R424); DONE and DONEV are read now if its descriptor never was. -/
def State.beginEnd (s : State) (die : Nat) (j : RidgeJob) : State :=
  let size := match s.ctx? j.ctx with
    | some c => c.ridgeSize die
    | none => 0
  match ((ridgePort die j.ctx j.dead true).endWrites j size).run ⟨s, j.got⟩ with
  | .error (.fault r cls va n _) => r.st.suspendJob die { j with got := r.got } cls va n 4 false
  | .error (.wait r) => r.st.putJob die { j with got := r.got }
  | .ok (w, r) => r.st.putJob die { j with ending := true, writes := w.1, doneVa := w.2, fault := none }

/-- RIDGELINE_JOB_END (R424, R474): a job with nothing left to write or hand off writes its status, adds its counts, writes DONE, waking its
waiters, its entry and CW, and leaves the engine. -/
def execRidgelineJobEnd (s : State) : Host.Outcome State Fault Refusal :=
  let die := s.arg 0
  match (s.ridge die).cur with
  | none => .next s
  | some j =>
    if ! j.computed then .next s
    else if ! j.ending then
      if ! j.writes.isEmpty || ! j.handoffs.isEmpty then .next s else .next (s.beginEnd die j)
    else if j.writes.isEmpty then .next (s.updRidge die fun x => { x with cur := none, awake := true })
    else .next (s.ridgeWrites die (j.writes.length + 1) j)

end Machine
end Sys2Proof
end

