-- ==== Sys2Proof/Machine/Save.lean ====
section
/-! DEFINITION. The context image (R382, R383): the records of its grids, teams, threads, convergence registers, shares, queues, slices,
parked requests and deposits (R138, R208, R209, R236 to R238, R336 to R338, R361, R370), as bytes. -/

namespace Sys2Proof
namespace Machine

-- ---------------------------------------------------------------- pieces

/-- Zero bytes that bring a record to a multiple of 8 bytes. -/
def pad8 (bs : List Byte) : List Byte := bs ++ List.replicate ((8 - bs.length % 8) % 8) 0

/-- A list of fields of a number of bits each, the first in the lowest bits, as bytes padded to 8. -/
def packBits (width : Nat) (l : List Nat) : List Byte :=
  let per := 8 / width
  let byte (i : Nat) : Byte := BitVec.ofNat 8 (((l.drop (i * per)).take per).zipIdx.foldl (fun v x => v + x.1 * 2 ^ (width * x.2)) 0)
  pad8 ((List.range (ceilDiv l.length per)).map byte)

/-- The scratchpad of a team (R383): data, presence, pending counts, cairn tags, poison. -/
def Team.scratchRecord (t : Team) : List Byte :=
  let lines := List.range (t.scr * 32)
  let grans := List.range (t.scr * 128)
  memBytes t.scratch 0 (t.scr * 4096)
    ++ packBits 1 (lines.map fun l => if t.lines.any (fun c => decide (c.line = l)) then 0 else 1)
    ++ packBits 4 (lines.map fun l => match t.lines.find? fun c => decide (c.line = l) with
        | some c => c.count % 16
        | none => 0)
    ++ packBits 1 (grans.map fun g => (t.tags.contains g).toNat)
    ++ packBits 1 (grans.map fun g => (t.poison.contains g).toNat)

/-- The state and the park reason of a status record (R383). A thread that waits for something else while records of its park are open is
parked on those, but a reply of SVC it still waits for comes first (R510; log 16). -/
def Thread.codes (t : Thread) : Nat × Nat :=
  match t.st with
  | .blocked => (1, 0)
  | .parked .service => (2, 3)
  | .parked w =>
    if ! t.openParks.isEmpty then (2, 1)
    else match w with
      | .fault => (2, 1)
      | .absentLine _ => (2, 2)
      | .yielding => (2, 4)
      | _ => (0, 0)
  | _ => (0, 0)

/-- The operations of a class still outstanding (R383). -/
def Thread.undone (t : Thread) (c : KClass) : Nat := (t.outstanding.filter fun k => decide (k.cls = c) && ! k.done).length

/-- The counter classes in the order of their fields (R187, R383). -/
def kClasses : List KClass := [.ld, .st, .cp, .mx, .is, .ws]

/-- The status record of a thread (R383). -/
def Thread.statusRecord (t : Thread) : List Byte :=
  let c := t.codes
  let seq := if t.st.isParked then nth t.openParks 0 0 else 0
  leBytes 4 (t.id.rank + c.1 * 2 ^ 16 + c.2 * 2 ^ 18) ++ leBytes 4 seq
    ++ leBytes 8 (kClasses.zipIdx.foldl (fun v k => v + min (t.undone k.1) 63 * 2 ^ (6 * k.2)) 0)

/-- The mask of a thread's registers that a test picks. -/
def Thread.regMask (t : Thread) (p : Nat → Bool) : Nat :=
  (List.range t.budget).foldl (fun m n => if p n then m + 2 ^ n else m) 0

/-- The register record of a thread (R138, R139). -/
def Thread.registerRecord (t : Thread) (forced : Bool) : List Byte :=
  let live (n : Nat) : Bool := ! nth t.dead n false
  let saved (n : Nat) : Bool := forced || live n
  let preds := (List.range 12).foldl (fun m k => if nth t.preds k false then m + 2 ^ k else m) 0
  pad8 (leBytes 8 (t.regMask live) ++ leBytes 8 (t.regMask saved)
    ++ leBytes 4 (preds + Nat.log2 (t.budget / 8) * 2 ^ 12 + t.latch.length * 2 ^ 14)
    ++ leBytes 4 t.fpc.toNat ++ leBytes 4 t.fps.toNat ++ leBytes 4 (nth t.latch 0 0).toNat ++ leBytes 4 (nth t.latch 1 0).toNat
    ++ leBytes 4 0 ++ ((List.range t.budget).filter saved).flatMap fun n => leBytes 4 (t.reg n))

/-- The control record of a thread (R208). -/
def Thread.controlRecord (t : Thread) : List Byte :=
  let n := min 4 t.csd.toNat
  let slot (k : Nat) : LinkSlot := if k < n then nth t.ls k .empty else .empty
  let value (k : Nat) : Nat := match slot k with
    | .pc a => a.toNat % 2 ^ 52
    | _ => 0
  let marked (k : Nat) : Bool := match slot k with
    | .mark _ _ => true
    | _ => false
  leBytes 8 t.pc.toNat ++ leBytes 4 t.csd.toNat ++ leBytes 4 t.ssp.toNat ++ (List.range 4).flatMap (fun k => leBytes 8 (value k))
    ++ leBytes 4 t.signed.toNat ++ leBytes 4 ((List.range 4).foldl (fun m k => if marked k then m + 2 ^ k else m) 0)

/-- The D field of a word. -/
def wordD (w : Word) : Nat := bits w.toNat 20 6

/-- The killed TRACEs or ISUBs of a thread or of a queue, in issue order: the operation's word with the submission. -/
def State.killed (s : State) (p : Op → IslandJob → Bool) : List (Op × IslandJob) :=
  s.ops.filterMap fun o => match o.body with
    | .island id => (s.jobs.find? fun j => decide (j.id = id) && p o j).map fun j => (o, j)
    | _ => none

/-- What tells a submission of a team from others in an image: the queue of an ISUB, or 8 and the rank of a TRACE; among those of one key the
image keeps the issue order (R336, R338). -/
def IslandJob.key (j : IslandJob) : Nat := if j.trace then 8 + j.thr.rank else j.queue

/-- The trace record of a thread, when it has one (R338). -/
def State.traceRecord (s : State) (t : Thread) : List Byte :=
  if t.tdep = 0 ∧ t.fsize = 0 then []
  else
    leBytes 4 t.tdep.toNat ++ leBytes 4 t.fbase.toNat ++ leBytes 4 t.fsize.toNat ++ leBytes 4 0
      ++ (s.killed fun _ j => j.trace && decide (j.thr = t.id)).flatMap fun x =>
        leBytes 4 (wordD x.1.word) ++ leBytes 4 x.2.ctl ++ leBytes 32 (x.2.recd % 2 ^ 256) ++ leBytes 8 0

/-- The 24 bytes of a deposit (R209, R238). -/
def depositRecord (word rc en a b : Nat) (matrix : Bool) : List Byte :=
  leBytes 8 (word + rc * 2 ^ 32 + en * 2 ^ 35)
    ++ (if matrix then leBytes 8 (a % 2 ^ 32 + b % 2 ^ 32 * 2 ^ 32) ++ leBytes 8 0 else leBytes 8 a ++ leBytes 8 b)

/-- The nibble of a member (R209). -/
def Member.nibble (m : Member) : Nat :=
  (match m.st with
   | .undeclared => 0 | .declared => 1 | .signed => 2 | .withdrawn => 3) + (if m.dep.isSome then 4 else 0)

/-- The convergence record of register n (R209); none when it is Free. -/
def ConvReg.record (c : ConvReg) (n : Nat) : Option (List Byte) :=
  let k : Nat := match c.kind with
    | .free => 0 | .range => 1 | .mask => 2
  if k = 0 then none
  else
    let lohi := if k = 1 then c.lo.toNat + c.hi.toNat * 2 ^ 16 else c.base.toNat
    some (leBytes 4 (k + n * 4) ++ leBytes 4 c.phase.toNat ++ leBytes 4 lohi ++ leBytes 4 0
      ++ leBytes 8 (if k = 2 then c.mask.toNat else 0) ++ packBits 4 (c.members.map Member.nibble)
      ++ c.members.flatMap fun m => match m.dep with
        | some d => depositRecord d.word.toNat d.rc d.en d.a d.b d.isMatrix
        | none => [])

/-- Tiles of a team: those of its record, none for a relaunch team (R210, R355). -/
def LaunchRec.tiles (r : LaunchRec) (team : Nat) : Nat := if team < 2 ^ 31 then r.acn64 + r.acn32 else 0

/-- The share records of a team (R236). -/
def Team.shareRecords (t : Team) (r : LaunchRec) : List Byte :=
  (List.range (r.tiles t.id.team)).flatMap fun tile =>
    let wide := decide (tile < r.acn64)
    (List.range t.np).flatMap fun tp =>
      let listed := t.elems.filter fun p => decide (p.tile = tile) && decide (p.site = tp)
      let el (i : Nat) : Elem := match listed.find? fun p => decide (p.idx = i) with
        | some p => p.el
        | none => Elem.zero
      leBytes 4 (tile + wide.toNat * 8 + tp * 16) ++ leBytes 4 0
        ++ (List.range 1024).flatMap fun i => leBytes (elemSize wide) ((el i).image wide)

/-- Slots an entry claims for one of its operands (R237): A is the first claim when A names a queue. -/
def EngineEntry.claimA (e : EngineEntry) : Nat := if srcQueue e.a then (nth e.claims 0 (0, 0)).2 else 0

/-- Slots an entry claims for B. -/
def EngineEntry.claimB (e : EngineEntry) : Nat :=
  if srcQueue e.b then (nth e.claims (if srcQueue e.a then 1 else 0) (0, 0)).2 else 0

/-- The pending matrix record of an entry that has fired and not started (R237). -/
def EngineEntry.pendingRecord (e : EngineEntry) : List Byte :=
  pad8 (depositRecord e.word.toNat e.rc e.en e.a e.b true ++ leBytes 4 (e.claimA + e.claimB * 2 ^ 16) ++ leBytes 2 (mxSet e.word)
    ++ leBytes 2 e.members.length ++ (e.members.map fun m => m.1.rank).flatMap fun r => leBytes 2 r)

/-- Code of a producer (R336). -/
def Producer.code : Producer → Nat
  | .slice => 0 | .island => 1 | .thread => 2

/-- Code of a slot state (R336). -/
def SlotState.code : SlotState → Nat
  | .empty => 0 | .reserved => 1 | .ready => 2

/-- The slots of a queue that matrix firings have claimed (R219, R313): the oldest, then those the next reservations take. -/
def OpQueue.claimedSlots (q : OpQueue) : List Nat :=
  let empty := ((List.range 16).map fun i => (q.tail.toNat + i) % 16).filter fun i => decide ((q.slot i).st = .empty)
  q.order.take q.claims ++ empty.take (q.claims - q.order.length)

/-- The queue record of queue n of a team (R336). -/
def State.queueRecord (s : State) (t : Team) (n : Nat) : List Byte :=
  let q := t.queue n
  let jobs := s.killed fun _ j => ! j.trace && decide (j.thr.teamId = t.id) && decide (j.queue = n)
  let claimed := q.claimedSlots
  let word (i : Nat) : Nat :=
    let x := q.slot i
    let req := jobs.findIdx fun j => j.2.slots.contains i
    let idx := if x.st = .reserved ∧ x.prod = .island then req % 16 else 0
    x.st.code + (claimed.contains i).toNat * 4 + x.poison.toNat * 8 + x.prod.code * 16 + idx * 64
  leBytes 4 (q.tail.toNat + q.limit.toNat * 16 + q.sheld.toNat * 2 ^ 9 + n * 2 ^ 14) ++ leBytes 4 jobs.length
    ++ (List.range 16).flatMap (fun i => leBytes 4 (word i))
    ++ (List.range 16).flatMap (fun i => if (q.slot i).st = .ready then leBytes 256 (q.slot i).data.toNat else [])
    ++ jobs.flatMap fun j => leBytes 4 j.2.ctl ++ leBytes 4 j.2.cf ++ leBytes 8 0 ++ leBytes 64 (j.2.recd % 2 ^ 512)

/-- The slice record (R337). Latched hints are not part of it: APC names the first of them, which the slice takes again (log 16). -/
def Slice.record (x : Slice) : List Byte :=
  let run : Nat := match x.run with
    | .running => 0 | .exited => 1 | .stopped => 2
  let level (i : Nat) : List Byte := match x.loops[i]? with
    | some l => leBytes 8 l.start.toNat ++ leBytes 4 l.cnt.toNat ++ leBytes 4 l.it.toNat
    | none => leBytes 16 0
  leBytes 8 (x.apc - BitVec.ofNat 52 (4 * x.latch.length)).toNat ++ (List.range 8).flatMap (fun i => leBytes 8 (nth x.x i 0).toNat)
    ++ leBytes 4 (run + x.loops.length * 4) ++ (List.range 4).flatMap level
    ++ (List.range 32).flatMap (fun i => leBytes 4 (nth x.strides i 0).toNat) ++ leBytes 4 0

-- ---------------------------------------------------------------- parked requests

/-- A replay record from its fields (R370). -/
def replayBytes (kind cls : Nat) (ir : Bool) (size seq va dest team rank data word cairn : Nat) : List Byte :=
  leBytes 4 (kind + cls % 256 * 16 + ir.toNat * 2 ^ 12 + Nat.log2 size * 2 ^ 16) ++ leBytes 4 seq ++ leBytes 8 va ++ leBytes 8 dest
    ++ leBytes 4 team ++ leBytes 4 rank ++ leBytes 16 data ++ leBytes 4 word ++ leBytes 4 cairn ++ leBytes 8 0

/-- KIND of an access (R370): PIN and UNPIN count as loads. -/
def AccKind.replayKind : AccKind → Nat
  | .store | .spill => 2
  | .atom _ | .cas => 3
  | .flush | .inv => 6
  | _ => 1

/-- The address word of the other side of a copy request (R306, R370). -/
def State.otherSide (s : State) (c : Copy) (r : CopyReq) (write : Bool) : Nat :=
  let sp := if write then c.srcS else c.dstS
  let a := if write then c.srcAddr r.chunk else c.dstAddr r.chunk
  let peer := if write then c.srcTeam else (nth c.recvs 0 ⟨c.srcTeam, 0, 0, 0⟩).team
  let far := decide (sp = .s) && decide (peer ≠ c.thr.teamId) && decide (c.kind ≠ 1)
  let core := match s.team? peer with
    | some t => t.core
    | none => 0
  a + (if far then 2 ^ 20 + core % 2 * 2 ^ 21 else 0)

/-- The replay record of a parked request (R370); none for those of engines and islands, whose work is killed (R335, R438). -/
def State.replayRecord (s : State) (r : Replay) : Option (List Byte) :=
  match r.what with
  | .op id => (s.op? id).bind fun o => match o.body with
    | .mem a =>
      let dest := nth o.dests 0 0
      some (replayBytes a.kind.replayKind r.cls r.ir a.size r.seq r.va dest o.thr.team o.thr.rank
        (a.data % 256 ^ 16 + if a.kind = .cas then a.data2 % 256 ^ a.size * 256 ^ a.size else 0) o.word.toNat 0)
    | _ => none
  | .copy id req => (s.copy? id).bind fun c => (c.reqs.find? fun q => decide (q.id = req)).map fun q =>
      let write := decide (c.dstS = .g) && decide (r.va = c.dstAddr q.chunk) && ! (decide (c.srcS = .g) && decide (r.va = c.srcAddr q.chunk))
      replayBytes 4 r.cls r.ir q.chunk.n r.seq r.va (s.otherSide c q write) c.thr.team c.thr.rank 0 c.word.toNat c.cairn.toNat
  | .slice t req => (s.team? t).bind fun tm => (tm.sliceReq req).map fun p =>
      replayBytes 5 r.cls r.ir p.2.n r.seq p.2.va (p.1.queue + p.1.slot * 8 + p.2.row * 128) t.team 0 0 p.1.word.toNat 0
  | .done _ a v => some (replayBytes 2 r.cls true 8 r.seq a 0 0 0 v 0 0)
  | .engine _ _ _ => none
  | .island _ => none

/-- The team a parked request belongs to. -/
def State.replayTeam (s : State) (r : Replay) : Option TeamId :=
  match r.what with
  | .op id => (s.op? id).map fun o => o.thr.teamId
  | .copy id _ => (s.copy? id).map fun c => c.thr.teamId
  | .slice t _ => some t
  | _ => none

/-- A slice read with a parked request is saved whole: its other requests park with it (R335; log 16). -/
def State.parkReads (s : State) (t : Team) : State :=
  match t.slice with
  | none => s
  | some sl => sl.reads.foldl (fun s r =>
      match r.reqs.findSome? fun q => match q.st with
        | .parked n => some n
        | _ => none with
      | none => s
      | some seq =>
        let rest := r.reqs.filter fun q => match q.st with
          | .parked _ => false
          | _ => true
        rest.foldl (fun s q =>
          let s1 := s.updReq t.id q.id fun y => { y with st := .parked seq }
          { s1 with replays := s1.replays ++
              [{ die := dieOf t.core, seq := seq, ctx := t.id.ctx, what := .slice t.id q.id, cls := 0, ir := false, va := q.va }] }) s) s

-- ---------------------------------------------------------------- teams, grids, the image

/-- Records of a team posted and not answered (R372). -/
def State.openRecords (s : State) (t : TeamId) : List FRec :=
  s.recs.filter fun r => decide (r.ctx = t.ctx) && decide (r.grid = t.grid) && decide (r.team = t.team)

/-- The section of a saved team (R383). -/
def State.teamSection (s : State) (t : Team) (r : LaunchRec) : List Byte :=
  let forced := t.frozen.getD false
  let ths := sortBy (fun a b : Thread => decide (a.id.rank < b.id.rank))
    (s.threads.filter fun x => decide (x.id.teamId = t.id) && decide (x.st ≠ .exited))
  let convs := t.crs.zipIdx.filterMap fun c => c.1.record c.2
  let reps := s.replays.filterMap fun x => if s.replayTeam x = some t.id then s.replayRecord x else none
  let faults := s.openRecords t.id
  let body := t.scratchRecord
    ++ ths.flatMap (fun x => x.statusRecord ++ x.registerRecord forced ++ x.controlRecord ++ s.traceRecord x)
    ++ convs.flatten ++ t.shareRecords r
    ++ (t.engine.filter fun e => decide (e.kind = 0) && ! e.started).flatMap EngineEntry.pendingRecord
    ++ (List.range 8).flatMap (s.queueRecord t)
    ++ (match t.slice with
        | some x => x.record
        | none => [])
    ++ reps.flatten ++ faults.flatMap FRec.bytes
  leBytes 4 t.id.team ++ leBytes 4 (t.core + t.spanning.toNat * 2 ^ 8 + forced.toNat * 2 ^ 9) ++ leBytes 4 ths.length ++ leBytes 4 convs.length
    ++ leBytes 4 reps.length ++ leBytes 4 faults.length ++ leBytes 8 (32 + body.length) ++ body

/-- The deposit records of a batch under its number within the save (R361). -/
def ReBatch.records (b : ReBatch) (number : Nat) : List Byte :=
  b.deps.flatMap fun d =>
    leBytes 8 d.entry.toNat ++ leBytes 4 (d.key + d.payload.length * 2 ^ 16 + d.bud * 2 ^ 20) ++ leBytes 4 d.team ++ leBytes 4 d.rank
      ++ leBytes 4 (number % 2 ^ 16 + b.anchor.getD b.core * 2 ^ 16) ++ ((List.range 8).flatMap fun i => leBytes 4 (nth d.payload i 0).toNat)

/-- The placed teams of a grid, in ascending number. -/
def State.teamsOf (s : State) (g : GridId) : List Team :=
  sortBy (fun a b : Team => decide (a.id.team < b.id.team)) (s.teams.filter fun t => decide (t.id.ctx = g.ctx) && decide (t.id.grid = g.grid))

/-- The batches of a grid, in ascending k (R361). -/
def State.savedBatches (s : State) (g : GridId) : List ReBatch :=
  sortBy (fun a b : ReBatch => decide (a.k < b.k)) (s.batches.filter fun b => decide (b.grid = g))

/-- A grid's part of the image (R382); `first` is the number within the save of its first batch (R361). -/
def State.gridSection (s : State) (g : Grid) (first : Nat) : List Byte :=
  let teams := s.teamsOf g.id
  let batches := s.savedBatches g.id
  g.raw ++ leBytes 4 g.id.grid ++ leBytes 4 g.nextTeam ++ leBytes 4 teams.length ++ leBytes 4 g.relaunch
    ++ leBytes 4 (batches.map fun b => b.deps.length).sum ++ leBytes 12 0 ++ teams.flatMap (fun t => s.teamSection t g.launch)
    ++ batches.zipIdx.flatMap fun b => b.1.records (first + b.2)

/-- The grids of a context that a save takes, in ascending sr.grid (R382, R360). -/
def State.savedGrids (s : State) (ctx : Nat) : List Grid :=
  sortBy (fun a b : Grid => decide (a.id.grid < b.id.grid)) (s.grids.filter fun g => decide (g.id.ctx = ctx) && ! g.kernelMode && ! g.saved)

/-- The parts of a list of grids, their batches numbered one after another. -/
def State.gridSections (s : State) : List Grid → Nat → List Byte
  | [], _ => []
  | g :: gs, first => s.gridSection g first ++ s.gridSections gs (first + (s.savedBatches g.id).length)

/-- The last section (R382): held records, and open records with NP that no saved team's section holds, in SEQ order, and their requests. -/
def State.looseSection (s : State) (ctx : Nat) : List Byte :=
  let teams := (s.teams.filter fun t => decide (t.id.ctx = ctx) && ! s.kernelMode ⟨t.id.ctx, t.id.grid⟩).map (·.id)
  let mine := (s.held.filterMap fun h => if h.record.ctx = ctx then some h.record else none)
    ++ s.recs.filter fun r => decide (r.ctx = ctx) && r.np && ! teams.contains ⟨r.ctx, r.grid, r.team⟩
  let recs := sortBy (fun a b : FRec => decide (a.seq < b.seq)) mine
  let reps := recs.flatMap fun r => s.replays.filterMap fun x =>
    if x.ctx = ctx ∧ x.seq = r.seq ∧ ! (match s.replayTeam x with
      | some t => teams.contains t
      | none => false) then s.replayRecord x else none
  recs.flatMap FRec.bytes ++ reps.flatten

/-- The whole image of a context, with a status (R382). -/
def State.image (s : State) (c : Ctx) (st : Nat) : List Byte :=
  let grids := s.savedGrids c.num
  let body := s.gridSections grids 0 ++ s.looseSection c.num
  leBytes 4 1 ++ leBytes 4 c.num ++ leBytes 8 (64 + body.length) ++ leBytes 4 grids.length ++ leBytes 4 c.cores.length ++ leBytes 4 st
    ++ leBytes 36 0 ++ body

end Machine
end Sys2Proof
end

