-- ==== Sys2Proof/Machine/Preempt.lean ====
section
/-! DEFINITION. Pre-emption (R378 to R381): the request, the freeze of teams, the drain, and the end of a save; and the resumption of frozen
teams. -/

namespace Sys2Proof
namespace Machine

/-- Whether a team belongs to what a save of a context takes: pre-emption never applies to kernel-mode grids (R360, R381). -/
def State.preemptable (s : State) (ctx : Nat) (t : Team) : Bool := decide (t.id.ctx = ctx) && ! s.kernelMode ⟨t.id.ctx, t.id.grid⟩

/-- ST becomes 2 once every placed team of a requested context is frozen (R378, R379). -/
def State.startSaving (s : State) (ctx : Nat) : State :=
  if s.teams.all fun t => ! s.preemptable ctx t || t.frozen.isSome then
    s.updCtx ctx fun c => if c.preq ∧ c.pstat = 1 then { c with pstat := 2 } else c
  else s

/-- PREEMPT_REQUEST (R378, R379): a write of PREQ.REQ while the context is live and ST is 0, 5 or 6; each core starts the deadline of its
teams. -/
def execPreemptRequest (s : State) : Host.Outcome State Fault Refusal :=
  let ctx := s.arg 0
  match s.ctx? ctx with
  | none => .next s
  | some c =>
    if c.live ∧ (c.pstat = 0 ∨ c.pstat = 5 ∨ c.pstat = 6) then
      let dl (t : Team) : Nat := match s.launchOf ⟨t.id.ctx, t.id.grid⟩ with
        | some r => r.dl
        | none => 0
      let start (t : Team) : Team :=
        if s.preemptable ctx t ∧ t.frozen.isNone then { t with deadline := some (s.now t.core + dl t * 256) } else t
      let s1 := { s with teams := s.teams.map start }.updCtx ctx fun x => { x with preq := true, pstat := 1 }
      .next (s1.startSaving ctx)
    else .next s

/-- Whether REQ stands for a team (R379). -/
def State.requested (s : State) (t : Team) : Bool :=
  s.preemptable t.id.ctx t && (match s.ctx? t.id.ctx with
    | some c => c.preq
    | none => false)

/-- Freezes a team (R379). -/
def State.freeze (s : State) (t : TeamId) (forced : Bool) : State :=
  (s.updTeam t fun x => { x with frozen := some forced }).startSaving t.ctx

/-- Whether every thread of a team that has not exited is Parked or Blocked (R379). -/
def State.still (s : State) (t : TeamId) : Bool := s.teamAll t fun st => st.isParked || decide (st = .blocked)

/-- TEAM_FREEZE (R379): a team of a requested context freezes cooperatively. -/
def execTeamFreeze (s : State) : Host.Outcome State Fault Refusal :=
  let team := s.argTeam 0
  match s.team? team with
  | none => .next s
  | some t => .next (if s.requested t && t.frozen.isNone && s.still team then s.freeze team false else s)

/-- PREEMPT_DEADLINE (R379): the deadline of a team expires, and it freezes for a forced save. -/
def execPreemptDeadline (s : State) : Host.Outcome State Fault Refusal :=
  let team := s.argTeam 0
  match s.team? team with
  | none => .next s
  | some t =>
    let due := match t.deadline with
      | some d => decide (d ≤ s.now t.core)
      | none => false
    .next (if s.requested t && t.frozen.isNone && due then s.freeze team true else s)

-- ---------------------------------------------------------------- the drain

/-- Whether an operation no longer keeps a save waiting (R287, R335, R380): its request is parked, it waits for a reply, or it is island
work. A FENCE or a LAUNCH whose release waits on a parked access is none of these, and the save waits for it (DESIGN CHOICE, log 16). -/
def Op.drained (o : Op) : Bool :=
  match o.body, o.stage with
  | .mem _, .parked _ => true
  | .reply, _ => true
  | .island _, _ => true
  | _, _ => false

/-- Whether a request of an engine is parked. -/
def ReqStage.isParked : ReqStage → Bool
  | .parked _ => true
  | _ => false

/-- Whether a copy has each of its undelivered requests parked (R312). -/
def Copy.drained (c : Copy) : Bool := c.todo.isEmpty && ! c.reqs.isEmpty && c.reqs.all fun r => r.st.isParked

/-- Whether a slice read has arrived but for parked requests (R335). -/
def SliceRead.drained (r : SliceRead) : Bool :=
  r.reqs.all (fun q => q.st.isParked || decide (q.st = .got)) && r.reqs.any fun q => q.st.isParked

/-- Whether a team is frozen and drained (R236, R380). -/
def State.teamDrained (s : State) (t : Team) : Bool :=
  t.frozen.isSome
    && s.ops.all (fun o => decide (o.thr.teamId ≠ t.id) || o.drained)
    && s.copies.all (fun c => decide (c.thr.teamId ≠ t.id) || c.drained)
    && t.engine.all (fun e => decide (e.kind = 0) && ! e.started)
    && (match t.slice with
      | some sl => sl.reads.all SliceRead.drained
      | none => true)

/-- The requests of a slice read that is saved whole that have to park with the parked ones (R335; log 16). -/
def SliceRead.toPark (r : SliceRead) : Nat :=
  if r.reqs.any (fun q => q.st.isParked) then (r.reqs.filter fun q => ! q.st.isParked).length else 0

/-- Whether the replay queues have room for the requests that park with others of their slice read (R362, R371). -/
def State.parkRoom (s : State) (ctx : Nat) : Bool :=
  [0, 1].all fun die =>
    let more := (s.teams.filter fun t => s.preemptable ctx t && decide (dieOf t.core = die)).map fun t => match t.slice with
      | some sl => (sl.reads.map SliceRead.toPark).sum
      | none => 0
    decide (s.replayCount die + more.sum ≤ 1024)

/-- Whether a context is drained: its teams, the accesses of its threads that have left, the writes they observed (R287), and the end of its
Ridgeline jobs. -/
def State.drained (s : State) (ctx : Nat) : Bool :=
  s.teams.all (fun t => ! s.preemptable ctx t || s.teamDrained t)
    && s.ops.all (fun o => decide (o.thr.ctx ≠ ctx) || s.kernelMode o.thr.gridId || o.drained)
    && s.threads.all (fun t => decide (t.id.ctx ≠ ctx) || s.kernelMode t.id.gridId || s.observedDone t.id)
    && s.parkRoom ctx
    && s.ridges.all fun x => match x.cur with
      | some j => decide (j.ctx ≠ ctx) || ! j.ending
      | none => true

-- ---------------------------------------------------------------- the save

/-- Ends the grids of a context that are over (R48, R381). -/
def State.endGrids (s : State) (ctx : Nat) : State :=
  (s.savedGrids ctx).foldl (fun s g => match s.grid? g.id with
    | some x => if s.gridOver x then s.endGrid x else s
    | none => s) s

/-- Forms batches from every reorder group of a context, by fuel (R361). -/
def State.formAll (s : State) (ctx : Nat) : Nat → State
  | 0 => s
  | n + 1 => match s.reorder.find? fun d => decide (d.grid.ctx = ctx) with
    | none => s
    | some d => (s.formBatch d.core d.grid d.entry d.bud).formAll ctx n

/-- The counts of a killed run are discarded, also those added already (R474). -/
def State.dropJobCounts (s : State) (die : Nat) (j : RidgeJob) : State :=
  let minus (n : Nat) : Nat := 2 ^ 64 - n % 2 ^ 64
  if j.counted ∧ (j.code = 1 ∨ j.code = 2 ∨ j.code = 5) then s.addStats die j.ctx (minus j.prim) (minus j.cull) (minus j.passes) j.queries else s

/-- Kills the Ridgeline jobs of a context at its save (R438): CODE 0, and RST one more than it was; the entry stays posted. -/
def State.saveRidge (s : State) (ctx : Nat) : State :=
  let again (die : Nat) (s : State) (j : RidgeJob) : State :=
    if j.ctx ≠ ctx ∨ j.todo.head? = some .ring then s
    else
      let s1 := s.dropJobCounts die j
      match s1.read1k die ctx (j.desc + 0x100) 4 with
      | .ok v _ => (s1.writeVa die ctx 2 (j.desc + 0x100) 4 ((bits v 8 8 + 1) % 256 * 2 ^ 8)).1
      | .fault _ _ => s1
  ([0, 1].foldl (fun s die => (s.ridgeJobs die).foldl (again die) s) s).killRidge ctx

/-- Posts the PRE record of each team whose entry is Open or that has unanswered records (R372). -/
def State.postPre (s : State) (ctx : Nat) : State :=
  (s.teams.filter fun t => s.preemptable ctx t && (decide (t.entry = .opened) || ! (s.openRecords t.id).isEmpty)).foldl (fun s t =>
    let r := s.deviceRecord ctx 0 t.posted 0 t.id.grid
    s.postRecord (dieOf t.core) { r with ent := true, pre := true, team := t.id.team }) s

/-- Frees the resources of a saved context (R381): its teams, operations, parked requests and records now lie in its image. Its grids keep
their parameters and the issue order of their submissions (R335), and their records the store entries they have (R344). -/
def State.dropSaved (s : State) (ctx : Nat) : State :=
  let gone (g : GridId) : Bool := decide (g.ctx = ctx) && ! s.kernelMode g
  let idle (x : Island) : Island := { x with waiting := x.waiting.filter fun c => decide (c ≠ ctx) }
  let sizes (g : Grid) : List (Nat × Nat) := (s.teamsOf g.id).filterMap fun t =>
    if t.id.team < 2 ^ 31 then none
    else (s.threads.find? fun x => decide (x.id.teamId = t.id)).map fun x => (t.id.team - 2 ^ 31, x.tsize)
  let subs (g : Grid) : List (Nat × Nat) :=
    (s.killed fun _ j => decide (j.thr.gridId = g.id)).map fun p => (p.2.thr.team, p.2.key)
  let shelve (g : Grid) : Grid := if gone g.id then { g with saved := true, sizes := sizes g, subs := subs g, ks := (s.savedBatches g.id).map (·.k), reserved := [], waiting := [] } else g
  { s with
    grids := s.grids.map shelve
    teams := s.teams.filter fun t => ! gone ⟨t.id.ctx, t.id.grid⟩
    threads := s.threads.filter fun t => ! gone t.id.gridId
    ops := s.ops.filter fun o => ! gone o.thr.gridId
    copies := s.copies.filter fun c => ! gone c.thr.gridId
    replays := s.replays.filter fun r => decide (r.ctx ≠ ctx)
    held := s.held.filter fun h => ! gone ⟨h.record.ctx, h.record.grid⟩
    recs := s.recs.filter fun r => ! gone ⟨r.ctx, r.grid⟩
    reorder := s.reorder.filter fun d => ! gone d.grid
    batches := s.batches.filter fun b => ! gone b.grid
    jobs := s.jobs.filter fun j => ! gone j.thr.gridId
    consts := s.consts.filter fun x => ! gone x.grid
    islands := s.islands.map idle }

/-- PSTAT leaves 1 and 2 with a status, and the device clears REQ (R378). -/
def State.leaveSave (s : State) (ctx st need : Nat) : State :=
  let s1 := s.updCtx ctx fun c => { c with preq := false, pstat := st, pneed := if need = 0 then c.pneed else BitVec.ofNat 32 need }
  { s1 with teams := s1.teams.map fun t => if t.id.ctx = ctx then { t with deadline := none } else t }

/-- What the drain does to a context before its size is known (R380): waiters released (R302), L1s written back (R287), batches formed
(R361). -/
def State.drainOut (s : State) (ctx : Nat) : State :=
  let s1 := s.releaseWaiters (s.waiters.filter fun w => decide (w.thr.ctx = ctx) && ! s.kernelMode w.thr.gridId)
  let s2 := ((s1.savedGrids ctx).flatMap fun g => g.placedCores.map clusterOf).dedup.foldl State.flushL1 s1
  s2.formAll ctx s2.reorder.length

/-- The state whose image is written: drained, its slice reads parked whole, and records that waited for the held store made (R366,
log 16). -/
def State.readyToSave (s : State) (ctx : Nat) : State :=
  let s1 := s.drainOut ctx
  let s2 := (s1.teams.filter fun t => s1.preemptable ctx t).foldl State.parkReads s1
  (s2.unposted.filter fun h => decide (h.record.ctx = ctx)).foldl State.admitOne s2

/-- A context leaves the machine in its image (R381, R384): the image is written, its PRE record posted, its teams, parked requests and open
records leave, nothing of it stays cached (R415), and its state is SAVED. -/
def State.saveOut (s : State) (ctx at_ st : Nat) (img : List Byte) : State :=
  let s2 := (s.saveRidge ctx).homeStore ctx at_ img
  let loose := s2.held.filter fun h => decide (h.record.ctx ≠ ctx)
  let s3 := ({ s2 with held := loose }.postPre ctx)
  let pre := s3.held.filter fun h => decide (h.record.ctx = ctx)
  let killed (o : NetOwner) : Bool := match o with
    | .slot c _ _ => decide (c = ctx)
    | _ => false
  let s4 := { (s3.dropSaved ctx).dropPayloads killed with held := loose ++ pre }
  (((s4.sweep ctx 0 allGranules).leaveSave ctx st 0).updCtx ctx fun x => { x with bound := none, jns := false }).releaseImages

/-- CONTEXT_SAVE_COMPLETE (R381): with every grid completed, ST 5; with the teams frozen and drained, the image is written and ST becomes
3 or 4, or is too large and ST becomes 6, with the teams drained and resident. -/
def execContextSaveComplete (s : State) : Host.Outcome State Fault Refusal :=
  let ctx := s.arg 0
  match s.ctx? ctx with
  | none => .next s
  | some c =>
    if ! c.preq ∨ (c.pstat ≠ 1 ∧ c.pstat ≠ 2) then .next s
    else
      let s0 := s.reapTeams.endGrids ctx
      if (s0.savedGrids ctx).isEmpty then .next (s0.leaveSave ctx 5 0)
      else if ! s0.drained ctx then .next (s0.startSaving ctx)
      else
        let s1 := s0.readyToSave ctx
        let st := if s1.teams.any fun t => s1.preemptable ctx t && t.frozen = some true then 4 else 3
        let img := s1.image (s1.page ctx) st
        if c.csas.toNat * 4096 < img.length then .next ((s0.drainOut ctx).leaveSave ctx 6 (ceilDiv img.length 4096))
        else
          .next (s1.saveOut ctx c.csab.toNat st img)

/-- GO_RESUME_FROZEN (R378, R381): a write of RCMD.GO while ST is 6: the frozen teams go on where they stand. -/
def execGoResumeFrozen (s : State) : Host.Outcome State Fault Refusal :=
  let ctx := s.arg 0
  match s.ctx? ctx with
  | none => .next s
  | some c =>
    if c.pstat ≠ 6 then .next s
    else
      let thaw (t : Team) : Team := if t.id.ctx = ctx then { t with frozen := none, deadline := none } else t
      let s1 := { s with teams := s.teams.map thaw }.updCtx ctx fun x => { x with pstat := 0 }
      let yielders := s1.threads.filter fun x => decide (x.id.ctx = ctx) && decide (x.st = .parked .yielding)
      .next (yielders.foldl (fun s x => s.wakeThread x.id) s1)

end Machine
end Sys2Proof
end

