-- ==== Sys2Proof/Machine/Restore.lean ====
section
/-! DEFINITION. Reading a context image back (R382 to R385): its parse, with the offset of the record at fault where it is ill-formed (R140,
R208, R209, R237, R336, R385), and the teams, threads, operations and requests it stands for. -/

namespace Sys2Proof
namespace Machine

-- ---------------------------------------------------------------- the cursor

/-- A parser over an image: the offset reached, or the offset of the record at fault. -/
abbrev Parse := StateT Nat (Except Nat)

/-- Where an image lies: home memory, its base and the end of what is read. -/
structure Src8 where
  home : List Host.Cell
  base : Nat
  size : Nat
  deriving DecidableEq, Repr

/-- The offset reached. -/
def here : Parse Nat := get

/-- Fails at an offset unless a condition holds. -/
def need (ok : Bool) (off : Nat) : Parse Unit := if ok then pure () else throw off

/-- The next n bytes, as one little-endian number. -/
def Src8.take (x : Src8) (n : Nat) : Parse Nat := do
  let o ← get
  need (decide (o + n ≤ x.size)) o
  set (o + n)
  pure (memRead x.home (x.base + o) n)

/-- A number of repetitions of a parser. -/
def timesP {α : Type} (p : Parse α) : Nat → Parse (List α)
  | 0 => pure []
  | n + 1 => do
    let a ← p
    let l ← timesP p n
    pure (a :: l)

/-- Skips to a multiple of 8 bytes from an offset. -/
def Src8.pad (x : Src8) (start : Nat) : Parse Unit := do
  let o ← get
  let _ ← x.take ((8 - (o - start) % 8) % 8)
  pure ()

/-- Field i of a packed array of fields of a width. -/
def packed (v width i : Nat) : Nat := bits v (width * i) width

/-- Bytes of a packed array of n fields, padded to 8. -/
def packedSize (width n : Nat) : Nat := roundUp (ceilDiv (width * n) 8) 8

-- ---------------------------------------------------------------- records

/-- A killed TRACE of a trace record (R338). -/
structure RawTrace where
  d : Nat
  ctl : Nat
  ray : Nat
  deriving DecidableEq, Repr

/-- The records of a saved thread (R138, R208, R338, R383). -/
structure RawThread where
  off : Nat
  rank : Nat
  st : Nat
  reason : Nat
  seq : Nat
  counts : Nat
  live : Nat
  bud : Nat
  preds : Nat
  latch : List Nat
  fpc : Nat
  fps : Nat
  regs : List Nat
  pc : Nat
  csd : Nat
  ssp : Nat
  ls : List Nat
  signed : Nat
  fr : Nat
  /-- The offset of its control record. -/
  control : Nat
  tdep : Nat
  fbase : Nat
  fsize : Nat
  traces : List RawTrace
  deriving DecidableEq, Repr

/-- A deposit (R209, R238): its word, rounding code, enables, A and B. -/
structure RawDep where
  word : Nat
  rc : Nat
  en : Nat
  a : Nat
  b : Nat
  deriving DecidableEq, Repr

/-- A convergence record (R209): its register, members with their nibbles, and the deposits in position order. -/
structure RawConv where
  n : Nat
  reg : ConvReg
  nibbles : List (Nat × Nat)
  deps : List RawDep
  deriving DecidableEq, Repr

/-- A pending matrix record (R237). -/
structure RawPend where
  dep : RawDep
  ca : Nat
  cb : Nat
  ranks : List Nat
  deriving DecidableEq, Repr

/-- An ISUB request of a queue record (R336). -/
structure RawSub where
  queue : Nat
  ctl : Nat
  cf : Nat
  recd : Nat
  slots : List Nat
  deriving DecidableEq, Repr

/-- A replay record (R370). -/
structure RawReplay where
  kind : Nat
  cls : Nat
  ir : Bool
  size : Nat
  seq : Nat
  va : Nat
  dest : Nat
  team : Nat
  rank : Nat
  data : Nat
  word : Nat
  cairn : Nat
  deriving DecidableEq, Repr

/-- A saved team (R383). -/
structure RawTeam where
  off : Nat
  team : Nat
  core : Nat
  spanning : Bool
  scratch : List Host.Cell
  lines : List LineCount
  tags : List Nat
  poison : List Nat
  threads : List RawThread
  convs : List RawConv
  elems : List ElemAt
  pend : List RawPend
  queues : List OpQueue
  subs : List RawSub
  slice : Option Slice
  replays : List RawReplay
  recs : List FRec
  deriving DecidableEq, Repr

/-- A saved deposit of the reorder unit, with its batch number and its saved core (R361). -/
structure RawReorder where
  dep : ReorderDep
  batch : Nat
  core : Nat
  deriving DecidableEq, Repr

/-- A grid of an image (R382). -/
structure RawGrid where
  off : Nat
  raw : Nat
  launch : LaunchRec
  grid : Nat
  next : Nat
  k : Nat
  teams : List RawTeam
  deps : List RawReorder
  deriving DecidableEq, Repr

/-- A parsed image. -/
structure RawImage where
  grids : List RawGrid
  recs : List FRec
  replays : List RawReplay
  deriving DecidableEq, Repr

/-- SEQ numbers of an image are read with this added, so that none meets a new one before it is re-posted. -/
def oldSeq : Nat := 2 ^ 64

/-- Classes of records posted before a word's sources are read (R112, R367). -/
def unread : List Nat := [clsIllegal, clsBudget, clsAbsent, clsCrossTeam]

/-- Classes of records that are tied to no team (R363): those of launches, dependences and restores. -/
def unteamed : List Nat := [clsLaunch, clsLaunchQueue, clsDepend, clsRestore]

/-- A fault record of an image (R367). -/
def Src8.record (x : Src8) : Parse FRec := do
  let hdr ← x.take 4
  let seq ← x.take 4
  let ctx ← x.take 4
  let grid ← x.take 4
  let team ← x.take 4
  let rr ← x.take 4
  let fpc ← x.take 8
  let ppc ← x.take 8
  let word ← x.take 4
  let l0 ← x.take 4
  let l1 ← x.take 4
  let detail ← x.take 4
  let addr ← x.take 8
  let opnd ← x.take 40
  let user ← x.take 8
  let nrep ← x.take 4
  let _ ← x.take 12
  let cls := hdr % 256
  pure { ctx := ctx, seq := seq + oldSeq, cls := cls, ir := bitAt hdr 8, as := bitAt hdr 9, dfr := bitAt hdr 10, np := bitAt hdr 11,
         ent := bitAt hdr 12, rst := true, pre := bitAt hdr 14, grid := grid,
         team := if bitAt hdr 11 && unteamed.contains cls then noTeam else team, rank := bits rr 0 14, role := bits rr 14 2,
         fpc := fpc, ppc := ppc, word := word, latch := [BitVec.ofNat 32 l0, BitVec.ofNat 32 l1], detail := detail, addr := addr,
         opnd := opnd, user := user, nrep := nrep, read := ! unread.contains cls }

/-- A replay record (R370). -/
def Src8.replay (x : Src8) : Parse RawReplay := do
  let o ← here
  let w ← x.take 4
  let seq ← x.take 4
  let va ← x.take 8
  let dest ← x.take 8
  let team ← x.take 4
  let rank ← x.take 4
  let data ← x.take 16
  let word ← x.take 4
  let cairn ← x.take 4
  let _ ← x.take 8
  let kind := bits w 0 4
  need (decide (1 ≤ kind) && decide (kind ≤ 6) && decide (bits w 16 4 ≤ 6)) o
  pure { kind := kind, cls := bits w 4 8, ir := bitAt w 12, size := 2 ^ bits w 16 4, seq := seq + oldSeq, va := va, dest := dest, team := team,
         rank := bits rank 0 14, data := data, word := word, cairn := cairn }

/-- A trace record (R338). -/
def Src8.trace (x : Src8) (t : RawThread) : Parse RawThread := do
  let w ← x.take 4
  let fb ← x.take 4
  let fs ← x.take 4
  let _ ← x.take 4
  let one : Parse RawTrace := do
    let d ← x.take 4
    let ctl ← x.take 4
    let ray ← x.take 32
    let _ ← x.take 8
    pure ⟨d % 64, ctl, ray⟩
  let l ← timesP one (w % 16)
  pure { t with tdep := w % 16, fbase := fb % 2 ^ 23, fsize := fs % 2 ^ 23, traces := l }

/-- Whether saved sr.fpc and sr.fps have their reserved bits 0 (R57, R60, R140). A rounding mode of 5 to 7, which no write can have left (R59), is
taken as given (R385; log 16). -/
def goodFp (fpc fps : Nat) : Bool := decide (fpc = fpc &&& fpcMask.toNat) && decide (fps = fps &&& fpsMask.toNat)

/-- Bytes of the scratch area that return PCs take at a call-stack depth (R189). -/
def spilled (csd : Nat) : Nat := 8 * (csd - 4)

/-- The status, register and control records of a thread (R138, R140, R208, R383); `bud` says whether a rank may have a
budget code, `area` how many bytes its scratch area has. -/
def Src8.thread (x : Src8) (area : Nat) (bud : Nat → Nat → Bool) : Parse RawThread := do
  let o ← here
  let w ← x.take 4
  let seq ← x.take 4
  let counts ← x.take 8
  need (decide (bits w 16 2 ≤ 2) && decide (bits w 18 4 ≤ 4)) o
  let r0 ← here
  let live ← x.take 8
  let saved ← x.take 8
  let st ← x.take 4
  let fpc ← x.take 4
  let fps ← x.take 4
  let l0 ← x.take 4
  let l1 ← x.take 4
  let z ← x.take 4
  let code := bits st 12 2
  let budget := budgetOf code
  need (decide (live &&& saved = live) && decide (saved < 2 ^ budget) && decide (bits st 14 2 ≠ 3) && decide (bits st 16 16 = 0)
    && decide (z = 0) && goodFp fpc fps && bud (w % 2 ^ 14) code) r0
  let vals ← timesP (x.take 4) (popcount budget saved)
  x.pad r0
  let c0 ← here
  let pc ← x.take 8
  let csd ← x.take 4
  let ssp ← x.take 4
  let ls ← timesP (x.take 8) 4
  let signed ← x.take 4
  let fr ← x.take 4
  let n := min 4 csd
  need (decide (pc < 2 ^ 52) && decide (csd < 2 ^ 20) && decide (ssp < 2 ^ 23) && decide (signed < 2 ^ 16) && decide (fr < 2 ^ n)
    && ls.all (fun v => decide (v < 2 ^ 52)) && (ls.drop n).all (fun v => decide (v = 0)) && decide (ssp % 8 = 0) && decide (spilled csd ≤ ssp) && decide (ssp ≤ area)) c0
  let idx (i : Nat) : Nat := popcount i (saved % 2 ^ i)
  pure { off := o, rank := w % 2 ^ 14, st := bits w 16 2, reason := bits w 18 4, seq := seq + oldSeq, counts := counts, live := live, bud := code,
         preds := bits st 0 12, latch := ([l0, l1].take (bits st 14 2)), fpc := fpc, fps := fps,
         regs := (List.range budget).map fun i => if bitAt saved i then nth vals (idx i) 0 else 0, pc := pc, csd := csd, ssp := ssp, ls := ls,
         signed := signed, fr := fr, control := c0, tdep := 0, fbase := 0, fsize := 0, traces := [] }

/-- The threads of a team, with what follows them. SSP counts the spilled return PCs and the FSIZE bytes of payload frames (R189, R325), so
that a trace record follows where SSP shows frames; a record of a TRACE without frames is read where the rest of the section fits with it,
and else none (log 16). -/
def Src8.threads {α : Type} (x : Src8) (area : Nat) (bud : Nat → Nat → Bool) (rest : List RawThread → Parse α) :
    Nat → List RawThread → Parse α
  | 0, acc => rest acc.reverse
  | n + 1, acc => do
    let t ← x.thread area bud
    need (match acc with
      | p :: _ => decide (p.rank < t.rank)
      | [] => true) t.off
    let o ← here
    let w := memRead x.home (x.base + o) 4
    let fs := memRead x.home (x.base + o + 8) 4
    let z := memRead x.home (x.base + o + 12) 4
    let may := decide (w < 16) && decide (w ≤ bits t.counts 24 6) && (decide (w ≠ 0) || decide (fs ≠ 0))
      && decide (fs = t.ssp - spilled t.csd) && decide (z = 0)
    let without : Parse α := do
      need (decide (t.ssp = spilled t.csd)) t.control
      x.threads area bud rest n (t :: acc)
    if may then
      let with_ : Parse α := do
        let t1 ← x.trace t
        x.threads area bud rest n (t1 :: acc)
      fun off => match with_ off with
        | .ok r => .ok r
        | .error _ => without off
    else without

/-- A deposit (R209, R238). -/
def Src8.deposit (x : Src8) : Parse RawDep := do
  let o ← here
  let w ← x.take 8
  let a ← x.take 8
  let b ← x.take 8
  need (decide (w / 2 ^ 41 = 0)) o
  pure ⟨w % 2 ^ 32, bits w 32 3, bits w 35 6, a, b⟩

/-- A convergence record (R209). -/
def Src8.conv (x : Src8) (tsize : Nat) : Parse RawConv := do
  let o ← here
  let w ← x.take 4
  let phase ← x.take 4
  let lh ← x.take 4
  let z ← x.take 4
  let mask ← x.take 8
  let kind := w % 4
  let lo := bits lh 0 14
  let hi := bits lh 16 14
  let ranks := if kind = 1 then rangeRanks lo hi else maskRanks lo mask
  need ((decide (kind = 1) || decide (kind = 2)) && decide (w / 2 ^ 6 = 0) && decide (z = 0) && decide (bits lh 14 2 = 0)
    && decide (bits lh 30 2 = 0) && (if kind = 1 then decide (lo ≤ hi) && decide (mask = 0) else decide (hi = 0) && decide (lo % 64 = 0))
    && ! ranks.isEmpty && ranks.all (fun r => decide (r < tsize))) o
  let nib ← x.take (packedSize 4 ranks.length)
  let nibs := (List.range ranks.length).map (packed nib 4)
  need (nibs.all fun v => decide (v < 8)) o
  let deps ← timesP x.deposit (nibs.filter fun v => bitAt v 2).length
  let reg : ConvReg := ⟨if kind = 1 then .range else .mask, if kind = 1 then BitVec.ofNat 14 lo else 0, BitVec.ofNat 14 hi,
    if kind = 1 then 0 else BitVec.ofNat 14 lo, BitVec.ofNat 64 mask, BitVec.ofNat 32 phase, []⟩
  pure ⟨bits w 2 4, reg, ranks.zip nibs, deps⟩

/-- A share record (R236): the elements that differ from the ACZERO state. -/
def Src8.share (x : Src8) (r : LaunchRec) (tile tp : Nat) : Parse (List ElemAt) := do
  let o ← here
  let wide := decide (tile < r.acn64)
  let w ← x.take 4
  let z ← x.take 4
  need (decide (w = tile + wide.toNat * 8 + tp * 16) && decide (z = 0)) o
  let at_ ← here
  need (decide (at_ + 1024 * elemSize wide ≤ x.size)) o
  set (at_ + 1024 * elemSize wide)
  pure ((List.range 1024).filterMap fun i =>
    let e := Elem.ofImage wide (memRead x.home (x.base + at_ + i * elemSize wide) (elemSize wide))
    if e = Elem.zero then none else some (ElemAt.mk tile tp i e))

/-- Whether a saved matrix deposit of a rank passes R220 and R221: a matrix word whose registers lie within the rank's budget, whose slot serves its
kind and whose class is its tile's, with source words in form and images inside the region. The rank is the lowest participant, whose deposit
is the one executed. -/
def RawDep.fits (d : RawDep) (l : LaunchRec) (span : Bool) (rank : Nat) : Bool :=
  let w : Word := BitVec.ofNat 32 d.word
  let x := Slot.ofWord (nth l.slots (mxSlot w) 0#32).toNat
  let np := if span then 8 else 4
  let a := d.a % 2 ^ 32
  let b := d.a / 2 ^ 32
  let budget := nth l.budgets rank 0
  decide (bits d.word 26 6 = 0x2C) && decide (bits d.word 20 6 < budget) && decide (bits d.word 14 6 < budget) && slotServes (mxKind w) x && decide (mxTile w < l.acn64 + l.acn32)
    && decide (x.matrixClass = some 0) == decide (mxTile w < l.acn64) && srcOk a && srcOk b
    && ! operandBeyond true np l.scr (mxKind w) x a && ! operandBeyond false np l.scr (mxKind w) x b

/-- Whether a list of numbers rises strictly. -/
def rising : List Nat → Bool
  | a :: b :: l => decide (a < b) && rising (b :: l)
  | _ => true

/-- The pending matrix records of a team, by fuel (R237): a queue record follows them, whose first word is below 2^17. A relaunch team has no tile
that one could name (R220, R355). -/
def Src8.pending (x : Src8) (r : LaunchRec) (span relaunch : Bool) (tsize : Nat) : Nat → Parse (List RawPend)
  | 0 => pure []
  | n + 1 => do
    let o ← here
    if memRead x.home (x.base + o) 4 < 2 ^ 17 then pure []
    else do
      let d ← x.deposit
      let cl ← x.take 4
      let cn ← x.take 2
      let k ← x.take 2
      need (decide (d.b = 0) && decide (cn < 16) && decide (k ≠ 0) && decide (k ≤ 2 ^ 14)) o
      let ranks ← timesP (x.take 2) k
      need (! relaunch && d.fits r span (nth ranks 0 0) && rising ranks && ranks.all (fun y => decide (y < tsize))) o
      x.pad o
      let l ← x.pending r span relaunch tsize n
      pure (⟨⟨d.word, d.rc, d.en, d.a % 2 ^ 32, d.a / 2 ^ 32⟩, cl % 2 ^ 16, cl / 2 ^ 16, ranks⟩ :: l)

/-- Whether a list of truth values is true up to a place and false from there on. -/
def truePrefix (l : List Bool) : Bool := (l.dropWhile id).all fun b => ! b

/-- Whether the claim bits of 16 slot words are those of the oldest slots, and, once all of them are claimed, of the Empty slots that the
next reservations take; and whether no slot after an unclaimed one that is not Empty is Empty, as a pop always takes the front (R219, R315). -/
def claimsInOrder (tail : Nat) (ws : List Nat) : Bool :=
  let walk := (List.range 16).map fun i => nth ws ((tail + i) % 16) 0
  let full := (walk.filter fun v => decide (v % 4 ≠ 0)).map fun v => bitAt v 2
  let free := (walk.filter fun v => decide (v % 4 = 0)).map fun v => bitAt v 2
  truePrefix (full ++ free) && (walk.dropWhile fun v => decide (v % 4 = 0) || bitAt v 2).all fun v => decide (v % 4 ≠ 0)

/-- A queue record (R336): the queue and its killed requests. A request has the slots that its control word counts among those that carry its
index modulo 16, after those of the requests before it (R323). -/
def Src8.queue (x : Src8) (n : Nat) : Parse (OpQueue × List RawSub) := do
  let o ← here
  let w ← x.take 4
  let k ← x.take 4
  let ws ← timesP (x.take 4) 16
  let lim := bits w 4 5
  need (decide (bits w 14 3 = n) && decide (w / 2 ^ 17 = 0) && decide (1 ≤ lim) && decide (lim ≤ 16) && decide (bits w 9 5 ≤ 16)
    && claimsInOrder (w % 16) ws && ws.all fun v => decide (v % 4 ≤ 2) && decide (bits v 4 2 ≤ 2) && decide (v / 2 ^ 10 = 0)
      && (decide (v % 4 ≠ 1) || decide (bits v 4 2 ≠ 1) || decide (bits v 6 4 < k))) o
  let data ← timesP (x.take 256) (ws.filter fun v => decide (v % 4 = 2)).length
  let reqs ← timesP (do
    let ctl ← x.take 4
    let cf ← x.take 4
    let _ ← x.take 8
    let recd ← x.take 64
    pure (ctl, cf, recd)) k
  let slot (i : Nat) : QSlot :=
    let v := nth ws i 0
    let before := ((ws.take i).filter fun u => decide (u % 4 = 2)).length
    { st := if v % 4 = 0 then .empty else if v % 4 = 1 then .reserved else .ready
      prod := if bits v 4 2 = 0 then .slice else if bits v 4 2 = 1 then .island else .thread
      freeFrom := 0, poison := bitAt v 3, data := if v % 4 = 2 then BitVec.ofNat 2048 (nth data before 0) else 0 }
  let q : OpQueue := ⟨(List.range 16).map slot, 0, BitVec.ofNat 4 w, BitVec.ofNat 5 lim, BitVec.ofNat 5 (bits w 9 5)⟩
  let nr (i : Nat) : Nat := bits ((reqs[i]?.map fun r => r.1).getD 0) 4 4
  let mine (i : Nat) : List Nat :=
    let marked := ((List.range 16).map fun j => (q.tail.toNat + j) % 16).filter fun j =>
      let v := nth ws j 0
      decide (v % 4 = 1) && decide (bits v 4 2 = 1) && decide (bits v 6 4 = i % 16)
    let before := (((List.range i).filter fun j => decide (j % 16 = i % 16)).map nr).sum
    (marked.drop before).take (nr i)
  pure (q, reqs.zipIdx.map fun r => ⟨n, r.1.1, r.1.2.1 % 2 ^ 9, r.1.2.2, mine r.2⟩)

/-- A slice record (R337). -/
def Src8.slice (x : Src8) : Parse Slice := do
  let o ← here
  let apc ← x.take 8
  let xs ← timesP (x.take 8) 8
  let w ← x.take 4
  let lv ← timesP (do
    let a ← x.take 8
    let c ← x.take 4
    let i ← x.take 4
    pure (LoopLevel.mk (BitVec.ofNat 52 a) (BitVec.ofNat 32 c) (BitVec.ofNat 32 i))) 4
  let st ← timesP (x.take 4) 32
  let _ ← x.take 4
  need (decide (apc < 2 ^ 52) && decide (w % 4 ≤ 2) && decide (bits w 2 3 ≤ 4) && decide (w / 2 ^ 5 = 0)) o
  pure { place := 0, apc := BitVec.ofNat 52 apc, x := xs.map (BitVec.ofNat 64), loops := lv.take (bits w 2 3), strides := st.map (BitVec.ofNat 32),
         run := if w % 4 = 0 then .running else if w % 4 = 1 then .exited else .stopped, latch := [], reads := [] }

/-- A saved team (R383). A relaunch team's records have no budget of the launch record to differ from: any code of RBUD is well-formed there, and
a rank below 2,048 (R140; DESIGN CHOICE, log 16). -/
def Src8.team (x : Src8) (r : LaunchRec) : Parse RawTeam := do
  let o ← here
  let team ← x.take 4
  let w ← x.take 4
  let nthr ← x.take 4
  let nconv ← x.take 4
  let nrep ← x.take 4
  let nrec ← x.take 4
  let size ← x.take 8
  let relaunch := decide (2 ^ 31 ≤ team)
  let scr := if relaunch then 0 else r.scr
  let span := r.spans && ! relaunch
  need (decide (bitAt w 8 = span) && (relaunch || decide (team < r.nteam)) && decide (nthr ≤ 2 ^ 14)
    && decide (nconv ≤ 16)) o
  let d0 ← here
  need (decide (d0 + scr * 4096 ≤ x.size)) o
  set (d0 + scr * 4096)
  let pres ← x.take (packedSize 1 (scr * 32))
  let pend ← x.take (packedSize 4 (scr * 32))
  let tag ← x.take (packedSize 1 (scr * 128))
  let poi ← x.take (packedSize 1 (scr * 128))
  let cells : List Host.Cell := (List.range (scr * 4096)).filterMap fun i =>
    let b := cellGet x.home (x.base + d0 + i)
    if b = unlisted then none else some (i, b)
  let lines := (List.range (scr * 32)).filterMap fun l =>
    if packed pres 1 l = 1 then none else some (LineCount.mk l (packed pend 4 l) false)
  let bud (rank code : Nat) : Bool :=
    if relaunch then decide (rank < 2048)
    else match roleOf r.roles 0 rank with
      | some y => decide (y.2.2.rbud = code)
      | none => false
  let rest (ths : List RawThread) : Parse RawTeam := do
    let convs ← timesP (x.conv (if relaunch then 2048 else r.tsize)) nconv
    let elems ← (List.range (r.tiles team)).foldlM (fun (acc : List ElemAt) tile =>
      (List.range (if span then 8 else 4)).foldlM (fun (acc : List ElemAt) tp => do
        let e ← x.share r tile tp
        pure (acc ++ e)) acc) []
    let pends ← x.pending r span relaunch (if relaunch then 2048 else r.tsize) 1024
    let qs ← (List.range 8).foldlM (fun (acc : List (OpQueue × List RawSub)) n => do
      let q ← x.queue n
      pure (acc ++ [q])) []
    let slice ← if r.aent ≠ 0 ∧ ! relaunch then (do
        let y ← x.slice
        pure (some y)) else pure none
    let reps ← timesP x.replay nrep
    let recs ← timesP x.record nrec
    let fin ← here
    need (decide (fin - o = size)) o
    pure { off := o, team := team, core := w % 256, spanning := span, scratch := cells, lines := lines,
           tags := (List.range (scr * 128)).filter fun g => decide (packed tag 1 g = 1),
           poison := (List.range (scr * 128)).filter fun g => decide (packed poi 1 g = 1), threads := ths, convs := convs, elems := elems,
           pend := pends, queues := qs.map (·.1), subs := qs.flatMap (·.2), slice := slice, replays := reps, recs := recs }
  x.threads (r.stks * 64) bud rest nthr []

/-- A deposit record of the reorder unit (R361). -/
def Src8.reorder (x : Src8) (g : GridId) : Parse RawReorder := do
  let o ← here
  let e ← x.take 8
  let w ← x.take 4
  let team ← x.take 4
  let rank ← x.take 4
  let b ← x.take 4
  let pay ← timesP (x.take 4) 8
  let n := bits w 16 4
  need (decide (e < 2 ^ 52) && decide (n ≤ 8) && decide (w / 2 ^ 22 = 0) && decide (rank < 2 ^ 14) && decide (b / 2 ^ 24 = 0)) o
  pure ⟨{ core := bits b 16 8, grid := g, entry := BitVec.ofNat 52 e, key := w % 2 ^ 16, payload := (pay.take n).map (BitVec.ofNat 32),
          bud := bits w 20 2, team := team, rank := rank, pos := 0 }, b % 2 ^ 16, bits b 16 8⟩

/-- A grid of an image (R382, R385): its launch record is checked by R47, and its sr.grid is no other grid's. -/
def Src8.grid (x : Src8) (ctx : Nat) (taken : List Nat) (last : Option Nat) : Parse RawGrid := do
  let o ← here
  let raw ← x.take 256
  let grid ← x.take 4
  let next ← x.take 4
  let nt ← x.take 4
  let k ← x.take 4
  let nd ← x.take 4
  let z ← x.take 12
  let r := LaunchRec.ofRaw raw
  need ((recordFlaw raw).isNone && decide (z = 0) && ! taken.contains grid && decide (next ≤ r.nteam) && (match last with
    | some l => decide (l < grid)
    | none => true)) o
  let teams ← timesP (x.team r) nt
  let ids := teams.map (·.team)
  let inOrder : List Nat := sortBy (fun (a b : Nat) => decide (a < b)) ids.dedup
  need (decide (ids = inOrder)) o
  let deps ← timesP (x.reorder ⟨ctx, grid⟩) nd
  pure ⟨o, raw, r, grid, next, k, teams, deps⟩

/-- The grids of an image, in ascending sr.grid. -/
def Src8.grids (x : Src8) (ctx : Nat) (taken : List Nat) : Nat → Option Nat → Parse (List RawGrid)
  | 0, _ => pure []
  | n + 1, last => do
    let g ← x.grid ctx taken last
    let l ← x.grids ctx taken n (some g.grid)
    pure (g :: l)

/-- Records not tied to a team, by fuel (R382): fault records in rising SEQ, then the replay records linked to them. -/
def Src8.loose (x : Src8) (ctx : Nat) : Nat → Nat → Parse (List FRec)
  | 0, _ => pure []
  | n + 1, last => do
    let o ← here
    let seq := memRead x.home (x.base + o + 4) 4
    if o + 128 ≤ x.size ∧ last < seq + 1 ∧ memRead x.home (x.base + o + 8) 4 = ctx ∧ memRead x.home (x.base + o) 4 < 2 ^ 15
        ∧ memRead x.home (x.base + o + 116) 12 = 0 then do
      let r ← x.record
      let l ← x.loose ctx n (seq + 1)
      pure (r :: l)
    else pure []

/-- The whole image (R382). -/
def Src8.image (x : Src8) (ctx : Nat) (taken : List Nat) : Parse RawImage := do
  let ver ← x.take 4
  let num ← x.take 4
  let size ← x.take 8
  let ng ← x.take 4
  let _ ← x.take 8
  let _ ← x.take 36
  need (decide (ver = 1) && decide (size = x.size)) 0
  let grids ← x.grids ctx taken ng none
  let recs ← x.loose num (x.size / 128 + 1) 0
  let o ← here
  need (decide ((x.size - o) % 64 = 0)) o
  let reps ← timesP x.replay ((x.size - o) / 64)
  pure ⟨grids, recs, reps⟩

end Machine
end Sys2Proof
end

