-- ==== Sys2Proof/Machine/Resume.lean ====
section
/-! DEFINITION. The restore of a context (R55, R56, R361, R384, R385) and the placement step of the control plane (R348): the teams of an
image become teams of the device, their threads, operations, copies, requests and records with them. -/

namespace Sys2Proof
namespace Machine

-- ---------------------------------------------------------------- what saved words stand for

/-- The access a word makes, with its destinations and its counter class: the address, the data and the translation are the request's. -/
def accessOf (w : Nat) (latch : List Word) : Option (Access × List Nat × KClass) :=
  let sem := modSem latch
  let ld (sp : Space) (sx : Bool) (size d : Nat) : Option (Access × List Nat × KClass) :=
    some ({ plainAccess (.load sx) sp 0 size (scopeOf sp (if sp = .s then .tm else .cl) (modScope latch)) with
      acq := decide (sem = 1), cp := if sp = .g then modCp latch else 0 }, (dataShape d size).regs, if sp = .w then .ws else .ld)
  let st (sp : Space) (size : Nat) : Option (Access × List Nat × KClass) :=
    some ({ plainAccess .store sp 0 size (scopeOf sp (if sp = .s then .tm else .cl) (modScope latch)) with
      rel := decide (sem = 2), cp := if sp = .g then modCp latch else 0 }, [], .st)
  let at_ (k : AccKind) (p wide : Bool) (sv d : Nat) : Option (Access × List Nat × KClass) :=
    let size := if wide then 8 else 4
    some ({ plainAccess k (atomSpace p) 0 size (atomScope p sv) with
      acq := decide (sem % 2 = 1), rel := decide (2 ≤ sem), cp := if p then 0 else modCp latch }, (Src.mk d (size / 4)).regs, .ld)
  match decodeRow w with
  | some (.ldGB32 d _ _ _ _ _) => ld .g false 4 d
  | some (.ldGB64 d _ _ _ _ _) => ld .g false 8 d
  | some (.ldSB32 d _ _ _ _ _) => ld .s false 4 d
  | some (.ldGeneral d _ _ _ _ p z) => ld (Space.ofCode p) (decide (5 ≤ z)) (sizeOfCode z) d
  | some (.stGB32 _ _ _ _ _ _) => st .g 4
  | some (.stGB64 _ _ _ _ _ _) => st .g 8
  | some (.stSB32 _ _ _ _ _ _) => st .s 4
  | some (.stGeneral _ _ _ _ _ p z) => st (Space.ofCode p) (sizeOfCode z)
  | some (.atom d _ _ p wide o sv) => at_ (.atom o) p wide sv d
  | some (.atomc d _ _ p wide sv) => at_ .cas p wide sv d
  | some (.cflush _ _) => some (plainAccess .flush .g 0 1 .cl, [], .st)
  | some (.cinv _ _) => some (plainAccess .inv .g 0 1 .cl, [], .st)
  | some (.pin d _ _) => some (plainAccess .pin .g 0 1 .dv, [d], .ld)
  | some (.unpin d _ _) => some (plainAccess .unpin .g 0 1 .dv, [d], .ld)
  | some (.call _ _ _) => some (plainAccess .spill .g 0 8 .th, [], .st)
  | some (.callx _ _) => some (plainAccess .spill .g 0 8 .th, [], .st)
  | _ => none

/-- The kind and the destinations of a deposit's word (R201 to R205, R220). -/
def depositOf (w : Nat) : Option (CollKind × List Nat) :=
  match decodeRow w with
  | some (.xshfIdx d _ _ _ _ _) => some (.shuffle 0, [d])
  | some (.xshfUp d _ _ _ _ _) => some (.shuffle 1, [d])
  | some (.xshfDown d _ _ _ _ _) => some (.shuffle 2, [d])
  | some (.xshfXor d _ _ _ _ _) => some (.shuffle 3, [d])
  | some (.xbcast d _ _ wide h _) => some (.bcast h wide, (Src.mk d (if wide then 2 else 1)).regs)
  | some (.xred d _ _ o _) => some (.red o, (redShape o d).regs)
  | some (.xscanInc d _ _ o _) => some (.scan false o, (redShape o d).regs)
  | some (.xscanExc d _ _ o _) => some (.scan true o, (redShape o d).regs)
  | some (.xvote d _ o _) => some (.vote o, (Src.mk d (if o = 3 then 2 else 1)).regs)
  | some (.mma _ _ _ p _ t) => some (.matrix 0 t p, [])
  | some (.mmas _ _ _ p _ t) => some (.matrix 1 t p, [])
  | some (.mmabXor _ _ _ p _ t) => some (.matrix 2 t p, [])
  | some (.mmabAnd _ _ _ p _ t) => some (.matrix 3 t p, [])
  | some (.mmac _ _ _ p _ t) => some (.matrix 4 t p, [])
  | _ => none

/-- Kind, destination and source space codes of a copy word (R305). -/
def copyShape (w : Nat) : Option (Nat × Nat × Nat) :=
  match decodeRow w with
  | some (.tcopy _ _ _ e sv) => some (0, e, sv)
  | some (.tcast _ _ _ sv) => some (1, 1, sv)
  | some (.tredBf16 _ _ _ e sv) => some (2, e, sv)
  | some (.tredF32 _ _ _ e sv) => some (3, e, sv)
  | _ => none

/-- Whether the deposits of a team are collectives or matrix deposits whose tile and slot its record has (R209, R220, R221, R237). -/
def RawDep.ok (d : RawDep) (r : LaunchRec) (np scr team : Nat) (matrix : Bool) : Bool :=
  match depositOf d.word with
  | some (.matrix k t p, _) =>
    let x := Slot.ofWord (nth r.slots p 0).toNat
    let a := if matrix then d.a else d.a % 2 ^ 32
    let b := if matrix then d.b else d.a / 2 ^ 32
    (matrix || decide (d.b = 0)) && slotServes k x && decide (t < r.tiles team)
      && decide (decide (x.matrixClass = some 0) = decide (t < r.acn64)) && srcOk a && srcOk b
      && ! operandBeyond true np scr k x a && ! operandBeyond false np scr k x b
  | some _ => ! matrix
  | none => false

/-- The offset of the first record of a team whose deposits are refused; none when all stand. -/
def RawTeam.flaw (t : RawTeam) (r : LaunchRec) : Option Nat :=
  let np := if t.spanning then 8 else 4
  let scr := if t.team < 2 ^ 31 then r.scr else 0
  if (t.convs.all fun c => c.deps.all fun d => d.ok r np scr t.team false) && (t.pend.all fun p => p.dep.ok r np scr t.team true)
  then none else some t.off

-- ---------------------------------------------------------------- assembly

/-- A new operation number. -/
def freshId : StateM Nat Nat := do
  let n ← get
  set (n + 1)
  pure n

/-- Runs an action on each element of a list. -/
def eachM {α β : Type} (f : α → StateM Nat β) : List α → StateM Nat (List β)
  | [] => pure []
  | a :: l => do
    let b ← f a
    let r ← eachM f l
    pure (b :: r)

/-- What the assembly of a grid's teams knows: the context, the grid, its record, its teams and every fault record of the image. -/
structure Build where
  ctx : Nat
  grid : Grid
  teams : List RawTeam
  recs : List FRec
  fresh : Nat
  deriving DecidableEq, Repr

/-- The fault record a request is linked to. -/
def Build.linked (x : Build) (seq : Nat) : Option FRec := x.recs.find? fun r => decide (r.seq = seq)

/-- The role of a rank. -/
def Build.role (x : Build) (team rank : Nat) : Nat :=
  if 2 ^ 31 ≤ team then 0 else match roleOf x.grid.launch.roles 0 rank with
    | some y => y.1
    | none => 0

/-- A blank operation of a thread at a word. -/
def Build.op (x : Build) (id team rank pos : Nat) (pc : Addr) (word : Nat) (latch : List Word) (body : OpBody) (cls : Option KClass) : Op :=
  { id := id, thr := ⟨x.ctx, x.grid.id.grid, team, rank⟩, role := x.role team rank, core := 0, part := 0, pos := pos, pc := pc,
    word := BitVec.ofNat 32 word, latch := latch, opnd := [], issued := 0, due := none, dests := [], vals := [], flags := 0, en := 0, rc := 0,
    late := true, holds := false, image := none, body := body, stage := .issued, cls := cls }

/-- The operation of a replay record of a load, store, atomic or line (R370, R384), at a program-order position. The image does not hold
whether a younger write had already reached its register: the replayed one is applied (R129; DESIGN CHOICE, log 16). -/
def Build.replayOp (x : Build) (pos : Nat) (p : RawReplay) : StateM Nat (Option (Op × Replay)) := do
  let id ← freshId
  let r := x.linked p.seq
  let latch := match r with
    | some y => y.latch
    | none => []
  let pc : Addr := match r with
    | some y => BitVec.ofNat 52 y.fpc
    | none => 0
  let opnd := match r with
    | some y => [bits y.opnd 0 64, bits y.opnd 64 64, bits y.opnd 128 64]
    | none => []
  match accessOf p.word latch with
  | none => pure none
  | some (a, dests, cls) =>
    let va := if a.space = .k then (p.va + 2 ^ 52 - x.grid.cbase) % 2 ^ 52 else p.va
    let acc : Access := { a with
      va := va, size := p.size, mask := 2 ^ p.size - 1, data := p.data % 256 ^ p.size
      data2 := if a.kind = .cas then p.data / 256 ^ p.size % 256 ^ p.size else 0 }
    let o := { x.op id p.team p.rank pos pc p.word latch (.mem acc) (some cls) with dests := dests, opnd := opnd, stage := .parked p.seq }
    pure (some (o, ⟨0, p.seq, x.ctx, .op id, p.cls, p.ir, p.va⟩))

/-- The team of a grid on a saved core, other than one (R307). -/
def Build.peer (x : Build) (core other : Nat) : Option Nat :=
  leastBy (fun a b => decide (a < b)) ((x.teams.filter fun t =>
    decide (t.team ≠ other) && (decide (t.core = core) || (t.spanning && decide (t.core + 1 = core)))).map (·.team))

/-- The part of a copy that one replay record stands for (R312, R370). The receivers of a TCAST, whose MASK no record holds, are free but in
a D grid, where R308 leaves the issuing team alone. -/
def Build.copyPart (x : Build) (t : RawTeam) (group : Nat) (p : RawReplay) : StateM Nat (Option (Copy × Replay)) := do
  let id ← freshId
  let req ← freshId
  match copyShape p.word with
  | none => pure none
  | some (kind, dc, sc) =>
    let r := x.linked p.seq
    let latch := match r with
      | some y => y.latch
      | none => []
    let srcS := copySpace sc
    let dstS := copySpace dc
    let write := (match r with
      | some y => decide (y.detail = AccCode.copyWrite.num)
      | none => false) || decide (srcS ≠ .g)
    let me : TeamId := ⟨x.ctx, x.grid.id.grid, p.team⟩
    let core := t.core + siteOf t.spanning p.rank / 4
    let far (sp : Space) : TeamId :=
      if peerBit sp p.dest then { me with team := (x.peer (core / 2 * 2 + bits p.dest 21 1) p.team).getD p.team } else me
    let mask := (Config.castMask (x.fresh + id)).toNat
    let casts := if x.grid.launch.det then []
      else ((onesFrom 64 0 mask).filterMap fun b => x.peer (dieOf core * 64 + b) (2 ^ 32)).dedup
    let recvs : List Receiver :=
      if kind = 1 ∧ ! casts.isEmpty then casts.map fun n => Receiver.mk { me with team := n } core 0 0
      else [Receiver.mk (if write then me else far dstS) core 0 0]
    let chunk : Chunk := ⟨0, 0, p.size⟩
    let c : Copy :=
      { id := id, group := group, pos := 0, thr := ⟨x.ctx, x.grid.id.grid, p.team, p.rank⟩, role := x.role p.team p.rank, core := core,
        kind := kind, srcS := srcS, dstS := dstS, src := if write then addrOf srcS p.dest else p.va,
        dst := if write then p.va else addrOf dstS p.dest, rowb := p.size, nrow := 1, sstr := 0, dstr := 0,
        cairn := BitVec.ofNat 32 p.cairn, scope := Scope.ofCode (modScope latch), cp := modCp latch,
        pc := match r with
          | some y => BitVec.ofNat 52 y.fpc
          | none => 0
        word := BitVec.ofNat 32 p.word, latch := latch, srcTeam := if write then far srcS else me, recvs := recvs, started := true, todo := [],
        piece := 0, reqs := [⟨req, chunk, 0, 0, 0, 0, .parked p.seq⟩], clean := [], skipped := false, walk := false, taken := 0,
        grants := [], slotAt := none, done := [] }
    pure (some (c, ⟨0, p.seq, x.ctx, .copy id req, p.cls, p.ir, p.va⟩))

/-- What tells the copies of a team apart: the thread, the word's place, the word and the cairn word. -/
def Build.copyKey (x : Build) (p : RawReplay) : Nat × Nat × Nat × Nat :=
  (p.rank, (match x.linked p.seq with
    | some y => y.fpc
    | none => 0), p.word, p.cairn)

/-- The slice reads of a team's replay records (R331, R370), each with its requests, and their entries in the replay queue. -/
def Build.sliceReads (x : Build) (t : RawTeam) : StateM Nat (List (SliceRead × List Replay)) := do
  let mine := t.replays.filter fun p => decide (p.kind = 5)
  let places := (mine.map fun p => (bits p.dest 0 3, bits p.dest 3 4)).dedup
  eachM (fun (q : Nat × Nat) => do
    let id ← freshId
    let here := mine.filter fun p => decide (bits p.dest 0 3 = q.1) && decide (bits p.dest 3 4 = q.2)
    let word := (here.head?.map (·.word)).getD 0
    let shape : Bool × Nat := match decodeRow word with
      | some (.aLdwq _ _ _ r) => (true, r)
      | some (.aLdq _ _ _ r) => (false, r)
      | _ => (false, 0)
    let rowSize := 256 / 2 ^ shape.2
    let start (row : Nat) : Nat := ((here.filter fun p => decide (bits p.dest 7 3 = row)).map (·.va)).foldl min (2 ^ 64)
    let rs ← eachM (fun (p : RawReplay) => do
      let rid ← freshId
      let row := bits p.dest 7 3
      let rq : SliceReq := ⟨rid, row, row * rowSize + (p.va - start row), p.size, p.va, 0, .parked p.seq⟩
      let rp : Replay := ⟨0, p.seq, x.ctx, .slice ⟨x.ctx, x.grid.id.grid, t.team⟩ rid, p.cls, p.ir, p.va⟩
      pure (rq, rp)) here
    let r := (here.head?.map fun p => x.linked p.seq).join
    let rd : SliceRead :=
      { id := id, queue := q.1, slot := q.2, weight := shape.1
        cp := match r with
          | some y => modCp y.latch
          | none => 0
        pc := match r with
          | some y => BitVec.ofNat 52 y.fpc
          | none => 0
        word := BitVec.ofNat 32 word
        latch := match r with
          | some y => y.latch
          | none => []
        reqs := rs.map (·.1) }
    pure (rd, rs.map (·.2))) places

/-- A submission to be made again (R335, R384). -/
def Build.job (x : Build) (id rank team cls ctl cf recd size queue : Nat) (slots : List Nat) (trace : Bool) (frame words : Nat) : IslandJob :=
  { id := id, cls := cls, isl := bits ctl 16 2, thr := ⟨x.ctx, x.grid.id.grid, team, rank⟩, core := 0, ctl := ctl, cf := cf, recd := recd,
    size := size, queue := queue, slots := slots, trace := trace, frame := frame, frameWords := words, buffered := false, got := [], dead := [],
    fault := none, parked := none, commits := [], prim := 0, cull := 0, passes := 0, queries := [], offered := false, left := [], result := none }

/-- The killed TRACEs of a thread: their frames lie below FBASE + FSIZE, the youngest highest (log 16). -/
def Build.traces (x : Build) (team : Nat) (t : RawThread) : StateM Nat (List (Op × IslandJob)) := do
  let budget := budgetOf t.bud
  let over_ (r : RawTrace) : Nat := r.d + 8 + bits r.ctl 0 5 - budget
  let above (i : Nat) : Nat := ((t.traces.drop i).map fun r => 8 * ceilDiv (over_ r) 2).sum
  eachM (fun (p : RawTrace × Nat) => do
    let id ← freshId
    let r := p.1
    let j := x.job id t.rank team 1 r.ctl 0 r.ray 64 0 [] true (t.fbase + t.fsize - above p.2) (over_ r)
    let o := { x.op id team t.rank 0 (BitVec.ofNat 52 t.pc) (r.d * 2 ^ 20) [] (.island id) (some .is) with
      dests := (Src.mk r.d (8 + bits r.ctl 0 5 - over_ r)).regs }
    pure (o, j)) t.traces.zipIdx

/-- Program-order position from which a restored thread goes on: above every restored operation of it. -/
def restoredPos : Nat := 2 ^ 16

/-- The outstanding operations of a class: the restored ones, as many as the status record counts (R383, R460). -/
def padEntries (c : KClass) (ids : List Nat) (n : Nat) : List KEntry :=
  let last := ids.getLast?
  ((ids.take n) ++ (match last with
    | some l => List.replicate (n - ids.length) l
    | none => [])).map fun i => ⟨c, i, false⟩

/-- A link slot of a control record: empty, a PC, or a refill to issue anew, whose offset stands for its address until the team is placed
(R208). -/
def RawThread.slot (t : RawThread) (refills : List Nat) (k : Nat) : LinkSlot :=
  if min 4 t.csd ≤ k then .empty
  else if bitAt t.fr k then .refill (nth refills k 0) (8 * (t.csd - 1 - k))
  else .pc (BitVec.ofNat 64 (nth t.ls k 0))

/-- The size of a restored relaunch team (R30, R355): its batch size, which its grid has kept since the save. The image does not hold it: for
a team that the grid does not know, it is a free value (log 16). -/
def Build.relaunchSize (x : Build) (k : Nat) : Nat :=
  match x.grid.sizes.find? fun p => decide (p.1 = k) with
  | some p => p.2
  | none => Config.relaunchSize (x.fresh + k)

/-- A restored thread, before its place is known (R140, R208, R383): the line that one waits for is found when its team is placed. -/
def Build.thread (x : Build) (t : RawTeam) (r : RawThread) (refills : List Nat) (known : KClass → List Nat) : Thread :=
  let relaunch := decide (2 ^ 31 ≤ t.team)
  let l := x.grid.launch
  let place : Nat × Nat := if relaunch then (0, r.rank) else match roleOf l.roles 0 r.rank with
    | some y => (y.1, y.2.1)
    | none => (0, 0)
  let tsize := if relaunch then x.relaunchSize (t.team - 2 ^ 31) else l.tsize
  let mine := (x.recs.filter fun f => ! f.np && decide (f.grid = x.grid.id.grid) && decide (f.team = t.team) && decide (f.rank = r.rank)).map (·.seq)
  let seqs := if mine.isEmpty ∧ r.seq ≠ oldSeq then [r.seq] else mine
  let st : TState := if r.st = 1 then .blocked else if r.st = 2 ∧ r.reason = 1 then .parked .fault
    else if r.st = 2 ∧ r.reason = 3 then .parked .service else if r.st = 2 ∧ r.reason = 2 then .parked (.absentLine 0) else .ready
  let counts := kClasses.zipIdx.flatMap fun k => padEntries k.1 (known k.1) (bits r.counts (6 * k.2) 6)
  { newThread ⟨x.ctx, x.grid.id.grid, t.team, r.rank⟩ place.1 place.2 tsize l.nteam 0 0 (budgetOf r.bud) (r.regs.map (BitVec.ofNat 32))
      (BitVec.ofNat 52 r.pc) 0 with
    dead := (List.range (budgetOf r.bud)).map fun n => ! bitAt r.live n
    preds := (List.range 12).map fun k => bitAt r.preds k
    fpc := BitVec.ofNat 32 r.fpc
    fps := BitVec.ofNat 32 r.fps
    latch := r.latch.map (BitVec.ofNat 32)
    pos := restoredPos
    st := st
    csd := BitVec.ofNat 20 r.csd
    ssp := BitVec.ofNat 23 r.ssp
    ls := (List.range 4).map (r.slot refills)
    signed := BitVec.ofNat 16 r.signed
    tdep := BitVec.ofNat 4 r.tdep
    fbase := BitVec.ofNat 23 r.fbase
    fsize := BitVec.ofNat 23 r.fsize
    outstanding := counts ++ ((List.range 4).filter fun k => bitAt r.fr k).map fun k => ⟨.ld, nth refills k 0, false⟩
    parks := if st.isParked then seqs.map fun q => ⟨q, none⟩ else [] }

/-- The refills a control record asks for (R208): one operation for each slot, used where FR is set. -/
def Build.refills (x : Build) (team : Nat) (r : RawThread) : StateM Nat (List Nat × List Op) := do
  let ids ← eachM (fun (_ : Nat) => freshId) (List.range 4)
  let ops := ((List.range 4).filter fun k => bitAt r.fr k && decide (k < min 4 r.csd)).map fun k =>
    { x.op (nth ids k 0) team r.rank (restoredPos - 1) (BitVec.ofNat 52 r.pc) 0 []
        (.mem (plainAccess .refill .g (8 * (r.csd - 1 - k)) 8 .th)) (some .ld) with stage := .walk }
  pure (ids, ops)

/-- The deposits of a convergence record (R209): members in position order. The deposit of a Withdrawn member is one it had signed (R198). No
record says where in its program a deposit stands: each stands right before its thread's next word (DESIGN CHOICE, log 16). -/
def Build.conv (_x : Build) (t : RawTeam) (c : RawConv) : StateM Nat (ConvReg × List (Nat × Nat)) := do
  let holders := c.nibbles.filter fun p => bitAt p.2 2
  let deps ← eachM (fun (p : (Nat × Nat) × RawDep) => do
    let id ← freshId
    let d := p.2
    let m := match depositOf d.word with
      | some (.matrix a b e, l) => (CollKind.matrix a b e, l)
      | some y => y
      | none => (CollKind.vote 0, [])
    let mx : Bool := match m.1 with
      | .matrix _ _ _ => true
      | _ => false
    let pc : Addr := match t.threads.find? fun y => decide (y.rank = p.1.1) with
      | some y => BitVec.ofNat 52 y.pc - 4
      | none => 0
    let dep : Deposit :=
      { kind := m.1, word := BitVec.ofNat 32 d.word, rc := d.rc, en := d.en, a := if mx then d.a % 2 ^ 32 else d.a,
        b := if mx then d.a / 2 ^ 32 else d.b, dests := m.2, pos := restoredPos - 1, pc := pc, latch := [], issued := 0,
        signed := decide (2 ≤ p.1.2 % 4), op := id }
    pure (p.1.1, dep, mx, id)) (holders.zip c.deps)
  let member (p : Nat × Nat) : Member :=
    { rank := p.1
      st := match p.2 % 4 with
        | 0 => .undeclared
        | 1 => .declared
        | 2 => .signed
        | _ => .withdrawn
      dep := (deps.find? fun d => decide (d.1 = p.1)).map fun d => d.2.1 }
  pure ({ c.reg with members := c.nibbles.map member }, (deps.filter fun d => d.2.2.1).map fun d => (d.1, d.2.2.2))

/-- A pending matrix record re-enters the engine order (R237). -/
def Build.pending (x : Build) (team : Nat) (p : RawPend) : StateM Nat EngineEntry := do
  let id ← freshId
  let thr (n : Nat) : ThreadId := ⟨x.ctx, x.grid.id.grid, team, n⟩
  let ms ← eachM (fun (n : Nat) => do
    let k ← freshId
    pure (thr n, k)) p.ranks
  let claims := (if srcQueue p.dep.a then [(bits p.dep.a 0 3, p.ca)] else []) ++ (if srcQueue p.dep.b then [(bits p.dep.b 0 3, p.cb)] else [])
  let tile := bits p.dep.word 3 3
  pure { id := id, kind := 0, word := BitVec.ofNat 32 p.dep.word, tile := tile, tile2 := tile, a := p.dep.a, b := p.dep.b, rc := p.dep.rc,
         en := p.dep.en, thr := thr (nth p.ranks 0 0), pos := restoredPos - 1, site := 0, members := ms, claims := claims, started := false,
         due := 0 }

/-- The submissions of a team in the order of some keys, which is that of their issue; any that the keys do not name come last. -/
def inIssueOrder : List Nat → List (Op × IslandJob) → List (Op × IslandJob)
  | [], l => l
  | k :: ks, l => match l.find? fun p => decide (p.2.key = k) with
    | some p => p :: inIssueOrder ks (l.filter fun q => decide (q.2.id ≠ p.2.id))
    | none => inIssueOrder ks l

/-- A saved team becomes a team to be placed (R384, R385). Its submissions are made again in the order its grid has kept since the save (R335);
the image does not hold the order between a thread's TRACEs and those of others, nor between queues (log 16). -/
def Build.team (x : Build) (t : RawTeam) : StateM Nat SavedTeam := do
  let accs ← eachM (fun (p : RawReplay × Nat) => x.replayOp (p.2 + 1) p.1)
    (t.replays.filter fun p => ! [4, 5].contains p.kind).zipIdx
  let accs := accs.filterMap id
  let copies := t.replays.filter fun p => decide (p.kind = 4)
  let seqs := (copies.map (·.seq)).dedup
  let keys := (copies.map x.copyKey).dedup
  let cps := (t.threads.map fun r => bits r.counts 12 6).sum
  let perSeq := decide (seqs.length = cps)
  let groups ← eachM (fun (_ : Nat) => freshId) (List.range (if perSeq then seqs.length else keys.length))
  let groupOf (p : RawReplay) : Nat :=
    nth groups (if perSeq then seqs.findIdx (fun q => decide (q = p.seq)) else keys.findIdx fun k => decide (k = x.copyKey p)) 0
  let parts ← eachM (fun (p : RawReplay) => x.copyPart t (groupOf p) p) copies
  let parts := parts.filterMap id
  let reads ← x.sliceReads t
  let traces ← eachM (fun (r : RawThread) => x.traces t.team r) t.threads
  let owners := t.threads.flatMap fun r => List.replicate (bits r.counts 24 6 - r.traces.length) r.rank
  let subs ← eachM (fun (p : RawSub × Nat) => do
    let id ← freshId
    let rank := nth owners p.2 (nth owners 0 0)
    let j := x.job id rank t.team (p.1.cf / 4 % 4) p.1.ctl p.1.cf p.1.recd (16 * 2 ^ (p.1.cf % 4)) p.1.queue p.1.slots false 0 0
    pure (x.op id t.team rank 0 0 0 [] (.island id) (some .is), j)) t.subs.zipIdx
  let jobs := inIssueOrder ((x.grid.subs.filter fun p => decide (p.1 = t.team)).map (·.2)) (traces.flatten ++ subs)
  let refs ← eachM (fun (r : RawThread) => x.refills t.team r) t.threads
  let convs ← eachM (fun (c : RawConv) => do
    let y ← x.conv t c
    pure (c.n, y)) t.convs
  let pends ← eachM (x.pending t.team) t.pend
  let ids (rank : Nat) (c : KClass) : List Nat := match c with
    | .cp => ((parts.filter fun p => decide (p.1.thr.rank = rank)).map fun p => p.1.group).dedup
    | .mx => (pends.flatMap fun e => e.members.filterMap fun m => if m.1.rank = rank then some m.2 else none)
        ++ (convs.flatMap fun c => c.2.2.filterMap fun d => if d.1 = rank then some d.2 else none)
    | .is => (jobs.filter fun j => decide (j.1.thr.rank = rank)).map fun j => j.1.id
    | _ => (accs.filter fun a => decide (a.1.thr.rank = rank) && decide (a.1.cls = some c)).map fun a => a.1.id
  let id : TeamId := ⟨x.ctx, x.grid.id.grid, t.team⟩
  let crs := (List.range 16).map fun n => match convs.find? fun c => decide (c.1 = n) with
    | some c => c.2.1
    | none => ⟨.free, 0, 0, 0, 0, 0, []⟩
  let slice := t.slice.map fun sl => { sl with reads := reads.map (·.1) }
  let team0 := newTeam id t.core t.spanning (if t.team < 2 ^ 31 then x.grid.launch.scr else 0) slice [] [] 0
  let team1 : Team := { team0 with
    scratch := t.scratch, lines := t.lines, cairnAt := 0, tags := t.tags, poison := t.poison, crs := crs, elems := t.elems, engine := pends,
    queues := t.queues }
  let claimed := pends.foldl (fun tm e => tm.claim e.claims) team1
  let ths := (t.threads.zip refs).map fun p => x.thread t p.1 p.2.1 (ids p.1.rank)
  pure { team := claimed, threads := ths, ops := accs.map (·.1) ++ refs.flatMap (fun p => p.2) ++ jobs.map (·.1), copies := parts.map (·.1),
         jobs := jobs.map (·.2), replays := accs.map (·.2) ++ parts.map (·.2) ++ reads.flatMap (·.2),
         recs := sortBy (fun a b : FRec => decide (a.seq < b.seq))
           (x.recs.filter fun f => decide (f.grid = x.grid.id.grid) && decide (f.team = t.team) && ! f.ent) }

/-- Runs an assembly with the state's operation numbers. -/
def State.numbered {α : Type} (s : State) (f : StateM Nat α) : α × State :=
  let r := f.run s.nextId
  (r.1, { s with nextId := r.2 })

-- ---------------------------------------------------------------- placing a saved team

/-- Re-posts a record of an image with RST and a new SEQ (R372, R382). -/
def State.repost (s : State) (die ctx : Nat) (r : FRec) : State :=
  let new := s.nextSeqOf die ctx
  (s.swapSeqs ctx r.seq new).postRecord die { r with ctx := ctx, rst := true }

/-- A member of a service batch whose thread comes back waits for its reply with a new operation (R359, R383). -/
def State.renewReply (s : State) (t : Thread) : State :=
  if t.st ≠ .parked .service then s
  else
    let id := s.nextId
    let found := s.svc.findSome? fun b => b.members.find? fun m => decide (m.thr = t.id)
    match found with
    | none => s
    | some m =>
      let o : Op :=
        { id := id, thr := t.id, role := t.role, core := s.coreOf t.id, part := 0, pos := t.pos, pc := t.pc, word := 0, latch := t.latch,
          opnd := [], issued := 0, due := none, dests := (Src.mk m.d m.n).regs, vals := [], flags := 0, en := 0, rc := 0, late := true, holds := false,
          image := none, body := .reply, stage := .issued, cls := none }
      let put (y : SvcMember) : SvcMember := if y.thr = t.id then { y with op := id } else y
      { s with
        nextId := id + 1
        ops := s.ops ++ [o]
        svc := s.svc.map fun b => { b with members := b.members.map put } }

/-- The cairn a thread Blocked at a CRN.WAIT is counted on (R383, R466): its word, read where its PC lies. -/
def State.waitingCairn (s : State) (t : Thread) : Option (Nat × Nat) :=
  if t.st ≠ .blocked then none
  else match s.translate t.id.ctx t.pc.toNat true false true with
    | .fault _ => none
    | .ok pa _ => match decodeRow (memRead s.home pa 4) with
      | some (.crnWait d a _) => some (t.reg a, t.reg d)
      | _ => none

/-- The scratchpad bytes of which the word at a thread's PC must find every line present (R244, R245): their offset and number. -/
def State.awaits (s : State) (t : Thread) : Option (Nat × Nat) :=
  match s.translate t.id.ctx t.pc.toNat true false true with
  | .fault _ => none
  | .ok pa _ =>
    let at_ (a : Nat) (off : Int) : Nat := effAddr .s (t.reg a) off
    match decodeRow (memRead s.home pa 4) with
    | some (.ldSB32 _ a _ _ _ o) => some (at_ a (memOffset t.latch o 4), 4)
    | some (.ldGeneral _ a _ _ _ _ z) => some (at_ a (memOffsetGeneral t.latch (sizeOfCode z)), sizeOfCode z)
    | some (.atom _ a _ _ wide _ _) => some (at_ a 0, if wide then 8 else 4)
    | some (.atomc _ a _ _ wide _) => some (at_ a 0, if wide then 8 else 4)
    | some (.waita _ a _ _ wide _) => some (at_ a 0, if wide then 8 else 4)
    | some (.qpush a _ _) => some (t.reg a, 256)
    | some (.acld a _ n) => some (t.reg a, 1024 * elemSize (s.tileWide t.id.gridId n))
    | _ => none

/-- A thread restored Parked for an absent line waits for the first absent one its word touches; it is Ready when none is (R245, R383). -/
def State.reawait (s : State) (tm : Team) (t : Thread) : Thread :=
  match t.st with
  | .parked (.absentLine _) => (match (s.awaits t).bind fun p => tm.absentIn p.1 p.2 with
    | some line => { t with st := .parked (.absentLine line) }
    | none => { t with st := .ready })
  | _ => t

/-- The scratch address of an offset of a thread. -/
def State.areaOf (s : State) (t : Thread) (off : Nat) : Nat := s.scratchArea t + off

/-- Places a saved team (R55, R287, R348, R385). -/
def State.placeSaved (s : State) (g : Grid) (v : SavedTeam) (core : Nat) (grants : List (Nat × Nat × Nat) × List (Nat × Nat × Nat)) : State :=
  let now := s.now core
  let seat (x : Slice) : Slice := { x with place := s.slicePlace core }
  let t : Team := { v.team with
    core := core, blocks := grants.1, segments := grants.2, placedAt := now, lastIssue := now, slice := v.team.slice.map seat }
  let cores := s.coresOf g.id.ctx
  let fixSlot (th : Thread) : LinkSlot → LinkSlot
    | .refill op off => .refill op (s.areaOf th off)
    | x => x
  let fixThread (x : Thread) : Thread :=
    let lc := lcoreOf cores g.launch.det t.spanning core (t.coreOf x.id.rank)
    { x with lcore := lc.1, nlcore := lc.2, readyAt := now, ls := x.ls.map (fixSlot x), cairn := s.waitingCairn x }
  let threadOf (r : ThreadId) : Option Thread := v.threads.find? fun x => decide (x.id = r)
  let fixOp (o : Op) : Op :=
    let o := { o with core := t.coreOf o.thr.rank, part := t.partOf o.thr.rank }
    match o.body, threadOf o.thr with
    | .mem a, some th => if a.kind = .refill then { o with body := .mem { a with va := s.areaOf th a.va } } else o
    | _, _ => o
  let fixCopy (c : Copy) : Copy := { c with core := t.coreOf c.thr.rank }
  let fixJob (j : IslandJob) : IslandJob :=
    let frame := match threadOf j.thr with
      | some th => if j.trace then s.areaOf th j.frame else 0
      | none => 0
    { j with core := t.coreOf j.thr.rank, isl := islandOf j.cls (t.coreOf j.thr.rank) j.isl, frame := frame }
  let s := s.addTeam g.id t (v.threads.map fun x => s.reawait t (fixThread x))
  let fixReplay (r : Replay) : Replay := { r with die := dieOf core }
  let newOps : List Op := s.ops ++ v.ops.map fixOp
  let newCopies : List Copy := s.copies ++ v.copies.map fixCopy
  let newJobs : List IslandJob := s.jobs ++ v.jobs.map fixJob
  let newReplays : List Replay := s.replays ++ v.replays.map fixReplay
  let s : State := { s with ops := newOps, copies := newCopies, jobs := newJobs, replays := newReplays }
  let s := v.recs.foldl (fun s r => s.repost (dieOf core) g.id.ctx r) s
  let s := v.threads.foldl (fun s th => match s.thread? th.id with
    | some x => s.renewReply x
    | none => s) s
  s.updGrid g.id fun x => { x with waiting := x.waiting.filter fun y => decide (y.team.id ≠ v.team.id) }

/-- What a saved team needs (R347): blocks for the threads it still has. -/
def SavedTeam.need (v : SavedTeam) (r : LaunchRec) : Need :=
  let budget (rank : Nat) : Nat := match v.threads.find? fun t => decide (t.id.rank = rank) with
    | some t => t.budget
    | none => 0
  let top := v.threads.foldl (fun n t => max n (t.id.rank + 1)) 0
  { budgets := (List.range top).map budget, spanning := v.team.spanning, scr := v.team.scr,
    places := if v.team.id.team < 2 ^ 31 then r.acn32 + 2 * r.acn64 else 0, slice := v.team.slice.isSome, kernel := false }

/-- Whether a saved team is an ordinary one, not a relaunch team (R353, R355). -/
def SavedTeam.ordinary (v : SavedTeam) : Bool := decide (v.team.id.team < 2 ^ 31)

/-- The cores a saved team may go to (R55, R385). -/
def State.savedCores (s : State) (g : Grid) (v : SavedTeam) : List Nat :=
  let cores := s.coresOf g.id.ctx
  let l := if v.team.spanning then clustersOf cores else cores
  if g.launch.det then (match l[v.team.id.team % l.length]? with
    | some c => [c]
    | none => [])
  else l

/-- A team a grid has to place: a saved one of a restore, a relaunch batch, or its next ordinary team (R348, R355, R385). -/
inductive NextTeam where
  | saved (v : SavedTeam)
  | batch (b : ReBatch)
  | ordinary
  deriving DecidableEq, Repr

/-- The teams a grid tries in a cycle (R348): its saved teams that wait; else, once no saved team of its context waits (R385), or for a service
grid, which the image does not hold (R360), its first
relaunch batch, when its deposits' releases are complete (R285); else its next ordinary team, when it is ready. -/
def State.nextTeams (s : State) (g : Grid) : List NextTeam :=
  if ! g.waiting.isEmpty then g.waiting.map .saved
  else if ! g.kernelMode && s.grids.any fun y => decide (y.id.ctx = g.id.ctx) && ! y.waiting.isEmpty then []
  else match s.batchesOf g.id with
    | b :: _ => if s.batchReleased b then [.batch b] else []
    | [] => if g.elig && g.ready && decide (g.nextTeam < g.launch.nteam) then [.ordinary] else []

/-- What a team of a grid needs (R347, R355). -/
def NextTeam.need (n : NextTeam) (g : Grid) : Need :=
  match n with
  | .saved v => v.need g.launch
  | .batch b => b.need
  | .ordinary => g.need

/-- The cores a team of a grid may go to (R49, R55, R349, R355, R360, R361). -/
def State.coresFor (s : State) (g : Grid) (n : NextTeam) : List Nat :=
  match n with
  | .saved v => s.savedCores g v
  | .batch b => if b.chosen then [b.core] else s.coresOf g.id.ctx
  | .ordinary => s.eligible g g.nextTeam

/-- Settles the core of the batches of one saved core (R361): all of them go to the core that the largest fits. -/
def State.settleAnchor (s : State) (b : ReBatch) (core : Nat) : State :=
  let put (y : ReBatch) : ReBatch :=
    if y.grid.ctx = b.grid.ctx ∧ y.anchor = b.anchor ∧ ! y.chosen then { y with core := core, chosen := true } else y
  { s with batches := s.batches.map put }

/-- Tries one team of a grid, not on the cores that grids earlier in the order reserve: the state when it is placed (R348, R349). A saved relaunch
team is no ordinary one to a reorder store (R353). -/
def State.tryTeam (s : State) (g : Grid) (n : NextTeam) : Option State :=
  let taken := s.takenBefore g
  match n with
  | .saved v => (s.chooseCore (s.savedCores g v) taken (v.need g.launch) v.ordinary).map fun x => s.placeSaved g v x.1 x.2
  | .batch b =>
    if b.chosen then (s.chooseCore [b.core] taken b.need false).map fun x => s.placeBatch g b x.1 x.2
    else match s.chooseCore (s.coresOf g.id.ctx) taken (s.largestMate b).need false with
      | none => none
      | some c => (s.chooseCore [c.1] taken b.need false).map fun x => (s.settleAnchor b x.1).placeBatch g b x.1 x.2
  | .ordinary => (s.chooseCore (s.eligible g g.nextTeam) taken g.need (! g.kernelMode)).map fun x => s.placeOrdinary g x.1 x.2

/-- The core a blocked team reserves (R348): the one its grid reserves already, which it keeps; else the named one, or the eligible one with the
most free registers, unless a grid earlier in the order has it. -/
def State.reserveFor (s : State) (g : Grid) (cores : List Nat) (spanning : Bool) : List Nat :=
  let all (c : Nat) : List Nat := if spanning then [c, c + 1] else [c]
  if ! g.reserved.isEmpty then g.reserved
  else match leastKey (fun c => ((all c).map s.regsUsed).sum) cores with
    | some c => if (all c).any (s.takenBefore g).contains then [] else all c
    | none => []

/-- A blocked team (R348): its grid reserves a core, and where contiguous space is all it lacks the compactor starts (R133). -/
def State.blockTeam (s : State) (g : Grid) (n : NextTeam) : State :=
  let need := n.need g
  let cores := s.coresFor g n
  let r := s.reserveFor g cores need.spanning
  let frag := cores.filter fun c => s.fragmented c need (match n with
    | .batch _ => false
    | .saved v => v.ordinary
    | .ordinary => ! g.kernelMode)
  let s1 := s.updGrid g.id fun y => { y with reserved := r }
  { s1 with compacting := (s1.compacting ++ frag).dedup }

/-- The pass over the ready grids (R348): each places its next team where it fits, or is blocked and reserves. -/
def State.placePass (s : State) : List (Grid × NextTeam) → State
  | [] => s
  | (g0, n) :: rest => match s.grid? g0.id with
    | none => s.placePass rest
    | some g => match s.tryTeam g n with
      | some s1 => (s1.drainSpills g.die).placePass rest
      | none => (s.blockTeam g n).placePass rest

/-- ST returns to 0 once every saved team of a restoring context is placed (R385). -/
def State.settleRestores (s : State) : State :=
  let done (c : Ctx) : Bool := decide (c.pstat = 7) && s.grids.all fun g => decide (g.id.ctx ≠ c.num) || g.waiting.isEmpty
  { s with ctxs := s.ctxs.map fun c => if done c then { c with pstat := 0 } else c }

/-- TEAM_PLACE (R346, R348, R360, R385): the control plane takes the ready grids in order, service grids first, and places the next team of
each that fits; a freed store entry takes the oldest spilled record. The cores on which the compactor works are found anew. -/
def execTeamPlace (s : State) : Host.Outcome State Fault Refusal :=
  let s0 := s.reapTeams
  let tries := s0.placeOrder.flatMap fun g => (s0.nextTeams g).map fun n => (g, n)
  let s1 := State.placePass { s0 with compacting := [] } tries
  .next s1.drainAll.settleRestores

-- ---------------------------------------------------------------- RCMD.GO

/-- A restored grid (R344, R385): its record as the image has it; the die, the order and the stage of a grid the device knows are those its
record has kept since the save. One it does not know is taken as accepted now, and its dependence is tested again unless a team of it was
placed (log 16). -/
def State.restoredGrid (s : State) (ctx : Nat) (g : RawGrid) : Grid :=
  let new : Grid :=
    { id := ⟨ctx, g.grid⟩, launch := g.launch, raw := leBytes 256 g.raw, kernelMode := false, svcp := g.launch.svcp, order := s.nextId,
      nextTeam := g.next, relaunch := g.k, placedCores := [], die := dieOf (nth (s.coresOf ctx) 0 0), src := none, elig := true, srcVa := 0,
      ready := decide (g.launch.dkind = 0) || decide (g.next ≠ 0), reserved := [], saved := false, sizes := [], subs := [], ks := [], waiting := [] }
  match s.grid? new.id with
  | none => new
  | some o => { new with
      order := o.order, die := o.die, src := o.src, elig := o.elig, srcVa := o.srcVa, ready := o.ready || decide (g.next ≠ 0), sizes := o.sizes,
      subs := o.subs, ks := o.ks }

/-- The batches of a restored grid (R361), in the order of their numbers within the save. The records do not hold k: a grid the device knows has
kept the numbers its batches had at the save; of another, the batches get the last numbers below the grid's count that no saved relaunch team
has, those of the batches formed last (DEDUCED, log 16). -/
def RawGrid.batches (g : RawGrid) (ctx : Nat) (ks : List Nat) : List ReBatch :=
  let nums := sortBy (fun a b : Nat => decide (a < b)) (g.deps.map (·.batch)).dedup
  let used := g.teams.filterMap fun t => if 2 ^ 31 ≤ t.team then some (t.team - 2 ^ 31) else none
  let free := (List.range g.k).filter fun k => ! used.contains k
  let mine := if ks.length = nums.length then ks else free.drop (free.length - nums.length)
  nums.zipIdx.map fun n =>
    let ds := g.deps.filter fun d => decide (d.batch = n.1)
    let core := (ds.head?.map (·.core)).getD 0
    { core := core, anchor := some core, chosen := false, grid := ⟨ctx, g.grid⟩, k := nth mine n.2 n.2, deps := ds.map (·.dep) }

/-- A restore fails (R56, R385): a record of class 0x23 with the image offset, and ST 8. -/
def State.restoreFails (s : State) (ctx off : Nat) : State :=
  (s.postRecord 0 (s.deviceRecord ctx clsRestore 0 off 0)).updCtx ctx fun c => { c with pstat := 8 }

/-- The offset R56 names for a partition that cannot hold a grid's saved teams. -/
def RawGrid.misplaced (g : RawGrid) (clusters : List Nat) : Option Nat :=
  if clusters.isEmpty ∧ ((g.launch.det ∧ g.launch.spans) ∨ g.teams.any (·.spanning)) then some g.off else none

/-- Adds one grid of an image with its saved teams and batches. -/
def State.addRestored (s : State) (ctx : Nat) (img : RawImage) (g : RawGrid) : State :=
  let recs := g.teams.flatMap (·.recs) ++ img.recs
  let grid := s.restoredGrid ctx g
  let b : Build := ⟨ctx, grid, g.teams, recs, s.fresh⟩
  let (saved, s1) := { s with nextId := s.nextId + 1 }.numbered (eachM b.team g.teams)
  { s1 with
    fresh := s1.fresh + s1.nextId + 2 ^ 32
    grids := (s1.grids.filter fun y => decide (y.id ≠ grid.id)) ++ [{ grid with sizes := [], subs := [], ks := [], waiting := saved }]
    batches := s1.batches ++ g.batches ctx (match s.grid? grid.id with
      | some o => o.ks
      | none => []) }

/-- Requests of an image that belong to no saved team: they come back with their issuer retired (R370, R382). -/
def State.addLoose (s : State) (ctx : Nat) (img : RawImage) (p : RawReplay) : State :=
  match img.recs.find? fun r => decide (r.seq = p.seq) with
  | none => s
  | some r =>
    if p.kind = 2 ∧ p.word = 0 then
      { s with replays := s.replays ++ [⟨0, p.seq, ctx, .done ⟨ctx, r.grid⟩ p.va p.data, p.cls, p.ir, p.va⟩] }
    else
      match s.grid? ⟨ctx, r.grid⟩ with
      | none => s
      | some g =>
        let b : Build := ⟨ctx, g, [], img.recs, s.fresh⟩
        let (x, s1) := s.numbered (b.replayOp 0 p)
        match x with
        | some (o, rp) => { s1 with ops := s1.ops ++ [o], replays := s1.replays ++ [rp] }
        | none => s1

/-- What a grid of a context is after a restore from an image that does not hold it: a record of which nothing has been placed goes on, any
other grid is gone with its teams (DESIGN CHOICE, log 16). -/
def revived (ctx : Nat) (g : Grid) : Option Grid :=
  if g.id.ctx ≠ ctx ∨ ! g.saved then some g
  else if g.nextTeam = 0 then some { g with saved := false } else none

/-- A context is restored from an image that holds (R385): it is RESTORING, its grids and teams wait to be placed, its parked requests stand
and its open records are posted again. -/
def State.restoreFrom (s : State) (ctx : Nat) (img : RawImage) : State :=
  let s1 := (s.updCtx ctx fun x => { x with pstat := 7 }).becomeResident ctx
  let s2 := img.grids.foldl (fun s g => s.addRestored ctx img g) s1
  let ofTeam (r : FRec) : Bool := img.grids.any fun g => decide (g.grid = r.grid) && g.teams.any fun t => decide (t.team = r.team)
  let s3 := img.replays.foldl (fun s p => s.addLoose ctx img p) s2
  let s4 := (img.recs.filter fun r => ! ofTeam r || r.ent).foldl (fun s r => s.repost 0 ctx r) s3
  let wake (x : Ridge) : Ridge := { x with awake := true }
  let s5 : State := { s4 with ridges := s4.ridges.map wake, grids := s4.grids.filterMap (revived ctx) }
  s5.drainAll.settleRestores

/-- RESTORE_GO (R378, R385, R445): a write of RCMD.GO while ST is 3, 4 or 8: the image at CSAB is read, and its teams wait to be placed. -/
def execRestoreGo (s : State) : Host.Outcome State Fault Refusal :=
  let ctx := s.arg 0
  match s.ctx? ctx with
  | none => .next s
  | some c =>
    if ! c.live ∨ (c.pstat ≠ 3 ∧ c.pstat ≠ 4 ∧ c.pstat ≠ 8) then .next s
    else
      let base := c.csab.toNat
      let cores := s.partitionCores c.cxpm
      if cores.isEmpty then .next (s.restoreFails ctx 0)
      else
        let taken := (s.grids.filter fun g => decide (g.id.ctx = ctx) && ! g.saved).map fun g => g.id.grid
        match ((Src8.mk s.home base (memRead s.home (base + 8) 8)).image ctx taken).run 0 with
        | .error off => .next (s.restoreFails ctx off)
        | .ok (img, _) =>
          match img.grids.findSome? fun g => (g.teams.findSome? fun t => t.flaw g.launch) <|> g.misplaced (clustersOf cores) with
          | some off => .next (s.restoreFails ctx off)
          | none =>
            .next (s.restoreFrom ctx img)

end Machine
end Sys2Proof
end

