-- ==== Sys2Proof/Machine/Digest.lean ====
section
/-! DEFINITION. SHA-512 and the verification of ECDSA signatures on P-521, which R443, R485 and R486 name. Their constants and steps are
those of the published standards (log 10). -/

namespace Sys2Proof
namespace Machine

-- ---------------------------------------------------------------- SHA-512

/-- Whether a number is prime. -/
def isPrime (n : Nat) : Bool := decide (2 ≤ n) && (List.range n).all fun d => decide (d < 2) || decide (n % d ≠ 0)

/-- The largest r' of r plus a sum of powers of two below 2^k whose d-th power is at most n. -/
def rootBits (d n : Nat) : Nat → Nat → Nat
  | 0, r => r
  | k + 1, r => rootBits d n k (if (r + 2 ^ k) ^ d ≤ n then r + 2 ^ k else r)

/-- The first 64 bits after the point of the d-th root of a number below 2^10. -/
def rootFraction (d p : Nat) : Dword := BitVec.ofNat 64 (rootBits d (p * 2 ^ (64 * d)) 70 0)

/-- The 80 round constants of SHA-512: from the cube roots of the first 80 primes (log 10). -/
def roundConstants : List Dword := ((List.range 410).filter isPrime).map (rootFraction 3)

/-- The first hash value of SHA-512: from the square roots of the first 8 primes (log 10). -/
def firstHash : List Dword := ((List.range 20).filter isPrime).map (rootFraction 2)

/-- The value of big-endian bytes. -/
def beVal (bs : List Byte) : Nat := bs.foldl (fun v b => 256 * v + b.toNat) 0

/-- The big-endian bytes of a value, n of them. -/
def beBytes (n v : Nat) : List Byte := (leBytes n v).reverse

/-- A message with its padding: a 1 bit, zeros, and its length in bits in 16 bytes. -/
def shaPad (bs : List Byte) : List Byte :=
  let n := bs.length
  bs ++ [0x80] ++ List.replicate ((239 - n % 128) % 128) 0 ++ beBytes 16 (8 * n)

/-- The exclusive or of a word rotated right by each of some amounts. -/
def turned (amounts : List Nat) (x : Dword) : Dword := (amounts.map x.rotateRight).foldl (· ^^^ ·) 0

/-- The word of the message schedule that follows a list of words, the newest first. -/
def nextWordOf (w : List Dword) : Dword :=
  let far := nth w 14 0
  let near := nth w 1 0
  nth w 15 0 + nth w 6 0 + (turned [1, 8] far ^^^ far >>> 7) + (turned [19, 61] near ^^^ near >>> 6)

/-- The schedule with n further words, the newest first. -/
def schedule : Nat → List Dword → List Dword
  | 0, w => w
  | n + 1, w => schedule n (nextWordOf w :: w)

/-- The eight working variables as two queues of four, the newest of each first: a to d and e to h. -/
structure Working where
  top : List Dword
  low : List Dword
  deriving DecidableEq, Repr

/-- One round: both queues take a new word and lose their oldest. `kw` is the round constant plus the word of the schedule. -/
def Working.step (v : Working) (kw : Dword) : Working :=
  let t (i : Nat) : Dword := nth v.top i 0
  let l (i : Nat) : Dword := nth v.low i 0
  let choice := l 2 ^^^ l 0 &&& (l 1 ^^^ l 2)
  let majority := t 0 &&& t 1 ||| t 2 &&& (t 0 ||| t 1)
  let mixed := kw + choice + turned [14, 18, 41] (l 0) + l 3
  ⟨(majority + turned [28, 34, 39] (t 0) + mixed) :: v.top.take 3, (t 3 + mixed) :: v.low.take 3⟩

/-- The 64-bit words of big-endian bytes, n of them. -/
def beWords : Nat → List Byte → List Dword
  | 0, _ => []
  | n + 1, bs => BitVec.ofNat 64 (beVal (bs.take 8)) :: beWords n (bs.drop 8)

/-- One block of 128 bytes. -/
def hashBlock (h : List Dword) (bs : List Byte) : List Dword :=
  let words := (schedule 64 (beWords 16 bs).reverse).reverse
  let v := (List.zipWith (· + ·) roundConstants words).foldl Working.step ⟨h.take 4, h.drop 4⟩
  List.zipWith (· + ·) h (v.top ++ v.low)

/-- The blocks of a padded message. -/
def hashBlocks : Nat → List Dword → List Byte → List Dword
  | 0, h, _ => h
  | n + 1, h, bs => hashBlocks n (hashBlock h (bs.take 128)) (bs.drop 128)

/-- The SHA-512 digest of a message, 64 bytes (R443, R485). -/
def sha512 (bs : List Byte) : List Byte :=
  let m := shaPad bs
  (hashBlocks (m.length / 128) firstHash m).flatMap fun w => beBytes 8 w.toNat

-- ---------------------------------------------------------------- P-521

/-- The field prime of P-521 (log 10). -/
def p521 : Nat := 2 ^ 521 - 1

/-- The order of the group of P-521 (log 10). -/
def p521n : Nat := (2 ^ 261 - 1) * 2 ^ 260 + 0xA51868783BF2F966B7FCC0148F709A5D03BB5C9B8899C47AEBB6FB71E91386409

/-- The constant b of the curve y² = x³ − 3x + b (log 10). -/
def p521b : Nat :=
  0x51953EB9618E1C9A1F929A21A0B68540EEA2DA725B99B315F3B8B489918EF109E156193951EC7E937B1652C0BD3BB1BF073573DF883D2C34F1EF451FD46B503F00

/-- The base point of P-521 (log 10). -/
def p521g : Nat × Nat :=
  (0xC6858E06B70404E9CD9E3ECB662395B4429C648139053FB521F828AF606B4D3DBAA14B5E77EFE75928FE1DC127A2FFA8DE3348B3C1856A429BF97E7E31C2E5BD66,
   0x11839296A789A3BC0045C8A5FB42C7D1BD998F54449579B446817AFBD17273E662C97EE72995EF42640C550B9013FAD0761353C7086A272C24088BE94769FD16650)

/-- Whether a pair is a point of P-521 (R486). -/
def onCurve (q : Nat × Nat) : Bool :=
  decide (q.1 < p521) && decide (q.2 < p521)
    && decide (q.2 * q.2 % p521 = (q.1 * q.1 * q.1 + (p521 - 3) * q.1 + p521b) % p521)

/-- x to the power e modulo m, over the low n bits of e. -/
def powMod (m : Nat) : Nat → Nat → Nat → Nat → Nat
  | 0, _, _, acc => acc
  | n + 1, x, e, acc => powMod m n (x * x % m) (e / 2) (if e % 2 = 1 then acc * x % m else acc)

/-- The inverse modulo a prime below 2^521. -/
def invMod (m x : Nat) : Nat := powMod m 521 (x % m) (m - 2) 1

/-- Addition of points; none is the point at infinity. -/
def addPoint : Option (Nat × Nat) → Option (Nat × Nat) → Option (Nat × Nat)
  | none, q => q
  | p, none => p
  | some (x1, y1), some (x2, y2) =>
    if x1 = x2 ∧ (y1 + y2) % p521 = 0 then none
    else
      let l :=
        if x1 = x2 then (3 * x1 * x1 + (p521 - 3)) * invMod p521 (2 * y1) % p521
        else (y2 + p521 - y1) * invMod p521 (x2 + p521 - x1) % p521
      let x := (l * l + (p521 - x1) + (p521 - x2)) % p521
      some (x, (l * (x1 + p521 - x) + (p521 - y1)) % p521)

/-- A multiple of a point, over the low n bits of the factor. -/
def mulPoint : Nat → Nat → Option (Nat × Nat) → Option (Nat × Nat) → Option (Nat × Nat)
  | 0, _, _, acc => acc
  | n + 1, k, p, acc => mulPoint n (k / 2) (addPoint p p) (if k % 2 = 1 then addPoint acc p else acc)

/-- Whether a signature (r, s) over a digest verifies under a public key (R443). -/
def ecdsaOk (key : Nat × Nat) (digest : List Byte) (r t : Nat) : Bool :=
  if ! (decide (1 ≤ r) && decide (r < p521n) && decide (1 ≤ t) && decide (t < p521n)) then false
  else
    let w := invMod p521n t
    match addPoint (mulPoint 521 (beVal digest * w % p521n) (some p521g) none) (mulPoint 521 (r * w % p521n) (some key) none) with
    | none => false
    | some q => decide (q.1 % p521n = r)

end Machine
end Sys2Proof
end

