-- ==== Sys2Proof/Machine/System.lean ====
section
/-! DEFINITION. The device in its system (R477 to R492): posting of images and of keys (R443, R486), refresh and the rotation of the weight
store (R255, R256), clock levels and the thermal trip (R491, R492), the staged start (R487), TDIs (R482 to R484) and attestation
(R485). -/

namespace Sys2Proof
namespace Machine

-- ---------------------------------------------------------------- reads of the management plane

/-- The n bytes at a physical address as a .sy read of the management plane: none where no memory is or a sector is marked. -/
def State.readPhys (s : State) (pa n : Nat) : Option (List Byte) :=
  if (unitsOf pa n 64).all fun u => s.memExists (u * 64) && ! s.homePoison.contains u then some (memBytes s.home pa n) else none

-- ---------------------------------------------------------------- images

/-- IMAGE_POST (R443): a write of IMGC with GO, its word the argument; ignored while a post is verified, and before the device responds. -/
def execImagePost (s : State) : Host.Outcome State Fault Refusal :=
  let word := s.arg 0
  if s.stage = 0 ∨ s.imgs = 1 then .next s else .next { s with imgc := put32 word 0x3F, imgs := 1 }

/-- The 128 cells of an image have valid source codes (R442). -/
def cellsOk (bs : List Byte) : Bool :=
  (List.range 128).all fun i =>
    let w := imageWord bs (0x100 + 4 * i)
    decide (bits w 5 6 ≤ 49) && decide (bits w 11 6 ≤ 49) && decide (bits w 17 6 ≤ 49)

/-- The routing selectors of an image are valid (R442): SROW of a valid one lies below its row. -/
def selectorsOk (bs : List Byte) : Bool :=
  (List.range 256).all fun i =>
    let x := (bs.getD (0x300 + i) 0).toNat
    ! bitAt x 7 || decide (bits x 4 3 < i / 32)

/-- The format of an image (R441 to R443). -/
def formatOk (bs : List Byte) (cls : Nat) : Bool :=
  let w1 := imageWord bs 4
  decide (imageWord bs 0 = 0x494E4C50) && decide (w1 % 256 = 1) && decide (bits w1 8 2 = cls) && decide (cls ≠ 3)
    && decide (w1 / 2 ^ 10 = 0) && decide (imageWord bs 0x10 / 16 = 0) && ((bs.drop 0xA0).take 96).all (fun b => decide (b = 0))
    && cellsOk bs && selectorsOk bs

/-- The public key a slot holds; slot 0 is fused (R486). -/
def State.key (s : State) (slot : Nat) : Option (Nat × Nat) := if slot = 0 then some Config.fusedKey else nth s.keys slot none

/-- The signature of an image verifies under the key its header names (R440, R443, R486). -/
def State.signatureOk (s : State) (bs : List Byte) : Bool :=
  match s.key (imageWord bs 0x10 % 16) with
  | none => false
  | some k => ecdsaOk k (sha512 (bs.take 0x400)) (beVal ((bs.drop 0x400).take 66)) (beVal ((bs.drop 0x442).take 66))

/-- Puts a version in a slot (R24, R443): the version it replaces is kept for the bindings of this cycle, and while a resident context holds
it. -/
def State.postImage (s : State) (slot : Nat) (i : Img) : State :=
  { s with
    nextId := s.nextId + 1
    imgSlots := s.imgSlots.set slot ⟨some { i with post := s.nextId }, (nth s.imgSlots slot emptySlot).cur, some s.clock⟩ }

/-- The status a post of an image ends with, and the state (R443). -/
def State.verifyPost (s : State) : State × Nat :=
  let slot := s.imgc.toNat % 16
  match s.readPhys s.imgb.toNat 1156 with
  | none => (s, 6)
  | some bs =>
    if ! formatOk bs (bits s.imgc.toNat 4 2) then (s, 3)
    else if ! s.signatureOk bs then (s, 4)
    else
      let s1 := s.releaseImages
      if (nth s1.imgSlots slot emptySlot).old.isSome then (s, 5)
      else (s1.postImage slot ⟨0, bits (imageWord bs 4) 8 2, imageWord bs 8, imageWord bs 0x14, bs.take 0x400⟩, 2)

/-- IMAGE_POST_DONE (R443): the verification of a post ends. -/
def execImagePostDone (s : State) : Host.Outcome State Fault Refusal :=
  if s.imgs ≠ 1 then .next s
  else
    let r := s.verifyPost
    .next { r.1 with imgs := r.2 }

-- ---------------------------------------------------------------- keys

/-- The status an installation of a key ends with, and the state (R486). -/
def State.installKey (s : State) (slot : Nat) : State × Nat :=
  if slot < 4 ∨ (nth s.keys slot none).isSome then (s, 2)
  else match s.readPhys s.keyb.toNat 132 with
    | none => (s, 3)
    | some bs =>
      let k := (beVal (bs.take 66), beVal (bs.drop 66))
      if onCurve k then ({ s with keys := s.keys.set slot (some k) }, 1) else (s, 2)

/-- KEY_INSTALL (R486): a write of KEYC with GO, its word the argument. -/
def execKeyInstall (s : State) : Host.Outcome State Fault Refusal :=
  if s.stage = 0 then .next s
  else
    let slot := s.arg 0 % 16
    let r := s.installKey slot
    .next { r.1 with keyc := BitVec.ofNat 32 (slot + 32 * r.2) }

-- ---------------------------------------------------------------- the weight store

/-- The frozen latencies of loads of a die's weight store at the end of one refresh slot, begun at cycle `from?`, and the begin of the next
(R116, R255, R256): a load issued within the slot that has ended has 90 cycles from now, one issued before it and caught unread has its length
added, and a load of the bank that now refreshes has no time until its slot ends. -/
def State.refreshDue (s : State) (die begin_ was becomes : Nat) : State :=
  let c := s.cycleOf die
  let f (o : Op) : Op := match o.body with
    | .mem a =>
      if a.space = .w ∧ o.stage = .ready ∧ weightDie a.va = die ∧ dieOf o.core = die then
        if weightBank a.va = becomes then { o with due := none }
        else if weightBank a.va = was then { o with due := some (if begin_ ≤ o.issued then c + 90 else o.issued + 90 + (c - begin_)) }
        else o
      else o
    | _ => o
  { s with ops := s.ops.map f }

/-- REFRESH_SLOT (R255, R257): the refresh of a die moves to its next slot when the time of the present one is over. -/
def execRefreshSlot (s : State) : Host.Outcome State Fault Refusal :=
  let die := s.arg 0
  let at_ := nth s.slotAt die (0, 0, false)
  if nth s.ncycs die 0 < at_.2.1 + s.slotTicks die then .next s
  else
    let slot := nth s.refresh die 0
    let s1 := s.refreshDue die at_.1 (refreshBank slot) (refreshBank (slot + 1))
    .next { s1 with refresh := s1.refresh.set die (slot + 1), slotAt := s1.slotAt.set die (s.cycleOf die, nth s.ncycs die 0, true) }

/-- A load of the weight store reads its bytes in its core's turn (R256), unless its bank is in refresh. -/
def State.turnLoad (s : State) (core : Nat) (o : Op) : State :=
  match o.body with
  | .mem a => (match a.kind with
    | .load sx =>
      if o.core = core ∧ o.stage = .ready ∧ a.space = .w ∧ weightDie a.va = dieOf core ∧ ! s.bankRefreshes a then
        (if s.readHeld o a then s else s.bindLoad o a sx)
      else s
    | _ => s)
  | _ => s

/-- The reads of the weight store of the access slices of a core have its turn (R256). -/
def State.turnSlices (s : State) (core : Nat) : State :=
  let served (tm : Team) : List (SliceRead × SliceReq) := match tm.slice with
    | some sl => sl.reads.flatMap fun r => if r.weight then
        (r.reqs.filter fun q => decide (q.st = .ready) && decide (weightDie q.va = dieOf core)).map fun q => (r, q) else []
    | none => []
  (s.teams.filter fun tm => decide (tm.core = core)).foldl (fun s tm =>
    (served tm).foldl (fun s p => match s.team? tm.id with
      | some t => (match t.sliceReq p.2.id with
        | some (r, q) => s.weightArrive t r q
        | none => s)
      | none => s) s) s

/-- WEIGHT_BANK_TURN (R256): the next n-cycle of a die's rotation serves the core whose number modulo 64 it is. -/
def execWeightBankTurn (s : State) : Host.Outcome State Fault Refusal :=
  let die := s.arg 0
  let n := nth s.ncycs die 0
  let core := 64 * die + n % 64
  let s1 := (s.ops.foldl (fun s o => s.turnLoad core o) s).turnSlices core
  .next { s1 with ncycs := s1.ncycs.set die (n + 1) }

-- ---------------------------------------------------------------- power

/-- CLOCK_LEVEL_STEP (R491): a die moves one level, up or down; TCNT counts it. -/
def execClockLevelStep (s : State) : Host.Outcome State Fault Refusal :=
  let die := s.arg 0
  let l := nth s.levels die 0
  let put (x : Nat) : State := { s with levels := s.levels.set die x, tcnt := (s.tcnt + 1) % 2 ^ 16 }
  if s.levels.length ≤ die then .next s
  else if s.argBool 1 then .next (if l < 4 then put (l + 1) else s)
  else .next (if l = 0 then s else put (l - 1))

/-- THERMAL_TRIP (R492): every context is killed as by HALT, and the dies are down until the next reset. -/
def execThermalTrip (s : State) : Host.Outcome State Fault Refusal :=
  .next { (s.ctxs.map (·.num)).foldl State.killContext s with boot := 0x30 }

-- ---------------------------------------------------------------- the staged start

/-- BOOT with a stage and an error (R487). -/
def bootWord (st err : Nat) : Word := BitVec.ofNat 32 (st + 16 * err)

/-- BOOT.ERR (R487). -/
def State.bootErr (s : State) : Nat := bits s.boot.toNat 4 4

/-- POWER_ON_RESET (R487): the device at its reset values, with the part's words and the memory outside the package, at stage 0. -/
def execPowerOnReset (s : State) : Host.Outcome State Fault Refusal :=
  .next { State.reset with
    caps := s.caps
    home := s.home.filter fun c => decide (0x1000000000 ≤ c.1)
    nextId := s.nextId
    fresh := s.fresh
    agenda := s.agenda
    pick := s.pick
    cur := s.cur
    ir := s.ir }

/-- DIE0_BRING_UP (R487): the firmware has been verified, and stage 1 begins; a rejection leaves stage 0 with ERR 1. -/
def execDie0BringUp (s : State) : Host.Outcome State Fault Refusal :=
  .next (if s.stage = 0 ∧ s.bootErr = 0 then { s with boot := if Config.stagePasses 0 then bootWord 1 0 else bootWord 0 1 } else s)

/-- DIE1_BRING_UP (R487): stage 2, or a failure that leaves stage 1. -/
def execDie1BringUp (s : State) : Host.Outcome State Fault Refusal :=
  .next (if s.stage = 1 ∧ s.bootErr = 0 then { s with boot := if Config.stagePasses 2 then bootWord 2 0 else bootWord 1 2 } else s)

/-- STANDARD_IMAGE_POST (R487): the standard images go to slots 0 to 2, and stage 3 begins. -/
def execStandardImagePost (s : State) : Host.Outcome State Fault Refusal :=
  if s.stage ≠ 2 ∨ s.bootErr ≠ 0 then .next s
  else if Config.stagePasses 3 then
    .next { ([0, 1, 2].foldl (fun s i => s.postImage i (standardImage i)) s.releaseImages) with boot := bootWord 3 0 }
  else .next { s with boot := bootWord 2 4 }

-- ---------------------------------------------------------------- TDIs

/-- The TDI of a virtual function (R482). -/
def State.tdi (s : State) (vf : Nat) : Tdi := (s.tdis.find? fun x => decide (x.vf = vf)).getD ⟨vf, 0, [], []⟩

/-- Puts a TDI. -/
def State.setTdi (s : State) (x : Tdi) : State := { s with tdis := (s.tdis.filter fun y => decide (y.vf ≠ x.vf)) ++ [x] }

/-- Pairs of numbers of a list. -/
def pairUp : List Nat → List (Nat × Nat)
  | a :: b :: l => (a, b) :: pairUp l
  | _ => []

/-- Whether ranges are up to eight GDDR7 ranges, 2 MiB aligned (R482, R259). -/
def rangesOk (l : List (Nat × Nat)) : Bool :=
  decide (l.length ≤ 8) && l.all fun r => decide (r.1 % 2 ^ 21 = 0) && decide (r.2 % 2 ^ 21 = 0) && decide (r.1 + r.2 ≤ 0x1000000000)

/-- LOCK_INTERFACE_REQUEST (R482): the function and its ranges, each as first byte and size; an error response outside CONFIG_UNLOCKED. -/
def execLockInterfaceRequest (s : State) : Host.Outcome State Fault Refusal :=
  let vf := s.arg 0
  let l := pairUp (s.pick.drop 1)
  if 1 ≤ vf ∧ vf ≤ 63 ∧ (s.tdi vf).st = 0 ∧ rangesOk l = true then .next (s.setTdi ⟨vf, 1, l, (s.tdi vf).gone⟩) else .next s

/-- START_INTERFACE_REQUEST (R482): CONFIG_LOCKED becomes RUN. -/
def execStartInterfaceRequest (s : State) : Host.Outcome State Fault Refusal :=
  let vf := s.arg 0
  let x := s.tdi vf
  .next (if x.st = 1 then s.setTdi { x with st := 2 } else s)

/-- Zeroes one range of a TDI (R483): its bytes and marks, its lines in every L1 and slice with their pins. -/
def State.scrubRange (s : State) (r : Nat × Nat) : State :=
  let inside (a : Nat) : Bool := decide (r.1 ≤ a) && decide (a < r.1 + r.2)
  { s with
    home := memClear s.home r.1 r.2
    homePoison := s.homePoison.filter fun u => ! inside (u * 64)
    l1 := s.l1.filter fun x => ! inside (x.sector * 64)
    slices := s.slices.filter fun x => ! inside (x.line * 256) }

/-- The end of one bound context of a TDI (R483): killed as by HALT, and its page returns to reset. -/
def State.endBound (s : State) (ctx : Nat) : State :=
  ((s.killContext ctx).sweep ctx 0 allGranules).updCtx ctx fun _ => emptyCtx ctx

/-- The end of a TDI (R483, R484): what its contexts have in flight is not performed, they are killed, its state is scrubbed, and it
enters a state. -/
def State.endTdi (s : State) (vf st : Nat) : State :=
  let x := s.tdi vf
  let bound := (s.ctxs.filter fun c => c.tee && decide (c.own = vf)).map (·.num)
  let s1 := x.ranges.foldl State.scrubRange (bound.foldl State.endBound s)
  let zeroed (a : Nat) : Option Nat := if x.ranges.any fun r => decide (r.1 ≤ a) && decide (a < r.1 + r.2) then some 0 else none
  (s1.checkHomeWaiters none zeroed).releaseImages.drainAll.setTdi ⟨vf, st, [], bound ++ x.gone⟩

/-- Whether a TDI is locked or runs. -/
def Tdi.active (x : Tdi) : Bool := decide (x.st = 1) || decide (x.st = 2)

/-- STOP_INTERFACE_REQUEST (R483): the TDI ends; one in ERROR becomes CONFIG_UNLOCKED (PRESUMED: TDISP 1.0, log 14). -/
def execStopInterfaceRequest (s : State) : Host.Outcome State Fault Refusal :=
  let vf := s.arg 0
  let x := s.tdi vf
  .next (if x.active then s.endTdi vf 0 else if x.st = 3 then s.setTdi { x with st := 0 } else s)

/-- TDI_ENTERS_ERROR (R483): a locked or running TDI ends and stays in ERROR. -/
def execTdiEntersError (s : State) : Host.Outcome State Fault Refusal :=
  let vf := s.arg 0
  .next (if (s.tdi vf).active then s.endTdi vf 3 else s)

/-- END_SESSION (R483): the SPDM session of a TDI ends. -/
def execEndSession (s : State) : Host.Outcome State Fault Refusal :=
  let vf := s.arg 0
  .next (if (s.tdi vf).active then s.endTdi vf 0 else s)

/-- HEARTBEAT_LAPSE (R483): the heartbeat of a TDI's session lapses. -/
def execHeartbeatLapse (s : State) : Host.Outcome State Fault Refusal :=
  let vf := s.arg 0
  .next (if (s.tdi vf).active then s.endTdi vf 0 else s)

-- ---------------------------------------------------------------- attestation

/-- The 132 bytes of a key slot (R485). -/
def keyBytes : Option (Nat × Nat) → List Byte
  | none => List.replicate 132 0
  | some k => beBytes 66 k.1 ++ beBytes 66 k.2

/-- CXC of a context page (R478). -/
def Ctx.cxc (c : Ctx) : Nat := c.live.toNat + 2 * c.busy.toNat + 2 ^ 8 * c.wayGroup + 2 ^ 16 * c.own + 2 ^ 22 * c.tee.toNat

/-- A word of a 64-bit register. -/
def half64 (x : Dword) (hi : Bool) : Nat := if hi then x.toNat / 2 ^ 32 else x.toNat % 2 ^ 32

/-- What a word of a context page reads as (R343, R362, R365, R378, R404, R414, R423, R445, R473, R478, R489): write-only fields, reserved bits
and words that no register has read 0 (R10). -/
def Ctx.readWord (c : Ctx) (o : Nat) : Nat :=
  let hi := decide (o / 4 % 2 = 1)
  let half (base : Nat) : Bool := decide (o = base) || decide (o = base + 4)
  if o = 0 then c.cxc
  else if 8 ≤ o ∧ o < 24 then (nth c.cxpm ((o - 8) / 4) 0).toNat
  else if half 0x40 then half64 c.jnb hi
  else if o = 0x48 then c.jnc.toNat
  else if o = 0x4C then c.jns.toNat
  else if 0x80 ≤ o ∧ o < 0xA0 then (nth c.qmap ((o - 0x80) / 4) 0).toNat
  else if o = 0x100 then c.preq.toNat
  else if o = 0x104 then c.pstat
  else if half 0x108 then half64 c.csab hi
  else if o = 0x110 then c.csas.toNat
  else if o = 0x114 then c.pneed.toNat
  else if half 0x120 then half64 c.fqb hi
  else if o = 0x128 then c.fqc.toNat
  else if half 0x140 then half64 c.ttb hi
  else if half 0x148 then half64 c.inva hi
  else if o = 0x154 then c.invBusy.toNat + 2 * c.invLost.toNat + 4 * c.invErr.toNat
  else if half 0x160 then half64 (nth c.rljb 0 0) hi
  else if o = 0x168 then (nth c.rljc 0 0).toNat
  else if half 0x170 then half64 (nth c.rljb 1 0) hi
  else if o = 0x178 then (nth c.rljc 1 0).toNat
  else if o = 0x180 then c.imbd.toNat
  else if half 0x188 then half64 c.ryjb hi
  else if half 0x190 then half64 c.sdfb hi
  else if o = 0x198 then c.sdft.toNat
  else if o = 0x19C then c.sdfs.toNat
  else if half 0x1C0 then half64 c.stprim hi
  else if half 0x1C8 then half64 c.stcull hi
  else if 0x200 ≤ o ∧ o < 0x280 then half64 (nth (if o / 8 % 2 = 0 then c.oqj else c.oqn) ((o - 0x200) / 16) 0) hi
  else 0

/-- What a word of a launch queue's block reads as (R340): LQW, which is write-only, reads 0 (R10). -/
def LaunchQ.readWord (x : LaunchQ) (o : Nat) : Nat :=
  match o with
  | 0 => half64 x.lqb false
  | 4 => half64 x.lqb true
  | 8 => x.lqc.toNat
  | 12 => x.lqci.toNat
  | 20 => x.pw.toNat + 2 * x.err.toNat + 4 * x.full.toNat
  | _ => 0

/-- The two counters of the port that TCSEL selects; 0 where it names none (R476). -/
def State.selected (s : State) : TrimCount :=
  let n := s.tcsel.toNat
  let here (x : TrimCount) : Bool := decide (x.die = bits n 0 1) && decide (x.site = bits n 1 6) && decide (x.port = bits n 7 3)
  ((s.trims.find? here).getD ⟨0, 0, 0, 0, 0, none⟩).shown (nth s.ncycs (bits n 0 1) 0)

/-- What a global word of function 0 reads as (R25, R252, R340, R345, R356, R408, R443, R476, R480, R486, R487, R491): write-only fields,
reserved bits and words that no register has read 0 (R10). -/
def State.readGlobal (s : State) (o : Nat) : Nat :=
  let hi := decide (o / 4 % 2 = 1)
  let half (base : Nat) : Bool := decide (o = base) || decide (o = base + 4)
  let ctl (base : Nat) : DieCtl := nth s.ctls ((o - base) / 16) ⟨0, 0, 0, 0, 0, 0, 0⟩
  if o = 0 then s.boot.toNat
  else if 0x40 ≤ o ∧ o < 0x50 then (nth s.caps ((o - 0x40) / 4) 0).toNat
  else if 0x200 ≤ o ∧ o < 0x220 then (nth s.scwg ((o - 0x200) / 4) 0).toNat
  else if o = 0x240 then s.scunp.toNat
  else if 0x300 ≤ o ∧ o < 0x400 then
    (if o / 8 % 2 = 0 then half64 (nth s.stsl ((o - 0x300) / 16) 0) hi
     else if hi then 0 else (nth s.stsc ((o - 0x300) / 16) 0).toNat)
  else if half 0x400 || half 0x410 then half64 (ctl 0x400).lsrb hi
  else if o = 0x408 ∨ o = 0x418 then (ctl 0x400).lsrc.toNat
  else if o = 0x40C ∨ o = 0x41C then (ctl 0x400).lsrp % 2 ^ 16 + (ctl 0x400).lsrk % 2 ^ 16 * 2 ^ 16
  else if half 0x480 || half 0x490 then half64 (ctl 0x480).sqb hi
  else if o = 0x488 ∨ o = 0x498 then (ctl 0x480).sqc.toNat
  else if o = 0x4A0 ∨ o = 0x4A4 then (nth s.ctls ((o - 0x4A0) / 4) ⟨0, 0, 0, 0, 0, 0, 0⟩).svres.toNat
  else if half 0x500 then half64 s.imgb hi
  else if o = 0x508 then s.imgc.toNat
  else if o = 0x50C then s.imgs
  else if half 0x520 then half64 s.keyb hi
  else if o = 0x528 then s.keyc.toNat
  else if o = 0x600 then s.tcsel.toNat
  else if o = 0x608 then s.selected.trims.toNat
  else if o = 0x60C then s.selected.flits.toNat
  else if o = 0x700 then nth s.levels 0 0 + nth s.levels 1 0 * 2 ^ 4 + s.tcnt % 2 ^ 16 * 2 ^ 16
  else if o = 0x708 then s.pwlim.toNat
  else if 0x1000 ≤ o ∧ o < 0x1400 then (s.lq ((o - 0x1000) / 32)).readWord (o % 32)
  else 0

/-- What the host reads of one 32-bit word through a function's window (R10, R25, R478): a virtual function sees the pages of the contexts it
owns, and 0 elsewhere. None is a read that is not answered, before stage 1 of anything but BOOT and CAP (R487), or that completes as
Unsupported Request: one of the pages that a TDI of the function had when it ended, until the function owns the page again (R483; log 14). -/
def State.readReg (s : State) (fn off : Nat) : Option Nat :=
  let word := off % 4 = 0
  if s.stage = 0 ∧ ! (decide (fn = 0) && decide word && (decide (off = 0) || (decide (0x40 ≤ off) && decide (off < 0x50)))) then none
  else if fn = 0 then
    some (if ¬ word then 0
      else if off < 0x10000 then s.readGlobal off
      else if 0x100000 ≤ off ∧ off < 0x200000 then (s.page ((off - 0x100000) / 4096)).readWord (off % 4096)
      else 0)
  else if 64 ≤ fn ∨ 256 ≤ off / 4096 then some 0
  else if (s.page (off / 4096)).own = fn then some (if word then (s.page (off / 4096)).readWord (off % 4096) else 0)
  else if (s.tdi fn).gone.contains (off / 4096) then none
  else some 0

/-- The measurement of an index for a requesting TDI (R485); none for an index the table does not list. -/
def State.measurement (s : State) (index vf : Nat) : Option (List Byte) :=
  if 1 ≤ index ∧ index ≤ 3 then some (Config.firmwareDigest index)
  else if index = 4 then some (sha512 ((s.caps ++ [s.boot]).flatMap fun w => leBytes 4 w.toNat))
  else if index = 5 then some (sha512 ((List.range 16).flatMap fun i => keyBytes (s.key i)))
  else if 16 ≤ index ∧ index < 32 then
    match (nth s.imgSlots (index - 16) emptySlot).cur with
    | some i => some (sha512 i.body)
    | none => some (List.replicate 64 0)
  else if index = 32 then
    some (Config.tdiDigest (s.tdi vf).ranges ((s.ctxs.filter fun c => c.tee && decide (c.own = vf)).map Ctx.cxc))
  else none

/-- GET_MEASUREMENTS (R485): index and requesting function; the response is the digest with its signature. -/
def execGetMeasurements (s : State) : Host.Outcome State Fault Refusal :=
  match s.measurement (s.arg 0) (s.arg 1) with
  | some d => .next { s with measured := d ++ Config.identitySign d }
  | none => .next s

/-- The certificate chain of an SPDM slot (R485): slot 0 holds Relnor's. -/
def State.certificate (s : State) (slot : Nat) : List Byte := if slot = 0 then Config.relnorChain else nth s.certs (slot - 1) []

/-- SET_CERTIFICATE (R485): slot, then the bytes; slot 0 holds Relnor's chain. -/
def execSetCertificate (s : State) : Host.Outcome State Fault Refusal :=
  let slot := s.arg 0
  if 1 ≤ slot ∧ slot ≤ 7 then .next { s with certs := s.certs.set (slot - 1) ((s.pick.drop 1).map (BitVec.ofNat 8)) } else .next s

end Machine
end Sys2Proof
end

