-- ==== Sys2Proof/Machine/Dispatch.lean ====
section
/-! DEFINITION. What each instruction and each event does: one arm per constructor of Instr, one meaning each. -/

namespace Sys2Proof
namespace Machine

def exec (i : Instr) (s : State) : Host.Outcome State Fault Refusal :=
  match i with
  | .ill => Sys2Proof.Machine.execIll s
  | .addI32 d a l b m => Sys2Proof.Machine.execAddI32 d a l b m s
  | .addN32 d a l b m => Sys2Proof.Machine.execAddN32 d a l b m s
  | .subI32 d a l b m => Sys2Proof.Machine.execSubI32 d a l b m s
  | .subN32 d a l b m => Sys2Proof.Machine.execSubN32 d a l b m s
  | .mullo32 d a l b m => Sys2Proof.Machine.execMullo32 d a l b m s
  | .mulhiI32 d a l b m => Sys2Proof.Machine.execMulhiI32 d a l b m s
  | .mulhiN32 d a l b m => Sys2Proof.Machine.execMulhiN32 d a l b m s
  | .divI32 d a l b m => Sys2Proof.Machine.execDivI32 d a l b m s
  | .divN32 d a l b m => Sys2Proof.Machine.execDivN32 d a l b m s
  | .remI32 d a l b m => Sys2Proof.Machine.execRemI32 d a l b m s
  | .remN32 d a l b m => Sys2Proof.Machine.execRemN32 d a l b m s
  | .minI32 d a l b m => Sys2Proof.Machine.execMinI32 d a l b m s
  | .minN32 d a l b m => Sys2Proof.Machine.execMinN32 d a l b m s
  | .maxI32 d a l b m => Sys2Proof.Machine.execMaxI32 d a l b m s
  | .maxN32 d a l b m => Sys2Proof.Machine.execMaxN32 d a l b m s
  | .abs32 d a l => Sys2Proof.Machine.execAbs32 d a l s
  | .neg32 d a l => Sys2Proof.Machine.execNeg32 d a l s
  | .and32 d a l b m => Sys2Proof.Machine.execAnd32 d a l b m s
  | .or32 d a l b m => Sys2Proof.Machine.execOr32 d a l b m s
  | .xor32 d a l b m => Sys2Proof.Machine.execXor32 d a l b m s
  | .andn32 d a l b m => Sys2Proof.Machine.execAndn32 d a l b m s
  | .not32 d a l => Sys2Proof.Machine.execNot32 d a l s
  | .shl32 d a l b m => Sys2Proof.Machine.execShl32 d a l b m s
  | .shr32 d a l b m => Sys2Proof.Machine.execShr32 d a l b m s
  | .shra32 d a l b m => Sys2Proof.Machine.execShra32 d a l b m s
  | .rot32 d a l b m => Sys2Proof.Machine.execRot32 d a l b m s
  | .popc32 d a l => Sys2Proof.Machine.execPopc32 d a l s
  | .clz32 d a l => Sys2Proof.Machine.execClz32 d a l s
  | .ctz32 d a l => Sys2Proof.Machine.execCtz32 d a l s
  | .brev32 d a l => Sys2Proof.Machine.execBrev32 d a l s
  | .permb d a l b m => Sys2Proof.Machine.execPermb d a l b m s
  | .mov32 d a l => Sys2Proof.Machine.execMov32 d a l s
  | .bfxI32 d a l b m => Sys2Proof.Machine.execBfxI32 d a l b m s
  | .bfxN32 d a l b m => Sys2Proof.Machine.execBfxN32 d a l b m s
  | .addI64 d a l b m => Sys2Proof.Machine.execAddI64 d a l b m s
  | .addN64 d a l b m => Sys2Proof.Machine.execAddN64 d a l b m s
  | .subI64 d a l b m => Sys2Proof.Machine.execSubI64 d a l b m s
  | .subN64 d a l b m => Sys2Proof.Machine.execSubN64 d a l b m s
  | .mullo64 d a l b m => Sys2Proof.Machine.execMullo64 d a l b m s
  | .mulhiI64 d a l b m => Sys2Proof.Machine.execMulhiI64 d a l b m s
  | .mulhiN64 d a l b m => Sys2Proof.Machine.execMulhiN64 d a l b m s
  | .divI64 d a l b m => Sys2Proof.Machine.execDivI64 d a l b m s
  | .divN64 d a l b m => Sys2Proof.Machine.execDivN64 d a l b m s
  | .remI64 d a l b m => Sys2Proof.Machine.execRemI64 d a l b m s
  | .remN64 d a l b m => Sys2Proof.Machine.execRemN64 d a l b m s
  | .minI64 d a l b m => Sys2Proof.Machine.execMinI64 d a l b m s
  | .minN64 d a l b m => Sys2Proof.Machine.execMinN64 d a l b m s
  | .maxI64 d a l b m => Sys2Proof.Machine.execMaxI64 d a l b m s
  | .maxN64 d a l b m => Sys2Proof.Machine.execMaxN64 d a l b m s
  | .abs64 d a l => Sys2Proof.Machine.execAbs64 d a l s
  | .neg64 d a l => Sys2Proof.Machine.execNeg64 d a l s
  | .and64 d a l b m => Sys2Proof.Machine.execAnd64 d a l b m s
  | .or64 d a l b m => Sys2Proof.Machine.execOr64 d a l b m s
  | .xor64 d a l b m => Sys2Proof.Machine.execXor64 d a l b m s
  | .andn64 d a l b m => Sys2Proof.Machine.execAndn64 d a l b m s
  | .not64 d a l => Sys2Proof.Machine.execNot64 d a l s
  | .shl64 d a l b m => Sys2Proof.Machine.execShl64 d a l b m s
  | .shr64 d a l b m => Sys2Proof.Machine.execShr64 d a l b m s
  | .shra64 d a l b m => Sys2Proof.Machine.execShra64 d a l b m s
  | .rot64 d a l b m => Sys2Proof.Machine.execRot64 d a l b m s
  | .popc64 d a l => Sys2Proof.Machine.execPopc64 d a l s
  | .clz64 d a l => Sys2Proof.Machine.execClz64 d a l s
  | .ctz64 d a l => Sys2Proof.Machine.execCtz64 d a l s
  | .brev64 d a l => Sys2Proof.Machine.execBrev64 d a l s
  | .mov64 d a l => Sys2Proof.Machine.execMov64 d a l s
  | .bfxI64 d a l b m => Sys2Proof.Machine.execBfxI64 d a l b m s
  | .bfxN64 d a l b m => Sys2Proof.Machine.execBfxN64 d a l b m s
  | .addc d a l b m p => Sys2Proof.Machine.execAddc d a l b m p s
  | .subb d a l b m p => Sys2Proof.Machine.execSubb d a l b m p s
  | .sel d a l b m p => Sys2Proof.Machine.execSel d a l b m p s
  | .lea d a l b m x sv => Sys2Proof.Machine.execLea d a l b m x sv s
  | .bfi d a l b m c => Sys2Proof.Machine.execBfi d a l b m c s
  | .mad32 d a l b m c => Sys2Proof.Machine.execMad32 d a l b m c s
  | .mad64 d a l b m c => Sys2Proof.Machine.execMad64 d a l b m c s
  | .addI32Imm d a l iv => Sys2Proof.Machine.execAddI32Imm d a l iv s
  | .andImm d a l iv => Sys2Proof.Machine.execAndImm d a l iv s
  | .orImm d a l iv => Sys2Proof.Machine.execOrImm d a l iv s
  | .xorImm d a l iv => Sys2Proof.Machine.execXorImm d a l iv s
  | .shlImm d a l w n => Sys2Proof.Machine.execShlImm d a l w n s
  | .shrImm d a l w n => Sys2Proof.Machine.execShrImm d a l w n s
  | .shraImm d a l w n => Sys2Proof.Machine.execShraImm d a l w n s
  | .rotImm d a l w n => Sys2Proof.Machine.execRotImm d a l w n s
  | .movi d iv => Sys2Proof.Machine.execMovi d iv s
  | .addI64Imm d a l iv => Sys2Proof.Machine.execAddI64Imm d a l iv s
  | .faddF32 d a l b m => Sys2Proof.Machine.execFaddF32 d a l b m s
  | .fsubF32 d a l b m => Sys2Proof.Machine.execFsubF32 d a l b m s
  | .fmulF32 d a l b m => Sys2Proof.Machine.execFmulF32 d a l b m s
  | .fminF32 d a l b m => Sys2Proof.Machine.execFminF32 d a l b m s
  | .fmaxF32 d a l b m => Sys2Proof.Machine.execFmaxF32 d a l b m s
  | .fdivF32 d a l b m => Sys2Proof.Machine.execFdivF32 d a l b m s
  | .fsqrtF32 d a l => Sys2Proof.Machine.execFsqrtF32 d a l s
  | .frcpF32 d a l => Sys2Proof.Machine.execFrcpF32 d a l s
  | .frsqF32 d a l => Sys2Proof.Machine.execFrsqF32 d a l s
  | .fexp2F32 d a l => Sys2Proof.Machine.execFexp2F32 d a l s
  | .flog2F32 d a l => Sys2Proof.Machine.execFlog2F32 d a l s
  | .fsinF32 d a l => Sys2Proof.Machine.execFsinF32 d a l s
  | .fcosF32 d a l => Sys2Proof.Machine.execFcosF32 d a l s
  | .fabsF32 d a l => Sys2Proof.Machine.execFabsF32 d a l s
  | .fnegF32 d a l => Sys2Proof.Machine.execFnegF32 d a l s
  | .fclassF32 d a l => Sys2Proof.Machine.execFclassF32 d a l s
  | .fscaleF32 d a l b m => Sys2Proof.Machine.execFscaleF32 d a l b m s
  | .frintF32 d a l => Sys2Proof.Machine.execFrintF32 d a l s
  | .faddF64 d a l b m => Sys2Proof.Machine.execFaddF64 d a l b m s
  | .fsubF64 d a l b m => Sys2Proof.Machine.execFsubF64 d a l b m s
  | .fmulF64 d a l b m => Sys2Proof.Machine.execFmulF64 d a l b m s
  | .fminF64 d a l b m => Sys2Proof.Machine.execFminF64 d a l b m s
  | .fmaxF64 d a l b m => Sys2Proof.Machine.execFmaxF64 d a l b m s
  | .fdivF64 d a l b m => Sys2Proof.Machine.execFdivF64 d a l b m s
  | .fsqrtF64 d a l => Sys2Proof.Machine.execFsqrtF64 d a l s
  | .frcpF64 d a l => Sys2Proof.Machine.execFrcpF64 d a l s
  | .frsqF64 d a l => Sys2Proof.Machine.execFrsqF64 d a l s
  | .fexp2F64 d a l => Sys2Proof.Machine.execFexp2F64 d a l s
  | .flog2F64 d a l => Sys2Proof.Machine.execFlog2F64 d a l s
  | .fsinF64 d a l => Sys2Proof.Machine.execFsinF64 d a l s
  | .fcosF64 d a l => Sys2Proof.Machine.execFcosF64 d a l s
  | .fabsF64 d a l => Sys2Proof.Machine.execFabsF64 d a l s
  | .fnegF64 d a l => Sys2Proof.Machine.execFnegF64 d a l s
  | .fclassF64 d a l => Sys2Proof.Machine.execFclassF64 d a l s
  | .fscaleF64 d a l b m => Sys2Proof.Machine.execFscaleF64 d a l b m s
  | .frintF64 d a l => Sys2Proof.Machine.execFrintF64 d a l s
  | .faddF16 d a l b m => Sys2Proof.Machine.execFaddF16 d a l b m s
  | .fsubF16 d a l b m => Sys2Proof.Machine.execFsubF16 d a l b m s
  | .fmulF16 d a l b m => Sys2Proof.Machine.execFmulF16 d a l b m s
  | .fminF16 d a l b m => Sys2Proof.Machine.execFminF16 d a l b m s
  | .fmaxF16 d a l b m => Sys2Proof.Machine.execFmaxF16 d a l b m s
  | .fabsF16 d a l => Sys2Proof.Machine.execFabsF16 d a l s
  | .fnegF16 d a l => Sys2Proof.Machine.execFnegF16 d a l s
  | .fclassF16 d a l => Sys2Proof.Machine.execFclassF16 d a l s
  | .fscaleF16 d a l b m => Sys2Proof.Machine.execFscaleF16 d a l b m s
  | .frintF16 d a l => Sys2Proof.Machine.execFrintF16 d a l s
  | .faddBf16 d a l b m => Sys2Proof.Machine.execFaddBf16 d a l b m s
  | .fsubBf16 d a l b m => Sys2Proof.Machine.execFsubBf16 d a l b m s
  | .fmulBf16 d a l b m => Sys2Proof.Machine.execFmulBf16 d a l b m s
  | .fminBf16 d a l b m => Sys2Proof.Machine.execFminBf16 d a l b m s
  | .fmaxBf16 d a l b m => Sys2Proof.Machine.execFmaxBf16 d a l b m s
  | .fabsBf16 d a l => Sys2Proof.Machine.execFabsBf16 d a l s
  | .fnegBf16 d a l => Sys2Proof.Machine.execFnegBf16 d a l s
  | .fclassBf16 d a l => Sys2Proof.Machine.execFclassBf16 d a l s
  | .fscaleBf16 d a l b m => Sys2Proof.Machine.execFscaleBf16 d a l b m s
  | .frintBf16 d a l => Sys2Proof.Machine.execFrintBf16 d a l s
  | .ffmaF32 d a l b m c => Sys2Proof.Machine.execFfmaF32 d a l b m c s
  | .ffmaF64 d a l b m c => Sys2Proof.Machine.execFfmaF64 d a l b m c s
  | .ffmaF16 d a l b m c => Sys2Proof.Machine.execFfmaF16 d a l b m c s
  | .ffmaBf16 d a l b m c => Sys2Proof.Machine.execFfmaBf16 d a l b m c s
  | .cvt d a l b m sv => Sys2Proof.Machine.execCvt d a l b m sv s
  | .cmp p c a l b m o t => Sys2Proof.Machine.execCmp p c a l b m o t s
  | .pand p c a b => Sys2Proof.Machine.execPand p c a b s
  | .por p c a b => Sys2Proof.Machine.execPor p c a b s
  | .pxor p c a b => Sys2Proof.Machine.execPxor p c a b s
  | .pnot p c a => Sys2Proof.Machine.execPnot p c a s
  | .pmov p c a => Sys2Proof.Machine.execPmov p c a s
  | .br g sv o => Sys2Proof.Machine.execBr g sv o s
  | .call g sv o => Sys2Proof.Machine.execCall g sv o s
  | .brx a l => Sys2Proof.Machine.execBrx a l s
  | .callx a l => Sys2Proof.Machine.execCallx a l s
  | .ret => Sys2Proof.Machine.execRet s
  | .exit => Sys2Proof.Machine.execExit s
  | .yield => Sys2Proof.Machine.execYield s
  | .waitk k n => Sys2Proof.Machine.execWaitk k n s
  | .trap c => Sys2Proof.Machine.execTrap c s
  | .softi q => Sys2Proof.Machine.execSofti q s
  | .cdeclRange a l n => Sys2Proof.Machine.execCdeclRange a l n s
  | .cdeclMask d a l n => Sys2Proof.Machine.execCdeclMask d a l n s
  | .csign n => Sys2Proof.Machine.execCsign n s
  | .cwait n => Sys2Proof.Machine.execCwait n s
  | .xshfIdx d a l b m n => Sys2Proof.Machine.execXshfIdx d a l b m n s
  | .xshfUp d a l b m n => Sys2Proof.Machine.execXshfUp d a l b m n s
  | .xshfDown d a l b m n => Sys2Proof.Machine.execXshfDown d a l b m n s
  | .xshfXor d a l b m n => Sys2Proof.Machine.execXshfXor d a l b m n s
  | .xbcast d a l w h n => Sys2Proof.Machine.execXbcast d a l w h n s
  | .xred d a l o n => Sys2Proof.Machine.execXred d a l o n s
  | .xscanInc d a l o n => Sys2Proof.Machine.execXscanInc d a l o n s
  | .xscanExc d a l o n => Sys2Proof.Machine.execXscanExc d a l o n s
  | .xvote d a o n => Sys2Proof.Machine.execXvote d a o n s
  | .mma sv b l p n t => Sys2Proof.Machine.execMma sv b l p n t s
  | .mmas sv b l p n t => Sys2Proof.Machine.execMmas sv b l p n t s
  | .mmabXor sv b l p n t => Sys2Proof.Machine.execMmabXor sv b l p n t s
  | .mmabAnd sv b l p n t => Sys2Proof.Machine.execMmabAnd sv b l p n t s
  | .mmac sv b l p n t => Sys2Proof.Machine.execMmac sv b l p n t s
  | .aczero t => Sys2Proof.Machine.execAczero t s
  | .acld a l t => Sys2Proof.Machine.execAcld a l t s
  | .acst a l t => Sys2Proof.Machine.execAcst a l t s
  | .acres d a l sv t => Sys2Proof.Machine.execAcres d a l sv t s
  | .accmp d a l u t => Sys2Proof.Machine.execAccmp d a l u t s
  | .acmov u t => Sys2Proof.Machine.execAcmov u t s
  | .ldGB32 d a l g sv o => Sys2Proof.Machine.execLdGB32 d a l g sv o s
  | .stGB32 d a l g sv o => Sys2Proof.Machine.execStGB32 d a l g sv o s
  | .ldGB64 d a l g sv o => Sys2Proof.Machine.execLdGB64 d a l g sv o s
  | .stGB64 d a l g sv o => Sys2Proof.Machine.execStGB64 d a l g sv o s
  | .ldSB32 d a l g sv o => Sys2Proof.Machine.execLdSB32 d a l g sv o s
  | .stSB32 d a l g sv o => Sys2Proof.Machine.execStSB32 d a l g sv o s
  | .ldGeneral d a l sv g p z => Sys2Proof.Machine.execLdGeneral d a l sv g p z s
  | .stGeneral d a l sv g p z => Sys2Proof.Machine.execStGeneral d a l sv g p z s
  | .atom d a l p w o sv => Sys2Proof.Machine.execAtom d a l p w o sv s
  | .atomc d a l p w sv => Sys2Proof.Machine.execAtomc d a l p w sv s
  | .fence sv => Sys2Proof.Machine.execFence sv s
  | .waita d a l p w sv => Sys2Proof.Machine.execWaita d a l p w sv s
  | .wakea d a l p sv => Sys2Proof.Machine.execWakea d a l p sv s
  | .cflush a l => Sys2Proof.Machine.execCflush a l s
  | .cinv a l => Sys2Proof.Machine.execCinv a l s
  | .pin d a l => Sys2Proof.Machine.execPin d a l s
  | .unpin d a l => Sys2Proof.Machine.execUnpin d a l s
  | .tcopy d a l e sv => Sys2Proof.Machine.execTcopy d a l e sv s
  | .tcast d a l sv => Sys2Proof.Machine.execTcast d a l sv s
  | .tredBf16 d a l e sv => Sys2Proof.Machine.execTredBf16 d a l e sv s
  | .tredF32 d a l e sv => Sys2Proof.Machine.execTredF32 d a l e sv s
  | .aLoop c => Sys2Proof.Machine.execALoop c s
  | .aEnd => Sys2Proof.Machine.execAEnd s
  | .aAddr d a iv => Sys2Proof.Machine.execAAddr d a iv s
  | .aLdq d a sv r => Sys2Proof.Machine.execALdq d a sv r s
  | .aLdwq d a sv r => Sys2Proof.Machine.execALdwq d a sv r s
  | .aWaitq d => Sys2Proof.Machine.execAWaitq d s
  | .aSetq d l => Sys2Proof.Machine.execASetq d l s
  | .aBase d a iv => Sys2Proof.Machine.execABase d a iv s
  | .aExit => Sys2Proof.Machine.execAExit s
  | .qpop d a l q z => Sys2Proof.Machine.execQpop d a l q z s
  | .qpeek d a l q z => Sys2Proof.Machine.execQpeek d a l q z s
  | .qpush a l q => Sys2Proof.Machine.execQpush a l q s
  | .isub d a l c r => Sys2Proof.Machine.execIsub d a l c r s
  | .trace d a l => Sys2Proof.Machine.execTrace d a l s
  | .reord d a l o n => Sys2Proof.Machine.execReord d a l o n s
  | .launch a l p => Sys2Proof.Machine.execLaunch a l p s
  | .svc d a l n c => Sys2Proof.Machine.execSvc d a l n c s
  | .crnInit d a l u sv => Sys2Proof.Machine.execCrnInit d a l u sv s
  | .crnFree a l => Sys2Proof.Machine.execCrnFree a l s
  | .crnExpect d a l => Sys2Proof.Machine.execCrnExpect d a l s
  | .crnArrive d a l => Sys2Proof.Machine.execCrnArrive d a l s
  | .crnWait d a l => Sys2Proof.Machine.execCrnWait d a l s
  | .crnTest d a l => Sys2Proof.Machine.execCrnTest d a l s
  | .rdcyc d => Sys2Proof.Machine.execRdcyc d s
  | .rngx d a l b m => Sys2Proof.Machine.execRngx d a l b m s
  | .rngadd d a l b m k => Sys2Proof.Machine.execRngadd d a l b m k s
  | .movsr d n => Sys2Proof.Machine.execMovsr d n s
  | .movrs a l n => Sys2Proof.Machine.execMovrs a l n s
  | .eretResume d a l => Sys2Proof.Machine.execEretResume d a l s
  | .eretSkip d a l => Sys2Proof.Machine.execEretSkip d a l s
  | .eretKill d a l => Sys2Proof.Machine.execEretKill d a l s
  | .eretWrite d a l => Sys2Proof.Machine.execEretWrite d a l s
  | .eretRqrel d a l => Sys2Proof.Machine.execEretRqrel d a l s
  | .eretRqcan d a l => Sys2Proof.Machine.execEretRqcan d a l s
  | .eretDone d a l => Sys2Proof.Machine.execEretDone d a l s
  | .halt d a l => Sys2Proof.Machine.execHalt d a l s
  | .imm p => Sys2Proof.Machine.execImm p s
  | .mod e c sv t v r z => Sys2Proof.Machine.execMod e c sv t v r z s
  | .live x c z => Sys2Proof.Machine.execLive x c z s
  | .sched sv z => Sys2Proof.Machine.execSched sv z s
  | .bundleReform => Sys2Proof.Machine.execBundleReform s
  | .threadPromotion => Sys2Proof.Machine.execThreadPromotion s
  | .resultWrite => Sys2Proof.Machine.execResultWrite s
  | .matrixStart => Sys2Proof.Machine.execMatrixStart s
  | .matrixRetire => Sys2Proof.Machine.execMatrixRetire s
  | .storePerformed => Sys2Proof.Machine.execStorePerformed s
  | .l1Fill => Sys2Proof.Machine.execL1Fill s
  | .hostAccess => Sys2Proof.Machine.execHostAccess s
  | .tableWalk => Sys2Proof.Machine.execTableWalk s
  | .uncorrectableError => Sys2Proof.Machine.execUncorrectableError s
  | .copySectorRequest => Sys2Proof.Machine.execCopySectorRequest s
  | .copyDelivery => Sys2Proof.Machine.execCopyDelivery s
  | .queueSlotArrival => Sys2Proof.Machine.execQueueSlotArrival s
  | .islandContextBoundary => Sys2Proof.Machine.execIslandContextBoundary s
  | .islandAccept => Sys2Proof.Machine.execIslandAccept s
  | .islandResult => Sys2Proof.Machine.execIslandResult s
  | .rasterHandoffRecord => Sys2Proof.Machine.execRasterHandoffRecord s
  | .ridgelineEngineWake => Sys2Proof.Machine.execRidgelineEngineWake s
  | .ridgelineJobAccept => Sys2Proof.Machine.execRidgelineJobAccept s
  | .ridgelineJobEnd => Sys2Proof.Machine.execRidgelineJobEnd s
  | .launchQueueWake => Sys2Proof.Machine.execLaunchQueueWake s
  | .launchQueueScan => Sys2Proof.Machine.execLaunchQueueScan s
  | .launchReleaseComplete => Sys2Proof.Machine.execLaunchReleaseComplete s
  | .launchDependenceTest => Sys2Proof.Machine.execLaunchDependenceTest s
  | .teamPlace => Sys2Proof.Machine.execTeamPlace s
  | .compactorMove => Sys2Proof.Machine.execCompactorMove s
  | .reorderBatchForm => Sys2Proof.Machine.execReorderBatchForm s
  | .serviceReply => Sys2Proof.Machine.execServiceReply s
  | .gridComplete => Sys2Proof.Machine.execGridComplete s
  | .handlerEntryOpen => Sys2Proof.Machine.execHandlerEntryOpen s
  | .heldRecordPost => Sys2Proof.Machine.execHeldRecordPost s
  | .preemptRequest => Sys2Proof.Machine.execPreemptRequest s
  | .teamFreeze => Sys2Proof.Machine.execTeamFreeze s
  | .preemptDeadline => Sys2Proof.Machine.execPreemptDeadline s
  | .contextSaveComplete => Sys2Proof.Machine.execContextSaveComplete s
  | .restoreGo => Sys2Proof.Machine.execRestoreGo s
  | .goResumeFrozen => Sys2Proof.Machine.execGoResumeFrozen s
  | .contextCreate => Sys2Proof.Machine.execContextCreate s
  | .contextDestroy => Sys2Proof.Machine.execContextDestroy s
  | .contextDestroyDone => Sys2Proof.Machine.execContextDestroyDone s
  | .invalidatePage => Sys2Proof.Machine.execInvalidatePage s
  | .invalidateRange => Sys2Proof.Machine.execInvalidateRange s
  | .invalidateContext => Sys2Proof.Machine.execInvalidateContext s
  | .invalidationComplete => Sys2Proof.Machine.execInvalidationComplete s
  | .scunp => Sys2Proof.Machine.execScunp s
  | .scunpDone => Sys2Proof.Machine.execScunpDone s
  | .imagePost => Sys2Proof.Machine.execImagePost s
  | .imagePostDone => Sys2Proof.Machine.execImagePostDone s
  | .keyInstall => Sys2Proof.Machine.execKeyInstall s
  | .trimCounterClear => Sys2Proof.Machine.execTrimCounterClear s
  | .fqcWrite => Sys2Proof.Machine.execFqcWrite s
  | .registerWrite => Sys2Proof.Machine.execRegisterWrite s
  | .packetHeaderArrival => Sys2Proof.Machine.execPacketHeaderArrival s
  | .reRequestWindow => Sys2Proof.Machine.execReRequestWindow s
  | .reRequest => Sys2Proof.Machine.execReRequest s
  | .delivered => Sys2Proof.Machine.execDelivered s
  | .chainReservation => Sys2Proof.Machine.execChainReservation s
  | .chainGrant => Sys2Proof.Machine.execChainGrant s
  | .chainData => Sys2Proof.Machine.execChainData s
  | .chainDone => Sys2Proof.Machine.execChainDone s
  | .linkCrcFailure => Sys2Proof.Machine.execLinkCrcFailure s
  | .refreshSlot => Sys2Proof.Machine.execRefreshSlot s
  | .weightBankTurn => Sys2Proof.Machine.execWeightBankTurn s
  | .clockLevelStep => Sys2Proof.Machine.execClockLevelStep s
  | .thermalTrip => Sys2Proof.Machine.execThermalTrip s
  | .powerOnReset => Sys2Proof.Machine.execPowerOnReset s
  | .die0BringUp => Sys2Proof.Machine.execDie0BringUp s
  | .die1BringUp => Sys2Proof.Machine.execDie1BringUp s
  | .standardImagePost => Sys2Proof.Machine.execStandardImagePost s
  | .lockInterfaceRequest => Sys2Proof.Machine.execLockInterfaceRequest s
  | .stopInterfaceRequest => Sys2Proof.Machine.execStopInterfaceRequest s
  | .endSession => Sys2Proof.Machine.execEndSession s
  | .heartbeatLapse => Sys2Proof.Machine.execHeartbeatLapse s
  | .getMeasurements => Sys2Proof.Machine.execGetMeasurements s
  | .setCertificate => Sys2Proof.Machine.execSetCertificate s
  | .accumulatorInstructionFinish => Sys2Proof.Machine.execAccumulatorInstructionFinish s
  | .tdiEntersError => Sys2Proof.Machine.execTdiEntersError s
  | .startInterfaceRequest => Sys2Proof.Machine.execStartInterfaceRequest s

end Machine
end Sys2Proof
end

