-- ==== Sys2Proof/Machine/Turn.lean ====
section
/-! DEFINITION. Whose turn it is, and what a turn does: the fetch of a word (R93, R112, R186, R328), the turn of a thread, of an access
slice, of an event and of the clock, and the order in which a device left to itself takes them: the events that can occur, then the
issue pickers of R42 and R350, then the next cycle (log 1). -/

namespace Sys2Proof
namespace Machine

-- ---------------------------------------------------------------- fetch

/-- The word at a PC, read through the translation of its core (R93, R411), or the class of the fault (R112 step 1). -/
def State.fetch (s : State) (core ctx : Nat) (pc : Addr) : State × Except Nat Word :=
  match s.lookup core ctx pc.toNat false false true with
  | (s1, .ok pa _) => (s1.sliceTouch pa (s.wayGroup ctx) 0, .ok (BitVec.ofNat 32 (memRead s1.home pa 4)))
  | (s1, .fault cls) => (s1, .error cls)

-- ---------------------------------------------------------------- turns

/-- Whether a team issues at all: its core is up (R488), and it is not frozen (R379). A placed team of a context that is being restored runs: what
R385 enters before any thread issues is entered as the team is placed. -/
def State.teamRuns (s : State) (t : Team) : Bool :=
  s.coreUp t.core && t.frozen.isNone && (s.ctx? t.id.ctx).isSome

/-- Whether a thread may issue now: it is neither Parked nor Exited (R35), it has not issued in this cycle (R115), its next word is
available (R116, R375), and its team runs and is not paused (R134). -/
def State.mayIssue (s : State) (t : Thread) : Bool :=
  match s.team? t.id.teamId with
  | none => false
  | some tm =>
    let now := s.now (tm.coreOf t.id.rank)
    let live : Bool := match t.st with
      | .ready => decide (t.readyAt ≤ now)
      | .dependent | .blocked => true
      | _ => false
    live && decide (t.holdUntil ≤ now) && decide (tm.pausedUntil ≤ s.now tm.core) && s.teamRuns tm
      && ! (s.jobs.any fun j => decide (j.thr.teamId = t.id.teamId) && ! j.buffered)

/-- A thread fetches its word and executes it; a fetch that faults and a word that is no instruction trap at the word (R112, R113). While an
older word holds it, no word of it issues, hint or not, and none traps (R165). -/
def State.runThread (s : State) (id : ThreadId) : Host.Outcome State Fault Refusal :=
  match s.thread? id with
  | none => .next s
  | some t =>
    if ! s.mayIssue t then .next s
    else if s.heldBack id then .next (s.setWaiting id .dependent)
    else match s.fetch (s.coreOf id) id.ctx t.pc with
      | (s1, .error cls) => .next (s1.raiseTrap t cls 0 AccCode.fetch.num t.pc.toNat none)
      | (s1, .ok w) =>
        let s2 : State := { s1 with cur := .thread id, ir := w }
        match decodeWord w.toNat with
        | .error _ => .next (s2.raiseTrap t clsIllegal w 0 0 none)
        | .ok i => exec i s2

/-- Whether an access slice may issue now (R328, R379, R488). -/
def State.sliceRuns (s : State) (tm : Team) : Bool :=
  s.teamRuns tm && decide (tm.pausedUntil ≤ s.now tm.core) && (match tm.slice with
    | some sl => decide (sl.run = .running)
    | none => false)

/-- An access slice fetches the word at its APC and executes it; a fault or an illegal word stops it (R328, R334). -/
def State.runSlice (s : State) (id : TeamId) : Host.Outcome State Fault Refusal :=
  match s.team? id with
  | none => .next s
  | some tm => match tm.slice with
    | none => .next s
    | some sl =>
      if ! s.sliceRuns tm then .next s
      else match s.fetch tm.core id.ctx sl.apc with
        | (s1, .error cls) => .next (s1.stopSlice id cls 0 sl.apc.toNat)
        | (s1, .ok w) =>
          let s2 : State := { s1 with cur := .slice id, ir := w }
          match decodeWord w.toNat with
          | .error _ => .next (s2.stopSlice id clsIllegal w 0)
          | .ok i => exec i s2

-- ---------------------------------------------------------------- who issues in a cycle

/-- What becomes of a thread that tries its word: the state in which it waits at it; none when the word issues or traps. -/
def State.waits? (s : State) (id : ThreadId) : Option State :=
  match s.runThread id with
  | .next s1 => (match s1.thread? id with
    | some x => if x.st = .dependent ∨ x.st = .blocked then some { s1 with cur := s.cur, ir := s.ir } else none
    | none => none)
  | _ => none

/-- The state of a thread that is neither Parked nor Exited, by whether its next word can issue (R35): a thread whose word cannot issue
becomes Dependent or Blocked, and one whose word can becomes Ready, in the bundle it is stalled with, if any (R38). -/
def State.settleThread (s : State) (id : ThreadId) : State :=
  match s.thread? id with
  | none => s
  | some t =>
    if ! s.mayIssue t then s
    else match s.waits? id with
      | some s1 => s1
      | none =>
        if t.st = .ready then s
        else s.updThread id fun x =>
          { x.becomeReady (s.now (s.coreOf id)) (s.pauseOf id.teamId) with bundle := x.bundle }

/-- The states of the threads of a die (R35). -/
def State.settleDie (s : State) (die : Nat) : State :=
  ((s.threads.filter fun t => decide (dieOf (s.coreOf t.id) = die)).map (·.id)).foldl State.settleThread s

/-- The partitions of a die that hold threads or slices. -/
def State.partitions (s : State) (die : Nat) : List (Nat × Nat) :=
  let ofThread := s.threads.filterMap fun t => (s.team? t.id.teamId).map fun tm => (tm.coreOf t.id.rank, tm.partOf t.id.rank)
  let ofSlice := s.teams.filterMap fun t => t.slice.map fun sl => (t.core, sl.place / 4)
  ((ofThread ++ ofSlice).filter fun p => decide (dieOf p.1 = die)).dedup

/-- A bundle that can issue: its members in rank order, the word, whether a member is promoted, and the cycle since which it has waited:
of its promoted members when it holds one (R42). -/
structure Ready where
  members : List ThreadId
  word : Word
  promoted : Bool
  since : Nat
  deriving DecidableEq, Repr

/-- The cycle since which a bundle waits (R42). -/
def waitingSince (l : List Thread) : Nat :=
  let p := l.filter fun t => t.promoted
  let use := if p.isEmpty then l else p
  use.foldl (fun n t => min n t.since) ((use.map Thread.since).headD 0)

/-- The word a thread would issue. -/
def State.nextWord (s : State) (t : Thread) : Word :=
  match (s.fetch (s.coreOf t.id) t.id.ctx t.pc).2 with
  | .ok w => w
  | .error _ => 0

/-- The bundles of Ready threads of a partition that can issue: those whose members' operands are all available (R37, R38). -/
def State.readyBundles (s : State) (now : Nat) : List Thread → List Ready
  | [] => []
  | t :: rest =>
    let ms := s.bundleOf t now
    let first : Bool := ((ms.filter fun x => decide (x.st = .ready)).headD t).id == t.id
    if first && ms.all fun x => decide (x.st = .ready) then
      ⟨ms.map (·.id), s.nextWord t, ms.any (fun x => x.promoted), waitingSince ms⟩ :: s.readyBundles now rest
    else s.readyBundles now rest

/-- The picker's order of bundles (R42): promoted ones first, then the longest waiting, then the lowest member. -/
def Ready.before (a b : Ready) : Bool :=
  let low (x y : Ready) : Bool := match x.members, y.members with
    | p :: _, q :: _ => p.before q
    | _, _ => false
  if a.promoted = b.promoted then decide (a.since < b.since) || (decide (a.since = b.since) && low a b) else a.promoted

/-- Cycles a bundle of a word holds its vector pipe (R20, R116). -/
def occupancy (w : Word) : Nat :=
  match decodeWord w.toNat with
  | .error _ => 1
  | .ok i => match i with
    | .mullo64 .. | .mulhiI64 .. | .mulhiN64 .. | .mad64 .. => 2
    | .divI32 .. | .divN32 .. | .remI32 .. | .remN32 .. => 8
    | .divI64 .. | .divN64 .. | .remI64 .. | .remN64 .. => 16
    | .faddF64 .. | .fsubF64 .. | .fmulF64 .. | .ffmaF64 .. | .fminF64 .. | .fmaxF64 .. | .fabsF64 .. | .fnegF64 .. | .fclassF64 ..
    | .fscaleF64 .. | .frintF64 .. => 2
    | .frcpF32 .. | .frsqF32 .. | .fexp2F32 .. | .flog2F32 .. | .fsinF32 .. | .fcosF32 .. => 2
    | .frcpF64 .. | .frsqF64 .. | .fexp2F64 .. | .flog2F64 .. | .fsinF64 .. | .fcosF64 .. => 4
    | .fdivF32 .. | .fsqrtF32 .. => 4
    | .fdivF64 .. | .fsqrtF64 .. => 8
    | .rngx .. => 2
    | _ => 1

/-- Cycles a word of a grid holds its pipe: a CVT two when its slot word names .f64 on either side (R116). -/
def State.occupancyOf (s : State) (g : GridId) (w : Word) : Nat :=
  match decodeWord w.toNat with
  | .ok (.cvt _ _ _ _ _ k) =>
    let x := Slot.ofWord (s.slotWord g k)
    if x.fa = 0 ∨ x.fd = 0 then 2 else 1
  | _ => occupancy w

/-- The vector pipes of a partition that are free (R350). -/
def State.freePipes (s : State) (core part : Nat) : List Nat :=
  ([0, 1] : List Nat).filter fun k => ! s.pipes.any fun p =>
    decide (p.core = core) && decide (p.part = part) && decide (p.pipe = k) && decide (s.now core < p.till)

/-- Whether a word is for the matrix engine's accumulators, of which an engine accepts one bundle in a cycle (R230). -/
def isAccWord (w : Word) : Bool := decide (w.toNat / 2 ^ 26 = 0x2D)

/-- Of bundles in the picker's order, those that may issue together: at most one of accumulator instructions (R230). -/
def oneAccumulator : Bool → List Ready → List Ready
  | _, [] => []
  | taken, r :: rs =>
    if isAccWord r.word then (if taken then oneAccumulator true rs else r :: oneAccumulator true rs) else r :: oneAccumulator taken rs

/-- Picks the bundles of a partition that issue in this cycle, one to each free pipe (R42, R350): their threads have it, and it is held for
their occupancy (R116). -/
def State.pickThreads (s : State) (p : Nat × Nat) : State :=
  let now := s.now p.1
  let mine := (s.partThreads p.1 p.2).filter fun t => decide (t.st = .ready) && s.mayIssue t
  let picked := List.zip (s.freePipes p.1 p.2) (oneAccumulator false (sortBy Ready.before (s.readyBundles now mine)))
  { s with
    picks := s.picks ++ picked.flatMap fun x => x.2.members.map fun t => ⟨p.1, p.2, .thread t⟩
    pipes := s.pipes ++ picked.map fun x => match x.2.members with
      | m :: _ => ⟨p.1, p.2, x.1, now + s.occupancyOf m.gridId x.2.word⟩
      | [] => ⟨p.1, p.2, x.1, 0⟩ }

/-- Whether the word of a slice can issue: it does not wait at it (R328). -/
def State.sliceGoes (s : State) (id : TeamId) : Bool :=
  match s.runSlice id with
  | .next s1 => (match s.team? id, s1.team? id with
    | some a, some b => decide (a.slice ≠ b.slice)
    | _, _ => false)
  | _ => false

/-- Picks the instance that an affine address engine serves in this cycle: in rotation over its places, passing those whose word waits
(R328). -/
def State.pickSlice (s : State) (p : Nat × Nat) : State :=
  let last := match s.rotors.find? fun r => decide (r.core = p.1) && decide (r.part = p.2) with
    | some r => r.last
    | none => 3
  let at_ (k : Nat) : Option Team := s.teams.find? fun t => decide (t.core = p.1) && s.regionHeld t && (match t.slice with
    | some sl => decide (sl.place = 4 * p.2 + k)
    | none => false)
  let order := (List.range 4).map fun i => (last + 1 + i) % 4
  match order.findSome? fun k => (at_ k).bind fun t => if s.sliceRuns t && s.sliceGoes t.id then some (k, t.id) else none with
  | none => s
  | some (k, t) =>
    { s with
      picks := s.picks ++ [⟨p.1, p.2, .slice t⟩]
      rotors := (s.rotors.filter fun r => ! (decide (r.core = p.1) && decide (r.part = p.2))) ++ [⟨p.1, p.2, k⟩] }

/-- Lays down the issues of the present cycle of a die, once: the states of its threads (R35), the bundles that form in it (R37), and what
each partition issues (R328, R350). -/
def State.deal (s : State) (die : Nat) : State :=
  if nth s.dealt die true then s
  else
    let s1 := s.settleDie die
    let parts := s1.partitions die
    let s2 := parts.foldl (fun s p => if s.cycleOf die % 4 = 0 then s.reformPart p.1 p.2 else s.joinPart p.1 p.2) s1
    let s3 := parts.foldl (fun s p => (s.pickThreads p).pickSlice p) s2
    { s3 with dealt := s3.dealt.set die true }

-- ---------------------------------------------------------------- the order of the issues of one cycle

/-- The step of the fixed order within a cycle that an instruction belongs to: the words that may fire a phase, whose claims and entries
come first (R219, R223); QPEEK; A.WAITQ; QPOP; the other words of slices, which reserve first; ISUB and QPUSH (R316, R333); LAUNCH (R351);
copies, then cairn instructions (R468); and last ERET and HALT (R376). The words between have no order among themselves. -/
def phaseOf (slice : Bool) (i : Instr) : Nat :=
  match i with
  | .csign .. | .cdeclRange .. | .cdeclMask .. | .exit | .reord .. => 0
  | .qpeek .. => 1
  | .aWaitq .. => 2
  | .qpop .. => 3
  | .isub .. | .qpush .. => 6
  | .launch .. => 7
  | .tcopy .. | .tcast .. | .tredBf16 .. | .tredF32 .. => 8
  | .crnInit .. | .crnFree .. | .crnExpect .. | .crnArrive .. | .crnWait .. | .crnTest .. => 9
  | .eretResume .. | .halt .. => 10
  | _ => if slice then 4 else 5

/-- Where a picked word stands in the order of its cycle: its step, and within it the rank for the words of queues and cairns (R316, R468),
the global partition and the thread's name for LAUNCH (R351). -/
def State.pickKey (s : State) (p : Pick) : List Nat :=
  let word : Option Word := match p.who with
    | .thread t => (s.thread? t).map s.nextWord
    | .slice t => (s.team? t).bind fun tm => tm.slice.bind fun sl => ((s.fetch tm.core t.ctx sl.apc).2).toOption
    | .none => none
  let slice : Bool := match p.who with
    | .slice _ => true
    | _ => false
  let k := match word with
    | none => 5
    | some w => match decodeWord w.toNat with
      | .ok i => phaseOf slice i
      | .error _ => 5
  match p.who with
  | .thread t =>
    if k = 3 ∨ k = 6 ∨ k = 9 then [k, t.rank]
    else if k = 7 then [k, 4 * p.core + p.part, t.grid, t.team, t.rank]
    else [k]
  | _ => [k]

/-- The order of two keys. -/
def keyBefore : List Nat → List Nat → Bool
  | [], _ => false
  | _ :: _, [] => false
  | x :: xs, y :: ys => decide (x < y) || (decide (x = y) && keyBefore xs ys)

/-- The picks of a die that have not issued yet, in the order of the cycle (R219, R223, R316, R351, R376, R468). -/
def State.pickOrder (s : State) (die : Nat) : List Pick :=
  ((sortBy (fun a b : List Nat × Pick => keyBefore a.1 b.1)
    ((s.picks.filter fun p => decide (dieOf p.core = die)).map fun p => (s.pickKey p, p)))).map (·.2)

/-- Whether a pick can still issue: nothing has parked, ended or stopped it since. -/
def State.pickLive (s : State) (p : Pick) : Bool :=
  match p.who with
  | .thread t => (match s.thread? t with
    | some x => decide (x.st = .ready) && s.mayIssue x
    | none => false)
  | .slice t => (match s.team? t with
    | some x => s.sliceRuns x
    | none => false)
  | .none => false

/-- The pick of an actor, when none of its die that can still issue comes before it in the order of the cycle; the state without it. -/
def State.granted (s : State) (a : Actor) : Option State :=
  match s.picks.find? fun p => decide (p.who = a) with
  | none => none
  | some p =>
    let k := s.pickKey p
    if s.picks.any fun q => decide (dieOf q.core = dieOf p.core) && keyBefore (s.pickKey q) k && s.pickLive q then none
    else some { s with picks := s.picks.filter fun q => decide (q ≠ p) }

/-- The turn of a thread: it issues when its partition has picked it for the present cycle (R42, R350) and nothing that must come before it
in the cycle is still to issue. -/
def State.threadTurn (s : State) (id : ThreadId) : Host.Outcome State Fault Refusal :=
  let s1 := s.deal (dieOf (s.coreOf id))
  match s1.granted (.thread id) with
  | some s2 => s2.runThread id
  | none => .next s1

/-- The turn of an access slice (R328). -/
def State.sliceTurn (s : State) (id : TeamId) : Host.Outcome State Fault Refusal :=
  let s1 := s.deal (dieOf (s.coreOf ⟨id.ctx, id.grid, id.team, 0⟩))
  match s1.granted (.slice id) with
  | some s2 => s2.runSlice id
  | none => .next s1

-- ---------------------------------------------------------------- events and the clock

/-- Whether an event has to wait in its cycle for a word that is still to issue: the scan of a launch queue for every LAUNCH of its die
(R342); for the words of its team, the start of a matrix instruction, whose pops come last (R316, R224), a freeze, before which an exit comes
(R381), and the opening of an entry, which asks who has issued (R372). -/
def State.waitsFor (s : State) (i : Instr) (args : List Nat) (p : Pick) : Bool :=
  match i with
  | .launchQueueScan => decide (dieOf p.core = nth args 0 0 / 16 % 2) && decide ((s.pickKey p).head? = some 7) && s.pickLive p
  | .matrixStart | .teamFreeze | .preemptDeadline | .handlerEntryOpen =>
    let team : TeamId := ⟨nth args 0 0, nth args 1 0, nth args 2 0⟩
    (match p.who with
     | .thread t => decide (t.teamId = team)
     | .slice t => decide (t = team)
     | .none => false) && s.pickLive p
  | _ => false

/-- What must have happened in a cycle before an event: its die's issues are laid down where they bear on it (R316, R342, R372, R381), and the
states of the threads where bundles form (R35, R37). -/
def State.readied (s : State) (i : Instr) (args : List Nat) : State :=
  match i with
  | .launchQueueScan => s.deal (nth args 0 0 / 16 % 2)
  | .matrixStart | .teamFreeze | .preemptDeadline | .handlerEntryOpen => s.deal (dieOf (s.coreOf ⟨nth args 0 0, nth args 1 0, nth args 2 0, 0⟩))
  | .bundleReform => s.settleDie (dieOf (nth args 0 0))
  | _ => s

/-- Whether an event is a request of the host or of system software: before stage 1 the device answers none but reads of BOOT and CAP (R487). -/
def requestEvent (i : Instr) : Bool :=
  match i with
  | .hostAccess | .launchQueueWake | .preemptRequest | .restoreGo | .goResumeFrozen | .contextCreate | .contextDestroy | .invalidatePage
  | .invalidateRange | .invalidateContext | .scunp | .imagePost | .keyInstall | .trimCounterClear | .fqcWrite | .registerWrite
  | .lockInterfaceRequest | .startInterfaceRequest | .stopInterfaceRequest | .endSession | .getMeasurements | .setCertificate => true
  | _ => false

/-- The turn of an event of the device, with the numbers that say which occurrence it is. -/
def State.eventTurn (s : State) (i : Instr) (args : List Nat) : Host.Outcome State Fault Refusal :=
  if ! i.isEvent ∨ (s.stage = 0 ∧ requestEvent i = true) then .next s
  else
    let s1 := s.readied i args
    if s1.picks.any (s1.waitsFor i args) then .next s1 else exec i { s1 with pick := args, cur := .none }

/-- An event within a larger step. -/
def State.within (s : State) (i : Instr) (args : List Nat) : State :=
  match exec i { s with pick := args, cur := .none } with
  | .next s1 => { s1 with pick := s.pick, cur := s.cur }
  | _ => s

/-- The names of a team, as an event is told them. -/
def teamArgs (t : TeamId) : List Nat := [t.ctx, t.grid, t.team]
/-- The names of a thread, as an event is told them. -/
def threadArgs (t : ThreadId) : List Nat := [t.ctx, t.grid, t.team, t.rank]

/-- The matrix and accumulator entries of a team whose time has come retire or finish (R116, R117, R226, R230). -/
def State.finishDue (s : State) (tm : Team) : State :=
  let due := tm.engine.filter fun e => e.started && decide (e.due ≤ s.now tm.core)
  due.foldl (fun s e => if e.kind = 0 then s.within .matrixRetire (teamArgs tm.id)
    else s.within .accumulatorInstructionFinish (teamArgs tm.id ++ [e.id])) s

/-- What a die's frozen latencies have due is done (R115 to R117, R129): engine entries finish, a load reads its bytes, and results are
written, so that no consumer that issues in this cycle or later waits. -/
def State.writeDue (s : State) (die : Nat) : State :=
  let s1 := (s.teams.filter fun t => decide (dieOf t.core = die)).foldl State.finishDue s
  let due (o : Op) : Bool := decide (dieOf o.core = die) && (match o.due with
    | some d => decide (d ≤ s1.now o.core)
    | none => false)
  ((s1.ops.filter due).map (·.id)).foldl (fun s o => (s.within .resultWrite [o]).within .resultWrite [o]) s1

/-- The end of a cycle of a die: released waiters are Ready (R468), teams that are over leave, those of a requested context freeze, by themselves
or at their deadline, where no exit of the cycle came first (R379, R381), and handler entries open (R372). -/
def State.endCycle (s : State) (die : Nat) : State :=
  let s1 := (s.freeWaiters die).reapTeams
  let mine := (s1.teams.filter fun t => decide (dieOf t.core = die)).map (·.id)
  let each (s : State) (t : TeamId) : State :=
    ((s.within .teamFreeze (teamArgs t)).within .preemptDeadline (teamArgs t)).within .handlerEntryOpen (teamArgs t)
  mine.foldl each s1

/-- The clock of a die moves on: its cores' cycle count rises (R37, R470), the vector pipes whose bundles are done and the engines whose
intervals are over are free (R116, R226), nothing is picked, and no count has been added yet (R473). -/
def State.tick (s : State) (die : Nat) : State :=
  let n := s.cycleOf die + 1
  { s with
    cycles := s.cycles.set die n
    dealt := s.dealt.set die false
    picks := s.picks.filter fun p => decide (dieOf p.core ≠ die)
    pipes := s.pipes.filter fun p => decide (dieOf p.core ≠ die) || decide (n < p.till)
    holds := s.holds.filter fun h => decide (dieOf h.core ≠ die) || decide (n < h.till)
    ctxs := s.ctxs.map fun c => { c with added := c.added.filter fun a => decide (a.die ≠ die) } }

/-- The next cycle of a die: the last one ends, the actions of its ERETs take effect between the two, after all else of the one and before
all else of the other (R376; DEDUCED, log 46: a phase they fire fires in the new cycle), and what is due is written. -/
def State.cycleTurn (s : State) (die : Nat) : State := (((s.endCycle die).tick die).performErets die).writeDue die

/-- The turn of a die's clock: a word that is picked for the cycle issues in it (R42, R115, R350), the first of the order; with none left, the
next cycle begins. -/
def State.clockTurn (s : State) (die : Nat) : Host.Outcome State Fault Refusal :=
  let s1 := s.deal die
  match (s1.pickOrder die).find? s1.pickLive with
  | none => .next (s1.cycleTurn die)
  | some p =>
    let s2 : State := { s1 with agenda := .cycle die :: s1.agenda, picks := s1.picks.filter fun q => decide (q ≠ p) }
    match p.who with
    | .thread t => s2.runThread t
    | .slice t => s2.runSlice t
    | .none => .next s2

/-- What a turn does. -/
def State.take (s : State) (t : Turn) : Host.Outcome State Fault Refusal :=
  match t with
  | .event i args => s.eventTurn i args
  | .thread id => s.threadTurn id
  | .slice id => s.sliceTurn id
  | .cycle die => s.clockTurn die

-- ---------------------------------------------------------------- the events that can occur

/-- Whether a device left to itself lets a read of global memory without a frozen latency rest: its value comes no sooner than a hit's. -/
def State.restsLoad (s : State) (o : Op) (a : Access) : Bool :=
  o.due.isNone && decide (a.space = .g) && a.kind.reads && decide (o.stage = .bound) && decide (s.now o.core < o.issued + 60)

/-- Events of operations in flight (R129, R248, R265, R315, R413). -/
def State.opEvents (s : State) : List Turn :=
  s.ops.flatMap fun o => match o.body with
    | .mem a =>
      [.event .tableWalk [o.id], .event .storePerformed [o.id, 0]] ++ (if s.restsLoad o a then [] else [.event .resultWrite [o.id]]) ++
        (if s.needsFill o a then [.event .l1Fill [clusterOf o.core, a.pa.getD 0 / 64, 0]] else [])
    | .push _ _ _ => [.event .queueSlotArrival (teamArgs o.thr.teamId ++ [o.id])]
    | .result | .collective _ | .fence _ | .release => [.event .resultWrite [o.id]]
    | .reply | .island _ | .eret _ _ => []

/-- Events of copies (R309, R397, R398). -/
def State.copyEvents (s : State) : List Turn :=
  s.copies.flatMap fun c =>
    [.event .copySectorRequest [c.id]] ++ c.reqs.map (fun r => .event .copyDelivery [c.id, r.id]) ++
    (if c.kind = 1 then
      [.event .chainReservation [c.id], .event .chainGrant [c.id], .event .chainDone [c.id]] ++
        (List.range c.recvs.length).map fun k => .event .chainData [c.id, k]
     else [])

/-- Events of the slice reads of placed teams (R331). -/
def State.teamEvents (s : State) : List Turn :=
  s.teams.flatMap fun t =>
    (match t.slice with
     | some sl => sl.reads.flatMap fun r => r.reqs.flatMap fun q =>
        [.event .tableWalk [q.id], .event .queueSlotArrival (teamArgs t.id ++ [q.id])]
     | none => [])

/-- The moves the compactor may make (R134): down, or up where that moves nothing. -/
def State.compactions (s : State) : List Turn :=
  if s.compacting.isEmpty then []
  else s.teams.flatMap fun t =>
    if ! s.mayCompact t then []
    else if s.moves false t then [.event .compactorMove (teamArgs t.id ++ [512, 0])]
    else if s.moves true t then [.event .compactorMove (teamArgs t.id ++ [512, 1])]
    else []

/-- Events of islands and engines (R323, R424, R446, R449). -/
def State.engineEvents (s : State) : List Turn :=
  s.jobs.flatMap (fun j => [.event .islandAccept [j.id], .event .islandResult [j.id]]) ++
  s.islands.map (fun x => .event .islandContextBoundary [x.cls, x.isl]) ++
  [0, 1].flatMap fun d => [.event .ridgelineJobAccept [d], .event .rasterHandoffRecord [d], .event .ridgelineJobEnd [d]]

/-- Events of grids, reorder stores and service rings (R48, R344, R354, R359). -/
def State.gridEvents (s : State) : List Turn :=
  s.grids.flatMap (fun g => [.event .launchReleaseComplete [g.id.ctx, g.id.grid], .event .gridComplete [g.id.ctx, g.id.grid]]) ++
  s.reorder.map (fun d => .event .reorderBatchForm [d.core, d.grid.ctx, d.grid.grid, d.entry.toNat, d.bud]) ++
  s.svc.map fun b => .event .serviceReply [b.die, b.j]

/-- Events of contexts and of the device (R255, R366, R381, R415, R443, R479, R480, R487). -/
def State.deviceEvents (s : State) : List Turn :=
  s.ctxs.flatMap (fun c =>
    [.event .heldRecordPost [c.num], .event .contextSaveComplete [c.num], .event .contextDestroyDone [c.num],
     .event .invalidationComplete [c.num]]) ++
  [.event .scunpDone [], .event .imagePostDone [], .event .die0BringUp [], .event .die1BringUp [], .event .standardImagePost []] ++
  [0, 1].flatMap (fun d =>
    [.event .refreshSlot [d]] ++
    (if nth s.ncycs d 0 < 2 * s.cycleOf d then [.event .weightBankTurn [d]] else []))

/-- Events of packets (R387 to R395). -/
def State.packetEvents (s : State) : List Turn :=
  s.packets.flatMap (fun p =>
    [.event .packetHeaderArrival [1, p.id], .event .reRequest [p.id], .event .delivered [p.id]] ++
      (List.range p.flits.length).map fun f => .event .packetHeaderArrival [3, p.id, f]) ++
  (List.range s.outbox.length).map (fun i => .event .packetHeaderArrival [2, i]) ++
  (List.range s.rereqs.length).map fun i => .event .reRequestWindow [i]

/-- The promotions that are due (R42). -/
def State.promotions (s : State) : List Turn :=
  (s.threads.filter fun t => decide (t.st = .ready) && ! t.promoted && decide (t.since + 256 ≤ s.now (s.coreOf t.id))).map
    fun t => .event .threadPromotion (threadArgs t.id)

/-- The events that may occur. -/
def State.candidates (s : State) : List Turn :=
  s.deviceEvents ++ s.opEvents ++ s.copyEvents ++ s.teamEvents ++ s.engineEvents ++ s.gridEvents ++ s.packetEvents ++ s.promotions ++ s.compactions

/-- What an event makes of the state, when it changes it. -/
def State.changes (s : State) (t : Turn) : Option State :=
  match s.take t with
  | .next s1 =>
    let s2 : State := { s1 with pick := s.pick, cur := s.cur }
    if s2 = s then none else some s2
  | _ => none

-- ---------------------------------------------------------------- a device left to itself

/-- The actor of a pick, as a turn. -/
def Pick.turns (p : Pick) : List Turn :=
  match p.who with
  | .thread t => [.thread t]
  | .slice t => [.slice t]
  | .none => []

/-- The turns of one cycle once no event is left: placement, the issues of the cycle in their order, a test of every waiting dependence each
2,048 cycles (R346), the scans that LAUNCHes go before (R342), the starts of matrix instructions fired in the cycle (R224), and the next
cycle of both dies. -/
def State.plan (s : State) : State :=
  let s := (s.deal 0).deal 1
  let issue := (s.pickOrder 0 ++ s.pickOrder 1).flatMap Pick.turns
  let deps := (s.grids.filter fun g => g.elig && ! g.ready && decide (s.cycleOf g.die % 2048 = 0)).map
    fun g => Turn.event .launchDependenceTest [g.id.ctx, g.id.grid]
  let scans := ((List.range 32).filter s.wantsScan).map fun q => Turn.event .launchQueueScan [q]
  let starts := s.teams.map fun t => Turn.event .matrixStart (teamArgs t.id)
  { s with agenda := [.event .teamPlace []] ++ deps ++ issue ++ scans ++ starts ++ [.cycle 0, .cycle 1] }

/-- The step of a device left to itself: an event that can occur, else the turns of this cycle. -/
def State.auto (s : State) : State :=
  match s.candidates.findSome? s.changes with
  | some s1 => s1
  | none => s.plan

end Machine
end Sys2Proof
end

