-- ==== Sys2Proof/Machine/Step.lean ====
section
/-! DEFINITION. One step of the device: the turn at the head of the agenda, or, when nothing is laid down, what the device does by itself
(log 1); and a state whose next step runs a given word. -/

namespace Sys2Proof
namespace Machine

/-- One step. -/
def step (s : State) : Host.Outcome State Fault Refusal :=
  match s.agenda with
  | t :: rest => State.take { s with agenda := rest } t
  | [] => .next s.auto

-- ---------------------------------------------------------------- a placed word (log 17)

/-- The grid of a placed word: one team of one thread of 64 registers, in kernel mode, with a slice, one scratchpad block and four tiles. -/
def placedLaunch : LaunchRec :=
  { ver := 1, nrole := 0, prio := 0, det := false, span := false, depth := 0, acn32 := 4, acn64 := 0, svcp := 0, dl := 0, nteam := 1,
    scr := 1, depa := 0, depv := 0, dkind := 0, roles := [⟨0x10000, 1, 3⟩], slots := List.replicate 8 0, arg := 0, stkb := 0, stks := 0,
    aent := 0x10000, donea := 0, donev := 0, user := 0 }

/-- The names of the placed grid and its team. -/
def placedTeam : TeamId := ⟨0, 0, 0⟩

/-- The translation of the placed code: 64 KiB at 0x10000, to the same physical address. -/
def placedPage : Translation := ⟨0, 16, 16, 16, true, true, true, none⟩

/-- The state with an instruction where the next step fetches (log 17): a context, a grid, a team and a thread whose PC and slice whose
APC name the word; the turn, and the pick of the cycle (R350), is the slice's for a word of major 0x3A, the thread's otherwise. -/
def State.withFetchWord (s : State) (nbits w : Nat) : State :=
  let v := w % 2 ^ nbits
  let slice : Bool := decide (v / 2 ^ 26 = 0x3A)
  let ctx : Ctx := { emptyCtx 0 with live := true, cores := [0] }
  let grid : Grid := {
    id := ⟨0, 0⟩, launch := placedLaunch, raw := [], kernelMode := true, svcp := 0, order := 0, nextTeam := 1,
    relaunch := 0, placedCores := [0], die := 0, src := none, elig := true, srcVa := 0, ready := true, reserved := [], saved := false,
    sizes := [], subs := [], ks := [], waiting := [] }
  let team := newTeam placedTeam 0 false 1 (some (newSlice 0 0x10000 0 0 1)) [(0, 0, 0)] [(0, 0, 1)] 0
  let thread := newThread ⟨0, 0, 0, 0⟩ 0 0 1 1 0 0 64 [] 0x10000 0
  { s with
    boot := bootWord 3 0
    ctxs := ctx :: s.ctxs.filter fun x => decide (x.num ≠ 0)
    grids := grid :: s.grids.filter fun x => decide (x.id ≠ ⟨0, 0⟩)
    teams := team :: s.teams.filter fun x => decide (x.id ≠ placedTeam)
    threads := thread :: s.threads.filter fun x => decide (x.id.teamId ≠ placedTeam)
    tlb1 := ⟨0, placedPage⟩ :: s.tlb1
    home := memWrite s.home 0x10000 4 v
    dealt := s.dealt.set 0 true
    picks := [⟨0, 0, if slice then .slice placedTeam else .thread ⟨0, 0, 0, 0⟩⟩]
    agenda := (if slice then .slice placedTeam else .thread ⟨0, 0, 0, 0⟩) :: s.agenda }

end Machine
end Sys2Proof
end

