-- ==== Sys2Proof/Safety.lean ====
section
/-! DEFINITION. What the claims are stated in: when a word of a thread issues (R112), the state an issued word commits before its own
effect, the memories in canonical form, and a safe run. -/

namespace Sys2Proof
namespace Machine

/-- The conditions under which a word of a thread issues, in the order of R112: it is the thread's turn; the word is legal and accepts
the hints latched; its registers lie in the budget; its unit is present; it makes no cross-team communication of a deterministic grid;
nothing it must wait for is outstanding (R35); and no counter of the thread has reached 64 (R460). -/
structure State.Issues (s : State) (t : Thread) (i : Issue) : Prop where
  acting : s.cur = .thread t.id
  found : s.thread? t.id = some t
  legal : i.flaw = false
  accepted : hintsOk i.hints t.latch = true
  inside : i.outside = false
  budget : ∀ r ∈ i.regs, r < t.budget
  present : i.absent = false
  alone : i.cross = true → s.detMode t.id.gridId = false
  awaited : i.wait = false
  released : s.heldBack t.id = false
  settled : ∀ r ∈ i.reads, s.pendingWrite t r = false
  room : ∀ c, t.counter c < 64

/-- The partition index of a thread in its core. -/
def State.partOf (s : State) (t : ThreadId) : Nat :=
  match s.team? t.teamId with
  | some tm => tm.partOf t.rank
  | none => 0

/-- What the effect of an issuing word sees (R114): the thread as it stood, its sources, its place and the cycle. -/
def State.argsOf (s : State) (t : Thread) (i : Issue) : Args :=
  { t := t, vals := sourceVals t i, opnd := (sourceVals t i).take i.recs, core := s.coreOf t.id, part := s.partOf t.id,
    now := s.now (s.coreOf t.id) }

/-- The value of source k of an issuing word: of its registers, or of the record it resumes from (R114, R167). -/
def srcOf (t : Thread) (i : Issue) (k : Nat) : Nat := nth (sourceVals t i) k 0

/-- The state an issued word leaves before its own effect: the thread at its next word with its last uses done, and the cycle of issue of
its team (R97, R98, R112). -/
def State.committed (s : State) (t : Thread) (i : Issue) : State :=
  (s.updThread t.id fun x => x.commit i (s.now (s.coreOf t.id))).updTeam t.id.teamId fun tm =>
    { tm with lastIssue := s.now (s.coreOf t.id) }

/-- The state after a word that writes results at a latency and does nothing else (R115, R129). -/
def State.issuedResult (s : State) (t : Thread) (i : Issue) (lat : Nat) (dests vals : List Nat) : State :=
  (s.committed t i).result (s.argsOf t i) lat dests vals

/-- The state after a word that writes a floating-point result and does nothing else (R129, R163, R165). -/
def State.issuedFloat (s : State) (t : Thread) (i : Issue) (lat rc mask : Nat) (dests vals : List Nat) (flags : Nat) : State :=
  (s.committed t i).floatResult (s.argsOf t i) lat rc mask dests vals flags

/-- The memories of a device in canonical form: home memory, the weight store and every scratchpad, of the placed teams and of those of a
restored image that wait to be placed. -/
def State.memoriesWf (s : State) : Prop :=
  Memory.wf s.home = true ∧ Memory.wf s.weights = true ∧ (∀ t ∈ s.teams, Memory.wf t.scratch = true) ∧
  ∀ g ∈ s.grids, ∀ v ∈ g.waiting, Memory.wf v.team.scratch = true

/-- A run is safe when none of its steps stops. -/
def State.safeStep (s : State) : Prop := ∃ t, step s = .next t

end Machine
end Sys2Proof
end

