-- ==== Sys2Proof/Certificates/Slice0/Obligations.lean ====
section
/-! DEFINITION. The statements of this row: the encodings, the steps, what each instruction does when it issues, what it leaves alone,
how it traps, what each event of the device does, and the reset state. Each is a proposition; its docstring names the rules it states. -/

namespace Sys2Proof
namespace Machine

-- ---------------------------------------------------------------- words that write results

/-- What a word that only writes results does: the form of its issue, its frozen latency, its destinations (64 + k for predicate k), and
the values it writes, from the thread and its sources. -/
structure ResultRow where
  instr : Instr
  form : State → Thread → Issue
  lat : Nat
  dests : List Nat
  vals : Thread → (Nat → Nat) → List Nat

/-- The row holds: whenever the word issues, the next state is that of its own effect, its results in flight. -/
def ResultRow.Holds (r : ResultRow) : Prop := ∀ (s : State) (t : Thread), s.Issues t (r.form s t) →
  exec r.instr s = .next (s.issuedResult t (r.form s t) r.lat r.dests (r.vals t (srcOf t (r.form s t))))

/-- A row of one operand. -/
def unaryRow (i : Instr) (lat : Nat) (d a : Src) (l : Bool) (f : Nat → Nat) : ResultRow :=
  ⟨i, fun _ _ => { srcs := [a], dests := d.regs, kills := killIf l a }, lat, d.regs, fun _ v => wordsOf d.n (f (v 0))⟩

/-- A row of two operands. -/
def binaryRow (i : Instr) (lat : Nat) (d a : Src) (l : Bool) (b : Src) (m : Bool) (f : Nat → Nat → Nat) : ResultRow :=
  ⟨i, fun _ _ => { srcs := [a, b], dests := d.regs, kills := killIf l a ++ killIf m b }, lat, d.regs,
    fun _ v => wordsOf d.n (f (v 0) (v 1))⟩

/-- A row of two operands that SAT may govern (R102, R103). -/
def satRow (i : Instr) (d a : Src) (l : Bool) (b : Src) (m : Bool) (f : Bool → Nat → Nat → Nat) : ResultRow :=
  ⟨i, fun _ _ => { srcs := [a, b], dests := d.regs, kills := killIf l a ++ killIf m b, hints := { sat := true } }, 4, d.regs,
    fun t v => wordsOf d.n (f (modSat t.latch) (v 0) (v 1))⟩

/-- A row of three operands, whose third dies under LIVE.LC (R100). -/
def ternaryRow (i : Instr) (lat : Nat) (d a : Src) (l : Bool) (b : Src) (m : Bool) (c : Src) (f : Nat → Nat → Nat → Nat) : ResultRow :=
  ⟨i, fun _ t => { srcs := [a, b, c], dests := d.regs, hints := { lc := true },
                   kills := killIf l a ++ killIf m b ++ killIf (liveLc t.latch) c }, lat, d.regs,
    fun _ v => wordsOf d.n (f (v 0) (v 1) (v 2))⟩

/-- A row of a register and an immediate that IMM extends (R101). -/
def immRow (i : Instr) (d a : Src) (l sat : Bool) (n : Nat) (f : Bool → Nat → Nat → Nat) : ResultRow :=
  ⟨i, fun _ _ => { srcs := [a], dests := d.regs, kills := killIf l a, hints := { imm := 1, sat := sat } }, 4, d.regs,
    fun t v => wordsOf d.n (f (modSat t.latch) (v 0) (immValue t.latch n))⟩

/-- ADD and SUB (R145): reduced modulo 2^w, or clamped to the signed or the unsigned range under SAT. -/
def addRule (w : Nat) (sub signed sat : Bool) (a b : Nat) : Nat :=
  if sat then
    if signed then wrap (clampI (if sub then sext a w - sext b w else sext a w + sext b w) (-(2 ^ (w - 1) : Nat)) ((2 ^ (w - 1) : Nat) - 1)) w
    else wrap (clampI (if sub then (a : Int) - b else (a : Int) + b) 0 ((2 ^ w : Nat) - 1)) w
  else wrap (if sub then (a : Int) - b else (a : Int) + b) w

/-- DIV and REM (R147), for every operand pair: a division by 0 gives a quotient of ones and the dividend as remainder; the one quotient
that does not fit gives the most negative number and remainder 0; the others truncate toward zero. -/
def divisionRule (w : Nat) (signed rem : Bool) (a b : Nat) : Nat :=
  let n : Int := if signed then sext a w else (a : Int)
  let d : Int := if signed then sext b w else (b : Int)
  if d = 0 then wrap (if rem then n else (2 ^ w : Nat) - 1) w
  else if signed ∧ n = -(2 ^ (w - 1) : Nat) ∧ d = -1 then wrap (if rem then 0 else -(2 ^ (w - 1) : Nat)) w
  else wrap (if rem then n - n.tdiv d * d else n.tdiv d) w

/-- The rows of R145 at one width: ADD and SUB, signed and unsigned; `i` picks the constructor of the width. -/
def addSubRows (w : Nat) (i : Instr → Instr → Instr) (d a : Nat) (l : Bool) (b : Nat) (m : Bool) : List ResultRow :=
  let D : Src := ⟨d, w / 32⟩
  let A : Src := ⟨a, w / 32⟩
  let B : Src := ⟨b, w / 32⟩
  [ satRow (i (.addI32 d a l b m) (.addI64 d a l b m)) D A l B m (addRule w false true),
    satRow (i (.addN32 d a l b m) (.addN64 d a l b m)) D A l B m (addRule w false false),
    satRow (i (.subI32 d a l b m) (.subI64 d a l b m)) D A l B m (addRule w true true),
    satRow (i (.subN32 d a l b m) (.subN64 d a l b m)) D A l B m (addRule w true false) ]

/-- The rows of R147 at one width: DIV and REM, signed and unsigned. -/
def divisionRows (w : Nat) (i : Instr → Instr → Instr) (lat : Nat) (d a : Nat) (l : Bool) (b : Nat) (m : Bool) : List ResultRow :=
  let D : Src := ⟨d, w / 32⟩
  let A : Src := ⟨a, w / 32⟩
  let B : Src := ⟨b, w / 32⟩
  [ binaryRow (i (.divI32 d a l b m) (.divI64 d a l b m)) lat D A l B m (divisionRule w true false),
    binaryRow (i (.divN32 d a l b m) (.divN64 d a l b m)) lat D A l B m (divisionRule w false false),
    binaryRow (i (.remI32 d a l b m) (.remI64 d a l b m)) lat D A l B m (divisionRule w true true),
    binaryRow (i (.remN32 d a l b m) (.remN64 d a l b m)) lat D A l B m (divisionRule w false true) ]

/-- The rows of R146 and R148 that multiply, order and negate, at one width. -/
def arithmeticRows (w : Nat) (i : Instr → Instr → Instr) (mul : Nat) (d a : Nat) (l : Bool) (b : Nat) (m : Bool) : List ResultRow :=
  let D : Src := ⟨d, w / 32⟩
  let A : Src := ⟨a, w / 32⟩
  let B : Src := ⟨b, w / 32⟩
  [ binaryRow (i (.mullo32 d a l b m) (.mullo64 d a l b m)) mul D A l B m (fun x y => x * y),
    binaryRow (i (.mulhiI32 d a l b m) (.mulhiI64 d a l b m)) mul D A l B m
      (fun x y => wrap (sext x w * sext y w / ((2 ^ w : Nat) : Int)) w),
    binaryRow (i (.mulhiN32 d a l b m) (.mulhiN64 d a l b m)) mul D A l B m (fun x y => x * y / 2 ^ w),
    binaryRow (i (.minI32 d a l b m) (.minI64 d a l b m)) 4 D A l B m (fun x y => if sext x w < sext y w then x else y),
    binaryRow (i (.minN32 d a l b m) (.minN64 d a l b m)) 4 D A l B m (fun x y => if x < y then x else y),
    binaryRow (i (.maxI32 d a l b m) (.maxI64 d a l b m)) 4 D A l B m (fun x y => if sext x w < sext y w then y else x),
    binaryRow (i (.maxN32 d a l b m) (.maxN64 d a l b m)) 4 D A l B m (fun x y => if x < y then y else x),
    unaryRow (i (.abs32 d a l) (.abs64 d a l)) 4 D A l (fun x => wrap |sext x w| w),
    unaryRow (i (.neg32 d a l) (.neg64 d a l)) 4 D A l (fun x => wrap (-(x : Int)) w) ]

/-- The first of two constructors: the 32-bit one. -/
def narrow (x _ : Instr) : Instr := x

/-- The second of two constructors: the 64-bit one. -/
def wide (_ y : Instr) : Instr := y

/-- The rows of R148 for bitwise operations, counts and moves, at one width; the counts write one register. -/
def logicRows (w : Nat) (i : Instr → Instr → Instr) (d a : Nat) (l : Bool) (b : Nat) (m : Bool) : List ResultRow :=
  let n := w / 32
  let D : Src := ⟨d, n⟩
  let A : Src := ⟨a, n⟩
  let B : Src := ⟨b, n⟩
  [ binaryRow (i (.and32 d a l b m) (.and64 d a l b m)) 4 D A l B m (fun x y => x &&& y),
    binaryRow (i (.or32 d a l b m) (.or64 d a l b m)) 4 D A l B m (fun x y => x ||| y),
    binaryRow (i (.xor32 d a l b m) (.xor64 d a l b m)) 4 D A l B m (fun x y => x ^^^ y),
    binaryRow (i (.andn32 d a l b m) (.andn64 d a l b m)) 4 D A l B m (fun x y => x &&& (2 ^ w - 1 - y % 2 ^ w)),
    unaryRow (i (.not32 d a l) (.not64 d a l)) 4 D A l (fun x => 2 ^ w - 1 - x % 2 ^ w),
    unaryRow (i (.mov32 d a l) (.mov64 d a l)) 4 D A l (fun x => x),
    unaryRow (i (.brev32 d a l) (.brev64 d a l)) 4 D A l (bitrev w),
    unaryRow (i (.popc32 d a l) (.popc64 d a l)) 4 ⟨d, 1⟩ A l (popcount w),
    unaryRow (i (.clz32 d a l) (.clz64 d a l)) 4 ⟨d, 1⟩ A l (clz w),
    unaryRow (i (.ctz32 d a l) (.ctz64 d a l)) 4 ⟨d, 1⟩ A l (ctz w) ]

/-- A shift or rotation by n (R151): 0 left, 1 right, 2 right with the sign, 3 rotation. A count of the width or more leaves no bit of the
operand, but for its sign. -/
def shiftRule (w op a n : Nat) : Nat :=
  match op with
  | 0 => if w ≤ n then 0 else a * 2 ^ n
  | 1 => if w ≤ n then 0 else a / 2 ^ n
  | 2 => wrap (sext a w / ((2 ^ (min n w) : Nat) : Int)) w
  | _ => a * 2 ^ (n % w) + a / 2 ^ (w - n % w)

/-- The rows of R151 and R153 at one width: the shifts take their count from the low byte of B, the extractions their control word. -/
def shiftRows (w : Nat) (i : Instr → Instr → Instr) (d a : Nat) (l : Bool) (b : Nat) (m : Bool) : List ResultRow :=
  let D : Src := ⟨d, w / 32⟩
  let A : Src := ⟨a, w / 32⟩
  let B : Src := ⟨b, 1⟩
  [ binaryRow (i (.shl32 d a l b m) (.shl64 d a l b m)) 4 D A l B m (fun x y => shiftRule w 0 x (y % 256)),
    binaryRow (i (.shr32 d a l b m) (.shr64 d a l b m)) 4 D A l B m (fun x y => shiftRule w 1 x (y % 256)),
    binaryRow (i (.shra32 d a l b m) (.shra64 d a l b m)) 4 D A l B m (fun x y => shiftRule w 2 x (y % 256)),
    binaryRow (i (.rot32 d a l b m) (.rot64 d a l b m)) 4 D A l B m (fun x y => shiftRule w 3 x (y % 256)),
    binaryRow (i (.bfxI32 d a l b m) (.bfxI64 d a l b m)) 4 D A l B m (fun x y => bfx w true x y),
    binaryRow (i (.bfxN32 d a l b m) (.bfxN64 d a l b m)) 4 D A l B m (fun x y => bfx w false x y) ]

/-- The rows of R152: a shift by an immediate count n, of 64 bits when W is set. -/
def shiftImmRows (d a : Nat) (l w : Bool) (n : Nat) : List ResultRow :=
  let width := if w then 64 else 32
  let D : Src := ⟨d, width / 32⟩
  let A : Src := ⟨a, width / 32⟩
  [ unaryRow (.shlImm d a l w n) 4 D A l (fun x => shiftRule width 0 x n),
    unaryRow (.shrImm d a l w n) 4 D A l (fun x => shiftRule width 1 x n),
    unaryRow (.shraImm d a l w n) 4 D A l (fun x => shiftRule width 2 x n),
    unaryRow (.rotImm d a l w n) 4 D A l (fun x => shiftRule width 3 x n) ]

/-- The form of a word of two registers that reads or replaces a predicate (R150). -/
def carryForm (d a : Nat) (l : Bool) (b : Nat) (m : Bool) (p : Nat) (out : Bool) : Issue :=
  { srcs := [⟨a, 1⟩, ⟨b, 1⟩], dests := if out then [d, 64 + p] else [d], preds := [p], kills := killIf l ⟨a, 1⟩ ++ killIf m ⟨b, 1⟩ }

/-- The rows of R146, R149, R150, R153 and R156 that have forms of their own. -/
def mixedRows (d a : Nat) (l : Bool) (b : Nat) (m : Bool) (c p : Nat) (x : Bool) (sh : Nat) : List ResultRow :=
  [ ⟨.addc d a l b m p, fun _ _ => carryForm d a l b m p true, 4, [d, 64 + p],
      fun t v => [(v 0 + v 1 + (t.pred p).toNat) % 2 ^ 32, if 2 ^ 32 ≤ v 0 + v 1 + (t.pred p).toNat then 1 else 0]⟩,
    ⟨.subb d a l b m p, fun _ _ => carryForm d a l b m p true, 4, [d, 64 + p],
      fun t v => [wrap ((v 0 : Int) - v 1 - (t.pred p).toNat) 32, if v 0 < v 1 + (t.pred p).toNat then 1 else 0]⟩,
    ⟨.sel d a l b m p, fun _ _ => carryForm d a l b m p false, 4, [d], fun t v => [if t.pred p then v 0 else v 1]⟩,
    binaryRow (.lea d a l b m x sh) 4 ⟨d, 2⟩ ⟨a, 2⟩ l ⟨b, 1⟩ m
      (fun base index => wrap ((base : Int) + (if x then sext index 32 else (index : Int)) * (2 ^ sh : Nat)) 64),
    binaryRow (.permb d a l b m) 4 ⟨d, 1⟩ ⟨a, 1⟩ l ⟨b, 1⟩ m permb,
    ternaryRow (.bfi d a l b m c) 4 ⟨d, 1⟩ ⟨a, 1⟩ l ⟨b, 1⟩ m ⟨c, 1⟩ bfi,
    ternaryRow (.mad32 d a l b m c) 6 ⟨d, 1⟩ ⟨a, 1⟩ l ⟨b, 1⟩ m ⟨c, 1⟩ (fun x y z => x * y + z),
    ternaryRow (.mad64 d a l b m c) 10 ⟨d, 2⟩ ⟨a, 2⟩ l ⟨b, 2⟩ m ⟨c, 2⟩ (fun x y z => x * y + z) ]

/-- The rows of R154 and R155: words with an immediate of 13 bits, which IMM extends to 32. -/
def immediateRows (d a : Nat) (l : Bool) (n : Nat) : List ResultRow :=
  [ immRow (.addI32Imm d a l n) ⟨d, 1⟩ ⟨a, 1⟩ l true n (addRule 32 false true),
    immRow (.andImm d a l n) ⟨d, 1⟩ ⟨a, 1⟩ l false n (fun _ x y => x &&& y),
    immRow (.orImm d a l n) ⟨d, 1⟩ ⟨a, 1⟩ l false n (fun _ x y => x ||| y),
    immRow (.xorImm d a l n) ⟨d, 1⟩ ⟨a, 1⟩ l false n (fun _ x y => x ^^^ y),
    immRow (.addI64Imm d a l n) ⟨d, 2⟩ ⟨a, 2⟩ l true n (fun sat x y => addRule 64 false true sat x (wrap (sext y 32) 64)),
    ⟨.movi d n, fun _ _ => { dests := [d], hints := { imm := 1 } }, 4, [d], fun t _ => [immValue t.latch n]⟩ ]

-- ---------------------------------------------------------------- floating point

/-- What a word that writes one floating-point result does (R163): its form, latency and enables that hold the next word, its
destinations and their number, and its value with its flags from the rounding code and the sources. -/
structure FloatRow where
  instr : Instr
  form : Thread → Issue
  lat : Nat
  dests : List Nat
  words : Nat
  val : Nat → (Nat → Nat) → Nat × Nat

/-- The row holds: whenever the word issues, the next state has its result in flight with its flags, under the rounding code of the word
or of sr.fpc (R114, R164). -/
def FloatRow.Holds (r : FloatRow) : Prop := ∀ (s : State) (t : Thread), s.Issues t (r.form t) →
  ∀ v, v = r.val (roundingCode t) (srcOf t (r.form t)) →
    exec r.instr s = .next (s.issuedFloat t (r.form t) r.lat (roundingCode t) holdMask r.dests (wordsOf r.words v.1) v.2)

/-- A floating-point row of one operand. -/
def floatRow1 (i : Instr) (f : Fmt) (lat : Nat) (d : Src) (a : Nat) (l : Bool) (g : Nat → Nat → Nat × Nat) : FloatRow :=
  ⟨i, fun _ => { srcs := [fshape f a], dests := d.regs, kills := killIf l (fshape f a), hints := { rm := 1 } }, lat, d.regs, d.n,
    fun rc v => g rc (v 0)⟩

/-- A floating-point row of two operands, of which the second may be a plain register. -/
def floatRow2 (i : Instr) (f : Fmt) (lat d a : Nat) (l : Bool) (b : Src) (m : Bool) (g : Nat → Nat → Nat → Nat × Nat) : FloatRow :=
  ⟨i, fun _ => { srcs := [fshape f a, b], dests := (fshape f d).regs, kills := killIf l (fshape f a) ++ killIf m b, hints := { rm := 1 } },
    lat, (fshape f d).regs, (fshape f d).n, fun rc v => g rc (v 0) (v 1)⟩

/-- The row of FFMA of a format (R169). -/
def fmaRow (i : Instr) (f : Fmt) (lat d a : Nat) (l : Bool) (b : Nat) (m : Bool) (c : Nat) : FloatRow :=
  ⟨i, fun t => { srcs := [fshape f a, fshape f b, fshape f c], dests := (fshape f d).regs, hints := { rm := 1, lc := true },
                 kills := killIf l (fshape f a) ++ killIf m (fshape f b) ++ killIf (liveLc t.latch) (fshape f c) },
    lat, (fshape f d).regs, (fshape f d).n,
    fun rc v => ffma f rc (decodeFloat f (v 0)) (decodeFloat f (v 1)) (decodeFloat f (v 2))⟩

/-- A row of two decoded operands of one format. -/
def floatOp (i : Instr) (f : Fmt) (lat d a : Nat) (l : Bool) (b : Nat) (m : Bool) (g : Nat → FVal → FVal → Nat × Nat) : FloatRow :=
  floatRow2 i f lat d a l (fshape f b) m (fun rc x y => g rc (decodeFloat f x) (decodeFloat f y))

/-- The rows of R169: one rounding of the exact result, with the frozen latencies of R116. -/
def floatArithmeticRows (d a : Nat) (l : Bool) (b : Nat) (m : Bool) (c : Nat) : List FloatRow :=
  [ floatOp (.faddF32 d a l b m) .f32 6 d a l b m (fadd .f32), floatOp (.fsubF32 d a l b m) .f32 6 d a l b m (fsub .f32),
    floatOp (.fmulF32 d a l b m) .f32 6 d a l b m (fmul .f32), floatOp (.fdivF32 d a l b m) .f32 24 d a l b m (fdiv .f32),
    floatOp (.faddF64 d a l b m) .f64 10 d a l b m (fadd .f64), floatOp (.fsubF64 d a l b m) .f64 10 d a l b m (fsub .f64),
    floatOp (.fmulF64 d a l b m) .f64 10 d a l b m (fmul .f64), floatOp (.fdivF64 d a l b m) .f64 44 d a l b m (fdiv .f64),
    floatOp (.faddF16 d a l b m) .f16 6 d a l b m (fadd .f16), floatOp (.fsubF16 d a l b m) .f16 6 d a l b m (fsub .f16),
    floatOp (.fmulF16 d a l b m) .f16 6 d a l b m (fmul .f16),
    floatOp (.faddBf16 d a l b m) .bf16 6 d a l b m (fadd .bf16), floatOp (.fsubBf16 d a l b m) .bf16 6 d a l b m (fsub .bf16),
    floatOp (.fmulBf16 d a l b m) .bf16 6 d a l b m (fmul .bf16),
    fmaRow (.ffmaF32 d a l b m c) .f32 6 d a l b m c, fmaRow (.ffmaF64 d a l b m c) .f64 10 d a l b m c,
    fmaRow (.ffmaF16 d a l b m c) .f16 6 d a l b m c, fmaRow (.ffmaBf16 d a l b m c) .bf16 6 d a l b m c ]

/-- The rows of R171 to R174 in one format: FMIN, FMAX, FABS, FNEG, FCLASS, FSCALE and FRINT. -/
def floatOtherRows (f : Fmt) (lat d a : Nat) (l : Bool) (b : Nat) (m : Bool) (fmin fmax fabs fneg fcls fscl frnt : Instr) : List FloatRow :=
  [ floatRow2 fmin f lat d a l (fshape f b) m (fun _ x y => fminmax f false x y),
    floatRow2 fmax f lat d a l (fshape f b) m (fun _ x y => fminmax f true x y),
    floatRow1 fabs f lat (fshape f d) a l (fun _ x => (x % 2 ^ (f.width - 1), 0)),
    floatRow1 fneg f lat (fshape f d) a l (fun _ x => ((x % 2 ^ f.width) ^^^ 2 ^ (f.width - 1), 0)),
    floatRow1 fcls f lat ⟨d, 1⟩ a l (fun _ x => (fclass f x, 0)),
    floatRow2 fscl f lat d a l ⟨b, 1⟩ m (fun rc x n => fscale f rc (decodeFloat f x) (sext n 32)),
    floatRow1 frnt f lat (fshape f d) a l (fun rc x => frint f rc (decodeFloat f x)) ]

/-- A row of one decoded operand. -/
def floatFn (i : Instr) (f : Fmt) (lat d a : Nat) (l : Bool) (g : Nat → FVal → Nat × Nat) : FloatRow :=
  floatRow1 i f lat (fshape f d) a l (fun rc x => g rc (decodeFloat f x))

/-- The rows of R176: the elementary functions, correctly rounded. -/
def elementaryRows (d a : Nat) (l : Bool) : List FloatRow :=
  [ floatFn (.fsqrtF32 d a l) .f32 24 d a l (fsqrt .f32), floatFn (.frcpF32 d a l) .f32 12 d a l (frcp .f32),
    floatFn (.frsqF32 d a l) .f32 12 d a l (frsq .f32), floatFn (.fexp2F32 d a l) .f32 16 d a l (fexp2 .f32),
    floatFn (.flog2F32 d a l) .f32 16 d a l (flog2 .f32), floatFn (.fsinF32 d a l) .f32 16 d a l (ftrig .f32 false),
    floatFn (.fcosF32 d a l) .f32 16 d a l (ftrig .f32 true),
    floatFn (.fsqrtF64 d a l) .f64 44 d a l (fsqrt .f64), floatFn (.frcpF64 d a l) .f64 22 d a l (frcp .f64),
    floatFn (.frsqF64 d a l) .f64 22 d a l (frsq .f64), floatFn (.fexp2F64 d a l) .f64 34 d a l (fexp2 .f64),
    floatFn (.flog2F64 d a l) .f64 34 d a l (flog2 .f64), floatFn (.fsinF64 d a l) .f64 34 d a l (ftrig .f64 false),
    floatFn (.fcosF64 d a l) .f64 34 d a l (ftrig .f64 true) ]

-- ---------------------------------------------------------------- conversion, comparison, predicates

/-- The form of CVT under the slot word that CF names (R177, R180): the pair shapes of binary64, and a scale register for the tapered
formats only. -/
def cvtForm (x : Slot) (d a : Nat) (l : Bool) (b : Nat) (m : Bool) : Issue :=
  let tapered := taperedCode x.fa || taperedCode x.fd
  let A : Src := ⟨a, if x.fa = 0 then 2 else 1⟩
  { srcs := if tapered then [A, ⟨b, 1⟩] else [A], dests := (Src.mk d (if x.fd = 0 then 2 else 1)).regs, hints := { rm := 2 },
    kills := killIf l A ++ (if tapered then killIf m ⟨b, 1⟩ else []),
    flaw := decide (x.fa ≥ 9) || decide (x.fd ≥ 9) || (! tapered && (decide (b ≠ 0) || m))
      || (decide (x.fa = 0) && decide (a % 2 = 1)) || (decide (x.fd = 0) && decide (d % 2 = 1)) }

/-- The slot a word names in the thread's grid (R57). -/
def State.slotOf (s : State) (t : Thread) (k : Nat) : Slot := Slot.ofWord (s.slotWord t.id.gridId k)

/-- The rounding mode of CVT: of MOD, or of the slot, and sr.fpc's where that says so (R180). -/
def cvtMode (x : Slot) (t : Thread) : Nat :=
  let code := (modRm t.latch).getD x.rm
  if code = 6 then fpcRounding t else code

/-- The form of CMP: pairs for the 64-bit types; when CMB combines, the old predicate is read and the word waits for every older write to it
(R108, R157, R159). -/
def cmpForm (s : State) (t : Thread) (p c a : Nat) (l : Bool) (b : Nat) (m : Bool) (ty : Nat) : Issue :=
  let n := if ty = 2 ∨ ty = 3 ∨ ty = 5 then 2 else 1
  { srcs := [⟨a, n⟩, ⟨b, n⟩], dests := [64 + p], preds := if c = 0 then [] else [p],
    kills := killIf l ⟨a, n⟩ ++ killIf m ⟨b, n⟩, hints := { live := false }, wait := s.combineWaits t c p }

/-- The form of a word of major 0x21 (R158, R159). -/
def predForm (s : State) (t : Thread) (p c a b : Nat) : Issue :=
  { dests := [64 + p], preds := [a, b] ++ (if c = 0 then [] else [p]), wait := s.combineWaits t c p }

/-- The rows of R158: the new value of the predicate, combined with the old one as CMB says: put in its place, AND, OR, XOR. -/
def predicateRows (p c a b : Nat) : List ResultRow :=
  let out (old v : Bool) : List Nat :=
    [(if c = 0 then v else if c = 1 then old && v else if c = 2 then old || v else old ^^ v).toNat]
  [ ⟨.pand p c a b, fun s t => predForm s t p c a b, 4, [64 + p], fun t _ => out (t.pred p) (t.pred a && t.pred b)⟩,
    ⟨.por p c a b, fun s t => predForm s t p c a b, 4, [64 + p], fun t _ => out (t.pred p) (t.pred a || t.pred b)⟩,
    ⟨.pxor p c a b, fun s t => predForm s t p c a b, 4, [64 + p], fun t _ => out (t.pred p) (t.pred a ^^ t.pred b)⟩,
    ⟨.pnot p c a, fun s t => predForm s t p c a 12, 4, [64 + p], fun t _ => out (t.pred p) (! t.pred a)⟩,
    ⟨.pmov p c a, fun s t => predForm s t p c a 12, 4, [64 + p], fun t _ => out (t.pred p) (t.pred a)⟩ ]

end Machine
end Sys2Proof

open Sys2Proof Sys2Proof.Machine

/-- R145: ADD and SUB of 32 and of 64 bits issue whenever nothing keeps them from it, and their result is in flight: the sum or the
difference modulo 2^w, or, under SAT, the exact one clamped to the signed or the unsigned range. -/
def Obligations.AdditionAndSubtractionComplete : Prop := ∀ (d a : Nat) (l : Bool) (b : Nat) (m : Bool),
  ∀ r ∈ addSubRows 32 narrow d a l b m ++ addSubRows 64 wide d a l b m, r.Holds

/-- R147: DIV and REM are defined for every operand pair, with no trap and no flag; their latency is 36 cycles for 32 bits and 68 for 64,
whatever the operands. -/
def Obligations.DivisionCompletes : Prop := ∀ (d a : Nat) (l : Bool) (b : Nat) (m : Bool),
  ∀ r ∈ divisionRows 32 narrow 36 d a l b m ++ divisionRows 64 wide 68 d a l b m, r.Holds

/-- R146, R148, R115, R116: MULLO, MULHI, MIN, MAX, ABS and NEG of 32 and of 64 bits issue whenever nothing keeps them from it, and their
results are in flight with their frozen latencies: 6 and 10 cycles for a product, 4 for the others. -/
def Obligations.IntegerArithmeticCompletes : Prop := ∀ (d a : Nat) (l : Bool) (b : Nat) (m : Bool),
  ∀ r ∈ arithmeticRows 32 narrow 6 d a l b m ++ arithmeticRows 64 wide 10 d a l b m, r.Holds

/-- R148: AND, OR, XOR, ANDN, NOT, MOV, BREV, POPC, CLZ and CTZ of 32 and of 64 bits. -/
def Obligations.IntegerLogicCompletes : Prop := ∀ (d a : Nat) (l : Bool) (b : Nat) (m : Bool),
  ∀ r ∈ logicRows 32 narrow d a l b m ++ logicRows 64 wide d a l b m, r.Holds

/-- R151 to R153: the shifts and rotations by a register and by an immediate, and BFX, of 32 and of 64 bits. -/
def Obligations.ShiftsComplete : Prop := ∀ (d a : Nat) (l : Bool) (b : Nat) (m : Bool) (w : Bool) (n : Nat),
  ∀ r ∈ shiftRows 32 narrow d a l b m ++ shiftRows 64 wide d a l b m ++ shiftImmRows d a l w n, r.Holds

/-- R146, R149, R150, R153, R156: ADDC and SUBB with the predicate as carry or borrow, SEL, LEA, PERMB, BFI and MAD. -/
def Obligations.CarriesSelectsAddressesComplete : Prop := ∀ (d a : Nat) (l : Bool) (b : Nat) (m : Bool) (c p : Nat) (x : Bool) (sh : Nat),
  ∀ r ∈ mixedRows d a l b m c p x sh, r.Holds

/-- R101, R154, R155: the words with an immediate. -/
def Obligations.ImmediatesComplete : Prop := ∀ (d a : Nat) (l : Bool) (n : Nat), ∀ r ∈ immediateRows d a l n, r.Holds

/-- R163, R164, R169: FADD, FSUB, FMUL, FDIV and FFMA in every format they have. -/
def Obligations.FloatArithmeticCompletes : Prop := ∀ (d a : Nat) (l : Bool) (b : Nat) (m : Bool) (c : Nat),
  ∀ r ∈ floatArithmeticRows d a l b m c, r.Holds

/-- R171 to R174: FMIN, FMAX, FABS, FNEG, FCLASS, FSCALE and FRINT in the four formats. -/
def Obligations.FloatOrderAndSignComplete : Prop := ∀ (d a : Nat) (l : Bool) (b : Nat) (m : Bool),
  ∀ r ∈ floatOtherRows .f32 6 d a l b m (.fminF32 d a l b m) (.fmaxF32 d a l b m) (.fabsF32 d a l) (.fnegF32 d a l) (.fclassF32 d a l)
        (.fscaleF32 d a l b m) (.frintF32 d a l)
    ++ floatOtherRows .f64 10 d a l b m (.fminF64 d a l b m) (.fmaxF64 d a l b m) (.fabsF64 d a l) (.fnegF64 d a l) (.fclassF64 d a l)
        (.fscaleF64 d a l b m) (.frintF64 d a l)
    ++ floatOtherRows .f16 6 d a l b m (.fminF16 d a l b m) (.fmaxF16 d a l b m) (.fabsF16 d a l) (.fnegF16 d a l) (.fclassF16 d a l)
        (.fscaleF16 d a l b m) (.frintF16 d a l)
    ++ floatOtherRows .bf16 6 d a l b m (.fminBf16 d a l b m) (.fmaxBf16 d a l b m) (.fabsBf16 d a l) (.fnegBf16 d a l)
        (.fclassBf16 d a l) (.fscaleBf16 d a l b m) (.frintBf16 d a l), r.Holds

/-- R176: FSQRT, FRCP, FRSQ, FEXP2, FLOG2, FSIN and FCOS of binary32 and binary64. -/
def Obligations.ElementaryFunctionsComplete : Prop := ∀ (d a : Nat) (l : Bool), ∀ r ∈ elementaryRows d a l, r.Holds

/-- R177 to R182: CVT converts under the slot word CF names; its latency is 10 with binary64 on either side and 6 otherwise. -/
def Obligations.ConversionCompletes : Prop := ∀ (s : State) (t : Thread) (d a : Nat) (l : Bool) (b : Nat) (m : Bool) (k : Nat) (x : Slot),
  x = s.slotOf t k → s.Issues t (cvtForm x d a l b m) →
  ∀ fa fd v, Fmt.ofCode x.fa = some fa → Fmt.ofCode x.fd = some fd →
    v = cvt fa fd x.sat (cvtMode x t) (srcOf t (cvtForm x d a l b m) 0) (srcOf t (cvtForm x d a l b m) 1 % 256) →
    exec (.cvt d a l b m k) s = .next (s.issuedFloat t (cvtForm x d a l b m) (if x.fa = 0 ∨ x.fd = 0 then 10 else 6) (cvtMode x t)
      holdMaskCvt (Src.mk d (if x.fd = 0 then 2 else 1)).regs (wordsOf (if x.fd = 0 then 2 else 1) v.1) v.2)

/-- R157, R158: CMP of an integer type, and of a floating-point type with its flags; CMB combines the outcome with the old predicate. PAND,
POR, PXOR, PNOT and PMOV combine likewise. -/
def Obligations.ComparisonsAndPredicatesComplete : Prop :=
  (∀ (s : State) (t : Thread) (p c a : Nat) (l : Bool) (b : Nat) (m : Bool) (o ty : Nat), s.Issues t (cmpForm s t p c a l b m ty) →
    ∀ r, r = compareBy ty o (srcOf t (cmpForm s t p c a l b m ty) 0) (srcOf t (cmpForm s t p c a l b m ty) 1) →
      exec (.cmp p c a l b m o ty) s = .next (if ty < 4
        then s.issuedResult t (cmpForm s t p c a l b m ty) 4 [64 + p] [(combine c (t.pred p) r.1).toNat]
        else s.issuedFloat t (cmpForm s t p c a l b m ty) 4 (roundingCode t) holdMask [64 + p] [(combine c (t.pred p) r.1).toNat] r.2)) ∧
  (∀ (p c a b : Nat), ∀ r ∈ predicateRows p c a b, r.Holds)

namespace Sys2Proof
namespace Machine

-- ---------------------------------------------------------------- control

/-- The form of a word whose guard is predicate g; IMM may extend its offset (R101, R185). -/
def guardForm (g : Nat) : Issue := { preds := [g], hints := { schedOnly with imm := 2 } }

/-- The form of a word without operands before which only SCHED may stand (R187). -/
def bareForm : Issue := { hints := schedOnly }

/-- The form of a word that takes its target from a pair (R188). -/
def targetForm (a : Nat) (l : Bool) : Issue := { srcs := [⟨a, 2⟩], kills := killIf l ⟨a, 2⟩, hints := schedOnly }

/-- The address of the call-stack slot that a push below the four link slots writes (R189). -/
def State.spillVa (s : State) (t : Thread) : Nat := s.scratchArea t + t.ssp.toNat

/-- What a push does with the oldest link slot once the stack is four deep: its return PC is stored at thread scope, a fault mark is
dropped (R189). -/
def State.spillOldest (s : State) (x : Args) (va : Nat) : LinkSlot → State
  | .pc r => s.startAccess x (stackAccess .spill va r.toNat) (some .st) [] none
  | .empty => s.startAccess x (stackAccess .spill va 0) (some .st) [] none
  | .mark _ _ => s
  | .refill _ _ => s

/-- The link slots and the depth after a push of a return PC (R189): `grow` when the oldest slot went to the scratch area. -/
def State.pushLink (s : State) (t : Thread) (ret : Addr) (grow : Bool) : State :=
  s.updThread t.id fun u =>
    { u with
      ls := [.pc (ret.setWidth 64), nth u.ls 0 .empty, nth u.ls 1 .empty, nth u.ls 2 .empty]
      csd := u.csd + 1
      ssp := if grow then t.ssp + 8 else t.ssp }

/-- What a taken call does at its word (R189): the push while the four slots have room, and with the oldest slot spilled when they have
not and the scratch area has. -/
def CallTaken (i : Instr) (form : Issue) (s : State) (t : Thread) (target : Addr) (lat : Nat) : Prop :=
  (t.csd.toNat < 4 → exec i s = .next (((s.committed t form).pushLink t (t.pc + 4) false).jump (s.argsOf t form) target lat)) ∧
  (4 ≤ t.csd.toNat → t.ssp.toNat + 8 ≤ s.scratchSize t → (∀ op va, nth t.ls 3 .empty ≠ .refill op va) → t.counter .st < 63 →
    exec i s = .next ((((s.committed t form).spillOldest (s.argsOf t form) (s.spillVa t) (nth t.ls 3 .empty)).pushLink t (t.pc + 4)
      true).jump (s.argsOf t form) target lat)) ∧
  (4 ≤ t.csd.toNat → s.scratchSize t < t.ssp.toNat + 8 →
    exec i s = .next (s.raiseTrap t clsOverflow s.ir 0 0 (some (opndOf (s.argsOf t form).opnd 0))))

/-- The deposit REORD makes (R353): its key is the low half of A, its payload the registers from D, its entry relative to the word. -/
def reordDeposit (s : State) (t : Thread) (form : Issue) (o n : Nat) : ReorderDep :=
  { core := s.coreOf t.id, grid := t.id.gridId
    entry := BitVec.ofNat 52 (wrap ((t.pc.toNat : Int) + 4 * (match latchPay t.latch 0 with
      | some p => sext (p * 2 ^ 5 + o) 27
      | none => sext o 5)) 52)
    key := srcOf t form 0 % 2 ^ 16, payload := (wordsOf n (srcOf t form 1)).map (BitVec.ofNat 32)
    bud := Nat.log2 (t.budget / 8), team := t.id.team, rank := t.id.rank, pos := t.pos }

/-- The form of REORD (R51, R352). -/
def reordForm (d a : Nat) (l : Bool) (n : Nat) : Issue :=
  { srcs := [⟨a, 1⟩, ⟨d, n⟩], recs := 1, kills := killIf l ⟨a, 1⟩, hints := { schedOnly with imm := 2 }, cross := true }

/-- A hint word of a kind with its payload (R98). -/
def latchedWord (kind pay : Nat) : BitVec 32 := BitVec.ofNat 32 (0xFC000000 + kind * 2 ^ 22 + pay)

/-- A thread that has latched a hint word: it stands at the next word, ready for the next cycle of its core (R98, R99). -/
def Thread.latched (u : Thread) (h : BitVec 32) (now : Nat) : Thread :=
  { u with
    pc := u.pc + 4
    latch := u.latch ++ [h]
    pos := u.pos + 1
    st := .ready
    readyAt := now + 1
    promoted := false }

/-- The cycle of a team's last issue (R97). -/
def Team.issuedAt (tm : Team) (now : Nat) : Team := { tm with lastIssue := now }

/-- A slice that has latched a hint word (R328). -/
def Slice.latched (sl : Slice) (h : BitVec 32) : Slice := { sl with apc := sl.apc + 4, latch := sl.latch ++ [h] }

/-- A team whose access slice has become sl. -/
def Team.withSlice (tm : Team) (sl : Slice) : Team := { tm with slice := some sl }

/-- What a hint word does (R98, R100, R328): in a thread and in an access slice, the word is latched and the next word is the one after it;
a third hint word in a row, or a second of one kind, is illegal. -/
def HintLatched (i : Instr) (kind pay : Nat) : Prop :=
  (∀ (s : State) (t : Thread), s.cur = .thread t.id → s.thread? t.id = some t →
    (hintMisuse t.latch kind = false → exec i s = .next
      ((s.updThread t.id (fun u => u.latched (latchedWord kind pay) (s.now (s.coreOf t.id)))).updTeam t.id.teamId
        (fun tm => tm.issuedAt (s.now (s.coreOf t.id))))) ∧
    (hintMisuse t.latch kind = true → exec i s = .next (s.raiseTrap t clsIllegal s.ir 0 0 none))) ∧
  (∀ (s : State) (tm : Team) (sl : Slice), s.cur = .slice tm.id → s.team? tm.id = some tm → tm.slice = some sl →
    (hintMisuse sl.latch kind = false → exec i s = .next
      (s.updTeam tm.id fun u => u.withSlice (sl.latched (latchedWord kind pay)))) ∧
    (hintMisuse sl.latch kind = true → exec i s = .next (s.stopSlice tm.id clsIllegal s.ir 0)))

-- ---------------------------------------------------------------- convergence sets and collectives

/-- The form of CDECL.r (R195). -/
def rangeForm (a : Nat) (l : Bool) : Issue := { srcs := [⟨a, 1⟩], kills := killIf l ⟨a, 1⟩ }

/-- The form of CDECL.m (R195). -/
def maskForm (d a : Nat) (l : Bool) : Issue := { srcs := [⟨a, 1⟩, ⟨d, 2⟩], recs := 1, kills := killIf l ⟨a, 1⟩ }

/-- The members of a freshly declared set (R196): the declarer is declared, an exited rank withdrawn, any other undeclared. -/
def State.freshMembers (s : State) (t : ThreadId) (ranks : List Nat) : List Member :=
  ranks.map fun r => ⟨r, if r = t.rank then .declared else match s.thread? ⟨t.ctx, t.grid, t.team, r⟩ with
    | some u => if u.st = .exited then .withdrawn else .undeclared
    | none => .withdrawn, none⟩

/-- What a declaration of valid ranks does to convergence register n (R196): a Free one is declared afresh; one with the same membership
has the thread declared when it was undeclared, and is left alone when it was declared or has signed. -/
def Declares (i : Instr) (form : Issue) (n : Nat) (s : State) (t : Thread) (tm : Team) (ranks : List Nat) (fresh : ConvReg → ConvReg) :
    Prop :=
  ((tm.cr n).kind = .free → exec i s = .next ((s.committed t form).setCr tm.id n
    { fresh (tm.cr n) with members := (s.committed t form).freshMembers t.id ranks })) ∧
  ((tm.cr n).kind ≠ .free → ((tm.cr n).members.map (·.rank)) = ranks →
    ((tm.cr n).status t.id.rank = some .undeclared → exec i s = .next ((s.committed t form).setCr tm.id n
      ((tm.cr n).upd t.id.rank fun m => { m with st := .declared }))) ∧
    ((tm.cr n).status t.id.rank = some .declared ∨ (tm.cr n).status t.id.rank = some .signed →
      exec i s = .next (s.committed t form)))

/-- The form of a collective of one operand (R201, R203): it waits while the thread's signature of an unfired phase stands. -/
def collForm (t : Thread) (d a : Src) (l : Bool) (rm n : Nat) : Issue :=
  { srcs := [a], dests := d.regs, kills := killIf l a, hints := { rm := rm }, wait := t.signed.getLsbD n }

/-- The form of XSHF (R202). -/
def shuffleForm (t : Thread) (d a : Nat) (l : Bool) (b : Nat) (m : Bool) (n : Nat) : Issue :=
  { srcs := [⟨a, 1⟩, ⟨b, 1⟩], dests := [d], kills := killIf l ⟨a, 1⟩ ++ killIf m ⟨b, 1⟩, wait := t.signed.getLsbD n }

/-- The form of XVOTE (R203). -/
def voteForm (t : Thread) (d a o n : Nat) : Issue :=
  { dests := (Src.mk d (if o = 3 then 2 else 1)).regs, preds := [a], wait := t.signed.getLsbD n }

/-- A thread that can deposit in a set (R201): it is declared or has signed, and holds no deposit. -/
def Team.depositable (tm : Team) (n rank : Nat) : Prop :=
  ((tm.cr n).status rank = some .declared ∨ (tm.cr n).status rank = some .signed) ∧ (tm.cr n).deposit rank = none

/-- The deposit of a collective (R201): its operands, its word and place, unsigned. -/
def newDeposit (kind : CollKind) (s : State) (t : Thread) (a b : Nat) (dests : List Nat) : Deposit :=
  { kind := kind, word := s.ir, rc := roundingCode t, en := enables t, a := a, b := b, dests := dests, pos := t.pos, pc := t.pc,
    latch := t.latch, issued := s.now (s.coreOf t.id), signed := false, op := 0 }

/-- A member of a set that holds a deposit. -/
def Member.deposit (m : Member) (d : Deposit) : Member := { m with dep := some d }

/-- What a collective does at its word (R201): its operands are put into its member's deposit. -/
def Deposits (i : Instr) (form : Issue) (n : Nat) (kind : CollKind) (s : State) (t : Thread) (tm : Team) (a b : Nat) (dests : List Nat) :
    Prop :=
  exec i s = .next ((s.committed t form).setCr tm.id n ((tm.cr n).upd t.id.rank fun m => m.deposit (newDeposit kind s t a b dests)))

/-- A row of a collective: its instruction, form, kind, operands and destinations. -/
structure CollRow where
  instr : Instr
  form : Thread → Issue
  kind : CollKind
  a : Thread → Nat
  b : Thread → Nat
  dests : List Nat

/-- The position of a rank in a set: the members of lower rank (R184). -/
def posOf (ranks : List Nat) (r : Nat) : Nat := (ranks.filter fun x => decide (x < r)).length

/-- The source position of a shuffle (R202). -/
def shuffleSource (mode pos b : Nat) : Int :=
  match mode with
  | 0 => b
  | 1 => (pos : Int) - b
  | 2 => (pos : Int) + b
  | _ => (pos ^^^ b : Nat)

/-- One step of a fold of R205. -/
def foldRule (o mode acc x : Nat) : Nat × Nat :=
  match o with
  | 0 => ((acc + x) % 2 ^ 32, 0)
  | 1 => (if sext acc 32 < sext x 32 then acc else x, 0)
  | 2 => (if sext acc 32 < sext x 32 then x else acc, 0)
  | 3 => (min acc x, 0)
  | 4 => (max acc x, 0)
  | 5 => (acc &&& x, 0)
  | 6 => (acc ||| x, 0)
  | 7 => (acc ^^^ x, 0)
  | 8 => fadd .f32 mode (decodeFloat .f32 acc) (decodeFloat .f32 x)
  | 9 => fminmax .f32 false acc x
  | 10 => fminmax .f32 true acc x
  | 11 => fadd .f64 mode (decodeFloat .f64 acc) (decodeFloat .f64 x)
  | 12 => fminmax .f64 false acc x
  | _ => fminmax .f64 true acc x

/-- The identity of an operation (R203). -/
def foldIdentity (o : Nat) : Nat :=
  match o with
  | 1 => 0x7FFFFFFF
  | 2 | 8 => 0x80000000
  | 3 | 5 => 0xFFFFFFFF
  | 9 | 10 => 0x7FC00000
  | 11 => 0x8000000000000000
  | 12 | 13 => 0x7FF8000000000000
  | _ => 0

/-- The fold of the deposits x_0, x_1, … from the left, with the OR of the flags of its steps; over none, the identity with no flag (R205). -/
def foldOver (o mode : Nat) : List Nat → Nat × Nat
  | [] => (foldIdentity o, 0)
  | x :: xs => xs.foldl (fun acc y => ((foldRule o mode acc.1 y).1, acc.2 ||| (foldRule o mode acc.1 y).2)) (x, 0)

/-- The deposits of participants at the width of an operation (R201). -/
def foldDeposits (o : Nat) (ps : List (Nat × Deposit)) : List Nat := ps.map fun p => p.2.a % 2 ^ (if o < 11 then 32 else 64)

/-- What a participant of rank r with deposit d receives under each operation, the participants and the members being in ascending rank (R202, R204,
R205). -/
def CollectiveValues (ranks : List Nat) (ps : List (Nat × Deposit)) (r : Nat) (d : Deposit) : Prop :=
  (∀ mode, mode < 4 → ∀ src, src = shuffleSource mode (posOf ranks r) (d.b % 2 ^ 14) →
    (∀ q e, 0 ≤ src → ranks[src.toNat]? = some q → (q, e) ∈ ps → collResult (.shuffle mode) ranks ps r d = (e.a % 2 ^ 32, 0)) ∧
    ((src < 0 ∨ (ranks.length : Int) ≤ src ∨ ∀ q e, ranks[src.toNat]? = some q → (q, e) ∉ ps) →
      collResult (.shuffle mode) ranks ps r d = (d.a % 2 ^ 32, 0))) ∧
  (∀ (pair : Bool) p, ps.head? = some p → collResult (.bcast false pair) ranks ps r d = (p.2.a % 2 ^ (if pair then 64 else 32), 0)) ∧
  (∀ (pair : Bool) p, ps.getLast? = some p → collResult (.bcast true pair) ranks ps r d = (p.2.a % 2 ^ (if pair then 64 else 32), 0)) ∧
  (∀ o, o < 14 → collResult (.red o) ranks ps r d = foldOver o d.rc (foldDeposits o ps) ∧
    collResult (.scan false o) ranks ps r d = foldOver o d.rc (foldDeposits o (ps.filter fun p => decide (p.1 ≤ r))) ∧
    collResult (.scan true o) ranks ps r d = foldOver o d.rc (foldDeposits o (ps.filter fun p => decide (p.1 < r)))) ∧
  ((∀ p ∈ ps, p.2.a % 2 = 1) → collResult (.vote 0) ranks ps r d = (1, 0)) ∧
  ((∃ p ∈ ps, p.2.a % 2 = 0) → collResult (.vote 0) ranks ps r d = (0, 0)) ∧
  ((∃ p ∈ ps, p.2.a % 2 = 1) → collResult (.vote 1) ranks ps r d = (1, 0)) ∧
  ((∀ p ∈ ps, p.2.a % 2 = 0) → collResult (.vote 1) ranks ps r d = (0, 0)) ∧
  (collResult (.vote 2) ranks ps r d = ((ps.filter fun p => decide (p.2.a % 2 = 1)).length, 0)) ∧
  (∃ v, collResult (.vote 3) ranks ps r d = (v, 0) ∧ v < 2 ^ 64 ∧
    ∀ j < 64, bitAt v j = true ↔ ∃ p ∈ ps, p.2.a % 2 = 1 ∧ posOf ranks p.1 = 64 * (posOf ranks r / 64) + j)

/-- The operation that carries a participant's result to its registers (R201): under the next numbers, due after the latency of the operation. -/
def State.firedOp (s : State) (tm : Team) (k : CollKind) (id rank : Nat) (d : Deposit) (r : Nat × Nat) : Op :=
  { s.depositOp tm.id rank d with
    id := id, due := some (s.now tm.core + k.latency), vals := wordsOf d.dests.length r.1, flags := r.2, body := .collective k.raises }

/-- A state with operations more in flight, that took so many numbers. -/
def State.withResults (s : State) (l : List Op) (n : Nat) : State := { s with ops := s.ops ++ l, nextId := s.nextId + n }

/-- A set whose phase has fired: the next phase, the deposits consumed, the signers declared again (R199). -/
def ConvReg.fired (c : ConvReg) : ConvReg :=
  { c with phase := c.phase + 1, members := c.members.map fun m => { m with st := if m.st = .signed then .declared else m.st, dep := none } }

/-- The rows of R202 to R205 on set n. -/
def collectiveRows (d a : Nat) (l : Bool) (b : Nat) (m w h : Bool) (o n : Nat) : List CollRow :=
  let src (form : Thread → Issue) (k : Nat) (t : Thread) : Nat := srcOf t (form t) k
  let shuffle (i : Instr) (mode : Nat) : CollRow :=
    ⟨i, fun t => shuffleForm t d a l b m n, .shuffle mode, src (fun t => shuffleForm t d a l b m n) 0,
      src (fun t => shuffleForm t d a l b m n) 1, [d]⟩
  let one (i : Instr) (kind : CollKind) (D A : Src) (rm : Nat) : CollRow :=
    ⟨i, fun t => collForm t D A l rm n, kind, src (fun t => collForm t D A l rm n) 0, fun _ => 0, D.regs⟩
  let pair : Nat := if w then 2 else 1
  let width : Nat := if 11 ≤ o then 2 else 1
  let rm : Nat := if 8 ≤ o then 1 else 0
  [ shuffle (.xshfIdx d a l b m n) 0, shuffle (.xshfUp d a l b m n) 1, shuffle (.xshfDown d a l b m n) 2, shuffle (.xshfXor d a l b m n) 3,
    one (.xbcast d a l w h n) (.bcast h w) ⟨d, pair⟩ ⟨a, pair⟩ 0,
    one (.xred d a l o n) (.red o) ⟨d, width⟩ ⟨a, width⟩ rm,
    one (.xscanInc d a l o n) (.scan false o) ⟨d, width⟩ ⟨a, width⟩ rm,
    one (.xscanExc d a l o n) (.scan true o) ⟨d, width⟩ ⟨a, width⟩ rm,
    ⟨.xvote d a o n, fun t => voteForm t d a o n, .vote o, fun t => (t.pred a).toNat, fun _ => 0,
      (Src.mk d (if o = 3 then 2 else 1)).regs⟩ ]

end Machine
end Sys2Proof

open Sys2Proof Sys2Proof.Machine

/-- R185, R186, R188: BR goes to its target or to the next word, and BRX to the address of its pair; a target that is no word address is
an illegal instruction. The next word is available 4 cycles later after BR and 8 after BRX (R116). -/
def Obligations.BranchesComplete : Prop := ∀ (s : State) (t : Thread),
  (∀ (g : Nat) (sv : Bool) (o : Nat), s.Issues t (guardForm g) →
    exec (.br g sv o) s = .next (if t.pred g = sv then s.committed t (guardForm g)
      else (s.committed t (guardForm g)).jump (s.argsOf t (guardForm g)) (branchTarget t.latch t.pc o) 4)) ∧
  (∀ (a : Nat) (l : Bool), s.Issues t (targetForm a l) → ∀ v, v = srcOf t (targetForm a l) 0 →
    (v % 4 = 0 ∧ v < 2 ^ 52 →
      exec (.brx a l) s = .next ((s.committed t (targetForm a l)).jump (s.argsOf t (targetForm a l)) (BitVec.ofNat 52 v) 8)) ∧
    (v % 4 ≠ 0 ∨ 2 ^ 52 ≤ v → exec (.brx a l) s = .next (s.raiseTrap t clsIllegal s.ir 0 0 (some (opndOf [v] 0)))))

/-- R185, R188, R189: CALL whose guard holds the sense goes on; a taken CALL and a CALLX push the return PC, spill the oldest link slot
when the stack is four deep, and take stack overflow when the scratch area has no room for it. That a call waits for a refill of its
oldest link slot is a reading (log 23). -/
def Obligations.CallsComplete : Prop := ∀ (s : State) (t : Thread),
  (∀ (g : Nat) (sv : Bool) (o : Nat), s.Issues t (guardForm g) →
    (t.pred g = sv → exec (.call g sv o) s = .next (s.committed t (guardForm g))) ∧
    (t.pred g ≠ sv → CallTaken (.call g sv o) (guardForm g) s t (branchTarget t.latch t.pc o) 4)) ∧
  (∀ (a : Nat) (l : Bool), s.Issues t (targetForm a l) → ∀ v, v = srcOf t (targetForm a l) 0 → v % 4 = 0 → v < 2 ^ 52 →
    CallTaken (.callx a l) (targetForm a l) s t (BitVec.ofNat 52 v) 8)

/-- R188, R189: RET goes to the return PC of link slot 0; the slots move up and the depth falls, and from a stack deeper than four the
last slot is refilled from the scratch area. At depth 0 it takes stack underflow. -/
def Obligations.ReturnCompletes : Prop := ∀ (s : State) (t : Thread), s.Issues t bareForm →
  (∀ a, nth t.ls 0 .empty = .pc a → a.toNat % 4 = 0 → a.toNat < 2 ^ 52 →
    (1 ≤ t.csd.toNat → t.csd.toNat < 5 → exec .ret s = .next (((s.committed t bareForm).updThread t.id fun u =>
      { u with ls := [nth u.ls 1 .empty, nth u.ls 2 .empty, nth u.ls 3 .empty, .empty], csd := u.csd - 1 }).jump (s.argsOf t bareForm)
        (a.setWidth 52) 8)) ∧
    (5 ≤ t.csd.toNat → t.counter .ld < 63 → exec .ret s = .next ((((s.committed t bareForm).updThread t.id fun u =>
      { u with
        ls := [nth u.ls 1 .empty, nth u.ls 2 .empty, nth u.ls 3 .empty, .refill s.nextId (s.spillVa t - 8)]
        csd := u.csd - 1
        ssp := u.ssp - 8 }).startAccess (s.argsOf t bareForm) (stackAccess .refill (s.spillVa t - 8) 0) (some .ld) [] none).jump (s.argsOf t bareForm)
        (a.setWidth 52) 8))) ∧
  (t.csd = 0 → exec .ret s = .next (s.raiseTrap t clsUnderflow s.ir 0 0 (some 0)))

/-- R190, R198, R353: EXIT ends its thread: it withdraws from its sets, and nothing of its call stack and trace state is left; REORD first
deposits its key and payload for the reorder unit of its core. -/
def Obligations.ThreadEndsComplete : Prop := ∀ (s : State) (t : Thread),
  (s.Issues t bareForm → exec .exit s = .next ((s.committed t bareForm).exitThread t.id)) ∧
  (∀ (d a : Nat) (l : Bool) (o n : Nat), s.Issues t (reordForm d a l n) →
    exec (.reord d a l o n) s = .next (State.exitThread { s.committed t (reordForm d a l n) with
      reorder := s.reorder ++ [reordDeposit s t (reordForm d a l n) o n] } t.id))

/-- R191, R192, R200, R297: WAITK goes on when its counter holds n or fewer and is Blocked otherwise; CWAIT when the thread's signature of
the set does not stand; YIELD when no pre-emption is requested; FENCE issues as an operation of its scope. -/
def Obligations.WaitsComplete : Prop := ∀ (s : State) (t : Thread),
  (s.Issues t bareForm →
    (∀ k n, t.counter (KClass.ofCode k) ≤ n → exec (.waitk k n) s = .next (s.committed t bareForm)) ∧
    (∀ k n, n < t.counter (KClass.ofCode k) → exec (.waitk k n) s = .next (s.setWaiting t.id .blocked)) ∧
    ((s.committed t bareForm).preqOf t.id = false → exec .yield s = .next (s.committed t bareForm)) ∧
    (∀ sc scope, Scope.ofCode sc = some scope →
      exec (.fence sc) s = .next ((s.committed t bareForm).addOp ((s.argsOf t bareForm).op (s.committed t bareForm) (.fence scope))))) ∧
  (s.Issues t {} →
    (∀ n, t.signed.getLsbD n = false → exec (.cwait n) s = .next (s.committed t {})) ∧
    (∀ n, t.signed.getLsbD n = true → exec (.cwait n) s = .next (s.setWaiting t.id .blocked)))

/-- R113, R191, R193, R194, R343: TRAP takes class software trap with its code in DETAIL; YIELD under a pre-emption request parks its
thread at the next word and posts no record; ILL takes illegal instruction in a thread, and stops an access slice with it. SOFTI 0x3FF wakes
the Summit core; another number wakes the launch queue that its context's map names, and takes queue not permitted when the map has none. -/
def Obligations.TrapAndInterruptWordsComplete : Prop := ∀ (s : State) (t : Thread),
  (∀ c, s.Issues t bareForm → exec (.trap c) s = .next (s.raiseTrap t clsSoft s.ir c 0 (some 0))) ∧
  (s.Issues t bareForm → (s.committed t bareForm).preqOf t.id = true → exec .yield s = .next (s.updThread t.id fun u =>
    { u with st := .parked .yielding, pc := u.pc + 4, bundle := none, promoted := false })) ∧
  (s.cur = .thread t.id → s.thread? t.id = some t → exec .ill s = .next (s.raiseTrap t clsIllegal s.ir 0 0 none)) ∧
  (∀ id, s.cur = .slice id → exec .ill s = .next (s.stopSlice id clsIllegal s.ir 0)) ∧
  (s.Issues t bareForm → exec (.softi 0x3FF) s = .next { s.committed t bareForm with summitWake := true }) ∧
  (s.Issues t bareForm → ∀ q, q ≠ 0x3FF → ∀ n, s.mapQueue t.id.ctx q = some n →
    exec (.softi q) s = .next ((s.committed t bareForm).updLq n fun x => { x with pw := true })) ∧
  (s.Issues t bareForm → ∀ q, q ≠ 0x3FF → s.mapQueue t.id.ctx q = none →
    exec (.softi q) s = .next (s.raiseTrap t clsQueue s.ir 0 0 (some 0)))

/-- R98, R100, R102, R328: IMM, MOD, LIVE and SCHED are latched for the next word. -/
def Obligations.HintWordsComplete : Prop :=
  (∀ p, HintLatched (.imm p) 0 p) ∧
  (∀ (e c sv : Nat) (t v : Bool) (r z : Nat),
    HintLatched (.mod e c sv t v r z) 1 (z * 2 ^ 13 + e * 2 ^ 11 + c * 2 ^ 8 + sv * 2 ^ 5 + t.toNat * 2 ^ 4 + v.toNat * 2 ^ 3 + r)) ∧
  (∀ (x c : Bool) (z : Nat), HintLatched (.live x c z) 2 (z * 2 ^ 2 + x.toNat * 2 + c.toNat)) ∧
  (∀ (sv : Bool) (z : Nat), HintLatched (.sched sv z) 3 (z * 2 + sv.toNat))

/-- R184, R195 to R199: CDECL of valid ranks that contain the thread declares or joins a set; CDECL.r with HI below LO withdraws. CSIGN of a
declared thread signs it and its deposit into the phase, and fires the phase or leaves it as it then stands. -/
def Obligations.SetWordsComplete : Prop :=
  (∀ (s : State) (t : Thread) (tm : Team), tm.id = t.id.teamId → s.team? tm.id = some tm →
    (∀ (a : Nat) (l : Bool) (n v lo hi : Nat), s.Issues t (rangeForm a l) → v = srcOf t (rangeForm a l) 0 → lo = bits v 0 14 → hi = bits v 16 14 →
      (bits v 14 2 = 0 → bits v 30 2 = 0 → lo ≤ t.id.rank → t.id.rank ≤ hi → hi < t.tsize →
        Declares (.cdeclRange a l n) (rangeForm a l) n s t tm (rangeRanks lo hi)
          fun c => { c with kind := .range, lo := BitVec.ofNat 14 lo, hi := BitVec.ofNat 14 hi, base := 0, mask := 0 }) ∧
      (hi < lo → ((tm.cr n).status t.id.rank).isSome →
        exec (.cdeclRange a l n) s = .next ((s.committed t (rangeForm a l)).withdraw tm.id n t.id.rank))) ∧
    (∀ (d a : Nat) (l : Bool) (n v base mask : Nat), s.Issues t (maskForm d a l) → v = srcOf t (maskForm d a l) 0 →
      mask = srcOf t (maskForm d a l) 1 → base = bits v 0 14 → bits v 14 18 = 0 → base % 64 = 0 → mask ≠ 0 →
      t.id.rank ∈ maskRanks base mask → (∀ r ∈ maskRanks base mask, r < t.tsize) →
        Declares (.cdeclMask d a l n) (maskForm d a l) n s t tm (maskRanks base mask)
          fun c => { c with kind := .mask, lo := 0, hi := 0, base := BitVec.ofNat 14 base, mask := BitVec.ofNat 64 mask })) ∧
  (∀ (s : State) (t : Thread) (tm : Team) (n : Nat), tm.id = t.id.teamId → s.team? tm.id = some tm →
    s.Issues t { wait := t.signed.getLsbD n } →
    ((tm.cr n).status t.id.rank = some .declared ∨ (tm.cr n).status t.id.rank = some .signed) →
    exec (.csign n) s = .next (((((s.committed t { wait := t.signed.getLsbD n }).updThread t.id fun u =>
      { u with signed := u.signed ||| (1#16 <<< n) }).setCr tm.id n ((tm.cr n).upd t.id.rank fun m =>
        { m with st := .signed, dep := m.dep.map fun d => { d with signed := true } })).settle tm.id n)))

/-- R117, R184, R199 to R205: the shuffles, broadcasts, reductions, scans and votes deposit their operands; a complete set whose lowest
participant deposited one of them fires, and then each participant's result is in flight, with its latency from the firing, and its value is that
of the rule. That a set which a collective fires treats a participant of the other family by R222 is `misfit`. -/
def Obligations.CollectivesComplete : Prop :=
  (∀ (d a : Nat) (l : Bool) (b : Nat) (m w h : Bool) (o n : Nat),
    ∀ r ∈ collectiveRows d a l b m w h o n, ∀ (s : State) (t : Thread) (tm : Team), tm.id = t.id.teamId → s.team? tm.id = some tm →
      s.Issues t (r.form t) → tm.depositable n t.id.rank → Deposits r.instr (r.form t) n r.kind s t tm (r.a t) (r.b t) r.dests) ∧
  (∀ (s : State) (tm : Team) (n : Nat) (c : ConvReg) (ranks : List Nat) (parts : List Member) (ps : List (Nat × Deposit)) (lowest : Nat × Deposit),
    s.team? tm.id = some tm → c = tm.cr n → c.kind ≠ .free → c.complete = true → ranks = c.members.map (·.rank) →
    parts = c.members.filter (fun m => m.dep.any (·.signed)) →
    (parts.filterMap fun m => m.dep.map fun d => (m.rank, d)).head? = some lowest → lowest.2.isMatrix = false →
    ps = (parts.filterMap fun m => m.dep.map fun d => (m.rank, d)).filter (fun p => ! p.2.isMatrix) →
    s.settle tm.id n = ((((parts.filter Member.isMatrix).foldl (fun s m => s.misfit tm.id m)
      (s.withResults ((ps.zipIdx).map fun q => s.firedOp tm lowest.2.kind (s.nextId + q.2) q.1.1 q.1.2 (collResult lowest.2.kind ranks ps q.1.1 q.1.2))
        ps.length)).setCr tm.id n (c.fired)).clearSigned tm.id n ranks)) ∧
  (∀ (mode o : Nat) (x : Bool), (CollKind.shuffle mode).latency = 12 ∧ (CollKind.bcast x x).latency = 12 ∧ (CollKind.vote o).latency = 8 ∧
    (CollKind.red o).latency = (if o < 11 then 20 else 28) ∧ (CollKind.scan x o).latency = (if o < 11 then 20 else 28)) ∧
  (∀ (ranks : List Nat) (ps : List (Nat × Deposit)) (r : Nat) (d : Deposit), ranks.Pairwise (· < ·) → ps.Pairwise (fun p q => p.1 < q.1) →
    (∀ p ∈ ps, p.1 ∈ ranks) → (r, d) ∈ ps → CollectiveValues ranks ps r d)

namespace Sys2Proof
namespace Machine

-- ---------------------------------------------------------------- what stays as it was

/-- No byte of home memory, of the weight store or of a scratchpad differs. -/
def State.SameBytes (s s2 : State) : Prop :=
  (∀ a, cellGet s2.home a = cellGet s.home a) ∧ (∀ a, cellGet s2.weights a = cellGet s.weights a) ∧
  ∀ id tm, s.team? id = some tm → ∃ tm2, s2.team? id = some tm2 ∧ ∀ a, cellGet tm2.scratch a = cellGet tm.scratch a

/-- A thread with the general registers, predicates, sr.fpc and kernel registers of another. -/
def Thread.SameRegisters (t t2 : Thread) : Prop :=
  t2.regs = t.regs ∧ t2.preds = t.preds ∧ t2.fpc = t.fpc ∧ t2.kregs = t.kregs ∧ t2.wpos = t.wpos ∧ t2.budget = t.budget

/-- No thread's general registers, predicates, sr.fpc or kernel registers differ. -/
def State.SameRegisters (s s2 : State) : Prop := ∀ id t, s.thread? id = some t → ∃ t2, s2.thread? id = some t2 ∧ t.SameRegisters t2

/-- A byte of a little-endian value (R9). -/
def byteAt (v k : Nat) : Byte := BitVec.ofNat 8 (v / 256 ^ k)

/-- A memory after a store of n bytes of a value at an address, under a mask of bytes: those bytes hold the value's, and every other byte
reads as before. -/
def Stored (before after : List Host.Cell) (pa n v mask : Nat) : Prop :=
  ∀ x, cellGet after x = if pa ≤ x ∧ x < pa + n ∧ bitAt mask (x - pa) = true then byteAt v (x - pa) else cellGet before x

-- ---------------------------------------------------------------- accesses

/-- A valid address for an access of a size (R239, R240): aligned to the size, and inside its space: of the region of the team for the
scratchpad, of 64 KiB for the constant window, of 2 GiB for the weight store. -/
def AddressValid (scr : Nat) (space : Space) (ea size : Nat) : Prop :=
  ea % size = 0 ∧ match space with
    | .g => True
    | .s => ea < scr * 4096
    | .k => ea < 65536
    | .w => ea < 2 ^ 31

/-- What starting an access at its word does (R279, R290, R459, R460): while its counter has room the access starts, and with 63 operations
outstanding in it the word is Blocked. -/
def AccessIssued (i : Instr) (form : Issue) (s : State) (t : Thread) (acc : Access) (cls : KClass) (dests : List Nat) (due : Option Nat) :
    Prop :=
  (t.counter cls < 63 → exec i s = .next ((s.committed t form).startAccess (s.argsOf t form) acc (some cls) dests due)) ∧
  (t.counter cls = 63 → exec i s = .next (s.setWaiting t.id .blocked))

/-- The form of LD (R290, R291). -/
def loadForm (s : State) (space : Space) (size d a : Nat) (l : Bool) (g : Nat) : Issue :=
  { srcs := [addrShape space a], dests := (dataShape d size).regs, preds := [g], kills := killIf l (addrShape space a),
    hints := ldstHints space false, absent := decide (space = .w) && ! s.hasWeights }

/-- The form of ST (R290, R291). -/
def storeForm (t : Thread) (space : Space) (size d a : Nat) (l : Bool) (g : Nat) : Issue :=
  { srcs := [addrShape space a, dataShape d size], recs := 1, preds := [g], hints := ldstHints space true,
    kills := killIf l (addrShape space a) ++ killIf (liveLdt t.latch) (dataShape d size) }

/-- The access of a load (R290): its extension, its scope and its hints; a scratchpad access is at team scope unless it says otherwise, any
other at cluster scope (R263). -/
def loadAccess (sx : Bool) (space : Space) (size ea : Nat) (latch : List Word) : Access :=
  { kind := .load sx, space := space, va := ea, size := size, scope := scopeOf space (if space = .s then .tm else .cl) (modScope latch),
    acq := decide (modSem latch = 1), rel := false, cp := if space = .g then modCp latch else 0, pa := none, mask := 2 ^ size - 1,
    data := 0, data2 := 0 }

/-- The access of a store of a value (R290). -/
def storeAccess (space : Space) (size ea v : Nat) (latch : List Word) : Access :=
  { kind := .store, space := space, va := ea, size := size, scope := scopeOf space (if space = .s then .tm else .cl) (modScope latch),
    acq := false, rel := decide (modSem latch = 2), cp := if space = .g then modCp latch else 0, pa := none, mask := 2 ^ size - 1,
    data := v % 256 ^ size, data2 := 0 }

/-- What LD does (R239, R240, R244, R256, R290): nothing but go on when its guard holds the sense; otherwise it starts its access when the
address is valid, the scratchpad line present and the bank of the weight store free; an absent line parks its thread. -/
def Loads (i : Instr) (space : Space) (sx : Bool) (size d a : Nat) (l : Bool) (g : Nat) (gs : Bool) (off : List Word → Int) : Prop :=
  ∀ (s : State) (t : Thread) (form : Issue), form = loadForm s space size d a l g → s.Issues t form →
    (t.pred g = gs → exec i s = .next (s.committed t form)) ∧
    (t.pred g ≠ gs → ∀ ea, ea = effAddr space (srcOf t form 0) (off t.latch) → AddressValid (s.scrOf t.id.teamId) space ea size →
      ((space = .s ∧ s.lineAbsent t.id.teamId (ea / 128) = true) →
        exec i s = .next (s.setWaiting t.id (.parked (.absentLine (ea / 128))))) ∧
      ((space = .w ∧ s.weightBlocked (s.coreOf t.id) ea = true) → exec i s = .next (s.setWaiting t.id .blocked)) ∧
      (¬ (space = .s ∧ s.lineAbsent t.id.teamId (ea / 128) = true) → ¬ (space = .w ∧ s.weightBlocked (s.coreOf t.id) ea = true) →
        ∀ acc, acc = loadAccess sx space size ea t.latch →
          AccessIssued i form s t acc (if space = .w then .ws else .ld) (dataShape d size).regs
            (s.loadDue (s.argsOf t form) space ea size acc.scope.wide acc.cp)))

/-- What ST does (R239, R240, R246, R290): nothing but go on when its guard holds the sense; otherwise it starts its access when the address
is valid; a store to a granule with a cairn takes cairn clobber. -/
def Stores (i : Instr) (space : Space) (size d a : Nat) (l : Bool) (g : Nat) (gs : Bool) (off : List Word → Int) : Prop :=
  ∀ (s : State) (t : Thread) (form : Issue), form = storeForm t space size d a l g → s.Issues t form →
    (t.pred g = gs → exec i s = .next (s.committed t form)) ∧
    (t.pred g ≠ gs → ∀ ea, ea = effAddr space (srcOf t form 0) (off t.latch) → AddressValid (s.scrOf t.id.teamId) space ea size →
      ((space = .s ∧ s.tagged t.id.teamId ea size = true) →
        exec i s = .next (s.raiseTrap t clsClobber s.ir 0 ea (some (opndOf (s.argsOf t form).opnd 0)))) ∧
      (¬ (space = .s ∧ s.tagged t.id.teamId ea size = true) →
        AccessIssued i form s t (storeAccess space size ea (srcOf t form 1) t.latch) .st [] none))

/-- The form of ATOM and ATOMC with n data registers of which the first `outs` receive the old value (R51, R293). -/
def atomForm (t : Thread) (d n outs a : Nat) (l p : Bool) (sv : Nat) : Issue :=
  { srcs := [addrShape (atomSpace p) a, ⟨d, n⟩], recs := 1, dests := (Src.mk d outs).regs,
    kills := killIf l (addrShape (atomSpace p) a) ++ killIf (liveLdt t.latch) ⟨d, n⟩, hints := { cp := true, sem := [1, 2, 3], ldt := true },
    cross := widerThanTeam (namedScope p sv) }

/-- What ATOM and ATOMC do (R239, R240, R244, R246, R293 to R296). -/
def Atomics (i : Instr) (kind : AccKind) (d n outs a : Nat) (l p w : Bool) (sv : Nat) (new : Nat → Nat) : Prop :=
  ∀ (s : State) (t : Thread) (form : Issue), form = atomForm t d n outs a l p sv → s.Issues t form →
    ∀ space size ea, space = (if p then Space.s else .g) → size = (if w then 8 else 4) → ea = effAddr space (srcOf t form 0) 0 →
      AddressValid (s.scrOf t.id.teamId) space ea size →
      ((space = .s ∧ s.tagged t.id.teamId ea size = true) →
        exec i s = .next (s.raiseTrap t clsClobber s.ir 0 ea (some (opndOf (s.argsOf t form).opnd 0)))) ∧
      (¬ (space = .s ∧ s.tagged t.id.teamId ea size = true) →
        ((space = .s ∧ s.lineAbsent t.id.teamId (ea / 128) = true) →
          exec i s = .next (s.setWaiting t.id (.parked (.absentLine (ea / 128))))) ∧
        (¬ (space = .s ∧ s.lineAbsent t.id.teamId (ea / 128) = true) →
          AccessIssued i form s t
            { kind := kind, space := space, va := ea, size := size, scope := atomScope p sv, acq := decide (modSem t.latch % 2 = 1),
              rel := decide (2 ≤ modSem t.latch),
              cp := if space = .g ∧ (atomScope p sv).wide = true then modCp t.latch else 0, pa := none, mask := 2 ^ size - 1, data := srcOf t form 1 % 256 ^ size,
              data2 := new (srcOf t form 1) } .ld (Src.mk d outs).regs
            (if space = .g ∧ (atomScope p sv = .tm ∨ atomScope p sv = .cl) ∧ s.l1Hit (s.argsOf t form) ea size = true then some (s.now (s.coreOf t.id) + 72)
             else none)))

/-- A store of a load's own thread that is still in the store path and gives byte i of it (R266, R268). -/
def State.OwnGives (s : State) (o : Op) (a : Access) (i : Nat) (x : Op) (st : Access) : Prop :=
  x ∈ s.ops ∧ x.thr = o.thr ∧ x.pos < o.pos ∧ x.access = some st ∧ st.kind.stores = true ∧ x.stage ≠ .done ∧ x.stage ≠ .core ∧ st.gives a i = true

/-- The last of the core's stores to leave its path that has not reached the L1 and gives byte i of a load (R265, R266). -/
def State.coreGiving (s : State) (o : Op) (a : Access) (i : Nat) : Option Op :=
  ((s.coreStores o.thr o.pos o.core).filter fun x => x.gives a i).getLast?

/-- A load sees v as its byte i, unpoisoned and without a fill (R266 to R268): of its thread's youngest older store in the store path; else in the
scratchpad, in the weight store, at the home slice for a load at .dv or .sy, and for a narrower one of the last store of its core to leave the
path, else in the L1 of its cluster. -/
def State.Sees (s : State) (o : Op) (a : Access) (i v : Nat) : Prop :=
  (∃ x st, s.OwnGives o a i x st ∧ (∀ y su, s.OwnGives o a i y su → y = x ∨ y.pos < x.pos) ∧ v = st.byteFor a i) ∨
  ((∀ x st, ¬ s.OwnGives o a i x st) ∧ match a.space with
    | .s => ∃ tm, s.team? o.thr.teamId = some tm ∧ (a.va + i) / 32 ∉ tm.poison ∧ v = (cellGet tm.scratch (a.va + i)).toNat
    | .w => (a.va + i) / 64 ∉ s.weightPoison ∧ v = (cellGet s.weights (a.va + i)).toNat
    | .k => False
    | .g => ∃ x, x = a.pa.getD 0 + i ∧
      if a.scope.wide = true then x / 64 ∉ s.homePoison ∧ v = (cellGet s.home x).toNat
      else (∃ y st, s.coreGiving o a i = some y ∧ y.access = some st ∧ v = st.byteFor a i) ∨
        (s.coreGiving o a i = none ∧ ∃ l, s.l1Sector? (clusterOf o.core) (x / 64) = some l ∧ bitAt l.valid.toNat (x % 64) = true ∧
          l.poison = false ∧ v = byteOf l.data.toNat (x % 64)))

/-- The value of bytes, the first the lowest (R9). -/
def leValue : List Nat → Nat
  | [] => 0
  | b :: bs => b + 256 * leValue bs

/-- The register words a loaded value of a size gives (R65, R290): one word, sign-extended or zero-extended, or the words of a wider value, the low one
first. -/
def loadedWords (sx : Bool) (size v : Nat) : List Nat :=
  if size ≤ 4 then [if sx then wrap (sext v (8 * size)) 32 else v] else (List.range (size / 4)).map fun i => v / 2 ^ (32 * i) % 2 ^ 32

/-- An operation whose read is bound to values. -/
def Op.boundTo (o : Op) (vals : List Nat) : Op := { o with stage := .bound, vals := vals }

/-- What a load binds (R256, R261, R266 to R268, R271, R272, R275, R290): when nothing holds its read and it sees each of its bytes, they are the
value of its operation, and no register, scratchpad or weight-store byte changes; home memory only by the write-back before a load at .dv or .sy. A
load of the constant window binds what the constant cache of its core holds. -/
def LoadsBind : Prop := ∀ (s s0 : State) (o : Op) (a : Access) (sx : Bool), s.op? (s.arg 0) = some o → o.body = .mem a → a.kind = .load sx →
  o.stage = .ready → s.acquireHolds o = false → s.readsAbsent o a = false →
  s0 = (if a.isWide then s.pushSector (clusterOf o.core) (a.pa.getD 0) else s) →
  (∀ vs : List Nat, a.space ≠ .k → s.readHeld o a = false → (a.isWide = true → s.pathBusy o a.va (a.pa.getD 0) = false) →
    (a.space = .w → s.bankRefreshes a = false ∧ (weightDie a.va = dieOf o.core → o.dueBy (s.now o.core) = true)) →
    (s.detMode o.thr.gridId = true → a.pa.getD 0 < 0x4000000000) →
    vs.length = a.size → (∀ i < a.size, s0.Sees o a i (nth vs i 0)) →
    ∃ s2, exec .resultWrite s = .next s2 ∧ s2.op? o.id = some (o.boundTo (loadedWords sx a.size (leValue vs))) ∧ s.SameRegisters s2 ∧
      s2.teams = s.teams ∧ s2.weights = s.weights ∧ s2.home = s0.home) ∧
  (∀ c, a.space = .k → s.constSector? o.core o.thr.gridId (a.va / 64) = some c →
    ∃ s2, exec .resultWrite s = .next s2 ∧ s.SameBytes s2 ∧ s.SameRegisters s2 ∧
      s2.op? o.id = some (o.boundTo (loadedWords sx a.size (c.data.toNat / 256 ^ (a.va % 64) % 256 ^ a.size))))

/-- The new value of an atomic of w bits on the old value (R294, R295): x is the value it brings, y the second one of ATOMC. -/
def atomicRule (kind : AccKind) (w old x y : Nat) : Nat :=
  match kind with
  | .cas => if old = x then y else old
  | .atom 0 => (old + x) % 2 ^ w
  | .atom 1 => old &&& x
  | .atom 2 => old ||| x
  | .atom 3 => old ^^^ x
  | .atom 4 => if sext x w < sext old w then x else old
  | .atom 5 => if sext old w < sext x w then x else old
  | .atom 6 => min old x
  | .atom 7 => max old x
  | .atom 8 => x
  | _ => if w = 32 then (fadd .f32 0 (decodeFloat .f32 old) (decodeFloat .f32 x)).1 else (fadd .f64 0 (decodeFloat .f64 old) (decodeFloat .f64 x)).1

/-- What an atomic does when its order allows it (R265, R268, R269, R294, R295): it writes the new value of its rule where it is performed, in the
scratchpad, at the home slice, or in the L1 of its cluster, and no other byte, and its operation is bound to the old value. -/
def AtomicsPerform : Prop := ∀ (s s0 : State) (o : Op) (a : Access), s.op? (s.arg 0) = some o → o.body = .mem a → (a.kind = .cas ∨ ∃ k < 10, a.kind = .atom k) →
  o.stage = .ready → s.acquireHolds o = false → s.readsAbsent o a = false → s.atomicReady o a = true → (a.size = 4 ∨ a.size = 8) →
  a.data < 256 ^ a.size → a.data2 < 256 ^ a.size → a.mask = 2 ^ a.size - 1 → s0 = s.beforePerform o a →
  (∀ tm old, a.space = .s → s.team? o.thr.teamId = some tm → Memory.wf tm.scratch = true → a.va / 32 ∉ tm.poison →
    s.tagged o.thr.teamId a.va a.size = false → old = memRead tm.scratch a.va a.size →
    ∃ s2 tm2, exec .resultWrite s = .next s2 ∧ s2.op? o.id = some (o.boundTo (wordsOf (a.size / 4) old)) ∧ s2.team? o.thr.teamId = some tm2 ∧
      Stored tm.scratch tm2.scratch a.va a.size (atomicRule a.kind (8 * a.size) old a.data a.data2) a.mask ∧ s2.home = s0.home ∧
      s2.weights = s.weights ∧ (∀ id, id ≠ o.thr.teamId → s2.team? id = s.team? id) ∧ s.SameRegisters s2) ∧
  (∀ pa old, a.space = .g → a.scope.wide = true → a.pa = some pa → Memory.wf s.home = true → pa / 64 ∉ s0.homePoison →
    (s.detMode o.thr.gridId = true → pa < 0x4000000000) → old = memRead s0.home pa a.size →
    ∃ s2, exec .resultWrite s = .next s2 ∧ s2.op? o.id = some (o.boundTo (wordsOf (a.size / 4) old)) ∧
      Stored s0.home s2.home pa a.size (atomicRule a.kind (8 * a.size) old a.data a.data2) a.mask ∧ s2.weights = s.weights ∧
      s2.teams = s.teams ∧ s.SameRegisters s2) ∧
  (∀ pa l old, a.space = .g → a.scope.wide = false → a.pa = some pa → pa % 64 + a.size ≤ 64 →
    s.l1Sector? (clusterOf o.core) (pa / 64) = some l → l.poison = false → old = l.data.toNat / 256 ^ (pa % 64) % 256 ^ a.size →
    ∃ s2 l2, exec .resultWrite s = .next s2 ∧ s2.op? o.id = some (o.boundTo (wordsOf (a.size / 4) old)) ∧
      s2.l1Sector? (clusterOf o.core) (pa / 64) = some l2 ∧
      (∀ k < 64, byteOf l2.data.toNat k = if pa % 64 ≤ k ∧ k < pa % 64 + a.size then
        byteOf (atomicRule a.kind (8 * a.size) old a.data a.data2) (k - pa % 64) else byteOf l.data.toNat k) ∧
      s.SameBytes s2 ∧ s.SameRegisters s2)

/-- The form of WAITA (R51, R298). -/
def waitForm (d a : Nat) (l p w : Bool) : Issue :=
  { srcs := [addrShape (atomSpace p) a, ⟨d, if w then 2 else 1⟩], recs := 1, kills := killIf l (addrShape (atomSpace p) a), hints := schedOnly,
    cross := ! p }

/-- The form of WAKEA (R51, R300). -/
def wakeForm (d a : Nat) (l p : Bool) : Issue :=
  { srcs := [addrShape (atomSpace p) a, ⟨d, 1⟩], recs := 1, dests := [d], kills := killIf l (addrShape (atomSpace p) a), hints := schedOnly,
    cross := ! p }

/-- The form of CFLUSH and CINV (R303). -/
def lineForm (a : Nat) (l : Bool) : Issue := { srcs := [⟨a, 2⟩], kills := killIf l ⟨a, 2⟩, hints := schedOnly }

/-- The form of PIN and UNPIN (R304). -/
def pinForm (d a : Nat) (l : Bool) : Issue := { srcs := [⟨a, 2⟩], dests := [d], kills := killIf l ⟨a, 2⟩, hints := schedOnly }

-- ---------------------------------------------------------------- matrix deposits

/-- The form of a matrix word (R112, R220): B and A are read from their registers, its slot must serve it and its tile be in the window. -/
def matrixForm (s : State) (t : Thread) (kind sa sb : Nat) (l : Bool) (slot cn tile : Nat) : Issue :=
  { srcs := [⟨sb, 1⟩, ⟨sa, 1⟩], recs := 1, kills := killIf l ⟨sb, 1⟩, hints := schedOnly, flaw := ! slotServes kind (s.slotOf t slot),
    outside := s.tileOutside t.id.teamId tile, wait := t.signed.getLsbD cn }

/-- What keeps a matrix word from its deposit once it has issued (R221): four deposits of its partition not yet retired; a tile of the other
class; a set the thread is not declared in, or in which it holds a deposit not signed; source words that name no operand, or one beyond
the region. -/
structure State.MatrixReady (s : State) (t : Thread) (tm : Team) (kind slot cn tile a b : Nat) : Prop where
  found : s.team? t.id.teamId = some tm
  room : s.openDeposits (s.coreOf t.id) (s.partOf t.id) < 4
  class_ : decide ((s.slotOf t slot).matrixClass = some 0) = s.tileWide t.id.gridId tile
  declared : (tm.cr cn).status t.id.rank = some .declared ∨ (tm.cr cn).status t.id.rank = some .signed
  free : ∀ d, (tm.cr cn).deposit t.id.rank = some d → d.signed = true
  sourceA : srcOk a = true
  sourceB : srcOk b = true
  insideA : operandBeyond true tm.np tm.scr kind (s.slotOf t slot) a = false
  insideB : operandBeyond false tm.np tm.scr kind (s.slotOf t slot) b = false
  counter : t.counter .mx < 63

/-- The deposit of a matrix word: its operation number is the next free one (R220, R459). -/
def matrixDeposit (s : State) (t : Thread) (kind slot tile a b : Nat) : Deposit :=
  { kind := .matrix kind tile slot, word := s.ir, rc := fpcRounding t, en := enables t, a := a, b := b, dests := [], pos := t.pos,
    pc := t.pc, latch := t.latch, issued := s.now (s.coreOf t.id), signed := false, op := s.nextId }

/-- A state that has taken one operation number. -/
def State.withNextId (s : State) : State := { s with nextId := s.nextId + 1 }

/-- What a matrix word does (R220, R221, R459): its deposit stands in its member of the set, counted in k.mx. -/
def MatrixDeposits (i : Instr) (kind sa sb : Nat) (l : Bool) (slot cn tile : Nat) : Prop :=
  ∀ (s : State) (t : Thread) (tm : Team) (form : Issue), form = matrixForm s t kind sa sb l slot cn tile → s.Issues t form →
    ∀ a b, b = srcOf t form 0 → a = srcOf t form 1 → s.MatrixReady t tm kind slot cn tile a b →
      exec i s = .next (((s.committed t form).withNextId.setCr t.id.teamId cn ((tm.cr cn).upd t.id.rank fun m =>
        m.deposit (matrixDeposit s t kind slot tile a b))).updThread t.id fun u => u.count .mx s.nextId)

-- ---------------------------------------------------------------- accumulator instructions

/-- The form of an accumulator word over tiles, from the form of its operands (R229). -/
def accForm (s : State) (t : Thread) (form : Issue) (tiles : List Nat) : Issue :=
  { form with hints := schedOnly, outside := form.outside || tiles.any (s.tileOutside t.id.teamId) }

/-- The place of a thread in its team's accumulators (R78). -/
def Team.siteFor (tm : Team) (rank : Nat) : Nat := siteOf tm.spanning rank

/-- What an accumulator word waits for or takes as a fault before its effect (R229, R230): its tiles are of one class, no unfinished entry of
its partition writes one, and none reads the tile it writes. -/
structure State.TilesReady (s : State) (t : Thread) (tm : Team) (tiles writes : List Nat) : Prop where
  found : s.team? t.id.teamId = some tm
  alike : ∀ x ∈ tiles, s.tileWide t.id.gridId x = s.tileWide t.id.gridId (nth tiles 0 0)
  unwritten : ∀ x ∈ tiles, tm.tileWritten (tm.siteFor t.id.rank) x = false
  unheld : ∀ x ∈ writes, tm.tileHeld (tm.siteFor t.id.rank) x = false ∧ s.tileRead tm.id x (some (tm.siteFor t.id.rank)) = false

/-- An address word of ACLD and ACST that names an image inside the region (R229, R232). -/
def ImageAddress (s : State) (t : Thread) (tm : Team) (tile off : Nat) : Prop :=
  off < 2 ^ 20 ∧ off % 64 = 0 ∧ off + 1024 * elemSize (s.tileWide t.id.gridId tile) ≤ tm.scr * 4096

/-- The form of a word of one register before which only SCHED may stand (R229, R318, R463). -/
def acFormA (a : Nat) (l : Bool) : Issue := { srcs := [⟨a, 1⟩], kills := killIf l ⟨a, 1⟩, hints := schedOnly }

/-- Element i of an image as ACLD reads it (R83, R232): a mark on a byte sets P. -/
def State.imageElem (s : State) (x : Args) (wide : Bool) (off i : Nat) : Elem :=
  let r := s.imageBytes x (off + i * elemSize wide) (elemSize wide)
  let e := Elem.ofImage wide r.1
  { e with poison := e.poison || r.2 }

/-- The form of ACRES (R233). -/
def acresForm (s : State) (t : Thread) (d a : Nat) (l : Bool) (sv : Nat) : Issue :=
  let n := if (s.slotOf t sv).fd = 0 then 2 else 1
  { srcs := [⟨a, 1⟩], dests := (List.range n).map (d + ·), kills := killIf l ⟨a, 1⟩,
    flaw := (s.slotOf t sv).matrixClass.isNone || (decide (n = 2) && decide (d % 2 = 1)) }

/-- The element ACRES resolves: the one its index word selects, or the one its record holds when it resumes from one (R167, R233). -/
def acresElem (t : Thread) (tm : Team) (wide : Bool) (tile w : Nat) : Elem :=
  match t.resume.bind (·.image) with
  | some i => Elem.ofImage wide i
  | none => tm.elem tile (tm.siteFor t.id.rank) (32 * bits w 0 5 + bits w 8 5)

/-- The rounding code of ACRES: of its record, or of its slot, and sr.fpc's where that says so (R233). -/
def acresMode (t : Thread) (x : Slot) : Nat :=
  match t.resume.bind (fun r => r.image.map fun _ => r.rc) with
  | some rc => rc
  | none => if x.rm = 6 then fpcRounding t else x.rm

/-- The result of ACRES in flight (R115, R129, R233). -/
def acresOp (s : State) (x : Args) (d n lat rc : Nat) (el : Elem) (wide : Bool) (r : Nat × Nat) : Op :=
  { x.op s .result with
    due := some (x.now + lat)
    dests := (List.range n).map (d + ·)
    vals := wordsOf n r.1
    flags := r.2
    en := enables x.t
    rc := rc
    holds := decide (enables x.t % 64 ≠ 0)
    image := some (el.image wide) }

end Machine
end Sys2Proof

open Sys2Proof Sys2Proof.Machine

/-- R239, R240, R244, R256, R266 to R268, R289 to R291, R459, R460: LD of every space and size starts its access, counted in k.ld or k.ws; and
the access of a load whose bytes are present binds their value. -/
def Obligations.LoadsComplete : Prop := LoadsBind ∧ ∀ (d a : Nat) (l : Bool) (g : Nat) (gs : Bool) (o p z : Nat),
  Loads (.ldGB32 d a l g gs o) .g false 4 d a l g gs (fun h => memOffset h o 4) ∧
  Loads (.ldGB64 d a l g gs o) .g false 8 d a l g gs (fun h => memOffset h o 8) ∧
  Loads (.ldSB32 d a l g gs o) .s false 4 d a l g gs (fun h => memOffset h o 4) ∧
  (p < 4 → z < 7 → Loads (.ldGeneral d a l gs g p z) (nth [.g, .s, .k, .w] p .g) (decide (5 ≤ z)) (nth [1, 2, 4, 8, 16, 1, 2] z 0) d a l g gs
    (fun h => memOffsetGeneral h (nth [1, 2, 4, 8, 16, 1, 2] z 0)))

/-- R239, R240, R246, R289 to R291, R459, R460: ST to global memory and to the scratchpad of every size starts its access, counted in
k.st. -/
def Obligations.StoresComplete : Prop := ∀ (d a : Nat) (l : Bool) (g : Nat) (gs : Bool) (o p z : Nat),
  Stores (.stGB32 d a l g gs o) .g 4 d a l g gs (fun h => memOffset h o 4) ∧
  Stores (.stGB64 d a l g gs o) .g 8 d a l g gs (fun h => memOffset h o 8) ∧
  Stores (.stSB32 d a l g gs o) .s 4 d a l g gs (fun h => memOffset h o 4) ∧
  (p < 2 → z < 7 → Stores (.stGeneral d a l gs g p z) (nth [.g, .s] p .g) (nth [1, 2, 4, 8, 16, 1, 2] z 0) d a l g gs
    (fun h => memOffsetGeneral h (nth [1, 2, 4, 8, 16, 1, 2] z 0)))

/-- R269, R293 to R296: ATOM of every operation, and ATOMC with its pair of expected and new values, start their access, counted in k.ld; and an
atomic whose order allows it writes the new value of its rule and returns the old one. -/
def Obligations.AtomicsComplete : Prop := AtomicsPerform ∧ ∀ (d a : Nat) (l p w : Bool) (o sv : Nat),
  Atomics (.atom d a l p w o sv) (.atom o) d (if w then 2 else 1) (if w then 2 else 1) a l p w sv (fun _ => 0) ∧
  Atomics (.atomc d a l p w sv) .cas d (if w then 4 else 2) (if w then 2 else 1) a l p w sv (fun v => v / 256 ^ (if w then 8 else 4))

/-- R298, R300, R303, R304: WAITA, WAKEA, CFLUSH, CINV, PIN and UNPIN start their access; WAITA is counted in no counter. -/
def Obligations.AddressWordsComplete : Prop := ∀ (s : State) (t : Thread) (d a : Nat) (l p w : Bool) (sv : Nat),
  (∀ form, form = waitForm d a l p w → s.Issues t form → ∀ space size ea, space = (if p then Space.s else .g) → size = (if w then 8 else 4) →
    ea = effAddr space (srcOf t form 0) 0 → AddressValid (s.scrOf t.id.teamId) space ea size →
    ¬ (space = .s ∧ s.lineAbsent t.id.teamId (ea / 128) = true) →
    exec (.waita d a l p w sv) s = .next ((s.committed t form).startAccess (s.argsOf t form)
      (plainAccess (.wait (srcOf t form 1)) space ea size (atomScope p sv)) none [] none)) ∧
  (∀ form, form = wakeForm d a l p → s.Issues t form → ∀ space ea, space = (if p then Space.s else .g) →
    ea = effAddr space (srcOf t form 0) 0 → AddressValid (s.scrOf t.id.teamId) space ea 1 →
    AccessIssued (.wakea d a l p sv) form s t (plainAccess (.wake (srcOf t form 1)) space ea 1 (atomScope p sv)) .ld [d] none) ∧
  (∀ form, form = lineForm a l → s.Issues t form →
    AccessIssued (.cflush a l) form s t (plainAccess .flush .g (srcOf t form 0) 1 .cl) .st [] none ∧
    AccessIssued (.cinv a l) form s t (plainAccess .inv .g (srcOf t form 0) 1 .cl) .st [] none) ∧
  (∀ form, form = pinForm d a l → s.Issues t form →
    AccessIssued (.pin d a l) form s t (plainAccess .pin .g (srcOf t form 0) 1 .dv) .ld [d] none ∧
    AccessIssued (.unpin d a l) form s t (plainAccess .unpin .g (srcOf t form 0) 1 .dv) .ld [d] none)

/-- R220, R221, R459: MMA, MMAS, MMAB.xor, MMAB.and and MMAC deposit their source words. The order of the limit of four deposits among the
checks is a reading (log 20). -/
def Obligations.MatrixWordsComplete : Prop := ∀ (sv b : Nat) (l : Bool) (p n t : Nat),
  MatrixDeposits (.mma sv b l p n t) 0 sv b l p n t ∧ MatrixDeposits (.mmas sv b l p n t) 1 sv b l p n t ∧
  MatrixDeposits (.mmabXor sv b l p n t) 2 sv b l p n t ∧ MatrixDeposits (.mmabAnd sv b l p n t) 3 sv b l p n t ∧
  MatrixDeposits (.mmac sv b l p n t) 4 sv b l p n t

/-- R229 to R232: ACZERO, ACMOV, ACLD and ACST issue: the share of the tile is zero, the share of the other tile, or the image in the
scratchpad; ACST is counted in k.mx, and stores at its finish. -/
def Obligations.TileWordsComplete : Prop := ∀ (s : State) (t : Thread) (tm : Team) (tile other a : Nat) (l : Bool),
  (∀ form, form = accForm s t {} [tile] → s.Issues t form → s.TilesReady t tm [tile] [tile] →
    exec (.aczero tile) s = .next (((s.committed t form).updTeam t.id.teamId fun u =>
      u.setShare tile (tm.siteFor t.id.rank) fun _ => Elem.zero).addEntry (s.argsOf t form) 1 tile tile 0 0 (tm.siteFor t.id.rank) 4 0)) ∧
  (∀ form, form = accForm s t {} [tile, other] → s.Issues t form → s.TilesReady t tm [tile, other] [tile] →
    exec (.acmov other tile) s = .next (((s.committed t form).updTeam t.id.teamId fun u =>
      u.setShare tile (tm.siteFor t.id.rank) fun i => u.elem other (tm.siteFor t.id.rank) i).addEntry (s.argsOf t form) 4 tile other 0 0
        (tm.siteFor t.id.rank) 8 0)) ∧
  (∀ form off, form = accForm s t (acFormA a l) [tile] → off = srcOf t form 0 → s.Issues t form → s.TilesReady t tm [tile] [tile] →
    ImageAddress s t tm tile off → ∀ n, n = 1024 * elemSize (s.tileWide t.id.gridId tile) →
    (∀ line, tm.absentIn off n = some line → exec (.acld a l tile) s = .next (s.setWaiting t.id (.parked (.absentLine line)))) ∧
    (tm.absentIn off n = none → (s.committed t form).imageHeld (s.argsOf t form) off n = false →
      exec (.acld a l tile) s = .next (((s.committed t form).updTeam t.id.teamId fun u =>
        u.setShare tile (tm.siteFor t.id.rank) ((s.committed t form).imageElem (s.argsOf t form) (s.tileWide t.id.gridId tile) off)).addEntry
          (s.argsOf t form) 2 tile tile off n (tm.siteFor t.id.rank) 48 0))) ∧
  (∀ form off, form = accForm s t (acFormA a l) [tile] → off = srcOf t form 0 → s.Issues t form → s.TilesReady t tm [tile] [] →
    ImageAddress s t tm tile off → ∀ n, n = 1024 * elemSize (s.tileWide t.id.gridId tile) →
    (s.tagged t.id.teamId off n = true →
      exec (.acst a l tile) s = .next (s.raiseTrap t clsClobber s.ir 0 off (some (opndOf (s.argsOf t form).opnd 0)))) ∧
    (s.tagged t.id.teamId off n = false → t.counter .mx < 63 →
      exec (.acst a l tile) s = .next (((s.committed t form).withNextId.updThread t.id fun u => u.count .mx s.nextId).addEntry
        (s.argsOf t form) 3 tile tile off n (tm.siteFor t.id.rank) 48 s.nextId)))

/-- R229, R233, R234: ACRES resolves an element under its slot, its flags and image kept with the result, which holds the next word under an
enable; ACCMP compares an element of two tiles. -/
def Obligations.ElementWordsComplete : Prop := ∀ (s : State) (t : Thread) (tm : Team) (d a : Nat) (l : Bool) (sv tile other : Nat),
  (∀ form, form = accForm s t (acresForm s t d a l sv) [tile] → s.Issues t form → s.TilesReady t tm [tile] [] →
    ∀ x wide, x = s.slotOf t sv → wide = s.tileWide t.id.gridId tile → decide (x.matrixClass = some 0) = wide →
    ∀ el rc n, el = acresElem t tm wide tile (srcOf t form 0) → rc = acresMode t x → n = (if x.fd = 0 then 2 else 1) →
      ∀ s2, s2 = (s.committed t form).addOp (acresOp (s.committed t form) (s.argsOf t form) d n 24 rc el wide
          (el.resolve wide (fmtOf x.fd) x.sat rc)) →
        exec (.acres d a l sv tile) s = .next s2) ∧
  (∀ form, form = accForm s t { acFormA a l with dests := [d] } [tile, other] → s.Issues t form →
    s.TilesReady t tm [tile, other] [] → ∀ i, i = 32 * bits (srcOf t form 0) 0 5 + bits (srcOf t form 0) 8 5 →
    exec (.accmp d a l other tile) s = .next (s.issuedResult t form 12 [d]
      [elemCompare (s.tileWide t.id.gridId tile) (tm.elem tile (tm.siteFor t.id.rank) i) (tm.elem other (tm.siteFor t.id.rank) i)]))

namespace Sys2Proof
namespace Machine

-- ---------------------------------------------------------------- queues and submissions

/-- The form of QPOP and QPEEK (R318, R319): size code 0 reads no bytes and no register. -/
def popForm (d a : Nat) (l : Bool) (z : Nat) : Issue :=
  { srcs := if popSize z = 0 then [] else [⟨a, 1⟩], dests := (Src.mk d (popSize z / 4)).regs,
    kills := killIf (l && decide (popSize z ≠ 0)) ⟨a, 1⟩, hints := schedOnly }

/-- The state after a pop, or after a peek. -/
def State.popped (s : State) (tm : Team) (pop : Bool) (q i now : Nat) : State :=
  if pop then s.updTeam tm.id fun u => u.updQueue q fun y => y.pop now i else s

/-- What QPOP (`pop`) and QPEEK do on a queue whose front is slot i (R315, R319, R320): Blocked until the slot is Ready; its bytes are the
result; a pop empties it. An offset not aligned to the size, and a mark, take their traps. -/
def Pops (i : Instr) (pop : Bool) (d a : Nat) (l : Bool) (q z : Nat) : Prop :=
  ∀ (s : State) (t : Thread) (tm : Team) (form : Issue), form = popForm d a l z → s.Issues t form → s.team? t.id.teamId = some tm →
    ∀ n off, n = popSize z → off = srcOf t form 0 % 256 →
    (n ≠ 0 → off % n ≠ 0 →
      exec i s = .next (s.raiseTrap t clsMisaligned s.ir 0 0 (some (opndOf (s.argsOf t form).opnd 0)))) ∧
    (n = 0 ∨ off % n = 0 →
      ((tm.queue q).front = none → exec i s = .next (s.setWaiting t.id .blocked)) ∧
      (∀ k, (tm.queue q).front = some k →
        (((tm.queue q).slot k).st ≠ .ready → exec i s = .next (s.setWaiting t.id .blocked)) ∧
        (((tm.queue q).slot k).st = .ready →
          (n ≠ 0 → ((tm.queue q).slot k).poison = true →
            exec i s = .next (s.raiseTrap t clsPoison s.ir 0 0 (some (opndOf (s.argsOf t form).opnd 0)))) ∧
          (n = 0 → exec i s = .next ((s.committed t form).popped tm pop q k (s.now (s.coreOf t.id)))) ∧
          (n ≠ 0 → ((tm.queue q).slot k).poison = false →
            exec i s = .next (((s.committed t form).popped tm pop q k (s.now (s.coreOf t.id))).result (s.argsOf t form) 8
              (Src.mk d (n / 4)).regs (wordsOf (n / 4) (((tm.queue q).slot k).bytes off n)))))))

/-- The operation of a QPUSH: its bytes and their mark, read at issue, for a slot of a queue (R321). -/
def pushOp (s : State) (x : Args) (q slot : Nat) (b : Nat × Bool) : Op :=
  { x.op s (.push q slot b.2) with
    vals := [b.1]
    cls := some .st }

/-- The form of ISUB (R322). -/
def isubForm (d a : Nat) (l : Bool) (r : Nat) : Issue :=
  { srcs := [⟨a, 1⟩, ⟨d, 4 * 2 ^ r⟩], recs := 1, kills := killIf l ⟨a, 1⟩, hints := schedOnly }

/-- The submission of an ISUB (R322, R323). -/
def isubJob (x : Args) (id c isl ctl r rec_ : Nat) (slots : List Nat) : IslandJob :=
  { jobOf x id c isl ctl (r + 4 * c) with
    recd := rec_
    size := 4 * (4 * 2 ^ r)
    queue := bits ctl 0 3
    slots := slots }

/-- An operation of an island for a submission, counted in k.is. -/
def islandOp (s : State) (x : Args) (id : Nat) (dests : List Nat) : Op :=
  { x.op s (.island id) with
    cls := some .is
    dests := dests }

/-- A state with one more submission. -/
def State.withJob (s : State) (j : IslandJob) : State := { s with jobs := s.jobs ++ [j] }

/-- The form of TRACE (R324). -/
def traceForm (d a : Nat) (l : Bool) : Issue :=
  { srcs := [⟨a, 1⟩, ⟨d, 8⟩], recs := 1, dests := (Src.mk d 8).regs, kills := killIf l ⟨a, 1⟩, hints := schedOnly }

/-- The payload words of a TRACE that lie beyond the thread's registers (R325). -/
def traceBeyond (t : Thread) (d np : Nat) : Nat := d + 8 + np - t.budget

/-- The bytes of the frame that holds them, in pairs of words (R325). -/
def traceFrame (t : Thread) (d np : Nat) : Nat := 8 * ceilDiv (traceBeyond t d np) 2

/-- The trace state of a thread after a TRACE with a frame of n bytes (R325). -/
def Thread.traced (u : Thread) (t1 : Thread) (n op : Nat) : Thread :=
  { u.count .is op with
    fbase := if n ≠ 0 ∧ t1.fsize = 0 then t1.ssp else t1.fbase
    fsize := t1.fsize + BitVec.ofNat 23 n
    ssp := t1.ssp + BitVec.ofNat 23 n
    tdep := t1.tdep + 1 }

/-- The submission of a TRACE (R324, R325). -/
def traceJob (x : Args) (id isl ctl rec_ frame words : Nat) : IslandJob :=
  { jobOf x id 1 isl ctl 0 with
    recd := rec_
    size := 64
    trace := true
    frame := frame
    frameWords := words }

-- ---------------------------------------------------------------- slices

/-- The conditions under which an access slice runs its word (R327, R328). -/
structure State.SliceRuns (s : State) (tm : Team) (sl : Slice) (h : Hints) : Prop where
  acting : s.cur = .slice tm.id
  found : s.team? tm.id = some tm
  slice : tm.slice = some sl
  running : sl.run = .running
  accepted : hintsOk h sl.latch = true

/-- A slice word runs: the next state is `s2` with the slice moved on to `sl2`. -/
def SliceGoes (i : Instr) (s : State) (tm : Team) (s2 : State) (sl2 : Slice) : Prop := exec i s = .next (s2.setSlice tm.id sl2)

/-- A slice at its next word in which some fields have changed. -/
def Slice.withX (sl : Slice) (n v : Nat) : Slice := { sl with x := sl.x.set n (BitVec.ofNat 64 v) }
/-- A slice with a stride of register n at a level. -/
def Slice.withStride (sl : Slice) (n level v : Nat) : Slice := { sl with strides := sl.strides.set (4 * n + level) (BitVec.ofNat 32 v) }
/-- A slice with its open loops. -/
def Slice.withLoops (sl : Slice) (l : List LoopLevel) : Slice := { sl with loops := l }
/-- A slice at a word. -/
def Slice.at (sl : Slice) (pc : Addr) : Slice := { sl with apc := pc }
/-- A slice that has ended. -/
def Slice.ended (sl : Slice) : Slice := { sl with run := .exited }
/-- A slice with one more read outstanding. -/
def Slice.withRead (sl : Slice) (r : SliceRead) : Slice := { sl with reads := sl.reads ++ [r] }
/-- A loop level that has begun its next iteration. -/
def LoopLevel.again (lv : LoopLevel) : LoopLevel := { lv with it := lv.it + 1 }

/-- The read of a slice (R331): 2^r rows of 256 / 2^r bytes from an x register on, at a stride, into a slot. -/
def sliceReadOf (s : State) (sl : Slice) (weight : Bool) (d slot base r : Nat) (stride : Int) : SliceRead :=
  let rows := 2 ^ r
  let size := 256 / rows
  { id := s.nextId, queue := d, slot := slot, weight := weight, cp := modCp sl.latch, pc := sl.apc, word := s.ir, latch := sl.latch,
    reqs := numberReqs (s.nextId + 1) ((List.range rows).flatMap fun i =>
      rowRequests i 9 (wrap ((base : Int) + i * stride) (if weight then 31 else 64)) (i * size) size) }

/-- A.LDQ and A.LDWQ (R331, R333): with a slot free and the queue's limit not reached, a slot is reserved and its read begins; a row address
not aligned to 32 bytes stops the slice, and so do, for the weight store, its absence and an address beyond it; otherwise it waits. -/
def QueueLoads (i : Instr) (weight : Bool) (d a sv r : Nat) : Prop :=
  ∀ (s : State) (tm : Team) (sl : Slice), s.SliceRuns tm sl { cp := true, live := false } →
    ∀ stride : Int, stride = (if r = 0 then 0 else sext (sl.xreg sv) 32) →
    (weight = true → s.hasWeights = false → exec i s = .next (s.stopSlice tm.id clsAbsent s.ir 0)) ∧
    (weight = true → s.hasWeights = true → 2 ^ 31 ≤ sl.xreg a → exec i s = .next (s.stopSlice tm.id clsWeightRange s.ir (sl.xreg a))) ∧
    ((weight = true → s.hasWeights = true ∧ sl.xreg a < 2 ^ 31) →
      ∀ k : Nat, k < 2 ^ r → (∀ j : Nat, j < k → wrap ((sl.xreg a : Int) + j * stride) (if weight then 31 else 64) % 32 = 0) →
      wrap ((sl.xreg a : Int) + k * stride) (if weight then 31 else 64) % 32 ≠ 0 →
      exec i s = .next (s.stopSlice tm.id clsMisaligned s.ir (wrap ((sl.xreg a : Int) + k * stride) (if weight then 31 else 64)))) ∧
    ((weight = true → s.hasWeights = true ∧ sl.xreg a < 2 ^ 31) →
      (∀ k : Nat, k < 2 ^ r → wrap ((sl.xreg a : Int) + k * stride) (if weight then 31 else 64) % 32 = 0) →
      (((tm.queue d).room (s.now tm.core) 1 = false ∨ (tm.queue d).limit ≤ (tm.queue d).sheld) → exec i s = .next s) ∧
      ((tm.queue d).room (s.now tm.core) 1 = true → (tm.queue d).sheld < (tm.queue d).limit →
        ∀ res rd, res = (tm.queue d).reserve 1 .slice → rd = sliceReadOf s sl weight d (nth res.1 0 0) (sl.xreg a) r stride →
          SliceGoes i s tm (State.updTeam { s with nextId := s.nextId + 1 + rd.reqs.length } tm.id fun u => u.updQueue d fun _ => res.2)
            (sl.next.withRead rd)))

-- ---------------------------------------------------------------- copies

/-- The form of a copy word with n descriptor registers (R305, R306). -/
def copyForm (d a : Nat) (l : Bool) (n : Nat) : Issue :=
  { srcs := [⟨a, 1⟩, ⟨d, n⟩], recs := 1, kills := killIf l ⟨a, 1⟩, hints := { scope := true, cp := true, live := false } }

/-- What a copy word does (R305 to R309, R459, R467): the checks of R308 in order; a copy of no bytes completes at once; any other begins,
with all its requests to make, unless ICNT of its cairn stands at its largest, which is Blocked. Its rows and strides are those of the
descriptor. -/
def Copies (i : Instr) (kind d a : Nat) (l : Bool) (sc dc : Nat) : Prop :=
  ∀ (s : State) (t : Thread) (form : Issue), form = copyForm d a l (if kind = 1 then 10 else 8) → s.Issues t form →
    ∀ cw v c, cw = srcOf t form 0 → v = srcOf t form 1 → c = s.copyDesc (s.argsOf t form) s.nextId kind sc dc cw v →
      (c.rowb = v / 2 ^ 128 % 2 ^ 20 ∧ c.nrow = v / 2 ^ 160 % 2 ^ 16 ∧ c.sstr = sext (v / 2 ^ 192 % 2 ^ 32) 32
        ∧ c.dstr = sext (v / 2 ^ 224 % 2 ^ 32) 32 ∧ c.thr = t.id ∧ c.kind = kind) ∧
      (∀ trap, copyTrap s (s.argsOf t form) c (descSrc v) (descDst v) (descMask v) (descFlawed sc dc cw v)
          ((s.copyTargets (s.argsOf t form) kind v c.dstS).map (·.1)) = some trap →
        exec i s = .next (s.raiseTrap t trap.1 s.ir 0 trap.2 (some (opndOf (s.argsOf t form).opnd 0)))) ∧
      (copyTrap s (s.argsOf t form) c (descSrc v) (descDst v) (descMask v) (descFlawed sc dc cw v)
          ((s.copyTargets (s.argsOf t form) kind v c.dstS).map (·.1)) = none →
        (c.rowb * c.nrow = 0 → t.counter .cp < 63 → exec i s = .next ((s.committed t form).emptyCopy c)) ∧
        (c.rowb * c.nrow ≠ 0 → s.cairnFull c = true → exec i s = .next (s.setWaiting t.id .blocked)) ∧
        (c.rowb * c.nrow ≠ 0 → s.cairnFull c = false → t.counter .cp < 63 →
          exec i s = .next ((s.committed t form).beginCopy { c with todo := c.requests })))

-- ---------------------------------------------------------------- cairns

/-- What every cairn word checks before its own conditions (R464): the offset is aligned and inside the region, its granule holds no mark,
and in a deterministic grid the scope is no wider than team. -/
structure State.CairnReady (s : State) (t : Thread) (tm : Team) (off scope : Nat) : Prop where
  found : s.team? t.id.teamId = some tm
  aligned : off % 32 = 0
  inside : off + 31 < tm.scr * 4096
  clean : tm.poison.contains (off / 32) = false
  alone : s.detMode t.id.gridId = true → scope ≤ 2

/-- The form of a cairn word of a register and n data registers (R463). -/
def cairnForm (d a : Nat) (l : Bool) (n : Nat) : Issue :=
  { srcs := if n = 0 then [⟨a, 1⟩] else [⟨a, 1⟩, ⟨d, n⟩], recs := if n = 0 then 3 else 1, kills := killIf l ⟨a, 1⟩,
    hints := schedOnly }

/-- A team with a granule tagged, or untagged. -/
def Team.tag (tm : Team) (off : Nat) (on : Bool) : Team := { tm with tags := if on then setAdd tm.tags (off / 32) else setDel tm.tags (off / 32) }

/-- A cairn counted once more in WAITERS. -/
def CairnObj.waited (c : CairnObj) : CairnObj := { c with waiters := c.waiters + 1 }

/-- The state after a cairn word of a thread has issued (R468): its team's cairns have had their word of the cycle. -/
def State.cairnUsed (s : State) (t : Thread) (form : Issue) : State :=
  (s.committed t form).updTeam t.id.teamId fun u => { u with cairnAt := s.now (s.coreOf t.id) + 1 }

/-- A thread that waits at a cairn for a phase. -/
def Thread.atCairn (t : Thread) (off v : Nat) : Thread := { t with cairn := some (off, v) }

/-- A cairn after CRN.EXPECT (R465). -/
def CairnObj.expecting (c : CairnObj) (v : Nat) : CairnObj := { c with exp := v, pend := (c.pend + v) % 2 ^ 64, armed := true }

/-- A cairn after n bytes counted on it (R465, R467). -/
def CairnObj.arrived (c : CairnObj) (n : Nat) : CairnObj := { c with pend := (c.pend + 2 ^ 64 - n % 2 ^ 64) % 2 ^ 64 }

/-- A free cairn object after CRN.INIT (R465). -/
def cairnInit (v : Nat) (auto : Bool) (scope : Nat) : CairnObj :=
  { exp := v, pend := v, phase := 0, waiters := 0, armed := decide (v ≠ 0), auto := auto, scope := scope, icnt := 0 }

/-- The form of RNGX and RNGADD (R472). -/
def drawForm (d a : Nat) (l : Bool) (b : Src) (m : Bool) : Issue :=
  { srcs := [⟨a, 4⟩, b], dests := (Src.mk d 4).regs, kills := killIf l ⟨a, 4⟩ ++ killIf m b, hints := schedOnly }

-- ---------------------------------------------------------------- special registers

/-- Where a register of R124 is written: none for a read-only one (R125). -/
def Thread.specialWritten (t : Thread) (n v now : Nat) : Thread := { t.setSpecial n v with holdUntil := now + 8, readyAt := now + 8 }

/-- The form of MOVSR with k destinations (R124, R166, R375). -/
def movsrForm (s : State) (t : Thread) (d n k : Nat) : Issue :=
  { dests := (Src.mk d k).regs, hints := schedOnly, flaw := s.badSpecial t n || (decide (n = 0x28) && decide (d % 2 = 1)),
    wait := decide (n = 0x11) && s.flagsInFlight t.id }

/-- The form of MOVRS (R125, R166, R375). -/
def movrsForm (s : State) (t : Thread) (a : Nat) (l : Bool) (n : Nat) : Issue :=
  { srcs := [⟨a, 1⟩], kills := killIf l ⟨a, 1⟩, hints := schedOnly, flaw := s.badSpecial t n, wait := decide (n = 0x11) && s.flagsInFlight t.id }

/-- The form of ERET (R376): of kernel mode only, after its thread's release. -/
def eretForm (s : State) (t : Thread) (d a : Nat) (l : Bool) : Issue :=
  { srcs := [⟨a, 1⟩], dests := [d], kills := killIf l ⟨a, 1⟩, hints := schedOnly, flaw := ! s.kernelMode t.id.gridId, wait := ! s.releasable t }

/-- The form of HALT (R377). -/
def haltForm (s : State) (t : Thread) (d a : Nat) (l : Bool) : Issue :=
  { srcs := [⟨a, 1⟩], dests := [d], kills := killIf l ⟨a, 1⟩, hints := schedOnly, flaw := ! s.kernelMode t.id.gridId }

/-- The operation of an ERET (R376): the action its A names on the target of the kernel registers, to be performed at the end of the cycle;
its status comes 8 cycles after the issue. -/
def eretOp (s : State) (x : Args) (d w : Nat) (target : List Nat) : Op :=
  { x.op s (.eret w target) with
    due := some (x.now + 8)
    dests := [d]
    vals := [0] }

/-- What ERET does in kernel mode (R376): after a write-back of the cluster its action stands to be performed. -/
def Erets (i : Instr) (d a : Nat) (l : Bool) : Prop := ∀ (s : State) (t : Thread) (form : Issue), form = eretForm s t d a l → s.Issues t form →
  ∀ s2, s2 = (s.committed t form).flushL1 (clusterOf (s.coreOf t.id)) →
    exec i s = .next (s2.addOp (eretOp s2 (s.argsOf t form) d (srcOf t form 0) t.target))

/-- The thread a target names. -/
def Target.thread (k : Target) : ThreadId := ⟨k.ctx, k.grid, k.team, k.rank⟩

/-- The team a target names. -/
def Target.team' (k : Target) : TeamId := ⟨k.ctx, k.grid, k.team⟩

/-- A target whose context stands and is resident: the first checks of R376 pass. -/
def State.targetLives (s : State) (k : Target) : Prop :=
  ∃ c, s.ctx? k.ctx = some c ∧ c.live = true ∧ c.resident = true ∧ s.tdiBound c = false

/-- The unanswered records of a parked thread that an ERET's sr.kseq names: one, or all of them (R373, R510). -/
def Thread.namedParks (x : Thread) (k : Target) : List Nat :=
  (if x.st.isParked then x.openParks.filter (fun q => decide (q < 2 ^ 32)) else []).filter fun q => decide (k.seq = allSeq) || decide (q = k.seq)

/-- The statuses and effects of ERET's actions (R376), in the order of its checks: 6 for a malformed word, 1 for a context that is not live,
4 for one that is not resident, 1 for a team, rank or record that is not there; then RESUME and SKIP release or cancel the requests of the
records named and answer them, KILL ends the thread, WRITE writes a register of a parked thread, DONE closes an Open entry, and RQREL and
RQCAN act on the requests linked to the records named. -/
def EretActs (s : State) (w : Nat) (k : Target) : Prop :=
  (w / 2 ^ 12 ≠ 0 ∨ 6 < bits w 0 4 → s.eretAct w k = (s, 6)) ∧
  (w / 2 ^ 12 = 0 → bits w 0 4 ≤ 6 →
    (s.ctx? k.ctx = none → s.eretAct w k = (s, 1)) ∧
    (∀ c, s.ctx? k.ctx = some c → c.live = false → s.eretAct w k = (s, 1)) ∧
    (∀ c, s.ctx? k.ctx = some c → c.live = true → s.tdiBound c = false → c.resident = false → s.eretAct w k = (s, 4)) ∧
    (s.targetLives k →
      (bits w 0 4 ≠ 4 → bits w 0 4 ≠ 5 → s.team? k.team' = none ∨ s.recordExists k = false → s.eretAct w k = (s, 1)) ∧
      (bits w 0 4 = 4 ∨ bits w 0 4 = 5 → s.named k = [] → k.seq ≠ allSeq → s.eretAct w k = (s, 1)) ∧
      (∀ tm, s.team? k.team' = some tm → s.teamSize k.team' ≤ k.rank → s.eretAct w k = (s, 1)) ∧
      (bits w 0 4 < 4 → s.thread? k.thread = none → s.eretAct w k = (s, 1)) ∧
      (∀ tm x, s.team? k.team' = some tm → k.rank < s.teamSize k.team' → s.recordExists k = true → s.thread? k.thread = some x →
        (bits w 0 4 < 4 → x.st = .exited → s.eretAct w k = (s, 2)) ∧
        (bits w 0 4 ≤ 1 → x.namedParks k = [] → s.eretAct w k = (s, 2)) ∧
        (bits w 0 4 = 0 → x.namedParks k ≠ [] →
          s.eretAct w k = ((s.releaseAll k.ctx (x.namedParks k)).answer k.thread (x.namedParks k) .resume, 0)) ∧
        (bits w 0 4 = 1 → x.namedParks k ≠ [] →
          s.eretAct w k = ((s.cancelAll k.ctx (x.namedParks k)).answer k.thread (x.namedParks k) .skip, 0)) ∧
        (bits w 0 4 = 2 → x.st ≠ .exited → s.eretAct w k = (s.killThread k.thread, 0)) ∧
        (bits w 0 4 = 3 → x.st.isParked = false ∨ x.openParks = [] ∨ (k.seq ≠ allSeq ∧ k.seq ∉ x.openParks) → s.eretAct w k = (s, 2)) ∧
        (bits w 0 4 = 3 → x.st.isParked = true → k.seq ∈ x.openParks ∨ (k.seq = allSeq ∧ x.openParks ≠ []) →
          (x.eretWrite (bits w 4 8) k.val = none → s.eretAct w k = (s, 5)) ∧
          (∀ y, x.eretWrite (bits w 4 8) k.val = some y → s.eretAct w k = (s.updThread k.thread fun _ => y, 0)))) ∧
      ((∀ tm, s.team? k.team' = some tm → k.rank < s.teamSize k.team') → s.named k ≠ [] →
        (bits w 0 4 = 4 → s.eretAct w k = (s.releaseAll k.ctx (s.named k), 0)) ∧
        (bits w 0 4 = 5 → s.eretAct w k = (s.cancelAll k.ctx (s.named k), 0))) ∧
      (bits w 0 4 = 6 → ∀ tm, s.team? k.team' = some tm → k.rank < s.teamSize k.team' → s.recordExists k = true →
        (tm.entry ≠ .opened → s.eretAct w k = (s, 3)) ∧
        (tm.entry = .opened → ∃ s2, s.eretAct w k = (s2, 0) ∧
          (∀ u, s2.team? k.team' = some u → u.entry = .closed) ∧
          ∀ r ∈ s2.recs, ¬ (r.np = true ∧ r.ctx = k.ctx ∧ r.grid = k.grid ∧ r.team % 2 ^ 32 = k.team)))))

/-- What answering records of a parked thread makes of it (R510): it stays parked at its word while another record is unanswered; when the
last is answered it is Ready, after RESUMEs alone at PPC, and when any answer was SKIP at PPC + 4 with an empty latch. -/
def Answers (s : State) (t : ThreadId) (seqs : List Nat) (how : ParkAnswer) : Prop := ∀ x, s.thread? t = some x →
  ((∃ q ∈ x.openParks, q ∉ seqs) → ∃ y, (s.answer t seqs how).thread? t = some y ∧ y.st = x.st ∧ y.pc = x.pc ∧ y.latch = x.latch ∧
    ∀ q, q ∈ y.openParks ↔ q ∈ x.openParks ∧ q ∉ seqs) ∧
  ((∀ q ∈ x.openParks, q ∈ seqs) → x.openParks ≠ [] → x.st ≠ .exited →
    (how = .skip ∨ (∃ p ∈ x.parks, p.seq ∉ seqs ∧ p.answer = some .skip) →
      ∃ y, (s.answer t seqs how).thread? t = some y ∧ y.st = .ready ∧ y.pc = x.parkPc + 4 ∧ y.latch = [] ∧ y.parks = []) ∧
    (how = .resume → (∀ p ∈ x.parks, p.seq ∉ seqs → p.answer ≠ some .skip) → x.st = .parked .fault →
      ∃ y, (s.answer t seqs how).thread? t = some y ∧ y.st = .ready ∧ y.pc = x.pc ∧ y.latch = x.latch ∧ y.parks = []))

end Machine
end Sys2Proof

open Sys2Proof Sys2Proof.Machine

/-- R313, R315, R318 to R321: QPOP, QPEEK and QPUSH. -/
def Obligations.QueueWordsComplete : Prop := ∀ (d a : Nat) (l : Bool) (q z : Nat),
  Pops (.qpop d a l q z) true d a l q z ∧ Pops (.qpeek d a l q z) false d a l q z ∧
  (∀ (s : State) (t : Thread) (tm : Team), s.Issues t (acFormA a l) → s.team? t.id.teamId = some tm → ∀ off, off = srcOf t (acFormA a l) 0 →
    off % 64 = 0 → off + 256 ≤ tm.scr * 4096 → tm.absentIn off 256 = none →
    (s.committed t (acFormA a l)).imageHeld (s.argsOf t (acFormA a l)) off 256 = false →
    ((tm.queue q).room (s.now (s.coreOf t.id)) 1 = false → exec (.qpush a l q) s = .next (s.setWaiting t.id .blocked)) ∧
    ((tm.queue q).room (s.now (s.coreOf t.id)) 1 = true → t.counter .st < 63 →
      ∀ res s2 op, res = (tm.queue q).reserve 1 .thread →
        s2 = (s.committed t (acFormA a l)).updTeam tm.id (fun u => u.updQueue q fun _ => res.2) →
        op = pushOp s2 (s.argsOf t (acFormA a l)) q (nth res.1 0 0)
          ((s.committed t (acFormA a l)).imageBytes (s.argsOf t (acFormA a l)) off 256) →
        exec (.qpush a l q) s = .next ((s2.addOp op).updThread t.id fun u => u.count .st op.id)))

/-- R322 to R325: ISUB reserves its result slots and submits its record; TRACE makes its frame and submits; both are counted in k.is. That
a submission is Blocked while its island serves another context is a reading (log 27). -/
def Obligations.SubmissionsComplete : Prop := ∀ (s : State) (t : Thread) (tm : Team) (d a : Nat) (l : Bool), s.team? t.id.teamId = some tm →
  (∀ c r form, form = isubForm d a l r → s.Issues t form → ∀ ctl, ctl = srcOf t form 0 →
    bitAt ctl 3 = false → bits ctl 18 14 = 0 → (c ≠ 0 → bits ctl 16 2 = 0) → (s.boundImage t.id.ctx c).isSome →
    ∀ isl go, isl = s.island c (islandOf c (s.coreOf t.id) (bits ctl 16 2)) →
      go = isl.takes t.id.ctx (s.boundImage t.id.ctx c) (s.now (s.coreOf t.id)) →
      (go = false → exec (.isub d a l c r) s = .next ((s.waitIsland isl t.id.ctx).setWaiting t.id .blocked)) ∧
      (go = true → (tm.queue (bits ctl 0 3)).room (s.now (s.coreOf t.id)) (bits ctl 4 4) = false →
        exec (.isub d a l c r) s = .next (s.setWaiting t.id .blocked)) ∧
      (go = true → (tm.queue (bits ctl 0 3)).room (s.now (s.coreOf t.id)) (bits ctl 4 4) = true →
        t.counter .is < 63 → ∀ res s2, res = (tm.queue (bits ctl 0 3)).reserve (bits ctl 4 4) .island →
        s2 = ((s.committed t form).takeIsland isl t.id.ctx).updTeam tm.id (fun u => u.updQueue (bits ctl 0 3) fun _ => res.2) →
        exec (.isub d a l c r) s = .next (((s2.addOp (islandOp s2 (s.argsOf t form) s2.nextId [])).updThread t.id fun u =>
          u.count .is s2.nextId).withJob ((isubJob (s.argsOf t form) s2.nextId c isl.isl ctl r (srcOf t form 1) res.1).buffer s)))) ∧
  (∀ form, form = traceForm d a l → s.Issues t form → ∀ ctl np, ctl = srcOf t form 0 → np = bits ctl 0 5 →
    bits ctl 5 3 = 0 → bits ctl 16 16 = 0 → np ≤ 24 → (s.boundImage t.id.ctx 1).isSome →
    (∀ g, s.launchOf t.id.gridId = some g → g.depth ≤ t.tdep.toNat →
      exec (.trace d a l) s = .next (s.raiseTrap t clsRecursion s.ir 0 0 (some (opndOf (s.argsOf t form).opnd 0)))) ∧
    (∀ g, s.launchOf t.id.gridId = some g → t.tdep.toNat < g.depth → ∀ t1, t1 = t.freeFrames →
      (s.scratchSize t < t1.ssp.toNat + traceFrame t d np →
        exec (.trace d a l) s = .next (s.raiseTrap t clsOverflow s.ir 0 0 (some (opndOf (s.argsOf t form).opnd 0)))) ∧
      (t1.ssp.toNat + traceFrame t d np ≤ s.scratchSize t → ∀ isl go, isl = s.island 1 (clusterOf (s.coreOf t.id)) →
        go = isl.takes t.id.ctx (s.boundImage t.id.ctx 1) (s.now (s.coreOf t.id)) →
        (go = false → exec (.trace d a l) s = .next ((s.waitIsland isl t.id.ctx).setWaiting t.id .blocked)) ∧
        (go = true → t.counter .is < 63 →
          exec (.trace d a l) s = .next (((((s.committed t form).takeIsland isl t.id.ctx).addOp (islandOp (s.committed t form) (s.argsOf t form)
              s.nextId (Src.mk d (8 + np - traceBeyond t d np)).regs)).updThread t.id fun u => u.traced t1 (traceFrame t d np) s.nextId).withJob
            ((traceJob (s.argsOf t form) s.nextId isl.isl ctl (srcOf t form 1) (s.scratchArea t + t1.ssp.toNat) (traceBeyond t d np)).buffer
              s))))))

/-- R256, R328 to R331, R333, R370: the words of an access slice: A.LOOP, A.END, A.ADDR, A.BASE, A.SETQ, A.WAITQ and A.EXIT, and its loads
A.LDQ and A.LDWQ. The classes of the stops are readings (log 26). -/
def Obligations.SliceWordsComplete : Prop :=
  (∀ (s : State) (tm : Team) (sl : Slice) (c d a i l : Nat),
    (s.SliceRuns tm sl { schedOnly with imm := 2 } →
      (sl.loops.length < 4 → SliceGoes (.aLoop c) s tm s
        (sl.next.withLoops (sl.loops ++ [⟨sl.apc + 4, BitVec.ofNat 32 (latchPay0 sl.latch 0 * 2 ^ 9 + c + 1), 0⟩]))) ∧
      (4 ≤ sl.loops.length → exec (.aLoop c) s = .next (s.stopSlice tm.id clsIllegal s.ir 0)) ∧
      SliceGoes (.aAddr d a i) s tm s (sl.next.withStride d a (wrap (imm9 sl.latch i * 32) 32)) ∧
      SliceGoes (.aBase d a i) s tm s (sl.next.withX d
        (wrap ((sl.xreg d : Int) + (if a = 8 then 1 else (sl.xreg a : Int)) * (imm9 sl.latch i * 32)) 64))) ∧
    (s.SliceRuns tm sl schedOnly →
      SliceGoes (.aSetq d l) s tm (s.updTeam tm.id fun u => u.updQueue d fun q => { q with limit := BitVec.ofNat 5 (l + 1) }) sl.next ∧
      SliceGoes .aExit s tm s sl.next.ended ∧
      (sl.loops = [] → exec .aEnd s = .next (s.stopSlice tm.id clsIllegal s.ir 0)) ∧
      (∀ outer lv, sl.loops = outer ++ [lv] →
        (lv.it.toNat + 1 < lv.cnt.toNat → SliceGoes .aEnd s tm s
          (((sl.next.advance outer.length 1).at lv.start).withLoops (outer ++ [lv.again]))) ∧
        (lv.cnt.toNat ≤ lv.it.toNat + 1 → SliceGoes .aEnd s tm s
          ((sl.next.advance outer.length (-((lv.cnt.toNat : Int) - 1))).withLoops outer))) ∧
      ((tm.queue d).front = none → exec (.aWaitq d) s = .next s) ∧
      (∀ k, (tm.queue d).front = some k →
        (((tm.queue d).slot k).st ≠ .ready → exec (.aWaitq d) s = .next s) ∧
        (((tm.queue d).slot k).st = .ready → SliceGoes (.aWaitq d) s tm
          (s.updTeam tm.id fun u => u.updQueue d fun y => y.pop (s.now tm.core) k) sl.next)))) ∧
  (∀ (d a sv r : Nat),
    QueueLoads (.aLdq d a sv r) false d a sv r ∧ QueueLoads (.aLdwq d a sv r) true d a sv r)

/-- R305 to R310, R459, R467: TCOPY, TCAST, TRED.bf16 and TRED.f32. A receiver that several bits of a mask name counts once (log 32). -/
def Obligations.CopiesComplete : Prop := ∀ (d a : Nat) (l : Bool) (e sv : Nat),
  Copies (.tcopy d a l e sv) 0 d a l sv e ∧ Copies (.tcast d a l sv) 1 d a l sv 1 ∧ Copies (.tredBf16 d a l e sv) 2 d a l sv e ∧
  Copies (.tredF32 d a l e sv) 3 d a l sv e

/-- R339, R344, R351: LAUNCH of a valid record reads 1 into its predicate when the store of the die or the spill ring takes the record, and 0
when neither has room. -/
def Obligations.LaunchCompletes : Prop := ∀ (s : State) (t : Thread) (tm : Team) (gr : Grid) (a : Nat) (l : Bool) (p : Nat) (form : Issue),
  form = { acFormA a l with dests := [64 + p] } → s.Issues t form →
  s.team? t.id.teamId = some tm → s.grid? t.id.gridId = some gr → ∀ off, off = srcOf t form 0 → off % 256 = 0 → off + 256 ≤ tm.scr * 4096 →
  tm.present off 256 = true → (s.committed t form).imageHeld (s.argsOf t form) off 256 = false →
  ∀ b, b = (s.committed t form).imageBytes (s.argsOf t form) off 256 → b.2 = false → recordFlaw b.1 = none →
  s.noCluster t.id.ctx (LaunchRec.ofRaw b.1) = false →
  ∀ die raw src, die = dieOf (s.coreOf t.id) → src = (t.id, t.pos, s.coreOf t.id) →
    raw = b.1 - bits (recWord b.1 0) 32 16 * 2 ^ 32 + (bits (recWord b.1 0) 32 16 &&& gr.svcp) * 2 ^ 32 →
    ((s.ctl die).spilled = 0 → s.storeRoom die = true →
      exec (.launch a l p) s = .next (((s.committed t form).withNextId.acceptGrid t.id.ctx die s.nextId raw false (some src) 0).result
        (s.argsOf t form) 12 [64 + p] [1])) ∧
    (((s.ctl die).spilled ≠ 0 ∨ s.storeRoom die = false) → (s.ctl die).spilled < (s.ctl die).spillSize →
      exec (.launch a l p) s = .next (((s.committed t form).spill die t.id.ctx t.id.grid raw src).result (s.argsOf t form) 12 [64 + p] [1])) ∧
    (((s.ctl die).spilled ≠ 0 ∨ s.storeRoom die = false) → (s.ctl die).spillSize ≤ (s.ctl die).spilled →
      ∀ s2, s2 = (s.committed t form).result (s.argsOf t form) 12 [64 + p] [0] →
      exec (.launch a l p) s = .next (s2.addOp ((s.argsOf t form).op s2 .release)))

/-- R356 to R358: SVC of a permitted class with a slot of the ring open writes the batch slot and PW, and parks its thread at its word
until the reply; the batch is open. Without the class in SVCP it takes service not permitted; with the ring full it is Blocked. The
context of the ring, and what a ring without translation does, are readings (log 29). -/
def Obligations.ServiceCallCompletes : Prop := ∀ (s : State) (t : Thread) (gr : Grid) (d a : Nat) (l : Bool) (n c k : Nat) (form : Issue),
  k = 2 * 2 ^ n → form = svcForm s d a l k t → s.Issues t form → s.grid? t.id.gridId = some gr →
  (bitAt gr.svcp c = false →
    exec (.svc d a l n c) s = .next (s.raiseTrap t clsService s.ir 0 0 (some (opndOf (s.argsOf t form).opnd 0)))) ∧
  (bitAt gr.svcp c = true → ∀ s1 die ctx base slots pw cw m1 m2, s1 = s.committed t form → die = dieOf (s.coreOf t.id) →
    (s.ctl die).serviceRing = some (base, slots) → s.serviceCtx die = some ctx →
    s1.read1k die ctx base 8 = .ok pw m1 → s1.read1k die ctx (base + 64) 8 = .ok cw m2 →
    (slots ≤ (pw + 2 ^ 64 - cw) % 2 ^ 64 → exec (.svc d a l n c) s = .next (s.setWaiting t.id .blocked)) ∧
    ((pw + 2 ^ 64 - cw) % 2 ^ 64 < slots → (∀ b ∈ s.svc, b.die = die → b.j % slots ≠ pw % slots) →
      ∀ all va s2 s3, all = s.svcCallers s1 (s.argsOf t form) d a l k → va = base + 2048 * (1 + pw % slots) →
        s1.writeVa die ctx 40 va (64 + 48 * all.length) (slotValue all t c n k (s.userOf t.id.gridId)) = (s2, none) →
        s2.writeVa die ctx 2 base 8 ((pw + 1) % 2 ^ 64) = (s3, none) →
        exec (.svc d a l n c) s = .next ((s.parkBatch s3 (s.argsOf t form) d a l k pw ctx base va all).setWaiting t.id (.parked .service))))

/-- R461 to R466: CRN.INIT, CRN.FREE, CRN.EXPECT, CRN.ARRIVE, CRN.WAIT and CRN.TEST. -/
def Obligations.CairnWordsComplete : Prop := ∀ (s : State) (t : Thread) (tm : Team) (d a : Nat) (l auto : Bool) (sv : Nat),
  (∀ form off v scope, form = cairnForm d a l 2 → s.Issues t form → off = srcOf t form 0 → v = srcOf t form 1 →
    scope = (if sv = 0 then 2 else sv) → s.CairnReady t tm off scope →
    (tm.taggedAt off = true → (tm.cairn off).waiters = 0 ∧ (tm.cairn off).icnt = 0) → (auto = true → v ≠ 0) →
    exec (.crnInit d a l auto sv) s = .next (((s.cairnUsed t form).putCairn t.id.teamId off (cairnInit v auto scope)).updTeam t.id.teamId
      fun u => u.tag off true)) ∧
  (∀ form off, form = cairnForm d a l 0 → s.Issues t form → off = srcOf t form 0 → s.CairnReady t tm off (tm.cairn off).scope →
    tm.taggedAt off = true → (tm.cairn off).waiters = 0 → (tm.cairn off).icnt = 0 →
    exec (.crnFree a l) s = .next ((s.cairnUsed t form).updTeam t.id.teamId fun u =>
      Team.tag { u with scratch := memWrite u.scratch off 32 0 } off false)) ∧
  (∀ form off v, form = cairnForm d a l 2 → s.Issues t form → off = srcOf t form 0 → v = srcOf t form 1 →
    s.CairnReady t tm off (tm.cairn off).scope → tm.taggedAt off = true → (tm.cairn off).armed = false → (tm.cairn off).auto = false →
    ∀ c, c = (tm.cairn off).expecting v →
    exec (.crnExpect d a l) s = .next (((if c.completions ≠ 0 ∧ 4 ≤ c.scope then (s.cairnUsed t form).flushL1 (clusterOf (s.coreOf t.id))
      else s.cairnUsed t form).putCairn t.id.teamId off c.check).releaseCairn t.id.teamId off c.phase c.completions)) ∧
  (∀ form off v, form = { cairnForm d a l 1 with wait := ! s.releasable t } → s.Issues t form → off = srcOf t form 0 → v = srcOf t form 1 →
    s.CairnReady t tm off (tm.cairn off).scope → tm.taggedAt off = true →
    ∀ c, c = (tm.cairn off).arrived v →
    exec (.crnArrive d a l) s = .next (((if 4 ≤ (tm.cairn off).scope then (s.cairnUsed t form).flushL1 (clusterOf (s.coreOf t.id))
      else s.cairnUsed t form).putCairn t.id.teamId off c.check).releaseCairn t.id.teamId off c.phase c.completions)) ∧
  (∀ form off v, form = cairnForm d a l 1 → s.Issues t form → off = srcOf t form 0 → v = srcOf t form 1 →
    s.CairnReady t tm off (tm.cairn off).scope → tm.taggedAt off = true →
    (phaseReached (tm.cairn off).phase v = true → t.cairn = none →
      exec (.crnWait d a l) s = .next ((s.cairnUsed t form).cairnAcquire (s.coreOf t.id) (tm.cairn off).scope)) ∧
    (phaseReached (tm.cairn off).phase v = true → t.cairn = some (off, v) → t.id ∉ s.freed →
      exec (.crnWait d a l) s = .next (((s.cairnUsed t form).leaveCairn t.id).cairnAcquire (s.coreOf t.id) (tm.cairn off).scope)) ∧
    (phaseReached (tm.cairn off).phase v = false → t.cairn = none →
      exec (.crnWait d a l) s = .next (((s.putCairn t.id.teamId off (tm.cairn off).waited).updThread t.id fun u => u.atCairn off v).setWaiting
        t.id .blocked)) ∧
    (phaseReached (tm.cairn off).phase v = false ∨ t.id ∈ s.freed → t.cairn = some (off, v) →
      exec (.crnWait d a l) s = .next (s.setWaiting t.id .blocked)) ∧
    (∀ p, t.cairn = some p → p ≠ (off, v) → exec (.crnWait d a l) s = .next ((s.leaveCairn t.id).setWaiting t.id .blocked))) ∧
  (∀ form off, form = { acFormA a l with dests := [d] } → s.Issues t form → off = srcOf t form 0 →
    s.CairnReady t tm off (tm.cairn off).scope → tm.taggedAt off = true →
    exec (.crnTest d a l) s = .next (((s.cairnUsed t form).cairnAcquire (s.coreOf t.id) (tm.cairn off).scope).result (s.argsOf t form) 24 [d]
      [(tm.cairn off).phase]))

/-- R470 to R472: RDCYC reads the cycle count of the die; RNGX is ten rounds of the generator over its counter and key, RNGADD adds to the
counter modulo 2^128. -/
def Obligations.CyclesAndDrawsComplete : Prop := ∀ (s : State) (t : Thread) (d a : Nat) (l : Bool) (b : Nat) (m k : Bool),
  (∀ form : Issue, form = { dests := [d, d + 1], hints := schedOnly } → s.Issues t form →
    exec (.rdcyc d) s = .next (s.issuedResult t form 4 [d, d + 1] [s.now (s.coreOf t.id) % 2 ^ 32, s.now (s.coreOf t.id) / 2 ^ 32 % 2 ^ 32])) ∧
  (∀ form, form = drawForm d a l ⟨b, 2⟩ m → s.Issues t form →
    exec (.rngx d a l b m) s = .next (s.issuedResult t form 20 [d, d + 1, d + 2, d + 3] (rngBlock (srcOf t form 0) (srcOf t form 1)))) ∧
  (∀ form, form = drawForm d a l ⟨b, if k then 1 else 4⟩ m → s.Issues t form →
    ∀ sum, sum = (srcOf t form 0 + srcOf t form 1) % 2 ^ 128 →
    exec (.rngadd d a l b m k) s = .next (s.issuedResult t form 6 [d, d + 1, d + 2, d + 3]
      [sum % 2 ^ 32, sum / 2 ^ 32 % 2 ^ 32, sum / 2 ^ 64 % 2 ^ 32, sum / 2 ^ 96 % 2 ^ 32]))

/-- R58, R59, R60, R124, R125, R166, R257, R373, R375: MOVSR reads a special register into its registers; sr.wsref holds the bank in
refresh, and while the weight store is there what is left of its slot, from 1 to 500, in n-cycles of 7.2 to the unit of 4 ns (log entry 4); MOVRS writes sr.fpc without its
reserved bits and never with a reserved rounding code, sr.fps without its reserved bits, a kernel register whole, and leaves a read-only
register; it holds the next word for 8 cycles. Which words raise flags is a reading (log 33). -/
def Obligations.SpecialRegistersComplete : Prop := ∀ (s : State) (t : Thread) (d a : Nat) (l : Bool) (n : Nat),
  (∀ k form, n ≠ 0x11 → k = (if n = 0x28 then 2 else 1) → form = movsrForm s t d n k → s.Issues t form →
    exec (.movsr d n) s = .next (s.issuedResult t form 8 (Src.mk d k).regs (wordsOf k (s.special t (s.coreOf t.id) n)))) ∧
  (∀ form, form = movsrForm s t d 0x11 1 → s.Issues t form →
    exec (.movsr d 0x11) s = .next (s.issuedResult t form 8 [d] [t.fps.toNat])) ∧
  (∀ core, (s.hasWeights = false → s.wsref core = 0) ∧ (s.hasWeights = true →
    s.wsref core % 16 = refreshBank (nth s.refresh (dieOf core) 0) ∧ bitAt (s.wsref core) 4 = true ∧
    1 ≤ s.wsref core / 2 ^ 16 ∧ s.wsref core / 2 ^ 16 ≤ 500 ∧
    ∀ c n0, nth s.slotAt (dieOf core) (0, 0, false) = (c, n0, true) →
      s.wsref core / 2 ^ 16 = max 1 (500 - (nth s.ncycs (dieOf core) 0 - n0) * 10 / 72))) ∧
  (∀ form v, form = movrsForm s t a l n → s.Issues t form → v = srcOf t form 0 →
    (n = 0x10 → 5 ≤ v % 8 → exec (.movrs a l n) s = .next (s.raiseTrap t clsIllegal s.ir 0 0 (some (opndOf (s.argsOf t form).opnd 0)))) ∧
    (n ≠ 0x10 ∨ v % 8 < 5 →
      exec (.movrs a l n) s = .next ((s.committed t form).updThread t.id fun u => u.specialWritten n v (s.now (s.coreOf t.id))))) ∧
  (∀ v, (t.setSpecial 0x10 v).fpc = BitVec.ofNat 32 v &&& 0x3F07#32 ∧ (t.setSpecial 0x11 v).fps = BitVec.ofNat 32 v &&& 0x7F#32 ∧
    (n < 0x100 → n ≠ 0x10 → n ≠ 0x11 → t.setSpecial n v = t) ∧
    (0x100 ≤ n → n ≤ 0x105 → t.setSpecial n v = { t with kregs := t.kregs.set (n - 0x100) (BitVec.ofNat 32 v) }))

/-- R376, R377, R482, R510: ERET, under each of its actions' spellings, issues in kernel mode; at the end of the cycle its action is performed, with
the statuses and effects of the rule, and the status becomes its result. HALT in kernel mode ends a live context that is no
kernel-mode one, with status 0; its status is 1 for a context that is not live, or that a TDI binds, and 2 for a kernel-mode one. What the
actions ask for is a reading (log 30). -/
def Obligations.KernelWordsComplete : Prop :=
  (∀ (d a : Nat) (l : Bool),
    Erets (.eretResume d a l) d a l ∧ Erets (.eretSkip d a l) d a l ∧ Erets (.eretKill d a l) d a l ∧ Erets (.eretWrite d a l) d a l ∧
    Erets (.eretRqrel d a l) d a l ∧ Erets (.eretRqcan d a l) d a l ∧ Erets (.eretDone d a l) d a l) ∧
  (∀ (s : State) (o : Op) (w : Nat) (ks : List Nat), o.body = .eret w ks → ∀ r, r = s.eretAct w (.of ks) →
    s.performEret o = r.1.updOp o.id fun x => { x with body := .result, vals := [r.2] }) ∧
  (∀ (s : State) (w : Nat) (k : Target), EretActs s w k) ∧
  (∀ (s : State) (t : ThreadId) (seqs : List Nat) (how : ParkAnswer), Answers s t seqs how) ∧
  (∀ (s : State) (t : Thread) (d a : Nat) (l : Bool) (form : Issue), form = haltForm s t d a l →
    s.Issues t form → ∀ n, n = srcOf t form 0 % 256 →
      (s.ctx? n = none → exec (.halt d a l) s = .next (s.issuedResult t form 8 [d] [1])) ∧
      (∀ c, s.ctx? n = some c →
        (c.live = false ∨ s.tdiBound c = true → exec (.halt d a l) s = .next (s.issuedResult t form 8 [d] [1])) ∧
        (c.live = true → s.tdiBound c = false → s.kernelCtx n = true → exec (.halt d a l) s = .next (s.issuedResult t form 8 [d] [2])) ∧
        (c.live = true → s.tdiBound c = false → s.kernelCtx n = false →
          ∀ s2, s2 = (s.committed t form).haltContext n →
          exec (.halt d a l) s = .next (s2.addOp { (s.argsOf t form).op s2 .result with dests := [d], vals := [0] }))))

namespace Sys2Proof
namespace Machine

-- ---------------------------------------------------------------- events

/-- A state in which every thread has changed. -/
def State.mapThreads (s : State) (f : Thread → Thread) : State := { s with threads := s.threads.map f }
/-- A state in which every team has changed. -/
def State.mapTeams (s : State) (f : Team → Team) : State := { s with teams := s.teams.map f }
/-- A thread in a bundle, or in none. -/
def Thread.inBundle (t : Thread) (b : Option (List Nat)) : Thread := { t with bundle := b }
/-- A promoted thread (R42). -/
def Thread.promote (t : Thread) : Thread := { t with promoted := true }
/-- A Ready thread whose age counts from another cycle (R42, R135). -/
def Thread.agedFrom (t : Thread) (n : Nat) : Thread := { t with readyAt := n }
/-- A state in which a die's control plane has scanned a queue last (R342). -/
def State.scannedLast (s : State) (q : Nat) : State := { s with lqLast := s.lqLast.set (q / 16) (q % 16) }
/-- A state with other cores for the compactor to work on (R134). -/
def State.withCompacting (s : State) (l : List Nat) : State := { s with compacting := l }
/-- A team with another engine order. -/
def Team.withEngine (tm : Team) (l : List EngineEntry) : Team := { tm with engine := l }
/-- A team with other marks. -/
def Team.withPoison (tm : Team) (l : List Nat) : Team := { tm with poison := l }
/-- A sector with a mark. -/
def L1Sector.marked (x : L1Sector) : L1Sector := { x with poison := true }
/-- A state with marks at home. -/
def State.withHomePoison (s : State) (l : List Nat) : State := { s with homePoison := l }
/-- A state with marks in the weight store. -/
def State.withWeightPoison (s : State) (l : List Nat) : State := { s with weightPoison := l }
/-- A state whose dies have rotated their weight stores (R256). -/
def State.withNcycs (s : State) (l : List Nat) : State := { s with ncycs := l }
/-- A copy request that holds its bytes. -/
def CopyReq.got (r : CopyReq) (v marks : Nat) : CopyReq := { r with data := v, marks := marks, st := .got }
/-- A copy whose requests have changed. -/
def Copy.mapReqs (c : Copy) (f : CopyReq → CopyReq) : Copy := { c with reqs := c.reqs.map f }
/-- A copy that has taken its next request from those to make. -/
def Copy.takes (c : Copy) (r : CopyReq) (rest : List Chunk) : Copy := { c with todo := rest, reqs := c.reqs ++ [r] }
/-- An island that serves a context (R446). -/
def Island.serves (x : Island) (ctx : Nat) (img : Option Img) (loaded : Nat) : Island :=
  { x with ctx := some ctx, img := img, count := 0, loaded := loaded, waiting := x.waiting.filter fun y => decide (y ≠ ctx) }
/-- A submission some of whose commits have been performed (R435). -/
def IslandJob.committed (x : IslandJob) (left : List (Nat × Nat)) (n : Nat) : IslandJob :=
  { x with commits := left, passes := x.passes + n, fault := none }
/-- A job whose next hand-off record an island has taken (R446). -/
def RidgeJob.takenAs (j : RidgeJob) (n : Option Nat) : RidgeJob := { j with taken := n }
/-- A job whose record in hand is drawn and committed (R435, R448). -/
def RidgeJob.drawn (j : RidgeJob) (passes : Nat) (rest : List HandOff) : RidgeJob :=
  { j with commits := [], passes := j.passes + passes, fault := none, handoffs := rest, dead := [], taken := none, islandGot := [] }
/-- An engine with a job, or none. -/
def Ridge.withCur (x : Ridge) (j : Option RidgeJob) : Ridge := { x with cur := j }
/-- An engine that is awake. -/
def Ridge.wake (x : Ridge) : Ridge := { x with awake := true }

/-- A thread of a partition after a boundary (R37, R38): in no bundle when it is not Ready, or a hold still keeps its next word (R116); else
in the run of 32, in rank order, of the threads of its team, role and PC that are Ready now. -/
def regrouped (now : Nat) (mine : List Thread) (t : Thread) : Thread :=
  let ready (x : Thread) : Bool := decide (x.st = .ready) && decide (max x.readyAt x.holdUntil ≤ now)
  let lower := mine.filter fun x => ready x && decide (x.id.teamId = t.id.teamId) && decide (x.role = t.role) && decide (x.pc = t.pc) &&
    decide (x.id.rank < t.id.rank)
  if mine.contains t then t.inBundle (if ready t then some [now, 0, t.role, t.pc.toNat, lower.length / 32] else none) else t

/-- The reads that wait for a missing sector of a cluster's L1 (R248). -/
def State.wanting (s : State) (cluster sector : Nat) : List (Op × Access) :=
  s.ops.filterMap fun o => if clusterOf o.core ≠ cluster then none
    else (o.access.filter fun a => s.needsFill o a && decide (a.pa.getD 0 / 64 = sector)).map fun a => (o, a)
/-- Those of the reads that put their sector into the L1: all but the .nol1 loads (R250). -/
def placing (l : List (Op × Access)) : List (Op × Access) := l.filter fun p => decide (p.2.cp ≠ 3) || p.2.kind.atomic

/-- The members of an entry leave k.mx (R226, R230, R460). -/
def State.retireAll (s : State) (l : List (ThreadId × Nat)) : State := l.foldl (fun s m => s.retireOf m.1 m.2) s

end Machine
end Sys2Proof

open Sys2Proof Sys2Proof.Machine

/-- R37, R42, R129, R224, R226, R230: BUNDLE_REFORM, THREAD_PROMOTION, RESULT_WRITE, MATRIX_START, MATRIX_RETIRE and
ACCUMULATOR_INSTRUCTION_FINISH occur when their rules let them, and leave the state their rules give. That an event is a turn of the
agenda is the model's form (log 1). -/
def Obligations.ExecutionEventsOccur : Prop := ∀ (s : State),
  (s.now (s.arg 0) % 4 = 0 → exec .bundleReform s = .next (s.mapThreads
    (regrouped (s.now (s.arg 0)) (s.partThreads (s.arg 0) (s.arg 1))))) ∧
  (∀ t, s.thread? (s.argThread 0) = some t → t.st = .ready → max t.readyAt t.holdUntil + 256 ≤ s.now (s.coreOf (s.argThread 0)) →
    ∃ s2, exec .threadPromotion s = .next s2 ∧ s2.thread? (s.argThread 0) = some t.promote) ∧
  (∀ o, s.op? (s.arg 0) = some o →
    ((o.body = .result ∨ ∃ r, o.body = .collective r) → s.isDue o = true → o.stage = .issued → exec .resultWrite s = .next (s.finishResult o)) ∧
    (∀ a, o.body = .mem a → o.stage = .ready → exec .resultWrite s = .next (s.actAccess o a)) ∧
    (∀ a, o.body = .mem a → o.stage = .bound → s.isDue o = true → exec .resultWrite s = .next (s.writeBackResult o)) ∧
    (∀ sc, o.body = .fence sc → exec .resultWrite s = .next (s.performFence o sc)) ∧
    (o.body = .release → exec .resultWrite s = .next (s.performRelease o))) ∧
  (∀ tm, s.team? (s.argTeam 0) = some tm →
    (∀ e, (tm.engine.find? fun e => decide (e.kind = 0) && ! e.started) = some e → exec .matrixStart s = .next (s.startMatrix tm e)) ∧
    (∀ e, (tm.engine.find? fun e => decide (e.kind = 0) && e.started) = some e → e.due ≤ s.now tm.core →
      exec .matrixRetire s = .next ((s.retireAll e.members).updTeam (s.argTeam 0) fun u =>
        u.withEngine (u.engine.filter fun y => decide (y.id ≠ e.id)))) ∧
    (∀ e, (tm.engine.find? fun e => decide (e.id = s.arg 3) && decide (e.kind ≠ 0)) = some e → e.due ≤ s.now tm.core →
      (e.kind ≠ 3 → exec .accumulatorInstructionFinish s = .next ((s.retireAll e.members).updTeam (s.argTeam 0) fun u =>
        u.withEngine (u.engine.filter fun y => decide (y.id ≠ e.id)))) ∧
      (e.kind = 3 → s.entryHeld e = false →
        exec .accumulatorInstructionFinish s = .next ((((s.storeImage tm e).clearImageMarks tm e).retireAll e.members).updTeam (s.argTeam 0)
          fun u => u.withEngine (u.engine.filter fun y => decide (y.id ≠ e.id))))))

/-- R248, R255, R256, R260, R265, R279, R290, R309, R315, R331, R413: STORE_PERFORMED, L1_FILL, TABLE_WALK, HOST_ACCESS,
UNCORRECTABLE_ERROR, COPY_SECTOR_REQUEST, COPY_DELIVERY, QUEUE_SLOT_ARRIVAL, REFRESH_SLOT and WEIGHT_BANK_TURN. That an event is a turn,
and the victims it names, are the model's form (log 1, log 22); the phase of a refresh is free (log 4). -/
def Obligations.MemoryEventsOccur : Prop := ∀ (s : State),
  (∀ o a, s.op? (s.arg 0) = some o → o.body = .mem a → a.kind.stores = true →
    (o.stage = .ready → exec .storePerformed s = .next (s.leavePath o a)) ∧
    (o.stage = .core → exec .storePerformed s = .next (s.reachL1 o a (s.arg 1)))) ∧
  (∀ s1 wants, s1 = s.takeMisses (s.arg 0) → wants = s1.wanting (s.arg 0) (s.arg 1) →
    ((s.arg 0, s.arg 1) ∉ s1.misses → exec .l1Fill s = .next s1) ∧
    ((s.arg 0, s.arg 1) ∈ s1.misses →
      (wants = [] → exec .l1Fill s = .next (s1.freeMiss (s.arg 0) (s.arg 1))) ∧
      (∀ o a rest s2 ok, placing wants = (o, a) :: rest →
        s1.journalReads (wants.map fun p => p.1.thr.gridId).dedup (s.arg 1 * 64) = (s2, ok) → ∀ cp, cp = (if a.kind.atomic then 0 else a.cp) →
        exec .l1Fill s = .next (if ok
          then ((s2.touchFor o.thr (s.arg 1 * 64) cp).l1Fill (s.arg 0) (s.arg 1) cp (s.arg 2)).freeMiss (s.arg 0) (s.arg 1)
          else s2)) ∧
      (∀ s2, wants ≠ [] → placing wants = [] → s2 = wants.foldl (fun s p => s.bindNol1 p.1 p.2) s1 →
        ((∀ p ∈ wants, ∀ x, s2.op? p.1.id = some x → x.stage ≠ .ready) →
          exec .l1Fill s = .next (s2.freeMiss (s.arg 0) (s.arg 1))) ∧
        (∀ p ∈ wants, ∀ x, s2.op? p.1.id = some x → x.stage = .ready → exec .l1Fill s = .next s2)))) ∧
  (∀ o, s.op? (s.arg 0) = some o → exec .tableWalk s = .next (s.walkOp (s.arg 0))) ∧
  (s.arg 2 ≤ 64 → s.arg 1 / 64 = (s.arg 1 + s.arg 2 - 1) / 64 → s.memExists (s.arg 1) = true →
    (s.arg 0 = 0 → exec .hostAccess s = .next (s.touchSpan (s.arg 1) (s.arg 2) 0)) ∧
    (s.arg 0 ≠ 0 → exec .hostAccess s = .next (s.homeWriteBy 0 (s.arg 1) (s.arg 2) (s.arg 3 % 256 ^ s.arg 2)))) ∧
  (s.arg 0 = 0 → exec .uncorrectableError s = .next (s.withHomePoison (setAdd s.homePoison (s.arg 2)))) ∧
  (s.arg 0 = 1 → exec .uncorrectableError s = .next (s.mapL1 (fun x => decide (x.cluster = s.arg 1) && decide (x.sector = s.arg 2))
    L1Sector.marked)) ∧
  (∀ tm, s.arg 0 = 2 → s.team? (s.argTeam 3) = some tm → s.arg 2 < tm.scr * 128 → ∃ s2, exec .uncorrectableError s = .next s2 ∧
    s2.team? (s.argTeam 3) = some (tm.withPoison (setAdd tm.poison (s.arg 2)))) ∧
  (s.arg 0 = 3 → s.arg 2 < 2 ^ 25 → exec .uncorrectableError s = .next (s.withWeightPoison (setAdd s.weightPoison (s.arg 2)))) ∧
  (∀ c, s.copy? (s.arg 0) = some c → c.started = false → exec .copySectorRequest s = .next (s.startCopy c)) ∧
  (∀ c, s.copy? (s.arg 0) = some c → s.olderComplete c.thr c.pos = true → s.copyStuck c = false →
    (c.started = true → (c.reqs.find? fun r => decide (r.st = .walk)) = none → c.todo = [] →
      exec .copySectorRequest s = .next (s.postCopyFaults (s.arg 0))) ∧
    (∀ r, c.started = true → (c.reqs.find? fun r => decide (r.st = .walk)) = some r → exec .copySectorRequest s = .next (s.makeRequest c r)) ∧
    (∀ x rest, c.started = true → (c.reqs.find? fun r => decide (r.st = .walk)) = none → c.todo = x :: rest →
      (c.kind = 1 → c.posOf x / 4096 = c.piece) → ∀ r s2, r = CopyReq.mk s.nextId x 0 0 0 0 .walk →
      s2 = s.withNextId.updCopy (s.arg 0) (fun y => y.takes r rest) →
      exec .copySectorRequest s = .next (s2.makeRequest (c.takes r rest) r))) ∧
  (∀ c r, s.copy? (s.arg 0) = some c → (c.reqs.find? fun r => decide (r.id = s.arg 1)) = some r →
    (∀ s2 v m, r.st = .ready → s.copyRead c r = (s2, some (v, m)) →
      exec .copyDelivery s = .next (s2.updCopy (s.arg 0) fun y => y.mapReqs fun z => if z.id = s.arg 1 then z.got v m else z)) ∧
    (∀ s2, r.st = .ready → s.copyRead c r = (s2, none) → exec .copyDelivery s = .next s2) ∧
    (r.st = .got → c.kind ≠ 1 → s.copyStuck c = false → (∀ r ∈ c.recvs, s.cairnOpen c r.team = true) → c.dstS = .w → s.wordFull c (c.dstAddr r.chunk / 64) = true →
      exec .copyDelivery s = .next (s.deliverWord c (c.dstAddr r.chunk / 64))) ∧
    (∀ s2, r.st = .got → c.kind ≠ 1 → s.copyStuck c = false → (∀ r ∈ c.recvs, s.cairnOpen c r.team = true) → c.dstS ≠ .w →
      (c.dstS = .g → c.gscope.wide = true → s.pathBusy c.op (c.dstAddr r.chunk) r.dstPa = false) →
      (c.dstS = .g → c.gscope.wide = false → s.coreOverlap c.core r.dstPa r.chunk.n = false) → s.sumRead c r = (s2, true) →
      exec .copyDelivery s = .next (s2.deliverReq c r))) ∧
  (∀ o, s.op? (s.arg 3) = some o → exec .queueSlotArrival s = .next (s.pushArrives o)) ∧
  (∀ tm r q, s.op? (s.arg 3) = none → s.team? (s.argTeam 0) = some tm → tm.sliceReq (s.arg 3) = some (r, q) → q.st = .ready →
    exec .queueSlotArrival s = .next (s.sliceBind tm r q)) ∧
  (∀ x, x = nth s.slotAt (s.arg 0) (0, 0, false) →
    (nth s.ncycs (s.arg 0) 0 < x.2.1 + s.slotTicks (s.arg 0) → exec .refreshSlot s = .next s) ∧
    (x.2.2 = true → s.slotTicks (s.arg 0) = 3600) ∧ s.slotTicks (s.arg 0) ≤ 3600 ∧
    (x.2.1 + s.slotTicks (s.arg 0) ≤ nth s.ncycs (s.arg 0) 0 → s.arg 0 < s.refresh.length → s.arg 0 < s.slotAt.length →
      ∃ s2, exec .refreshSlot s = .next s2 ∧ s2.home = s.home ∧ s2.weights = s.weights ∧
        nth s2.refresh (s.arg 0) 0 = nth s.refresh (s.arg 0) 0 + 1 ∧
        nth s2.slotAt (s.arg 0) (0, 0, false) = (s.cycleOf (s.arg 0), nth s.ncycs (s.arg 0) 0, true))) ∧
  (∀ n core s2, n = nth s.ncycs (s.arg 0) 0 → core = 64 * s.arg 0 + n % 64 →
    s2 = (s.ops.foldl (fun s o => s.turnLoad core o) s).turnSlices core →
    exec .weightBankTurn s = .next (s2.withNcycs (s2.ncycs.set (s.arg 0) (n + 1))))

/-- R323, R335, R423, R424, R428, R435, R437, R446, R447, R448, R449: the islands' boundaries, acceptances and results, and the Ridgeline
engines' wakes, jobs, hand-offs and ends. That an event is a turn, and how many tasks of a job one turn performs, is the model's form (log
1); some corners of the islands and engines are readings (log 13, log 27), and that an idle engine resumes a job before it takes one is the
model's choice (log 45). -/
def Obligations.EngineEventsOccur : Prop := ∀ (s : State),
  (∀ x c, x = s.island (s.arg 0) (s.arg 1) → s.islandBusy (s.arg 0) (s.arg 1) = false → x.successor = some c →
    (∀ own, x.ctx = some own → own ∈ x.waiting → x.img = s.boundImage own (s.arg 0) → 4096 ≤ x.count ∧ ∃ y ∈ x.waiting, y ≠ own) →
    exec .islandContextBoundary s = .next (s.setIsland (x.serves c (s.boundImage c (s.arg 0))
      (s.cycleOf (islandDie (s.arg 0) (s.arg 1)) + 256)))) ∧
  (∀ j, (s.jobs.find? fun x => decide (x.id = s.arg 0)) = some j →
    (j.buffered = false → exec .islandAccept s = .next (s.resubmit j)) ∧
    (j.buffered = true → j.result = none → j.fault = none → (∀ o, s.op? j.id = some o → s.olderComplete o.thr o.pos = true) →
      (s.jobsBefore j).all IslandJob.accepted = true → exec .islandAccept s = .next (s.runJob j)) ∧
    (j.buffered = true → j.result = none → j.fault ≠ none → j.parked = none → exec .islandAccept s = .next (s.runJob j)) ∧
    (∀ bytes n mark, j.result = some (bytes, n, mark) → j.parked = none →
      (∀ r, j.commits ≠ [] → r = s.commitAll j.thr.gridId (dieOf j.core) (some j.core) (! j.queries.isEmpty) j.commits →
        r.2.2.2 = none → exec .islandResult s = .next (r.1.updJob j.id fun x => x.committed r.2.1 r.2.2.1)) ∧
      (j.commits = [] → (j.cls = 0 → j.op = 2 → s.uncommitted j = false) →
        (j.trace = true → exec .islandResult s = .next (s.finishTrace j bytes)) ∧
        (j.trace = false → j.offered = false → j.cls = 0 → exec .islandResult s = .next ((s.dropOver j n).offerSlots j bytes)) ∧
        (j.trace = false → j.offered = false → j.cls ≠ 0 → exec .islandResult s = .next
          (((s.fillSlots j bytes mark (List.range j.slots.length)).dropOver j n).completeJob j))))) ∧
  (∀ j h rest x, (s.ridge (s.arg 0)).cur = some j → j.computed = true → j.ending = false → j.writes = [] → j.handoffs = h :: rest →
    x = s.island 0 (4 * s.arg 0 + h.isl) →
    (j.commits = [] → j.taken = none → x.takes j.ctx (s.boundImage j.ctx 0) (s.cycleOf (s.arg 0)) = false →
      exec .rasterHandoffRecord s = .next (s.waitIsland x j.ctx)) ∧
    (j.commits = [] → j.taken = none → x.takes j.ctx (s.boundImage j.ctx 0) (s.cycleOf (s.arg 0)) = true →
      exec .rasterHandoffRecord s = .next ((s.takeHandoff (s.arg 0) j.ctx x h).withNextId.drawRecord (s.arg 0) (j.takenAs (some s.nextId)) h
        rest)) ∧
    (∀ n, j.commits = [] → j.taken = some n → exec .rasterHandoffRecord s = .next (s.drawRecord (s.arg 0) j h rest)) ∧
    (∀ s2 passes, j.commits ≠ [] → s.commitAll ⟨j.ctx, 2 ^ 32⟩ (s.arg 0) none (! j.queries.isEmpty) j.commits = (s2, [], passes, none) →
      exec .rasterHandoffRecord s = .next (s2.putJob (s.arg 0) (j.drawn passes rest)))) ∧
  exec .ridgelineEngineWake s = .next (s.updRidge (s.arg 0) Ridge.wake) ∧
  (∀ tasks, tasks = (if s.arg 1 = 0 then ridgeTasks else s.arg 1) →
    (∀ j, (s.ridge (s.arg 0)).cur = some j →
      (j.computed = false → exec .ridgelineJobAccept s = .next (s.computeJob (s.arg 0) tasks j)) ∧
      (j.computed = true → j.ending = false →
        exec .ridgelineJobAccept s = .next (s.ridgeWrites (s.arg 0) (j.writes.length + 1) j))) ∧
    ((s.ridge (s.arg 0)).cur = none →
      (∀ j, ((s.ridge (s.arg 0)).suspended.find? fun j => j.parked.isNone) = some j →
        exec .ridgelineJobAccept s = .next (s.resumeJob (s.arg 0) j)) ∧
      (((s.ridge (s.arg 0)).suspended.find? fun j => j.parked.isNone) = none →
        ((s.ridge (s.arg 0)).awake = true → exec .ridgelineJobAccept s = .next (s.takeJob (s.arg 0) tasks (s.ridgeOrder (s.arg 0)))) ∧
        (∀ open_, (s.ridge (s.arg 0)).awake = false → open_ = (s.ridgeOrder (s.arg 0)).filter (s.ringPosted (s.arg 0)) → open_ ≠ [] →
          exec .ridgelineJobAccept s = .next (s.takeJob (s.arg 0) tasks open_))))) ∧
  (∀ j, (s.ridge (s.arg 0)).cur = some j → j.computed = true →
    (j.ending = false → j.writes = [] → j.handoffs = [] → exec .ridgelineJobEnd s = .next (s.beginEnd (s.arg 0) j)) ∧
    (j.ending = true → j.writes ≠ [] → exec .ridgelineJobEnd s = .next (s.ridgeWrites (s.arg 0) (j.writes.length + 1) j)) ∧
    (j.ending = true → j.writes = [] → exec .ridgelineJobEnd s = .next (s.updRidge (s.arg 0) fun x => (x.withCur none).wake)))

/-- R44, R48, R134, R135, R339, R340, R342, R344, R346, R351, R354, R359: the events of launch queues, records, placement, the compactor,
reorder batches, service replies and grids. That an event is a turn is the model's form (log 1); that marks on records and dependence
words fault is a reading (log 28). -/
def Obligations.SchedulingEventsOccur : Prop := ∀ (s : State),
  (s.queueLocked (s.arg 0 % 32) = true → exec .launchQueueWake s = .next s) ∧
  (s.queueLocked (s.arg 0 % 32) = false → exec .launchQueueWake s = .next (s.wakeLq (s.arg 0 % 32))) ∧
  (∀ lvl last ahead, lvl = (fun p => bits (s.lq p).lqc.toNat 4 2) → last = nth s.lqLast (s.arg 0 / 16) 15 →
    ahead = (fun p => (p % 16 + 15 - last) % 16) → s.arg 0 < 32 → s.wantsScan (s.arg 0) = true →
    (∀ p < 32, p / 16 = s.arg 0 / 16 → s.wantsScan p = true →
      lvl p < lvl (s.arg 0) ∨ (lvl p = lvl (s.arg 0) ∧ ahead (s.arg 0) ≤ ahead p)) →
    exec .launchQueueScan s = .next (((s.scannedLast (s.arg 0)).updLq (s.arg 0) fun x => { x with pw := false, full := false }).scan
      (s.arg 0) 4096)) ∧
  (∀ g t pos core, s.grid? ⟨s.arg 0, s.arg 1⟩ = some g → g.elig = false → g.src = some (t, pos, core) → s.olderComplete t pos = true →
    s.observedDone t = true → exec .launchReleaseComplete s = .next
      (((s.flushL1 (clusterOf core)).updGrid g.id fun y => { y with src := none }).makeEligible g.id)) ∧
  (∀ g, s.grid? ⟨s.arg 0, s.arg 1⟩ = some g → g.elig = true → g.ready = false → g.launch.dkind = 0 →
    exec .launchDependenceTest s = .next (s.updGrid g.id fun y => { y with ready := true })) ∧
  (∀ g va, s.grid? ⟨s.arg 0, s.arg 1⟩ = some g → g.elig = true → g.ready = false → g.launch.dkind ≠ 0 →
    va = g.launch.depa + (if g.launch.dkind = 1 then 0x10 else 0) →
    (∀ w, s.read1k g.die (s.arg 0) va 4 = .ok w false →
      exec .launchDependenceTest s = .next (s.updGrid g.id fun y => { y with ready := depMet y.launch.dkind y.launch.depv w })) ∧
    (∀ w, s.read1k g.die (s.arg 0) va 4 = .ok w true →
      exec .launchDependenceTest s = .next (s.postRecord g.die (s.deviceRecord (s.arg 0) clsDepend 0 va (s.arg 1)))) ∧
    (∀ cls a, s.read1k g.die (s.arg 0) va 4 = .fault cls a →
      exec .launchDependenceTest s = .next (s.postRecord g.die (s.deviceRecord (s.arg 0) clsDepend 0 a (s.arg 1))))) ∧
  (∀ s0, s0 = s.reapTeams → exec .teamPlace s = .next ((s0.withCompacting []).placePass
    (s0.placeOrder.flatMap fun g => (s0.nextTeams g).map fun n => (g, n))).drainAll.settleRestores) ∧
  (∀ tm now, s.team? (s.argTeam 0) = some tm → now = s.now tm.core → s.mayCompact tm = true → s.arg 3 ≤ 512 →
    ∀ s1, s1 = (s.updTeam (s.argTeam 0) fun u => { u with pausedUntil := now + s.arg 3, lastMove := some now }).mapThreads (fun t =>
        if t.id.teamId = s.argTeam 0 ∧ t.st = .ready then t.agedFrom (min now (max t.readyAt t.holdUntil) + s.arg 3) else t) →
    exec .compactorMove s = .next (s1.moveTeam (s.argBool 4) tm)) ∧
  ((2048 ≤ (s.reorder.filter fun d => d.inGroup (s.arg 0) (s.argGrid 1) (BitVec.ofNat 52 (s.arg 3)) (s.arg 4)).length
      ∨ s.stillRunning (s.arg 0) (s.argGrid 1) = false) →
    exec .reorderBatchForm s = .next (s.formBatch (s.arg 0) (s.argGrid 1) (BitVec.ofNat 52 (s.arg 3)) (s.arg 4))) ∧
  (∀ b w m, (s.svc.find? fun b => decide (b.die = s.arg 0) && decide (b.j = s.arg 1)) = some b → s.read1k b.die b.ctx b.va 8 = .ok w m →
    w % 2 = 1 → (∀ x ∈ b.members, ∀ c, s.ctx? x.thr.ctx = some c → c.live = true → c.pstat ∉ [3, 4, 7, 8]) →
    ∃ s2, exec .serviceReply s = .next s2 ∧ (∀ x ∈ s2.svc, ¬ (x.die = s.arg 0 ∧ x.j = s.arg 1))) ∧
  (∀ s1 g, s1 = s.reapTeams.retryDone → s1.grid? ⟨s.arg 0, s.arg 1⟩ = some g → s1.gridOver g = true →
    exec .gridComplete s = .next (s1.endGrid g))

namespace Sys2Proof
namespace Machine

-- ---------------------------------------------------------------- contexts and registers

/-- A state with another value of SCUNP. -/
def State.withScunp (s : State) (v : BitVec 32) : State := { s with scunp := v }
/-- A state with the selection of its trim counters as given. -/
def State.withTcsel (s : State) (v : BitVec 32) : State := { s with tcsel := v }
/-- A line of a slice without its pin. -/
def SliceLine.unpin (x : SliceLine) : SliceLine := { x with pinned := false }
/-- A state at a stage of its bring-up. -/
def State.withBoot (s : State) (v : BitVec 32) : State := { s with boot := v }
/-- A grid's team that has started its deadline for a requested context (R379). -/
def State.deadlines (s : State) (ctx : Nat) (t : Team) : Team :=
  let dl : Nat := match s.launchOf ⟨t.id.ctx, t.id.grid⟩ with
    | some r => r.dl
    | none => 0
  if s.preemptable ctx t ∧ t.frozen.isNone then { t with deadline := some (s.now t.core + dl * 256) } else t
/-- A context that is requested to be saved (R378). -/
def Ctx.requested (c : Ctx) : Ctx := { c with preq := true, pstat := 1 }
/-- A thawed team of a context (R381). -/
def Team.thaw (ctx : Nat) (t : Team) : Team := if t.id.ctx = ctx then { t with frozen := none, deadline := none } else t
/-- The context a CONTEXT_CREATE makes of a page (R479). -/
def createdCtx (n cxc : Nat) (cxpm : List Word) : Ctx :=
  { emptyCtx n with wayGroup := bits cxc 8 3, own := bits cxc 16 6, tee := bitAt cxc 22, cxpm := cxpm }
/-- A live context. -/
def Ctx.alive (c : Ctx) : Ctx := { c with live := true }
/-- A destroyed context whose page is busy (R479). -/
def Ctx.destroyed (c : Ctx) : Ctx := { c with live := false, busy := true, bound := none }
/-- A context whose invalidation is over (R415). -/
def Ctx.invalidated (c : Ctx) : Ctx := { c with invBusy := false, invc := 0 }

-- ---------------------------------------------------------------- packets and chains

/-- The part of the state the network is not: everything but its packets, what waits to be sent, its transactions and streams, its links, its
rotations and its counters of trimmed packets. -/
def State.SameButNetwork (s s2 : State) : Prop :=
  s2 = { s with packets := s2.packets, outbox := s2.outbox, retained := s2.retained, rereqs := s2.rereqs, sources := s2.sources,
                streams := s2.streams, wires := s2.wires, linkReplays := s2.linkReplays, trims := s2.trims, routers := s2.routers,
                nextId := s2.nextId }

/-- A state with other packets waiting in the interfaces. -/
def State.withOutbox (s : State) (l : List Outgoing) : State := { s with outbox := l }
/-- A state with other entries of re-requests. -/
def State.withRereqs (s : State) (l : List ReReq) : State := { s with rereqs := l }
/-- A state with other retained payloads. -/
def State.withRetained (s : State) (l : List Retained) : State := { s with retained := l }
/-- An entry whose re-request has been sent (R393). -/
def ReReq.asked (r : ReReq) : ReReq := { r with sent := true }
/-- A copy whose reservation walk has begun from the cores of its receivers (R397). -/
def Copy.walks (c : Copy) (l : List Receiver) : Copy := { c with recvs := l, walk := true }
/-- A copy whose reservation waits in the chain wait slot of a core (R397). -/
def Copy.waitsAt (c : Copy) (core : Nat) : Copy := { c with slotAt := some core }
/-- A copy that has one more grant (R397). -/
def Copy.grantOf (c : Copy) (k : Nat) : Copy := { c with grants := setAdd c.grants k }
/-- A packet whose flit f stands before link i of its way. -/
def Packet.flitAt (p : Packet) (f i : Nat) : Packet := { p with flits := p.flits.set f i }
/-- A link that has moved a flit in an n-cycle (R391). -/
def Wire.movedFlit (w : Wire) (now : Nat) : Wire := { w with flit := some now }
/-- The headers that the link module of a place has sent last (R400). -/
def State.replayed (s : State) (l : NetPlace) : List Dword :=
  ((s.linkReplays.find? fun x => decide (x.die = l.die) && decide (x.site = l.site)).map (·.headers)).getD []

end Machine
end Sys2Proof

open Sys2Proof Sys2Proof.Machine

/-- R366, R372, R378 to R381, R385, R445, R479: handler entries, held records, pre-emption, save, restore, and the creation and
destruction of contexts. That an event is a turn is the model's form (log 1); some bytes of an image, and that a frozen team opens its
entry, are readings (log 16, log 34, log 35). -/
def Obligations.ContextEventsOccur : Prop := ∀ (s : State),
  (∀ tm, s.team? (s.argTeam 0) = some tm → tm.entry = .closed → (∃ r ∈ s.recs, r.ctx = (s.argTeam 0).ctx ∧ r.grid = (s.argTeam 0).grid
      ∧ r.team = (s.argTeam 0).team) → (s.teamAll (s.argTeam 0) TState.isParked = true ∨ tm.lastIssue + 256 ≤ s.now tm.core) →
    exec .handlerEntryOpen s = .next ((s.updTeam (s.argTeam 0) fun u => { u with entry := .opened, posted := 0 }).postRecord (dieOf tm.core)
      { s.deviceRecord (s.argTeam 0).ctx 0 tm.posted 0 (s.argTeam 0).grid with ent := true, team := (s.argTeam 0).team })) ∧
  exec .heldRecordPost s = .next (s.postHeld (s.arg 0)).admitAll ∧
  (∀ c, s.ctx? (s.arg 0) = some c → c.live = true → (c.pstat = 0 ∨ c.pstat = 5 ∨ c.pstat = 6) →
    exec .preemptRequest s = .next (((s.mapTeams (s.deadlines (s.arg 0))).updCtx (s.arg 0) Ctx.requested).startSaving (s.arg 0))) ∧
  (∀ tm, s.team? (s.argTeam 0) = some tm → s.requested tm = true → tm.frozen = none →
    (s.still (s.argTeam 0) = true → exec .teamFreeze s = .next (s.freeze (s.argTeam 0) false)) ∧
    (∀ d, tm.deadline = some d → d ≤ s.now tm.core → exec .preemptDeadline s = .next (s.freeze (s.argTeam 0) true))) ∧
  (∀ c, s.ctx? (s.arg 0) = some c → c.preq = true → (c.pstat = 1 ∨ c.pstat = 2) → ∀ s0, s0 = s.reapTeams.endGrids (s.arg 0) →
    (s0.savedGrids (s.arg 0) = [] → exec .contextSaveComplete s = .next (s0.leaveSave (s.arg 0) 5 0)) ∧
    (s0.savedGrids (s.arg 0) ≠ [] → s0.drained (s.arg 0) = false → exec .contextSaveComplete s = .next (s0.startSaving (s.arg 0))) ∧
    (s0.savedGrids (s.arg 0) ≠ [] → s0.drained (s.arg 0) = true → ∀ s1 st img, s1 = s0.readyToSave (s.arg 0) →
      st = (if s1.teams.any fun t => s1.preemptable (s.arg 0) t && t.frozen = some true then 4 else 3) →
      img = s1.image (s1.page (s.arg 0)) st →
      (c.csas.toNat * 4096 < img.length →
        exec .contextSaveComplete s = .next ((s0.drainOut (s.arg 0)).leaveSave (s.arg 0) 6 (ceilDiv img.length 4096))) ∧
      (img.length ≤ c.csas.toNat * 4096 → exec .contextSaveComplete s = .next (s1.saveOut (s.arg 0) c.csab.toNat st img)))) ∧
  (∀ c, s.ctx? (s.arg 0) = some c → c.live = true → (c.pstat = 3 ∨ c.pstat = 4 ∨ c.pstat = 8) →
    (s.partitionCores c.cxpm = [] → exec .restoreGo s = .next (s.restoreFails (s.arg 0) 0)) ∧
    (s.partitionCores c.cxpm ≠ [] → ∀ parse, parse = ((Src8.mk s.home c.csab.toNat (memRead s.home (c.csab.toNat + 8) 8)).image (s.arg 0)
        ((s.grids.filter fun g => decide (g.id.ctx = s.arg 0) && ! g.saved).map fun g => g.id.grid)).run 0 →
      (∀ off, parse = .error off → exec .restoreGo s = .next (s.restoreFails (s.arg 0) off)) ∧
      (∀ img n, parse = .ok (img, n) →
        (∀ g ∈ img.grids, (∀ t ∈ g.teams, t.flaw g.launch = none) ∧ g.misplaced (clustersOf (s.partitionCores c.cxpm)) = none) →
        exec .restoreGo s = .next (s.restoreFrom (s.arg 0) img)))) ∧
  (∀ c, s.ctx? (s.arg 0) = some c → c.pstat = 6 → ∀ s1, s1 = (s.mapTeams (Team.thaw (s.arg 0))).updCtx (s.arg 0) (fun x => { x with pstat := 0 }) →
    exec .goResumeFrozen s = .next ((s1.threads.filter fun x => decide (x.id.ctx = s.arg 0) && decide (x.st = .parked .yielding)).foldl
      (fun s x => s.wakeThread x.id) s1)) ∧
  (∀ n c, n = s.arg 0 % 256 → c = s.page n → c.live = false → c.busy = false → s.arg 1 % 2 = 1 → s.tdiBound c = false →
    s.partitionCores c.cxpm ≠ [] → exec .contextCreate s = .next (((s.updPage n fun _ => createdCtx n (s.arg 1) c.cxpm).updCtx n
      Ctx.alive).becomeResident n)) ∧
  (∀ c, s.ctx? (s.arg 0) = some c → c.live = true → c.busy = false → s.tdiBound c = false →
    exec .contextDestroy s = .next (((((s.killContext (s.arg 0)).drainAll.writeBack fun _ => true).sweep (s.arg 0) 0 allGranules).updCtx
      (s.arg 0) Ctx.destroyed).releaseImages)) ∧
  (∀ c, s.ctx? (s.arg 0) = some c → c.busy = true → c.live = false →
    exec .contextDestroyDone s = .next (s.updCtx (s.arg 0) fun _ => emptyCtx (s.arg 0)))

/-- R10, R365, R366, R414, R415, R443, R476, R480, R486: the invalidations, SCUNP, the posts of images, the keys, and the registers. That
an event is a turn is the model's form (log 1); when an invalidation completes is a reading (log 34), and a ring size beyond 12 is ignored
by choice (log 31). -/
def Obligations.RegisterEventsOccur : Prop := ∀ (s : State),
  exec .invalidatePage s = .next (s.startInvalidation (s.arg 0 % 256) (s.argBool 1) (bits (s.page (s.arg 0 % 256)).inva.toNat 12 40) 1) ∧
  exec .invalidateRange s = .next (s.startInvalidation (s.arg 0 % 256) (s.argBool 2) (bits (s.page (s.arg 0 % 256)).inva.toNat 12 40)
    (s.arg 1 % 2 ^ 20 + 1)) ∧
  exec .invalidateContext s = .next (s.startInvalidation (s.arg 0 % 256) (s.argBool 1) 0 allGranules) ∧
  (∀ c, s.ctx? (s.arg 0) = some c → c.invBusy = true → s.usesOld c = false →
    exec .invalidationComplete s = .next ((if bitAt c.invc.toNat 2 then s.sweepL1 else s).updCtx (s.arg 0) Ctx.invalidated)) ∧
  (bitAt s.scunp.toNat 31 = false → exec .scunp s = .next (s.withScunp (BitVec.ofNat 32 (s.arg 0 % 8 + 2 ^ 31)))) ∧
  (bitAt s.scunp.toNat 31 = true → exec .scunpDone s = .next
    { s with slices := s.slices.map (fun x => if bitAt (s.effWays (s.scunp.toNat % 8)) x.way = true then x.unpin else x),
             scunp := BitVec.ofNat 32 (s.scunp.toNat % 8) }) ∧
  (s.stage ≠ 0 → s.imgs ≠ 1 → exec .imagePost s = .next { s with imgc := put32 (s.arg 0) 0x3F, imgs := 1 }) ∧
  (s.imgs = 1 → exec .imagePostDone s = .next { s.verifyPost.1 with imgs := s.verifyPost.2 }) ∧
  (s.stage ≠ 0 → exec .keyInstall s = .next { (s.installKey (s.arg 0 % 16)).1 with
    keyc := BitVec.ofNat 32 (s.arg 0 % 16 + 32 * (s.installKey (s.arg 0 % 16)).2) }) ∧
  (∃ s2, exec .trimCounterClear s = .next s2 ∧ s2.tcsel.toNat = s.arg 0 % 2 ^ 10 ∧
    (∀ x : TrimCount, ¬ (x.die = bits (s.arg 0) 0 1 ∧ x.site = bits (s.arg 0) 1 6 ∧ x.port = bits (s.arg 0) 7 3) → (x ∈ s2.trims ↔ x ∈ s.trims)) ∧
    s2.readReg 0 0x608 = (s.withTcsel s2.tcsel).readReg 0 0x608 ∧ s2.readReg 0 0x60C = (s.withTcsel s2.tcsel).readReg 0 0x60C ∧
    (s.stage ≠ 0 → ∀ l : List Nat, nth l (bits (s.arg 0) 0 1) 0 ≠ nth s.ncycs (bits (s.arg 0) 0 1) 0 →
      (s2.withNcycs l).readReg 0 0x608 = some 0 ∧ (s2.withNcycs l).readReg 0 0x60C = some 0)) ∧
  (∀ c, c = s.page (s.arg 0 % 256) → (c.ringSz = 0 ∨ memRead s.home c.ringBase 8 = memRead s.home (c.ringBase + 64) 8) → s.arg 1 % 16 ≤ 12 →
    ∀ s1, s1 = s.updPage (s.arg 0 % 256) (fun x => { x with fqc := BitVec.ofNat 32 (s.arg 1 % 16) }) →
    exec .fqcWrite s = .next (s1.postAllHeld (s.arg 0 % 256) s1.held.length).admitAll) ∧
  (s.arg 2 = 4 → exec .registerWrite s = .next (s.writeReg (s.arg 0) (s.arg 1) (s.arg 3 % 2 ^ 32))) ∧
  (s.arg 2 = 8 → s.arg 1 % 8 = 0 → exec .registerWrite s = .next ((s.writeReg (s.arg 0) (s.arg 1) (s.arg 3 % 2 ^ 32)).writeReg (s.arg 0)
    (s.arg 1 + 4) (s.arg 3 / 2 ^ 32 % 2 ^ 32))) ∧
  (∀ i < 4, s.readReg 0 (0x40 + 4 * i) = some (nth s.caps i 0).toNat ∧ ∀ v, (s.writeReg 0 (0x40 + 4 * i) v).caps = s.caps) ∧
  (s.readReg 0 0 = some s.boot.toNat) ∧
  (∀ vf n o, 1 ≤ vf → n ∈ (s.tdi vf).gone → (s.page n).own ≠ vf → vf < 64 → n < 256 → o < 4096 →
    s.readReg vf (4096 * n + o) = none)

/-- R386 to R400: packets are sent, hop and arrive flit by flit, are trimmed and asked for again, are sent again from what their sources
retain, and free it when they are delivered; a die-to-die link that finds an error sends a header again or trims. The chain of a TCAST
reserves, grants, sends and ends piece by piece, by packets. Which packets there are beside those of chains and raster islands, and some
corners of the links, are the model's choices (log 15). -/
def Obligations.NetworkEventsOccur : Prop := ∀ (s : State),
  (∀ h p l payload owner, s.arg 0 = 0 → h = BitVec.ofNat 64 (s.arg 1) → payload = (List.range (hdrNf h)).map (fun i => BitVec.ofNat 512 (s.arg (6 + i))) →
    owner = ownerOf (s.arg 3) (s.arg 4) (s.arg 5) → s.maySend h (s.arg 2) = true → p = enteringPacket s.nextId h payload owner →
    p.trail = [l] → s.roomAt l 0 h = true → (s.useHead l).isSome = true → (s.contend p.die p.site (entryPort (hdrSrc h))).isSome = true →
    ∃ s2, exec .packetHeaderArrival s = .next s2 ∧ s.SameButNetwork s2 ∧
      (keepsPayload h = true → ⟨h, payload, owner, some (s.arg 2)⟩ ∈ s2.retained) ∧
      (hdrOs h = true → seqNext s2.sources (hdrPorts h) = seqNext s.sources (hdrPorts h) + 1) ∧
      (∃ q ∈ s2.packets, q.id = s.nextId ∧ q.die = p.die ∧ q.site = p.site ∧ q.unit = 0 ∧ (q = p ∨ q = p.cut))) ∧
  (s.arg 0 = 1 → ∀ p, s.packet? (s.arg 1) = some p →
    (2 ≤ p.unit → exec .packetHeaderArrival s = .next (s.settleAt (s.arg 1))) ∧
    (∀ s1 s2, p.unit < 2 → s.hopRoom p = true → s.outranked p = false → s.useHead p.place = some s1 →
      (if p.hop.unit = 0 then s1.contend p.hop.die p.hop.site p.hop.entry else some s1) = some s2 →
      exec .packetHeaderArrival s = .next ((((s2.keepHeader p).updPacket (s.arg 1) Packet.hopped).decideTrim (s.arg 1)).settleAt (s.arg 1)))) ∧
  (s.arg 0 = 2 → ∀ x, s.outbox[s.arg 1]? = some x →
    (∀ s2, x.fresh = false → (s.withOutbox (s.outbox.eraseIdx (s.arg 1))).inject x.header x.payload x.owner = some s2 →
      exec .packetHeaderArrival s = .next s2) ∧
    (∀ h s2, x.fresh = true → s.mayStart h x.sector = true →
      h = (if hdrOs x.header = true then withSeq x.header (seqNext s.sources (hdrPorts x.header)).toNat else x.header) →
      ((s.withOutbox (s.outbox.eraseIdx (s.arg 1))).startSend h x.payload x.owner x.sector).inject h x.payload x.owner = some s2 →
      exec .packetHeaderArrival s = .next s2)) ∧
  (s.arg 0 = 3 → ∀ p i l, s.packet? (s.arg 1) = some p → p.flits[s.arg 2]? = some i → p.trail[i]? = some l → p.ready (s.arg 2) i = true →
    (s.wire l).flit ≠ some (nth s.ncycs l.die 0) →
    (∀ q ∈ s.packets, lanePlace (hdrLane q.header) < lanePlace (hdrLane p.header) → ∀ n k m, q.trail[n]? = some m → m.link l = true →
      q.ready k n = false) →
    exec .packetHeaderArrival s = .next (((s.setWire ((s.wire l).movedFlit (nth s.ncycs l.die 0))).updPacket (s.arg 1) fun q =>
      q.flitAt (s.arg 2) (i + 1)).settleAt (s.arg 1))) ∧
  (∀ id p, s.packet? id = some p → p.unit = 2 →
    (hdrTr p.header = true → s.settleAt id = (s.dropPacket id).noteTrim p.header) ∧
    (hdrTr p.header = false → s.orphan p = false → hdrKind p.header < 5 → hdrOs p.header = false → p.whole = true → s.unperformed p = false →
      s.settleAt id = (s.dropPacket id).acceptPayload p.header)) ∧
  (∀ r, s.rereqs[s.arg 0]? = some r → r.sent = false → r.due ≤ nth s.ncycs (portDie (hdrDst r.header)) 0 →
    exec .reRequestWindow s = .next ((s.withRereqs (s.rereqs.set (s.arg 0) r.asked)).reply (answerHdr r.header 6 r.count))) ∧
  (∀ p, s.landed? (s.arg 0) 6 = some p →
    (∀ r, (s.retained.find? fun r => r.answers p.header) = some r → exec .reRequest s = .next ((s.dropPacket p.id).offer
      ⟨withCnt r.header (hdrCnt p.header), r.payload, r.owner, false, r.sector⟩)) ∧
    ((∀ r ∈ s.retained, r.answers p.header = false) → exec .reRequest s = .next ((s.dropPacket p.id).reply (answerHdr p.header 5 255)))) ∧
  (∀ p, s.landed? (s.arg 0) 5 = some p →
    (hdrCnt p.header = 255 → ∀ mine, mine = (fun r : ReReq => decide (hdrSrc r.header = hdrSrc p.header) &&
        decide (hdrDst r.header = hdrDst p.header) && decide (hdrTag r.header = hdrTag p.header)) →
      exec .delivered s = .next ((s.rereqs.filter mine).foldl (fun s r => s.closeHole r.header)
        ((s.dropPacket p.id).withRereqs (s.rereqs.filter fun r => ! mine r)))) ∧
    (hdrCnt p.header ≠ 255 →
      exec .delivered s = .next ((s.dropPacket p.id).withRetained (s.retained.filter fun r => ! r.answers p.header)))) ∧
  (∀ p, s.packet? (s.arg 0) = some p →
    (∀ l, s.arg 1 = 0 → p.unit = 0 → 1 < p.trail.length → p.viaModule (p.trail.length - 1) = true → p.trail.getLast? = some l →
      p.header ∈ s.replayed l → exec .linkCrcFailure s = .next (s.updPacket p.id Packet.back)) ∧
    (∀ k, s.arg 1 ≠ 0 → p.flits[s.arg 2]? = some (k + 1) → p.viaModule k = true →
      (∀ at_, trimmable p.header = true → at_ = nth (p.trail ++ [p.place]) (k + 1) p.place → exec .linkCrcFailure s = .next
        (((s.countTrim at_.die at_.site 6 (hdrNf p.header)).updPacket p.id Packet.cut).settleAt p.id)) ∧
      (trimmable p.header = false → exec .linkCrcFailure s = .next (s.updPacket p.id fun q => q.flitAt (s.arg 2) k)))) ∧
  (∀ c, s.copy? (s.arg 0) = some c →
    (c.kind = 1 → c.started = true → 4096 * c.piece < c.total →
      (∀ c1, c.walk = false → (∀ y ∈ s.copies, y.id ≠ c.id → clusterOf y.core = clusterOf c.core → y.walking = false) →
        (∀ r ∈ c.recvs, s.unseated r = false) → c1 = c.walks (s.seatedRecvs c) → c1.chain ≠ [] → exec .chainReservation s = .next
          ((s.updCopy c.id fun _ => c1).offer (c1.chainPacket 7 c1.enginePort (corePort (c1.member 0).core) 0 c1.reservation))) ∧
      (∀ core, c.walk = true → c.taken < c.chain.length → core = (c.member c.taken).core →
        (c.slotAt = some core → s.buffersUsed core < 4 → exec .chainReservation s = .next (s.takeBuffer c)) ∧
        (∀ p, c.slotAt ≠ some core → s.chainAt c 7 (corePort core) = some p →
          (s.buffersUsed core < 4 → exec .chainReservation s = .next ((s.dropPacket p.id).takeBuffer c)) ∧
          (4 ≤ s.buffersUsed core →
            exec .chainReservation s = .next ((s.dropPacket p.id).updCopy c.id fun y => y.waitsAt core))))) ∧
    (∀ k p, k < c.taken → s.chainAt c 9 (c.portBefore k) = some p → hdrSrc p.header = corePort (c.member k).core →
      (∀ i < k, ∀ q, s.chainAt c 9 (c.portBefore i) = some q → hdrSrc q.header ≠ corePort (c.member i).core) →
      exec .chainGrant s = .next ((s.dropPacket p.id).updCopy c.id fun y => y.grantOf k)) ∧
    (∀ i, c.chain[s.arg 1]? = some i →
      (s.chainAt c 8 (corePort (c.recv i).core) = none → exec .chainData s = .next (s.sendChain c (s.arg 1))) ∧
      (∀ x p s1, s.chainAt c 8 (corePort (c.recv i).core) = some x → p = (c.recv i).pos → hdrSeq x.header = p % 4096 / 256 →
        c.hasPacket p = true → s.copyStuck c = false → s.cairnOpen c (c.recv i).team = true →
        s1 = (c.packet p).foldl (fun s r => s.chainChunk c.id i r) (s.dropPacket x.id) →
        exec .chainData s = .next (if c.chain.length ≤ s.arg 1 + 1 ∧ c.packetEnd p = c.pieceEnd
          then s1.offer (c.chainPacket 10 (corePort (c.recv i).core) c.enginePort 0 []) else s1))) ∧
    (∀ p, s.chainAt c 10 c.enginePort = some p → exec .chainDone s = .next ((s.dropPacket p.id).nextPiece c)))

/-- R9, R482 to R485, R487, R491, R492: the reset at power-on, the stages of the bring-up, the clock levels, the thermal trip, the
interfaces of trusted domains, measurements and certificates. That an event is a turn is the model's form (log 1); whether a stage passes
is free (log 12), and the ends of interfaces hold readings (log 14). -/
def Obligations.DeviceEventsOccur : Prop := ∀ (s : State),
  (∃ s2, exec .powerOnReset s = .next s2 ∧ s2.ctxs = [] ∧ s2.threads = [] ∧ s2.teams = [] ∧ s2.grids = [] ∧ s2.ops = [] ∧
    s2.weights = [] ∧ s2.caps = s.caps ∧ s2.stage = 0) ∧
  (s.stage = 0 → s.bootErr = 0 → exec .die0BringUp s = .next (s.withBoot (if Config.stagePasses 0 then bootWord 1 0 else bootWord 0 1))) ∧
  (s.stage = 1 → s.bootErr = 0 → exec .die1BringUp s = .next (s.withBoot (if Config.stagePasses 2 then bootWord 2 0 else bootWord 1 2))) ∧
  (s.stage = 2 → s.bootErr = 0 → ∃ s2, exec .standardImagePost s = .next s2 ∧
    s2.boot = if Config.stagePasses 3 then bootWord 3 0 else bootWord 2 4) ∧
  (∀ l, s.arg 0 < s.levels.length → l = nth s.levels (s.arg 0) 0 →
    (s.arg 1 ≠ 0 → l < 4 → ∃ s2, exec .clockLevelStep s = .next s2 ∧ nth s2.levels (s.arg 0) 0 = l + 1 ∧ s2.tcnt = (s.tcnt + 1) % 2 ^ 16) ∧
    (s.arg 1 = 0 → l ≠ 0 → ∃ s2, exec .clockLevelStep s = .next s2 ∧ nth s2.levels (s.arg 0) 0 = l - 1 ∧ s2.tcnt = (s.tcnt + 1) % 2 ^ 16)) ∧
  (∃ s2, exec .thermalTrip s = .next s2 ∧ s2.home = s.home ∧ (∀ c ∈ s.ctxs, ∀ t ∈ s2.threads, t.id.ctx ≠ c.num)) ∧
  (1 ≤ s.arg 0 → s.arg 0 ≤ 63 → (s.tdi (s.arg 0)).st = 0 → rangesOk (pairUp (s.pick.drop 1)) = true →
    exec .lockInterfaceRequest s = .next (s.setTdi ⟨s.arg 0, 1, pairUp (s.pick.drop 1), (s.tdi (s.arg 0)).gone⟩)) ∧
  ((s.tdi (s.arg 0)).st = 1 → exec .startInterfaceRequest s = .next (s.setTdi { s.tdi (s.arg 0) with st := 2 })) ∧
  ((s.tdi (s.arg 0)).active = true → exec .stopInterfaceRequest s = .next (s.endTdi (s.arg 0) 0) ∧
    exec .endSession s = .next (s.endTdi (s.arg 0) 0) ∧ exec .heartbeatLapse s = .next (s.endTdi (s.arg 0) 0) ∧
    exec .tdiEntersError s = .next (s.endTdi (s.arg 0) 3)) ∧
  (∀ d, s.measurement (s.arg 0) (s.arg 1) = some d → exec .getMeasurements s = .next { s with measured := d ++ Config.identitySign d }) ∧
  (1 ≤ s.arg 0 → s.arg 0 ≤ 7 → exec .setCertificate s = .next
    { s with certs := s.certs.set (s.arg 0 - 1) ((s.pick.drop 1).map (BitVec.ofNat 8)) })

namespace Sys2Proof
namespace Machine

-- ---------------------------------------------------------------- steps

/-- A state with the turns after the first, as a turn sees it. -/
def State.withAgenda (s : State) (l : List Turn) : State := { s with agenda := l }
/-- A state with other picks of its cycle still to issue (R350). -/
def State.withPicks (s : State) (l : List Pick) : State := { s with picks := l }
/-- A state in which an actor executes a word. -/
def State.acting (s : State) (a : Actor) (w : Word) : State := { s with cur := a, ir := w }
/-- A state in which an event occurs with the numbers that say which occurrence it is. -/
def State.eventful (s : State) (args : List Nat) : State := { s with pick := args, cur := .none }

-- ---------------------------------------------------------------- frames

/-- What a register-only word may change when it issues or waits: its own thread's place, hints, last uses and sr.fps.DEAD, the time its
team last issued, and the operations in flight. Every other thread is as it was, and so is the rest of the device. -/
def State.RegisterWordFrame (s s2 : State) (id : ThreadId) : Prop :=
  s2 = { s with threads := s2.threads, teams := s2.teams, ops := s2.ops, nextId := s2.nextId, fresh := s2.fresh } ∧
  (∀ x tm, s.team? x = some tm → ∃ n, s2.team? x = some { tm with lastIssue := n }) ∧
  (∀ x, x ≠ id → s2.thread? x = s.thread? x) ∧
  (∀ t, s.thread? id = some t → ∃ t2, s2.thread? id = some t2 ∧ t.SameRegisters t2 ∧ (t2.fps = t.fps ∨ t2.fps = t.fps ||| BitVec.ofNat 32 fDEAD) ∧
    t2.csd = t.csd ∧ t2.ls = t.ls ∧ t2.ssp = t.ssp ∧ t2.signed = t.signed ∧ t2.outstanding = t.outstanding ∧ t2.tdep = t.tdep ∧
    t2.fbase = t.fbase ∧ t2.fsize = t.fsize ∧ t2.lastPage = t.lastPage ∧ t2.cairn = t.cairn)

/-- The words that write registers and predicates and nothing else (majors 0x01 to 0x21, and RDCYC, RNGX, RNGADD and MOVSR). -/
def registerWords (d a : Nat) (l : Bool) (b : Nat) (m : Bool) (c p : Nat) (x : Bool) (n o : Nat) : List Instr :=
  ((addSubRows 32 narrow d a l b m ++ addSubRows 64 wide d a l b m ++ divisionRows 32 narrow 36 d a l b m ++
    divisionRows 64 wide 68 d a l b m ++ arithmeticRows 32 narrow 6 d a l b m ++ arithmeticRows 64 wide 10 d a l b m ++
    logicRows 32 narrow d a l b m ++ logicRows 64 wide d a l b m ++ shiftRows 32 narrow d a l b m ++ shiftRows 64 wide d a l b m ++
    shiftImmRows d a l x n ++ mixedRows d a l b m c p x o ++ immediateRows d a l n ++ predicateRows p c a b).map ResultRow.instr) ++
  ((floatArithmeticRows d a l b m c ++ elementaryRows d a l ++
    floatOtherRows .f32 6 d a l b m (.fminF32 d a l b m) (.fmaxF32 d a l b m) (.fabsF32 d a l) (.fnegF32 d a l) (.fclassF32 d a l)
      (.fscaleF32 d a l b m) (.frintF32 d a l) ++
    floatOtherRows .f64 10 d a l b m (.fminF64 d a l b m) (.fmaxF64 d a l b m) (.fabsF64 d a l) (.fnegF64 d a l) (.fclassF64 d a l)
      (.fscaleF64 d a l b m) (.frintF64 d a l) ++
    floatOtherRows .f16 6 d a l b m (.fminF16 d a l b m) (.fmaxF16 d a l b m) (.fabsF16 d a l) (.fnegF16 d a l) (.fclassF16 d a l)
      (.fscaleF16 d a l b m) (.frintF16 d a l) ++
    floatOtherRows .bf16 6 d a l b m (.fminBf16 d a l b m) (.fmaxBf16 d a l b m) (.fabsBf16 d a l) (.fnegBf16 d a l)
      (.fclassBf16 d a l) (.fscaleBf16 d a l b m) (.frintBf16 d a l)).map FloatRow.instr) ++
  [.cvt d a l b m n, .cmp p c a l b m o n, .rdcyc d, .rngx d a l b m, .rngadd d a l b m x, .movsr d n]

/-- The words that move a thread, latch hints, wait, start accesses, or deposit in a set: none writes a register, a predicate or a byte of
memory when it issues. -/
def controlAndAccessWords (d a : Nat) (l m : Bool) (g : Nat) (gs : Bool) (o p z : Nat) (b c n : Nat) : List Instr :=
  [.br g gs o, .call g gs o, .brx a l, .callx a l, .ret, .waitk n o, .cwait n, .yield, .fence n, .trap o, .softi o, .ill,
   .imm o, .mod a b c l m n z, .live l m o, .sched l o,
   .ldGB32 d a l g gs o, .ldGB64 d a l g gs o, .ldSB32 d a l g gs o, .ldGeneral d a l gs g p z, .stGB32 d a l g gs o, .stGB64 d a l g gs o,
   .stSB32 d a l g gs o, .stGeneral d a l gs g p z, .atom d a l gs m o n, .atomc d a l gs m n, .waita d a l gs m n, .wakea d a l gs n,
   .cflush a l, .cinv a l, .pin d a l, .unpin d a l,
   .mma a b l p n z, .mmas a b l p n z, .mmabXor a b l p n z, .mmabAnd a b l p n z, .mmac a b l p n z,
   .aczero z, .acmov o z, .acld a l z, .acst a l z, .acres d a l n z, .accmp d a l o z]

/-- The store of a merge group that writes the byte at an address: of those that cover it, the last, which is the highest thread's (R249). -/
def lastGiving (g : List (Op × Access)) (x : Nat) : Option (Op × Access) :=
  g.reverse.find? fun p => decide (p.2.va ≤ x) && decide (x < p.2.va + p.2.size) && bitAt p.2.mask (x - p.2.va)

-- ---------------------------------------------------------------- traps

/-- The record of a trap found at issue (R364, R367). -/
def trapRecord (s : State) (t : Thread) (c : Ctx) (cls : Nat) (word : Word) (detail addr : Nat) (opnd : Option Nat) : FRec :=
  { ctx := t.id.ctx, seq := c.fseq.toNat, cls := cls, ir := false, as := false, dfr := false, np := false, ent := false, rst := false,
    pre := false, grid := t.id.grid, team := t.id.team, rank := t.id.rank, role := t.role, fpc := t.pc.toNat, ppc := t.pc.toNat,
    word := word.toNat, latch := t.latch, detail := detail, addr := addr, opnd := opnd.getD 0, user := s.userOf t.id.gridId, nrep := 0,
    read := opnd.isSome }

/-- A record under another number. -/
def FRec.withSeq (r : FRec) (n : Nat) : FRec := { r with seq := n }

/-- The class an address of a space takes outside its range (R239). -/
def rangeClass : Space → Nat
  | .g => clsUnmapped
  | .s => clsScratchRange
  | .k => clsConstRange
  | .w => clsWeightRange

/-- An effective address that no access may use (R239, R240), with the class it takes: misaligned, or outside the range of its space. -/
def BadAddress (scr : Nat) (space : Space) (ea size cls : Nat) : Prop :=
  (ea % size ≠ 0 ∧ cls = clsMisaligned) ∨
  (ea % size = 0 ∧ cls = rangeClass space ∧ match space with
    | .g => False
    | .s => scr * 4096 ≤ ea
    | .k => 65536 ≤ ea
    | .w => 2 ^ 31 ≤ ea)

/-- An access word whose guard lets it go traps at a bad address. -/
def TrapsAtAddress (i : Instr) (space : Space) (size : Nat) (form : State → Thread → Issue) (goes : Thread → Prop) (off : List Word → Int) :
    Prop :=
  ∀ (s : State) (t : Thread), s.Issues t (form s t) → goes t → ∀ ea cls, ea = effAddr space (srcOf t (form s t) 0) (off t.latch) →
    BadAddress (s.scrOf t.id.teamId) space ea size cls →
    exec i s = .next (s.raiseTrap t cls s.ir 0 ea (some (opndOf (s.argsOf t (form s t)).opnd 0)))

end Machine
end Sys2Proof

open Sys2Proof Sys2Proof.Machine

/-- R93, R112, R113, R186, R328, R334, R350: a step is the turn at the head of the agenda, and lets the device act by itself when there is none
(log 1). In the turn of a thread that its partition has picked for the present cycle, and that nothing must precede in it, the thread
fetches the four bytes its PC translates to, little-endian, and executes the instruction they decode to; bytes that decode to none trap at
the word, and so does a fetch that faults; while an older word holds it (R165), it waits as Dependent before all that. The slice of a team does
the same at its APC, and stops where a thread traps. The turn of an event executes that event, unless it has to wait in its cycle for a word
that is still to issue, or is a request made before the device answers any (R487). -/
def Obligations.AStepRunsTheDecodedInstruction : Prop := ∀ (s s0 : State) (rest : List Turn), s0 = s.withAgenda rest →
  (∀ id s1, s.agenda = .thread id :: rest → s1 = s0.deal (dieOf (s0.coreOf id)) →
    (s1.granted (.thread id) = none → step s = .next s1) ∧
    (∀ s2 t, s1.granted (.thread id) = some s2 → s2.thread? id = some t →
      (s2.mayIssue t = false → step s = .next s2) ∧
      (s2.mayIssue t = true → s2.heldBack id = true → step s = .next (s2.setWaiting id .dependent)) ∧
      (s2.mayIssue t = true → s2.heldBack id = false →
        (∀ s3 w i, s2.fetch (s2.coreOf id) id.ctx t.pc = (s3, .ok w) → decodeWord w.toNat = .ok i → step s = exec i (s3.acting (.thread id) w)) ∧
        (∀ s3 w r, s2.fetch (s2.coreOf id) id.ctx t.pc = (s3, .ok w) → decodeWord w.toNat = .error r →
          step s = .next ((s3.acting (.thread id) w).raiseTrap t clsIllegal w 0 0 none)) ∧
        (∀ s3 cls, s2.fetch (s2.coreOf id) id.ctx t.pc = (s3, .error cls) →
          step s = .next (s3.raiseTrap t cls 0 AccCode.fetch.num t.pc.toNat none))))) ∧
  (∀ id s1, s.agenda = .slice id :: rest → s1 = s0.deal (dieOf (s0.coreOf ⟨id.ctx, id.grid, id.team, 0⟩)) →
    (s1.granted (.slice id) = none → step s = .next s1) ∧
    (∀ s2 tm sl, s1.granted (.slice id) = some s2 → s2.team? id = some tm → tm.slice = some sl → s2.sliceRuns tm = true →
      (∀ s3 w i, s2.fetch tm.core id.ctx sl.apc = (s3, .ok w) → decodeWord w.toNat = .ok i → step s = exec i (s3.acting (.slice id) w)) ∧
      (∀ s3 w r, s2.fetch tm.core id.ctx sl.apc = (s3, .ok w) → decodeWord w.toNat = .error r →
        step s = .next ((s3.acting (.slice id) w).stopSlice id clsIllegal w 0)) ∧
      (∀ s3 cls, s2.fetch tm.core id.ctx sl.apc = (s3, .error cls) → step s = .next (s3.stopSlice id cls 0 sl.apc.toNat)))) ∧
  (∀ a p, (s.picks.find? fun p => decide (p.who = a)) = some p →
    (∀ q ∈ s.picks, dieOf q.core = dieOf p.core → keyBefore (s.pickKey q) (s.pickKey p) = true → s.pickLive q = false) →
    s.granted a = some (s.withPicks (s.picks.filter fun q => decide (q ≠ p)))) ∧
  (∀ i args, s.agenda = .event i args :: rest → s.stage = 0 → requestEvent i = true → step s = .next s0) ∧
  (∀ i args s1, s.agenda = .event i args :: rest → i.isEvent = true → (s.stage ≠ 0 ∨ requestEvent i = false) → s1 = s0.readied i args →
    (s1.picks.any (s1.waitsFor i args) = true → step s = .next s1) ∧
    (s1.picks.any (s1.waitsFor i args) = false → step s = exec i (s1.eventful args))) ∧
  (∀ die s1, s.agenda = .cycle die :: rest → s1 = s0.deal die →
    ((∀ p ∈ s1.pickOrder die, s1.pickLive p = false) → step s = .next (s1.cycleTurn die)) ∧
    (∀ p t, (s1.pickOrder die).find? s1.pickLive = some p → p.who = .thread t →
      step s = ((s1.withAgenda (.cycle die :: s1.agenda)).withPicks (s1.picks.filter fun q => decide (q ≠ p))).runThread t) ∧
    (∀ p t, (s1.pickOrder die).find? s1.pickLive = some p → p.who = .slice t →
      step s = ((s1.withAgenda (.cycle die :: s1.agenda)).withPicks (s1.picks.filter fun q => decide (q ≠ p))).runSlice t)) ∧
  (s.agenda = [] → step s = .next s.auto) ∧
  (∀ core ctx (pc : Addr) s1 pa tr, s.lookup core ctx pc.toNat false false true = (s1, .ok pa tr) →
    ∃ s2, s.fetch core ctx pc = (s2, .ok (BitVec.ofNat 32 (memRead s1.home pa 4))) ∧ s2 = { s1 with slices := s2.slices })

/-- R93 to R111, R374: every well-formed instruction has a 32-bit word, and that word decodes to it, with every operand as it was; the rows
of ERET share one word, which decodes to the one name of it. -/
def Obligations.DecodingTheWordOfAnInstructionGivesItBack : Prop :=
  ∀ i : Instr, i.wellFormed = true → encode i < 2 ^ 32 ∧ decodeWord (encode i) = .ok i.canon

/-- R93 to R113: a word that decodes to an instruction is the word of that instruction, which is well formed and no event: no bit of a word
goes unread, and no two words stand for one instruction. -/
def Obligations.AWordThatDecodesIsTheWordOfItsInstruction : Prop :=
  ∀ (w : Nat) (i : Instr), w < 2 ^ 32 → decodeWord w = .ok i → i.wellFormed = true ∧ encode i = w

/-- R95 to R111, and the encodings that the examples of the instruction chapters write out: those words decode to the instructions written
beside them. The word of zeros is ILL, and a word of hint kind 15 is none. -/
def Obligations.WordsOfTheSpecDecode : Prop :=
  decodeWord 0x00000000 = .ok .ill ∧
  decodeWord 0xFC000004 = .ok (.imm 4) ∧
  decodeWord 0xC0901800 = .ok (.ldGB32 9 0 false 12 false 0) ∧
  decodeWord 0x34300000 = .ok (.movi 3 0) ∧
  decodeWord 0xFC40000A = .ok (.mod 0 0 0 false true 2 0) ∧
  decodeWord 0xFC800001 = .ok (.live false true 0) ∧
  decodeWord 0x50824189 = .ok (.ffmaF32 8 9 false 3 false 9) ∧
  decodeWord 0x808201E4 = .ok (.cmp 2 0 8 false 3 true 4 4) ∧
  decodeWord 0x88800002 = .ok (.br 2 false 2) ∧
  decodeWord 0x40820400 = .ok (.faddF32 8 8 false 8 false) ∧
  decodeWord 0xC4801801 = .ok (.stGB32 8 0 false 12 false 1) ∧
  decodeWord 0x90000C00 = .ok .exit ∧
  decodeWord 0x0C8123C4 = .ok (.addc 8 4 true 7 true 1) ∧
  decodeWord 0x04C2C548 = .ok (.divN32 12 11 false 10 true) ∧
  decodeWord 0xD881832C = .ok (.stGeneral 8 6 false false 12 1 4) ∧
  decodeWord 0xB061E000 = .ok (.mma 6 7 true 0 0 0) ∧
  decodeWord 0xB0626008 = .ok (.mma 6 9 true 0 0 1) ∧
  decodeWord 0xB4A34044 = .ok (.accmp 10 13 false 1 0) ∧
  decodeWord 0xFFFFFFFF = .error .noRow

/-- A step never stops: from every state, whatever it holds, it answers a next state (R112, R113, R363 and R364 give a trap, a record or a
wait to everything a word can do wrong). That an event whose condition does not hold leaves the state as it is is the model's form (log
39). And no step leaves a memory out of its canonical form: home memory, the weight store, and the scratchpads of the placed and of the saved teams
(that a memory is a list in such a form is the model's, log 3). -/
def Obligations.NoStepStops : Prop := ∀ s : State, s.safeStep ∧ (s.memoriesWf → ∀ t, step s = .next t → t.memoriesWf)

/-- R9, R252, R366, R443, R482, R486, R487: what reset leaves. The device does not respond yet, holds no context, grid, team or thread, and no
operation is in flight; its caches hold nothing, no sector is marked; SCWG0 gives group 0 every way; its image slots and key slots but the
fused one are empty; no interface is locked; both dies' cycle counts are 0. That every byte then reads 0 is the model's choice (log 3). -/
def Obligations.ResetLeavesAnEmptyDevice : Prop :=
  State.reset.stage = 0 ∧ State.reset.bootErr = 0 ∧ State.reset.ctxs = [] ∧ State.reset.grids = [] ∧ State.reset.teams = [] ∧
  State.reset.threads = [] ∧ State.reset.ops = [] ∧ State.reset.copies = [] ∧ State.reset.waiters = [] ∧ State.reset.held = [] ∧
  State.reset.l1 = [] ∧ State.reset.slices = [] ∧ State.reset.tlb1 = [] ∧ State.reset.tlb2 = [] ∧ State.reset.homePoison = [] ∧
  nth State.reset.scwg 0 0 = 0xFFFF ∧ (∀ slot < 16, nth State.reset.imgSlots slot emptySlot = emptySlot) ∧
  (∀ slot < 16, nth State.reset.keys slot none = none) ∧ State.reset.tdis = [] ∧ State.reset.scunp = 0 ∧
  (∀ die < 2, State.reset.cycleOf die = 0) ∧ (∀ q < 32, (State.reset.lq q).pw = false) ∧
  State.reset.memoriesWf ∧ (∀ a, cellGet State.reset.home a = 0) ∧ (∀ a, cellGet State.reset.weights a = 0)

/-- R31, R36: a thread starts Ready at its role's entry PC; every register of its budget is live and holds 0, but g0 and g1, which hold the
two halves of ARG; its predicates are false, sr.fps and sr.fpc are 0, its counters are 0 and its last-page register is empty. -/
def Obligations.PlacedThreadsStart : Prop := ∀ (s : State) (g : Grid) (core : Nat) (grants : List (Nat × Nat × Nat) × List (Nat × Nat × Nat))
  (rank k rr : Nat) (desc : RoleDesc), rank < g.launch.tsize → roleOf g.launch.roles 0 rank = some (k, rr, desc) →
  ∃ t ∈ (s.placeOrdinary g core grants).threads, t.id = ⟨g.id.ctx, g.id.grid, g.nextTeam, rank⟩ ∧ t.st = .ready ∧ t.pc = desc.entry ∧
    t.role = k ∧ t.rrank = rr ∧ t.budget = budgetOf desc.rbud ∧
    (∀ n < budgetOf desc.rbud, nth t.dead n false = false ∧ nth t.regs n 0 =
      if n = 0 then BitVec.ofNat 32 g.launch.arg.toNat else if n = 1 then BitVec.ofNat 32 (g.launch.arg.toNat / 2 ^ 32) else 0) ∧
    (∀ p < 12, nth t.preds p false = false) ∧ t.fps = 0 ∧ t.fpc = 0 ∧ (∀ c, t.counter c = 0) ∧ t.lastPage = none

/-- R97, R112, R115, R129, R163: the frame of the words that write registers or predicates. When one issues, or waits, and makes no record, no
register, predicate, special register but sr.fps.DEAD, accumulator, set, queue, counter or byte of memory changes, of its own thread or of
another: its results are in flight. -/
def Obligations.RegisterWordsFrame : Prop := ∀ (d a : Nat) (l : Bool) (b : Nat) (m : Bool) (c p : Nat) (x : Bool) (n o : Nat),
  ∀ i ∈ registerWords d a l b m c p x n o, ∀ (s s2 : State) (t : Thread), s.cur = .thread t.id → s.thread? t.id = some t →
    exec i s = .next s2 → s2.raised = s.raised → s2.unposted = s.unposted → s.RegisterWordFrame s2 t.id

/-- R97, R129, R189, R220, R229, R265, R269, R290: the frame of the control words, the hints, the waits, the accesses, the matrix words and the
accumulator words. When one issues, or waits, and raises no record, no byte of memory and no general register, predicate, sr.fpc or kernel
register of any thread changes: what it stores or loads is in flight. -/
def Obligations.ControlAndAccessWordsFrame : Prop := ∀ (d a : Nat) (l m : Bool) (g : Nat) (gs : Bool) (o p z : Nat) (b c n : Nat),
  ∀ i ∈ controlAndAccessWords d a l m g gs o p z b c n, ∀ (s s2 : State) (id : ThreadId), s.cur = .thread id →
    exec i s = .next s2 → s2.raised = s.raised → s.SameBytes s2 ∧ s.SameRegisters s2

/-- R129: a completed write is applied to a register or predicate only if no write younger in program order has been applied to it; each
register of a result is judged alone, and a discarded write still retires from its counter. Nothing else of the thread changes but the flags
of a computed result, no other thread, and no byte of memory; the operation is over. -/
def Obligations.ResultsAreWrittenInProgramOrder : Prop := ∀ (s : State) (o : Op) (t : Thread), s.op? (s.arg 0) = some o →
  s.thread? o.thr = some t → s.isDue o = true →
  (((o.body = .result ∨ ∃ r, o.body = .collective r) ∧ o.stage = .issued ∧ traps o.flags o.en = false) ∨
    ((∃ a, o.body = .mem a) ∧ o.stage = .bound ∧ o.flags = 0)) →
  o.dests.Nodup → o.vals.length = o.dests.length → t.regs.length ≤ 64 → t.preds.length = 12 → t.wpos.length = 76 →
  (∀ r ∈ o.dests, r < t.regs.length ∨ 64 ≤ r ∧ r < 76) → t.dead.length = t.regs.length →
  ∃ s2 t2, exec .resultWrite s = .next s2 ∧ s2.thread? o.thr = some t2 ∧
    (∀ k r v : Nat, o.dests[k]? = some r → o.vals[k]? = some v →
      (o.pos < nth t.wpos r 0 → nth t2.wpos r 0 = nth t.wpos r 0) ∧ (nth t.wpos r 0 ≤ o.pos → nth t2.wpos r 0 = o.pos) ∧
      (r < 64 → (o.pos < nth t.wpos r 0 → nth t2.regs r 0 = nth t.regs r 0 ∧ nth t2.dead r false = nth t.dead r false) ∧
        (nth t.wpos r 0 ≤ o.pos → nth t2.regs r 0 = BitVec.ofNat 32 v ∧ nth t2.dead r false = false)) ∧
      (64 ≤ r → (o.pos < nth t.wpos r 0 → nth t2.preds (r - 64) false = nth t.preds (r - 64) false) ∧
        (nth t.wpos r 0 ≤ o.pos → nth t2.preds (r - 64) false = decide (v % 2 = 1)))) ∧
    (∀ r, r ∉ o.dests → nth t2.wpos r 0 = nth t.wpos r 0 ∧
      (r < 64 → nth t2.regs r 0 = nth t.regs r 0 ∧ nth t2.dead r false = nth t.dead r false) ∧
      (64 ≤ r → nth t2.preds (r - 64) false = nth t.preds (r - 64) false)) ∧
    t2.outstanding = (t.retire o.id).outstanding ∧ t2.fps = t.fps ||| BitVec.ofNat 32 o.flags ∧
    t2 = { t with regs := t2.regs, dead := t2.dead, preds := t2.preds, wpos := t2.wpos, outstanding := t2.outstanding, fps := t2.fps } ∧
    (∀ x, x ≠ o.thr → s2.thread? x = s.thread? x) ∧ s2.op? o.id = none ∧ s2 = { s with threads := s2.threads, ops := s2.ops }

/-- R240, R247, R249, R250, R260, R265 to R269, R303, R461: which bytes of memory change, and to what. A store to the scratchpad, one at .dv or
.sy, and a .nol1 store write the bytes of their access and no other, once the cycle of their issue is over and nothing holds them. Stores of one
cycle and partition that share bytes are performed together, and a byte they share takes the value of the highest thread (R249): `lastGiving`. At
.dv or .sy the bytes of the one sector that the L1 of the cluster holds dirty are written back before. A store that leaves its core's path
changes no byte of memory. The writes of the device itself to home memory, and those of a cairn, touch their own bytes only. -/
def Obligations.StoresWriteTheirBytes : Prop :=
  (∀ (s : State) (o : Op) (a : Access), s.op? (s.arg 0) = some o → o.body = .mem a → a.kind.stores = true →
    (∀ g, g = s.mergeGroup o a → o.stage = .ready → s.stepClosed o = true → s.mergeWaits o a = false →
      (∀ p ∈ g, p.2.kind.atomic = false ∧ s.storeReady p.1 p.2 = true) →
      exec .storePerformed s = .next (s.performStores g) ∧
      (∀ tm, a.space = .s → s.team? o.thr.teamId = some tm → (∀ p ∈ g, s.tagged o.thr.teamId p.2.va p.2.size = false ∧ p.2.pa = some p.2.va) →
        Memory.wf tm.scratch = true →
        ∃ tm2, (s.performStores g).team? o.thr.teamId = some tm2 ∧ Memory.wf tm2.scratch = true ∧
          (∀ x, cellGet tm2.scratch x = match lastGiving g x with
            | some p => byteAt p.2.data (x - p.2.va)
            | none => cellGet tm.scratch x) ∧
          (s.performStores g).home = s.home ∧ (s.performStores g).weights = s.weights ∧
          (∀ id, id ≠ o.thr.teamId → (s.performStores g).team? id = s.team? id) ∧ s.SameRegisters (s.performStores g)) ∧
      (∀ pa, a.space = .g → a.scope.wide = true → g = [(o, a)] → a.pa = some pa → Memory.wf s.home = true →
        ∃ s2, exec .storePerformed s = .next s2 ∧ Stored (s.beforePerform o a).home s2.home pa a.size a.data a.mask ∧
          Memory.wf s2.home = true ∧ s2.weights = s.weights ∧ s2.teams = s.teams ∧ s.SameRegisters s2 ∧
          (a.rel = false ∨ a.scope = .dv → ∀ x, x / 64 ≠ pa / 64 → cellGet (s.beforePerform o a).home x = cellGet s.home x) ∧
          ((∀ y ∈ s.l1, y.cluster = clusterOf o.core → y.dirty = 0) → (s.beforePerform o a).home = s.home)) ∧
      (a.space = .g → (∀ p ∈ g, p.2.scope.wide = false) → s.SameBytes (s.performStores g) ∧ s.SameRegisters (s.performStores g))) ∧
    (∀ pa, a.space = .g → a.scope.wide = false → o.stage = .core → a.cp = 3 → a.pa = some pa → s.pathOlder o a = false →
      Memory.wf s.home = true → ∃ s2, exec .storePerformed s = .next s2 ∧ Stored s.home s2.home pa a.size a.data a.mask ∧
        Memory.wf s2.home = true ∧ s2.weights = s.weights ∧ s2.teams = s.teams ∧ s.SameRegisters s2)) ∧
  (∀ (s : State) (ctx pa n v : Nat), Memory.wf s.home = true → Stored s.home (s.homeWrite ctx pa n v).home pa n v (2 ^ n - 1) ∧
    Memory.wf (s.homeWrite ctx pa n v).home = true ∧ (s.homeWrite ctx pa n v).weights = s.weights ∧
    (s.homeWrite ctx pa n v).teams = s.teams ∧ memRead (s.homeWrite ctx pa n v).home pa n = v % 256 ^ n) ∧
  (∀ (s : State) (id : TeamId) (off : Nat) (c : CairnObj) (tm : Team), s.team? id = some tm → Memory.wf tm.scratch = true →
    ∃ tm2, (s.putCairn id off c).team? id = some tm2 ∧ Stored tm.scratch tm2.scratch off 32 c.value (2 ^ 32 - 1) ∧
      Memory.wf tm2.scratch = true ∧ (s.putCairn id off c).home = s.home ∧ ∀ x, x ≠ id → (s.putCairn id off c).team? x = s.team? x)

/-- R362, R364 to R367, R510: taking a trap found at issue. The thread parks at the word, its PC, its hints, its registers, predicates and
counters as they were; the record holds the class, the word's address as both PCs, the word, the latched hints and the operands, under the
next number of the context; it is written to the ring and PW counts it when the ring has room and no older record of the context is held,
and is held otherwise; where the die already holds 256, the record waits unmade with its raiser. No other thread's registers, hints or PC
change, and no byte of memory but the ring slot's and PW's. Some words of a record, and the stand-in number of an unmade one, are readings
(log 6, log 19). -/
def Obligations.TakingATrap : Prop := ∀ (s s2 : State) (t : Thread) (c : Ctx) (cls : Nat) (word : Word) (detail addr die : Nat) (opnd : Option Nat),
  cls ≠ clsYield → s.thread? t.id = some t → s.ctx? t.id.ctx = some c → (∀ w ∈ s.waiters, w.thr ≠ t.id) → die = dieOf (s.coreOf t.id) →
  s2 = s.raiseTrap t cls word detail addr opnd →
  (∃ t2, s2.thread? t.id = some t2 ∧ t2.st = (if t.st.isParked then t.st else .parked .fault) ∧
    t2.parks = t.parks ++ [⟨if s.storeFull die c then 2 ^ 32 + s.nextId else c.fseq.toNat, none⟩] ∧
    t2 = { t with st := t2.st, parks := t2.parks, bundle := none, promoted := false }) ∧
  (∀ x y, x ≠ t.id → s.thread? x = some y → ∃ y2, s2.thread? x = some y2 ∧ y.SameRegisters y2 ∧ y2.pc = y.pc ∧ y2.latch = y.latch ∧
    y2.fps = y.fps ∧ y2.outstanding = y.outstanding ∧ y2.parks = y.parks) ∧
  s2.weights = s.weights ∧
  (s.storeFull die c = true → s2.home = s.home ∧ s2.teams = s.teams ∧ s2.recs = s.recs ∧ s2.held = s.held ∧ s2.ctxs = s.ctxs ∧
    s2.unposted = s.unposted ++ [⟨die, (trapRecord s t c cls word detail addr opnd).withSeq (2 ^ 32 + s.nextId)⟩]) ∧
  (s.storeFull die c = false → s2.unposted = s.unposted ∧
    (∃ c2, s2.ctx? t.id.ctx = some c2 ∧ c2 = { c with fseq := if c.fseq = 0xFFFFFFFF then 1 else c.fseq + 1 }) ∧
    (∀ room, room = (s.ringRoom c && ! s.held.any fun h => decide (h.record.ctx = t.id.ctx)) →
      (room = false → s2.home = s.home ∧ s2.teams = s.teams ∧ s2.recs = s.recs ∧
        s2.held = s.held ++ [⟨die, trapRecord s t c cls word detail addr opnd⟩]) ∧
      (room = true → Memory.wf s.home = true → ∀ pw slot, pw = memRead s.home c.ringBase 8 →
        slot = c.ringBase + 128 * (1 + pw % 2 ^ c.ringSz) →
        memBytes s2.home slot 128 = (trapRecord s t c cls word detail addr opnd).bytes ∧ memRead s2.home c.ringBase 8 = (pw + 1) % 2 ^ 64 ∧
        trapRecord s t c cls word detail addr opnd ∈ s2.recs ∧ s2.held = s.held ∧
        (∀ x, (x < slot ∨ slot + 128 ≤ x) → (x < c.ringBase ∨ c.ringBase + 8 ≤ x) → cellGet s2.home x = cellGet s.home x))))

/-- R113, R373, R376, R377: outside kernel mode ERET, HALT and a MOVSR or MOVRS of a special register from 0x100 up take illegal instruction,
and have no other effect. -/
def Obligations.KernelWordsTrapOutsideKernelMode : Prop := ∀ (s : State) (t : Thread) (d a n : Nat) (l : Bool),
  s.cur = .thread t.id → s.thread? t.id = some t → s.kernelMode t.id.gridId = false → 0x100 ≤ n →
  ∀ i ∈ [Instr.eretResume d a l, .eretSkip d a l, .eretKill d a l, .eretWrite d a l, .eretRqrel d a l, .eretRqcan d a l, .eretDone d a l,
    .halt d a l, .movsr d n, .movrs a l n], exec i s = .next (s.raiseTrap t clsIllegal s.ir 0 0 none)

/-- R239, R240, R246, R289: LD, ST, ATOM and ATOMC trap at an address that is no multiple of their size, and at one outside the range of their
space; the record carries the address. -/
def Obligations.BadAddressesTrap : Prop := ∀ (d a : Nat) (l : Bool) (g : Nat) (gs : Bool) (o p z : Nat) (w : Bool) (sv : Nat),
  TrapsAtAddress (.ldGB32 d a l g gs o) .g 4 (fun s _ => loadForm s .g 4 d a l g) (fun t => t.pred g ≠ gs) (fun h => memOffset h o 4) ∧
  TrapsAtAddress (.ldGB64 d a l g gs o) .g 8 (fun s _ => loadForm s .g 8 d a l g) (fun t => t.pred g ≠ gs) (fun h => memOffset h o 8) ∧
  TrapsAtAddress (.ldSB32 d a l g gs o) .s 4 (fun s _ => loadForm s .s 4 d a l g) (fun t => t.pred g ≠ gs) (fun h => memOffset h o 4) ∧
  TrapsAtAddress (.stGB32 d a l g gs o) .g 4 (fun _ t => storeForm t .g 4 d a l g) (fun t => t.pred g ≠ gs) (fun h => memOffset h o 4) ∧
  TrapsAtAddress (.stGB64 d a l g gs o) .g 8 (fun _ t => storeForm t .g 8 d a l g) (fun t => t.pred g ≠ gs) (fun h => memOffset h o 8) ∧
  TrapsAtAddress (.stSB32 d a l g gs o) .s 4 (fun _ t => storeForm t .s 4 d a l g) (fun t => t.pred g ≠ gs) (fun h => memOffset h o 4) ∧
  (p < 4 → z < 7 → ∀ space size, space = nth [Space.g, .s, .k, .w] p .g → size = nth [1, 2, 4, 8, 16, 1, 2] z 0 →
    TrapsAtAddress (.ldGeneral d a l gs g p z) space size (fun s _ => loadForm s space size d a l g) (fun t => t.pred g ≠ gs)
      (fun h => memOffsetGeneral h size) ∧
    (p < 2 → TrapsAtAddress (.stGeneral d a l gs g p z) space size (fun _ t => storeForm t space size d a l g) (fun t => t.pred g ≠ gs)
      (fun h => memOffsetGeneral h size))) ∧
  (∀ k : Bool, TrapsAtAddress (.atom d a l k w o sv) (if k then .s else .g) (if w then 8 else 4)
      (fun _ t => atomForm t d (if w then 2 else 1) (if w then 2 else 1) a l k sv) (fun _ => True) (fun _ => 0) ∧
    TrapsAtAddress (.atomc d a l k w sv) (if k then .s else .g) (if w then 8 else 4)
      (fun _ t => atomForm t d (if w then 4 else 2) (if w then 2 else 1) a l k sv) (fun _ => True) (fun _ => 0))
end

