-- ==== Sys2Proof/Laws/Issue.lean ====
section
/-! SUPPORT. What issuing a word can do (R112): one lemma for each way it ends. Every lemma about a word of a thread cites these and does
not unfold the frame. -/

namespace Sys2Proof
namespace Machine

/-- A word that issues: its body runs on the committed state. -/
theorem issue_eq_body {s : State} {t : Thread} {i : Thread → Issue} {body : Args → State → Res} (h : s.Issues t (i t)) :
    issue s i body = .next (match body (s.argsOf t (i t)) (s.committed t (i t)) with
      | .ok s2 => if s2.overCount t.id then s.setWaiting t.id .blocked else s2
      | .trap cls detail addr => s.raiseTrap t cls s.ir detail addr (some (opndOf (s.argsOf t (i t)).opnd 0))
      | .hold st => s.setWaiting t.id st
      | .holdWith st s2 => if s2.overCount t.id then s.setWaiting t.id .blocked else s2.setWaiting t.id st) := by
  obtain ⟨h1, h2, h3, h4, h5, h6, h7, h8, h9, h10, h11, -⟩ := h
  have hb : (i t).regs.any (fun r => decide (t.budget ≤ r)) = false := by
    simp only [List.any_eq_false, decide_eq_true_eq, Nat.not_le]; exact h6
  have hr : (i t).reads.any (s.pendingWrite t) = false := by
    simp only [List.any_eq_false, Bool.not_eq_true]; exact h11
  have hc : ((i t).cross && s.detMode t.id.gridId) = false := by
    cases hx : (i t).cross
    · rfl
    · simp [h8 hx]
  simp only [issue, h1, h2, issueThread, h3, h4, h5, hb, h7, hc, h9, h10, hr, Bool.not_true, Bool.or_self, Bool.false_eq_true,
    if_false]
  rfl

/-- A word whose body issues, when no counter of the thread reaches 64 by it (R460). -/
theorem issue_ok {s s2 : State} {t : Thread} {i : Thread → Issue} {body : Args → State → Res} (h : s.Issues t (i t))
    (hb : body (s.argsOf t (i t)) (s.committed t (i t)) = .ok s2) (hr : s2.overCount t.id = false) : issue s i body = .next s2 := by
  rw [issue_eq_body h, hb]; simp [hr]

/-- A word whose body would take a counter to 64 waits at the word (R460). -/
theorem issue_full {s s2 : State} {t : Thread} {i : Thread → Issue} {body : Args → State → Res} (h : s.Issues t (i t))
    (hb : body (s.argsOf t (i t)) (s.committed t (i t)) = .ok s2) (hr : s2.overCount t.id = true) :
    issue s i body = .next (s.setWaiting t.id .blocked) := by
  rw [issue_eq_body h, hb]; simp [hr]

/-- A word whose body takes a trap. -/
theorem issue_trap {s : State} {t : Thread} {i : Thread → Issue} {body : Args → State → Res} {cls detail addr : Nat}
    (h : s.Issues t (i t)) (hb : body (s.argsOf t (i t)) (s.committed t (i t)) = .trap cls detail addr) :
    issue s i body = .next (s.raiseTrap t cls s.ir detail addr (some (opndOf (s.argsOf t (i t)).opnd 0))) := by
  rw [issue_eq_body h, hb]

/-- A word whose body waits at the word. -/
theorem issue_hold {s : State} {t : Thread} {i : Thread → Issue} {body : Args → State → Res} {st : TState}
    (h : s.Issues t (i t)) (hb : body (s.argsOf t (i t)) (s.committed t (i t)) = .hold st) :
    issue s i body = .next (s.setWaiting t.id st) := by
  rw [issue_eq_body h, hb]

/-- A word of a thread never stops the model. -/
theorem issue_next {s : State} {id : ThreadId} {t : Thread} (hc : s.cur = .thread id) (hf : s.thread? id = some t)
    (i : Thread → Issue) (body : Args → State → Res) : issue s i body = .next (issueThread s t (i t) body) := by
  simp [issue, hc, hf]

/-- A word of a thread's set in an access slice stops the slice (R328). -/
theorem issue_slice {s : State} {id : TeamId} (hc : s.cur = .slice id) (i : Thread → Issue) (body : Args → State → Res) :
    issue s i body = .next (s.stopSlice id clsIllegal s.ir 0) := by
  simp [issue, hc]

end Machine
end Sys2Proof
end

