-- ==== Sys2Proof/Laws/State.lean ====
section
/-! SUPPORT. What each update of the state leaves alone: one lemma per field per update, true by rfl, so that no proof unfolds a record
update; and what a lookup finds after an update. -/

namespace Sys2Proof
namespace Machine

variable (s : State)

section updThread

variable (t : ThreadId) (f : Thread → Thread)

@[simp] theorem State.updThread_caps : (s.updThread t f).caps = s.caps := rfl
@[simp] theorem State.updThread_cycles : (s.updThread t f).cycles = s.cycles := rfl
@[simp] theorem State.updThread_ctxs : (s.updThread t f).ctxs = s.ctxs := rfl
@[simp] theorem State.updThread_grids : (s.updThread t f).grids = s.grids := rfl
@[simp] theorem State.updThread_teams : (s.updThread t f).teams = s.teams := rfl
@[simp] theorem State.updThread_ops : (s.updThread t f).ops = s.ops := rfl
@[simp] theorem State.updThread_copies : (s.updThread t f).copies = s.copies := rfl
@[simp] theorem State.updThread_home : (s.updThread t f).home = s.home := rfl
@[simp] theorem State.updThread_homePoison : (s.updThread t f).homePoison = s.homePoison := rfl
@[simp] theorem State.updThread_weights : (s.updThread t f).weights = s.weights := rfl
@[simp] theorem State.updThread_weightPoison : (s.updThread t f).weightPoison = s.weightPoison := rfl
@[simp] theorem State.updThread_refresh : (s.updThread t f).refresh = s.refresh := rfl
@[simp] theorem State.updThread_slotAt : (s.updThread t f).slotAt = s.slotAt := rfl
@[simp] theorem State.updThread_l1 : (s.updThread t f).l1 = s.l1 := rfl
@[simp] theorem State.updThread_consts : (s.updThread t f).consts = s.consts := rfl
@[simp] theorem State.updThread_tlb1 : (s.updThread t f).tlb1 = s.tlb1 := rfl
@[simp] theorem State.updThread_tlb2 : (s.updThread t f).tlb2 = s.tlb2 := rfl
@[simp] theorem State.updThread_slices : (s.updThread t f).slices = s.slices := rfl
@[simp] theorem State.updThread_misses : (s.updThread t f).misses = s.misses := rfl
@[simp] theorem State.updThread_scwg : (s.updThread t f).scwg = s.scwg := rfl
@[simp] theorem State.updThread_waiters : (s.updThread t f).waiters = s.waiters := rfl
@[simp] theorem State.updThread_freed : (s.updThread t f).freed = s.freed := rfl
@[simp] theorem State.updThread_replays : (s.updThread t f).replays = s.replays := rfl
@[simp] theorem State.updThread_held : (s.updThread t f).held = s.held := rfl
@[simp] theorem State.updThread_unposted : (s.updThread t f).unposted = s.unposted := rfl
@[simp] theorem State.updThread_doneWait : (s.updThread t f).doneWait = s.doneWait := rfl
@[simp] theorem State.updThread_recs : (s.updThread t f).recs = s.recs := rfl
@[simp] theorem State.updThread_raised : (s.updThread t f).raised = s.raised := rfl
@[simp] theorem State.updThread_stsl : (s.updThread t f).stsl = s.stsl := rfl
@[simp] theorem State.updThread_stsc : (s.updThread t f).stsc = s.stsc := rfl
@[simp] theorem State.updThread_lqs : (s.updThread t f).lqs = s.lqs := rfl
@[simp] theorem State.updThread_ctls : (s.updThread t f).ctls = s.ctls := rfl
@[simp] theorem State.updThread_spills : (s.updThread t f).spills = s.spills := rfl
@[simp] theorem State.updThread_reorder : (s.updThread t f).reorder = s.reorder := rfl
@[simp] theorem State.updThread_batches : (s.updThread t f).batches = s.batches := rfl
@[simp] theorem State.updThread_svc : (s.updThread t f).svc = s.svc := rfl
@[simp] theorem State.updThread_imgSlots : (s.updThread t f).imgSlots = s.imgSlots := rfl
@[simp] theorem State.updThread_imgb : (s.updThread t f).imgb = s.imgb := rfl
@[simp] theorem State.updThread_imgc : (s.updThread t f).imgc = s.imgc := rfl
@[simp] theorem State.updThread_imgs : (s.updThread t f).imgs = s.imgs := rfl
@[simp] theorem State.updThread_islands : (s.updThread t f).islands = s.islands := rfl
@[simp] theorem State.updThread_jobs : (s.updThread t f).jobs = s.jobs := rfl
@[simp] theorem State.updThread_ridges : (s.updThread t f).ridges = s.ridges := rfl
@[simp] theorem State.updThread_boot : (s.updThread t f).boot = s.boot := rfl
@[simp] theorem State.updThread_scunp : (s.updThread t f).scunp = s.scunp := rfl
@[simp] theorem State.updThread_summitWake : (s.updThread t f).summitWake = s.summitWake := rfl
@[simp] theorem State.updThread_keys : (s.updThread t f).keys = s.keys := rfl
@[simp] theorem State.updThread_keyb : (s.updThread t f).keyb = s.keyb := rfl
@[simp] theorem State.updThread_keyc : (s.updThread t f).keyc = s.keyc := rfl
@[simp] theorem State.updThread_tdis : (s.updThread t f).tdis = s.tdis := rfl
@[simp] theorem State.updThread_certs : (s.updThread t f).certs = s.certs := rfl
@[simp] theorem State.updThread_measured : (s.updThread t f).measured = s.measured := rfl
@[simp] theorem State.updThread_levels : (s.updThread t f).levels = s.levels := rfl
@[simp] theorem State.updThread_tcnt : (s.updThread t f).tcnt = s.tcnt := rfl
@[simp] theorem State.updThread_pwlim : (s.updThread t f).pwlim = s.pwlim := rfl
@[simp] theorem State.updThread_tcsel : (s.updThread t f).tcsel = s.tcsel := rfl
@[simp] theorem State.updThread_trims : (s.updThread t f).trims = s.trims := rfl
@[simp] theorem State.updThread_packets : (s.updThread t f).packets = s.packets := rfl
@[simp] theorem State.updThread_routers : (s.updThread t f).routers = s.routers := rfl
@[simp] theorem State.updThread_retained : (s.updThread t f).retained = s.retained := rfl
@[simp] theorem State.updThread_rereqs : (s.updThread t f).rereqs = s.rereqs := rfl
@[simp] theorem State.updThread_streams : (s.updThread t f).streams = s.streams := rfl
@[simp] theorem State.updThread_outbox : (s.updThread t f).outbox = s.outbox := rfl
@[simp] theorem State.updThread_sources : (s.updThread t f).sources = s.sources := rfl
@[simp] theorem State.updThread_wires : (s.updThread t f).wires = s.wires := rfl
@[simp] theorem State.updThread_linkReplays : (s.updThread t f).linkReplays = s.linkReplays := rfl
@[simp] theorem State.updThread_ncycs : (s.updThread t f).ncycs = s.ncycs := rfl
@[simp] theorem State.updThread_pipes : (s.updThread t f).pipes = s.pipes := rfl
@[simp] theorem State.updThread_holds : (s.updThread t f).holds = s.holds := rfl
@[simp] theorem State.updThread_dealt : (s.updThread t f).dealt = s.dealt := rfl
@[simp] theorem State.updThread_picks : (s.updThread t f).picks = s.picks := rfl
@[simp] theorem State.updThread_rotors : (s.updThread t f).rotors = s.rotors := rfl
@[simp] theorem State.updThread_lqLast : (s.updThread t f).lqLast = s.lqLast := rfl
@[simp] theorem State.updThread_compacting : (s.updThread t f).compacting = s.compacting := rfl
@[simp] theorem State.updThread_nextId : (s.updThread t f).nextId = s.nextId := rfl
@[simp] theorem State.updThread_fresh : (s.updThread t f).fresh = s.fresh := rfl
@[simp] theorem State.updThread_agenda : (s.updThread t f).agenda = s.agenda := rfl
@[simp] theorem State.updThread_pick : (s.updThread t f).pick = s.pick := rfl
@[simp] theorem State.updThread_cur : (s.updThread t f).cur = s.cur := rfl
@[simp] theorem State.updThread_ir : (s.updThread t f).ir = s.ir := rfl

end updThread

section updTeam

variable (t : TeamId) (f : Team → Team)

@[simp] theorem State.updTeam_caps : (s.updTeam t f).caps = s.caps := rfl
@[simp] theorem State.updTeam_cycles : (s.updTeam t f).cycles = s.cycles := rfl
@[simp] theorem State.updTeam_ctxs : (s.updTeam t f).ctxs = s.ctxs := rfl
@[simp] theorem State.updTeam_grids : (s.updTeam t f).grids = s.grids := rfl
@[simp] theorem State.updTeam_threads : (s.updTeam t f).threads = s.threads := rfl
@[simp] theorem State.updTeam_ops : (s.updTeam t f).ops = s.ops := rfl
@[simp] theorem State.updTeam_copies : (s.updTeam t f).copies = s.copies := rfl
@[simp] theorem State.updTeam_home : (s.updTeam t f).home = s.home := rfl
@[simp] theorem State.updTeam_homePoison : (s.updTeam t f).homePoison = s.homePoison := rfl
@[simp] theorem State.updTeam_weights : (s.updTeam t f).weights = s.weights := rfl
@[simp] theorem State.updTeam_weightPoison : (s.updTeam t f).weightPoison = s.weightPoison := rfl
@[simp] theorem State.updTeam_refresh : (s.updTeam t f).refresh = s.refresh := rfl
@[simp] theorem State.updTeam_slotAt : (s.updTeam t f).slotAt = s.slotAt := rfl
@[simp] theorem State.updTeam_l1 : (s.updTeam t f).l1 = s.l1 := rfl
@[simp] theorem State.updTeam_consts : (s.updTeam t f).consts = s.consts := rfl
@[simp] theorem State.updTeam_tlb1 : (s.updTeam t f).tlb1 = s.tlb1 := rfl
@[simp] theorem State.updTeam_tlb2 : (s.updTeam t f).tlb2 = s.tlb2 := rfl
@[simp] theorem State.updTeam_slices : (s.updTeam t f).slices = s.slices := rfl
@[simp] theorem State.updTeam_misses : (s.updTeam t f).misses = s.misses := rfl
@[simp] theorem State.updTeam_scwg : (s.updTeam t f).scwg = s.scwg := rfl
@[simp] theorem State.updTeam_waiters : (s.updTeam t f).waiters = s.waiters := rfl
@[simp] theorem State.updTeam_freed : (s.updTeam t f).freed = s.freed := rfl
@[simp] theorem State.updTeam_replays : (s.updTeam t f).replays = s.replays := rfl
@[simp] theorem State.updTeam_held : (s.updTeam t f).held = s.held := rfl
@[simp] theorem State.updTeam_unposted : (s.updTeam t f).unposted = s.unposted := rfl
@[simp] theorem State.updTeam_doneWait : (s.updTeam t f).doneWait = s.doneWait := rfl
@[simp] theorem State.updTeam_recs : (s.updTeam t f).recs = s.recs := rfl
@[simp] theorem State.updTeam_raised : (s.updTeam t f).raised = s.raised := rfl
@[simp] theorem State.updTeam_stsl : (s.updTeam t f).stsl = s.stsl := rfl
@[simp] theorem State.updTeam_stsc : (s.updTeam t f).stsc = s.stsc := rfl
@[simp] theorem State.updTeam_lqs : (s.updTeam t f).lqs = s.lqs := rfl
@[simp] theorem State.updTeam_ctls : (s.updTeam t f).ctls = s.ctls := rfl
@[simp] theorem State.updTeam_spills : (s.updTeam t f).spills = s.spills := rfl
@[simp] theorem State.updTeam_reorder : (s.updTeam t f).reorder = s.reorder := rfl
@[simp] theorem State.updTeam_batches : (s.updTeam t f).batches = s.batches := rfl
@[simp] theorem State.updTeam_svc : (s.updTeam t f).svc = s.svc := rfl
@[simp] theorem State.updTeam_imgSlots : (s.updTeam t f).imgSlots = s.imgSlots := rfl
@[simp] theorem State.updTeam_imgb : (s.updTeam t f).imgb = s.imgb := rfl
@[simp] theorem State.updTeam_imgc : (s.updTeam t f).imgc = s.imgc := rfl
@[simp] theorem State.updTeam_imgs : (s.updTeam t f).imgs = s.imgs := rfl
@[simp] theorem State.updTeam_islands : (s.updTeam t f).islands = s.islands := rfl
@[simp] theorem State.updTeam_jobs : (s.updTeam t f).jobs = s.jobs := rfl
@[simp] theorem State.updTeam_ridges : (s.updTeam t f).ridges = s.ridges := rfl
@[simp] theorem State.updTeam_boot : (s.updTeam t f).boot = s.boot := rfl
@[simp] theorem State.updTeam_scunp : (s.updTeam t f).scunp = s.scunp := rfl
@[simp] theorem State.updTeam_summitWake : (s.updTeam t f).summitWake = s.summitWake := rfl
@[simp] theorem State.updTeam_keys : (s.updTeam t f).keys = s.keys := rfl
@[simp] theorem State.updTeam_keyb : (s.updTeam t f).keyb = s.keyb := rfl
@[simp] theorem State.updTeam_keyc : (s.updTeam t f).keyc = s.keyc := rfl
@[simp] theorem State.updTeam_tdis : (s.updTeam t f).tdis = s.tdis := rfl
@[simp] theorem State.updTeam_certs : (s.updTeam t f).certs = s.certs := rfl
@[simp] theorem State.updTeam_measured : (s.updTeam t f).measured = s.measured := rfl
@[simp] theorem State.updTeam_levels : (s.updTeam t f).levels = s.levels := rfl
@[simp] theorem State.updTeam_tcnt : (s.updTeam t f).tcnt = s.tcnt := rfl
@[simp] theorem State.updTeam_pwlim : (s.updTeam t f).pwlim = s.pwlim := rfl
@[simp] theorem State.updTeam_tcsel : (s.updTeam t f).tcsel = s.tcsel := rfl
@[simp] theorem State.updTeam_trims : (s.updTeam t f).trims = s.trims := rfl
@[simp] theorem State.updTeam_packets : (s.updTeam t f).packets = s.packets := rfl
@[simp] theorem State.updTeam_routers : (s.updTeam t f).routers = s.routers := rfl
@[simp] theorem State.updTeam_retained : (s.updTeam t f).retained = s.retained := rfl
@[simp] theorem State.updTeam_rereqs : (s.updTeam t f).rereqs = s.rereqs := rfl
@[simp] theorem State.updTeam_streams : (s.updTeam t f).streams = s.streams := rfl
@[simp] theorem State.updTeam_outbox : (s.updTeam t f).outbox = s.outbox := rfl
@[simp] theorem State.updTeam_sources : (s.updTeam t f).sources = s.sources := rfl
@[simp] theorem State.updTeam_wires : (s.updTeam t f).wires = s.wires := rfl
@[simp] theorem State.updTeam_linkReplays : (s.updTeam t f).linkReplays = s.linkReplays := rfl
@[simp] theorem State.updTeam_ncycs : (s.updTeam t f).ncycs = s.ncycs := rfl
@[simp] theorem State.updTeam_pipes : (s.updTeam t f).pipes = s.pipes := rfl
@[simp] theorem State.updTeam_holds : (s.updTeam t f).holds = s.holds := rfl
@[simp] theorem State.updTeam_dealt : (s.updTeam t f).dealt = s.dealt := rfl
@[simp] theorem State.updTeam_picks : (s.updTeam t f).picks = s.picks := rfl
@[simp] theorem State.updTeam_rotors : (s.updTeam t f).rotors = s.rotors := rfl
@[simp] theorem State.updTeam_lqLast : (s.updTeam t f).lqLast = s.lqLast := rfl
@[simp] theorem State.updTeam_compacting : (s.updTeam t f).compacting = s.compacting := rfl
@[simp] theorem State.updTeam_nextId : (s.updTeam t f).nextId = s.nextId := rfl
@[simp] theorem State.updTeam_fresh : (s.updTeam t f).fresh = s.fresh := rfl
@[simp] theorem State.updTeam_agenda : (s.updTeam t f).agenda = s.agenda := rfl
@[simp] theorem State.updTeam_pick : (s.updTeam t f).pick = s.pick := rfl
@[simp] theorem State.updTeam_cur : (s.updTeam t f).cur = s.cur := rfl
@[simp] theorem State.updTeam_ir : (s.updTeam t f).ir = s.ir := rfl

end updTeam

section updGrid

variable (g : GridId) (f : Grid → Grid)

@[simp] theorem State.updGrid_caps : (s.updGrid g f).caps = s.caps := rfl
@[simp] theorem State.updGrid_cycles : (s.updGrid g f).cycles = s.cycles := rfl
@[simp] theorem State.updGrid_ctxs : (s.updGrid g f).ctxs = s.ctxs := rfl
@[simp] theorem State.updGrid_teams : (s.updGrid g f).teams = s.teams := rfl
@[simp] theorem State.updGrid_threads : (s.updGrid g f).threads = s.threads := rfl
@[simp] theorem State.updGrid_ops : (s.updGrid g f).ops = s.ops := rfl
@[simp] theorem State.updGrid_copies : (s.updGrid g f).copies = s.copies := rfl
@[simp] theorem State.updGrid_home : (s.updGrid g f).home = s.home := rfl
@[simp] theorem State.updGrid_homePoison : (s.updGrid g f).homePoison = s.homePoison := rfl
@[simp] theorem State.updGrid_weights : (s.updGrid g f).weights = s.weights := rfl
@[simp] theorem State.updGrid_weightPoison : (s.updGrid g f).weightPoison = s.weightPoison := rfl
@[simp] theorem State.updGrid_refresh : (s.updGrid g f).refresh = s.refresh := rfl
@[simp] theorem State.updGrid_slotAt : (s.updGrid g f).slotAt = s.slotAt := rfl
@[simp] theorem State.updGrid_l1 : (s.updGrid g f).l1 = s.l1 := rfl
@[simp] theorem State.updGrid_consts : (s.updGrid g f).consts = s.consts := rfl
@[simp] theorem State.updGrid_tlb1 : (s.updGrid g f).tlb1 = s.tlb1 := rfl
@[simp] theorem State.updGrid_tlb2 : (s.updGrid g f).tlb2 = s.tlb2 := rfl
@[simp] theorem State.updGrid_slices : (s.updGrid g f).slices = s.slices := rfl
@[simp] theorem State.updGrid_misses : (s.updGrid g f).misses = s.misses := rfl
@[simp] theorem State.updGrid_scwg : (s.updGrid g f).scwg = s.scwg := rfl
@[simp] theorem State.updGrid_waiters : (s.updGrid g f).waiters = s.waiters := rfl
@[simp] theorem State.updGrid_freed : (s.updGrid g f).freed = s.freed := rfl
@[simp] theorem State.updGrid_replays : (s.updGrid g f).replays = s.replays := rfl
@[simp] theorem State.updGrid_held : (s.updGrid g f).held = s.held := rfl
@[simp] theorem State.updGrid_unposted : (s.updGrid g f).unposted = s.unposted := rfl
@[simp] theorem State.updGrid_doneWait : (s.updGrid g f).doneWait = s.doneWait := rfl
@[simp] theorem State.updGrid_recs : (s.updGrid g f).recs = s.recs := rfl
@[simp] theorem State.updGrid_raised : (s.updGrid g f).raised = s.raised := rfl
@[simp] theorem State.updGrid_stsl : (s.updGrid g f).stsl = s.stsl := rfl
@[simp] theorem State.updGrid_stsc : (s.updGrid g f).stsc = s.stsc := rfl
@[simp] theorem State.updGrid_lqs : (s.updGrid g f).lqs = s.lqs := rfl
@[simp] theorem State.updGrid_ctls : (s.updGrid g f).ctls = s.ctls := rfl
@[simp] theorem State.updGrid_spills : (s.updGrid g f).spills = s.spills := rfl
@[simp] theorem State.updGrid_reorder : (s.updGrid g f).reorder = s.reorder := rfl
@[simp] theorem State.updGrid_batches : (s.updGrid g f).batches = s.batches := rfl
@[simp] theorem State.updGrid_svc : (s.updGrid g f).svc = s.svc := rfl
@[simp] theorem State.updGrid_imgSlots : (s.updGrid g f).imgSlots = s.imgSlots := rfl
@[simp] theorem State.updGrid_imgb : (s.updGrid g f).imgb = s.imgb := rfl
@[simp] theorem State.updGrid_imgc : (s.updGrid g f).imgc = s.imgc := rfl
@[simp] theorem State.updGrid_imgs : (s.updGrid g f).imgs = s.imgs := rfl
@[simp] theorem State.updGrid_islands : (s.updGrid g f).islands = s.islands := rfl
@[simp] theorem State.updGrid_jobs : (s.updGrid g f).jobs = s.jobs := rfl
@[simp] theorem State.updGrid_ridges : (s.updGrid g f).ridges = s.ridges := rfl
@[simp] theorem State.updGrid_boot : (s.updGrid g f).boot = s.boot := rfl
@[simp] theorem State.updGrid_scunp : (s.updGrid g f).scunp = s.scunp := rfl
@[simp] theorem State.updGrid_summitWake : (s.updGrid g f).summitWake = s.summitWake := rfl
@[simp] theorem State.updGrid_keys : (s.updGrid g f).keys = s.keys := rfl
@[simp] theorem State.updGrid_keyb : (s.updGrid g f).keyb = s.keyb := rfl
@[simp] theorem State.updGrid_keyc : (s.updGrid g f).keyc = s.keyc := rfl
@[simp] theorem State.updGrid_tdis : (s.updGrid g f).tdis = s.tdis := rfl
@[simp] theorem State.updGrid_certs : (s.updGrid g f).certs = s.certs := rfl
@[simp] theorem State.updGrid_measured : (s.updGrid g f).measured = s.measured := rfl
@[simp] theorem State.updGrid_levels : (s.updGrid g f).levels = s.levels := rfl
@[simp] theorem State.updGrid_tcnt : (s.updGrid g f).tcnt = s.tcnt := rfl
@[simp] theorem State.updGrid_pwlim : (s.updGrid g f).pwlim = s.pwlim := rfl
@[simp] theorem State.updGrid_tcsel : (s.updGrid g f).tcsel = s.tcsel := rfl
@[simp] theorem State.updGrid_trims : (s.updGrid g f).trims = s.trims := rfl
@[simp] theorem State.updGrid_packets : (s.updGrid g f).packets = s.packets := rfl
@[simp] theorem State.updGrid_routers : (s.updGrid g f).routers = s.routers := rfl
@[simp] theorem State.updGrid_retained : (s.updGrid g f).retained = s.retained := rfl
@[simp] theorem State.updGrid_rereqs : (s.updGrid g f).rereqs = s.rereqs := rfl
@[simp] theorem State.updGrid_streams : (s.updGrid g f).streams = s.streams := rfl
@[simp] theorem State.updGrid_outbox : (s.updGrid g f).outbox = s.outbox := rfl
@[simp] theorem State.updGrid_sources : (s.updGrid g f).sources = s.sources := rfl
@[simp] theorem State.updGrid_wires : (s.updGrid g f).wires = s.wires := rfl
@[simp] theorem State.updGrid_linkReplays : (s.updGrid g f).linkReplays = s.linkReplays := rfl
@[simp] theorem State.updGrid_ncycs : (s.updGrid g f).ncycs = s.ncycs := rfl
@[simp] theorem State.updGrid_pipes : (s.updGrid g f).pipes = s.pipes := rfl
@[simp] theorem State.updGrid_holds : (s.updGrid g f).holds = s.holds := rfl
@[simp] theorem State.updGrid_dealt : (s.updGrid g f).dealt = s.dealt := rfl
@[simp] theorem State.updGrid_picks : (s.updGrid g f).picks = s.picks := rfl
@[simp] theorem State.updGrid_rotors : (s.updGrid g f).rotors = s.rotors := rfl
@[simp] theorem State.updGrid_lqLast : (s.updGrid g f).lqLast = s.lqLast := rfl
@[simp] theorem State.updGrid_compacting : (s.updGrid g f).compacting = s.compacting := rfl
@[simp] theorem State.updGrid_nextId : (s.updGrid g f).nextId = s.nextId := rfl
@[simp] theorem State.updGrid_fresh : (s.updGrid g f).fresh = s.fresh := rfl
@[simp] theorem State.updGrid_agenda : (s.updGrid g f).agenda = s.agenda := rfl
@[simp] theorem State.updGrid_pick : (s.updGrid g f).pick = s.pick := rfl
@[simp] theorem State.updGrid_cur : (s.updGrid g f).cur = s.cur := rfl
@[simp] theorem State.updGrid_ir : (s.updGrid g f).ir = s.ir := rfl

end updGrid

section updCtx

variable (c : Nat) (f : Ctx → Ctx)

@[simp] theorem State.updCtx_caps : (s.updCtx c f).caps = s.caps := rfl
@[simp] theorem State.updCtx_cycles : (s.updCtx c f).cycles = s.cycles := rfl
@[simp] theorem State.updCtx_grids : (s.updCtx c f).grids = s.grids := rfl
@[simp] theorem State.updCtx_teams : (s.updCtx c f).teams = s.teams := rfl
@[simp] theorem State.updCtx_threads : (s.updCtx c f).threads = s.threads := rfl
@[simp] theorem State.updCtx_ops : (s.updCtx c f).ops = s.ops := rfl
@[simp] theorem State.updCtx_copies : (s.updCtx c f).copies = s.copies := rfl
@[simp] theorem State.updCtx_home : (s.updCtx c f).home = s.home := rfl
@[simp] theorem State.updCtx_homePoison : (s.updCtx c f).homePoison = s.homePoison := rfl
@[simp] theorem State.updCtx_weights : (s.updCtx c f).weights = s.weights := rfl
@[simp] theorem State.updCtx_weightPoison : (s.updCtx c f).weightPoison = s.weightPoison := rfl
@[simp] theorem State.updCtx_refresh : (s.updCtx c f).refresh = s.refresh := rfl
@[simp] theorem State.updCtx_slotAt : (s.updCtx c f).slotAt = s.slotAt := rfl
@[simp] theorem State.updCtx_l1 : (s.updCtx c f).l1 = s.l1 := rfl
@[simp] theorem State.updCtx_consts : (s.updCtx c f).consts = s.consts := rfl
@[simp] theorem State.updCtx_tlb1 : (s.updCtx c f).tlb1 = s.tlb1 := rfl
@[simp] theorem State.updCtx_tlb2 : (s.updCtx c f).tlb2 = s.tlb2 := rfl
@[simp] theorem State.updCtx_slices : (s.updCtx c f).slices = s.slices := rfl
@[simp] theorem State.updCtx_misses : (s.updCtx c f).misses = s.misses := rfl
@[simp] theorem State.updCtx_scwg : (s.updCtx c f).scwg = s.scwg := rfl
@[simp] theorem State.updCtx_waiters : (s.updCtx c f).waiters = s.waiters := rfl
@[simp] theorem State.updCtx_freed : (s.updCtx c f).freed = s.freed := rfl
@[simp] theorem State.updCtx_replays : (s.updCtx c f).replays = s.replays := rfl
@[simp] theorem State.updCtx_held : (s.updCtx c f).held = s.held := rfl
@[simp] theorem State.updCtx_unposted : (s.updCtx c f).unposted = s.unposted := rfl
@[simp] theorem State.updCtx_doneWait : (s.updCtx c f).doneWait = s.doneWait := rfl
@[simp] theorem State.updCtx_recs : (s.updCtx c f).recs = s.recs := rfl
@[simp] theorem State.updCtx_raised : (s.updCtx c f).raised = s.raised := rfl
@[simp] theorem State.updCtx_stsl : (s.updCtx c f).stsl = s.stsl := rfl
@[simp] theorem State.updCtx_stsc : (s.updCtx c f).stsc = s.stsc := rfl
@[simp] theorem State.updCtx_lqs : (s.updCtx c f).lqs = s.lqs := rfl
@[simp] theorem State.updCtx_ctls : (s.updCtx c f).ctls = s.ctls := rfl
@[simp] theorem State.updCtx_spills : (s.updCtx c f).spills = s.spills := rfl
@[simp] theorem State.updCtx_reorder : (s.updCtx c f).reorder = s.reorder := rfl
@[simp] theorem State.updCtx_batches : (s.updCtx c f).batches = s.batches := rfl
@[simp] theorem State.updCtx_svc : (s.updCtx c f).svc = s.svc := rfl
@[simp] theorem State.updCtx_imgSlots : (s.updCtx c f).imgSlots = s.imgSlots := rfl
@[simp] theorem State.updCtx_imgb : (s.updCtx c f).imgb = s.imgb := rfl
@[simp] theorem State.updCtx_imgc : (s.updCtx c f).imgc = s.imgc := rfl
@[simp] theorem State.updCtx_imgs : (s.updCtx c f).imgs = s.imgs := rfl
@[simp] theorem State.updCtx_islands : (s.updCtx c f).islands = s.islands := rfl
@[simp] theorem State.updCtx_jobs : (s.updCtx c f).jobs = s.jobs := rfl
@[simp] theorem State.updCtx_ridges : (s.updCtx c f).ridges = s.ridges := rfl
@[simp] theorem State.updCtx_boot : (s.updCtx c f).boot = s.boot := rfl
@[simp] theorem State.updCtx_scunp : (s.updCtx c f).scunp = s.scunp := rfl
@[simp] theorem State.updCtx_summitWake : (s.updCtx c f).summitWake = s.summitWake := rfl
@[simp] theorem State.updCtx_keys : (s.updCtx c f).keys = s.keys := rfl
@[simp] theorem State.updCtx_keyb : (s.updCtx c f).keyb = s.keyb := rfl
@[simp] theorem State.updCtx_keyc : (s.updCtx c f).keyc = s.keyc := rfl
@[simp] theorem State.updCtx_tdis : (s.updCtx c f).tdis = s.tdis := rfl
@[simp] theorem State.updCtx_certs : (s.updCtx c f).certs = s.certs := rfl
@[simp] theorem State.updCtx_measured : (s.updCtx c f).measured = s.measured := rfl
@[simp] theorem State.updCtx_levels : (s.updCtx c f).levels = s.levels := rfl
@[simp] theorem State.updCtx_tcnt : (s.updCtx c f).tcnt = s.tcnt := rfl
@[simp] theorem State.updCtx_pwlim : (s.updCtx c f).pwlim = s.pwlim := rfl
@[simp] theorem State.updCtx_tcsel : (s.updCtx c f).tcsel = s.tcsel := rfl
@[simp] theorem State.updCtx_trims : (s.updCtx c f).trims = s.trims := rfl
@[simp] theorem State.updCtx_packets : (s.updCtx c f).packets = s.packets := rfl
@[simp] theorem State.updCtx_routers : (s.updCtx c f).routers = s.routers := rfl
@[simp] theorem State.updCtx_retained : (s.updCtx c f).retained = s.retained := rfl
@[simp] theorem State.updCtx_rereqs : (s.updCtx c f).rereqs = s.rereqs := rfl
@[simp] theorem State.updCtx_streams : (s.updCtx c f).streams = s.streams := rfl
@[simp] theorem State.updCtx_outbox : (s.updCtx c f).outbox = s.outbox := rfl
@[simp] theorem State.updCtx_sources : (s.updCtx c f).sources = s.sources := rfl
@[simp] theorem State.updCtx_wires : (s.updCtx c f).wires = s.wires := rfl
@[simp] theorem State.updCtx_linkReplays : (s.updCtx c f).linkReplays = s.linkReplays := rfl
@[simp] theorem State.updCtx_ncycs : (s.updCtx c f).ncycs = s.ncycs := rfl
@[simp] theorem State.updCtx_pipes : (s.updCtx c f).pipes = s.pipes := rfl
@[simp] theorem State.updCtx_holds : (s.updCtx c f).holds = s.holds := rfl
@[simp] theorem State.updCtx_dealt : (s.updCtx c f).dealt = s.dealt := rfl
@[simp] theorem State.updCtx_picks : (s.updCtx c f).picks = s.picks := rfl
@[simp] theorem State.updCtx_rotors : (s.updCtx c f).rotors = s.rotors := rfl
@[simp] theorem State.updCtx_lqLast : (s.updCtx c f).lqLast = s.lqLast := rfl
@[simp] theorem State.updCtx_compacting : (s.updCtx c f).compacting = s.compacting := rfl
@[simp] theorem State.updCtx_nextId : (s.updCtx c f).nextId = s.nextId := rfl
@[simp] theorem State.updCtx_fresh : (s.updCtx c f).fresh = s.fresh := rfl
@[simp] theorem State.updCtx_agenda : (s.updCtx c f).agenda = s.agenda := rfl
@[simp] theorem State.updCtx_pick : (s.updCtx c f).pick = s.pick := rfl
@[simp] theorem State.updCtx_cur : (s.updCtx c f).cur = s.cur := rfl
@[simp] theorem State.updCtx_ir : (s.updCtx c f).ir = s.ir := rfl

end updCtx

section updOp

variable (o : Nat) (f : Op → Op)

@[simp] theorem State.updOp_caps : (s.updOp o f).caps = s.caps := rfl
@[simp] theorem State.updOp_cycles : (s.updOp o f).cycles = s.cycles := rfl
@[simp] theorem State.updOp_ctxs : (s.updOp o f).ctxs = s.ctxs := rfl
@[simp] theorem State.updOp_grids : (s.updOp o f).grids = s.grids := rfl
@[simp] theorem State.updOp_teams : (s.updOp o f).teams = s.teams := rfl
@[simp] theorem State.updOp_threads : (s.updOp o f).threads = s.threads := rfl
@[simp] theorem State.updOp_copies : (s.updOp o f).copies = s.copies := rfl
@[simp] theorem State.updOp_home : (s.updOp o f).home = s.home := rfl
@[simp] theorem State.updOp_homePoison : (s.updOp o f).homePoison = s.homePoison := rfl
@[simp] theorem State.updOp_weights : (s.updOp o f).weights = s.weights := rfl
@[simp] theorem State.updOp_weightPoison : (s.updOp o f).weightPoison = s.weightPoison := rfl
@[simp] theorem State.updOp_refresh : (s.updOp o f).refresh = s.refresh := rfl
@[simp] theorem State.updOp_slotAt : (s.updOp o f).slotAt = s.slotAt := rfl
@[simp] theorem State.updOp_l1 : (s.updOp o f).l1 = s.l1 := rfl
@[simp] theorem State.updOp_consts : (s.updOp o f).consts = s.consts := rfl
@[simp] theorem State.updOp_tlb1 : (s.updOp o f).tlb1 = s.tlb1 := rfl
@[simp] theorem State.updOp_tlb2 : (s.updOp o f).tlb2 = s.tlb2 := rfl
@[simp] theorem State.updOp_slices : (s.updOp o f).slices = s.slices := rfl
@[simp] theorem State.updOp_misses : (s.updOp o f).misses = s.misses := rfl
@[simp] theorem State.updOp_scwg : (s.updOp o f).scwg = s.scwg := rfl
@[simp] theorem State.updOp_waiters : (s.updOp o f).waiters = s.waiters := rfl
@[simp] theorem State.updOp_freed : (s.updOp o f).freed = s.freed := rfl
@[simp] theorem State.updOp_replays : (s.updOp o f).replays = s.replays := rfl
@[simp] theorem State.updOp_held : (s.updOp o f).held = s.held := rfl
@[simp] theorem State.updOp_unposted : (s.updOp o f).unposted = s.unposted := rfl
@[simp] theorem State.updOp_doneWait : (s.updOp o f).doneWait = s.doneWait := rfl
@[simp] theorem State.updOp_recs : (s.updOp o f).recs = s.recs := rfl
@[simp] theorem State.updOp_raised : (s.updOp o f).raised = s.raised := rfl
@[simp] theorem State.updOp_stsl : (s.updOp o f).stsl = s.stsl := rfl
@[simp] theorem State.updOp_stsc : (s.updOp o f).stsc = s.stsc := rfl
@[simp] theorem State.updOp_lqs : (s.updOp o f).lqs = s.lqs := rfl
@[simp] theorem State.updOp_ctls : (s.updOp o f).ctls = s.ctls := rfl
@[simp] theorem State.updOp_spills : (s.updOp o f).spills = s.spills := rfl
@[simp] theorem State.updOp_reorder : (s.updOp o f).reorder = s.reorder := rfl
@[simp] theorem State.updOp_batches : (s.updOp o f).batches = s.batches := rfl
@[simp] theorem State.updOp_svc : (s.updOp o f).svc = s.svc := rfl
@[simp] theorem State.updOp_imgSlots : (s.updOp o f).imgSlots = s.imgSlots := rfl
@[simp] theorem State.updOp_imgb : (s.updOp o f).imgb = s.imgb := rfl
@[simp] theorem State.updOp_imgc : (s.updOp o f).imgc = s.imgc := rfl
@[simp] theorem State.updOp_imgs : (s.updOp o f).imgs = s.imgs := rfl
@[simp] theorem State.updOp_islands : (s.updOp o f).islands = s.islands := rfl
@[simp] theorem State.updOp_jobs : (s.updOp o f).jobs = s.jobs := rfl
@[simp] theorem State.updOp_ridges : (s.updOp o f).ridges = s.ridges := rfl
@[simp] theorem State.updOp_boot : (s.updOp o f).boot = s.boot := rfl
@[simp] theorem State.updOp_scunp : (s.updOp o f).scunp = s.scunp := rfl
@[simp] theorem State.updOp_summitWake : (s.updOp o f).summitWake = s.summitWake := rfl
@[simp] theorem State.updOp_keys : (s.updOp o f).keys = s.keys := rfl
@[simp] theorem State.updOp_keyb : (s.updOp o f).keyb = s.keyb := rfl
@[simp] theorem State.updOp_keyc : (s.updOp o f).keyc = s.keyc := rfl
@[simp] theorem State.updOp_tdis : (s.updOp o f).tdis = s.tdis := rfl
@[simp] theorem State.updOp_certs : (s.updOp o f).certs = s.certs := rfl
@[simp] theorem State.updOp_measured : (s.updOp o f).measured = s.measured := rfl
@[simp] theorem State.updOp_levels : (s.updOp o f).levels = s.levels := rfl
@[simp] theorem State.updOp_tcnt : (s.updOp o f).tcnt = s.tcnt := rfl
@[simp] theorem State.updOp_pwlim : (s.updOp o f).pwlim = s.pwlim := rfl
@[simp] theorem State.updOp_tcsel : (s.updOp o f).tcsel = s.tcsel := rfl
@[simp] theorem State.updOp_trims : (s.updOp o f).trims = s.trims := rfl
@[simp] theorem State.updOp_packets : (s.updOp o f).packets = s.packets := rfl
@[simp] theorem State.updOp_routers : (s.updOp o f).routers = s.routers := rfl
@[simp] theorem State.updOp_retained : (s.updOp o f).retained = s.retained := rfl
@[simp] theorem State.updOp_rereqs : (s.updOp o f).rereqs = s.rereqs := rfl
@[simp] theorem State.updOp_streams : (s.updOp o f).streams = s.streams := rfl
@[simp] theorem State.updOp_outbox : (s.updOp o f).outbox = s.outbox := rfl
@[simp] theorem State.updOp_sources : (s.updOp o f).sources = s.sources := rfl
@[simp] theorem State.updOp_wires : (s.updOp o f).wires = s.wires := rfl
@[simp] theorem State.updOp_linkReplays : (s.updOp o f).linkReplays = s.linkReplays := rfl
@[simp] theorem State.updOp_ncycs : (s.updOp o f).ncycs = s.ncycs := rfl
@[simp] theorem State.updOp_pipes : (s.updOp o f).pipes = s.pipes := rfl
@[simp] theorem State.updOp_holds : (s.updOp o f).holds = s.holds := rfl
@[simp] theorem State.updOp_dealt : (s.updOp o f).dealt = s.dealt := rfl
@[simp] theorem State.updOp_picks : (s.updOp o f).picks = s.picks := rfl
@[simp] theorem State.updOp_rotors : (s.updOp o f).rotors = s.rotors := rfl
@[simp] theorem State.updOp_lqLast : (s.updOp o f).lqLast = s.lqLast := rfl
@[simp] theorem State.updOp_compacting : (s.updOp o f).compacting = s.compacting := rfl
@[simp] theorem State.updOp_nextId : (s.updOp o f).nextId = s.nextId := rfl
@[simp] theorem State.updOp_fresh : (s.updOp o f).fresh = s.fresh := rfl
@[simp] theorem State.updOp_agenda : (s.updOp o f).agenda = s.agenda := rfl
@[simp] theorem State.updOp_pick : (s.updOp o f).pick = s.pick := rfl
@[simp] theorem State.updOp_cur : (s.updOp o f).cur = s.cur := rfl
@[simp] theorem State.updOp_ir : (s.updOp o f).ir = s.ir := rfl

end updOp

section dropOp

variable (o : Nat)

@[simp] theorem State.dropOp_caps : (s.dropOp o).caps = s.caps := rfl
@[simp] theorem State.dropOp_cycles : (s.dropOp o).cycles = s.cycles := rfl
@[simp] theorem State.dropOp_ctxs : (s.dropOp o).ctxs = s.ctxs := rfl
@[simp] theorem State.dropOp_grids : (s.dropOp o).grids = s.grids := rfl
@[simp] theorem State.dropOp_teams : (s.dropOp o).teams = s.teams := rfl
@[simp] theorem State.dropOp_threads : (s.dropOp o).threads = s.threads := rfl
@[simp] theorem State.dropOp_copies : (s.dropOp o).copies = s.copies := rfl
@[simp] theorem State.dropOp_home : (s.dropOp o).home = s.home := rfl
@[simp] theorem State.dropOp_homePoison : (s.dropOp o).homePoison = s.homePoison := rfl
@[simp] theorem State.dropOp_weights : (s.dropOp o).weights = s.weights := rfl
@[simp] theorem State.dropOp_weightPoison : (s.dropOp o).weightPoison = s.weightPoison := rfl
@[simp] theorem State.dropOp_refresh : (s.dropOp o).refresh = s.refresh := rfl
@[simp] theorem State.dropOp_slotAt : (s.dropOp o).slotAt = s.slotAt := rfl
@[simp] theorem State.dropOp_l1 : (s.dropOp o).l1 = s.l1 := rfl
@[simp] theorem State.dropOp_consts : (s.dropOp o).consts = s.consts := rfl
@[simp] theorem State.dropOp_tlb1 : (s.dropOp o).tlb1 = s.tlb1 := rfl
@[simp] theorem State.dropOp_tlb2 : (s.dropOp o).tlb2 = s.tlb2 := rfl
@[simp] theorem State.dropOp_slices : (s.dropOp o).slices = s.slices := rfl
@[simp] theorem State.dropOp_misses : (s.dropOp o).misses = s.misses := rfl
@[simp] theorem State.dropOp_scwg : (s.dropOp o).scwg = s.scwg := rfl
@[simp] theorem State.dropOp_waiters : (s.dropOp o).waiters = s.waiters := rfl
@[simp] theorem State.dropOp_freed : (s.dropOp o).freed = s.freed := rfl
@[simp] theorem State.dropOp_replays : (s.dropOp o).replays = s.replays := rfl
@[simp] theorem State.dropOp_held : (s.dropOp o).held = s.held := rfl
@[simp] theorem State.dropOp_unposted : (s.dropOp o).unposted = s.unposted := rfl
@[simp] theorem State.dropOp_doneWait : (s.dropOp o).doneWait = s.doneWait := rfl
@[simp] theorem State.dropOp_recs : (s.dropOp o).recs = s.recs := rfl
@[simp] theorem State.dropOp_raised : (s.dropOp o).raised = s.raised := rfl
@[simp] theorem State.dropOp_stsl : (s.dropOp o).stsl = s.stsl := rfl
@[simp] theorem State.dropOp_stsc : (s.dropOp o).stsc = s.stsc := rfl
@[simp] theorem State.dropOp_lqs : (s.dropOp o).lqs = s.lqs := rfl
@[simp] theorem State.dropOp_ctls : (s.dropOp o).ctls = s.ctls := rfl
@[simp] theorem State.dropOp_spills : (s.dropOp o).spills = s.spills := rfl
@[simp] theorem State.dropOp_reorder : (s.dropOp o).reorder = s.reorder := rfl
@[simp] theorem State.dropOp_batches : (s.dropOp o).batches = s.batches := rfl
@[simp] theorem State.dropOp_svc : (s.dropOp o).svc = s.svc := rfl
@[simp] theorem State.dropOp_imgSlots : (s.dropOp o).imgSlots = s.imgSlots := rfl
@[simp] theorem State.dropOp_imgb : (s.dropOp o).imgb = s.imgb := rfl
@[simp] theorem State.dropOp_imgc : (s.dropOp o).imgc = s.imgc := rfl
@[simp] theorem State.dropOp_imgs : (s.dropOp o).imgs = s.imgs := rfl
@[simp] theorem State.dropOp_islands : (s.dropOp o).islands = s.islands := rfl
@[simp] theorem State.dropOp_jobs : (s.dropOp o).jobs = s.jobs := rfl
@[simp] theorem State.dropOp_ridges : (s.dropOp o).ridges = s.ridges := rfl
@[simp] theorem State.dropOp_boot : (s.dropOp o).boot = s.boot := rfl
@[simp] theorem State.dropOp_scunp : (s.dropOp o).scunp = s.scunp := rfl
@[simp] theorem State.dropOp_summitWake : (s.dropOp o).summitWake = s.summitWake := rfl
@[simp] theorem State.dropOp_keys : (s.dropOp o).keys = s.keys := rfl
@[simp] theorem State.dropOp_keyb : (s.dropOp o).keyb = s.keyb := rfl
@[simp] theorem State.dropOp_keyc : (s.dropOp o).keyc = s.keyc := rfl
@[simp] theorem State.dropOp_tdis : (s.dropOp o).tdis = s.tdis := rfl
@[simp] theorem State.dropOp_certs : (s.dropOp o).certs = s.certs := rfl
@[simp] theorem State.dropOp_measured : (s.dropOp o).measured = s.measured := rfl
@[simp] theorem State.dropOp_levels : (s.dropOp o).levels = s.levels := rfl
@[simp] theorem State.dropOp_tcnt : (s.dropOp o).tcnt = s.tcnt := rfl
@[simp] theorem State.dropOp_pwlim : (s.dropOp o).pwlim = s.pwlim := rfl
@[simp] theorem State.dropOp_tcsel : (s.dropOp o).tcsel = s.tcsel := rfl
@[simp] theorem State.dropOp_trims : (s.dropOp o).trims = s.trims := rfl
@[simp] theorem State.dropOp_packets : (s.dropOp o).packets = s.packets := rfl
@[simp] theorem State.dropOp_routers : (s.dropOp o).routers = s.routers := rfl
@[simp] theorem State.dropOp_retained : (s.dropOp o).retained = s.retained := rfl
@[simp] theorem State.dropOp_rereqs : (s.dropOp o).rereqs = s.rereqs := rfl
@[simp] theorem State.dropOp_streams : (s.dropOp o).streams = s.streams := rfl
@[simp] theorem State.dropOp_outbox : (s.dropOp o).outbox = s.outbox := rfl
@[simp] theorem State.dropOp_sources : (s.dropOp o).sources = s.sources := rfl
@[simp] theorem State.dropOp_wires : (s.dropOp o).wires = s.wires := rfl
@[simp] theorem State.dropOp_linkReplays : (s.dropOp o).linkReplays = s.linkReplays := rfl
@[simp] theorem State.dropOp_ncycs : (s.dropOp o).ncycs = s.ncycs := rfl
@[simp] theorem State.dropOp_pipes : (s.dropOp o).pipes = s.pipes := rfl
@[simp] theorem State.dropOp_holds : (s.dropOp o).holds = s.holds := rfl
@[simp] theorem State.dropOp_dealt : (s.dropOp o).dealt = s.dealt := rfl
@[simp] theorem State.dropOp_picks : (s.dropOp o).picks = s.picks := rfl
@[simp] theorem State.dropOp_rotors : (s.dropOp o).rotors = s.rotors := rfl
@[simp] theorem State.dropOp_lqLast : (s.dropOp o).lqLast = s.lqLast := rfl
@[simp] theorem State.dropOp_compacting : (s.dropOp o).compacting = s.compacting := rfl
@[simp] theorem State.dropOp_nextId : (s.dropOp o).nextId = s.nextId := rfl
@[simp] theorem State.dropOp_fresh : (s.dropOp o).fresh = s.fresh := rfl
@[simp] theorem State.dropOp_agenda : (s.dropOp o).agenda = s.agenda := rfl
@[simp] theorem State.dropOp_pick : (s.dropOp o).pick = s.pick := rfl
@[simp] theorem State.dropOp_cur : (s.dropOp o).cur = s.cur := rfl
@[simp] theorem State.dropOp_ir : (s.dropOp o).ir = s.ir := rfl

end dropOp

section addOp

variable (o : Op)

@[simp] theorem State.addOp_caps : (s.addOp o).caps = s.caps := rfl
@[simp] theorem State.addOp_cycles : (s.addOp o).cycles = s.cycles := rfl
@[simp] theorem State.addOp_ctxs : (s.addOp o).ctxs = s.ctxs := rfl
@[simp] theorem State.addOp_grids : (s.addOp o).grids = s.grids := rfl
@[simp] theorem State.addOp_teams : (s.addOp o).teams = s.teams := rfl
@[simp] theorem State.addOp_threads : (s.addOp o).threads = s.threads := rfl
@[simp] theorem State.addOp_copies : (s.addOp o).copies = s.copies := rfl
@[simp] theorem State.addOp_home : (s.addOp o).home = s.home := rfl
@[simp] theorem State.addOp_homePoison : (s.addOp o).homePoison = s.homePoison := rfl
@[simp] theorem State.addOp_weights : (s.addOp o).weights = s.weights := rfl
@[simp] theorem State.addOp_weightPoison : (s.addOp o).weightPoison = s.weightPoison := rfl
@[simp] theorem State.addOp_refresh : (s.addOp o).refresh = s.refresh := rfl
@[simp] theorem State.addOp_slotAt : (s.addOp o).slotAt = s.slotAt := rfl
@[simp] theorem State.addOp_l1 : (s.addOp o).l1 = s.l1 := rfl
@[simp] theorem State.addOp_consts : (s.addOp o).consts = s.consts := rfl
@[simp] theorem State.addOp_tlb1 : (s.addOp o).tlb1 = s.tlb1 := rfl
@[simp] theorem State.addOp_tlb2 : (s.addOp o).tlb2 = s.tlb2 := rfl
@[simp] theorem State.addOp_slices : (s.addOp o).slices = s.slices := rfl
@[simp] theorem State.addOp_misses : (s.addOp o).misses = s.misses := rfl
@[simp] theorem State.addOp_scwg : (s.addOp o).scwg = s.scwg := rfl
@[simp] theorem State.addOp_waiters : (s.addOp o).waiters = s.waiters := rfl
@[simp] theorem State.addOp_freed : (s.addOp o).freed = s.freed := rfl
@[simp] theorem State.addOp_replays : (s.addOp o).replays = s.replays := rfl
@[simp] theorem State.addOp_held : (s.addOp o).held = s.held := rfl
@[simp] theorem State.addOp_unposted : (s.addOp o).unposted = s.unposted := rfl
@[simp] theorem State.addOp_doneWait : (s.addOp o).doneWait = s.doneWait := rfl
@[simp] theorem State.addOp_recs : (s.addOp o).recs = s.recs := rfl
@[simp] theorem State.addOp_raised : (s.addOp o).raised = s.raised := rfl
@[simp] theorem State.addOp_stsl : (s.addOp o).stsl = s.stsl := rfl
@[simp] theorem State.addOp_stsc : (s.addOp o).stsc = s.stsc := rfl
@[simp] theorem State.addOp_lqs : (s.addOp o).lqs = s.lqs := rfl
@[simp] theorem State.addOp_ctls : (s.addOp o).ctls = s.ctls := rfl
@[simp] theorem State.addOp_spills : (s.addOp o).spills = s.spills := rfl
@[simp] theorem State.addOp_reorder : (s.addOp o).reorder = s.reorder := rfl
@[simp] theorem State.addOp_batches : (s.addOp o).batches = s.batches := rfl
@[simp] theorem State.addOp_svc : (s.addOp o).svc = s.svc := rfl
@[simp] theorem State.addOp_imgSlots : (s.addOp o).imgSlots = s.imgSlots := rfl
@[simp] theorem State.addOp_imgb : (s.addOp o).imgb = s.imgb := rfl
@[simp] theorem State.addOp_imgc : (s.addOp o).imgc = s.imgc := rfl
@[simp] theorem State.addOp_imgs : (s.addOp o).imgs = s.imgs := rfl
@[simp] theorem State.addOp_islands : (s.addOp o).islands = s.islands := rfl
@[simp] theorem State.addOp_jobs : (s.addOp o).jobs = s.jobs := rfl
@[simp] theorem State.addOp_ridges : (s.addOp o).ridges = s.ridges := rfl
@[simp] theorem State.addOp_boot : (s.addOp o).boot = s.boot := rfl
@[simp] theorem State.addOp_scunp : (s.addOp o).scunp = s.scunp := rfl
@[simp] theorem State.addOp_summitWake : (s.addOp o).summitWake = s.summitWake := rfl
@[simp] theorem State.addOp_keys : (s.addOp o).keys = s.keys := rfl
@[simp] theorem State.addOp_keyb : (s.addOp o).keyb = s.keyb := rfl
@[simp] theorem State.addOp_keyc : (s.addOp o).keyc = s.keyc := rfl
@[simp] theorem State.addOp_tdis : (s.addOp o).tdis = s.tdis := rfl
@[simp] theorem State.addOp_certs : (s.addOp o).certs = s.certs := rfl
@[simp] theorem State.addOp_measured : (s.addOp o).measured = s.measured := rfl
@[simp] theorem State.addOp_levels : (s.addOp o).levels = s.levels := rfl
@[simp] theorem State.addOp_tcnt : (s.addOp o).tcnt = s.tcnt := rfl
@[simp] theorem State.addOp_pwlim : (s.addOp o).pwlim = s.pwlim := rfl
@[simp] theorem State.addOp_tcsel : (s.addOp o).tcsel = s.tcsel := rfl
@[simp] theorem State.addOp_trims : (s.addOp o).trims = s.trims := rfl
@[simp] theorem State.addOp_packets : (s.addOp o).packets = s.packets := rfl
@[simp] theorem State.addOp_routers : (s.addOp o).routers = s.routers := rfl
@[simp] theorem State.addOp_retained : (s.addOp o).retained = s.retained := rfl
@[simp] theorem State.addOp_rereqs : (s.addOp o).rereqs = s.rereqs := rfl
@[simp] theorem State.addOp_streams : (s.addOp o).streams = s.streams := rfl
@[simp] theorem State.addOp_outbox : (s.addOp o).outbox = s.outbox := rfl
@[simp] theorem State.addOp_sources : (s.addOp o).sources = s.sources := rfl
@[simp] theorem State.addOp_wires : (s.addOp o).wires = s.wires := rfl
@[simp] theorem State.addOp_linkReplays : (s.addOp o).linkReplays = s.linkReplays := rfl
@[simp] theorem State.addOp_ncycs : (s.addOp o).ncycs = s.ncycs := rfl
@[simp] theorem State.addOp_pipes : (s.addOp o).pipes = s.pipes := rfl
@[simp] theorem State.addOp_holds : (s.addOp o).holds = s.holds := rfl
@[simp] theorem State.addOp_dealt : (s.addOp o).dealt = s.dealt := rfl
@[simp] theorem State.addOp_picks : (s.addOp o).picks = s.picks := rfl
@[simp] theorem State.addOp_rotors : (s.addOp o).rotors = s.rotors := rfl
@[simp] theorem State.addOp_lqLast : (s.addOp o).lqLast = s.lqLast := rfl
@[simp] theorem State.addOp_compacting : (s.addOp o).compacting = s.compacting := rfl
@[simp] theorem State.addOp_fresh : (s.addOp o).fresh = s.fresh := rfl
@[simp] theorem State.addOp_agenda : (s.addOp o).agenda = s.agenda := rfl
@[simp] theorem State.addOp_pick : (s.addOp o).pick = s.pick := rfl
@[simp] theorem State.addOp_cur : (s.addOp o).cur = s.cur := rfl
@[simp] theorem State.addOp_ir : (s.addOp o).ir = s.ir := rfl

end addOp

section updCopy

variable (c : Nat) (f : Copy → Copy)

@[simp] theorem State.updCopy_caps : (s.updCopy c f).caps = s.caps := rfl
@[simp] theorem State.updCopy_cycles : (s.updCopy c f).cycles = s.cycles := rfl
@[simp] theorem State.updCopy_ctxs : (s.updCopy c f).ctxs = s.ctxs := rfl
@[simp] theorem State.updCopy_grids : (s.updCopy c f).grids = s.grids := rfl
@[simp] theorem State.updCopy_teams : (s.updCopy c f).teams = s.teams := rfl
@[simp] theorem State.updCopy_threads : (s.updCopy c f).threads = s.threads := rfl
@[simp] theorem State.updCopy_ops : (s.updCopy c f).ops = s.ops := rfl
@[simp] theorem State.updCopy_home : (s.updCopy c f).home = s.home := rfl
@[simp] theorem State.updCopy_homePoison : (s.updCopy c f).homePoison = s.homePoison := rfl
@[simp] theorem State.updCopy_weights : (s.updCopy c f).weights = s.weights := rfl
@[simp] theorem State.updCopy_weightPoison : (s.updCopy c f).weightPoison = s.weightPoison := rfl
@[simp] theorem State.updCopy_refresh : (s.updCopy c f).refresh = s.refresh := rfl
@[simp] theorem State.updCopy_slotAt : (s.updCopy c f).slotAt = s.slotAt := rfl
@[simp] theorem State.updCopy_l1 : (s.updCopy c f).l1 = s.l1 := rfl
@[simp] theorem State.updCopy_consts : (s.updCopy c f).consts = s.consts := rfl
@[simp] theorem State.updCopy_tlb1 : (s.updCopy c f).tlb1 = s.tlb1 := rfl
@[simp] theorem State.updCopy_tlb2 : (s.updCopy c f).tlb2 = s.tlb2 := rfl
@[simp] theorem State.updCopy_slices : (s.updCopy c f).slices = s.slices := rfl
@[simp] theorem State.updCopy_misses : (s.updCopy c f).misses = s.misses := rfl
@[simp] theorem State.updCopy_scwg : (s.updCopy c f).scwg = s.scwg := rfl
@[simp] theorem State.updCopy_waiters : (s.updCopy c f).waiters = s.waiters := rfl
@[simp] theorem State.updCopy_freed : (s.updCopy c f).freed = s.freed := rfl
@[simp] theorem State.updCopy_replays : (s.updCopy c f).replays = s.replays := rfl
@[simp] theorem State.updCopy_held : (s.updCopy c f).held = s.held := rfl
@[simp] theorem State.updCopy_unposted : (s.updCopy c f).unposted = s.unposted := rfl
@[simp] theorem State.updCopy_doneWait : (s.updCopy c f).doneWait = s.doneWait := rfl
@[simp] theorem State.updCopy_recs : (s.updCopy c f).recs = s.recs := rfl
@[simp] theorem State.updCopy_raised : (s.updCopy c f).raised = s.raised := rfl
@[simp] theorem State.updCopy_stsl : (s.updCopy c f).stsl = s.stsl := rfl
@[simp] theorem State.updCopy_stsc : (s.updCopy c f).stsc = s.stsc := rfl
@[simp] theorem State.updCopy_lqs : (s.updCopy c f).lqs = s.lqs := rfl
@[simp] theorem State.updCopy_ctls : (s.updCopy c f).ctls = s.ctls := rfl
@[simp] theorem State.updCopy_spills : (s.updCopy c f).spills = s.spills := rfl
@[simp] theorem State.updCopy_reorder : (s.updCopy c f).reorder = s.reorder := rfl
@[simp] theorem State.updCopy_batches : (s.updCopy c f).batches = s.batches := rfl
@[simp] theorem State.updCopy_svc : (s.updCopy c f).svc = s.svc := rfl
@[simp] theorem State.updCopy_imgSlots : (s.updCopy c f).imgSlots = s.imgSlots := rfl
@[simp] theorem State.updCopy_imgb : (s.updCopy c f).imgb = s.imgb := rfl
@[simp] theorem State.updCopy_imgc : (s.updCopy c f).imgc = s.imgc := rfl
@[simp] theorem State.updCopy_imgs : (s.updCopy c f).imgs = s.imgs := rfl
@[simp] theorem State.updCopy_islands : (s.updCopy c f).islands = s.islands := rfl
@[simp] theorem State.updCopy_jobs : (s.updCopy c f).jobs = s.jobs := rfl
@[simp] theorem State.updCopy_ridges : (s.updCopy c f).ridges = s.ridges := rfl
@[simp] theorem State.updCopy_boot : (s.updCopy c f).boot = s.boot := rfl
@[simp] theorem State.updCopy_scunp : (s.updCopy c f).scunp = s.scunp := rfl
@[simp] theorem State.updCopy_summitWake : (s.updCopy c f).summitWake = s.summitWake := rfl
@[simp] theorem State.updCopy_keys : (s.updCopy c f).keys = s.keys := rfl
@[simp] theorem State.updCopy_keyb : (s.updCopy c f).keyb = s.keyb := rfl
@[simp] theorem State.updCopy_keyc : (s.updCopy c f).keyc = s.keyc := rfl
@[simp] theorem State.updCopy_tdis : (s.updCopy c f).tdis = s.tdis := rfl
@[simp] theorem State.updCopy_certs : (s.updCopy c f).certs = s.certs := rfl
@[simp] theorem State.updCopy_measured : (s.updCopy c f).measured = s.measured := rfl
@[simp] theorem State.updCopy_levels : (s.updCopy c f).levels = s.levels := rfl
@[simp] theorem State.updCopy_tcnt : (s.updCopy c f).tcnt = s.tcnt := rfl
@[simp] theorem State.updCopy_pwlim : (s.updCopy c f).pwlim = s.pwlim := rfl
@[simp] theorem State.updCopy_tcsel : (s.updCopy c f).tcsel = s.tcsel := rfl
@[simp] theorem State.updCopy_trims : (s.updCopy c f).trims = s.trims := rfl
@[simp] theorem State.updCopy_packets : (s.updCopy c f).packets = s.packets := rfl
@[simp] theorem State.updCopy_routers : (s.updCopy c f).routers = s.routers := rfl
@[simp] theorem State.updCopy_retained : (s.updCopy c f).retained = s.retained := rfl
@[simp] theorem State.updCopy_rereqs : (s.updCopy c f).rereqs = s.rereqs := rfl
@[simp] theorem State.updCopy_streams : (s.updCopy c f).streams = s.streams := rfl
@[simp] theorem State.updCopy_outbox : (s.updCopy c f).outbox = s.outbox := rfl
@[simp] theorem State.updCopy_sources : (s.updCopy c f).sources = s.sources := rfl
@[simp] theorem State.updCopy_wires : (s.updCopy c f).wires = s.wires := rfl
@[simp] theorem State.updCopy_linkReplays : (s.updCopy c f).linkReplays = s.linkReplays := rfl
@[simp] theorem State.updCopy_ncycs : (s.updCopy c f).ncycs = s.ncycs := rfl
@[simp] theorem State.updCopy_pipes : (s.updCopy c f).pipes = s.pipes := rfl
@[simp] theorem State.updCopy_holds : (s.updCopy c f).holds = s.holds := rfl
@[simp] theorem State.updCopy_dealt : (s.updCopy c f).dealt = s.dealt := rfl
@[simp] theorem State.updCopy_picks : (s.updCopy c f).picks = s.picks := rfl
@[simp] theorem State.updCopy_rotors : (s.updCopy c f).rotors = s.rotors := rfl
@[simp] theorem State.updCopy_lqLast : (s.updCopy c f).lqLast = s.lqLast := rfl
@[simp] theorem State.updCopy_compacting : (s.updCopy c f).compacting = s.compacting := rfl
@[simp] theorem State.updCopy_nextId : (s.updCopy c f).nextId = s.nextId := rfl
@[simp] theorem State.updCopy_fresh : (s.updCopy c f).fresh = s.fresh := rfl
@[simp] theorem State.updCopy_agenda : (s.updCopy c f).agenda = s.agenda := rfl
@[simp] theorem State.updCopy_pick : (s.updCopy c f).pick = s.pick := rfl
@[simp] theorem State.updCopy_cur : (s.updCopy c f).cur = s.cur := rfl
@[simp] theorem State.updCopy_ir : (s.updCopy c f).ir = s.ir := rfl

end updCopy

section updJob

variable (j : Nat) (f : IslandJob → IslandJob)

@[simp] theorem State.updJob_caps : (s.updJob j f).caps = s.caps := rfl
@[simp] theorem State.updJob_cycles : (s.updJob j f).cycles = s.cycles := rfl
@[simp] theorem State.updJob_ctxs : (s.updJob j f).ctxs = s.ctxs := rfl
@[simp] theorem State.updJob_grids : (s.updJob j f).grids = s.grids := rfl
@[simp] theorem State.updJob_teams : (s.updJob j f).teams = s.teams := rfl
@[simp] theorem State.updJob_threads : (s.updJob j f).threads = s.threads := rfl
@[simp] theorem State.updJob_ops : (s.updJob j f).ops = s.ops := rfl
@[simp] theorem State.updJob_copies : (s.updJob j f).copies = s.copies := rfl
@[simp] theorem State.updJob_home : (s.updJob j f).home = s.home := rfl
@[simp] theorem State.updJob_homePoison : (s.updJob j f).homePoison = s.homePoison := rfl
@[simp] theorem State.updJob_weights : (s.updJob j f).weights = s.weights := rfl
@[simp] theorem State.updJob_weightPoison : (s.updJob j f).weightPoison = s.weightPoison := rfl
@[simp] theorem State.updJob_refresh : (s.updJob j f).refresh = s.refresh := rfl
@[simp] theorem State.updJob_slotAt : (s.updJob j f).slotAt = s.slotAt := rfl
@[simp] theorem State.updJob_l1 : (s.updJob j f).l1 = s.l1 := rfl
@[simp] theorem State.updJob_consts : (s.updJob j f).consts = s.consts := rfl
@[simp] theorem State.updJob_tlb1 : (s.updJob j f).tlb1 = s.tlb1 := rfl
@[simp] theorem State.updJob_tlb2 : (s.updJob j f).tlb2 = s.tlb2 := rfl
@[simp] theorem State.updJob_slices : (s.updJob j f).slices = s.slices := rfl
@[simp] theorem State.updJob_misses : (s.updJob j f).misses = s.misses := rfl
@[simp] theorem State.updJob_scwg : (s.updJob j f).scwg = s.scwg := rfl
@[simp] theorem State.updJob_waiters : (s.updJob j f).waiters = s.waiters := rfl
@[simp] theorem State.updJob_freed : (s.updJob j f).freed = s.freed := rfl
@[simp] theorem State.updJob_replays : (s.updJob j f).replays = s.replays := rfl
@[simp] theorem State.updJob_held : (s.updJob j f).held = s.held := rfl
@[simp] theorem State.updJob_unposted : (s.updJob j f).unposted = s.unposted := rfl
@[simp] theorem State.updJob_doneWait : (s.updJob j f).doneWait = s.doneWait := rfl
@[simp] theorem State.updJob_recs : (s.updJob j f).recs = s.recs := rfl
@[simp] theorem State.updJob_raised : (s.updJob j f).raised = s.raised := rfl
@[simp] theorem State.updJob_stsl : (s.updJob j f).stsl = s.stsl := rfl
@[simp] theorem State.updJob_stsc : (s.updJob j f).stsc = s.stsc := rfl
@[simp] theorem State.updJob_lqs : (s.updJob j f).lqs = s.lqs := rfl
@[simp] theorem State.updJob_ctls : (s.updJob j f).ctls = s.ctls := rfl
@[simp] theorem State.updJob_spills : (s.updJob j f).spills = s.spills := rfl
@[simp] theorem State.updJob_reorder : (s.updJob j f).reorder = s.reorder := rfl
@[simp] theorem State.updJob_batches : (s.updJob j f).batches = s.batches := rfl
@[simp] theorem State.updJob_svc : (s.updJob j f).svc = s.svc := rfl
@[simp] theorem State.updJob_imgSlots : (s.updJob j f).imgSlots = s.imgSlots := rfl
@[simp] theorem State.updJob_imgb : (s.updJob j f).imgb = s.imgb := rfl
@[simp] theorem State.updJob_imgc : (s.updJob j f).imgc = s.imgc := rfl
@[simp] theorem State.updJob_imgs : (s.updJob j f).imgs = s.imgs := rfl
@[simp] theorem State.updJob_islands : (s.updJob j f).islands = s.islands := rfl
@[simp] theorem State.updJob_ridges : (s.updJob j f).ridges = s.ridges := rfl
@[simp] theorem State.updJob_boot : (s.updJob j f).boot = s.boot := rfl
@[simp] theorem State.updJob_scunp : (s.updJob j f).scunp = s.scunp := rfl
@[simp] theorem State.updJob_summitWake : (s.updJob j f).summitWake = s.summitWake := rfl
@[simp] theorem State.updJob_keys : (s.updJob j f).keys = s.keys := rfl
@[simp] theorem State.updJob_keyb : (s.updJob j f).keyb = s.keyb := rfl
@[simp] theorem State.updJob_keyc : (s.updJob j f).keyc = s.keyc := rfl
@[simp] theorem State.updJob_tdis : (s.updJob j f).tdis = s.tdis := rfl
@[simp] theorem State.updJob_certs : (s.updJob j f).certs = s.certs := rfl
@[simp] theorem State.updJob_measured : (s.updJob j f).measured = s.measured := rfl
@[simp] theorem State.updJob_levels : (s.updJob j f).levels = s.levels := rfl
@[simp] theorem State.updJob_tcnt : (s.updJob j f).tcnt = s.tcnt := rfl
@[simp] theorem State.updJob_pwlim : (s.updJob j f).pwlim = s.pwlim := rfl
@[simp] theorem State.updJob_tcsel : (s.updJob j f).tcsel = s.tcsel := rfl
@[simp] theorem State.updJob_trims : (s.updJob j f).trims = s.trims := rfl
@[simp] theorem State.updJob_packets : (s.updJob j f).packets = s.packets := rfl
@[simp] theorem State.updJob_routers : (s.updJob j f).routers = s.routers := rfl
@[simp] theorem State.updJob_retained : (s.updJob j f).retained = s.retained := rfl
@[simp] theorem State.updJob_rereqs : (s.updJob j f).rereqs = s.rereqs := rfl
@[simp] theorem State.updJob_streams : (s.updJob j f).streams = s.streams := rfl
@[simp] theorem State.updJob_outbox : (s.updJob j f).outbox = s.outbox := rfl
@[simp] theorem State.updJob_sources : (s.updJob j f).sources = s.sources := rfl
@[simp] theorem State.updJob_wires : (s.updJob j f).wires = s.wires := rfl
@[simp] theorem State.updJob_linkReplays : (s.updJob j f).linkReplays = s.linkReplays := rfl
@[simp] theorem State.updJob_ncycs : (s.updJob j f).ncycs = s.ncycs := rfl
@[simp] theorem State.updJob_pipes : (s.updJob j f).pipes = s.pipes := rfl
@[simp] theorem State.updJob_holds : (s.updJob j f).holds = s.holds := rfl
@[simp] theorem State.updJob_dealt : (s.updJob j f).dealt = s.dealt := rfl
@[simp] theorem State.updJob_picks : (s.updJob j f).picks = s.picks := rfl
@[simp] theorem State.updJob_rotors : (s.updJob j f).rotors = s.rotors := rfl
@[simp] theorem State.updJob_lqLast : (s.updJob j f).lqLast = s.lqLast := rfl
@[simp] theorem State.updJob_compacting : (s.updJob j f).compacting = s.compacting := rfl
@[simp] theorem State.updJob_nextId : (s.updJob j f).nextId = s.nextId := rfl
@[simp] theorem State.updJob_fresh : (s.updJob j f).fresh = s.fresh := rfl
@[simp] theorem State.updJob_agenda : (s.updJob j f).agenda = s.agenda := rfl
@[simp] theorem State.updJob_pick : (s.updJob j f).pick = s.pick := rfl
@[simp] theorem State.updJob_cur : (s.updJob j f).cur = s.cur := rfl
@[simp] theorem State.updJob_ir : (s.updJob j f).ir = s.ir := rfl

end updJob

section updLq

variable (q : Nat) (f : LaunchQ → LaunchQ)

@[simp] theorem State.updLq_caps : (s.updLq q f).caps = s.caps := rfl
@[simp] theorem State.updLq_cycles : (s.updLq q f).cycles = s.cycles := rfl
@[simp] theorem State.updLq_ctxs : (s.updLq q f).ctxs = s.ctxs := rfl
@[simp] theorem State.updLq_grids : (s.updLq q f).grids = s.grids := rfl
@[simp] theorem State.updLq_teams : (s.updLq q f).teams = s.teams := rfl
@[simp] theorem State.updLq_threads : (s.updLq q f).threads = s.threads := rfl
@[simp] theorem State.updLq_ops : (s.updLq q f).ops = s.ops := rfl
@[simp] theorem State.updLq_copies : (s.updLq q f).copies = s.copies := rfl
@[simp] theorem State.updLq_home : (s.updLq q f).home = s.home := rfl
@[simp] theorem State.updLq_homePoison : (s.updLq q f).homePoison = s.homePoison := rfl
@[simp] theorem State.updLq_weights : (s.updLq q f).weights = s.weights := rfl
@[simp] theorem State.updLq_weightPoison : (s.updLq q f).weightPoison = s.weightPoison := rfl
@[simp] theorem State.updLq_refresh : (s.updLq q f).refresh = s.refresh := rfl
@[simp] theorem State.updLq_slotAt : (s.updLq q f).slotAt = s.slotAt := rfl
@[simp] theorem State.updLq_l1 : (s.updLq q f).l1 = s.l1 := rfl
@[simp] theorem State.updLq_consts : (s.updLq q f).consts = s.consts := rfl
@[simp] theorem State.updLq_tlb1 : (s.updLq q f).tlb1 = s.tlb1 := rfl
@[simp] theorem State.updLq_tlb2 : (s.updLq q f).tlb2 = s.tlb2 := rfl
@[simp] theorem State.updLq_slices : (s.updLq q f).slices = s.slices := rfl
@[simp] theorem State.updLq_misses : (s.updLq q f).misses = s.misses := rfl
@[simp] theorem State.updLq_scwg : (s.updLq q f).scwg = s.scwg := rfl
@[simp] theorem State.updLq_waiters : (s.updLq q f).waiters = s.waiters := rfl
@[simp] theorem State.updLq_freed : (s.updLq q f).freed = s.freed := rfl
@[simp] theorem State.updLq_replays : (s.updLq q f).replays = s.replays := rfl
@[simp] theorem State.updLq_held : (s.updLq q f).held = s.held := rfl
@[simp] theorem State.updLq_unposted : (s.updLq q f).unposted = s.unposted := rfl
@[simp] theorem State.updLq_doneWait : (s.updLq q f).doneWait = s.doneWait := rfl
@[simp] theorem State.updLq_recs : (s.updLq q f).recs = s.recs := rfl
@[simp] theorem State.updLq_raised : (s.updLq q f).raised = s.raised := rfl
@[simp] theorem State.updLq_stsl : (s.updLq q f).stsl = s.stsl := rfl
@[simp] theorem State.updLq_stsc : (s.updLq q f).stsc = s.stsc := rfl
@[simp] theorem State.updLq_ctls : (s.updLq q f).ctls = s.ctls := rfl
@[simp] theorem State.updLq_spills : (s.updLq q f).spills = s.spills := rfl
@[simp] theorem State.updLq_reorder : (s.updLq q f).reorder = s.reorder := rfl
@[simp] theorem State.updLq_batches : (s.updLq q f).batches = s.batches := rfl
@[simp] theorem State.updLq_svc : (s.updLq q f).svc = s.svc := rfl
@[simp] theorem State.updLq_imgSlots : (s.updLq q f).imgSlots = s.imgSlots := rfl
@[simp] theorem State.updLq_imgb : (s.updLq q f).imgb = s.imgb := rfl
@[simp] theorem State.updLq_imgc : (s.updLq q f).imgc = s.imgc := rfl
@[simp] theorem State.updLq_imgs : (s.updLq q f).imgs = s.imgs := rfl
@[simp] theorem State.updLq_islands : (s.updLq q f).islands = s.islands := rfl
@[simp] theorem State.updLq_jobs : (s.updLq q f).jobs = s.jobs := rfl
@[simp] theorem State.updLq_ridges : (s.updLq q f).ridges = s.ridges := rfl
@[simp] theorem State.updLq_boot : (s.updLq q f).boot = s.boot := rfl
@[simp] theorem State.updLq_scunp : (s.updLq q f).scunp = s.scunp := rfl
@[simp] theorem State.updLq_summitWake : (s.updLq q f).summitWake = s.summitWake := rfl
@[simp] theorem State.updLq_keys : (s.updLq q f).keys = s.keys := rfl
@[simp] theorem State.updLq_keyb : (s.updLq q f).keyb = s.keyb := rfl
@[simp] theorem State.updLq_keyc : (s.updLq q f).keyc = s.keyc := rfl
@[simp] theorem State.updLq_tdis : (s.updLq q f).tdis = s.tdis := rfl
@[simp] theorem State.updLq_certs : (s.updLq q f).certs = s.certs := rfl
@[simp] theorem State.updLq_measured : (s.updLq q f).measured = s.measured := rfl
@[simp] theorem State.updLq_levels : (s.updLq q f).levels = s.levels := rfl
@[simp] theorem State.updLq_tcnt : (s.updLq q f).tcnt = s.tcnt := rfl
@[simp] theorem State.updLq_pwlim : (s.updLq q f).pwlim = s.pwlim := rfl
@[simp] theorem State.updLq_tcsel : (s.updLq q f).tcsel = s.tcsel := rfl
@[simp] theorem State.updLq_trims : (s.updLq q f).trims = s.trims := rfl
@[simp] theorem State.updLq_packets : (s.updLq q f).packets = s.packets := rfl
@[simp] theorem State.updLq_routers : (s.updLq q f).routers = s.routers := rfl
@[simp] theorem State.updLq_retained : (s.updLq q f).retained = s.retained := rfl
@[simp] theorem State.updLq_rereqs : (s.updLq q f).rereqs = s.rereqs := rfl
@[simp] theorem State.updLq_streams : (s.updLq q f).streams = s.streams := rfl
@[simp] theorem State.updLq_outbox : (s.updLq q f).outbox = s.outbox := rfl
@[simp] theorem State.updLq_sources : (s.updLq q f).sources = s.sources := rfl
@[simp] theorem State.updLq_wires : (s.updLq q f).wires = s.wires := rfl
@[simp] theorem State.updLq_linkReplays : (s.updLq q f).linkReplays = s.linkReplays := rfl
@[simp] theorem State.updLq_ncycs : (s.updLq q f).ncycs = s.ncycs := rfl
@[simp] theorem State.updLq_pipes : (s.updLq q f).pipes = s.pipes := rfl
@[simp] theorem State.updLq_holds : (s.updLq q f).holds = s.holds := rfl
@[simp] theorem State.updLq_dealt : (s.updLq q f).dealt = s.dealt := rfl
@[simp] theorem State.updLq_picks : (s.updLq q f).picks = s.picks := rfl
@[simp] theorem State.updLq_rotors : (s.updLq q f).rotors = s.rotors := rfl
@[simp] theorem State.updLq_lqLast : (s.updLq q f).lqLast = s.lqLast := rfl
@[simp] theorem State.updLq_compacting : (s.updLq q f).compacting = s.compacting := rfl
@[simp] theorem State.updLq_nextId : (s.updLq q f).nextId = s.nextId := rfl
@[simp] theorem State.updLq_fresh : (s.updLq q f).fresh = s.fresh := rfl
@[simp] theorem State.updLq_agenda : (s.updLq q f).agenda = s.agenda := rfl
@[simp] theorem State.updLq_pick : (s.updLq q f).pick = s.pick := rfl
@[simp] theorem State.updLq_cur : (s.updLq q f).cur = s.cur := rfl
@[simp] theorem State.updLq_ir : (s.updLq q f).ir = s.ir := rfl

end updLq

section mapL1

variable (p : L1Sector → Bool) (f : L1Sector → L1Sector)

@[simp] theorem State.mapL1_caps : (s.mapL1 p f).caps = s.caps := rfl
@[simp] theorem State.mapL1_cycles : (s.mapL1 p f).cycles = s.cycles := rfl
@[simp] theorem State.mapL1_ctxs : (s.mapL1 p f).ctxs = s.ctxs := rfl
@[simp] theorem State.mapL1_grids : (s.mapL1 p f).grids = s.grids := rfl
@[simp] theorem State.mapL1_teams : (s.mapL1 p f).teams = s.teams := rfl
@[simp] theorem State.mapL1_threads : (s.mapL1 p f).threads = s.threads := rfl
@[simp] theorem State.mapL1_ops : (s.mapL1 p f).ops = s.ops := rfl
@[simp] theorem State.mapL1_copies : (s.mapL1 p f).copies = s.copies := rfl
@[simp] theorem State.mapL1_home : (s.mapL1 p f).home = s.home := rfl
@[simp] theorem State.mapL1_homePoison : (s.mapL1 p f).homePoison = s.homePoison := rfl
@[simp] theorem State.mapL1_weights : (s.mapL1 p f).weights = s.weights := rfl
@[simp] theorem State.mapL1_weightPoison : (s.mapL1 p f).weightPoison = s.weightPoison := rfl
@[simp] theorem State.mapL1_refresh : (s.mapL1 p f).refresh = s.refresh := rfl
@[simp] theorem State.mapL1_slotAt : (s.mapL1 p f).slotAt = s.slotAt := rfl
@[simp] theorem State.mapL1_consts : (s.mapL1 p f).consts = s.consts := rfl
@[simp] theorem State.mapL1_tlb1 : (s.mapL1 p f).tlb1 = s.tlb1 := rfl
@[simp] theorem State.mapL1_tlb2 : (s.mapL1 p f).tlb2 = s.tlb2 := rfl
@[simp] theorem State.mapL1_slices : (s.mapL1 p f).slices = s.slices := rfl
@[simp] theorem State.mapL1_misses : (s.mapL1 p f).misses = s.misses := rfl
@[simp] theorem State.mapL1_scwg : (s.mapL1 p f).scwg = s.scwg := rfl
@[simp] theorem State.mapL1_waiters : (s.mapL1 p f).waiters = s.waiters := rfl
@[simp] theorem State.mapL1_freed : (s.mapL1 p f).freed = s.freed := rfl
@[simp] theorem State.mapL1_replays : (s.mapL1 p f).replays = s.replays := rfl
@[simp] theorem State.mapL1_held : (s.mapL1 p f).held = s.held := rfl
@[simp] theorem State.mapL1_unposted : (s.mapL1 p f).unposted = s.unposted := rfl
@[simp] theorem State.mapL1_doneWait : (s.mapL1 p f).doneWait = s.doneWait := rfl
@[simp] theorem State.mapL1_recs : (s.mapL1 p f).recs = s.recs := rfl
@[simp] theorem State.mapL1_raised : (s.mapL1 p f).raised = s.raised := rfl
@[simp] theorem State.mapL1_stsl : (s.mapL1 p f).stsl = s.stsl := rfl
@[simp] theorem State.mapL1_stsc : (s.mapL1 p f).stsc = s.stsc := rfl
@[simp] theorem State.mapL1_lqs : (s.mapL1 p f).lqs = s.lqs := rfl
@[simp] theorem State.mapL1_ctls : (s.mapL1 p f).ctls = s.ctls := rfl
@[simp] theorem State.mapL1_spills : (s.mapL1 p f).spills = s.spills := rfl
@[simp] theorem State.mapL1_reorder : (s.mapL1 p f).reorder = s.reorder := rfl
@[simp] theorem State.mapL1_batches : (s.mapL1 p f).batches = s.batches := rfl
@[simp] theorem State.mapL1_svc : (s.mapL1 p f).svc = s.svc := rfl
@[simp] theorem State.mapL1_imgSlots : (s.mapL1 p f).imgSlots = s.imgSlots := rfl
@[simp] theorem State.mapL1_imgb : (s.mapL1 p f).imgb = s.imgb := rfl
@[simp] theorem State.mapL1_imgc : (s.mapL1 p f).imgc = s.imgc := rfl
@[simp] theorem State.mapL1_imgs : (s.mapL1 p f).imgs = s.imgs := rfl
@[simp] theorem State.mapL1_islands : (s.mapL1 p f).islands = s.islands := rfl
@[simp] theorem State.mapL1_jobs : (s.mapL1 p f).jobs = s.jobs := rfl
@[simp] theorem State.mapL1_ridges : (s.mapL1 p f).ridges = s.ridges := rfl
@[simp] theorem State.mapL1_boot : (s.mapL1 p f).boot = s.boot := rfl
@[simp] theorem State.mapL1_scunp : (s.mapL1 p f).scunp = s.scunp := rfl
@[simp] theorem State.mapL1_summitWake : (s.mapL1 p f).summitWake = s.summitWake := rfl
@[simp] theorem State.mapL1_keys : (s.mapL1 p f).keys = s.keys := rfl
@[simp] theorem State.mapL1_keyb : (s.mapL1 p f).keyb = s.keyb := rfl
@[simp] theorem State.mapL1_keyc : (s.mapL1 p f).keyc = s.keyc := rfl
@[simp] theorem State.mapL1_tdis : (s.mapL1 p f).tdis = s.tdis := rfl
@[simp] theorem State.mapL1_certs : (s.mapL1 p f).certs = s.certs := rfl
@[simp] theorem State.mapL1_measured : (s.mapL1 p f).measured = s.measured := rfl
@[simp] theorem State.mapL1_levels : (s.mapL1 p f).levels = s.levels := rfl
@[simp] theorem State.mapL1_tcnt : (s.mapL1 p f).tcnt = s.tcnt := rfl
@[simp] theorem State.mapL1_pwlim : (s.mapL1 p f).pwlim = s.pwlim := rfl
@[simp] theorem State.mapL1_tcsel : (s.mapL1 p f).tcsel = s.tcsel := rfl
@[simp] theorem State.mapL1_trims : (s.mapL1 p f).trims = s.trims := rfl
@[simp] theorem State.mapL1_packets : (s.mapL1 p f).packets = s.packets := rfl
@[simp] theorem State.mapL1_routers : (s.mapL1 p f).routers = s.routers := rfl
@[simp] theorem State.mapL1_retained : (s.mapL1 p f).retained = s.retained := rfl
@[simp] theorem State.mapL1_rereqs : (s.mapL1 p f).rereqs = s.rereqs := rfl
@[simp] theorem State.mapL1_streams : (s.mapL1 p f).streams = s.streams := rfl
@[simp] theorem State.mapL1_outbox : (s.mapL1 p f).outbox = s.outbox := rfl
@[simp] theorem State.mapL1_sources : (s.mapL1 p f).sources = s.sources := rfl
@[simp] theorem State.mapL1_wires : (s.mapL1 p f).wires = s.wires := rfl
@[simp] theorem State.mapL1_linkReplays : (s.mapL1 p f).linkReplays = s.linkReplays := rfl
@[simp] theorem State.mapL1_ncycs : (s.mapL1 p f).ncycs = s.ncycs := rfl
@[simp] theorem State.mapL1_pipes : (s.mapL1 p f).pipes = s.pipes := rfl
@[simp] theorem State.mapL1_holds : (s.mapL1 p f).holds = s.holds := rfl
@[simp] theorem State.mapL1_dealt : (s.mapL1 p f).dealt = s.dealt := rfl
@[simp] theorem State.mapL1_picks : (s.mapL1 p f).picks = s.picks := rfl
@[simp] theorem State.mapL1_rotors : (s.mapL1 p f).rotors = s.rotors := rfl
@[simp] theorem State.mapL1_lqLast : (s.mapL1 p f).lqLast = s.lqLast := rfl
@[simp] theorem State.mapL1_compacting : (s.mapL1 p f).compacting = s.compacting := rfl
@[simp] theorem State.mapL1_nextId : (s.mapL1 p f).nextId = s.nextId := rfl
@[simp] theorem State.mapL1_fresh : (s.mapL1 p f).fresh = s.fresh := rfl
@[simp] theorem State.mapL1_agenda : (s.mapL1 p f).agenda = s.agenda := rfl
@[simp] theorem State.mapL1_pick : (s.mapL1 p f).pick = s.pick := rfl
@[simp] theorem State.mapL1_cur : (s.mapL1 p f).cur = s.cur := rfl
@[simp] theorem State.mapL1_ir : (s.mapL1 p f).ir = s.ir := rfl

end mapL1

-- ---------------------------------------------------------------- lookups

/-- What a search finds after a change of the entries of one key, at that key. -/
theorem find_map_self {α κ : Type} [DecidableEq κ] (key : α → κ) (k : κ) (f : α → α) (hf : ∀ x, key (f x) = key x) (l : List α) :
    (l.map fun x => if key x = k then f x else x).find? (fun x => decide (key x = k)) = (l.find? fun x => decide (key x = k)).map f := by
  induction l with
  | nil => rfl
  | cons x xs ih =>
    by_cases h : key x = k
    · simp only [List.map_cons, List.find?_cons, if_pos h, hf, decide_eq_true h, Option.map_some]
    · simp only [List.map_cons, List.find?_cons, if_neg h, decide_eq_false h, ih]

/-- What a search finds after a change of the entries of one key, at another key. -/
theorem find_map_other {α κ : Type} [DecidableEq κ] (key : α → κ) {j k : κ} (hjk : j ≠ k) (f : α → α) (hf : ∀ x, key (f x) = key x)
    (l : List α) :
    (l.map fun x => if key x = k then f x else x).find? (fun x => decide (key x = j)) = l.find? fun x => decide (key x = j) := by
  induction l with
  | nil => rfl
  | cons x xs ih =>
    have hx : key (if key x = k then f x else x) = key x := by split <;> simp [hf]
    simp only [List.map_cons, List.find?_cons, hx, ih]
    by_cases h : key x = k
    · simp [h, hjk.symm]
    · simp [h]

variable {s}

/-- A changed thread is found changed. -/
theorem State.thread_updThread (t : ThreadId) (f : Thread → Thread) (hf : ∀ x, (f x).id = x.id) :
    (s.updThread t f).thread? t = (s.thread? t).map f := find_map_self Thread.id t f hf s.threads

/-- A thread that is found is found changed. -/
theorem State.thread_updThread_some {t : ThreadId} {x : Thread} {f : Thread → Thread} (h : s.thread? t = some x) (hf : ∀ x, (f x).id = x.id) :
    (s.updThread t f).thread? t = some (f x) := by rw [State.thread_updThread t f hf, h]; rfl

/-- Another thread is found as it was. -/
theorem State.thread_updThread_ne {t u : ThreadId} (h : u ≠ t) (f : Thread → Thread) (hf : ∀ x, (f x).id = x.id) :
    (s.updThread t f).thread? u = s.thread? u := find_map_other Thread.id h f hf s.threads

/-- A changed team is found changed. -/
theorem State.team_updTeam (t : TeamId) (f : Team → Team) (hf : ∀ x, (f x).id = x.id) :
    (s.updTeam t f).team? t = (s.team? t).map f := find_map_self Team.id t f hf s.teams

/-- Another team is found as it was. -/
theorem State.team_updTeam_ne {t u : TeamId} (h : u ≠ t) (f : Team → Team) (hf : ∀ x, (f x).id = x.id) :
    (s.updTeam t f).team? u = s.team? u := find_map_other Team.id h f hf s.teams

/-- Changing a team changes no thread. -/
@[simp] theorem State.thread_updTeam (t : TeamId) (f : Team → Team) (u : ThreadId) : (s.updTeam t f).thread? u = s.thread? u := rfl

/-- Changing a thread changes no team. -/
@[simp] theorem State.team_updThread (t : ThreadId) (f : Thread → Thread) (u : TeamId) : (s.updThread t f).team? u = s.team? u := rfl

/-- Adding an operation changes no thread. -/
@[simp] theorem State.thread_addOp (o : Op) (u : ThreadId) : (s.addOp o).thread? u = s.thread? u := rfl

/-- Adding an operation changes no team. -/
@[simp] theorem State.team_addOp (o : Op) (u : TeamId) : (s.addOp o).team? u = s.team? u := rfl

/-- Dropping an operation changes no thread. -/
@[simp] theorem State.thread_dropOp (o : Nat) (u : ThreadId) : (s.dropOp o).thread? u = s.thread? u := rfl

end Machine
end Sys2Proof
end

