-- ==== Sys2Proof/Laws/Words.lean ====
section
/-! SUPPORT. What the shared frames of the words do when they issue: one lemma per frame, which a claim about one instruction cites. -/

namespace Sys2Proof
namespace Machine

-- ---------------------------------------------------------------- the committed state

/-- A word changes no name of its thread. -/
@[simp] theorem Thread.commit_id (t : Thread) (i : Issue) (n : Nat) : (t.commit i n).id = t.id := by
  simp only [Thread.commit, Thread.kill]; split <;> (split <;> rfl)

/-- A word that issues counts nothing by itself. -/
@[simp] theorem Thread.commit_outstanding (t : Thread) (i : Issue) (n : Nat) : (t.commit i n).outstanding = t.outstanding := by
  simp only [Thread.commit, Thread.kill]; split <;> (split <;> rfl)

/-- The next word of a committed thread follows its word (R186). -/
@[simp] theorem Thread.commit_pc (t : Thread) (i : Issue) (n : Nat) : (t.commit i n).pc = t.pc + 4 := by
  simp only [Thread.commit, Thread.kill]; split <;> (split <;> rfl)

/-- Issuing a word writes no register (R129). -/
@[simp] theorem Thread.commit_regs (t : Thread) (i : Issue) (n : Nat) : (t.commit i n).regs = t.regs := by
  simp only [Thread.commit, Thread.kill]; split <;> (split <;> rfl)

/-- Issuing a word writes no predicate (R129). -/
@[simp] theorem Thread.commit_preds (t : Thread) (i : Issue) (n : Nat) : (t.commit i n).preds = t.preds := by
  simp only [Thread.commit, Thread.kill]; split <;> (split <;> rfl)

/-- The acting thread as an issued word leaves it. -/
theorem State.Issues.committed_thread {s : State} {t : Thread} {i : Issue} (h : s.Issues t i) :
    (s.committed t i).thread? t.id = some (t.commit i (s.now (s.coreOf t.id))) := by
  have e : (s.committed t i).thread? t.id = (s.updThread t.id fun x => x.commit i (s.now (s.coreOf t.id))).thread? t.id := rfl
  rw [e, State.thread_updThread _ _ (fun x => Thread.commit_id x _ _), h.found]
  rfl

/-- Counting depends on the thread's outstanding operations only. -/
theorem State.overCount_of_thread {s : State} {id : ThreadId} {t : Thread} (h : s.thread? id = some t) (hr : ∀ c, t.counter c < 64) :
    s.overCount id = false := by
  simp only [State.overCount, h, List.any_eq_false, decide_eq_true_eq, Nat.not_le]
  exact fun c _ => hr c

/-- A committed word takes no counter to 64. -/
theorem State.Issues.room_committed {s : State} {t : Thread} {i : Issue} (h : s.Issues t i) : (s.committed t i).overCount t.id = false :=
  State.overCount_of_thread h.committed_thread fun c => by simpa [Thread.counter] using h.room c

/-- A word that only writes results takes no counter to 64. -/
theorem State.Issues.room_result {s : State} {t : Thread} {i : Issue} (h : s.Issues t i) (lat : Nat) (dests vals : List Nat) :
    (s.issuedResult t i lat dests vals).overCount t.id = false :=
  State.overCount_of_thread (t := t.commit i (s.now (s.coreOf t.id))) h.committed_thread
    fun c => by simpa [Thread.counter] using h.room c

/-- A word that only writes floating-point results takes no counter to 64. -/
theorem State.Issues.room_float {s : State} {t : Thread} {i : Issue} (h : s.Issues t i) (lat rc mask : Nat) (dests vals : List Nat)
    (flags : Nat) : (s.issuedFloat t i lat rc mask dests vals flags).overCount t.id = false :=
  State.overCount_of_thread (t := t.commit i (s.now (s.coreOf t.id))) h.committed_thread
    fun c => by simpa [Thread.counter] using h.room c

-- ---------------------------------------------------------------- the integer frames

/-- A unary word that issues. -/
theorem unaryWord_next {s : State} {t : Thread} {lat : Nat} {d a : Src} {l : Bool} {f : Nat → Nat}
    (h : s.Issues t { srcs := [a], dests := d.regs, kills := killIf l a }) :
    unaryWord lat d a l f s = .next (s.issuedResult t { srcs := [a], dests := d.regs, kills := killIf l a } lat d.regs
      (wordsOf d.n (f (srcOf t { srcs := [a], dests := d.regs, kills := killIf l a } 0)))) :=
  issue_ok (i := fun _ => _) h rfl (h.room_result _ _ _)

/-- A binary word that issues. -/
theorem binaryWord_next {s : State} {t : Thread} {lat : Nat} {d a b : Src} {l m sat : Bool} {f : Bool → Nat → Nat → Nat}
    (h : s.Issues t { srcs := [a, b], dests := d.regs, kills := killIf l a ++ killIf m b, hints := { sat := sat } }) :
    binaryWord lat d a l b m sat f s =
      .next (s.issuedResult t { srcs := [a, b], dests := d.regs, kills := killIf l a ++ killIf m b, hints := { sat := sat } } lat d.regs
        (wordsOf d.n (f (modSat t.latch)
          (srcOf t { srcs := [a, b], dests := d.regs, kills := killIf l a ++ killIf m b, hints := { sat := sat } } 0)
          (srcOf t { srcs := [a, b], dests := d.regs, kills := killIf l a ++ killIf m b, hints := { sat := sat } } 1)))) :=
  issue_ok (i := fun _ => _) h rfl (h.room_result _ _ _)

/-- The form of a word of three operands. -/
def ternaryForm (d a : Src) (l : Bool) (b : Src) (m : Bool) (c : Src) (t : Thread) : Issue :=
  { srcs := [a, b, c], dests := d.regs, hints := { lc := true }, kills := killIf l a ++ killIf m b ++ killIf (liveLc t.latch) c }

/-- A word of three operands that issues. -/
theorem ternaryWord_next {s : State} {t : Thread} {lat : Nat} {d a b c : Src} {l m : Bool} {f : Nat → Nat → Nat → Nat}
    (h : s.Issues t (ternaryForm d a l b m c t)) :
    ternaryWord lat d a l b m c f s = .next (s.issuedResult t (ternaryForm d a l b m c t) lat d.regs
      (wordsOf d.n (f (srcOf t (ternaryForm d a l b m c t) 0) (srcOf t (ternaryForm d a l b m c t) 1)
        (srcOf t (ternaryForm d a l b m c t) 2)))) :=
  issue_ok (i := ternaryForm d a l b m c) h rfl (h.room_result _ _ _)

/-- A word with an immediate that issues. -/
theorem immWord_next {s : State} {t : Thread} {lat : Nat} {d a : Src} {l sat : Bool} {n : Nat} {f : Bool → Nat → Nat → Nat}
    (h : s.Issues t { srcs := [a], dests := d.regs, kills := killIf l a, hints := { imm := 1, sat := sat } }) :
    immWord lat d a l n sat f s =
      .next (s.issuedResult t { srcs := [a], dests := d.regs, kills := killIf l a, hints := { imm := 1, sat := sat } } lat d.regs
        (wordsOf d.n (f (modSat t.latch)
          (srcOf t { srcs := [a], dests := d.regs, kills := killIf l a, hints := { imm := 1, sat := sat } } 0) (immValue t.latch n)))) :=
  issue_ok (i := fun _ => _) h rfl (h.room_result _ _ _)

-- ---------------------------------------------------------------- the floating-point frames

/-- A floating-point word of one operand that issues. -/
theorem floatUnary_next {s : State} {t : Thread} {f : Fmt} {lat a : Nat} {d : Src} {l : Bool} {g : Nat → Nat → Nat × Nat}
    (h : s.Issues t { srcs := [fshape f a], dests := d.regs, kills := killIf l (fshape f a), hints := { rm := 1 } }) :
    ∀ v, v = g (roundingCode t) (srcOf t { srcs := [fshape f a], dests := d.regs, kills := killIf l (fshape f a), hints := { rm := 1 } } 0) →
    floatUnary f lat d a l g s =
      .next (s.issuedFloat t { srcs := [fshape f a], dests := d.regs, kills := killIf l (fshape f a), hints := { rm := 1 } } lat
        (roundingCode t) holdMask d.regs (wordsOf d.n v.1) v.2) := by
  rintro v rfl
  exact issue_ok (i := fun _ => _) h rfl (h.room_float _ _ _ _ _ _)

/-- The form of a floating-point word of two operands. -/
def floatForm (f : Fmt) (d a : Nat) (l : Bool) (b : Src) (m : Bool) : Issue :=
  { srcs := [fshape f a, b], dests := (fshape f d).regs, kills := killIf l (fshape f a) ++ killIf m b, hints := { rm := 1 } }

/-- A floating-point word of two operands that issues. -/
theorem floatBinary_next {s : State} {t : Thread} {f : Fmt} {lat d a : Nat} {b : Src} {l m : Bool} {g : Nat → Nat → Nat → Nat × Nat}
    (h : s.Issues t (floatForm f d a l b m)) :
    ∀ v, v = g (roundingCode t) (srcOf t (floatForm f d a l b m) 0) (srcOf t (floatForm f d a l b m) 1) →
    floatBinary f lat d a l b m g s = .next (s.issuedFloat t (floatForm f d a l b m) lat (roundingCode t) holdMask (fshape f d).regs
      (wordsOf (fshape f d).n v.1) v.2) := by
  rintro v rfl
  exact issue_ok (i := fun _ => _) h rfl (h.room_float _ _ _ _ _ _)

/-- The form of FFMA. -/
def fmaForm (f : Fmt) (d a : Nat) (l : Bool) (b : Nat) (m : Bool) (c : Nat) (t : Thread) : Issue :=
  { srcs := [fshape f a, fshape f b, fshape f c], dests := (fshape f d).regs, hints := { rm := 1, lc := true },
    kills := killIf l (fshape f a) ++ killIf m (fshape f b) ++ killIf (liveLc t.latch) (fshape f c) }

/-- FFMA that issues. -/
theorem floatFma_next {s : State} {t : Thread} {f : Fmt} {lat d a b c : Nat} {l m : Bool}
    (h : s.Issues t (fmaForm f d a l b m c t)) :
    ∀ v, v = ffma f (roundingCode t) (decodeFloat f (srcOf t (fmaForm f d a l b m c t) 0))
      (decodeFloat f (srcOf t (fmaForm f d a l b m c t) 1)) (decodeFloat f (srcOf t (fmaForm f d a l b m c t) 2)) →
    floatFma f lat d a l b m c s = .next (s.issuedFloat t (fmaForm f d a l b m c t) lat (roundingCode t) holdMask (fshape f d).regs
      (wordsOf (fshape f d).n v.1) v.2) := by
  rintro v rfl
  exact issue_ok (i := fmaForm f d a l b m c) h rfl (h.room_float _ _ _ _ _ _)

-- ---------------------------------------------------------------- predicates

/-- A predicate word that issues. -/
theorem predWord_next {s : State} {t : Thread} {p c a b : Nat} {f : Bool → Bool → Bool}
    (h : s.Issues t { dests := [64 + p], preds := [a, b] ++ (if c = 0 then [] else [p]), wait := s.combineWaits t c p }) :
    predWord p c a b f s = .next (s.issuedResult t
      { dests := [64 + p], preds := [a, b] ++ (if c = 0 then [] else [p]), wait := s.combineWaits t c p } 4 [64 + p] [(combine c (t.pred p) (f (t.pred a) (t.pred b))).toNat]) :=
  issue_ok (i := fun t => { dests := [64 + p], preds := [a, b] ++ (if c = 0 then [] else [p]), wait := s.combineWaits t c p }) h rfl
    (h.room_result _ _ _)

end Machine
end Sys2Proof
end

