-- ==== Sys2Proof/Laws/Writes.lean ====
section
/-! SUPPORT. What a write of home memory can do (R252, R265, R299): an access to a slice changes the slices' lines only, and a release of
waiters the waiters and the threads only. -/

namespace Sys2Proof
namespace Machine

/-- An access to a slice changes nothing but the slices' lines (R252). -/
theorem State.sliceTouch_eq (s : State) (pa group cp : Nat) : ∃ l, s.sliceTouch pa group cp = { s with slices := l } := by
  unfold State.sliceTouch
  dsimp only
  repeat' split
  all_goals exact ⟨_, rfl⟩

/-- An access to n bytes changes nothing but the slices' lines. -/
theorem State.touchSpan_eq (s : State) (pa n group : Nat) : ∃ l, s.touchSpan pa n group = { s with slices := l } := by
  unfold State.touchSpan
  generalize unitsOf pa n 256 = us
  induction us generalizing s with
  | nil => exact ⟨s.slices, rfl⟩
  | cons u us ih =>
    obtain ⟨k, hk⟩ := s.sliceTouch_eq (u * 256) group 0
    obtain ⟨l, hl⟩ := ih (s.sliceTouch (u * 256) group 0)
    exact ⟨l, by rw [List.foldl_cons, hl, hk]⟩

/-- A wake changes nothing but the threads. -/
theorem State.wakeThread_eq (s : State) (t : ThreadId) : ∃ l, s.wakeThread t = { s with threads := l } := ⟨_, rfl⟩

/-- A release of waiters changes nothing but the waiters and the threads (R299). -/
theorem State.releaseWaiters_eq (s : State) (ws : List Waiter) : ∃ l m, s.releaseWaiters ws = { s with waiters := l, threads := m } := by
  unfold State.releaseWaiters
  dsimp only
  generalize s.waiters.filter _ = l
  refine ⟨l, ?_⟩
  have h : ∀ (us : List Waiter) (q : State), ∃ m, us.foldl (fun s w => s.wakeThread w.thr) q = { q with threads := m } := by
    intro us
    induction us with
    | nil => exact fun q => ⟨q.threads, rfl⟩
    | cons u us ih =>
      intro q
      obtain ⟨k, hk⟩ := q.wakeThread_eq u.thr
      obtain ⟨m, hm⟩ := ih (q.wakeThread u.thr)
      exact ⟨m, by rw [List.foldl_cons, hm, hk]⟩
  obtain ⟨m, hm⟩ := h ws { s with waiters := l }
  exact ⟨m, hm⟩

/-- What a write of n bytes by the device does (R252, R260, R265, R299): the bytes are in home memory and their whole sectors lose their
marks; the slices' lines may change, waiters may be released, and nothing else changes. -/
theorem State.homeWriteBy_eq (s : State) (group pa n v : Nat) : ∃ l w t, s.homeWriteBy group pa n v =
    { s with home := memWrite s.home pa n v, homePoison := clearWhole s.homePoison pa n 64, slices := l, waiters := w, threads := t } := by
  unfold State.homeWriteBy State.checkHomeWaiters
  obtain ⟨l, hl⟩ := State.touchSpan_eq { s with home := memWrite s.home pa n v, homePoison := clearWhole s.homePoison pa n 64 } pa n group
  obtain ⟨w, t, ht⟩ := State.releaseWaiters_eq (State.touchSpan
    { s with home := memWrite s.home pa n v, homePoison := clearWhole s.homePoison pa n 64 } pa n group) _
  exact ⟨l, w, t, by rw [ht, hl]⟩

/-- What a write of bytes by the device does. -/
theorem State.homeStore_eq (s : State) (ctx pa : Nat) (bs : List Byte) : ∃ l w t, s.homeStore ctx pa bs =
    { s with home := memStore s.home pa bs, homePoison := clearWhole s.homePoison pa bs.length 64, slices := l, waiters := w, threads := t } := by
  unfold State.homeStore State.checkHomeWaiters
  obtain ⟨l, hl⟩ := State.touchSpan_eq { s with home := memStore s.home pa bs, homePoison := clearWhole s.homePoison pa bs.length 64 } pa
    bs.length (s.wayGroup ctx)
  obtain ⟨w, t, ht⟩ := State.releaseWaiters_eq (State.touchSpan
    { s with home := memStore s.home pa bs, homePoison := clearWhole s.homePoison pa bs.length 64 } pa bs.length (s.wayGroup ctx)) _
  exact ⟨l, w, t, by rw [ht, hl]⟩

end Machine
end Sys2Proof
end

