-- ==== Sys2Proof/Laws/Counters.lean ====
section
/-! SUPPORT. The counters of outstanding operations (R458 to R460): which operations over the state leave them or lower them, and what an
access adds. They show that a word takes no counter to 64. -/

namespace Sys2Proof
namespace Machine

/-- What a counter of a named thread holds. -/
def State.counterOf (s : State) (id : ThreadId) (c : KClass) : Nat :=
  match s.thread? id with
  | some t => t.counter c
  | none => 0

/-- No counter of any thread has risen from s to s'. -/
def State.CountersFall (s s' : State) : Prop := ∀ id c, s'.counterOf id c ≤ s.counterOf id c

theorem State.CountersFall.rfl {s : State} : s.CountersFall s := fun _ _ => Nat.le_refl _

theorem State.CountersFall.trans {s s' s'' : State} (h : s.CountersFall s') (k : s'.CountersFall s'') : s.CountersFall s'' :=
  fun id c => Nat.le_trans (k id c) (h id c)

/-- Nothing but the threads counts. -/
theorem State.CountersFall.of_threads {s s' : State} (h : s'.threads = s.threads) : s.CountersFall s' := by
  intro id c; simp only [counterOf, State.thread?, h]; exact Nat.le_refl _

/-- A change of threads that keeps names and raises no counter. -/
theorem State.CountersFall.map {s s' : State} {f : Thread → Thread} (h : s'.threads = s.threads.map f) (hid : ∀ x, (f x).id = x.id)
    (hc : ∀ x c, (f x).counter c ≤ x.counter c) : s.CountersFall s' := by
  intro id c
  simp only [counterOf, State.thread?, h]
  induction s.threads with
  | nil => exact Nat.le_refl _
  | cons x xs ih =>
    simp only [List.map_cons, List.find?_cons, hid]
    by_cases hx : x.id = id
    · simpa [hx] using hc x c
    · simpa [hx] using ih

theorem State.CountersFall.upd {s : State} {t : ThreadId} {f : Thread → Thread} (hid : ∀ x, (f x).id = x.id)
    (hc : ∀ x c, (f x).counter c ≤ x.counter c) : s.CountersFall (s.updThread t f) :=
  .map (f := fun x => if x.id = t then f x else x) (by rfl) (fun x => by by_cases h : x.id = t <;> simp [h, hid])
    (fun x c => by by_cases h : x.id = t <;> simp [h, hc])

/-- A change of threads that leaves their outstanding operations. -/
theorem State.CountersFall.keep {s : State} {t : ThreadId} {f : Thread → Thread} (hid : ∀ x, (f x).id = x.id)
    (ho : ∀ x, (f x).outstanding = x.outstanding) : s.CountersFall (s.updThread t f) :=
  .upd hid fun x c => by simp [Thread.counter, ho]

theorem State.CountersFall.foldl {α : Type} {f : State → α → State} (hf : ∀ (s : State) (x : α), s.CountersFall (f s x)) (l : List α) (s : State) :
    s.CountersFall (l.foldl f s) := by
  induction l generalizing s with
  | nil => exact .rfl
  | cons x xs ih => exact (hf s x).trans (ih _)

/-- Falling counters stay below 64. -/
theorem State.CountersFall.room {s s' : State} (h : s.CountersFall s') {id : ThreadId} (hr : ∀ c, s.counterOf id c < 64) :
    s'.overCount id = false := by
  unfold State.overCount
  cases ht : s'.thread? id with
  | none => rfl
  | some t =>
    simp only [List.any_eq_false, decide_eq_true_eq, Nat.not_le]
    intro c _
    have := h id c
    simp only [counterOf, ht] at this
    exact Nat.lt_of_le_of_lt this (by simpa [counterOf] using hr c)

/-- A word that issues, and whose effect raises no counter, takes none to 64. -/
theorem State.Issues.room_fall {s s' : State} {t : Thread} {i : Issue} (h : s.Issues t i) (hf : (s.committed t i).CountersFall s') :
    s'.overCount t.id = false :=
  hf.room fun c => by
    rw [State.counterOf, h.committed_thread]; simpa [Thread.counter] using h.room c

-- ---------------------------------------------------------------- retirement

theorem retireFront_counter (c c' : KClass) (b : Bool) (l : List KEntry) :
    ((retireFront c b l).filter fun k => decide (k.cls = c')).length ≤ (l.filter fun k => decide (k.cls = c')).length := by
  induction l generalizing b with
  | nil => cases b <;> simp [retireFront]
  | cons k ks ih =>
    cases b with
    | false =>
      simp only [retireFront]
      by_cases h : k.cls = c' <;> simp [h, ih false]
    | true =>
      simp only [retireFront]
      split
      · split
        · refine Nat.le_trans (ih true) ?_
          by_cases h : k.cls = c' <;> simp [h]
        · by_cases h : k.cls = c' <;> simp [h, ih false]
      · by_cases h : k.cls = c' <;> simp [h, ih true]

@[simp] theorem Thread.retire_id (t : Thread) (op : Nat) : (t.retire op).id = t.id := by
  simp only [Thread.retire]; split <;> rfl

/-- Retiring lowers counters only (R460). -/
theorem Thread.retire_counter (t : Thread) (op : Nat) (c : KClass) : (t.retire op).counter c ≤ t.counter c := by
  simp only [Thread.retire, Thread.counter]
  split
  · exact Nat.le_refl _
  · refine Nat.le_trans (retireFront_counter _ _ _ _) ?_
    rw [List.filter_map, List.length_map]
    refine Nat.le_of_eq (congrArg List.length (List.filter_congr fun k _ => ?_))
    simp only [Function.comp]
    split <;> rfl

theorem State.retireOf_fall (s : State) (t : ThreadId) (op : Nat) : s.CountersFall (s.retireOf t op) :=
  .upd (fun x => x.retire_id op) (fun x c => x.retire_counter op c)

-- ---------------------------------------------------------------- waiters, records, late faults

@[simp] theorem Thread.becomeReady_outstanding (t : Thread) (n p : Nat) : (t.becomeReady n p).outstanding = t.outstanding := rfl

theorem State.wakeThread_fall (s : State) (t : ThreadId) : s.CountersFall (s.wakeThread t) :=
  .keep (fun x => by split; · rfl
                     · split <;> rfl) (fun x => by split; · rfl
                                                   · split <;> rfl)

theorem State.releaseWaiters_fall (s : State) (ws : List Waiter) : s.CountersFall (s.releaseWaiters ws) :=
  (State.CountersFall.of_threads (by rfl)).trans (.foldl (fun s w => s.wakeThread_fall w.thr) ws _)

theorem State.touchSpan_fall (s : State) (pa n group : Nat) : s.CountersFall (s.touchSpan pa n group) := by
  obtain ⟨l, hl⟩ := s.touchSpan_eq pa n group
  exact .of_threads (by rw [hl])

theorem State.homeWrite_fall (s : State) (ctx pa n v : Nat) : s.CountersFall (s.homeWrite ctx pa n v) :=
  (State.CountersFall.of_threads (by rfl)).trans ((State.touchSpan_fall _ _ _ _).trans (State.releaseWaiters_fall _ _))

theorem State.homeStore_fall (s : State) (ctx pa : Nat) (bs : List Byte) : s.CountersFall (s.homeStore ctx pa bs) :=
  (State.CountersFall.of_threads (by rfl)).trans ((State.touchSpan_fall _ _ _ _).trans (State.releaseWaiters_fall _ _))

/-- Two changes one after the other, the second a change of nothing that counts. -/
theorem State.CountersFall.threads {s s' s'' : State} (h : s.CountersFall s') (k : s''.threads = s'.threads) : s.CountersFall s'' :=
  h.trans (.of_threads k)

theorem State.writeRecord_fall (s : State) (c : Ctx) (r : FRec) : s.CountersFall (s.writeRecord c r) := by
  have h1 := s.homeStore_fall c.num (c.ringBase + 128 * (1 + memRead s.home c.ringBase 8 % 2 ^ c.ringSz)) r.bytes
  have h2 := h1.trans (State.homeWrite_fall _ c.num c.ringBase 8 ((memRead s.home c.ringBase 8 + 1) % 2 ^ 64))
  have h3 := h2.trans (State.releaseWaiters_fall _
    (State.waiters ((s.homeStore c.num (c.ringBase + 128 * (1 + memRead s.home c.ringBase 8 % 2 ^ c.ringSz)) r.bytes).homeWrite c.num c.ringBase 8
      ((memRead s.home c.ringBase 8 + 1) % 2 ^ 64)) |>.filter fun w => w.atHome && decide (w.addr / 64 = c.ringBase / 64)))
  refine h3.threads ?_
  exact (apply_ite State.threads _ _ _).trans (ite_self _)

theorem State.makeRecord_fall (s : State) (die : Nat) (c : Ctx) (r : FRec) : s.CountersFall (s.makeRecord die c r) := by
  unfold State.makeRecord
  dsimp only
  split
  · exact (State.CountersFall.of_threads (by rfl)).trans (State.writeRecord_fall _ _ _)
  · exact .of_threads (by rfl)

theorem State.postRecord_fall (s : State) (die : Nat) (r : FRec) : s.CountersFall (s.postRecord die r) := by
  unfold State.postRecord
  split
  · exact .rfl
  · split
    · exact .of_threads (by rfl)
    · exact s.makeRecord_fall _ _ _

theorem State.parkOn_fall (s : State) (t : Thread) (r : FRec) : s.CountersFall (s.parkOn t r) :=
  (State.CountersFall.keep (fun _ => by rfl) (fun _ => by rfl)).trans (State.postRecord_fall _ _ _)

theorem State.raiseTrap_fall (s : State) (t : Thread) (cls : Nat) (word : Word) (detail addr : Nat) (opnd : Option Nat) :
    s.CountersFall (s.raiseTrap t cls word detail addr opnd) := by
  unfold State.raiseTrap
  split
  · exact .keep (fun _ => rfl) (fun _ => rfl)
  · exact State.parkOn_fall _ _ _

theorem State.raiseLate_fall (s : State) (o : Op) (cls detail addr result nrep : Nat) :
    s.CountersFall (s.raiseLate o cls detail addr result nrep) := by
  unfold State.raiseLate
  split
  · split
    · exact State.postRecord_fall _ _ _
    · exact State.parkOn_fall _ _ _
  · exact State.postRecord_fall _ _ _

-- ---------------------------------------------------------------- convergence sets

theorem State.discard_fall (s : State) (t : TeamId) (m : Member) : s.CountersFall (s.discard t m) := by
  unfold State.discard
  split
  · split
    · exact s.retireOf_fall _ _
    · exact .rfl
  · exact .rfl

theorem State.misfit_fall (s : State) (t : TeamId) (m : Member) : s.CountersFall (s.misfit t m) := by
  unfold State.misfit
  split
  · exact .rfl
  · dsimp only
    split
    · exact (s.retireOf_fall _ _).trans (State.raiseLate_fall _ _ _ _ _ _ _)
    · exact State.raiseLate_fall _ _ _ _ _ _ _

theorem matrixFire_fall (s : State) (t : TeamId) (parts : List Member) : s.CountersFall (matrixFire s t parts) := by
  unfold matrixFire
  dsimp only
  split
  · split
    · exact .rfl
    · exact (State.CountersFall.of_threads (by rfl)).trans (.foldl (fun s m => s.misfit_fall t m) _ _)
  · exact .rfl

theorem State.collect_fall (s : State) (t : TeamId) (now : Nat) (ranks : List Nat) (ms : List Member) :
    s.CountersFall (s.collect t now ranks ms) := by
  unfold State.collect
  dsimp only
  split
  · exact .rfl
  · split
    · exact .rfl
    · split
      · exact matrixFire_fall _ _ _
      · exact (State.CountersFall.foldl (fun s p => .of_threads (by rfl)) _ _).trans (.foldl (fun s m => s.misfit_fall t m) _ _)

theorem State.clearSigned_fall (s : State) (t : TeamId) (n : Nat) (c : ConvReg) (ranks : List Nat) :
    s.CountersFall ((s.setCr t n c).clearSigned t n ranks) :=
  .map (by rfl) (fun x => by split <;> rfl) (fun x c => by split <;> exact Nat.le_refl _)

theorem State.settle_fall (s : State) (t : TeamId) (n : Nat) : s.CountersFall (s.settle t n) := by
  unfold State.settle
  split
  · exact .rfl
  · dsimp only
    split
    · exact .rfl
    · split
      · exact (State.CountersFall.foldl (fun s m => s.discard_fall t m) _ _).trans (State.clearSigned_fall _ _ _ _ _)
      · split
        · exact (State.collect_fall s _ _ _ _).trans (State.clearSigned_fall _ _ _ _ _)
        · exact .rfl

theorem State.withdraw_fall (s : State) (t : TeamId) (n rank : Nat) : s.CountersFall (s.withdraw t n rank) := by
  unfold State.withdraw
  split
  · exact .rfl
  · dsimp only
    refine State.CountersFall.trans (s' := State.setCr _ t n _) (State.CountersFall.threads ?_ (by rfl)) (State.settle_fall _ _ _)
    split
    · split
      · split
        · exact .rfl
        · exact s.discard_fall _ _
      · exact .rfl
    · exact .rfl

theorem State.withdrawAll_fall (s : State) (t : ThreadId) : s.CountersFall (s.withdrawAll t) :=
  .foldl (fun s n => by
    split
    · exact .rfl
    · split
      · exact s.withdraw_fall _ _ _
      · exact .rfl) _ _

theorem State.leaveCairn_fall (s : State) (t : ThreadId) : s.CountersFall (s.leaveCairn t) := by
  unfold State.leaveCairn
  split
  · exact .rfl
  · split
    · exact .rfl
    · exact (State.CountersFall.keep (t := t) (f := fun x => { x with cairn := none }) (fun _ => rfl) (fun _ => rfl)).threads (by rfl)

theorem State.endSlice_fall (s : State) (t : TeamId) : s.CountersFall (s.endSlice t) := by
  unfold State.endSlice
  split
  · exact .rfl
  · exact .of_threads (by rfl)

theorem State.exitThread_fall (s : State) (t : ThreadId) : s.CountersFall (s.exitThread t) :=
  (s.leaveCairn_fall t).trans (((State.CountersFall.keep (t := t) (f := fun x =>
    { x with st := .exited, bundle := none, promoted := false, ls := [.empty, .empty, .empty, .empty], csd := 0, ssp := 0, tdep := 0,
             fbase := 0, fsize := 0, latch := [], resume := none, parks := [] }) (fun _ => rfl) (fun _ => rfl)).threads
    (by rfl)).trans ((State.withdrawAll_fall _ t).trans (State.endSlice_fall _ t.teamId)))

-- ---------------------------------------------------------------- changes of PC

theorem State.jump_fall (s : State) (x : Args) (target : Addr) (lat : Nat) : s.CountersFall (s.jump x target lat) :=
  .keep (fun _ => rfl) (fun _ => rfl)

-- ---------------------------------------------------------------- what an access adds

/-- No counter of any thread has risen from s to s', but for one of class c of thread t, by one at most. -/
def State.CountersRise (s s' : State) (t : ThreadId) (c : KClass) : Prop :=
  ∀ id k, s'.counterOf id k ≤ s.counterOf id k + if id = t ∧ k = c then 1 else 0

theorem State.CountersRise.fall {s s' s'' : State} {t : ThreadId} {c : KClass} (h : s.CountersRise s' t c) (k : s'.CountersFall s'') :
    s.CountersRise s'' t c := fun id d => Nat.le_trans (k id d) (h id d)

theorem State.CountersFall.rise {s s' s'' : State} {t : ThreadId} {c : KClass} (h : s.CountersFall s') (k : s'.CountersRise s'' t c) :
    s.CountersRise s'' t c := fun id d => Nat.le_trans (k id d) (Nat.add_le_add_right (h id d) _)

/-- Counting one operation raises its counter by one (R459). -/
theorem State.CountersRise.count (s : State) (t : ThreadId) (c : KClass) (op : Nat) :
    s.CountersRise (s.updThread t fun x => x.count c op) t c := by
  intro id k
  by_cases h : id = t
  · subst h
    simp only [State.counterOf, State.thread_updThread (s := s) id (fun x => x.count c op) (fun _ => rfl)]
    cases s.thread? id with
    | none => simp
    | some x =>
      simp only [Option.map_some, Thread.counter, Thread.count, List.filter_append, List.length_append, true_and]
      by_cases hk : c = k
      · simp [hk]
      · simp [hk]
  · simp only [State.counterOf, State.thread_updThread_ne (s := s) h (fun x => x.count c op) (fun _ => rfl)]
    exact Nat.le_add_right _ _

/-- A word that issues and adds one operation to a counter with room for it (R459, R460). -/
theorem State.Issues.room_rise {s s' : State} {t : Thread} {i : Issue} {c : KClass} (h : s.Issues t i)
    (hf : (s.committed t i).CountersRise s' t.id c) (hc : t.counter c < 63) : s'.overCount t.id = false := by
  refine State.CountersFall.room (s := s') .rfl fun k => ?_
  refine Nat.lt_of_le_of_lt (hf t.id k) ?_
  rw [State.counterOf, h.committed_thread]
  simp only [Thread.counter, Thread.commit_outstanding, true_and]
  have := h.room k
  simp only [Thread.counter] at this hc
  split
  · next e => subst e; omega
  · exact this

@[simp] theorem State.takeMisses_threads (s : State) (c : Nat) : (s.takeMisses c).threads = s.threads := rfl

/-- What an access changes of the threads: it is counted, and the last-page register may follow it (R290, R459). -/
theorem State.startAccess_threads (s : State) (x : Args) (a : Access) (cls : Option KClass) (dests : List Nat) (due : Option Nat) :
    ∃ p : Thread → Option Translation, (s.startAccess x a cls dests due).threads =
      ((match cls with
        | some c => s.updThread x.t.id fun t => t.count c s.nextId
        | none => s).updThread x.t.id fun t => { t with lastPage := p t }).threads := by
  unfold State.startAccess
  dsimp only
  rw [State.takeMisses_threads]
  split
  · next r _ _ => exact ⟨fun _ => some r.2.1, by cases cls <;> by_cases h : r.2.2 = 0 <;> simp only [if_pos, if_neg, h] <;> rfl⟩
  · refine ⟨fun t => t.lastPage, ?_⟩
    cases cls <;> simp [State.updThread, State.addOp, State.fillTlb]
  · refine ⟨fun t => t.lastPage, ?_⟩
    cases cls <;> simp [State.updThread, State.addOp]

/-- An access of a counted class raises its counter by one (R459). -/
theorem State.startAccess_rise (s : State) (x : Args) (a : Access) (c : KClass) (dests : List Nat) (due : Option Nat) :
    s.CountersRise (s.startAccess x a (some c) dests due) x.t.id c := by
  obtain ⟨p, hp⟩ := s.startAccess_threads x a (some c) dests due
  exact (State.CountersRise.count s x.t.id c s.nextId).fall
    ((State.CountersFall.keep (t := x.t.id) (f := fun t => { t with lastPage := p t }) (fun _ => rfl) (fun _ => rfl)).threads hp)

/-- An access of no class raises no counter. -/
theorem State.startAccess_fall (s : State) (x : Args) (a : Access) (dests : List Nat) (due : Option Nat) :
    s.CountersFall (s.startAccess x a none dests due) := by
  obtain ⟨p, hp⟩ := s.startAccess_threads x a none dests due
  exact (State.CountersFall.keep (t := x.t.id) (f := fun t => { t with lastPage := p t }) (fun _ => rfl) (fun _ => rfl)).threads hp

end Machine
end Sys2Proof
end

