-- ==== Sys2Proof/Laws/Memory.lean ====
section
/-! SUPPORT. The laws of a byte memory: every operation keeps the canonical form, a byte reads as it was last written, and a write leaves
every other byte alone. -/

namespace Sys2Proof
namespace Machine

-- ---------------------------------------------------------------- the canonical form

/-- A memory canonical from a bound is canonical from every lower one. -/
theorem wfFrom_mono {lo lo' : Nat} (h : lo' ≤ lo) {m : List Host.Cell} (hm : Memory.wfFrom lo m = true) : Memory.wfFrom lo' m = true := by
  cases m with
  | nil => rfl
  | cons c m =>
    obtain ⟨a, b⟩ := c
    simp only [Memory.wfFrom, Bool.and_eq_true, decide_eq_true_eq] at hm ⊢
    exact ⟨⟨h.trans hm.1.1, hm.1.2⟩, hm.2⟩

/-- Writing a byte keeps the canonical form above a bound. -/
theorem wfFrom_cellPut {lo x : Nat} (hx : lo ≤ x) (v : Byte) {m : List Host.Cell} (hm : Memory.wfFrom lo m = true) :
    Memory.wfFrom lo (cellPut m x v) = true := by
  induction m generalizing lo with
  | nil =>
    by_cases h : v = unlisted
    · simp [cellPut, h, Memory.wfFrom]
    · simp [cellPut, h, Memory.wfFrom, hx]
  | cons c m ih =>
    obtain ⟨a, b⟩ := c
    simp only [Memory.wfFrom, Bool.and_eq_true, decide_eq_true_eq] at hm
    obtain ⟨⟨h1, h2⟩, h3⟩ := hm
    unfold cellPut
    split
    · rename_i hlt
      split
      · simp [Memory.wfFrom, h1, h2, h3]
      · rename_i hv
        simp only [Memory.wfFrom, Bool.and_eq_true, decide_eq_true_eq]
        exact ⟨⟨hx, hv⟩, ⟨by omega, h2⟩, h3⟩
    · split
      · split
        · exact wfFrom_mono (by omega) h3
        · rename_i hv
          simp only [Memory.wfFrom, Bool.and_eq_true, decide_eq_true_eq]
          exact ⟨⟨h1, hv⟩, h3⟩
      · simp only [Memory.wfFrom, Bool.and_eq_true, decide_eq_true_eq]
        exact ⟨⟨h1, h2⟩, ih (by omega) h3⟩

/-- Writing a byte keeps the canonical form. -/
theorem wf_cellPut (x : Nat) (v : Byte) {m : List Host.Cell} (hm : Memory.wf m = true) : Memory.wf (cellPut m x v) = true :=
  wfFrom_cellPut (Nat.zero_le x) v hm

/-- A masked write keeps the canonical form. -/
theorem wf_memWriteMask (n : Nat) {m : List Host.Cell} (a v mask : Nat) (hm : Memory.wf m = true) :
    Memory.wf (memWriteMask m a n v mask) = true := by
  induction n generalizing m a v mask with
  | zero => exact hm
  | succ n ih =>
    unfold memWriteMask
    apply ih
    split
    · exact wf_cellPut _ _ hm
    · exact hm

/-- A write keeps the canonical form. -/
theorem wf_memWrite {m : List Host.Cell} (a n v : Nat) (hm : Memory.wf m = true) : Memory.wf (memWrite m a n v) = true :=
  wf_memWriteMask n a v _ hm

/-- Storing bytes keeps the canonical form. -/
theorem wf_memStore {m : List Host.Cell} (a : Nat) (bs : List Byte) (hm : Memory.wf m = true) : Memory.wf (memStore m a bs) = true := by
  induction bs generalizing m a with
  | nil => exact hm
  | cons b bs ih => exact ih _ (wf_cellPut _ _ hm)

/-- Dropping entries keeps the canonical form above a bound. -/
theorem wfFrom_filter (p : Host.Cell → Bool) {lo : Nat} {m : List Host.Cell} (hm : Memory.wfFrom lo m = true) :
    Memory.wfFrom lo (m.filter p) = true := by
  induction m generalizing lo with
  | nil => rfl
  | cons c m ih =>
    obtain ⟨a, b⟩ := c
    simp only [Memory.wfFrom, Bool.and_eq_true, decide_eq_true_eq] at hm
    obtain ⟨⟨h1, h2⟩, h3⟩ := hm
    rw [List.filter_cons]
    split
    · simp only [Memory.wfFrom, Bool.and_eq_true, decide_eq_true_eq]
      exact ⟨⟨h1, h2⟩, ih h3⟩
    · exact wfFrom_mono (by omega) (ih h3)

/-- Clearing bytes keeps the canonical form. -/
theorem wf_memClear {m : List Host.Cell} (a n : Nat) (hm : Memory.wf m = true) : Memory.wf (memClear m a n) = true :=
  wfFrom_filter _ hm

/-- The memory after reset is canonical. -/
theorem wf_nil : Memory.wf [] = true := rfl

-- ---------------------------------------------------------------- reading

/-- Below every listed address a canonical memory reads as unlisted. -/
theorem cellGet_below {lo x : Nat} (hx : x < lo) {m : List Host.Cell} (hm : Memory.wfFrom lo m = true) : cellGet m x = unlisted := by
  induction m generalizing lo with
  | nil => rfl
  | cons c m ih =>
    obtain ⟨a, b⟩ := c
    simp only [Memory.wfFrom, Bool.and_eq_true, decide_eq_true_eq] at hm
    have ha : a ≠ x := by omega
    simp only [cellGet, if_neg ha]
    exact ih (by omega) hm.2

/-- A byte reads as it was last written. -/
theorem cellGet_cellPut_self_from {lo : Nat} {m : List Host.Cell} (hm : Memory.wfFrom lo m = true) (x : Nat) (v : Byte) :
    cellGet (cellPut m x v) x = v := by
  induction m generalizing lo with
  | nil =>
    by_cases h : v = unlisted
    · simp [cellPut, h, cellGet]
    · simp [cellPut, h, cellGet]
  | cons c m ih =>
    obtain ⟨a, b⟩ := c
    simp only [Memory.wfFrom, Bool.and_eq_true, decide_eq_true_eq] at hm
    obtain ⟨⟨h1, h2⟩, h3⟩ := hm
    unfold cellPut
    split
    · rename_i hlt
      split
      · rename_i hv
        have : a ≠ x := by omega
        simp only [cellGet, if_neg this, hv]
        exact cellGet_below (by omega) h3
      · simp [cellGet]
    · split
      · rename_i hxa
        split
        · rename_i hv
          rw [hv]
          exact cellGet_below (by omega) h3
        · simp [cellGet, hxa]
      · rename_i hxa
        have : a ≠ x := fun h => hxa h.symm
        simp only [cellGet, if_neg this]
        exact ih h3

/-- A byte reads as it was last written. -/
theorem cellGet_cellPut_self {m : List Host.Cell} (hm : Memory.wf m = true) (x : Nat) (v : Byte) : cellGet (cellPut m x v) x = v :=
  cellGet_cellPut_self_from hm x v

/-- Writing a byte leaves every other byte alone. -/
theorem cellGet_cellPut_ne {x y : Nat} (h : y ≠ x) (v : Byte) (m : List Host.Cell) : cellGet (cellPut m x v) y = cellGet m y := by
  induction m with
  | nil =>
    by_cases hv : v = unlisted
    · simp [cellPut, hv]
    · simp [cellPut, hv, cellGet, h.symm]
  | cons c m ih =>
    obtain ⟨a, b⟩ := c
    unfold cellPut
    split
    · split
      · rfl
      · simp [cellGet, h.symm]
    · split
      · rename_i hxa
        subst hxa
        split
        · simp [cellGet, h.symm]
        · simp [cellGet, h.symm]
      · simp only [cellGet, ih]

/-- A masked write leaves the bytes outside its range alone. -/
theorem cellGet_memWriteMask_outside (n : Nat) {m : List Host.Cell} (a v mask : Nat) {y : Nat} (h : y < a ∨ a + n ≤ y) :
    cellGet (memWriteMask m a n v mask) y = cellGet m y := by
  induction n generalizing m a v mask with
  | zero => rfl
  | succ n ih =>
    unfold memWriteMask
    rw [ih _ _ _ (by omega)]
    split
    · exact cellGet_cellPut_ne (by omega) _ _
    · rfl

/-- A byte outside a write reads as before. -/
theorem cellGet_memWrite_outside {m : List Host.Cell} (a n v : Nat) {y : Nat} (h : y < a ∨ a + n ≤ y) :
    cellGet (memWrite m a n v) y = cellGet m y := cellGet_memWriteMask_outside n a v _ h

/-- A byte inside a masked write reads as the value's byte where the mask's bit is 1, and as before elsewhere. -/
theorem cellGet_memWriteMask_inside (n : Nat) {m : List Host.Cell} (hm : Memory.wf m = true) (a v mask i : Nat) (h : i < n) :
    cellGet (memWriteMask m a n v mask) (a + i) =
      if mask / 2 ^ i % 2 = 1 then BitVec.ofNat 8 (v / 256 ^ i) else cellGet m (a + i) := by
  induction n generalizing m a v mask i with
  | zero => omega
  | succ n ih =>
    unfold memWriteMask
    have hm' : Memory.wf (if mask % 2 = 1 then cellPut m a (BitVec.ofNat 8 v) else m) = true := by
      split
      · exact wf_cellPut _ _ hm
      · exact hm
    cases i with
    | zero =>
      rw [cellGet_memWriteMask_outside n _ _ _ (by omega)]
      simp only [Nat.add_zero, Nat.pow_zero, Nat.div_one]
      split
      · exact cellGet_cellPut_self hm a _
      · rfl
    | succ i =>
      have := ih hm' (a + 1) (v / 256) (mask / 2) i (by omega)
      rw [show a + (i + 1) = a + 1 + i by omega, this, Nat.div_div_eq_div_mul, Nat.div_div_eq_div_mul,
        show 2 * 2 ^ i = 2 ^ (i + 1) by rw [Nat.pow_succ]; omega, show 256 * 256 ^ i = 256 ^ (i + 1) by rw [Nat.pow_succ]; omega]
      split
      · rfl
      · split
        · exact cellGet_cellPut_ne (by omega) _ _
        · rfl

/-- A byte of a store reads as the byte stored. -/
theorem cellGet_memStore_outside {m : List Host.Cell} (a : Nat) (bs : List Byte) {y : Nat} (h : y < a ∨ a + bs.length ≤ y) :
    cellGet (memStore m a bs) y = cellGet m y := by
  induction bs generalizing m a with
  | nil => rfl
  | cons b bs ih =>
    simp only [List.length_cons] at h
    rw [memStore, ih _ (by omega)]
    exact cellGet_cellPut_ne (by omega) _ _

end Machine
end Sys2Proof
end

