-- ==== Sys2Proof/Laws/PerInstr.lean ====
section
/-! SUPPORT. Per instruction: the word of an instruction whose fields fit their bits fits in 32 bits (R93, R95); an event has the word 0. -/

namespace Sys2Proof
namespace Laws
namespace Field

set_option Elab.async false

/-- The word of an instruction whose fields fit is a 32-bit word. -/
def Statement (i : Instr) : Prop := i.fits = true → encode i < 2 ^ 32

theorem addI32 (d : Nat) (a : Nat) (l : Bool) (b : Nat) (m : Bool) : Statement (.addI32 d a l b m) := by
  intro fit
  simp only [Instr.fits, Bool.and_eq_true, decide_eq_true_eq] at fit
  have := Bool.toNat_le l
  have := Bool.toNat_le m
  simp only [encode, word]
  omega
theorem addN32 (d : Nat) (a : Nat) (l : Bool) (b : Nat) (m : Bool) : Statement (.addN32 d a l b m) := by
  intro fit
  simp only [Instr.fits, Bool.and_eq_true, decide_eq_true_eq] at fit
  have := Bool.toNat_le l
  have := Bool.toNat_le m
  simp only [encode, word]
  omega
theorem subI32 (d : Nat) (a : Nat) (l : Bool) (b : Nat) (m : Bool) : Statement (.subI32 d a l b m) := by
  intro fit
  simp only [Instr.fits, Bool.and_eq_true, decide_eq_true_eq] at fit
  have := Bool.toNat_le l
  have := Bool.toNat_le m
  simp only [encode, word]
  omega
theorem subN32 (d : Nat) (a : Nat) (l : Bool) (b : Nat) (m : Bool) : Statement (.subN32 d a l b m) := by
  intro fit
  simp only [Instr.fits, Bool.and_eq_true, decide_eq_true_eq] at fit
  have := Bool.toNat_le l
  have := Bool.toNat_le m
  simp only [encode, word]
  omega
theorem mullo32 (d : Nat) (a : Nat) (l : Bool) (b : Nat) (m : Bool) : Statement (.mullo32 d a l b m) := by
  intro fit
  simp only [Instr.fits, Bool.and_eq_true, decide_eq_true_eq] at fit
  have := Bool.toNat_le l
  have := Bool.toNat_le m
  simp only [encode, word]
  omega
theorem mulhiI32 (d : Nat) (a : Nat) (l : Bool) (b : Nat) (m : Bool) : Statement (.mulhiI32 d a l b m) := by
  intro fit
  simp only [Instr.fits, Bool.and_eq_true, decide_eq_true_eq] at fit
  have := Bool.toNat_le l
  have := Bool.toNat_le m
  simp only [encode, word]
  omega
theorem mulhiN32 (d : Nat) (a : Nat) (l : Bool) (b : Nat) (m : Bool) : Statement (.mulhiN32 d a l b m) := by
  intro fit
  simp only [Instr.fits, Bool.and_eq_true, decide_eq_true_eq] at fit
  have := Bool.toNat_le l
  have := Bool.toNat_le m
  simp only [encode, word]
  omega
theorem divI32 (d : Nat) (a : Nat) (l : Bool) (b : Nat) (m : Bool) : Statement (.divI32 d a l b m) := by
  intro fit
  simp only [Instr.fits, Bool.and_eq_true, decide_eq_true_eq] at fit
  have := Bool.toNat_le l
  have := Bool.toNat_le m
  simp only [encode, word]
  omega
theorem divN32 (d : Nat) (a : Nat) (l : Bool) (b : Nat) (m : Bool) : Statement (.divN32 d a l b m) := by
  intro fit
  simp only [Instr.fits, Bool.and_eq_true, decide_eq_true_eq] at fit
  have := Bool.toNat_le l
  have := Bool.toNat_le m
  simp only [encode, word]
  omega
theorem remI32 (d : Nat) (a : Nat) (l : Bool) (b : Nat) (m : Bool) : Statement (.remI32 d a l b m) := by
  intro fit
  simp only [Instr.fits, Bool.and_eq_true, decide_eq_true_eq] at fit
  have := Bool.toNat_le l
  have := Bool.toNat_le m
  simp only [encode, word]
  omega
theorem remN32 (d : Nat) (a : Nat) (l : Bool) (b : Nat) (m : Bool) : Statement (.remN32 d a l b m) := by
  intro fit
  simp only [Instr.fits, Bool.and_eq_true, decide_eq_true_eq] at fit
  have := Bool.toNat_le l
  have := Bool.toNat_le m
  simp only [encode, word]
  omega
theorem minI32 (d : Nat) (a : Nat) (l : Bool) (b : Nat) (m : Bool) : Statement (.minI32 d a l b m) := by
  intro fit
  simp only [Instr.fits, Bool.and_eq_true, decide_eq_true_eq] at fit
  have := Bool.toNat_le l
  have := Bool.toNat_le m
  simp only [encode, word]
  omega
theorem minN32 (d : Nat) (a : Nat) (l : Bool) (b : Nat) (m : Bool) : Statement (.minN32 d a l b m) := by
  intro fit
  simp only [Instr.fits, Bool.and_eq_true, decide_eq_true_eq] at fit
  have := Bool.toNat_le l
  have := Bool.toNat_le m
  simp only [encode, word]
  omega
theorem maxI32 (d : Nat) (a : Nat) (l : Bool) (b : Nat) (m : Bool) : Statement (.maxI32 d a l b m) := by
  intro fit
  simp only [Instr.fits, Bool.and_eq_true, decide_eq_true_eq] at fit
  have := Bool.toNat_le l
  have := Bool.toNat_le m
  simp only [encode, word]
  omega
theorem maxN32 (d : Nat) (a : Nat) (l : Bool) (b : Nat) (m : Bool) : Statement (.maxN32 d a l b m) := by
  intro fit
  simp only [Instr.fits, Bool.and_eq_true, decide_eq_true_eq] at fit
  have := Bool.toNat_le l
  have := Bool.toNat_le m
  simp only [encode, word]
  omega
theorem abs32 (d : Nat) (a : Nat) (l : Bool) : Statement (.abs32 d a l) := by
  intro fit
  simp only [Instr.fits, Bool.and_eq_true, decide_eq_true_eq] at fit
  have := Bool.toNat_le l
  simp only [encode, word]
  omega
theorem neg32 (d : Nat) (a : Nat) (l : Bool) : Statement (.neg32 d a l) := by
  intro fit
  simp only [Instr.fits, Bool.and_eq_true, decide_eq_true_eq] at fit
  have := Bool.toNat_le l
  simp only [encode, word]
  omega
theorem and32 (d : Nat) (a : Nat) (l : Bool) (b : Nat) (m : Bool) : Statement (.and32 d a l b m) := by
  intro fit
  simp only [Instr.fits, Bool.and_eq_true, decide_eq_true_eq] at fit
  have := Bool.toNat_le l
  have := Bool.toNat_le m
  simp only [encode, word]
  omega
theorem or32 (d : Nat) (a : Nat) (l : Bool) (b : Nat) (m : Bool) : Statement (.or32 d a l b m) := by
  intro fit
  simp only [Instr.fits, Bool.and_eq_true, decide_eq_true_eq] at fit
  have := Bool.toNat_le l
  have := Bool.toNat_le m
  simp only [encode, word]
  omega
theorem xor32 (d : Nat) (a : Nat) (l : Bool) (b : Nat) (m : Bool) : Statement (.xor32 d a l b m) := by
  intro fit
  simp only [Instr.fits, Bool.and_eq_true, decide_eq_true_eq] at fit
  have := Bool.toNat_le l
  have := Bool.toNat_le m
  simp only [encode, word]
  omega
theorem andn32 (d : Nat) (a : Nat) (l : Bool) (b : Nat) (m : Bool) : Statement (.andn32 d a l b m) := by
  intro fit
  simp only [Instr.fits, Bool.and_eq_true, decide_eq_true_eq] at fit
  have := Bool.toNat_le l
  have := Bool.toNat_le m
  simp only [encode, word]
  omega
theorem not32 (d : Nat) (a : Nat) (l : Bool) : Statement (.not32 d a l) := by
  intro fit
  simp only [Instr.fits, Bool.and_eq_true, decide_eq_true_eq] at fit
  have := Bool.toNat_le l
  simp only [encode, word]
  omega
theorem shl32 (d : Nat) (a : Nat) (l : Bool) (b : Nat) (m : Bool) : Statement (.shl32 d a l b m) := by
  intro fit
  simp only [Instr.fits, Bool.and_eq_true, decide_eq_true_eq] at fit
  have := Bool.toNat_le l
  have := Bool.toNat_le m
  simp only [encode, word]
  omega
theorem shr32 (d : Nat) (a : Nat) (l : Bool) (b : Nat) (m : Bool) : Statement (.shr32 d a l b m) := by
  intro fit
  simp only [Instr.fits, Bool.and_eq_true, decide_eq_true_eq] at fit
  have := Bool.toNat_le l
  have := Bool.toNat_le m
  simp only [encode, word]
  omega
theorem shra32 (d : Nat) (a : Nat) (l : Bool) (b : Nat) (m : Bool) : Statement (.shra32 d a l b m) := by
  intro fit
  simp only [Instr.fits, Bool.and_eq_true, decide_eq_true_eq] at fit
  have := Bool.toNat_le l
  have := Bool.toNat_le m
  simp only [encode, word]
  omega
theorem rot32 (d : Nat) (a : Nat) (l : Bool) (b : Nat) (m : Bool) : Statement (.rot32 d a l b m) := by
  intro fit
  simp only [Instr.fits, Bool.and_eq_true, decide_eq_true_eq] at fit
  have := Bool.toNat_le l
  have := Bool.toNat_le m
  simp only [encode, word]
  omega
theorem popc32 (d : Nat) (a : Nat) (l : Bool) : Statement (.popc32 d a l) := by
  intro fit
  simp only [Instr.fits, Bool.and_eq_true, decide_eq_true_eq] at fit
  have := Bool.toNat_le l
  simp only [encode, word]
  omega
theorem clz32 (d : Nat) (a : Nat) (l : Bool) : Statement (.clz32 d a l) := by
  intro fit
  simp only [Instr.fits, Bool.and_eq_true, decide_eq_true_eq] at fit
  have := Bool.toNat_le l
  simp only [encode, word]
  omega
theorem ctz32 (d : Nat) (a : Nat) (l : Bool) : Statement (.ctz32 d a l) := by
  intro fit
  simp only [Instr.fits, Bool.and_eq_true, decide_eq_true_eq] at fit
  have := Bool.toNat_le l
  simp only [encode, word]
  omega
theorem brev32 (d : Nat) (a : Nat) (l : Bool) : Statement (.brev32 d a l) := by
  intro fit
  simp only [Instr.fits, Bool.and_eq_true, decide_eq_true_eq] at fit
  have := Bool.toNat_le l
  simp only [encode, word]
  omega
theorem permb (d : Nat) (a : Nat) (l : Bool) (b : Nat) (m : Bool) : Statement (.permb d a l b m) := by
  intro fit
  simp only [Instr.fits, Bool.and_eq_true, decide_eq_true_eq] at fit
  have := Bool.toNat_le l
  have := Bool.toNat_le m
  simp only [encode, word]
  omega
theorem mov32 (d : Nat) (a : Nat) (l : Bool) : Statement (.mov32 d a l) := by
  intro fit
  simp only [Instr.fits, Bool.and_eq_true, decide_eq_true_eq] at fit
  have := Bool.toNat_le l
  simp only [encode, word]
  omega
theorem bfxI32 (d : Nat) (a : Nat) (l : Bool) (b : Nat) (m : Bool) : Statement (.bfxI32 d a l b m) := by
  intro fit
  simp only [Instr.fits, Bool.and_eq_true, decide_eq_true_eq] at fit
  have := Bool.toNat_le l
  have := Bool.toNat_le m
  simp only [encode, word]
  omega
theorem bfxN32 (d : Nat) (a : Nat) (l : Bool) (b : Nat) (m : Bool) : Statement (.bfxN32 d a l b m) := by
  intro fit
  simp only [Instr.fits, Bool.and_eq_true, decide_eq_true_eq] at fit
  have := Bool.toNat_le l
  have := Bool.toNat_le m
  simp only [encode, word]
  omega
theorem addI64 (d : Nat) (a : Nat) (l : Bool) (b : Nat) (m : Bool) : Statement (.addI64 d a l b m) := by
  intro fit
  simp only [Instr.fits, Bool.and_eq_true, decide_eq_true_eq] at fit
  have := Bool.toNat_le l
  have := Bool.toNat_le m
  simp only [encode, word]
  omega
theorem addN64 (d : Nat) (a : Nat) (l : Bool) (b : Nat) (m : Bool) : Statement (.addN64 d a l b m) := by
  intro fit
  simp only [Instr.fits, Bool.and_eq_true, decide_eq_true_eq] at fit
  have := Bool.toNat_le l
  have := Bool.toNat_le m
  simp only [encode, word]
  omega
theorem subI64 (d : Nat) (a : Nat) (l : Bool) (b : Nat) (m : Bool) : Statement (.subI64 d a l b m) := by
  intro fit
  simp only [Instr.fits, Bool.and_eq_true, decide_eq_true_eq] at fit
  have := Bool.toNat_le l
  have := Bool.toNat_le m
  simp only [encode, word]
  omega
theorem subN64 (d : Nat) (a : Nat) (l : Bool) (b : Nat) (m : Bool) : Statement (.subN64 d a l b m) := by
  intro fit
  simp only [Instr.fits, Bool.and_eq_true, decide_eq_true_eq] at fit
  have := Bool.toNat_le l
  have := Bool.toNat_le m
  simp only [encode, word]
  omega
theorem mullo64 (d : Nat) (a : Nat) (l : Bool) (b : Nat) (m : Bool) : Statement (.mullo64 d a l b m) := by
  intro fit
  simp only [Instr.fits, Bool.and_eq_true, decide_eq_true_eq] at fit
  have := Bool.toNat_le l
  have := Bool.toNat_le m
  simp only [encode, word]
  omega
theorem mulhiI64 (d : Nat) (a : Nat) (l : Bool) (b : Nat) (m : Bool) : Statement (.mulhiI64 d a l b m) := by
  intro fit
  simp only [Instr.fits, Bool.and_eq_true, decide_eq_true_eq] at fit
  have := Bool.toNat_le l
  have := Bool.toNat_le m
  simp only [encode, word]
  omega
theorem mulhiN64 (d : Nat) (a : Nat) (l : Bool) (b : Nat) (m : Bool) : Statement (.mulhiN64 d a l b m) := by
  intro fit
  simp only [Instr.fits, Bool.and_eq_true, decide_eq_true_eq] at fit
  have := Bool.toNat_le l
  have := Bool.toNat_le m
  simp only [encode, word]
  omega
theorem divI64 (d : Nat) (a : Nat) (l : Bool) (b : Nat) (m : Bool) : Statement (.divI64 d a l b m) := by
  intro fit
  simp only [Instr.fits, Bool.and_eq_true, decide_eq_true_eq] at fit
  have := Bool.toNat_le l
  have := Bool.toNat_le m
  simp only [encode, word]
  omega
theorem divN64 (d : Nat) (a : Nat) (l : Bool) (b : Nat) (m : Bool) : Statement (.divN64 d a l b m) := by
  intro fit
  simp only [Instr.fits, Bool.and_eq_true, decide_eq_true_eq] at fit
  have := Bool.toNat_le l
  have := Bool.toNat_le m
  simp only [encode, word]
  omega
theorem remI64 (d : Nat) (a : Nat) (l : Bool) (b : Nat) (m : Bool) : Statement (.remI64 d a l b m) := by
  intro fit
  simp only [Instr.fits, Bool.and_eq_true, decide_eq_true_eq] at fit
  have := Bool.toNat_le l
  have := Bool.toNat_le m
  simp only [encode, word]
  omega
theorem remN64 (d : Nat) (a : Nat) (l : Bool) (b : Nat) (m : Bool) : Statement (.remN64 d a l b m) := by
  intro fit
  simp only [Instr.fits, Bool.and_eq_true, decide_eq_true_eq] at fit
  have := Bool.toNat_le l
  have := Bool.toNat_le m
  simp only [encode, word]
  omega
theorem minI64 (d : Nat) (a : Nat) (l : Bool) (b : Nat) (m : Bool) : Statement (.minI64 d a l b m) := by
  intro fit
  simp only [Instr.fits, Bool.and_eq_true, decide_eq_true_eq] at fit
  have := Bool.toNat_le l
  have := Bool.toNat_le m
  simp only [encode, word]
  omega
theorem minN64 (d : Nat) (a : Nat) (l : Bool) (b : Nat) (m : Bool) : Statement (.minN64 d a l b m) := by
  intro fit
  simp only [Instr.fits, Bool.and_eq_true, decide_eq_true_eq] at fit
  have := Bool.toNat_le l
  have := Bool.toNat_le m
  simp only [encode, word]
  omega
theorem maxI64 (d : Nat) (a : Nat) (l : Bool) (b : Nat) (m : Bool) : Statement (.maxI64 d a l b m) := by
  intro fit
  simp only [Instr.fits, Bool.and_eq_true, decide_eq_true_eq] at fit
  have := Bool.toNat_le l
  have := Bool.toNat_le m
  simp only [encode, word]
  omega
theorem maxN64 (d : Nat) (a : Nat) (l : Bool) (b : Nat) (m : Bool) : Statement (.maxN64 d a l b m) := by
  intro fit
  simp only [Instr.fits, Bool.and_eq_true, decide_eq_true_eq] at fit
  have := Bool.toNat_le l
  have := Bool.toNat_le m
  simp only [encode, word]
  omega
theorem abs64 (d : Nat) (a : Nat) (l : Bool) : Statement (.abs64 d a l) := by
  intro fit
  simp only [Instr.fits, Bool.and_eq_true, decide_eq_true_eq] at fit
  have := Bool.toNat_le l
  simp only [encode, word]
  omega
theorem neg64 (d : Nat) (a : Nat) (l : Bool) : Statement (.neg64 d a l) := by
  intro fit
  simp only [Instr.fits, Bool.and_eq_true, decide_eq_true_eq] at fit
  have := Bool.toNat_le l
  simp only [encode, word]
  omega
theorem and64 (d : Nat) (a : Nat) (l : Bool) (b : Nat) (m : Bool) : Statement (.and64 d a l b m) := by
  intro fit
  simp only [Instr.fits, Bool.and_eq_true, decide_eq_true_eq] at fit
  have := Bool.toNat_le l
  have := Bool.toNat_le m
  simp only [encode, word]
  omega
theorem or64 (d : Nat) (a : Nat) (l : Bool) (b : Nat) (m : Bool) : Statement (.or64 d a l b m) := by
  intro fit
  simp only [Instr.fits, Bool.and_eq_true, decide_eq_true_eq] at fit
  have := Bool.toNat_le l
  have := Bool.toNat_le m
  simp only [encode, word]
  omega
theorem xor64 (d : Nat) (a : Nat) (l : Bool) (b : Nat) (m : Bool) : Statement (.xor64 d a l b m) := by
  intro fit
  simp only [Instr.fits, Bool.and_eq_true, decide_eq_true_eq] at fit
  have := Bool.toNat_le l
  have := Bool.toNat_le m
  simp only [encode, word]
  omega
theorem andn64 (d : Nat) (a : Nat) (l : Bool) (b : Nat) (m : Bool) : Statement (.andn64 d a l b m) := by
  intro fit
  simp only [Instr.fits, Bool.and_eq_true, decide_eq_true_eq] at fit
  have := Bool.toNat_le l
  have := Bool.toNat_le m
  simp only [encode, word]
  omega
theorem not64 (d : Nat) (a : Nat) (l : Bool) : Statement (.not64 d a l) := by
  intro fit
  simp only [Instr.fits, Bool.and_eq_true, decide_eq_true_eq] at fit
  have := Bool.toNat_le l
  simp only [encode, word]
  omega
theorem shl64 (d : Nat) (a : Nat) (l : Bool) (b : Nat) (m : Bool) : Statement (.shl64 d a l b m) := by
  intro fit
  simp only [Instr.fits, Bool.and_eq_true, decide_eq_true_eq] at fit
  have := Bool.toNat_le l
  have := Bool.toNat_le m
  simp only [encode, word]
  omega
theorem shr64 (d : Nat) (a : Nat) (l : Bool) (b : Nat) (m : Bool) : Statement (.shr64 d a l b m) := by
  intro fit
  simp only [Instr.fits, Bool.and_eq_true, decide_eq_true_eq] at fit
  have := Bool.toNat_le l
  have := Bool.toNat_le m
  simp only [encode, word]
  omega
theorem shra64 (d : Nat) (a : Nat) (l : Bool) (b : Nat) (m : Bool) : Statement (.shra64 d a l b m) := by
  intro fit
  simp only [Instr.fits, Bool.and_eq_true, decide_eq_true_eq] at fit
  have := Bool.toNat_le l
  have := Bool.toNat_le m
  simp only [encode, word]
  omega
theorem rot64 (d : Nat) (a : Nat) (l : Bool) (b : Nat) (m : Bool) : Statement (.rot64 d a l b m) := by
  intro fit
  simp only [Instr.fits, Bool.and_eq_true, decide_eq_true_eq] at fit
  have := Bool.toNat_le l
  have := Bool.toNat_le m
  simp only [encode, word]
  omega
theorem popc64 (d : Nat) (a : Nat) (l : Bool) : Statement (.popc64 d a l) := by
  intro fit
  simp only [Instr.fits, Bool.and_eq_true, decide_eq_true_eq] at fit
  have := Bool.toNat_le l
  simp only [encode, word]
  omega
theorem clz64 (d : Nat) (a : Nat) (l : Bool) : Statement (.clz64 d a l) := by
  intro fit
  simp only [Instr.fits, Bool.and_eq_true, decide_eq_true_eq] at fit
  have := Bool.toNat_le l
  simp only [encode, word]
  omega
theorem ctz64 (d : Nat) (a : Nat) (l : Bool) : Statement (.ctz64 d a l) := by
  intro fit
  simp only [Instr.fits, Bool.and_eq_true, decide_eq_true_eq] at fit
  have := Bool.toNat_le l
  simp only [encode, word]
  omega
theorem brev64 (d : Nat) (a : Nat) (l : Bool) : Statement (.brev64 d a l) := by
  intro fit
  simp only [Instr.fits, Bool.and_eq_true, decide_eq_true_eq] at fit
  have := Bool.toNat_le l
  simp only [encode, word]
  omega
theorem mov64 (d : Nat) (a : Nat) (l : Bool) : Statement (.mov64 d a l) := by
  intro fit
  simp only [Instr.fits, Bool.and_eq_true, decide_eq_true_eq] at fit
  have := Bool.toNat_le l
  simp only [encode, word]
  omega
theorem bfxI64 (d : Nat) (a : Nat) (l : Bool) (b : Nat) (m : Bool) : Statement (.bfxI64 d a l b m) := by
  intro fit
  simp only [Instr.fits, Bool.and_eq_true, decide_eq_true_eq] at fit
  have := Bool.toNat_le l
  have := Bool.toNat_le m
  simp only [encode, word]
  omega
theorem bfxN64 (d : Nat) (a : Nat) (l : Bool) (b : Nat) (m : Bool) : Statement (.bfxN64 d a l b m) := by
  intro fit
  simp only [Instr.fits, Bool.and_eq_true, decide_eq_true_eq] at fit
  have := Bool.toNat_le l
  have := Bool.toNat_le m
  simp only [encode, word]
  omega
theorem addc (d : Nat) (a : Nat) (l : Bool) (b : Nat) (m : Bool) (p : Nat) : Statement (.addc d a l b m p) := by
  intro fit
  simp only [Instr.fits, Bool.and_eq_true, decide_eq_true_eq] at fit
  have := Bool.toNat_le l
  have := Bool.toNat_le m
  simp only [encode, word]
  omega
theorem subb (d : Nat) (a : Nat) (l : Bool) (b : Nat) (m : Bool) (p : Nat) : Statement (.subb d a l b m p) := by
  intro fit
  simp only [Instr.fits, Bool.and_eq_true, decide_eq_true_eq] at fit
  have := Bool.toNat_le l
  have := Bool.toNat_le m
  simp only [encode, word]
  omega
theorem sel (d : Nat) (a : Nat) (l : Bool) (b : Nat) (m : Bool) (p : Nat) : Statement (.sel d a l b m p) := by
  intro fit
  simp only [Instr.fits, Bool.and_eq_true, decide_eq_true_eq] at fit
  have := Bool.toNat_le l
  have := Bool.toNat_le m
  simp only [encode, word]
  omega
theorem lea (d : Nat) (a : Nat) (l : Bool) (b : Nat) (m : Bool) (x : Bool) (s : Nat) : Statement (.lea d a l b m x s) := by
  intro fit
  simp only [Instr.fits, Bool.and_eq_true, decide_eq_true_eq] at fit
  have := Bool.toNat_le l
  have := Bool.toNat_le m
  have := Bool.toNat_le x
  simp only [encode, word]
  omega
theorem bfi (d : Nat) (a : Nat) (l : Bool) (b : Nat) (m : Bool) (c : Nat) : Statement (.bfi d a l b m c) := by
  intro fit
  simp only [Instr.fits, Bool.and_eq_true, decide_eq_true_eq] at fit
  have := Bool.toNat_le l
  have := Bool.toNat_le m
  simp only [encode, word]
  omega
theorem mad32 (d : Nat) (a : Nat) (l : Bool) (b : Nat) (m : Bool) (c : Nat) : Statement (.mad32 d a l b m c) := by
  intro fit
  simp only [Instr.fits, Bool.and_eq_true, decide_eq_true_eq] at fit
  have := Bool.toNat_le l
  have := Bool.toNat_le m
  simp only [encode, word]
  omega
theorem mad64 (d : Nat) (a : Nat) (l : Bool) (b : Nat) (m : Bool) (c : Nat) : Statement (.mad64 d a l b m c) := by
  intro fit
  simp only [Instr.fits, Bool.and_eq_true, decide_eq_true_eq] at fit
  have := Bool.toNat_le l
  have := Bool.toNat_le m
  simp only [encode, word]
  omega
theorem addI32Imm (d : Nat) (a : Nat) (l : Bool) (i : Nat) : Statement (.addI32Imm d a l i) := by
  intro fit
  simp only [Instr.fits, Bool.and_eq_true, decide_eq_true_eq] at fit
  have := Bool.toNat_le l
  simp only [encode, word]
  omega
theorem andImm (d : Nat) (a : Nat) (l : Bool) (i : Nat) : Statement (.andImm d a l i) := by
  intro fit
  simp only [Instr.fits, Bool.and_eq_true, decide_eq_true_eq] at fit
  have := Bool.toNat_le l
  simp only [encode, word]
  omega
theorem orImm (d : Nat) (a : Nat) (l : Bool) (i : Nat) : Statement (.orImm d a l i) := by
  intro fit
  simp only [Instr.fits, Bool.and_eq_true, decide_eq_true_eq] at fit
  have := Bool.toNat_le l
  simp only [encode, word]
  omega
theorem xorImm (d : Nat) (a : Nat) (l : Bool) (i : Nat) : Statement (.xorImm d a l i) := by
  intro fit
  simp only [Instr.fits, Bool.and_eq_true, decide_eq_true_eq] at fit
  have := Bool.toNat_le l
  simp only [encode, word]
  omega
theorem shlImm (d : Nat) (a : Nat) (l : Bool) (w : Bool) (n : Nat) : Statement (.shlImm d a l w n) := by
  intro fit
  simp only [Instr.fits, Bool.and_eq_true, decide_eq_true_eq] at fit
  have := Bool.toNat_le l
  have := Bool.toNat_le w
  simp only [encode, word]
  omega
theorem shrImm (d : Nat) (a : Nat) (l : Bool) (w : Bool) (n : Nat) : Statement (.shrImm d a l w n) := by
  intro fit
  simp only [Instr.fits, Bool.and_eq_true, decide_eq_true_eq] at fit
  have := Bool.toNat_le l
  have := Bool.toNat_le w
  simp only [encode, word]
  omega
theorem shraImm (d : Nat) (a : Nat) (l : Bool) (w : Bool) (n : Nat) : Statement (.shraImm d a l w n) := by
  intro fit
  simp only [Instr.fits, Bool.and_eq_true, decide_eq_true_eq] at fit
  have := Bool.toNat_le l
  have := Bool.toNat_le w
  simp only [encode, word]
  omega
theorem rotImm (d : Nat) (a : Nat) (l : Bool) (w : Bool) (n : Nat) : Statement (.rotImm d a l w n) := by
  intro fit
  simp only [Instr.fits, Bool.and_eq_true, decide_eq_true_eq] at fit
  have := Bool.toNat_le l
  have := Bool.toNat_le w
  simp only [encode, word]
  omega
theorem movi (d : Nat) (i : Nat) : Statement (.movi d i) := by
  intro fit
  simp only [Instr.fits, Bool.and_eq_true, decide_eq_true_eq] at fit
  simp only [encode, word]
  omega
theorem addI64Imm (d : Nat) (a : Nat) (l : Bool) (i : Nat) : Statement (.addI64Imm d a l i) := by
  intro fit
  simp only [Instr.fits, Bool.and_eq_true, decide_eq_true_eq] at fit
  have := Bool.toNat_le l
  simp only [encode, word]
  omega
theorem faddF32 (d : Nat) (a : Nat) (l : Bool) (b : Nat) (m : Bool) : Statement (.faddF32 d a l b m) := by
  intro fit
  simp only [Instr.fits, Bool.and_eq_true, decide_eq_true_eq] at fit
  have := Bool.toNat_le l
  have := Bool.toNat_le m
  simp only [encode, word]
  omega
theorem fsubF32 (d : Nat) (a : Nat) (l : Bool) (b : Nat) (m : Bool) : Statement (.fsubF32 d a l b m) := by
  intro fit
  simp only [Instr.fits, Bool.and_eq_true, decide_eq_true_eq] at fit
  have := Bool.toNat_le l
  have := Bool.toNat_le m
  simp only [encode, word]
  omega
theorem fmulF32 (d : Nat) (a : Nat) (l : Bool) (b : Nat) (m : Bool) : Statement (.fmulF32 d a l b m) := by
  intro fit
  simp only [Instr.fits, Bool.and_eq_true, decide_eq_true_eq] at fit
  have := Bool.toNat_le l
  have := Bool.toNat_le m
  simp only [encode, word]
  omega
theorem fminF32 (d : Nat) (a : Nat) (l : Bool) (b : Nat) (m : Bool) : Statement (.fminF32 d a l b m) := by
  intro fit
  simp only [Instr.fits, Bool.and_eq_true, decide_eq_true_eq] at fit
  have := Bool.toNat_le l
  have := Bool.toNat_le m
  simp only [encode, word]
  omega
theorem fmaxF32 (d : Nat) (a : Nat) (l : Bool) (b : Nat) (m : Bool) : Statement (.fmaxF32 d a l b m) := by
  intro fit
  simp only [Instr.fits, Bool.and_eq_true, decide_eq_true_eq] at fit
  have := Bool.toNat_le l
  have := Bool.toNat_le m
  simp only [encode, word]
  omega
theorem fdivF32 (d : Nat) (a : Nat) (l : Bool) (b : Nat) (m : Bool) : Statement (.fdivF32 d a l b m) := by
  intro fit
  simp only [Instr.fits, Bool.and_eq_true, decide_eq_true_eq] at fit
  have := Bool.toNat_le l
  have := Bool.toNat_le m
  simp only [encode, word]
  omega
theorem fsqrtF32 (d : Nat) (a : Nat) (l : Bool) : Statement (.fsqrtF32 d a l) := by
  intro fit
  simp only [Instr.fits, Bool.and_eq_true, decide_eq_true_eq] at fit
  have := Bool.toNat_le l
  simp only [encode, word]
  omega
theorem frcpF32 (d : Nat) (a : Nat) (l : Bool) : Statement (.frcpF32 d a l) := by
  intro fit
  simp only [Instr.fits, Bool.and_eq_true, decide_eq_true_eq] at fit
  have := Bool.toNat_le l
  simp only [encode, word]
  omega
theorem frsqF32 (d : Nat) (a : Nat) (l : Bool) : Statement (.frsqF32 d a l) := by
  intro fit
  simp only [Instr.fits, Bool.and_eq_true, decide_eq_true_eq] at fit
  have := Bool.toNat_le l
  simp only [encode, word]
  omega
theorem fexp2F32 (d : Nat) (a : Nat) (l : Bool) : Statement (.fexp2F32 d a l) := by
  intro fit
  simp only [Instr.fits, Bool.and_eq_true, decide_eq_true_eq] at fit
  have := Bool.toNat_le l
  simp only [encode, word]
  omega
theorem flog2F32 (d : Nat) (a : Nat) (l : Bool) : Statement (.flog2F32 d a l) := by
  intro fit
  simp only [Instr.fits, Bool.and_eq_true, decide_eq_true_eq] at fit
  have := Bool.toNat_le l
  simp only [encode, word]
  omega
theorem fsinF32 (d : Nat) (a : Nat) (l : Bool) : Statement (.fsinF32 d a l) := by
  intro fit
  simp only [Instr.fits, Bool.and_eq_true, decide_eq_true_eq] at fit
  have := Bool.toNat_le l
  simp only [encode, word]
  omega
theorem fcosF32 (d : Nat) (a : Nat) (l : Bool) : Statement (.fcosF32 d a l) := by
  intro fit
  simp only [Instr.fits, Bool.and_eq_true, decide_eq_true_eq] at fit
  have := Bool.toNat_le l
  simp only [encode, word]
  omega
theorem fabsF32 (d : Nat) (a : Nat) (l : Bool) : Statement (.fabsF32 d a l) := by
  intro fit
  simp only [Instr.fits, Bool.and_eq_true, decide_eq_true_eq] at fit
  have := Bool.toNat_le l
  simp only [encode, word]
  omega
theorem fnegF32 (d : Nat) (a : Nat) (l : Bool) : Statement (.fnegF32 d a l) := by
  intro fit
  simp only [Instr.fits, Bool.and_eq_true, decide_eq_true_eq] at fit
  have := Bool.toNat_le l
  simp only [encode, word]
  omega
theorem fclassF32 (d : Nat) (a : Nat) (l : Bool) : Statement (.fclassF32 d a l) := by
  intro fit
  simp only [Instr.fits, Bool.and_eq_true, decide_eq_true_eq] at fit
  have := Bool.toNat_le l
  simp only [encode, word]
  omega
theorem fscaleF32 (d : Nat) (a : Nat) (l : Bool) (b : Nat) (m : Bool) : Statement (.fscaleF32 d a l b m) := by
  intro fit
  simp only [Instr.fits, Bool.and_eq_true, decide_eq_true_eq] at fit
  have := Bool.toNat_le l
  have := Bool.toNat_le m
  simp only [encode, word]
  omega
theorem frintF32 (d : Nat) (a : Nat) (l : Bool) : Statement (.frintF32 d a l) := by
  intro fit
  simp only [Instr.fits, Bool.and_eq_true, decide_eq_true_eq] at fit
  have := Bool.toNat_le l
  simp only [encode, word]
  omega
theorem faddF64 (d : Nat) (a : Nat) (l : Bool) (b : Nat) (m : Bool) : Statement (.faddF64 d a l b m) := by
  intro fit
  simp only [Instr.fits, Bool.and_eq_true, decide_eq_true_eq] at fit
  have := Bool.toNat_le l
  have := Bool.toNat_le m
  simp only [encode, word]
  omega
theorem fsubF64 (d : Nat) (a : Nat) (l : Bool) (b : Nat) (m : Bool) : Statement (.fsubF64 d a l b m) := by
  intro fit
  simp only [Instr.fits, Bool.and_eq_true, decide_eq_true_eq] at fit
  have := Bool.toNat_le l
  have := Bool.toNat_le m
  simp only [encode, word]
  omega
theorem fmulF64 (d : Nat) (a : Nat) (l : Bool) (b : Nat) (m : Bool) : Statement (.fmulF64 d a l b m) := by
  intro fit
  simp only [Instr.fits, Bool.and_eq_true, decide_eq_true_eq] at fit
  have := Bool.toNat_le l
  have := Bool.toNat_le m
  simp only [encode, word]
  omega
theorem fminF64 (d : Nat) (a : Nat) (l : Bool) (b : Nat) (m : Bool) : Statement (.fminF64 d a l b m) := by
  intro fit
  simp only [Instr.fits, Bool.and_eq_true, decide_eq_true_eq] at fit
  have := Bool.toNat_le l
  have := Bool.toNat_le m
  simp only [encode, word]
  omega
theorem fmaxF64 (d : Nat) (a : Nat) (l : Bool) (b : Nat) (m : Bool) : Statement (.fmaxF64 d a l b m) := by
  intro fit
  simp only [Instr.fits, Bool.and_eq_true, decide_eq_true_eq] at fit
  have := Bool.toNat_le l
  have := Bool.toNat_le m
  simp only [encode, word]
  omega
theorem fdivF64 (d : Nat) (a : Nat) (l : Bool) (b : Nat) (m : Bool) : Statement (.fdivF64 d a l b m) := by
  intro fit
  simp only [Instr.fits, Bool.and_eq_true, decide_eq_true_eq] at fit
  have := Bool.toNat_le l
  have := Bool.toNat_le m
  simp only [encode, word]
  omega
theorem fsqrtF64 (d : Nat) (a : Nat) (l : Bool) : Statement (.fsqrtF64 d a l) := by
  intro fit
  simp only [Instr.fits, Bool.and_eq_true, decide_eq_true_eq] at fit
  have := Bool.toNat_le l
  simp only [encode, word]
  omega
theorem frcpF64 (d : Nat) (a : Nat) (l : Bool) : Statement (.frcpF64 d a l) := by
  intro fit
  simp only [Instr.fits, Bool.and_eq_true, decide_eq_true_eq] at fit
  have := Bool.toNat_le l
  simp only [encode, word]
  omega
theorem frsqF64 (d : Nat) (a : Nat) (l : Bool) : Statement (.frsqF64 d a l) := by
  intro fit
  simp only [Instr.fits, Bool.and_eq_true, decide_eq_true_eq] at fit
  have := Bool.toNat_le l
  simp only [encode, word]
  omega
theorem fexp2F64 (d : Nat) (a : Nat) (l : Bool) : Statement (.fexp2F64 d a l) := by
  intro fit
  simp only [Instr.fits, Bool.and_eq_true, decide_eq_true_eq] at fit
  have := Bool.toNat_le l
  simp only [encode, word]
  omega
theorem flog2F64 (d : Nat) (a : Nat) (l : Bool) : Statement (.flog2F64 d a l) := by
  intro fit
  simp only [Instr.fits, Bool.and_eq_true, decide_eq_true_eq] at fit
  have := Bool.toNat_le l
  simp only [encode, word]
  omega
theorem fsinF64 (d : Nat) (a : Nat) (l : Bool) : Statement (.fsinF64 d a l) := by
  intro fit
  simp only [Instr.fits, Bool.and_eq_true, decide_eq_true_eq] at fit
  have := Bool.toNat_le l
  simp only [encode, word]
  omega
theorem fcosF64 (d : Nat) (a : Nat) (l : Bool) : Statement (.fcosF64 d a l) := by
  intro fit
  simp only [Instr.fits, Bool.and_eq_true, decide_eq_true_eq] at fit
  have := Bool.toNat_le l
  simp only [encode, word]
  omega
theorem fabsF64 (d : Nat) (a : Nat) (l : Bool) : Statement (.fabsF64 d a l) := by
  intro fit
  simp only [Instr.fits, Bool.and_eq_true, decide_eq_true_eq] at fit
  have := Bool.toNat_le l
  simp only [encode, word]
  omega
theorem fnegF64 (d : Nat) (a : Nat) (l : Bool) : Statement (.fnegF64 d a l) := by
  intro fit
  simp only [Instr.fits, Bool.and_eq_true, decide_eq_true_eq] at fit
  have := Bool.toNat_le l
  simp only [encode, word]
  omega
theorem fclassF64 (d : Nat) (a : Nat) (l : Bool) : Statement (.fclassF64 d a l) := by
  intro fit
  simp only [Instr.fits, Bool.and_eq_true, decide_eq_true_eq] at fit
  have := Bool.toNat_le l
  simp only [encode, word]
  omega
theorem fscaleF64 (d : Nat) (a : Nat) (l : Bool) (b : Nat) (m : Bool) : Statement (.fscaleF64 d a l b m) := by
  intro fit
  simp only [Instr.fits, Bool.and_eq_true, decide_eq_true_eq] at fit
  have := Bool.toNat_le l
  have := Bool.toNat_le m
  simp only [encode, word]
  omega
theorem frintF64 (d : Nat) (a : Nat) (l : Bool) : Statement (.frintF64 d a l) := by
  intro fit
  simp only [Instr.fits, Bool.and_eq_true, decide_eq_true_eq] at fit
  have := Bool.toNat_le l
  simp only [encode, word]
  omega
theorem faddF16 (d : Nat) (a : Nat) (l : Bool) (b : Nat) (m : Bool) : Statement (.faddF16 d a l b m) := by
  intro fit
  simp only [Instr.fits, Bool.and_eq_true, decide_eq_true_eq] at fit
  have := Bool.toNat_le l
  have := Bool.toNat_le m
  simp only [encode, word]
  omega
theorem fsubF16 (d : Nat) (a : Nat) (l : Bool) (b : Nat) (m : Bool) : Statement (.fsubF16 d a l b m) := by
  intro fit
  simp only [Instr.fits, Bool.and_eq_true, decide_eq_true_eq] at fit
  have := Bool.toNat_le l
  have := Bool.toNat_le m
  simp only [encode, word]
  omega
theorem fmulF16 (d : Nat) (a : Nat) (l : Bool) (b : Nat) (m : Bool) : Statement (.fmulF16 d a l b m) := by
  intro fit
  simp only [Instr.fits, Bool.and_eq_true, decide_eq_true_eq] at fit
  have := Bool.toNat_le l
  have := Bool.toNat_le m
  simp only [encode, word]
  omega
theorem fminF16 (d : Nat) (a : Nat) (l : Bool) (b : Nat) (m : Bool) : Statement (.fminF16 d a l b m) := by
  intro fit
  simp only [Instr.fits, Bool.and_eq_true, decide_eq_true_eq] at fit
  have := Bool.toNat_le l
  have := Bool.toNat_le m
  simp only [encode, word]
  omega
theorem fmaxF16 (d : Nat) (a : Nat) (l : Bool) (b : Nat) (m : Bool) : Statement (.fmaxF16 d a l b m) := by
  intro fit
  simp only [Instr.fits, Bool.and_eq_true, decide_eq_true_eq] at fit
  have := Bool.toNat_le l
  have := Bool.toNat_le m
  simp only [encode, word]
  omega
theorem fabsF16 (d : Nat) (a : Nat) (l : Bool) : Statement (.fabsF16 d a l) := by
  intro fit
  simp only [Instr.fits, Bool.and_eq_true, decide_eq_true_eq] at fit
  have := Bool.toNat_le l
  simp only [encode, word]
  omega
theorem fnegF16 (d : Nat) (a : Nat) (l : Bool) : Statement (.fnegF16 d a l) := by
  intro fit
  simp only [Instr.fits, Bool.and_eq_true, decide_eq_true_eq] at fit
  have := Bool.toNat_le l
  simp only [encode, word]
  omega
theorem fclassF16 (d : Nat) (a : Nat) (l : Bool) : Statement (.fclassF16 d a l) := by
  intro fit
  simp only [Instr.fits, Bool.and_eq_true, decide_eq_true_eq] at fit
  have := Bool.toNat_le l
  simp only [encode, word]
  omega
theorem fscaleF16 (d : Nat) (a : Nat) (l : Bool) (b : Nat) (m : Bool) : Statement (.fscaleF16 d a l b m) := by
  intro fit
  simp only [Instr.fits, Bool.and_eq_true, decide_eq_true_eq] at fit
  have := Bool.toNat_le l
  have := Bool.toNat_le m
  simp only [encode, word]
  omega
theorem frintF16 (d : Nat) (a : Nat) (l : Bool) : Statement (.frintF16 d a l) := by
  intro fit
  simp only [Instr.fits, Bool.and_eq_true, decide_eq_true_eq] at fit
  have := Bool.toNat_le l
  simp only [encode, word]
  omega
theorem faddBf16 (d : Nat) (a : Nat) (l : Bool) (b : Nat) (m : Bool) : Statement (.faddBf16 d a l b m) := by
  intro fit
  simp only [Instr.fits, Bool.and_eq_true, decide_eq_true_eq] at fit
  have := Bool.toNat_le l
  have := Bool.toNat_le m
  simp only [encode, word]
  omega
theorem fsubBf16 (d : Nat) (a : Nat) (l : Bool) (b : Nat) (m : Bool) : Statement (.fsubBf16 d a l b m) := by
  intro fit
  simp only [Instr.fits, Bool.and_eq_true, decide_eq_true_eq] at fit
  have := Bool.toNat_le l
  have := Bool.toNat_le m
  simp only [encode, word]
  omega
theorem fmulBf16 (d : Nat) (a : Nat) (l : Bool) (b : Nat) (m : Bool) : Statement (.fmulBf16 d a l b m) := by
  intro fit
  simp only [Instr.fits, Bool.and_eq_true, decide_eq_true_eq] at fit
  have := Bool.toNat_le l
  have := Bool.toNat_le m
  simp only [encode, word]
  omega
theorem fminBf16 (d : Nat) (a : Nat) (l : Bool) (b : Nat) (m : Bool) : Statement (.fminBf16 d a l b m) := by
  intro fit
  simp only [Instr.fits, Bool.and_eq_true, decide_eq_true_eq] at fit
  have := Bool.toNat_le l
  have := Bool.toNat_le m
  simp only [encode, word]
  omega
theorem fmaxBf16 (d : Nat) (a : Nat) (l : Bool) (b : Nat) (m : Bool) : Statement (.fmaxBf16 d a l b m) := by
  intro fit
  simp only [Instr.fits, Bool.and_eq_true, decide_eq_true_eq] at fit
  have := Bool.toNat_le l
  have := Bool.toNat_le m
  simp only [encode, word]
  omega
theorem fabsBf16 (d : Nat) (a : Nat) (l : Bool) : Statement (.fabsBf16 d a l) := by
  intro fit
  simp only [Instr.fits, Bool.and_eq_true, decide_eq_true_eq] at fit
  have := Bool.toNat_le l
  simp only [encode, word]
  omega
theorem fnegBf16 (d : Nat) (a : Nat) (l : Bool) : Statement (.fnegBf16 d a l) := by
  intro fit
  simp only [Instr.fits, Bool.and_eq_true, decide_eq_true_eq] at fit
  have := Bool.toNat_le l
  simp only [encode, word]
  omega
theorem fclassBf16 (d : Nat) (a : Nat) (l : Bool) : Statement (.fclassBf16 d a l) := by
  intro fit
  simp only [Instr.fits, Bool.and_eq_true, decide_eq_true_eq] at fit
  have := Bool.toNat_le l
  simp only [encode, word]
  omega
theorem fscaleBf16 (d : Nat) (a : Nat) (l : Bool) (b : Nat) (m : Bool) : Statement (.fscaleBf16 d a l b m) := by
  intro fit
  simp only [Instr.fits, Bool.and_eq_true, decide_eq_true_eq] at fit
  have := Bool.toNat_le l
  have := Bool.toNat_le m
  simp only [encode, word]
  omega
theorem frintBf16 (d : Nat) (a : Nat) (l : Bool) : Statement (.frintBf16 d a l) := by
  intro fit
  simp only [Instr.fits, Bool.and_eq_true, decide_eq_true_eq] at fit
  have := Bool.toNat_le l
  simp only [encode, word]
  omega
theorem ffmaF32 (d : Nat) (a : Nat) (l : Bool) (b : Nat) (m : Bool) (c : Nat) : Statement (.ffmaF32 d a l b m c) := by
  intro fit
  simp only [Instr.fits, Bool.and_eq_true, decide_eq_true_eq] at fit
  have := Bool.toNat_le l
  have := Bool.toNat_le m
  simp only [encode, word]
  omega
theorem ffmaF64 (d : Nat) (a : Nat) (l : Bool) (b : Nat) (m : Bool) (c : Nat) : Statement (.ffmaF64 d a l b m c) := by
  intro fit
  simp only [Instr.fits, Bool.and_eq_true, decide_eq_true_eq] at fit
  have := Bool.toNat_le l
  have := Bool.toNat_le m
  simp only [encode, word]
  omega
theorem ffmaF16 (d : Nat) (a : Nat) (l : Bool) (b : Nat) (m : Bool) (c : Nat) : Statement (.ffmaF16 d a l b m c) := by
  intro fit
  simp only [Instr.fits, Bool.and_eq_true, decide_eq_true_eq] at fit
  have := Bool.toNat_le l
  have := Bool.toNat_le m
  simp only [encode, word]
  omega
theorem ffmaBf16 (d : Nat) (a : Nat) (l : Bool) (b : Nat) (m : Bool) (c : Nat) : Statement (.ffmaBf16 d a l b m c) := by
  intro fit
  simp only [Instr.fits, Bool.and_eq_true, decide_eq_true_eq] at fit
  have := Bool.toNat_le l
  have := Bool.toNat_le m
  simp only [encode, word]
  omega
theorem cvt (d : Nat) (a : Nat) (l : Bool) (b : Nat) (m : Bool) (s : Nat) : Statement (.cvt d a l b m s) := by
  intro fit
  simp only [Instr.fits, Bool.and_eq_true, decide_eq_true_eq] at fit
  have := Bool.toNat_le l
  have := Bool.toNat_le m
  simp only [encode, word]
  omega
theorem cmp (p : Nat) (c : Nat) (a : Nat) (l : Bool) (b : Nat) (m : Bool) (o : Nat) (t : Nat) : Statement (.cmp p c a l b m o t) := by
  intro fit
  simp only [Instr.fits, Bool.and_eq_true, decide_eq_true_eq] at fit
  have := Bool.toNat_le l
  have := Bool.toNat_le m
  simp only [encode, word]
  omega
theorem pand (p : Nat) (c : Nat) (a : Nat) (b : Nat) : Statement (.pand p c a b) := by
  intro fit
  simp only [Instr.fits, Bool.and_eq_true, decide_eq_true_eq] at fit
  simp only [encode, word]
  omega
theorem por (p : Nat) (c : Nat) (a : Nat) (b : Nat) : Statement (.por p c a b) := by
  intro fit
  simp only [Instr.fits, Bool.and_eq_true, decide_eq_true_eq] at fit
  simp only [encode, word]
  omega
theorem pxor (p : Nat) (c : Nat) (a : Nat) (b : Nat) : Statement (.pxor p c a b) := by
  intro fit
  simp only [Instr.fits, Bool.and_eq_true, decide_eq_true_eq] at fit
  simp only [encode, word]
  omega
theorem pnot (p : Nat) (c : Nat) (a : Nat) : Statement (.pnot p c a) := by
  intro fit
  simp only [Instr.fits, Bool.and_eq_true, decide_eq_true_eq] at fit
  simp only [encode, word]
  omega
theorem pmov (p : Nat) (c : Nat) (a : Nat) : Statement (.pmov p c a) := by
  intro fit
  simp only [Instr.fits, Bool.and_eq_true, decide_eq_true_eq] at fit
  simp only [encode, word]
  omega
theorem br (g : Nat) (s : Bool) (o : Nat) : Statement (.br g s o) := by
  intro fit
  simp only [Instr.fits, Bool.and_eq_true, decide_eq_true_eq] at fit
  have := Bool.toNat_le s
  simp only [encode, word]
  omega
theorem call (g : Nat) (s : Bool) (o : Nat) : Statement (.call g s o) := by
  intro fit
  simp only [Instr.fits, Bool.and_eq_true, decide_eq_true_eq] at fit
  have := Bool.toNat_le s
  simp only [encode, word]
  omega
theorem brx (a : Nat) (l : Bool) : Statement (.brx a l) := by
  intro fit
  simp only [Instr.fits, decide_eq_true_eq] at fit
  have := Bool.toNat_le l
  simp only [encode, word]
  omega
theorem callx (a : Nat) (l : Bool) : Statement (.callx a l) := by
  intro fit
  simp only [Instr.fits, decide_eq_true_eq] at fit
  have := Bool.toNat_le l
  simp only [encode, word]
  omega
theorem waitk (k : Nat) (n : Nat) : Statement (.waitk k n) := by
  intro fit
  simp only [Instr.fits, Bool.and_eq_true, decide_eq_true_eq] at fit
  simp only [encode, word]
  omega
theorem trap (c : Nat) : Statement (.trap c) := by
  intro fit
  simp only [Instr.fits, decide_eq_true_eq] at fit
  simp only [encode, word]
  omega
theorem softi (q : Nat) : Statement (.softi q) := by
  intro fit
  simp only [Instr.fits, decide_eq_true_eq] at fit
  simp only [encode, word]
  omega
theorem cdeclRange (a : Nat) (l : Bool) (n : Nat) : Statement (.cdeclRange a l n) := by
  intro fit
  simp only [Instr.fits, Bool.and_eq_true, decide_eq_true_eq] at fit
  have := Bool.toNat_le l
  simp only [encode, word]
  omega
theorem cdeclMask (d : Nat) (a : Nat) (l : Bool) (n : Nat) : Statement (.cdeclMask d a l n) := by
  intro fit
  simp only [Instr.fits, Bool.and_eq_true, decide_eq_true_eq] at fit
  have := Bool.toNat_le l
  simp only [encode, word]
  omega
theorem csign (n : Nat) : Statement (.csign n) := by
  intro fit
  simp only [Instr.fits, decide_eq_true_eq] at fit
  simp only [encode, word]
  omega
theorem cwait (n : Nat) : Statement (.cwait n) := by
  intro fit
  simp only [Instr.fits, decide_eq_true_eq] at fit
  simp only [encode, word]
  omega
theorem xshfIdx (d : Nat) (a : Nat) (l : Bool) (b : Nat) (m : Bool) (n : Nat) : Statement (.xshfIdx d a l b m n) := by
  intro fit
  simp only [Instr.fits, Bool.and_eq_true, decide_eq_true_eq] at fit
  have := Bool.toNat_le l
  have := Bool.toNat_le m
  simp only [encode, word]
  omega
theorem xshfUp (d : Nat) (a : Nat) (l : Bool) (b : Nat) (m : Bool) (n : Nat) : Statement (.xshfUp d a l b m n) := by
  intro fit
  simp only [Instr.fits, Bool.and_eq_true, decide_eq_true_eq] at fit
  have := Bool.toNat_le l
  have := Bool.toNat_le m
  simp only [encode, word]
  omega
theorem xshfDown (d : Nat) (a : Nat) (l : Bool) (b : Nat) (m : Bool) (n : Nat) : Statement (.xshfDown d a l b m n) := by
  intro fit
  simp only [Instr.fits, Bool.and_eq_true, decide_eq_true_eq] at fit
  have := Bool.toNat_le l
  have := Bool.toNat_le m
  simp only [encode, word]
  omega
theorem xshfXor (d : Nat) (a : Nat) (l : Bool) (b : Nat) (m : Bool) (n : Nat) : Statement (.xshfXor d a l b m n) := by
  intro fit
  simp only [Instr.fits, Bool.and_eq_true, decide_eq_true_eq] at fit
  have := Bool.toNat_le l
  have := Bool.toNat_le m
  simp only [encode, word]
  omega
theorem xbcast (d : Nat) (a : Nat) (l : Bool) (w : Bool) (h : Bool) (n : Nat) : Statement (.xbcast d a l w h n) := by
  intro fit
  simp only [Instr.fits, Bool.and_eq_true, decide_eq_true_eq] at fit
  have := Bool.toNat_le l
  have := Bool.toNat_le w
  have := Bool.toNat_le h
  simp only [encode, word]
  omega
theorem xred (d : Nat) (a : Nat) (l : Bool) (o : Nat) (n : Nat) : Statement (.xred d a l o n) := by
  intro fit
  simp only [Instr.fits, Bool.and_eq_true, decide_eq_true_eq] at fit
  have := Bool.toNat_le l
  simp only [encode, word]
  omega
theorem xscanInc (d : Nat) (a : Nat) (l : Bool) (o : Nat) (n : Nat) : Statement (.xscanInc d a l o n) := by
  intro fit
  simp only [Instr.fits, Bool.and_eq_true, decide_eq_true_eq] at fit
  have := Bool.toNat_le l
  simp only [encode, word]
  omega
theorem xscanExc (d : Nat) (a : Nat) (l : Bool) (o : Nat) (n : Nat) : Statement (.xscanExc d a l o n) := by
  intro fit
  simp only [Instr.fits, Bool.and_eq_true, decide_eq_true_eq] at fit
  have := Bool.toNat_le l
  simp only [encode, word]
  omega
theorem xvote (d : Nat) (a : Nat) (o : Nat) (n : Nat) : Statement (.xvote d a o n) := by
  intro fit
  simp only [Instr.fits, Bool.and_eq_true, decide_eq_true_eq] at fit
  simp only [encode, word]
  omega
theorem mma (s : Nat) (b : Nat) (l : Bool) (p : Nat) (n : Nat) (t : Nat) : Statement (.mma s b l p n t) := by
  intro fit
  simp only [Instr.fits, Bool.and_eq_true, decide_eq_true_eq] at fit
  have := Bool.toNat_le l
  simp only [encode, word]
  omega
theorem mmas (s : Nat) (b : Nat) (l : Bool) (p : Nat) (n : Nat) (t : Nat) : Statement (.mmas s b l p n t) := by
  intro fit
  simp only [Instr.fits, Bool.and_eq_true, decide_eq_true_eq] at fit
  have := Bool.toNat_le l
  simp only [encode, word]
  omega
theorem mmabXor (s : Nat) (b : Nat) (l : Bool) (p : Nat) (n : Nat) (t : Nat) : Statement (.mmabXor s b l p n t) := by
  intro fit
  simp only [Instr.fits, Bool.and_eq_true, decide_eq_true_eq] at fit
  have := Bool.toNat_le l
  simp only [encode, word]
  omega
theorem mmabAnd (s : Nat) (b : Nat) (l : Bool) (p : Nat) (n : Nat) (t : Nat) : Statement (.mmabAnd s b l p n t) := by
  intro fit
  simp only [Instr.fits, Bool.and_eq_true, decide_eq_true_eq] at fit
  have := Bool.toNat_le l
  simp only [encode, word]
  omega
theorem mmac (s : Nat) (b : Nat) (l : Bool) (p : Nat) (n : Nat) (t : Nat) : Statement (.mmac s b l p n t) := by
  intro fit
  simp only [Instr.fits, Bool.and_eq_true, decide_eq_true_eq] at fit
  have := Bool.toNat_le l
  simp only [encode, word]
  omega
theorem aczero (t : Nat) : Statement (.aczero t) := by
  intro fit
  simp only [Instr.fits, decide_eq_true_eq] at fit
  simp only [encode, word]
  omega
theorem acld (a : Nat) (l : Bool) (t : Nat) : Statement (.acld a l t) := by
  intro fit
  simp only [Instr.fits, Bool.and_eq_true, decide_eq_true_eq] at fit
  have := Bool.toNat_le l
  simp only [encode, word]
  omega
theorem acst (a : Nat) (l : Bool) (t : Nat) : Statement (.acst a l t) := by
  intro fit
  simp only [Instr.fits, Bool.and_eq_true, decide_eq_true_eq] at fit
  have := Bool.toNat_le l
  simp only [encode, word]
  omega
theorem acres (d : Nat) (a : Nat) (l : Bool) (s : Nat) (t : Nat) : Statement (.acres d a l s t) := by
  intro fit
  simp only [Instr.fits, Bool.and_eq_true, decide_eq_true_eq] at fit
  have := Bool.toNat_le l
  simp only [encode, word]
  omega
theorem accmp (d : Nat) (a : Nat) (l : Bool) (u : Nat) (t : Nat) : Statement (.accmp d a l u t) := by
  intro fit
  simp only [Instr.fits, Bool.and_eq_true, decide_eq_true_eq] at fit
  have := Bool.toNat_le l
  simp only [encode, word]
  omega
theorem acmov (u : Nat) (t : Nat) : Statement (.acmov u t) := by
  intro fit
  simp only [Instr.fits, Bool.and_eq_true, decide_eq_true_eq] at fit
  simp only [encode, word]
  omega
theorem ldGB32 (d : Nat) (a : Nat) (l : Bool) (g : Nat) (s : Bool) (o : Nat) : Statement (.ldGB32 d a l g s o) := by
  intro fit
  simp only [Instr.fits, Bool.and_eq_true, decide_eq_true_eq] at fit
  have := Bool.toNat_le l
  have := Bool.toNat_le s
  simp only [encode, word]
  omega
theorem stGB32 (d : Nat) (a : Nat) (l : Bool) (g : Nat) (s : Bool) (o : Nat) : Statement (.stGB32 d a l g s o) := by
  intro fit
  simp only [Instr.fits, Bool.and_eq_true, decide_eq_true_eq] at fit
  have := Bool.toNat_le l
  have := Bool.toNat_le s
  simp only [encode, word]
  omega
theorem ldGB64 (d : Nat) (a : Nat) (l : Bool) (g : Nat) (s : Bool) (o : Nat) : Statement (.ldGB64 d a l g s o) := by
  intro fit
  simp only [Instr.fits, Bool.and_eq_true, decide_eq_true_eq] at fit
  have := Bool.toNat_le l
  have := Bool.toNat_le s
  simp only [encode, word]
  omega
theorem stGB64 (d : Nat) (a : Nat) (l : Bool) (g : Nat) (s : Bool) (o : Nat) : Statement (.stGB64 d a l g s o) := by
  intro fit
  simp only [Instr.fits, Bool.and_eq_true, decide_eq_true_eq] at fit
  have := Bool.toNat_le l
  have := Bool.toNat_le s
  simp only [encode, word]
  omega
theorem ldSB32 (d : Nat) (a : Nat) (l : Bool) (g : Nat) (s : Bool) (o : Nat) : Statement (.ldSB32 d a l g s o) := by
  intro fit
  simp only [Instr.fits, Bool.and_eq_true, decide_eq_true_eq] at fit
  have := Bool.toNat_le l
  have := Bool.toNat_le s
  simp only [encode, word]
  omega
theorem stSB32 (d : Nat) (a : Nat) (l : Bool) (g : Nat) (s : Bool) (o : Nat) : Statement (.stSB32 d a l g s o) := by
  intro fit
  simp only [Instr.fits, Bool.and_eq_true, decide_eq_true_eq] at fit
  have := Bool.toNat_le l
  have := Bool.toNat_le s
  simp only [encode, word]
  omega
theorem ldGeneral (d : Nat) (a : Nat) (l : Bool) (s : Bool) (g : Nat) (p : Nat) (z : Nat) : Statement (.ldGeneral d a l s g p z) := by
  intro fit
  simp only [Instr.fits, Bool.and_eq_true, decide_eq_true_eq] at fit
  have := Bool.toNat_le l
  have := Bool.toNat_le s
  simp only [encode, word]
  omega
theorem stGeneral (d : Nat) (a : Nat) (l : Bool) (s : Bool) (g : Nat) (p : Nat) (z : Nat) : Statement (.stGeneral d a l s g p z) := by
  intro fit
  simp only [Instr.fits, Bool.and_eq_true, decide_eq_true_eq] at fit
  have := Bool.toNat_le l
  have := Bool.toNat_le s
  simp only [encode, word]
  omega
theorem atom (d : Nat) (a : Nat) (l : Bool) (p : Bool) (w : Bool) (o : Nat) (s : Nat) : Statement (.atom d a l p w o s) := by
  intro fit
  simp only [Instr.fits, Bool.and_eq_true, decide_eq_true_eq] at fit
  have := Bool.toNat_le l
  have := Bool.toNat_le p
  have := Bool.toNat_le w
  simp only [encode, word]
  omega
theorem atomc (d : Nat) (a : Nat) (l : Bool) (p : Bool) (w : Bool) (s : Nat) : Statement (.atomc d a l p w s) := by
  intro fit
  simp only [Instr.fits, Bool.and_eq_true, decide_eq_true_eq] at fit
  have := Bool.toNat_le l
  have := Bool.toNat_le p
  have := Bool.toNat_le w
  simp only [encode, word]
  omega
theorem fence (s : Nat) : Statement (.fence s) := by
  intro fit
  simp only [Instr.fits, decide_eq_true_eq] at fit
  simp only [encode, word]
  omega
theorem waita (d : Nat) (a : Nat) (l : Bool) (p : Bool) (w : Bool) (s : Nat) : Statement (.waita d a l p w s) := by
  intro fit
  simp only [Instr.fits, Bool.and_eq_true, decide_eq_true_eq] at fit
  have := Bool.toNat_le l
  have := Bool.toNat_le p
  have := Bool.toNat_le w
  simp only [encode, word]
  omega
theorem wakea (d : Nat) (a : Nat) (l : Bool) (p : Bool) (s : Nat) : Statement (.wakea d a l p s) := by
  intro fit
  simp only [Instr.fits, Bool.and_eq_true, decide_eq_true_eq] at fit
  have := Bool.toNat_le l
  have := Bool.toNat_le p
  simp only [encode, word]
  omega
theorem cflush (a : Nat) (l : Bool) : Statement (.cflush a l) := by
  intro fit
  simp only [Instr.fits, decide_eq_true_eq] at fit
  have := Bool.toNat_le l
  simp only [encode, word]
  omega
theorem cinv (a : Nat) (l : Bool) : Statement (.cinv a l) := by
  intro fit
  simp only [Instr.fits, decide_eq_true_eq] at fit
  have := Bool.toNat_le l
  simp only [encode, word]
  omega
theorem pin (d : Nat) (a : Nat) (l : Bool) : Statement (.pin d a l) := by
  intro fit
  simp only [Instr.fits, Bool.and_eq_true, decide_eq_true_eq] at fit
  have := Bool.toNat_le l
  simp only [encode, word]
  omega
theorem unpin (d : Nat) (a : Nat) (l : Bool) : Statement (.unpin d a l) := by
  intro fit
  simp only [Instr.fits, Bool.and_eq_true, decide_eq_true_eq] at fit
  have := Bool.toNat_le l
  simp only [encode, word]
  omega
theorem tcopy (d : Nat) (a : Nat) (l : Bool) (e : Nat) (s : Nat) : Statement (.tcopy d a l e s) := by
  intro fit
  simp only [Instr.fits, Bool.and_eq_true, decide_eq_true_eq] at fit
  have := Bool.toNat_le l
  simp only [encode, word]
  omega
theorem tcast (d : Nat) (a : Nat) (l : Bool) (s : Nat) : Statement (.tcast d a l s) := by
  intro fit
  simp only [Instr.fits, Bool.and_eq_true, decide_eq_true_eq] at fit
  have := Bool.toNat_le l
  simp only [encode, word]
  omega
theorem tredBf16 (d : Nat) (a : Nat) (l : Bool) (e : Nat) (s : Nat) : Statement (.tredBf16 d a l e s) := by
  intro fit
  simp only [Instr.fits, Bool.and_eq_true, decide_eq_true_eq] at fit
  have := Bool.toNat_le l
  simp only [encode, word]
  omega
theorem tredF32 (d : Nat) (a : Nat) (l : Bool) (e : Nat) (s : Nat) : Statement (.tredF32 d a l e s) := by
  intro fit
  simp only [Instr.fits, Bool.and_eq_true, decide_eq_true_eq] at fit
  have := Bool.toNat_le l
  simp only [encode, word]
  omega
theorem aLoop (c : Nat) : Statement (.aLoop c) := by
  intro fit
  simp only [Instr.fits, decide_eq_true_eq] at fit
  simp only [encode, word]
  omega
theorem aAddr (d : Nat) (a : Nat) (i : Nat) : Statement (.aAddr d a i) := by
  intro fit
  simp only [Instr.fits, Bool.and_eq_true, decide_eq_true_eq] at fit
  simp only [encode, word]
  omega
theorem aLdq (d : Nat) (a : Nat) (s : Nat) (r : Nat) : Statement (.aLdq d a s r) := by
  intro fit
  simp only [Instr.fits, Bool.and_eq_true, decide_eq_true_eq] at fit
  simp only [encode, word]
  omega
theorem aLdwq (d : Nat) (a : Nat) (s : Nat) (r : Nat) : Statement (.aLdwq d a s r) := by
  intro fit
  simp only [Instr.fits, Bool.and_eq_true, decide_eq_true_eq] at fit
  simp only [encode, word]
  omega
theorem aWaitq (d : Nat) : Statement (.aWaitq d) := by
  intro fit
  simp only [Instr.fits, decide_eq_true_eq] at fit
  simp only [encode, word]
  omega
theorem aSetq (d : Nat) (l : Nat) : Statement (.aSetq d l) := by
  intro fit
  simp only [Instr.fits, Bool.and_eq_true, decide_eq_true_eq] at fit
  simp only [encode, word]
  omega
theorem aBase (d : Nat) (a : Nat) (i : Nat) : Statement (.aBase d a i) := by
  intro fit
  simp only [Instr.fits, Bool.and_eq_true, decide_eq_true_eq] at fit
  simp only [encode, word]
  omega
theorem qpop (d : Nat) (a : Nat) (l : Bool) (q : Nat) (z : Nat) : Statement (.qpop d a l q z) := by
  intro fit
  simp only [Instr.fits, Bool.and_eq_true, decide_eq_true_eq] at fit
  have := Bool.toNat_le l
  simp only [encode, word]
  omega
theorem qpeek (d : Nat) (a : Nat) (l : Bool) (q : Nat) (z : Nat) : Statement (.qpeek d a l q z) := by
  intro fit
  simp only [Instr.fits, Bool.and_eq_true, decide_eq_true_eq] at fit
  have := Bool.toNat_le l
  simp only [encode, word]
  omega
theorem qpush (a : Nat) (l : Bool) (q : Nat) : Statement (.qpush a l q) := by
  intro fit
  simp only [Instr.fits, Bool.and_eq_true, decide_eq_true_eq] at fit
  have := Bool.toNat_le l
  simp only [encode, word]
  omega
theorem isub (d : Nat) (a : Nat) (l : Bool) (c : Nat) (r : Nat) : Statement (.isub d a l c r) := by
  intro fit
  simp only [Instr.fits, Bool.and_eq_true, decide_eq_true_eq] at fit
  have := Bool.toNat_le l
  simp only [encode, word]
  omega
theorem trace (d : Nat) (a : Nat) (l : Bool) : Statement (.trace d a l) := by
  intro fit
  simp only [Instr.fits, Bool.and_eq_true, decide_eq_true_eq] at fit
  have := Bool.toNat_le l
  simp only [encode, word]
  omega
theorem reord (d : Nat) (a : Nat) (l : Bool) (o : Nat) (n : Nat) : Statement (.reord d a l o n) := by
  intro fit
  simp only [Instr.fits, Bool.and_eq_true, decide_eq_true_eq] at fit
  have := Bool.toNat_le l
  simp only [encode, word]
  omega
theorem launch (a : Nat) (l : Bool) (p : Nat) : Statement (.launch a l p) := by
  intro fit
  simp only [Instr.fits, Bool.and_eq_true, decide_eq_true_eq] at fit
  have := Bool.toNat_le l
  simp only [encode, word]
  omega
theorem svc (d : Nat) (a : Nat) (l : Bool) (n : Nat) (c : Nat) : Statement (.svc d a l n c) := by
  intro fit
  simp only [Instr.fits, Bool.and_eq_true, decide_eq_true_eq] at fit
  have := Bool.toNat_le l
  simp only [encode, word]
  omega
theorem crnInit (d : Nat) (a : Nat) (l : Bool) (u : Bool) (s : Nat) : Statement (.crnInit d a l u s) := by
  intro fit
  simp only [Instr.fits, Bool.and_eq_true, decide_eq_true_eq] at fit
  have := Bool.toNat_le l
  have := Bool.toNat_le u
  simp only [encode, word]
  omega
theorem crnFree (a : Nat) (l : Bool) : Statement (.crnFree a l) := by
  intro fit
  simp only [Instr.fits, decide_eq_true_eq] at fit
  have := Bool.toNat_le l
  simp only [encode, word]
  omega
theorem crnExpect (d : Nat) (a : Nat) (l : Bool) : Statement (.crnExpect d a l) := by
  intro fit
  simp only [Instr.fits, Bool.and_eq_true, decide_eq_true_eq] at fit
  have := Bool.toNat_le l
  simp only [encode, word]
  omega
theorem crnArrive (d : Nat) (a : Nat) (l : Bool) : Statement (.crnArrive d a l) := by
  intro fit
  simp only [Instr.fits, Bool.and_eq_true, decide_eq_true_eq] at fit
  have := Bool.toNat_le l
  simp only [encode, word]
  omega
theorem crnWait (d : Nat) (a : Nat) (l : Bool) : Statement (.crnWait d a l) := by
  intro fit
  simp only [Instr.fits, Bool.and_eq_true, decide_eq_true_eq] at fit
  have := Bool.toNat_le l
  simp only [encode, word]
  omega
theorem crnTest (d : Nat) (a : Nat) (l : Bool) : Statement (.crnTest d a l) := by
  intro fit
  simp only [Instr.fits, Bool.and_eq_true, decide_eq_true_eq] at fit
  have := Bool.toNat_le l
  simp only [encode, word]
  omega
theorem rdcyc (d : Nat) : Statement (.rdcyc d) := by
  intro fit
  simp only [Instr.fits, decide_eq_true_eq] at fit
  simp only [encode, word]
  omega
theorem rngx (d : Nat) (a : Nat) (l : Bool) (b : Nat) (m : Bool) : Statement (.rngx d a l b m) := by
  intro fit
  simp only [Instr.fits, Bool.and_eq_true, decide_eq_true_eq] at fit
  have := Bool.toNat_le l
  have := Bool.toNat_le m
  simp only [encode, word]
  omega
theorem rngadd (d : Nat) (a : Nat) (l : Bool) (b : Nat) (m : Bool) (k : Bool) : Statement (.rngadd d a l b m k) := by
  intro fit
  simp only [Instr.fits, Bool.and_eq_true, decide_eq_true_eq] at fit
  have := Bool.toNat_le l
  have := Bool.toNat_le m
  have := Bool.toNat_le k
  simp only [encode, word]
  omega
theorem movsr (d : Nat) (n : Nat) : Statement (.movsr d n) := by
  intro fit
  simp only [Instr.fits, Bool.and_eq_true, decide_eq_true_eq] at fit
  simp only [encode, word]
  omega
theorem movrs (a : Nat) (l : Bool) (n : Nat) : Statement (.movrs a l n) := by
  intro fit
  simp only [Instr.fits, Bool.and_eq_true, decide_eq_true_eq] at fit
  have := Bool.toNat_le l
  simp only [encode, word]
  omega
theorem eretResume (d : Nat) (a : Nat) (l : Bool) : Statement (.eretResume d a l) := by
  intro fit
  simp only [Instr.fits, Bool.and_eq_true, decide_eq_true_eq] at fit
  have := Bool.toNat_le l
  simp only [encode, word]
  omega
theorem eretSkip (d : Nat) (a : Nat) (l : Bool) : Statement (.eretSkip d a l) := by
  intro fit
  simp only [Instr.fits, Bool.and_eq_true, decide_eq_true_eq] at fit
  have := Bool.toNat_le l
  simp only [encode, word]
  omega
theorem eretKill (d : Nat) (a : Nat) (l : Bool) : Statement (.eretKill d a l) := by
  intro fit
  simp only [Instr.fits, Bool.and_eq_true, decide_eq_true_eq] at fit
  have := Bool.toNat_le l
  simp only [encode, word]
  omega
theorem eretWrite (d : Nat) (a : Nat) (l : Bool) : Statement (.eretWrite d a l) := by
  intro fit
  simp only [Instr.fits, Bool.and_eq_true, decide_eq_true_eq] at fit
  have := Bool.toNat_le l
  simp only [encode, word]
  omega
theorem eretRqrel (d : Nat) (a : Nat) (l : Bool) : Statement (.eretRqrel d a l) := by
  intro fit
  simp only [Instr.fits, Bool.and_eq_true, decide_eq_true_eq] at fit
  have := Bool.toNat_le l
  simp only [encode, word]
  omega
theorem eretRqcan (d : Nat) (a : Nat) (l : Bool) : Statement (.eretRqcan d a l) := by
  intro fit
  simp only [Instr.fits, Bool.and_eq_true, decide_eq_true_eq] at fit
  have := Bool.toNat_le l
  simp only [encode, word]
  omega
theorem eretDone (d : Nat) (a : Nat) (l : Bool) : Statement (.eretDone d a l) := by
  intro fit
  simp only [Instr.fits, Bool.and_eq_true, decide_eq_true_eq] at fit
  have := Bool.toNat_le l
  simp only [encode, word]
  omega
theorem halt (d : Nat) (a : Nat) (l : Bool) : Statement (.halt d a l) := by
  intro fit
  simp only [Instr.fits, Bool.and_eq_true, decide_eq_true_eq] at fit
  have := Bool.toNat_le l
  simp only [encode, word]
  omega
theorem imm (p : Nat) : Statement (.imm p) := by
  intro fit
  simp only [Instr.fits, decide_eq_true_eq] at fit
  simp only [encode, word]
  omega
theorem mod (e : Nat) (c : Nat) (s : Nat) (t : Bool) (v : Bool) (r : Nat) (z : Nat) : Statement (.mod e c s t v r z) := by
  intro fit
  simp only [Instr.fits, Bool.and_eq_true, decide_eq_true_eq] at fit
  have := Bool.toNat_le t
  have := Bool.toNat_le v
  simp only [encode, word]
  omega
theorem live (x : Bool) (c : Bool) (z : Nat) : Statement (.live x c z) := by
  intro fit
  simp only [Instr.fits, decide_eq_true_eq] at fit
  have := Bool.toNat_le x
  have := Bool.toNat_le c
  simp only [encode, word]
  omega
theorem sched (s : Bool) (z : Nat) : Statement (.sched s z) := by
  intro fit
  simp only [Instr.fits, decide_eq_true_eq] at fit
  have := Bool.toNat_le s
  simp only [encode, word]
  omega
theorem ill : Statement .ill := fun _ => by decide
theorem ret : Statement .ret := fun _ => by decide
theorem exit : Statement .exit := fun _ => by decide
theorem yield : Statement .yield := fun _ => by decide
theorem aEnd : Statement .aEnd := fun _ => by decide
theorem aExit : Statement .aExit := fun _ => by decide
theorem bundleReform : Statement .bundleReform := fun _ => by decide
theorem threadPromotion : Statement .threadPromotion := fun _ => by decide
theorem resultWrite : Statement .resultWrite := fun _ => by decide
theorem matrixStart : Statement .matrixStart := fun _ => by decide
theorem matrixRetire : Statement .matrixRetire := fun _ => by decide
theorem storePerformed : Statement .storePerformed := fun _ => by decide
theorem l1Fill : Statement .l1Fill := fun _ => by decide
theorem hostAccess : Statement .hostAccess := fun _ => by decide
theorem tableWalk : Statement .tableWalk := fun _ => by decide
theorem uncorrectableError : Statement .uncorrectableError := fun _ => by decide
theorem copySectorRequest : Statement .copySectorRequest := fun _ => by decide
theorem copyDelivery : Statement .copyDelivery := fun _ => by decide
theorem queueSlotArrival : Statement .queueSlotArrival := fun _ => by decide
theorem islandContextBoundary : Statement .islandContextBoundary := fun _ => by decide
theorem islandAccept : Statement .islandAccept := fun _ => by decide
theorem islandResult : Statement .islandResult := fun _ => by decide
theorem rasterHandoffRecord : Statement .rasterHandoffRecord := fun _ => by decide
theorem ridgelineEngineWake : Statement .ridgelineEngineWake := fun _ => by decide
theorem ridgelineJobAccept : Statement .ridgelineJobAccept := fun _ => by decide
theorem ridgelineJobEnd : Statement .ridgelineJobEnd := fun _ => by decide
theorem launchQueueWake : Statement .launchQueueWake := fun _ => by decide
theorem launchQueueScan : Statement .launchQueueScan := fun _ => by decide
theorem launchReleaseComplete : Statement .launchReleaseComplete := fun _ => by decide
theorem launchDependenceTest : Statement .launchDependenceTest := fun _ => by decide
theorem teamPlace : Statement .teamPlace := fun _ => by decide
theorem compactorMove : Statement .compactorMove := fun _ => by decide
theorem reorderBatchForm : Statement .reorderBatchForm := fun _ => by decide
theorem serviceReply : Statement .serviceReply := fun _ => by decide
theorem gridComplete : Statement .gridComplete := fun _ => by decide
theorem handlerEntryOpen : Statement .handlerEntryOpen := fun _ => by decide
theorem heldRecordPost : Statement .heldRecordPost := fun _ => by decide
theorem preemptRequest : Statement .preemptRequest := fun _ => by decide
theorem teamFreeze : Statement .teamFreeze := fun _ => by decide
theorem preemptDeadline : Statement .preemptDeadline := fun _ => by decide
theorem contextSaveComplete : Statement .contextSaveComplete := fun _ => by decide
theorem restoreGo : Statement .restoreGo := fun _ => by decide
theorem goResumeFrozen : Statement .goResumeFrozen := fun _ => by decide
theorem contextCreate : Statement .contextCreate := fun _ => by decide
theorem contextDestroy : Statement .contextDestroy := fun _ => by decide
theorem contextDestroyDone : Statement .contextDestroyDone := fun _ => by decide
theorem invalidatePage : Statement .invalidatePage := fun _ => by decide
theorem invalidateRange : Statement .invalidateRange := fun _ => by decide
theorem invalidateContext : Statement .invalidateContext := fun _ => by decide
theorem invalidationComplete : Statement .invalidationComplete := fun _ => by decide
theorem scunp : Statement .scunp := fun _ => by decide
theorem scunpDone : Statement .scunpDone := fun _ => by decide
theorem imagePost : Statement .imagePost := fun _ => by decide
theorem imagePostDone : Statement .imagePostDone := fun _ => by decide
theorem keyInstall : Statement .keyInstall := fun _ => by decide
theorem trimCounterClear : Statement .trimCounterClear := fun _ => by decide
theorem fqcWrite : Statement .fqcWrite := fun _ => by decide
theorem registerWrite : Statement .registerWrite := fun _ => by decide
theorem packetHeaderArrival : Statement .packetHeaderArrival := fun _ => by decide
theorem reRequestWindow : Statement .reRequestWindow := fun _ => by decide
theorem reRequest : Statement .reRequest := fun _ => by decide
theorem delivered : Statement .delivered := fun _ => by decide
theorem chainReservation : Statement .chainReservation := fun _ => by decide
theorem chainGrant : Statement .chainGrant := fun _ => by decide
theorem chainData : Statement .chainData := fun _ => by decide
theorem chainDone : Statement .chainDone := fun _ => by decide
theorem linkCrcFailure : Statement .linkCrcFailure := fun _ => by decide
theorem refreshSlot : Statement .refreshSlot := fun _ => by decide
theorem weightBankTurn : Statement .weightBankTurn := fun _ => by decide
theorem clockLevelStep : Statement .clockLevelStep := fun _ => by decide
theorem thermalTrip : Statement .thermalTrip := fun _ => by decide
theorem powerOnReset : Statement .powerOnReset := fun _ => by decide
theorem die0BringUp : Statement .die0BringUp := fun _ => by decide
theorem die1BringUp : Statement .die1BringUp := fun _ => by decide
theorem standardImagePost : Statement .standardImagePost := fun _ => by decide
theorem lockInterfaceRequest : Statement .lockInterfaceRequest := fun _ => by decide
theorem stopInterfaceRequest : Statement .stopInterfaceRequest := fun _ => by decide
theorem endSession : Statement .endSession := fun _ => by decide
theorem heartbeatLapse : Statement .heartbeatLapse := fun _ => by decide
theorem getMeasurements : Statement .getMeasurements := fun _ => by decide
theorem setCertificate : Statement .setCertificate := fun _ => by decide
theorem accumulatorInstructionFinish : Statement .accumulatorInstructionFinish := fun _ => by decide
theorem tdiEntersError : Statement .tdiEntersError := fun _ => by decide
theorem startInterfaceRequest : Statement .startInterfaceRequest := fun _ => by decide

end Field
end Laws
end Sys2Proof
end

