-- ==== Sys2Proof/Tests/Slice0.lean ====
section
/-! SUPPORT. Tests of this row: words written out from the spec's encodings decode to the instructions they stand for; each condition of
well-formedness refuses a term that breaks it; for every statement, states and operands that meet its hypotheses; and single steps and
operations at values the spec gives. -/

namespace Sys2Proof
namespace Tests

open Sys2Proof.Machine

set_option Elab.async false

-- ---------------------------------------------------------------- small states

/-- The state after reset with a word where the next step fetches, and its thread about to execute it. -/
def probe (w : Nat) : State := { State.reset.withFetchWord 32 w with cur := .thread ⟨0, 0, 0, 0⟩, ir := BitVec.ofNat 32 w, agenda := [], picks := [] }

/-- The placed thread. -/
def thr : Thread := newThread ⟨0, 0, 0, 0⟩ 0 0 1 1 0 0 64 [] 0x10000 0

/-- The placed team. -/
def team : Team := newTeam placedTeam 0 false 1 (some (newSlice 0 0x10000 0 0 1)) [(0, 0, 0)] [(0, 0, 1)] 0

/-- The conditions of an issue, computed. -/
def issuesB (s : State) (t : Thread) (i : Issue) : Bool :=
  decide (s.cur = .thread t.id) && decide (s.thread? t.id = some t) && ! i.flaw && hintsOk i.hints t.latch && ! i.outside &&
  i.regs.all (fun r => decide (r < t.budget)) && ! i.absent && (! i.cross || ! s.detMode t.id.gridId) && ! i.wait && ! s.heldBack t.id &&
  i.reads.all (fun r => ! s.pendingWrite t r) && [KClass.ld, .st, .cp, .mx, .is, .ws].all fun c => decide (t.counter c < 64)

theorem issues_of_check {s : State} {t : Thread} {i : Issue} (h : issuesB s t i = true) : s.Issues t i := by
  simp only [issuesB, Bool.and_eq_true, decide_eq_true_eq, Bool.not_eq_true', List.all_eq_true, Bool.or_eq_true] at h
  obtain ⟨⟨⟨⟨⟨⟨⟨⟨⟨⟨⟨h1, h2⟩, h3⟩, h4⟩, h5⟩, h6⟩, h7⟩, h8⟩, h9⟩, h10⟩, h11⟩, h12⟩ := h
  refine ⟨h1, h2, h3, h4, h5, h6, h7, fun hx => ?_, h9, h10, h11, fun c => h12 c (by cases c <;> simp)⟩
  rcases h8 with h | h
  · rw [h] at hx; cases hx
  · exact h

/-- The placed thread with other registers, the rest as placed. -/
def thrWith (f : Thread → Thread) : Thread := f thr

/-- A probe whose thread has been changed. -/
def probeT (w : Nat) (f : Thread → Thread) : State := (probe w).updThread ⟨0, 0, 0, 0⟩ f

/-- Sets general registers. -/
def setRegs (l : List (Nat × Nat)) (t : Thread) : Thread :=
  { t with regs := l.foldl (fun rs x => rs.set x.1 (BitVec.ofNat 32 x.2)) t.regs }

/-- Words and the instructions they decode to. -/
def decodes (l : List (Nat × Instr)) : Bool := l.all fun x => decide (decodeWord x.1 = .ok x.2)

-- ---------------------------------------------------------------- ill-formed terms, one for each condition

theorem test_well_formed : (Instr.addI64 8 12 true 16 false).wellFormed = true := by decide +kernel
theorem test_flaw_width : (Instr.addI32 64 0 false 0 false).flaw = some .width := by decide +kernel
theorem test_flaw_event : Instr.teamPlace.flaw = some .event := by decide +kernel
theorem test_flaw_aligned : (Instr.addI64 9 12 false 16 false).flaw = some .alignment := by decide +kernel
theorem test_flaw_written : (Instr.pand 12 0 1 2).flaw = some .predicate := by decide +kernel
theorem test_flaw_source : (Instr.pand 3 0 13 2).flaw = some .predicate := by decide +kernel
theorem test_flaw_guard : (Instr.br 12 true 5).flaw = some .predicate := by decide +kernel
theorem test_flaw_below : (Instr.waitk 6 0).flaw = some .code := by decide +kernel
theorem test_flaw_condition : (Instr.cmp 3 0 8 false 12 false 6 0).flaw = some .code := by decide +kernel
theorem test_flaw_soft_queue : (Instr.softi 32).flaw = some .code := by decide +kernel
theorem test_flaw_space : (Instr.tcopy 8 12 false 2 0).flaw = some .code := by decide +kernel
theorem test_flaw_cairn_scope : (Instr.crnInit 8 12 false false 1).flaw = some .code := by decide +kernel
theorem test_flaw_zero : (Instr.aLdq 3 5 2 0).flaw = some .mustBeZero := by decide +kernel
theorem test_flaw_nonzero : (Instr.qpeek 8 12 false 5 0).flaw = some .code := by decide +kernel
/-- R113: a reserved function code of major 0x01, an unassigned major, and a word of major 0 that is not zero are no instructions. -/
theorem test_no_row : [0x0400003F, 0x3C000000, 0x00000001].all (fun w => decide (decodeWord w = .error .noRow)) = true := by decide +kernel
/-- Words the examples of the spec write out: of chapters 6, 8 and 9. -/
theorem test_spec_words_arithmetic : decodes [(0x34401FFF, .movi 4 0x1FFF), (0x0C8123C4, .addc 8 4 true 7 true 1),
    (0x0C916504, .addc 9 5 true 10 false 1), (0x04C2C548, .divN32 12 11 false 10 true), (0x80A20480, .cmp 2 2 8 false 9 false 0 0),
    (0xFC400010, .mod 0 0 0 true false 0 0), (0x04D30581, .addN32 13 12 false 11 false), (0xC4D01802, .stGB32 13 0 false 12 false 2),
    (0xF4400000, .movsr 4 0), (0x10600242, .lea 6 0 false 4 true false 2), (0xA001E010, .cdeclRange 7 true 2),
    (0xA8920608, .xred 9 8 false 8 2), (0xA0000012, .csign 2), (0xA8A22A08, .xscanInc 10 8 true 8 2), (0xD8534329, .stGeneral 5 13 false false 12 1 1),
    (0xB0622000, .mma 6 8 true 0 0 0), (0xB4B34003, .acres 11 13 false 0 0)] = true := by decide +kernel
/-- Words the examples of the spec write out: of chapters 11 to 14. -/
theorem test_spec_words_memory : decodes [(0xFC401080, .mod 2 0 4 false false 0 0), (0xFC400880, .mod 1 0 4 false false 0 0),
    (0xE0020020, .tcopy 0 8 false 1 0), (0xD0A25800, .ldSB32 10 9 false 12 false 0), (0xDCB25000, .atom 11 9 false true false 0 0),
    (0xEC614010, .qpop 6 5 false 0 1), (0x0471C340, .addI32 7 7 false 6 true), (0x20821FFF, .addI32Imm 8 8 false 0x1FFF),
    (0x885FFFFC, .br 1 false 0x1FFFFC), (0xE8000016, .aSetq 0 1), (0xE8000802, .aAddr 0 0 128), (0xE8004082, .aAddr 0 1 8),
    (0xE8000010, .aLoop 1), (0xE8000003, .aLdq 0 0 0 0), (0xE8000001, .aEnd), (0xE8000008, .aExit), (0x3091C010, .shlImm 9 7 false false 16),
    (0x04226252, .or32 2 9 true 4 true), (0xEC01E135, .reord 0 7 true 1 3)] = true := by decide +kernel

-- ---------------------------------------------------------------- decoding: words written out from the tables of R95 to R111 and R374

theorem test_decode_major_00 : decodes [
    (0x00000000, .ill)] = true := by decide +kernel
theorem test_decode_major_01_a : decodes [
    (0x04832840, .addI32 8 12 true 16 true), (0x04832841, .addN32 8 12 true 16 true), (0x04832842, .subI32 8 12 true 16 true),
    (0x04832843, .subN32 8 12 true 16 true), (0x04832844, .mullo32 8 12 true 16 true), (0x04832845, .mulhiI32 8 12 true 16 true),
    (0x04832846, .mulhiN32 8 12 true 16 true), (0x04832847, .divI32 8 12 true 16 true), (0x04832848, .divN32 8 12 true 16 true),
    (0x04832849, .remI32 8 12 true 16 true), (0x0483284A, .remN32 8 12 true 16 true), (0x0483284B, .minI32 8 12 true 16 true),
    (0x0483284C, .minN32 8 12 true 16 true), (0x0483284D, .maxI32 8 12 true 16 true), (0x0483284E, .maxN32 8 12 true 16 true),
    (0x0483200F, .abs32 8 12 true), (0x04832010, .neg32 8 12 true), (0x04832851, .and32 8 12 true 16 true)] = true := by decide +kernel
theorem test_decode_major_01_b : decodes [
    (0x04832852, .or32 8 12 true 16 true), (0x04832853, .xor32 8 12 true 16 true), (0x04832854, .andn32 8 12 true 16 true),
    (0x04832015, .not32 8 12 true), (0x04832856, .shl32 8 12 true 16 true), (0x04832857, .shr32 8 12 true 16 true),
    (0x04832858, .shra32 8 12 true 16 true), (0x04832859, .rot32 8 12 true 16 true), (0x0483201A, .popc32 8 12 true),
    (0x0483201B, .clz32 8 12 true), (0x0483201C, .ctz32 8 12 true), (0x0483201D, .brev32 8 12 true),
    (0x0483285E, .permb 8 12 true 16 true), (0x0483201F, .mov32 8 12 true), (0x04832860, .bfxI32 8 12 true 16 true),
    (0x04832861, .bfxN32 8 12 true 16 true)] = true := by decide +kernel
theorem test_decode_major_02_a : decodes [
    (0x08832840, .addI64 8 12 true 16 true), (0x08832841, .addN64 8 12 true 16 true), (0x08832842, .subI64 8 12 true 16 true),
    (0x08832843, .subN64 8 12 true 16 true), (0x08832844, .mullo64 8 12 true 16 true), (0x08832845, .mulhiI64 8 12 true 16 true),
    (0x08832846, .mulhiN64 8 12 true 16 true), (0x08832847, .divI64 8 12 true 16 true), (0x08832848, .divN64 8 12 true 16 true),
    (0x08832849, .remI64 8 12 true 16 true), (0x0883284A, .remN64 8 12 true 16 true), (0x0883284B, .minI64 8 12 true 16 true),
    (0x0883284C, .minN64 8 12 true 16 true), (0x0883284D, .maxI64 8 12 true 16 true), (0x0883284E, .maxN64 8 12 true 16 true),
    (0x0883200F, .abs64 8 12 true), (0x08832010, .neg64 8 12 true), (0x08832851, .and64 8 12 true 16 true)] = true := by decide +kernel
theorem test_decode_major_02_b : decodes [
    (0x08832852, .or64 8 12 true 16 true), (0x08832853, .xor64 8 12 true 16 true), (0x08832854, .andn64 8 12 true 16 true),
    (0x08832015, .not64 8 12 true), (0x08832856, .shl64 8 12 true 16 true), (0x08832857, .shr64 8 12 true 16 true),
    (0x08832858, .shra64 8 12 true 16 true), (0x08832859, .rot64 8 12 true 16 true), (0x0883201A, .popc64 8 12 true),
    (0x0883201B, .clz64 8 12 true), (0x0883201C, .ctz64 8 12 true), (0x0883201D, .brev64 8 12 true), (0x0883201F, .mov64 8 12 true),
    (0x08832860, .bfxI64 8 12 true 16 true), (0x08832861, .bfxN64 8 12 true 16 true)] = true := by decide +kernel
theorem test_decode_major_03 : decodes [
    (0x0C83284C, .addc 8 12 true 16 true 3), (0x0C83284D, .subb 8 12 true 16 true 3), (0x0C83284E, .sel 8 12 true 16 true 3)] = true := by decide +kernel
theorem test_decode_major_04 : decodes [
    (0x1083284B, .lea 8 12 true 16 true true 3)] = true := by decide +kernel
theorem test_decode_major_05 : decodes [
    (0x14832854, .bfi 8 12 true 16 true 20)] = true := by decide +kernel
theorem test_decode_major_06 : decodes [
    (0x18832854, .mad32 8 12 true 16 true 20)] = true := by decide +kernel
theorem test_decode_major_07 : decodes [
    (0x1C832854, .mad64 8 12 true 16 true 20)] = true := by decide +kernel
theorem test_decode_major_08 : decodes [
    (0x20832A5C, .addI32Imm 8 12 true 2652)] = true := by decide +kernel
theorem test_decode_major_09 : decodes [
    (0x24832A5C, .andImm 8 12 true 2652)] = true := by decide +kernel
theorem test_decode_major_0a : decodes [
    (0x28832A5C, .orImm 8 12 true 2652)] = true := by decide +kernel
theorem test_decode_major_0b : decodes [
    (0x2C832A5C, .xorImm 8 12 true 2652)] = true := by decide +kernel
theorem test_decode_major_0c : decodes [
    (0x30832410, .shlImm 8 12 true true 16), (0x30832C10, .shrImm 8 12 true true 16), (0x30833410, .shraImm 8 12 true true 16),
    (0x30833C10, .rotImm 8 12 true true 16)] = true := by decide +kernel
theorem test_decode_major_0d : decodes [
    (0x34800A5C, .movi 8 2652)] = true := by decide +kernel
theorem test_decode_major_0e : decodes [
    (0x38832A5C, .addI64Imm 8 12 true 2652)] = true := by decide +kernel
theorem test_decode_major_10 : decodes [
    (0x40832840, .faddF32 8 12 true 16 true), (0x40832841, .fsubF32 8 12 true 16 true), (0x40832842, .fmulF32 8 12 true 16 true),
    (0x40832843, .fminF32 8 12 true 16 true), (0x40832844, .fmaxF32 8 12 true 16 true), (0x40832845, .fdivF32 8 12 true 16 true),
    (0x40832006, .fsqrtF32 8 12 true), (0x40832007, .frcpF32 8 12 true), (0x40832008, .frsqF32 8 12 true),
    (0x40832009, .fexp2F32 8 12 true), (0x4083200A, .flog2F32 8 12 true), (0x4083200B, .fsinF32 8 12 true),
    (0x4083200C, .fcosF32 8 12 true), (0x4083200D, .fabsF32 8 12 true), (0x4083200E, .fnegF32 8 12 true),
    (0x4083200F, .fclassF32 8 12 true), (0x40832850, .fscaleF32 8 12 true 16 true), (0x40832011, .frintF32 8 12 true)] = true := by decide +kernel
theorem test_decode_major_11 : decodes [
    (0x44832840, .faddF64 8 12 true 16 true), (0x44832841, .fsubF64 8 12 true 16 true), (0x44832842, .fmulF64 8 12 true 16 true),
    (0x44832843, .fminF64 8 12 true 16 true), (0x44832844, .fmaxF64 8 12 true 16 true), (0x44832845, .fdivF64 8 12 true 16 true),
    (0x44832006, .fsqrtF64 8 12 true), (0x44832007, .frcpF64 8 12 true), (0x44832008, .frsqF64 8 12 true),
    (0x44832009, .fexp2F64 8 12 true), (0x4483200A, .flog2F64 8 12 true), (0x4483200B, .fsinF64 8 12 true),
    (0x4483200C, .fcosF64 8 12 true), (0x4483200D, .fabsF64 8 12 true), (0x4483200E, .fnegF64 8 12 true),
    (0x4483200F, .fclassF64 8 12 true), (0x44832850, .fscaleF64 8 12 true 16 true), (0x44832011, .frintF64 8 12 true)] = true := by decide +kernel
theorem test_decode_major_12 : decodes [
    (0x48832840, .faddF16 8 12 true 16 true), (0x48832841, .fsubF16 8 12 true 16 true), (0x48832842, .fmulF16 8 12 true 16 true),
    (0x48832843, .fminF16 8 12 true 16 true), (0x48832844, .fmaxF16 8 12 true 16 true), (0x4883200D, .fabsF16 8 12 true),
    (0x4883200E, .fnegF16 8 12 true), (0x4883200F, .fclassF16 8 12 true), (0x48832850, .fscaleF16 8 12 true 16 true),
    (0x48832011, .frintF16 8 12 true)] = true := by decide +kernel
theorem test_decode_major_13 : decodes [
    (0x4C832840, .faddBf16 8 12 true 16 true), (0x4C832841, .fsubBf16 8 12 true 16 true), (0x4C832842, .fmulBf16 8 12 true 16 true),
    (0x4C832843, .fminBf16 8 12 true 16 true), (0x4C832844, .fmaxBf16 8 12 true 16 true), (0x4C83200D, .fabsBf16 8 12 true),
    (0x4C83200E, .fnegBf16 8 12 true), (0x4C83200F, .fclassBf16 8 12 true), (0x4C832850, .fscaleBf16 8 12 true 16 true),
    (0x4C832011, .frintBf16 8 12 true)] = true := by decide +kernel
theorem test_decode_major_14 : decodes [
    (0x50832854, .ffmaF32 8 12 true 16 true 20)] = true := by decide +kernel
theorem test_decode_major_15 : decodes [
    (0x54832854, .ffmaF64 8 12 true 16 true 20)] = true := by decide +kernel
theorem test_decode_major_16 : decodes [
    (0x58832854, .ffmaF16 8 12 true 16 true 20)] = true := by decide +kernel
theorem test_decode_major_17 : decodes [
    (0x5C832854, .ffmaBf16 8 12 true 16 true 20)] = true := by decide +kernel
theorem test_decode_major_18 : decodes [
    (0x60832843, .cvt 8 12 true 16 true 3)] = true := by decide +kernel
theorem test_decode_major_20 : decodes [
    (0x80D2265B, .cmp 3 1 8 true 12 true 3 3)] = true := by decide +kernel
theorem test_decode_major_21 : decodes [
    (0x84D0C180, .pand 3 1 3 3), (0x84D0C181, .por 3 1 3 3), (0x84D0C182, .pxor 3 1 3 3), (0x84D0C603, .pnot 3 1 3),
    (0x84D0C604, .pmov 3 1 3)] = true := by decide +kernel
theorem test_decode_major_22 : decodes [
    (0x88E00A5C, .br 3 true 2652)] = true := by decide +kernel
theorem test_decode_major_23 : decodes [
    (0x8CE00A5C, .call 3 true 2652)] = true := by decide +kernel
theorem test_decode_major_24 : decodes [
    (0x90022000, .brx 8 true), (0x90022400, .callx 8 true), (0x90000800, .ret), (0x90000C00, .exit), (0x90001000, .yield),
    (0x90001588, .waitk 3 8), (0x90001815, .trap 21), (0x90001C15, .softi 21)] = true := by decide +kernel
theorem test_decode_major_28 : decodes [
    (0xA0022018, .cdeclRange 8 true 3), (0xA0832019, .cdeclMask 8 12 true 3), (0xA000001A, .csign 3), (0xA000001B, .cwait 3)] = true := by decide +kernel
theorem test_decode_major_29 : decodes [
    (0xA483284C, .xshfIdx 8 12 true 16 true 3), (0xA483284D, .xshfUp 8 12 true 16 true 3), (0xA483284E, .xshfDown 8 12 true 16 true 3),
    (0xA483284F, .xshfXor 8 12 true 16 true 3)] = true := by decide +kernel
theorem test_decode_major_2a : decodes [
    (0xA88320CC, .xbcast 8 12 true true true 3), (0xA88324CC, .xred 8 12 true 3 3), (0xA88328CC, .xscanInc 8 12 true 3 3),
    (0xA8832CCC, .xscanExc 8 12 true 3 3), (0xA880D04C, .xvote 8 3 1 3)] = true := by decide +kernel
theorem test_decode_major_2c : decodes [
    (0xB0832CD8, .mma 8 12 true 3 3 3), (0xB0832CD9, .mmas 8 12 true 3 3 3), (0xB0832CDA, .mmabXor 8 12 true 3 3 3),
    (0xB0832CDB, .mmabAnd 8 12 true 3 3 3), (0xB0832CDC, .mmac 8 12 true 3 3 3)] = true := by decide +kernel
theorem test_decode_major_2d : decodes [
    (0xB4000018, .aczero 3), (0xB4022019, .acld 8 true 3), (0xB402201A, .acst 8 true 3), (0xB483261B, .acres 8 12 true 3 3),
    (0xB48320DC, .accmp 8 12 true 3 3), (0xB40000DD, .acmov 3 3)] = true := by decide +kernel
theorem test_decode_major_30 : decodes [
    (0xC0832715, .ldGB32 8 12 true 3 true 21)] = true := by decide +kernel
theorem test_decode_major_31 : decodes [
    (0xC4832715, .stGB32 8 12 true 3 true 21)] = true := by decide +kernel
theorem test_decode_major_32 : decodes [
    (0xC8832715, .ldGB64 8 12 true 3 true 21)] = true := by decide +kernel
theorem test_decode_major_33 : decodes [
    (0xCC832715, .stGB64 8 12 true 3 true 21)] = true := by decide +kernel
theorem test_decode_major_34 : decodes [
    (0xD0832715, .ldSB32 8 12 true 3 true 21)] = true := by decide +kernel
theorem test_decode_major_35 : decodes [
    (0xD4832715, .stSB32 8 12 true 3 true 21)] = true := by decide +kernel
theorem test_decode_major_36 : decodes [
    (0xD88324C8, .ldGeneral 8 12 true true 3 1 0), (0xD88324E8, .stGeneral 8 12 true true 3 1 0)] = true := by decide +kernel
theorem test_decode_major_37 : decodes [
    (0xDC8339B0, .atom 8 12 true true true 3 3), (0xDC833831, .atomc 8 12 true true true 3), (0xDC000032, .fence 3),
    (0xDC833833, .waita 8 12 true true true 3), (0xDC833034, .wakea 8 12 true true 3), (0xDC022005, .cflush 8 true),
    (0xDC022006, .cinv 8 true), (0xDC832007, .pin 8 12 true), (0xDC832008, .unpin 8 12 true)] = true := by decide +kernel
theorem test_decode_major_38 : decodes [
    (0xE0832028, .tcopy 8 12 true 1 1), (0xE0832029, .tcast 8 12 true 1)] = true := by decide +kernel
theorem test_decode_major_39 : decodes [
    (0xE4832028, .tredBf16 8 12 true 1 1), (0xE4832029, .tredF32 8 12 true 1 1)] = true := by decide +kernel
theorem test_decode_major_3a : decodes [
    (0xE8000150, .aLoop 21), (0xE8000001, .aEnd), (0xE8308152, .aAddr 3 2 21), (0xE8314093, .aLdq 3 5 2 1),
    (0xE8314094, .aLdwq 3 5 2 1), (0xE8500005, .aWaitq 5), (0xE8600096, .aSetq 6 9), (0xE8308157, .aBase 3 2 21), (0xE8000008, .aExit)] = true := by decide +kernel
theorem test_decode_major_3b : decodes [
    (0xEC832170, .qpop 8 12 true 5 3), (0xEC8321A1, .qpeek 8 12 true 6 2), (0xEC0220C2, .qpush 8 true 3),
    (0xEC832053, .isub 8 12 true 1 1), (0xEC832004, .trace 8 12 true), (0xEC832335, .reord 8 12 true 3 3),
    (0xEC022036, .launch 8 true 3), (0xEC832137, .svc 8 12 true 1 3)] = true := by decide +kernel
theorem test_decode_major_3c : decodes [
    (0xF08320B0, .crnInit 8 12 true true 3), (0xF0022100, .crnFree 8 true), (0xF0832001, .crnExpect 8 12 true),
    (0xF0832002, .crnArrive 8 12 true), (0xF0832003, .crnWait 8 12 true), (0xF0832004, .crnTest 8 12 true), (0xF0800005, .rdcyc 8),
    (0xF0832846, .rngx 8 12 true 16 true), (0xF0832857, .rngadd 8 12 true 16 true true)] = true := by decide +kernel
theorem test_decode_major_3d : decodes [
    (0xF48000A8, .movsr 8 21), (0xF40220A9, .movrs 8 true 21), (0xF4832002, .eretResume 8 12 true), (0xF4832003, .halt 8 12 true)] = true := by decide +kernel
theorem test_decode_major_3f : decodes [
    (0xFC000A5C, .imm 2652), (0xFC400B7B, .mod 1 3 3 true true 3 0), (0xFC800003, .live true true 0), (0xFCC00001, .sched true 0)] = true := by decide +kernel

-- ---------------------------------------------------------------- states that meet the hypotheses of the statements

/-- A state, a thread and a form that issues, with a further condition. -/
theorem meets {s : State} {t : Thread} {i : Issue} {p : Prop} [Decidable p] (h : (issuesB s t i && decide p) = true) : s.Issues t i ∧ p := by
  rw [Bool.and_eq_true, decide_eq_true_eq] at h
  exact ⟨issues_of_check h.1, h.2⟩

/-- Every row of a list issues in the placed thread. -/
def rowsIssue (l : List ResultRow) : Bool := l.all fun r => issuesB (probe 0) thr (r.form (probe 0) thr)
/-- Every floating-point row of a list issues in the placed thread. -/
def floatsIssue (l : List FloatRow) : Bool := l.all fun r => issuesB (probe 0) thr (r.form thr)

theorem rows_issue {l : List ResultRow} (h : rowsIssue l = true) : ∀ r ∈ l, (probe 0).Issues thr (r.form (probe 0) thr) :=
  fun r hr => issues_of_check (List.all_eq_true.mp h r hr)
theorem floats_issue {l : List FloatRow} (h : floatsIssue l = true) : ∀ r ∈ l, (probe 0).Issues thr (r.form thr) :=
  fun r hr => issues_of_check (List.all_eq_true.mp h r hr)

theorem witness_addition : ∀ r ∈ addSubRows 32 narrow 8 12 true 16 false ++ addSubRows 64 wide 8 12 true 16 false,
    (probe 0).Issues thr (r.form (probe 0) thr) := rows_issue (by decide +kernel)
theorem witness_division : ∀ r ∈ divisionRows 32 narrow 36 8 12 true 16 false ++ divisionRows 64 wide 68 8 12 true 16 false,
    (probe 0).Issues thr (r.form (probe 0) thr) := rows_issue (by decide +kernel)
theorem witness_arithmetic : ∀ r ∈ arithmeticRows 32 narrow 6 8 12 true 16 false ++ arithmeticRows 64 wide 10 8 12 true 16 false,
    (probe 0).Issues thr (r.form (probe 0) thr) := rows_issue (by decide +kernel)
theorem witness_logic : ∀ r ∈ logicRows 32 narrow 8 12 true 16 false ++ logicRows 64 wide 8 12 true 16 false,
    (probe 0).Issues thr (r.form (probe 0) thr) := rows_issue (by decide +kernel)
theorem witness_shifts : ∀ r ∈ shiftRows 32 narrow 8 12 true 16 false ++ shiftRows 64 wide 62 12 true 63 false ++ shiftImmRows 8 12 true true 63,
    (probe 0).Issues thr (r.form (probe 0) thr) := rows_issue (by decide +kernel)
theorem witness_mixed : ∀ r ∈ mixedRows 8 12 true 16 false 20 11 true 63, (probe 0).Issues thr (r.form (probe 0) thr) := rows_issue (by decide +kernel)
theorem witness_immediates : ∀ r ∈ immediateRows 8 12 true 8191, (probe 0).Issues thr (r.form (probe 0) thr) := rows_issue (by decide +kernel)
theorem witness_float_arithmetic : ∀ r ∈ floatArithmeticRows 8 12 true 16 false 20, (probe 0).Issues thr (r.form thr) :=
  floats_issue (by decide +kernel)
theorem witness_float_other : ∀ r ∈ floatOtherRows .f32 6 8 12 true 16 false .ill .ill .ill .ill .ill .ill .ill ++
    floatOtherRows .f64 10 8 12 true 16 false .ill .ill .ill .ill .ill .ill .ill, (probe 0).Issues thr (r.form thr) :=
  floats_issue (by decide +kernel)
theorem witness_elementary : ∀ r ∈ elementaryRows 8 12 true, (probe 0).Issues thr (r.form thr) := floats_issue (by decide +kernel)

/-- A slot word that converts binary32 to binary16 (R57, R177). -/
def probeSlot (w : Nat) : State := (probe 0).updGrid ⟨0, 0⟩ fun g => { g with launch := { g.launch with slots := List.replicate 8 (BitVec.ofNat 32 w) } }

theorem witness_conversion : ([0x00, 0x21, 0x01, 0x20].all fun w =>
    issuesB (probeSlot w) thr (cvtForm ((probeSlot w).slotOf thr 7) 8 12 true 0 false) &&
    (Fmt.ofCode ((probeSlot w).slotOf thr 7).fa).isSome && (Fmt.ofCode ((probeSlot w).slotOf thr 7).fd).isSome) = true := by decide +kernel

theorem witness_comparison : ([0, 1, 2, 3, 4, 5, 6, 7].all fun ty => issuesB (probe 0) thr (cmpForm (probe 0) thr 11 3 8 true 12 false ty)) = true := by
  decide +kernel
theorem witness_predicates : ∀ r ∈ predicateRows 11 3 12 0, (probe 0).Issues thr (r.form (probe 0) thr) := rows_issue (by decide +kernel)

-- control

/-- The placed thread and its state with registers set. -/
def regT (l : List (Nat × Nat)) : Thread := setRegs l thr
def regS (l : List (Nat × Nat)) : State := probeT 0 (setRegs l)

theorem witness_branch : (probe 0).Issues thr (guardForm 12) ∧ (probe 0).Issues thr (guardForm 11) ∧ thr.pred 12 = true ∧ thr.pred 11 = false :=
  ⟨issues_of_check (by decide +kernel), meets (by decide +kernel)⟩
theorem witness_branch_register : (regS [(8, 0x10000)]).Issues (regT [(8, 0x10000)]) (targetForm 8 true) ∧
    srcOf (regT [(8, 0x10000)]) (targetForm 8 true) 0 % 4 = 0 ∧ srcOf (regT [(8, 0x10000)]) (targetForm 8 true) 0 < 2 ^ 52 := meets (by decide +kernel)
theorem witness_branch_misaligned : (regS [(8, 2)]).Issues (regT [(8, 2)]) (targetForm 8 true) ∧
    srcOf (regT [(8, 2)]) (targetForm 8 true) 0 % 4 ≠ 0 := meets (by decide +kernel)
theorem witness_branch_beyond : (regS [(9, 0x100000)]).Issues (regT [(9, 0x100000)]) (targetForm 8 true) ∧
    2 ^ 52 ≤ srcOf (regT [(9, 0x100000)]) (targetForm 8 true) 0 := meets (by decide +kernel)

/-- A thread with calls open, its link slots full; and its state, in a grid with a given call-stack size. -/
def deepT (n : Nat) (l : List (Nat × Nat)) : Thread :=
  { setRegs l thr with csd := BitVec.ofNat 20 n, ls := [.pc 0x10004, .pc 0x10008, .pc 0x1000C, .pc 0x10010] }
def deepS (n stks : Nat) (l : List (Nat × Nat)) : State :=
  (probeT 0 fun _ => deepT n l).updGrid ⟨0, 0⟩ fun g => { g with launch := { g.launch with stks := stks } }

theorem witness_call_shallow : (deepS 3 0 []).Issues (deepT 3 []) (guardForm 11) ∧ (deepT 3 []).pred 11 ≠ true ∧ (deepT 3 []).csd.toNat < 4 :=
  meets (by decide +kernel)
theorem witness_call_spills : (deepS 4 1 []).Issues (deepT 4 []) (guardForm 11) ∧ 4 ≤ (deepT 4 []).csd.toNat ∧
    (deepT 4 []).ssp.toNat + 8 ≤ (deepS 4 1 []).scratchSize (deepT 4 []) ∧ (deepT 4 []).counter .st < 63 := meets (by decide +kernel)
theorem witness_call_oldest : ∀ op va, nth (deepT 4 []).ls 3 .empty ≠ .refill op va := fun _ _ h => nomatch h
theorem witness_call_overflows : (deepS 4 0 []).Issues (deepT 4 []) (guardForm 11) ∧ 4 ≤ (deepT 4 []).csd.toNat ∧
    (deepS 4 0 []).scratchSize (deepT 4 []) < (deepT 4 []).ssp.toNat + 8 := meets (by decide +kernel)
theorem witness_call_register : (deepS 4 1 [(8, 0x10000)]).Issues (deepT 4 [(8, 0x10000)]) (targetForm 8 false) ∧
    srcOf (deepT 4 [(8, 0x10000)]) (targetForm 8 false) 0 % 4 = 0 ∧ srcOf (deepT 4 [(8, 0x10000)]) (targetForm 8 false) 0 < 2 ^ 52 :=
  meets (by decide +kernel)
theorem witness_return : (deepS 1 0 []).Issues (deepT 1 []) bareForm ∧ nth (deepT 1 []).ls 0 .empty = .pc 0x10004 ∧ 1 ≤ (deepT 1 []).csd.toNat ∧
    (deepT 1 []).csd.toNat < 5 := meets (by decide +kernel)
theorem witness_return_refills : (deepS 5 1 []).Issues (deepT 5 []) bareForm ∧ nth (deepT 5 []).ls 0 .empty = .pc 0x10004 ∧
    5 ≤ (deepT 5 []).csd.toNat ∧ (deepT 5 []).counter .ld < 63 := meets (by decide +kernel)
theorem witness_return_underflow : (probe 0).Issues thr bareForm ∧ thr.csd = 0 := meets (by decide +kernel)
theorem witness_ends : (probe 0).Issues thr bareForm ∧ (probe 0).Issues thr (reordForm 8 12 true 16) :=
  ⟨issues_of_check (by decide +kernel), issues_of_check (by decide +kernel)⟩

/-- The placed thread with n loads outstanding and its signature of set 15 standing. -/
def busyT (n : Nat) : Thread :=
  { thr with outstanding := (List.range n).map fun i => ⟨.ld, i, false⟩, signed := 0x8000 }
def busyS (n : Nat) : State := probeT 0 fun _ => busyT n

theorem witness_waits : ((busyS 2).Issues (busyT 2) bareForm ∧ (busyS 2).Issues (busyT 2) {}) ∧ (busyT 2).counter (KClass.ofCode 0) ≤ 2 ∧ 1 < (busyT 2).counter (KClass.ofCode 0) ∧
    (busyT 2).signed.getLsbD 0 = false ∧ (busyT 2).signed.getLsbD 15 = true ∧ ((busyS 2).committed (busyT 2) {}).preqOf (busyT 2).id = false ∧
    Scope.ofCode 5 = some .sy :=
  ⟨⟨issues_of_check (by decide +kernel), issues_of_check (by decide +kernel)⟩, by decide +kernel⟩

/-- The probe with its grid out of kernel mode and its context changed. -/
def userS (f : Ctx → Ctx) : State :=
  ((probe 0).updGrid ⟨0, 0⟩ fun g => { g with kernelMode := false }).updCtx 0 f

theorem witness_yield : (userS fun c => { c with preq := true }).Issues thr bareForm ∧
    ((userS fun c => { c with preq := true }).committed thr bareForm).preqOf thr.id = true := meets (by decide +kernel)
theorem witness_ill : (probe 0).cur = .thread thr.id ∧ (probe 0).thread? thr.id = some thr := by decide +kernel
theorem witness_ill_slice : ({ probe 0 with cur := .slice placedTeam } : State).cur = .slice placedTeam := rfl
theorem witness_softi : (userS fun c => { c with qmap := [0x00000083] }).Issues thr bareForm ∧
    (userS fun c => { c with qmap := [0x00000083] }).mapQueue thr.id.ctx 0 = some 3 ∧
    (userS fun c => { c with qmap := [0x00000083] }).mapQueue thr.id.ctx 1 = none := meets (by decide +kernel)
theorem witness_hints : (probe 0).cur = .thread thr.id ∧ (probe 0).thread? thr.id = some thr ∧ hintMisuse thr.latch 0 = false := by decide +kernel
theorem witness_hints_misuse : hintMisuse [latchedWord 0 5] 0 = true ∧ hintMisuse [latchedWord 0 5, latchedWord 1 5] 2 = true ∧
    hintMisuse [latchedWord 0 5] 1 = false := by decide +kernel
theorem witness_hints_slice : ({ probe 0 with cur := .slice placedTeam } : State).team? team.id = some team ∧
    team.slice = some (newSlice 0 0x10000 0 0 1) := by decide +kernel

-- sets and collectives

/-- The placed team with a set whose one member has a status. -/
def setTm (n : Nat) (st : MStatus) : Team :=
  { team with crs := team.crs.set n ⟨.range, 0, 0, 0, 0, 0, [⟨0, st, none⟩]⟩ }
def setS (n : Nat) (st : MStatus) (l : List (Nat × Nat)) : State := (regS l).updTeam placedTeam fun _ => setTm n st

theorem witness_declare : (regS []).Issues thr (rangeForm 8 true) ∧ (regS []).team? team.id = some team ∧ (team.cr 3).kind = .free ∧
    srcOf thr (rangeForm 8 true) 0 = 0 ∧ thr.id.rank ≤ 0 ∧ 0 < thr.tsize := meets (by decide +kernel)
theorem witness_declare_again : (setS 3 .undeclared []).Issues thr (rangeForm 8 true) ∧ (setS 3 .undeclared []).team? team.id = some (setTm 3 .undeclared) ∧
    ((setTm 3 .undeclared).cr 3).kind ≠ .free ∧ (((setTm 3 .undeclared).cr 3).members.map (·.rank)) = rangeRanks 0 0 ∧
    ((setTm 3 .undeclared).cr 3).status thr.id.rank = some .undeclared ∧ ((setTm 3 .signed).cr 3).status thr.id.rank = some .signed :=
  meets (by decide +kernel)
theorem witness_withdraw : (setS 3 .declared [(8, 1)]).Issues (regT [(8, 1)]) (rangeForm 8 true) ∧
    srcOf (regT [(8, 1)]) (rangeForm 8 true) 0 = 1 ∧ bits 1 16 14 < bits 1 0 14 ∧ (((setTm 3 .declared).cr 3).status thr.id.rank).isSome :=
  meets (by decide +kernel)
theorem witness_declare_mask : (regS [(12, 1)]).Issues (regT [(12, 1)]) (maskForm 12 8 true) ∧
    srcOf (regT [(12, 1)]) (maskForm 12 8 true) 0 = 0 ∧ srcOf (regT [(12, 1)]) (maskForm 12 8 true) 1 = 1 ∧
    thr.id.rank ∈ maskRanks 0 1 ∧ (∀ r ∈ maskRanks 0 1, r < thr.tsize) := meets (by decide +kernel)
theorem witness_signature : (setS 15 .declared []).Issues thr { wait := thr.signed.getLsbD 15 } ∧
    (setS 15 .declared []).team? (setTm 15 .declared).id = some (setTm 15 .declared) ∧
    ((setTm 15 .declared).cr 15).status thr.id.rank = some .declared := meets (by decide +kernel)
theorem witness_collectives : ((collectiveRows 8 12 true 16 false true true 13 15).all fun r => issuesB (setS 15 .declared []) thr (r.form thr)) = true ∧
    ((setTm 15 .declared).cr 15).status thr.id.rank = some .declared ∧ ((setTm 15 .declared).cr 15).deposit thr.id.rank = none := by
  decide +kernel


-- accesses

/-- The probe with the placed thread and team changed. -/
def bothS (f : Thread → Thread) (g : Team → Team) : State := (probeT 0 f).updTeam placedTeam g
/-- A part with a weight store (R25). -/
def withWeights (s : State) : State := { s with caps := s.caps.set 3 (nth s.caps 3 0 ||| 1) }
/-- Sixty-three operations outstanding in a counter. -/
def fullT (c : KClass) (l : List (Nat × Nat)) : Thread := { setRegs l thr with outstanding := (List.range 63).map fun i => ⟨c, 1000 + i, false⟩ }

theorem witness_load_guard : (probe 0).Issues thr (loadForm (probe 0) .g 4 16 8 true 12) ∧ thr.pred 12 = true :=
  meets (by decide +kernel)
theorem witness_load : ([.g, .s, .k].all fun sp => issuesB (regS [(8, 0x40)]) (regT [(8, 0x40)]) (loadForm (regS [(8, 0x40)]) sp 16 16 8 true 11) &&
    decide (effAddr sp (srcOf (regT [(8, 0x40)]) (loadForm (regS [(8, 0x40)]) sp 16 16 8 true 11) 0) (memOffsetGeneral [] 16) % 16 = 0)) = true ∧
    (regT [(8, 0x40)]).pred 11 ≠ true ∧ effAddr .k 0x40 (memOffsetGeneral [] 16) < (regS []).scrOf thr.id.teamId * 4096 ∧
    effAddr .k 0x40 (memOffsetGeneral [] 16) < 65536 ∧ (regT [(8, 0x40)]).counter .ld < 63 ∧
    (regS [(8, 0x40)]).lineAbsent thr.id.teamId 0 = false := by decide +kernel
theorem witness_load_weight : (withWeights (regS [(8, 0x7FFFFF00)])).Issues (regT [(8, 0x7FFFFF00)])
      (loadForm (withWeights (regS [(8, 0x7FFFFF00)])) .w 4 16 8 true 11) ∧
    effAddr .w (srcOf (regT [(8, 0x7FFFFF00)]) (loadForm (withWeights (regS [(8, 0x7FFFFF00)])) .w 4 16 8 true 11) 0) 0 < 2 ^ 31 ∧
    (withWeights (regS [(8, 0x7FFFFF00)])).weightBlocked 0 0x7FFFFF00 = false := meets (by decide +kernel)

/-- A load of the weight store under way at an address. -/
def weightRead (va : Nat) : Op :=
  { id := va, thr := ⟨0, 0, 0, 0⟩, role := 0, core := 0, part := 0, pos := 0, pc := 0, word := 0, latch := [], opnd := [], issued := 0, due := none,
    dests := [], vals := [], flags := 0, en := 0, rc := 0, late := false, holds := false, image := none,
    body := .mem (plainAccess (.load false) .w va 4 .cl), stage := .issued, cls := some .ws }
theorem witness_load_bank : ({ withWeights (probe 0) with ops := [weightRead 0x1000, weightRead 0x2000] } : State).Issues thr
      (loadForm (withWeights (probe 0)) .w 4 16 8 true 11) ∧
    ({ withWeights (probe 0) with ops := [weightRead 0x1000, weightRead 0x2000] } : State).weightBlocked 0 0 = true := meets (by decide +kernel)
theorem witness_load_absent : (bothS (setRegs [(8, 256)]) fun u => { u with lines := [⟨2, 1, false⟩] }).Issues (regT [(8, 256)])
      (loadForm (probe 0) .s 4 16 8 true 11) ∧
    (bothS (setRegs [(8, 256)]) fun u => { u with lines := [⟨2, 1, false⟩] }).lineAbsent thr.id.teamId (256 / 128) = true := meets (by decide +kernel)
theorem witness_load_full : (probeT 0 fun _ => fullT .ld []).Issues (fullT .ld []) (loadForm (probe 0) .g 4 16 8 true 11) ∧
    (fullT .ld []).counter .ld = 63 := meets (by decide +kernel)

theorem witness_store_guard : (probe 0).Issues thr (storeForm thr .g 4 16 8 true 12) ∧ thr.pred 12 = true := meets (by decide +kernel)
theorem witness_store : ([.g, .s].all fun sp => issuesB (regS [(8, 0xFF0)]) (regT [(8, 0xFF0)]) (storeForm (regT [(8, 0xFF0)]) sp 16 16 8 true 11)) = true ∧
    0xFF0 % 16 = 0 ∧ 0xFF0 < (regS []).scrOf thr.id.teamId * 4096 ∧ (regT [(8, 0xFF0)]).counter .st < 63 ∧
    (regS [(8, 0xFF0)]).tagged thr.id.teamId 0xFF0 16 = false := by decide +kernel
theorem witness_store_tagged : (bothS (setRegs [(8, 0x20)]) fun u => { u with tags := [1] }).Issues (regT [(8, 0x20)])
      (storeForm (regT [(8, 0x20)]) .s 4 16 8 true 11) ∧
    (bothS (setRegs [(8, 0x20)]) fun u => { u with tags := [1] }).tagged thr.id.teamId 0x20 4 = true := meets (by decide +kernel)
theorem witness_store_full : (probeT 0 fun _ => fullT .st []).Issues (fullT .st []) (storeForm (fullT .st []) .g 4 16 8 true 11) ∧
    (fullT .st []).counter .st = 63 := meets (by decide +kernel)

theorem witness_atomic : ([true, false].all fun p => [true, false].all fun w =>
    issuesB (regS [(8, 8)]) (regT [(8, 8)]) (atomForm (regT [(8, 8)]) 16 (if w then 2 else 1) (if w then 2 else 1) 8 true p 0) &&
    issuesB (regS [(8, 8)]) (regT [(8, 8)]) (atomForm (regT [(8, 8)]) 16 (if w then 4 else 2) (if w then 2 else 1) 8 true p 5)) = true ∧
    (regS [(8, 8)]).tagged thr.id.teamId 8 8 = false ∧ (regS [(8, 8)]).lineAbsent thr.id.teamId 0 = false ∧ (regT [(8, 8)]).counter .ld < 63 := by
  decide +kernel
theorem witness_atomic_tagged : (bothS (setRegs [(8, 0x20)]) fun u => { u with tags := [1] }).Issues (regT [(8, 0x20)])
      (atomForm (regT [(8, 0x20)]) 16 1 1 8 true true 0) ∧
    (bothS (setRegs [(8, 0x20)]) fun u => { u with tags := [1] }).tagged thr.id.teamId 0x20 4 = true := meets (by decide +kernel)
theorem witness_atomic_absent : (bothS (setRegs [(8, 256)]) fun u => { u with lines := [⟨2, 1, false⟩] }).Issues (regT [(8, 256)])
      (atomForm (regT [(8, 256)]) 16 1 1 8 true true 0) ∧
    (bothS (setRegs [(8, 256)]) fun u => { u with lines := [⟨2, 1, false⟩] }).tagged thr.id.teamId 256 4 = false ∧
    (bothS (setRegs [(8, 256)]) fun u => { u with lines := [⟨2, 1, false⟩] }).lineAbsent thr.id.teamId 2 = true := meets (by decide +kernel)

theorem witness_address_words : ([true, false].all fun p => issuesB (regS [(8, 8)]) (regT [(8, 8)]) (waitForm 16 8 true p true) &&
      issuesB (regS [(8, 8)]) (regT [(8, 8)]) (wakeForm 16 8 true p)) = true ∧
    issuesB (regS [(8, 8)]) (regT [(8, 8)]) (lineForm 8 true) = true ∧ issuesB (regS [(8, 8)]) (regT [(8, 8)]) (pinForm 16 8 true) = true ∧
    (regS [(8, 8)]).lineAbsent thr.id.teamId 0 = false ∧ 8 < (regS []).scrOf thr.id.teamId * 4096 ∧ (regT [(8, 8)]).counter .ld < 63 ∧
    (regT [(8, 8)]).counter .st < 63 := by decide +kernel

-- the matrix unit and its accumulators

/-- Slot words that serve MMA, MMAS, MMAB and MMAC over a 32-bit tile (R110): f16 by f16 into f32, the same with a declared sparsity, b1 by b1
into i32, and the ordered sum. -/
def mxSlot (kind : Nat) : Nat := nth [0x122, 0x4122, 0x899, 0x899, 0x40122] kind 0
/-- A thread with both source words at the start of the region, declared in set 15, under a slot word. -/
def mxT : Thread := setRegs [(16, 0x40000000), (20, 0x40000040)] thr
def mxS (kind : Nat) (f : Team → Team) : State :=
  (bothS (setRegs [(16, 0x40000000), (20, 0x40000040)]) f).updGrid ⟨0, 0⟩ fun g =>
    { g with launch := { g.launch with slots := List.replicate 8 (BitVec.ofNat 32 (mxSlot kind)), scr := 96 } }
/-- The placed team with a region of 96 blocks and a set. -/
def wideTm (n : Nat) (st : MStatus) : Team := { setTm n st with scr := 96 }

theorem witness_matrix : ([0, 1, 2, 3, 4].all fun k => issuesB (mxS k fun _ => wideTm 15 .declared) mxT (matrixForm (mxS k fun _ => wideTm 15 .declared) mxT k 16 20 true 7 15 3)) = true ∧
    srcOf mxT (matrixForm (mxS 0 fun _ => wideTm 15 .declared) mxT 0 16 20 true 7 15 3) 0 = 0x40000040 ∧
    srcOf mxT (matrixForm (mxS 0 fun _ => wideTm 15 .declared) mxT 0 16 20 true 7 15 3) 1 = 0x40000000 := by decide +kernel

theorem witness_matrix_ready : ∀ k ∈ [0, 1, 2, 3, 4],
    (mxS k fun _ => wideTm 15 .declared).MatrixReady mxT (wideTm 15 .declared) k 7 15 3 0x40000000 0x40000040 := by
  have h : ([0, 1, 2, 3, 4].all fun k => decide ((mxS k fun _ => wideTm 15 .declared).team? mxT.id.teamId = some (wideTm 15 .declared)) &&
      decide ((mxS k fun _ => wideTm 15 .declared).openDeposits ((mxS k fun _ => wideTm 15 .declared).coreOf mxT.id)
        ((mxS k fun _ => wideTm 15 .declared).partOf mxT.id) < 4) &&
      decide (decide (((mxS k fun _ => wideTm 15 .declared).slotOf mxT 7).matrixClass = some 0) =
        (mxS k fun _ => wideTm 15 .declared).tileWide mxT.id.gridId 3) &&
      decide (operandBeyond true (wideTm 15 .declared).np (wideTm 15 .declared).scr k ((mxS k fun _ => wideTm 15 .declared).slotOf mxT 7) 0x40000000 = false) &&
      decide (operandBeyond false (wideTm 15 .declared).np (wideTm 15 .declared).scr k ((mxS k fun _ => wideTm 15 .declared).slotOf mxT 7) 0x40000040
        = false)) = true := by decide +kernel
  intro k hk
  have h := List.all_eq_true.mp h k hk
  simp only [Bool.and_eq_true, decide_eq_true_eq] at h
  obtain ⟨⟨⟨⟨h1, h2⟩, h3⟩, h4⟩, h5⟩ := h
  have hd : ((wideTm 15 .declared).cr 15).deposit mxT.id.rank = none := by decide +kernel
  exact ⟨h1, h2, h3, .inl (by decide +kernel), fun d h => absurd (hd ▸ h) (by simp), by decide +kernel, by decide +kernel, h4, h5, by decide +kernel⟩

/-- The conditions of the accumulator words, computed. -/
def tilesReadyB (s : State) (t : Thread) (tm : Team) (tiles writes : List Nat) : Bool :=
  decide (s.team? t.id.teamId = some tm) && (tiles.all fun x => decide (s.tileWide t.id.gridId x = s.tileWide t.id.gridId (nth tiles 0 0))) &&
  (tiles.all fun x => ! tm.tileWritten (tm.siteFor t.id.rank) x) &&
  writes.all fun x => ! tm.tileHeld (tm.siteFor t.id.rank) x && ! s.tileRead tm.id x (some (tm.siteFor t.id.rank))

theorem tiles_of_check {s : State} {t : Thread} {tm : Team} {l w : List Nat} (h : tilesReadyB s t tm l w = true) : s.TilesReady t tm l w := by
  simp only [tilesReadyB, Bool.and_eq_true, decide_eq_true_eq, Bool.not_eq_true', List.all_eq_true] at h
  exact ⟨h.1.1.1, h.1.1.2, h.1.2, h.2⟩

/-- The probe whose thread's element word names the slot and whose slot words are of a kind. -/
def acS (kind : Nat) (l : List (Nat × Nat)) (f : Team → Team) : State :=
  (bothS (setRegs l) f).updGrid ⟨0, 0⟩ fun g => { g with launch := { g.launch with slots := List.replicate 8 (BitVec.ofNat 32 (mxSlot kind)) } }

theorem witness_tile_zero : (probe 0).Issues thr (accForm (probe 0) thr {} [3]) ∧ (probe 0).TilesReady thr team [3] [3] :=
  ⟨issues_of_check (by decide +kernel), tiles_of_check (by decide +kernel)⟩
theorem witness_tile_move : (probe 0).Issues thr (accForm (probe 0) thr {} [3, 0]) ∧ (probe 0).TilesReady thr team [3, 0] [3] :=
  ⟨issues_of_check (by decide +kernel), tiles_of_check (by decide +kernel)⟩

/-- A region that holds an image of a tile. -/
def bigTm (f : Team → Team) : Team := f { team with scr := 8 }
theorem witness_tile_load : (acS 0 [(8, 64)] fun _ => bigTm id).Issues (regT [(8, 64)]) (accForm (acS 0 [(8, 64)] fun _ => bigTm id) (regT [(8, 64)])
      (acFormA 8 true) [3]) ∧ (acS 0 [(8, 64)] fun _ => bigTm id).TilesReady (regT [(8, 64)]) (bigTm id) [3] [3] ∧
    (acS 0 [(8, 64)] fun _ => bigTm id).TilesReady (regT [(8, 64)]) (bigTm id) [3] [] ∧
    ImageAddress (acS 0 [(8, 64)] fun _ => bigTm id) (regT [(8, 64)]) (bigTm id) 3 64 :=
  ⟨issues_of_check (by decide +kernel), tiles_of_check (by decide +kernel), tiles_of_check (by decide +kernel), by unfold ImageAddress; decide +kernel⟩
theorem witness_tile_load_rest : srcOf (regT [(8, 64)]) (accForm (acS 0 [(8, 64)] fun _ => bigTm id) (regT [(8, 64)]) (acFormA 8 true) [3]) 0 = 64 ∧
    (bigTm id).absentIn 64 4096 = none ∧ (bigTm fun u => { u with lines := [⟨2, 1, false⟩] }).absentIn 64 4096 = some 2 ∧
    ((acS 0 [(8, 64)] fun _ => bigTm id).committed (regT [(8, 64)]) (acFormA 8 true)).imageHeld
      ((acS 0 [(8, 64)] fun _ => bigTm id).argsOf (regT [(8, 64)]) (acFormA 8 true)) 64 4096 = false ∧
    (acS 0 [(8, 64)] fun _ => bigTm id).tagged thr.id.teamId 64 4096 = false ∧
    (acS 0 [(8, 64)] fun _ => bigTm fun u => { u with tags := [3] }).tagged thr.id.teamId 64 4096 = true ∧ (regT [(8, 64)]).counter .mx < 63 := by
  decide +kernel
theorem witness_tile_absent : (acS 0 [(8, 64)] fun _ => bigTm fun u => { u with lines := [⟨2, 1, false⟩] }).Issues (regT [(8, 64)])
      (accForm (acS 0 [(8, 64)] fun _ => bigTm fun u => { u with lines := [⟨2, 1, false⟩] }) (regT [(8, 64)]) (acFormA 8 true) [3]) ∧
    (acS 0 [(8, 64)] fun _ => bigTm fun u => { u with lines := [⟨2, 1, false⟩] }).TilesReady (regT [(8, 64)])
      (bigTm fun u => { u with lines := [⟨2, 1, false⟩] }) [3] [3] := ⟨issues_of_check (by decide +kernel), tiles_of_check (by decide +kernel)⟩
theorem witness_tile_tagged : (acS 0 [(8, 64)] fun _ => bigTm fun u => { u with tags := [3] }).Issues (regT [(8, 64)])
      (accForm (acS 0 [(8, 64)] fun _ => bigTm fun u => { u with tags := [3] }) (regT [(8, 64)]) (acFormA 8 true) [3]) ∧
    (acS 0 [(8, 64)] fun _ => bigTm fun u => { u with tags := [3] }).TilesReady (regT [(8, 64)])
      (bigTm fun u => { u with tags := [3] }) [3] [] := ⟨issues_of_check (by decide +kernel), tiles_of_check (by decide +kernel)⟩
theorem witness_element : (acS 0 [(8, 0x1F1F)] id).Issues (regT [(8, 0x1F1F)])
      (accForm (acS 0 [(8, 0x1F1F)] id) (regT [(8, 0x1F1F)]) (acresForm (acS 0 [(8, 0x1F1F)] id) (regT [(8, 0x1F1F)]) 16 8 true 7) [3]) ∧
    (acS 0 [(8, 0x1F1F)] id).TilesReady (regT [(8, 0x1F1F)]) team [3] [] ∧
    decide (((acS 0 [(8, 0x1F1F)] id).slotOf (regT [(8, 0x1F1F)]) 7).matrixClass = some 0) = (acS 0 [(8, 0x1F1F)] id).tileWide thr.id.gridId 3 :=
  ⟨issues_of_check (by decide +kernel), tiles_of_check (by decide +kernel), by decide +kernel⟩
theorem witness_compare : (acS 0 [(8, 0x1F1F)] id).Issues (regT [(8, 0x1F1F)])
      (accForm (acS 0 [(8, 0x1F1F)] id) (regT [(8, 0x1F1F)]) { acFormA 8 true with dests := [16] } [3, 0]) ∧
    (acS 0 [(8, 0x1F1F)] id).TilesReady (regT [(8, 0x1F1F)]) team [3, 0] [] :=
  ⟨issues_of_check (by decide +kernel), tiles_of_check (by decide +kernel)⟩

-- queues and submissions

/-- The placed team with a queue 7 whose slot 0 is in a state. -/
def queueTm (st : SlotState) (mark : Bool) (f : Team → Team) : Team :=
  f { team with queues := team.queues.set 7 { emptyQueue with slots := emptyQueue.slots.set 0 ⟨st, .thread, 0, mark, 5⟩, tail := 1 } }
def queueS (st : SlotState) (mark : Bool) (l : List (Nat × Nat)) (f : Team → Team) : State := bothS (setRegs l) fun _ => queueTm st mark f

theorem witness_pop : ([1, 2, 3, 4, 5, 6, 7].all fun z => issuesB (queueS .ready false [(8, 0)] id) (regT [(8, 0)]) (popForm 16 8 true z)) = true ∧
    (queueS .ready false [(8, 0)] id).team? team.id = some (queueTm .ready false id) ∧ ((queueTm .ready false id).queue 7).front = some 0 ∧
    (((queueTm .ready false id).queue 7).slot 0).st = .ready ∧ (((queueTm .ready false id).queue 7).slot 0).poison = false ∧
    srcOf (regT [(8, 0)]) (popForm 16 8 true 1) 0 % 256 = 0 := by decide +kernel
theorem witness_pop_nothing : (queueS .ready false [] id).Issues (regT []) (popForm 16 8 true 0) ∧ popSize 0 = 0 := meets (by decide +kernel)
theorem witness_pop_empty : (probe 0).Issues thr (popForm 16 8 true 1) ∧ (probe 0).team? team.id = some team ∧ (team.queue 7).front = none :=
  meets (by decide +kernel)
theorem witness_pop_reserved : (queueS .reserved false [] id).Issues (regT []) (popForm 16 8 true 1) ∧
    ((queueTm .reserved false id).queue 7).front = some 0 ∧ (((queueTm .reserved false id).queue 7).slot 0).st ≠ .ready := meets (by decide +kernel)
theorem witness_pop_marked : (queueS .ready true [] id).Issues (regT []) (popForm 16 8 true 1) ∧
    ((queueTm .ready true id).queue 7).front = some 0 ∧ (((queueTm .ready true id).queue 7).slot 0).poison = true ∧ popSize 1 ≠ 0 :=
  meets (by decide +kernel)
theorem witness_pop_misaligned : (queueS .ready false [(8, 255)] id).Issues (regT [(8, 255)]) (popForm 16 8 true 3) ∧
    popSize 3 ≠ 0 ∧ srcOf (regT [(8, 255)]) (popForm 16 8 true 3) 0 % 256 % popSize 3 ≠ 0 := meets (by decide +kernel)
theorem witness_push : (queueS .ready false [(8, 64)] id).Issues (regT [(8, 64)]) (acFormA 8 true) ∧
    ((queueTm .ready false id).queue 7).room 0 1 = true ∧ (queueTm .ready false id).absentIn 64 256 = none ∧
    ((queueS .ready false [(8, 64)] id).committed (regT [(8, 64)]) (acFormA 8 true)).imageHeld
      ((queueS .ready false [(8, 64)] id).argsOf (regT [(8, 64)]) (acFormA 8 true)) 64 256 = false ∧ (regT [(8, 64)]).counter .st < 63 ∧
    (queueS .ready false [(8, 64)] id).now 0 = 0 ∧ 64 + 256 ≤ team.scr * 4096 := meets (by decide +kernel)

/-- A queue without an Empty slot. -/
def fullQueue : OpQueue := { emptyQueue with slots := List.replicate 16 ⟨.ready, .slice, 0, false, 0⟩, sheld := 16 }
theorem witness_push_full : (bothS (setRegs [(8, 64)]) fun u => { u with queues := u.queues.set 7 fullQueue }).Issues (regT [(8, 64)]) (acFormA 8 true) ∧
    fullQueue.room 0 1 = false := meets (by decide +kernel)

/-- An image of a class. -/
def imgOf (c : Nat) : Img := ⟨0, c, c + 1, 6, []⟩
/-- A probe whose context has images bound, and whose islands serve a context. -/
def islandS (ctx : Nat) (l : List (Nat × Nat)) (f : Team → Team) : State :=
  { (bothS (setRegs l) f).updCtx 0 fun c => { c with bound := some ⟨some (imgOf 0), some (imgOf 1), some (imgOf 2), 0, 0, 0, 0⟩ } with
    islands := [⟨0, 0, some ctx, some (imgOf 0), 0, 0, []⟩, ⟨1, 0, some ctx, some (imgOf 1), 0, 0, []⟩, ⟨2, 0, some ctx, some (imgOf 2), 0, 0, []⟩] }
theorem witness_submission : ([0, 1, 2].all fun c => issuesB (islandS 0 [(8, 0x17)] id) (regT [(8, 0x17)]) (isubForm 16 8 true 2) &&
      ((islandS 0 [(8, 0x17)] id).boundImage 0 c).isSome &&
      ((islandS 0 [(8, 0x17)] id).island c (islandOf c 0 0)).takes 0 ((islandS 0 [(8, 0x17)] id).boundImage 0 c) 0) = true ∧
    bitAt 0x17 3 = false ∧ bits 0x17 18 14 = 0 ∧ bits 0x17 16 2 = 0 ∧ (team.queue (bits 0x17 0 3)).room 0 (bits 0x17 4 4) = true ∧
    (regT [(8, 0x17)]).counter .is < 63 ∧ srcOf (regT [(8, 0x17)]) (isubForm 16 8 true 2) 0 = 0x17 := by decide +kernel
theorem witness_submission_elsewhere : (islandS 1 [(8, 0x17)] id).Issues (regT [(8, 0x17)]) (isubForm 16 8 true 2) ∧
    ((islandS 1 [(8, 0x17)] id).island 2 (islandOf 2 0 0)).takes 0 ((islandS 1 [(8, 0x17)] id).boundImage 0 2) 0 = false := meets (by decide +kernel)
theorem witness_submission_full : (islandS 0 [(8, 0x17)] fun u => { u with queues := u.queues.set 7 fullQueue }).Issues (regT [(8, 0x17)])
      (isubForm 16 8 true 2) ∧ fullQueue.room 0 1 = false := meets (by decide +kernel)
/-- A probe whose grid allows TRACE to a depth, with scratch memory. -/
def traceS (depth stks : Nat) (l : List (Nat × Nat)) : State :=
  (islandS 0 l id).updGrid ⟨0, 0⟩ fun g => { g with launch := { g.launch with depth := depth, stks := stks } }
theorem witness_trace : (traceS 1 1 [(8, 24)]).Issues (regT [(8, 24)]) (traceForm 32 8 true) ∧ bits 24 0 5 = 24 ∧ bits 24 5 3 = 0 ∧
    bits 24 16 16 = 0 ∧ srcOf (regT [(8, 24)]) (traceForm 32 8 true) 0 = 24 ∧ ((traceS 1 1 [(8, 24)]).boundImage 0 1).isSome ∧
    (((traceS 1 1 [(8, 24)]).launchOf ⟨0, 0⟩).map (·.depth)) = some 1 ∧ (regT [(8, 24)]).tdep = 0 ∧
    (regT [(8, 24)]).freeFrames.ssp.toNat + traceFrame (regT [(8, 24)]) 32 24 ≤ (traceS 1 1 [(8, 24)]).scratchSize (regT [(8, 24)]) ∧
    ((traceS 1 1 [(8, 24)]).island 1 (clusterOf 0)).takes 0 ((traceS 1 1 [(8, 24)]).boundImage 0 1) 0 = true ∧ (regT [(8, 24)]).counter .is < 63 := meets (by decide +kernel)
theorem witness_trace_depth : (traceS 0 1 [(8, 24)]).Issues (regT [(8, 24)]) (traceForm 32 8 true) ∧
    (((traceS 0 1 [(8, 24)]).launchOf ⟨0, 0⟩).map (·.depth)) = some 0 := meets (by decide +kernel)
theorem witness_trace_overflow : (traceS 1 0 [(8, 24)]).Issues (regT [(8, 24)]) (traceForm 48 8 true) ∧
    (traceS 1 0 [(8, 24)]).scratchSize (regT [(8, 24)]) < (regT [(8, 24)]).freeFrames.ssp.toNat + traceFrame (regT [(8, 24)]) 48 24 :=
  meets (by decide +kernel)

-- slices

/-- A slice of the placed team, and the state in which it acts. -/
def sliceS (f : Slice → Slice) (g : Team → Team) : State :=
  { (probe 0).updTeam placedTeam fun u => g { u with slice := some (f (newSlice 0 0x10000 0 0 1)) } with cur := .slice placedTeam }
def sliceTm (f : Slice → Slice) (g : Team → Team) : Team := g { team with slice := some (f (newSlice 0 0x10000 0 0 1)) }
def sliceOf (f : Slice → Slice) : Slice := f (newSlice 0 0x10000 0 0 1)
/-- Loops of three rounds, nested. -/
def loops (n : Nat) (it : Nat) : List LoopLevel := List.replicate n ⟨0x10004, 3, BitVec.ofNat 32 it⟩

theorem runs_of_check {s : State} {tm : Team} {sl : Slice} {h : Hints} (c : (decide (s.cur = .slice tm.id) && decide (s.team? tm.id = some tm) &&
    decide (tm.slice = some sl) && decide (sl.run = .running) && hintsOk h sl.latch) = true) : s.SliceRuns tm sl h := by
  simp only [Bool.and_eq_true, decide_eq_true_eq] at c
  exact ⟨c.1.1.1.1, c.1.1.1.2, c.1.1.2, c.1.2, c.2⟩

theorem witness_slice : (sliceS id id).SliceRuns (sliceTm id id) (sliceOf id) { schedOnly with imm := 2 } ∧ (sliceOf id).loops.length < 4 ∧
    (sliceOf id).loops = [] ∧ ((sliceTm id id).queue 0).front = none := ⟨runs_of_check (by decide +kernel), by decide +kernel⟩
theorem witness_slice_plain : (sliceS id id).SliceRuns (sliceTm id id) (sliceOf id) schedOnly ∧
    (sliceS id id).SliceRuns (sliceTm id id) (sliceOf id) { cp := true, live := false } := ⟨runs_of_check (by decide +kernel), runs_of_check (by decide +kernel)⟩
theorem witness_slice_deep : (sliceS (fun x => x.withLoops (loops 4 0)) id).SliceRuns (sliceTm (fun x => x.withLoops (loops 4 0)) id)
      (sliceOf fun x => x.withLoops (loops 4 0)) { schedOnly with imm := 2 } ∧ 4 ≤ (sliceOf fun x => x.withLoops (loops 4 0)).loops.length :=
  ⟨runs_of_check (by decide +kernel), by decide +kernel⟩
theorem witness_slice_end : ((sliceS (fun x => x.withLoops (loops 2 1)) id).SliceRuns (sliceTm (fun x => x.withLoops (loops 2 1)) id)
      (sliceOf fun x => x.withLoops (loops 2 1)) schedOnly ∧ (sliceOf fun x => x.withLoops (loops 2 1)).loops = loops 1 1 ++ [⟨0x10004, 3, 1⟩]) ∧
    (sliceS (fun x => x.withLoops (loops 2 2)) id).SliceRuns (sliceTm (fun x => x.withLoops (loops 2 2)) id)
      (sliceOf fun x => x.withLoops (loops 2 2)) schedOnly ∧ (sliceOf fun x => x.withLoops (loops 2 2)).loops = loops 1 2 ++ [⟨0x10004, 3, 2⟩] :=
  ⟨⟨runs_of_check (by decide +kernel), rfl⟩, runs_of_check (by decide +kernel), rfl⟩
theorem witness_slice_waits : ([SlotState.ready, .reserved].all fun st => decide ((queueTm st false id).queue 7).front.isSome) = true ∧
    (sliceS id fun u => queueTm .ready false fun _ => { u with queues := (queueTm .ready false id).queues }).SliceRuns
      (sliceTm id fun u => { u with queues := (queueTm .ready false id).queues }) (sliceOf id) schedOnly :=
  ⟨by decide +kernel, runs_of_check (by decide +kernel)⟩

theorem witness_queue_load : (∀ k : Nat, k < 2 ^ 3 → wrap (((sliceOf id).xreg 3 : Int) + k * sext ((sliceOf id).xreg 4) 32) 64 % 32 = 0) ∧
    ((sliceTm id id).queue 7).room 0 1 = true ∧ ((sliceTm id id).queue 7).sheld < ((sliceTm id id).queue 7).limit := by decide +kernel
theorem witness_queue_load_misaligned : (sliceS (fun x => x.withX 4 8) id).SliceRuns (sliceTm (fun x => x.withX 4 8) id) (sliceOf fun x => x.withX 4 8)
      { cp := true, live := false } ∧ (∀ j : Nat, j < 1 → wrap (((sliceOf fun x => x.withX 4 8).xreg 3 : Int) + j * 8) 64 % 32 = 0) ∧
    wrap (((sliceOf fun x => x.withX 4 8).xreg 3 : Int) + (1 : Nat) * 8) 64 % 32 ≠ 0 ∧ sext ((sliceOf fun x => x.withX 4 8).xreg 4) 32 = 8 :=
  ⟨runs_of_check (by decide +kernel), by decide +kernel⟩
theorem witness_queue_load_full : (sliceS id fun u => { u with queues := u.queues.set 7 fullQueue }).SliceRuns
      (sliceTm id fun u => { u with queues := u.queues.set 7 fullQueue }) (sliceOf id) { cp := true, live := false } ∧
    ((sliceTm id fun u => { u with queues := u.queues.set 7 fullQueue }).queue 7).room 0 1 = false :=
  ⟨runs_of_check (by decide +kernel), by decide +kernel⟩
theorem witness_weight_load : (withWeights (sliceS id id)).SliceRuns (sliceTm id id) (sliceOf id) { cp := true, live := false } ∧
    (withWeights (sliceS id id)).hasWeights = true ∧ ({ sliceS id id with caps := [0, 0, 0, 0] } : State).SliceRuns (sliceTm id id) (sliceOf id)
      { cp := true, live := false } ∧ ({ sliceS id id with caps := [0, 0, 0, 0] } : State).hasWeights = false :=
  ⟨runs_of_check (by decide +kernel), by decide +kernel, runs_of_check (by decide +kernel), by decide +kernel⟩
theorem witness_weight_load_beyond : (withWeights (sliceS (fun x => x.withX 3 0x80000000) id)).SliceRuns (sliceTm (fun x => x.withX 3 0x80000000) id)
      (sliceOf fun x => x.withX 3 0x80000000) { cp := true, live := false } ∧ 2 ^ 31 ≤ (sliceOf fun x => x.withX 3 0x80000000).xreg 3 :=
  ⟨runs_of_check (by decide +kernel), by decide +kernel⟩

-- copies, launches, service calls

/-- Registers of a copy's descriptor: 32 bytes a row, two rows, 64 bytes apart, from 0x10000 to 0x40 (or as given). -/
def descRegs (src dst rowb nrow mask : Nat) : List (Nat × Nat) :=
  [(16, src), (17, 0), (18, dst), (19, 0), (20, rowb), (21, nrow), (22, 64), (23, 64), (24, mask), (25, 0)]

/-- The copy of the registers of a thread. -/
def copyIn (s : State) (t : Thread) (kind sc dc : Nat) : Copy :=
  s.copyDesc (s.argsOf t (copyForm 16 8 true (if kind = 1 then 10 else 8))) s.nextId kind sc dc
    (srcOf t (copyForm 16 8 true (if kind = 1 then 10 else 8)) 0) (srcOf t (copyForm 16 8 true (if kind = 1 then 10 else 8)) 1)
def copyTrapIn (s : State) (t : Thread) (kind sc dc : Nat) : Option (Nat × Nat) :=
  let cw := srcOf t (copyForm 16 8 true (if kind = 1 then 10 else 8)) 0
  let v := srcOf t (copyForm 16 8 true (if kind = 1 then 10 else 8)) 1
  let x := s.argsOf t (copyForm 16 8 true (if kind = 1 then 10 else 8))
  copyTrap s x (copyIn s t kind sc dc) (descSrc v) (descDst v) (descMask v) (descFlawed sc dc cw v)
    ((s.copyTargets x kind v (copyIn s t kind sc dc).dstS).map (·.1))

theorem witness_copy : ([0, 1, 2, 3].all fun k => issuesB (regS (descRegs 0x10000 0x40 32 2 1)) (regT (descRegs 0x10000 0x40 32 2 1))
      (copyForm 16 8 true (if k = 1 then 10 else 8)) &&
    decide (copyTrapIn (regS (descRegs 0x10000 0x40 32 2 1)) (regT (descRegs 0x10000 0x40 32 2 1)) k 0 1 = none) &&
    decide ((copyIn (regS (descRegs 0x10000 0x40 32 2 1)) (regT (descRegs 0x10000 0x40 32 2 1)) k 0 1).rowb *
      (copyIn (regS (descRegs 0x10000 0x40 32 2 1)) (regT (descRegs 0x10000 0x40 32 2 1)) k 0 1).nrow = 64) &&
    ! (regS (descRegs 0x10000 0x40 32 2 1)).cairnFull (copyIn (regS (descRegs 0x10000 0x40 32 2 1)) (regT (descRegs 0x10000 0x40 32 2 1)) k 0 1)) = true ∧
    (regT (descRegs 0x10000 0x40 32 2 1)).counter .cp < 63 := by decide +kernel
theorem witness_copy_empty : (regS (descRegs 0x10000 0x40 32 0 1)).Issues (regT (descRegs 0x10000 0x40 32 0 1)) (copyForm 16 8 true 8) ∧
    copyTrapIn (regS (descRegs 0x10000 0x40 32 0 1)) (regT (descRegs 0x10000 0x40 32 0 1)) 0 0 1 = none ∧
    (copyIn (regS (descRegs 0x10000 0x40 32 0 1)) (regT (descRegs 0x10000 0x40 32 0 1)) 0 0 1).rowb *
      (copyIn (regS (descRegs 0x10000 0x40 32 0 1)) (regT (descRegs 0x10000 0x40 32 0 1)) 0 0 1).nrow = 0 := meets (by decide +kernel)
theorem witness_copy_traps : (regS (descRegs 0x10001 0x40 32 2 1)).Issues (regT (descRegs 0x10001 0x40 32 2 1)) (copyForm 16 8 true 8) ∧
    copyTrapIn (regS (descRegs 0x10001 0x40 32 2 1)) (regT (descRegs 0x10001 0x40 32 2 1)) 0 0 1 = some (clsCopy, 0) := meets (by decide +kernel)

/-- A copy with a cairn at 32 whose ICNT stands at its largest. -/
def fullCairn (u : Team) : Team := { u with tags := [1], scratch := memWrite [] (32 + 0x18) 2 0xFFFF }
theorem witness_copy_full : (bothS (setRegs ((8, 0x80000020) :: descRegs 0x10000 0x40 32 2 1)) fullCairn).Issues
      (regT ((8, 0x80000020) :: descRegs 0x10000 0x40 32 2 1)) (copyForm 16 8 true 8) ∧
    copyTrapIn (bothS (setRegs ((8, 0x80000020) :: descRegs 0x10000 0x40 32 2 1)) fullCairn)
      (regT ((8, 0x80000020) :: descRegs 0x10000 0x40 32 2 1)) 0 0 1 = none ∧
    (bothS (setRegs ((8, 0x80000020) :: descRegs 0x10000 0x40 32 2 1)) fullCairn).cairnFull
      (copyIn (bothS (setRegs ((8, 0x80000020) :: descRegs 0x10000 0x40 32 2 1)) fullCairn)
        (regT ((8, 0x80000020) :: descRegs 0x10000 0x40 32 2 1)) 0 0 1) = true := meets (by decide +kernel)

/-- The bytes of a launch record: one team of one role of one thread at 0x10000, depth and tiles 0, deadline 1 (R44 to R46). -/
def launchRaw : Nat := 1 + 2 ^ 48 + 2 ^ 64 + 0x10000 * 2 ^ (8 * 0x20) + 2 ^ (8 * 0x28)
/-- A probe with that record at the start of the scratchpad, records in the store, and a spill ring with records in it. -/
def launchS (spill held : Nat) : State :=
  let s := bothS id fun u => { u with scratch := memWrite [] 0 256 launchRaw }
  { s with ctls := s.ctls.map fun c => { c with lsrc := BitVec.ofNat 32 spill, lsrp := held, lsrk := 0 } }
def launchForm : Issue := { acFormA 8 true with dests := [64 + 3] }
theorem witness_launch : (launchS 0 0).Issues thr launchForm ∧ srcOf thr launchForm 0 = 0 ∧ ((launchS 0 0).grid? ⟨0, 0⟩).isSome ∧
    (((launchS 0 0).committed thr launchForm).imageBytes ((launchS 0 0).argsOf thr launchForm) 0 256) = (launchRaw, false) ∧
    recordFlaw launchRaw = none ∧ (launchS 0 0).noCluster 0 (LaunchRec.ofRaw launchRaw) = false ∧ ((launchS 0 0).ctl 0).spilled = 0 ∧
    (launchS 0 0).storeRoom 0 = true ∧
    ((launchS 0 0).committed thr launchForm).imageHeld ((launchS 0 0).argsOf thr launchForm) 0 256 = false ∧
    ((launchS 0 0).team? team.id).any (fun u => u.present 0 256) = true := meets (by decide +kernel)
theorem witness_launch_spills : (launchS 1 1).Issues thr launchForm ∧ ((launchS 1 1).ctl 0).spilled ≠ 0 ∧
    ((launchS 1 1).ctl 0).spilled < ((launchS 1 1).ctl 0).spillSize := meets (by decide +kernel)
theorem witness_launch_refused : (launchS 1 2).Issues thr launchForm ∧ ((launchS 1 2).ctl 0).spilled ≠ 0 ∧
    ((launchS 1 2).ctl 0).spillSize ≤ ((launchS 1 2).ctl 0).spilled := meets (by decide +kernel)

/-- A probe with a service ring at 0x18000, of which a number of slots is taken, and its class permitted. -/
def serviceS (svcp pw : Nat) : State :=
  let s := (probe 0).updGrid ⟨0, 0⟩ fun g => { g with svcp := svcp }
  { s with
    ctls := s.ctls.map fun c => { c with sqb := BitVec.ofNat 64 0x18000, sqc := 1 }
    home := memWrite s.home 0x18000 8 pw
    tlb2 := [⟨0, placedPage⟩] }
theorem witness_service : ([0, 1, 2].all fun n => issuesB (serviceS 0x8000 0) thr (svcForm (serviceS 0x8000 0) 16 8 true (2 * 2 ^ n) thr)) = true ∧
    ((serviceS 0x8000 0).grid? ⟨0, 0⟩).any (fun g => bitAt g.svcp 15) = true ∧ ((serviceS 0 0).grid? ⟨0, 0⟩).any (fun g => bitAt g.svcp 15) = false ∧
    ((serviceS 0x8000 0).ctl 0).serviceRing = some (0x18000, 2) ∧ (serviceS 0x8000 0).serviceCtx 0 = some 0 ∧
    (serviceS 0x8000 0).read1k 0 0 0x18000 8 = .ok 0 false ∧ (serviceS 0x8000 0).read1k 0 0 (0x18000 + 64) 8 = .ok 0 false ∧
    (serviceS 0x8000 2).read1k 0 0 0x18000 8 = .ok 2 false ∧ (serviceS 0x8000 0).svc = [] := by decide +kernel
theorem witness_service_more : (serviceS 0 0).Issues thr (svcForm (serviceS 0 0) 16 8 true 2 thr) ∧
    (serviceS 0x8000 2).Issues thr (svcForm (serviceS 0x8000 2) 16 8 true 2 thr) :=
  ⟨issues_of_check (by decide +kernel), issues_of_check (by decide +kernel)⟩
theorem witness_service_writes : (((serviceS 0x8000 0).committed thr (svcForm (serviceS 0x8000 0) 16 8 true 2 thr)).writeVa 0 0 40 (0x18000 + 2048) 112 0).2
    = none ∧ ((serviceS 0x8000 0).writeVa 0 0 2 0x18000 8 1).2 = none := by decide +kernel

-- cairns

/-- A probe with a cairn at 32, its object's bytes given. -/
def cairnTm (v : Nat) : Team := { team with tags := [1], scratch := memWrite [] 32 32 v }
def cairnS (v : Nat) (l : List (Nat × Nat)) : State := bothS (setRegs l) fun _ => cairnTm v
theorem ready_of_check {s : State} {t : Thread} {tm : Team} {off sc : Nat} (h : (decide (s.team? t.id.teamId = some tm) && decide (off % 32 = 0) &&
    decide (off + 31 < tm.scr * 4096) && ! tm.poison.contains (off / 32) && ! s.detMode t.id.gridId) = true) : s.CairnReady t tm off sc := by
  simp only [Bool.and_eq_true, decide_eq_true_eq, Bool.not_eq_true'] at h
  exact ⟨h.1.1.1.1, h.1.1.1.2, h.1.1.2, h.1.2, fun hx => by rw [h.2] at hx; cases hx⟩

theorem witness_cairn_ready : (cairnS 0 [(8, 32), (16, 1)]).CairnReady (regT [(8, 32), (16, 1)]) (cairnTm 0) 32 5 ∧
    (probe 0).CairnReady thr team (4096 - 32) 2 := ⟨ready_of_check (by decide +kernel), ready_of_check (by decide +kernel)⟩
theorem witness_cairn : (cairnS 0 [(8, 32), (16, 1)]).Issues (regT [(8, 32), (16, 1)]) (cairnForm 16 8 true 2) ∧
    (cairnS 0 [(8, 32), (16, 1)]).Issues (regT [(8, 32), (16, 1)]) (cairnForm 16 8 true 0) ∧
    (cairnS 0 [(8, 32), (16, 1)]).Issues (regT [(8, 32), (16, 1)]) (cairnForm 16 8 true 1) ∧
    (cairnS 0 [(8, 32), (16, 1)]).Issues (regT [(8, 32), (16, 1)])
      { cairnForm 16 8 true 1 with wait := ! (cairnS 0 [(8, 32), (16, 1)]).releasable (regT [(8, 32), (16, 1)]) } ∧
    (cairnS 0 [(8, 32), (16, 1)]).Issues (regT [(8, 32), (16, 1)]) { acFormA 8 true with dests := [16] } :=
  ⟨issues_of_check (by decide +kernel), issues_of_check (by decide +kernel), issues_of_check (by decide +kernel),
   issues_of_check (by decide +kernel), issues_of_check (by decide +kernel)⟩
theorem witness_cairn_object : srcOf (regT [(8, 32), (16, 1)]) (cairnForm 16 8 true 2) 0 = 32 ∧ srcOf (regT [(8, 32), (16, 1)]) (cairnForm 16 8 true 2) 1 ≠ 0 ∧
    (cairnTm 0).taggedAt 32 = true ∧ ((cairnTm 0).cairn 32).waiters = 0 ∧ ((cairnTm 0).cairn 32).icnt = 0 ∧ ((cairnTm 0).cairn 32).armed = false ∧
    ((cairnTm 0).cairn 32).auto = false ∧ phaseReached ((cairnTm 0).cairn 32).phase 0 = true ∧ phaseReached ((cairnTm 0).cairn 32).phase 1 = false ∧
    (regT [(8, 32), (16, 1)]).cairn = none := by decide +kernel
theorem witness_cairn_waiting : (probeT 0 fun t => t.atCairn 32 1).thread? thr.id = some (thr.atCairn 32 1) ∧ (thr.atCairn 32 1).cairn = some (32, 1) ∧
    issuesB (probeT 0 fun t => t.atCairn 32 1) (thr.atCairn 32 1) (cairnForm 16 8 true 1) = true := by decide +kernel

-- cycles, draws and special registers

theorem witness_cycles : (probe 0).Issues thr { dests := [16, 17], hints := schedOnly } ∧ (probe 0).Issues thr (drawForm 16 8 true ⟨20, 2⟩ false) ∧
    (probe 0).Issues thr (drawForm 16 8 true ⟨20, 1⟩ false) ∧ (probe 0).Issues thr (drawForm 16 8 true ⟨20, 4⟩ false) :=
  ⟨issues_of_check (by decide +kernel), issues_of_check (by decide +kernel), issues_of_check (by decide +kernel), issues_of_check (by decide +kernel)⟩
theorem witness_special : ([0, 1, 2, 0x10, 0x100, 0x105].all fun n => issuesB (probe 0) thr (movsrForm (probe 0) thr 16 n 1) &&
    issuesB (regS [(8, 4)]) (regT [(8, 4)]) (movrsForm (regS [(8, 4)]) (regT [(8, 4)]) 8 true n)) = true ∧
    issuesB (probe 0) thr (movsrForm (probe 0) thr 16 0x28 2) = true ∧ issuesB (probe 0) thr (movsrForm (probe 0) thr 16 0x11 1) = true ∧
    issuesB (probe 0) thr (movsrForm (probe 0) thr 16 0x29 1) = true ∧ srcOf (regT [(8, 4)]) (movrsForm (regS [(8, 4)]) (regT [(8, 4)]) 8 true 0x10) 0 % 8 < 5 ∧
    (withWeights (probe 0)).hasWeights = true ∧ ({ probe 0 with caps := [0, 0, 0, 0] } : State).hasWeights = false := by decide +kernel
theorem witness_special_code : (regS [(8, 7)]).Issues (regT [(8, 7)]) (movrsForm (regS [(8, 7)]) (regT [(8, 7)]) 8 true 0x10) ∧
    5 ≤ srcOf (regT [(8, 7)]) (movrsForm (regS [(8, 7)]) (regT [(8, 7)]) 8 true 0x10) 0 % 8 := meets (by decide +kernel)
theorem witness_eret : (probe 0).Issues thr (eretForm (probe 0) thr 16 8 true) ∧ (probe 0).Issues thr (haltForm (probe 0) thr 16 8 true) :=
  ⟨issues_of_check (by decide +kernel), issues_of_check (by decide +kernel)⟩
theorem witness_halt : ((probe 0).ctx? 0).any (fun c => c.live && ! (probe 0).tdiBound c) = true ∧ (probe 0).kernelCtx 0 = true ∧ (probe 0).ctx? 9 = none ∧
    ({ probe 0 with ctxs := { emptyCtx 1 with live := true } :: (probe 0).ctxs } : State).kernelCtx 1 = false ∧
    (({ probe 0 with ctxs := { emptyCtx 1 with live := true } :: (probe 0).ctxs } : State).ctx? 1).any (fun c => c.live && ! (probe 0).tdiBound c) = true := by
  decide +kernel

-- events

/-- The probe with the occurrence of an event chosen. -/
def pickS (l : List Nat) : State := { probe 0 with pick := l }
/-- An operation of the placed thread. -/
def opOf (id : Nat) (body : OpBody) (stage : Stage) : Op :=
  { id := id, thr := thr.id, role := 0, core := 0, part := 0, pos := 0, pc := 0x10000, word := 0, latch := [], opnd := [], issued := 0, due := none,
    dests := [], vals := [], flags := 0, en := 0, rc := 0, late := false, holds := false, image := none, body := body, stage := stage, cls := none }
/-- The state with one operation, which is the occurrence. -/
def opS (body : OpBody) (stage : Stage) (more : List Nat) : State := { pickS (7 :: more) with ops := [opOf 7 body stage], nextId := 8 }
def accOf (kind : AccKind) (sp : Space) (va : Nat) (sc : Scope) : Access := { plainAccess kind sp va 4 sc with pa := some va }
/-- The placed team with engine entries. -/
def entryOf (kind due : Nat) (started : Bool) : EngineEntry :=
  { id := 7, kind := kind, word := 0, tile := 0, tile2 := 0, a := 0, b := 0, rc := 0, en := 0, thr := thr.id, pos := 0, site := 0, members := [(thr.id, 3)],
    claims := [], started := started, due := due }
def engineS (e : EngineEntry) : State := { (pickS [0, 0, 0, 7]).updTeam placedTeam fun u => { u with engine := [e] } with nextId := 8 }

theorem witness_reform : (pickS [0, 0]).now ((pickS [0, 0]).arg 0) % 4 = 0 ∧ thr ∈ (pickS [0, 0]).partThreads 0 0 := by decide +kernel
theorem witness_promotion : ({ pickS [0, 0, 0, 0] with cycles := [256, 0] } : State).thread? (({ pickS [0, 0, 0, 0] with cycles := [256, 0] } : State).argThread 0)
      = some thr ∧ thr.st = .ready ∧ max thr.readyAt thr.holdUntil + 256 ≤ ({ pickS [0, 0, 0, 0] with cycles := [256, 0] } : State).now 0 := by decide +kernel
theorem witness_result_write : (opS .result .issued []).op? 7 = some (opOf 7 .result .issued) ∧ (opS .result .issued []).arg 0 = 7 ∧
    (opS .result .issued []).isDue (opOf 7 .result .issued) = true ∧
    (opS (.mem (accOf (.load false) .g 0x10000 .cl)) .bound []).isDue (opOf 7 (.mem (accOf (.load false) .g 0x10000 .cl)) .bound) = true ∧
    (opS .release .issued []).op? ((opS .release .issued []).arg 0) = some (opOf 7 .release .issued) := by
  decide +kernel
theorem witness_matrix_events : ((engineS (entryOf 0 0 false)).team? ((engineS (entryOf 0 0 false)).argTeam 0)).any (fun u =>
      (u.engine.find? fun e => decide (e.kind = 0) && ! e.started).isSome) = true ∧
    ((engineS (entryOf 0 0 true)).team? ((engineS (entryOf 0 0 true)).argTeam 0)).any (fun u =>
      (u.engine.find? fun e => decide (e.kind = 0) && e.started).isSome) = true ∧
    (entryOf 0 0 true).due ≤ (engineS (entryOf 0 0 true)).now 0 ∧ ([1, 3].all fun k =>
      ((engineS (entryOf k 0 true)).team? ((engineS (entryOf k 0 true)).argTeam 0)).any (fun u =>
        (u.engine.find? fun e => decide (e.id = (engineS (entryOf k 0 true)).arg 3) && decide (e.kind ≠ 0)).isSome)) = true ∧
    (engineS (entryOf 3 0 true)).entryHeld (entryOf 3 0 true) = false := by decide +kernel


theorem witness_store_performed : (accOf .store .s 0 .tm).kind.stores = true ∧ (accOf .store .g 0x10000 .sy).scope.wide = true ∧
    (accOf .store .g 0x10000 .cl).scope.wide = false ∧ (opS (.mem (accOf .store .g 0x10000 .cl)) .core [0]).op? 7 =
      some (opOf 7 (.mem (accOf .store .g 0x10000 .cl)) .core) := by decide +kernel
/-- A load that misses: the sector of the placed code. -/
def missOp : Op := opOf 7 (.mem (accOf (.load false) .g 0x10000 .cl)) .ready
def missS : State := { pickS [0, 0x400, 0] with ops := [missOp], nextId := 8 }
/-- The same for a load that is not to be allocated, and an L1 that has the sector in a state of its own. -/
def nol1S : State := { missS with ops := [{ missOp with body := .mem { accOf (.load false) .g 0x10000 .cl with cp := 3 } }] }
theorem witness_fill : (missS.arg 0, missS.arg 1) ∈ (missS.takeMisses (missS.arg 0)).misses ∧
    (0, 0x401) ∉ (missS.takeMisses 0).misses ∧
    (placing ((missS.takeMisses 0).wanting (missS.arg 0) (missS.arg 1))).map (·.1) = [missOp] ∧
    ((missS.takeMisses 0).journalReads [thr.id.gridId] (missS.arg 1 * 64)).2 = true ∧
    (nol1S.arg 0, nol1S.arg 1) ∈ (nol1S.takeMisses 0).misses ∧ (nol1S.takeMisses 0).wanting 0 0x400 ≠ [] ∧
    placing ((nol1S.takeMisses 0).wanting 0 0x400) = [] ∧
    ((((nol1S.takeMisses 0).wanting 0 0x400).foldl (fun s p => s.bindNol1 p.1 p.2) (nol1S.takeMisses 0)).op? 7).map (·.stage) = some .bound ∧
    ({ missS with ops := [], misses := [(0, 0x400)] } : State).wanting 0 0x400 = [] := by decide +kernel
theorem witness_walk : ({ missS with pick := [7] } : State).op? (({ missS with pick := [7] } : State).arg 0) = some missOp := by decide +kernel
theorem witness_host : (pickS [1, 0x10000, 64, 5]).arg 0 ≠ 0 ∧ (0x10000 : Nat) / 64 = (0x10000 + 64 - 1) / 64 ∧ (pickS [1, 0x10000, 64, 5]).memExists 0x10000 = true := by
  decide +kernel
theorem witness_error : ((pickS [2, 0, 0, 0, 0, 0]).team? ((pickS [2, 0, 0, 0, 0, 0]).argTeam 3)).any (fun u => decide (127 < u.scr * 128)) = true ∧
    (pickS [0, 0, 9]).arg 0 = 0 ∧ (pickS [1, 0, 9]).arg 0 = 1 ∧ (pickS [3, 0, 9]).arg 0 = 3 := by decide +kernel

/-- A copy from global memory to the scratchpad under way, with requests. -/
def copyOf (kind : Nat) (started : Bool) (todo : List Chunk) (reqs : List CopyReq) : Copy :=
  { copyIn (regS (descRegs 0x10000 0x40 32 2 1)) (regT (descRegs 0x10000 0x40 32 2 1)) kind 0 1 with
    id := 7, group := 7, started := started, todo := todo, reqs := reqs }
def copyS (c : Copy) (more : List Nat) : State := { pickS (7 :: more) with copies := [c], nextId := 9 }
def reqOf (st : ReqStage) : CopyReq := ⟨8, ⟨0, 0, 32⟩, 0x10000, 0x40, 0, 0, st⟩
theorem witness_copy_request : (copyS (copyOf 0 false [⟨0, 0, 32⟩] []) []).copy? ((copyS (copyOf 0 false [⟨0, 0, 32⟩] []) []).arg 0)
      = some (copyOf 0 false [⟨0, 0, 32⟩] []) ∧
    (copyS (copyOf 0 false [⟨0, 0, 32⟩] []) []).olderComplete (copyOf 0 false [⟨0, 0, 32⟩] []).thr (copyOf 0 false [⟨0, 0, 32⟩] []).pos = true ∧
    ((copyOf 0 true [] [reqOf .walk]).reqs.find? fun r => decide (r.st = .walk)) = some (reqOf .walk) ∧
    (copyOf 1 true [⟨1, 0, 32⟩] []).posOf ⟨1, 0, 32⟩ / 4096 = (copyOf 1 true [⟨1, 0, 32⟩] []).piece := by decide +kernel
theorem witness_copy_delivery : ((copyS (copyOf 0 true [] [reqOf .ready]) [8]).copyRead (copyOf 0 true [] [reqOf .ready]) (reqOf .ready)).2.isSome = true ∧
    ((copyOf 0 true [] [reqOf .got]).reqs.find? fun r => decide (r.id = (copyS (copyOf 0 true [] [reqOf .got]) [8]).arg 1)) = some (reqOf .got) ∧
    (copyOf 0 true [] [reqOf .got]).dstS = .s ∧ (copyS (copyOf 0 true [] [reqOf .got]) [8]).copyStuck (copyOf 0 true [] [reqOf .got]) = false ∧
    (copyOf 0 true [] [reqOf .got]).recvs.all (fun r => (copyS (copyOf 0 true [] [reqOf .got]) [8]).cairnOpen (copyOf 0 true [] [reqOf .got]) r.team)
      = true := by decide +kernel
/-- The copy to another destination, of a kind. -/
def copyTo (kind : Nat) (sp : Space) : Copy := { copyOf kind true [] [reqOf .got] with dstS := sp, scope := some .cl }
theorem witness_copy_writes : (copyTo 2 .s).gscope.wide = false ∧ (copyS (copyTo 0 .w) [8]).wordFull (copyTo 0 .w) ((copyTo 0 .w).dstAddr ⟨0, 0, 32⟩ / 64) = true ∧
    (copyS (copyTo 2 .g) [8]).coreOverlap 0 0x40 32 = false ∧ (copyTo 2 .g).gscope.wide = false ∧
    ((copyS (copyTo 2 .g) [8]).sumRead (copyTo 2 .g) (reqOf .got)).2 = true ∧
    (copyS (copyTo 2 .g) [8]).pathBusy (copyTo 2 .g).op ((copyTo 2 .g).dstAddr ⟨0, 0, 32⟩) 0x40 = false := by decide +kernel
theorem witness_queue_arrival : ({ opS (.push 7 0 false) .issued [] with pick := [0, 0, 0, 7] } : State).op?
    (({ opS (.push 7 0 false) .issued [] with pick := [0, 0, 0, 7] } : State).arg 3) = some (opOf 7 (.push 7 0 false) .issued) := by decide +kernel
/-- A slice with a read whose request may be read. -/
def readSlice : Slice → Slice := fun x => { x with reads := [⟨7, 7, 0, false, 0, 0x10000, 0, [], [⟨8, 0, 0, 64, 0x10000, 0x10000, .ready⟩]⟩] }
def readS : State := { sliceS readSlice id with pick := [0, 0, 0, 8] }
theorem witness_slice_arrival : readS.op? (readS.arg 3) = none ∧ (readS.team? (readS.argTeam 0)).any (fun u =>
    (u.sliceReq (readS.arg 3)).any fun r => decide (r.2.st = .ready)) = true := by decide +kernel
theorem witness_refresh : (pickS [1]).arg 0 < (pickS [1]).refresh.length ∧ (pickS [1]).arg 0 < (pickS [1]).slotAt.length ∧
    nth (pickS [1]).slotAt 1 (0, 0, false) = (0, 0, false) ∧
    nth ({ pickS [1] with slotAt := [(0, 0, false), (5, 7, true)] } : State).slotAt 1 (0, 0, false) = (5, 7, true) ∧
    nth (pickS [1]).ncycs 1 0 < 7 + 3600 ∧ 7 + 3600 ≤ nth ({ pickS [1] with ncycs := [0, 3607] } : State).ncycs 1 0 := by decide +kernel

/-- A submission of the placed thread. -/
def jobIn (cls : Nat) (f : IslandJob → IslandJob) : IslandJob :=
  f { id := 7, cls := cls, isl := 0, thr := thr.id, core := 0, ctl := 0x17, cf := 0, recd := 0, size := 64, queue := 7, slots := [0], trace := false,
      frame := 0, frameWords := 0, buffered := true, got := [], dead := [], fault := none, parked := none, commits := [], prim := 0, cull := 0,
      passes := 0, queries := [], offered := false, left := [], result := none }
def jobS (j : IslandJob) (waiting : List Nat) : State :=
  { pickS [7] with jobs := [j], islands := [⟨j.cls, 0, some 0, none, 0, 0, waiting⟩], nextId := 8 }
theorem witness_boundary : ((({ pickS [2, 0] with islands := [⟨2, 0, some 1, none, 0, 0, [0]⟩] } : State).island 2 0).successor = some 0) ∧
    ({ pickS [2, 0] with islands := [⟨2, 0, some 1, none, 0, 0, [0]⟩] } : State).islandBusy 2 0 = false ∧ (1 : Nat) ∉ [0] := by decide +kernel
theorem witness_accept : (jobS (jobIn 2 id) []).jobs.find? (fun x => decide (x.id = (jobS (jobIn 2 id) []).arg 0)) = some (jobIn 2 id) ∧
    (jobS (jobIn 2 id) []).op? 7 = none ∧ ((jobS (jobIn 2 id) []).jobsBefore (jobIn 2 id)).all IslandJob.accepted = true ∧
    (jobIn 2 fun j => { j with buffered := false }).buffered = false ∧
    (jobIn 2 fun j => { j with fault := some (0x10000, 4, false) }).fault ≠ none := by decide +kernel
theorem witness_island_result : (jobIn 2 fun j => { j with result := some (5, 32, 0) }).result = some (5, 32, 0) ∧
    (jobIn 1 fun j => { j with result := some (5, 32, 0), trace := true }).trace = true ∧
    (jobS (jobIn 0 fun j => { j with result := some (5, 32, 0), recd := 2 }) []).uncommitted (jobIn 0 fun j => { j with result := some (5, 32, 0), recd := 2 })
      = false ∧
    ((jobS (jobIn 0 id) []).commitAll thr.id.gridId 0 (some 0) false []).2.2.2.isNone = true := by
  decide +kernel


/-- A Ridgeline job of context 0. -/
def ridgeIn (f : RidgeJob → RidgeJob) : RidgeJob := f (newJob 7 0 0x10000 0 0x10000 [] [])
def ridgeS (r : Ridge) : State := { pickS [0] with tlb2 := [⟨0, placedPage⟩], ridges := [r, ⟨none, [], 0, false, [0, 0, 0, 0]⟩], nextId := 8 }
def handIn : HandOff := ⟨0, 0, 0, 0, 0, 0, true⟩
theorem witness_handoff : ((ridgeS ⟨some (ridgeIn fun j => { j with computed := true, handoffs := [handIn] }), [], 0, false, [0, 0, 0, 0]⟩).ridge 0).cur
      = some (ridgeIn fun j => { j with computed := true, handoffs := [handIn] }) ∧
    ((ridgeS ⟨none, [], 0, false, [0, 0, 0, 0]⟩).island 0 (4 * 0 + handIn.isl)).takes 0 ((ridgeS ⟨none, [], 0, false, [0, 0, 0, 0]⟩).boundImage 0 0)
      ((ridgeS ⟨none, [], 0, false, [0, 0, 0, 0]⟩).cycleOf 0) = false ∧
    (({ ridgeS ⟨none, [], 0, false, [0, 0, 0, 0]⟩ with islands := [⟨0, 0, some 0, none, 0, 0, []⟩] } : State).island 0 (4 * 0 + handIn.isl)).takes 0
      ((ridgeS ⟨none, [], 0, false, [0, 0, 0, 0]⟩).boundImage 0 0) 0 = true ∧
    (ridgeIn id).commits = [] ∧ (ridgeIn id).taken = none ∧
    ((ridgeS ⟨none, [], 0, false, [0, 0, 0, 0]⟩).commitAll ⟨0, 2 ^ 32⟩ 0 none false [(0x10000, 0)]).2.1 = [] ∧
    ((ridgeS ⟨none, [], 0, false, [0, 0, 0, 0]⟩).commitAll ⟨0, 2 ^ 32⟩ 0 none false [(0x10000, 0)]).2.2.2.isNone = true := by decide +kernel
/-- The engine asleep, with a ring of the context at 0x10000 that holds a posted entry. -/
def ringedS : State :=
  { (ridgeS ⟨none, [], 0, false, [0, 0, 0, 0]⟩).updCtx 0 fun c => { c with rljb := [BitVec.ofNat 64 0x10001, 0], rljc := [3, 0] } with
    home := memWrite [] 0x10080 8 1 }
theorem witness_ridge_ring : (ringedS.ridge 0).awake = false ∧ (ringedS.ridgeOrder 0).filter (ringedS.ringPosted 0) ≠ [] := by decide +kernel
theorem witness_ridge_job : (ridgeIn fun j => { j with computed := true }).computed = true ∧ (ridgeIn id).ending = false ∧
    ((ridgeS ⟨none, [ridgeIn id], 0, true, [0, 0, 0, 0]⟩).ridge 0).cur = none ∧
    ((ridgeS ⟨none, [ridgeIn id], 0, true, [0, 0, 0, 0]⟩).ridge 0).suspended.find? (fun j => j.parked.isNone) = some (ridgeIn id) ∧
    ((ridgeS ⟨none, [], 0, true, [0, 0, 0, 0]⟩).ridge 0).awake = true ∧
    (ridgeIn fun j => { j with computed := true, ending := true }).writes = [] := by decide +kernel

/-- The state with a launch queue posted, of context 0. -/
def queuedS : State := { pickS [16] with lqs := (List.replicate 32 ⟨0, 0, 0, false, false, false⟩ : List LaunchQ).set 16 ⟨0x10000, 0x43, 0, true, false, false⟩ }
theorem witness_wake : queuedS.queueLocked (16 % 32) = false ∧
    ({ queuedS with lqs := queuedS.lqs.set 16 ⟨0x10000, 0x43, 0, true, false, false⟩, tdis := [⟨1, 2, [], []⟩] } : State).queueLocked 17 = false ∧
    (({ queuedS with tdis := [⟨1, 2, [], []⟩] } : State).updCtx 0 fun c => { c with own := 1, tee := true }).queueLocked 16 = true := by decide +kernel
theorem witness_scan : queuedS.arg 0 < 32 ∧ queuedS.wantsScan 16 = true ∧ (∀ p < 32, p / 16 = 1 → queuedS.wantsScan p = true →
    bits (queuedS.lq p).lqc.toNat 4 2 < bits (queuedS.lq 16).lqc.toNat 4 2 ∨ (bits (queuedS.lq p).lqc.toNat 4 2 = bits (queuedS.lq 16).lqc.toNat 4 2 ∧
      (16 % 16 + 15 - nth queuedS.lqLast 1 15) % 16 ≤ (p % 16 + 15 - nth queuedS.lqLast 1 15) % 16)) := by decide +kernel
/-- The state with a grid that waits: for its record's release, or for its dependence. -/
def waitingGridS (elig : Bool) (kind depa : Nat) : State :=
  ({ pickS [0, 0] with tlb2 := [⟨0, placedPage⟩], homePoison := [0x10040 / 64] } : State).updGrid ⟨0, 0⟩ fun g =>
    { g with elig := elig, ready := false, src := some (thr.id, 0, 0), launch := { g.launch with dkind := kind, depa := depa } }
theorem witness_release : ((waitingGridS false 0 0).grid? ⟨0, 0⟩).any (fun g => ! g.elig && decide (g.src = some (thr.id, 0, 0))) = true ∧
    (waitingGridS false 0 0).olderComplete thr.id 0 = true ∧ (waitingGridS false 0 0).observedDone thr.id = true := by decide +kernel
theorem witness_dependence : ((waitingGridS true 0 0).grid? ⟨0, 0⟩).any (fun g => g.elig && ! g.ready && decide (g.launch.dkind = 0)) = true ∧
    ((waitingGridS true 2 0x10080).grid? ⟨0, 0⟩).any (fun g => g.elig && ! g.ready) = true ∧
    (waitingGridS true 2 0x10080).read1k 0 0 0x10080 4 = .ok 0 false ∧ (waitingGridS true 2 0x10040).read1k 0 0 0x10040 4 = .ok 0 true ∧
    (waitingGridS true 2 0x900000).read1k 0 0 0x900000 4 = .fault clsUnmapped 0x900000 := by decide +kernel
/-- The probe out of kernel mode, with an occurrence chosen and the placed threads, team and context changed. -/
def userPickS (l : List Nat) (f : Thread → Thread) (g : Team → Team) (h : Ctx → Ctx) : State :=
  { ((bothS f g).updGrid ⟨0, 0⟩ fun x => { x with kernelMode := false }).updCtx 0 h with pick := l }
theorem witness_compactor : ((userPickS [0, 0, 0, 512] id id id).team? ((userPickS [0, 0, 0, 512] id id id).argTeam 0)).any (fun u => ({ userPickS [0, 0, 0, 512] id id id with compacting := [0] } : State).mayCompact u) = true ∧ (userPickS [0, 0, 0, 512] id id id).arg 3 ≤ 512 := by decide +kernel
def reorderS : State := userPickS [0, 0, 0, 0x10000, 64] (fun t => { t with st := .exited }) id id
theorem witness_batch : reorderS.stillRunning (reorderS.arg 0) (reorderS.argGrid 1) = false := by decide +kernel
/-- A state with a batch of a service ring whose slot is done. -/
def repliedS : State :=
  { serviceS 0x8000 1 with pick := [0, 0], svc := [⟨0, 0, 0x18800, 0, [⟨thr.id, 7, 16, 2⟩]⟩], home := memWrite (serviceS 0x8000 1).home 0x18800 8 1 }
theorem witness_reply : repliedS.read1k 0 0 0x18800 8 = .ok 1 false ∧ (repliedS.ctx? 0).any (fun c => ! ([3, 4, 7, 8] : List Nat).contains c.pstat) = true ∧
    (repliedS.svc.find? fun b => decide (b.die = repliedS.arg 0) && decide (b.j = repliedS.arg 1)) =
      some (⟨0, 0, 0x18800, 0, [⟨thr.id, 7, 16, 2⟩]⟩ : SvcBatch) := by decide +kernel
theorem witness_grid_over : (({ pickS [0, 0] with teams := [], threads := [] } : State).reapTeams.retryDone.grid? ⟨0, 0⟩).any (fun g =>
    ({ pickS [0, 0] with teams := [], threads := [] } : State).reapTeams.retryDone.gridOver g) = true := by decide +kernel

-- contexts and registers

/-- A posted record of the placed team. -/
def recordIn : FRec := { (probe 0).deviceRecord 0 clsSoft 0 0 0 with team := 0 }
def recordS : State := { pickS [0, 0, 0] with recs := [recordIn], cycles := [256, 0] }
theorem witness_entry : recordS.team? (recordS.argTeam 0) = some team ∧ team.entry = .closed ∧ recordIn ∈ recordS.recs ∧ recordIn.ctx = 0 ∧
    recordIn.grid = 0 ∧ recordIn.team = 0 ∧ team.lastIssue + 256 ≤ recordS.now 0 := by decide +kernel
theorem witness_preempt : ((pickS [0]).ctx? ((pickS [0]).arg 0)).any (fun c => c.live && decide (c.pstat = 0)) = true := by decide +kernel
theorem witness_freeze : ((userPickS [0, 0, 0] (fun t => { t with st := .blocked }) (fun u => { u with deadline := some 0 }) fun c => { c with preq := true, pstat := 1 }).team?
      ((userPickS [0, 0, 0] id id id).argTeam 0)).any (fun u => u.frozen.isNone && decide (u.deadline = some 0) &&
        (userPickS [0, 0, 0] id id fun c => { c with preq := true, pstat := 1 }).requested u) = true ∧
    (userPickS [0, 0, 0] (fun t => { t with st := .blocked }) id id).still ((userPickS [0, 0, 0] id id id).argTeam 0) = true := by decide +kernel
/-- A state whose context is asked to be saved: with no grid left, with one running, and with one frozen. -/
def savingS (frozen : Option Bool) (csas : Nat) : State :=
  userPickS [0] id (fun u => { u with frozen := frozen }) fun c => { c with preq := true, pstat := 1, csas := BitVec.ofNat 32 csas }
theorem witness_save : ((({ savingS none 0 with teams := [], threads := [] } : State).reapTeams.endGrids 0).savedGrids 0) = [] := by decide +kernel
theorem witness_save_waits : (((savingS none 0).reapTeams.endGrids 0).savedGrids 0) ≠ [] ∧ ((savingS none 0).reapTeams.endGrids 0).drained 0 = false ∧
    (((savingS (some false) 0).reapTeams.endGrids 0).savedGrids 0) ≠ [] ∧ ((savingS (some false) 0).reapTeams.endGrids 0).drained 0 = true := by decide +kernel
/-- A state to save with a grid whose team is still to be placed. -/
def unplacedS (l : List Nat) : State :=
  { (savingS none 0).updGrid ⟨0, 0⟩ fun g => { g with nextTeam := 0 } with teams := [], threads := [], pick := l }
theorem witness_save_size : ((unplacedS [0]).reapTeams.endGrids 0).drained 0 = true ∧ (((unplacedS [0]).reapTeams.endGrids 0).savedGrids 0) ≠ [] ∧
    ((((unplacedS [0]).reapTeams.endGrids 0).readyToSave 0).image (((unplacedS [0]).reapTeams.endGrids 0).readyToSave 0 |>.page 0) 3).length ≤ 1 * 4096 ∧
    0 * 4096 < ((((unplacedS [0]).reapTeams.endGrids 0).readyToSave 0).image (((unplacedS [0]).reapTeams.endGrids 0).readyToSave 0 |>.page 0) 3).length := by
  decide +kernel
/-- The state whose context has been saved at 1 MiB. -/
def savedS : State :=
  let s := (({ unplacedS [0] with grids := (unplacedS [0]).grids.map fun g => { g with raw := leBytes 256 launchRaw } } : State).reapTeams.endGrids 0).readyToSave 0
  (s.saveOut 0 0x100000 3 (s.image (s.page 0) 3)).updCtx 0 fun c => { c with csab := 0x100000 }
/-- What a restore reads there. -/
def parsed (s : State) (csab : Nat) : Except Nat (RawImage × Nat) :=
  ((Src8.mk s.home csab (memRead s.home (csab + 8) 8)).image 0
    ((s.grids.filter fun g => decide (g.id.ctx = 0) && ! g.saved).map fun g => g.id.grid)).run 0
theorem witness_restore : (match parsed savedS 0x100000 with
    | .ok (img, _) => img.grids.all fun g => g.teams.all (fun t => decide (t.flaw g.launch = none)) &&
        decide (g.misplaced (clustersOf (savedS.partitionCores (savedS.page 0).cxpm)) = none)
    | .error _ => false) = true := by decide +kernel
theorem witness_restore_nothing : (match parsed savedS 0 with
    | .ok _ => false
    | .error _ => true) = true ∧ (savedS.ctx? 0).any (fun c => c.live && decide (c.pstat = 3)) = true ∧
    ((savedS.updCtx 0 fun c => { c with cxpm := [1, 0, 0, 0] }).partitionCores [1, 0, 0, 0]) ≠ [] ∧ savedS.partitionCores [0, 0, 0, 0] = [] := by decide +kernel
theorem witness_thaw : ((userPickS [0] id id fun c => { c with pstat := 6 }).ctx? 0).any (fun c => decide (c.pstat = 6)) = true := by decide +kernel
/-- A state with a page that is not live, of a partition. -/
def pageS (busy : Bool) : State := { pickS [9, 1] with ctxs := { emptyCtx 9 with cxpm := [1, 0, 0, 0], busy := busy } :: (pickS []).ctxs }
theorem witness_create : (pageS false).page 9 = { emptyCtx 9 with cxpm := [1, 0, 0, 0] } ∧ (pageS false).arg 1 % 2 = 1 ∧
    (pageS false).tdiBound ((pageS false).page 9) = false ∧ (pageS false).partitionCores [1, 0, 0, 0] ≠ [] := by decide +kernel
theorem witness_destroy : ((pickS [0]).ctx? 0).any (fun c => c.live && ! c.busy && ! (pickS [0]).tdiBound c) = true ∧
    ((pageS true).ctx? 9).any (fun c => c.busy && ! c.live) = true := by decide +kernel

theorem witness_invalidation : ((userPickS [0] id id fun c => { c with invBusy := true }).ctx? 0).any (fun c => c.invBusy &&
    ! (userPickS [0] id id fun c => { c with invBusy := true }).usesOld c) = true := by decide +kernel
theorem witness_scunp : bitAt (pickS [3]).scunp.toNat 31 = false ∧ bitAt ({ pickS [3] with scunp := 0x80000003 } : State).scunp.toNat 31 = true := by
  decide +kernel
theorem witness_registers : (pickS [0]).stage ≠ 0 ∧ (pickS [0]).imgs ≠ 1 ∧ ({ pickS [0] with imgs := 1 } : State).imgs = 1 ∧ ((pickS [0, 12]).page 0).ringSz = 0 ∧
    (pickS [0, 12]).arg 1 % 16 ≤ 12 ∧ nth [5, 5] (bits ((pickS [0]).arg 0) 0 1) 0 ≠ nth (pickS [0]).ncycs (bits ((pickS [0]).arg 0) 0 1) 0 ∧
    (3 : Nat) ∈ (({ pickS [0] with tdis := [⟨1, 0, [], [3]⟩] } : State).tdi 1).gone ∧ ((pickS [0]).page 3).own ≠ 1 ∧ (pickS [1, 0, 4, 9]).arg 2 = 4 ∧ (pickS [1, 8, 8, 9]).arg 2 = 8 ∧ (pickS [1, 8, 8, 9]).arg 1 % 8 = 0 := by decide +kernel

-- packets and chains

/-- A header from the port of column 1 and row 0 to the port of column 0, with its payload flits, lane, kind and trim count (R391). -/
def headerIn (nf lane kind cnt : Nat) : Dword := BitVec.ofNat 64 (nf + lane * 2 ^ 4 + kind * 2 ^ 6 + 2 ^ 22 + cnt * 2 ^ 56)
/-- A packet of it, of one flit, that has come through some places. -/
def packetIn (h : Dword) (inPort unit : Nat) (trail : List NetPlace) (flits : List Nat) : Packet :=
  ⟨7, h, flits.map fun _ => 9, .none, 0, 1, inPort, unit, trail, flits⟩
/-- The place of its interface, and of the link from the other die. -/
def fromUnit : NetPlace := ⟨0, 1, 4, 2, 8⟩
def fromPeer : NetPlace := ⟨1, 39, 0, 0, 1⟩
def packetS (l : List Nat) (p : Packet) : State := { pickS l with packets := [p], nextId := 8 }
/-- The packet that a unit sends. -/
def sendS (h : Dword) : State := { pickS [0, h.toNat, 5, 0, 0, 0, 9] with nextId := 8 }

theorem witness_packet : ([headerIn 1 0 0 0, headerIn 1 0 4 0 ||| 0x400].all fun h =>
    (sendS h).maySend (BitVec.ofNat 64 ((sendS h).arg 1)) ((sendS h).arg 2) && (sendS h).roomAt fromUnit 0 h && ((sendS h).useHead fromUnit).isSome &&
    decide ((enteringPacket 8 h [9] .none).trail = [fromUnit]) && ((sendS h).contend 0 1 (entryPort (hdrSrc h))).isSome && keepsPayload h) = true ∧
    hdrOs (headerIn 1 0 4 0 ||| 0x400) = true := by decide +kernel
/-- A packet whose header stands at the router of its source. -/
def movingIn : Packet := packetIn (headerIn 1 0 0 0) 4 0 [fromUnit] [0]
theorem witness_packet_hop : (packetS [1, 7] movingIn).packet? 7 = some movingIn ∧ movingIn.unit < 2 ∧ (packetS [1, 7] movingIn).hopRoom movingIn = true ∧
    (packetS [1, 7] movingIn).outranked movingIn = false ∧ ((packetS [1, 7] movingIn).useHead movingIn.place).any (fun s1 =>
      (if movingIn.hop.unit = 0 then s1.contend movingIn.hop.die movingIn.hop.site movingIn.hop.entry else some s1).isSome) = true ∧
    2 ≤ (packetIn (headerIn 0 2 5 0) 3 2 [fromUnit] []).unit := by decide +kernel
/-- What waits in an interface: an answer, and a new packet of a stream. -/
def waitingOut (fresh : Bool) : Outgoing := ⟨if fresh then headerIn 1 0 4 0 ||| 0x400 else headerIn 0 2 5 0, if fresh then [9] else [], .none, fresh, none⟩
def outS (fresh : Bool) : State := { pickS [2, 0] with outbox := [waitingOut fresh], nextId := 8 }
theorem witness_outbox : (outS false).outbox[(outS false).arg 1]? = some (waitingOut false) ∧
    (((outS false).withOutbox []).inject (waitingOut false).header [] .none).isSome = true ∧
    (outS true).mayStart (waitingOut true).header none = true ∧ hdrOs (waitingOut true).header = true ∧
    (withSeq (waitingOut true).header 0) = (waitingOut true).header ∧
    ((((outS true).withOutbox []).startSend (waitingOut true).header [9] .none none).inject (waitingOut true).header [9] .none).isSome = true := by
  decide +kernel
theorem witness_flit : movingIn.flits[0]? = some 0 ∧ movingIn.trail[0]? = some fromUnit ∧ movingIn.ready 0 0 = true ∧
    ((packetS [3, 7, 0] movingIn).wire fromUnit).flit ≠ some (nth (packetS [3, 7, 0] movingIn).ncycs 0 0) ∧
    (packetS [3, 7, 0] movingIn).packets = [movingIn] := by decide +kernel
/-- Packets at the interface of their destination: trimmed, whole, a re-request and a delivered header. -/
def landedIn (h : Dword) : Packet := packetIn h 3 2 [fromUnit] ((List.range (hdrNf h)).map fun _ => 1)
theorem witness_settle : hdrTr (headerIn 1 2 0 0 ||| 8) = true ∧ hdrTr (landedIn (headerIn 1 0 0 0)).header = false ∧
    (packetS [] (landedIn (headerIn 1 0 0 0))).orphan (landedIn (headerIn 1 0 0 0)) = false ∧ hdrKind (headerIn 1 0 0 0) < 5 ∧
    (landedIn (headerIn 1 0 0 0)).whole = true ∧ (packetS [] (landedIn (headerIn 1 0 0 0))).unperformed (landedIn (headerIn 1 0 0 0)) = false := by
  decide +kernel
/-- R401: of two headers of one n-cycle the one of the earlier port is decided first, and the next contested n-cycle begins after it. -/
theorem test_router_rotation : portPlace 4 0 = 0 ∧ portPlace 4 1 = 1 ∧ portPlace 0 0 = 4 ∧
    (((pickS []).contend 0 0 2).bind fun s => s.contend 0 0 1) = none ∧
    ((((pickS []).contend 0 0 1).bind fun s => s.contend 0 0 2).map fun s => s.routers.map fun x => (x.first, x.latest, x.contested)) =
      some [(1, 2, true)] := by decide +kernel
theorem witness_window : ({ pickS [0] with rereqs := [⟨headerIn 1 0 0 1, 1, 0, false⟩] } : State).rereqs[0]? = some ⟨headerIn 1 0 0 1, 1, 0, false⟩ ∧
    0 ≤ nth (pickS [0]).ncycs (portDie (hdrDst (headerIn 1 0 0 1))) 0 := by decide +kernel
/-- What a source retains for the transaction of an answer from site 1's port to site 0's. -/
def retainedIn : Retained := ⟨BitVec.ofNat 64 (1 + 2 ^ 12), [9], .none, some 5⟩
theorem witness_landed : ({ packetS [7] (landedIn (headerIn 0 2 6 3)) with retained := [retainedIn] } : State).landed? 7 6 =
      some (landedIn (headerIn 0 2 6 3)) ∧ retainedIn.answers (headerIn 0 2 6 3) = true ∧
    (packetS [7] (landedIn (headerIn 0 2 5 0))).landed? 7 5 = some (landedIn (headerIn 0 2 5 0)) ∧ hdrCnt (headerIn 0 2 5 255) = 255 ∧
    hdrCnt (headerIn 0 2 5 0) ≠ 255 := by decide +kernel
/-- R393: a re-request has its retained payload sent again, with the count it was asked with. -/
theorem test_resend : (match exec .reRequest { packetS [7] (landedIn (headerIn 0 2 6 3)) with retained := [retainedIn] } with
    | .next s => s.outbox.map fun x => (hdrNf x.header, hdrCnt x.header, x.payload, x.fresh)
    | _ => []) = [(1, 3, [9], false)] := by decide +kernel
theorem witness_crc : (packetIn (headerIn 1 0 0 0) 6 0 [fromUnit, fromPeer] [0]).viaModule 1 = true ∧
    headerIn 1 0 0 0 ∈ ({ packetS [7, 0] movingIn with linkReplays := [⟨1, 39, [headerIn 1 0 0 0]⟩] } : State).replayed fromPeer ∧
    (packetIn (headerIn 1 0 0 0) 6 0 [fromUnit, fromPeer] [2]).flits[0]? = some (1 + 1) ∧ trimmable (headerIn 1 0 0 0) = true ∧
    trimmable (headerIn 1 1 0 0) = false := by decide +kernel

/-- A TCAST under way to its own core: its walk, buffers taken, grants arrived, bytes delivered and sent. -/
def castOf (walk : Bool) (taken : Nat) (grants : List Nat) (pos sent : Nat) (slot : Option Nat) : Copy :=
  { copyOf 1 true [] [reqOf .got, { reqOf .got with id := 9, chunk := ⟨1, 0, 32⟩ }] with
    recvs := [⟨placedTeam, 0, pos, sent⟩], walk := walk, taken := taken, grants := grants, slotAt := slot }
/-- The state with that copy, and a packet of its chain at a port. -/
def castS (c : Copy) (x : Outgoing) : State :=
  { copyS c [0] with packets := [⟨9, x.header, x.payload, x.owner, 0, 0, 4, 2, [fromUnit], x.payload.map fun _ => 1⟩] }
theorem witness_chain : (castOf false 0 [] 0 0 none).kind = 1 ∧ (castOf false 0 [] 0 0 none).started = true ∧
    4096 * (castOf false 0 [] 0 0 none).piece < (castOf false 0 [] 0 0 none).total ∧
    (castOf false 0 [] 0 0 none).recvs.all (fun r => ! (copyS (castOf false 0 [] 0 0 none) []).unseated r) = true ∧
    ((castOf false 0 [] 0 0 none).walks ((copyS (castOf false 0 [] 0 0 none) []).seatedRecvs (castOf false 0 [] 0 0 none))).chain ≠ [] ∧
    (castOf true 0 [] 0 0 (some 0)).taken < (castOf true 0 [] 0 0 (some 0)).chain.length ∧
    (copyS (castOf true 0 [] 0 0 (some 0)) []).buffersUsed 0 < 4 ∧
    ((castS (castOf true 0 [] 0 0 none) ((castOf true 0 [] 0 0 none).chainPacket 7 (castOf true 0 [] 0 0 none).enginePort (corePort 0) 0
      (castOf true 0 [] 0 0 none).reservation)).chainAt (castOf true 0 [] 0 0 none) 7 (corePort 0)).isSome = true ∧
    4 ≤ ({ copyS (castOf true 0 [] 0 0 none) [] with copies := castOf true 0 [] 0 0 none :: List.replicate 4 { castOf true 1 [] 0 0 none with id := 8 } } :
      State).buffersUsed 0 := by decide +kernel
theorem witness_chain_data : ((castS (castOf true 1 [] 0 0 none) ((castOf true 1 [] 0 0 none).chainPacket 9 (corePort 0)
      (castOf true 1 [] 0 0 none).enginePort 0 [])).chainAt (castOf true 1 [] 0 0 none) 9 ((castOf true 1 [] 0 0 none).portBefore 0)).any
        (fun p => decide (hdrSrc p.header = corePort ((castOf true 1 [] 0 0 none).member 0).core)) = true ∧
    (castOf true 1 [0] 0 0 none).chain[(copyS (castOf true 1 [0] 0 0 none) [0]).arg 1]? = some 0 ∧
    (copyS (castOf true 1 [0] 0 0 none) [0]).chainAt (castOf true 1 [0] 0 0 none) 8 (corePort 0) = none ∧
    ((castS (castOf true 1 [0] 0 64 none) ((castOf true 1 [0] 0 64 none).chainPacket 8 0 (corePort 0) 0 [9])).chainAt (castOf true 1 [0] 0 64 none) 8
      (corePort 0)).any (fun x => decide (hdrSeq x.header = 0)) = true ∧ (castOf true 1 [0] 0 64 none).hasPacket 0 = true ∧
    (copyS (castOf true 1 [0] 0 64 none) []).copyStuck (castOf true 1 [0] 0 64 none) = false ∧
    (copyS (castOf true 1 [0] 0 64 none) []).cairnOpen (castOf true 1 [0] 0 64 none) placedTeam = true ∧
    ((castS (castOf true 1 [0] 64 64 none) ((castOf true 1 [0] 64 64 none).chainPacket 10 (corePort 0) (castOf true 1 [0] 64 64 none).enginePort 0
      [])).chainAt (castOf true 1 [0] 64 64 none) 10 (castOf true 1 [0] 64 64 none).enginePort).isSome = true := by decide +kernel

-- the device

theorem witness_bring_up : State.reset.stage = 0 ∧ State.reset.bootErr = 0 ∧ ({ State.reset with boot := bootWord 1 0 } : State).stage = 1 ∧
    ({ State.reset with boot := bootWord 2 0 } : State).stage = 2 ∧ ({ State.reset with boot := bootWord 2 0 } : State).bootErr = 0 := by decide +kernel
theorem witness_clock : (pickS [1, 1]).arg 0 < (pickS [1, 1]).levels.length ∧ nth (pickS [1, 1]).levels 1 0 < 4 ∧
    nth ({ pickS [1, 0] with levels := [0, 2] } : State).levels 1 0 ≠ 0 := by decide +kernel
theorem witness_interface : ((pickS [63, 0x200000, 0x200000]).tdi 63).st = 0 ∧ rangesOk (pairUp ((pickS [63, 0x200000, 0x200000]).pick.drop 1)) = true ∧
    (({ pickS [63] with tdis := [⟨63, 1, [], []⟩] } : State).tdi 63).st = 1 ∧ (({ pickS [63] with tdis := [⟨63, 2, [], []⟩] } : State).tdi 63).active = true ∧
    (pickS [1, 0]).measurement ((pickS [1, 0]).arg 0) ((pickS [1, 0]).arg 1) = some (Config.firmwareDigest 1) ∧ 1 ≤ (pickS [7, 65, 66]).arg 0 ∧
    (pickS [7, 65, 66]).arg 0 ≤ 7 :=
  ⟨by decide +kernel, by decide +kernel, by decide +kernel, by decide +kernel, rfl, by decide +kernel, by decide +kernel⟩

-- steps, encodings, frames, traps

/-- The state after reset with a placed word, registers set. -/
def placedS (w : Nat) (l : List (Nat × Nat)) : State := (State.reset.withFetchWord 32 w).updThread thr.id (setRegs l)

theorem witness_step : (placedS 0x0C8123C4 []).agenda = [.thread thr.id] ∧ (placedS 0x0C8123C4 []).thread? thr.id = some thr ∧
    (((placedS 0x0C8123C4 []).deal 0).granted (.thread thr.id)).isSome = true ∧
    (({ placedS 0x0C8123C4 [] with picks := [] } : State).deal 0).granted (.thread thr.id) = none ∧
    (placedS 0x0C8123C4 []).mayIssue thr = true ∧ ((placedS 0x0C8123C4 []).fetch 0 0 thr.pc matches (_, .ok 0x0C8123C4)) = true ∧
    decodeWord 0x0C8123C4 = .ok (.addc 8 4 true 7 true 1) := by decide +kernel
/-- The placed thread while a fence of its holds its next word. -/
theorem witness_step_held : ({ placedS 0x0C8123C4 [] with ops := [opOf 7 (.fence .cl) .issued] } : State).mayIssue thr = true ∧
    ({ placedS 0x0C8123C4 [] with ops := [opOf 7 (.fence .cl) .issued] } : State).heldBack thr.id = true ∧
    (placedS 0x0C8123C4 []).heldBack thr.id = false := by decide +kernel
theorem witness_step_request : State.reset.stage = 0 ∧ requestEvent .hostAccess = true ∧ (placedS 0 []).stage ≠ 0 ∧ requestEvent .teamPlace = false := by
  decide +kernel
theorem witness_step_cycle : ((((placedS 0x0C8123C4 []).deal 0).pickOrder 0).find? ((placedS 0x0C8123C4 []).deal 0).pickLive).map (·.who) =
      some (.thread thr.id) ∧
    ((((placedS 0xE8000000 []).deal 0).pickOrder 0).find? ((placedS 0xE8000000 []).deal 0).pickLive).map (·.who) = some (.slice placedTeam) ∧
    (((({ placedS 0x0C8123C4 [] with picks := [] } : State).deal 0).pickOrder 0).all fun p =>
      ! (({ placedS 0x0C8123C4 [] with picks := [] } : State).deal 0).pickLive p) = true := by decide +kernel
theorem witness_step_stops : ((placedS 0xFFFFFFFF []).fetch 0 0 thr.pc matches (_, .ok 0xFFFFFFFF)) = true ∧ decodeWord 0xFFFFFFFF = .error .noRow ∧
    ((placedS 0 []).fetch 0 0 0x900000 matches (_, .error 0x40)) = true ∧
    (({ placedS 0 [] with boot := bootWord 0 0 } : State).mayIssue { thr with st := .exited }) = false := by decide +kernel
theorem witness_step_slice : (placedS 0xE8000000 []).agenda = [.slice placedTeam] ∧
    (((placedS 0xE8000000 []).deal 0).granted (.slice placedTeam)).isSome = true ∧ (placedS 0xE8000000 []).sliceRuns team = true ∧ (placedS 0xE8000000 []).team? placedTeam = some team ∧
    team.slice = some (newSlice 0 0x10000 0 0 1) ∧ (newSlice 0 0x10000 0 0 1).run = .running ∧ (placedS 0xE8000000 []).teamRuns team = true ∧
    ((placedS 0xE8000000 []).fetch 0 0 (newSlice 0 0x10000 0 0 1).apc matches (_, .ok 0xE8000000)) = true := by decide +kernel
theorem witness_step_event : Instr.powerOnReset.isEvent = true ∧ Instr.launchQueueScan.isEvent = true ∧
    ((placedS 0 []).readied .bundleReform [0, 0]).picks.any (((placedS 0 []).readied .bundleReform [0, 0]).waitsFor .bundleReform [0, 0]) = false ∧
    ((placedS 0xEC022036 []).readied .launchQueueScan [0]).picks.any
      (((placedS 0xEC022036 []).readied .launchQueueScan [0]).waitsFor .launchQueueScan [0]) = true := by decide +kernel
/-- A cycle laid down from the settled state (R42, R350): the slice's word goes before the thread's, which has its turn when the slice has
had its own. -/
theorem witness_step_order : (({ placedS 0x0C8123C4 [] with dealt := [false, false], picks := [] } : State).deal 0).picks.map (·.who) =
      [.thread thr.id, .slice placedTeam] ∧
    ((({ placedS 0x0C8123C4 [] with dealt := [false, false], picks := [] } : State).deal 0).granted (.thread thr.id)).isNone = true ∧
    ((({ placedS 0x0C8123C4 [] with dealt := [false, false], picks := [] } : State).deal 0).granted (.slice placedTeam)).isSome = true := by decide +kernel
theorem witness_lookup : ((placedS 0 []).lookup 0 0 0x10000 false false true matches (_, .ok 0x10000 _)) = true := by decide +kernel
theorem witness_encode : (Instr.addc 8 4 true 7 true 1).wellFormed = true ∧ (Instr.aLoop 511).wellFormed = true := by decide +kernel

/-- A grid of two roles of two and three threads (R31). -/
def gridIn : Grid :=
  { id := ⟨0, 0⟩, launch := { placedLaunch with roles := [⟨0x10000, 2, 1⟩, ⟨0x20000, 3, 3⟩] }, raw := [], kernelMode := false, svcp := 0, order := 0,
    nextTeam := 0, relaunch := 0, placedCores := [], die := 0, src := none, elig := true, srcVa := 0, ready := true, reserved := [], waiting := [], saved := false, sizes := [], subs := [], ks := [] }
theorem witness_placed : 4 < gridIn.launch.tsize ∧ roleOf gridIn.launch.roles 0 4 = some (1, 2, ⟨0x20000, 3, 3⟩) ∧
    roleOf gridIn.launch.roles 0 0 = some (0, 0, ⟨0x10000, 2, 1⟩) := by decide +kernel

/-- Whether a word's meaning answers a next state in which no further record has been raised. -/
def goesOn (i : Instr) (s : State) : Bool :=
  match exec i s with
  | .next s2 => decide (s2.raised = s.raised)
  | _ => false
theorem witness_frames : ([.addN32 8 4 true 7 true, .cmp 2 0 8 false 3 true 4 4, .faddF32 8 8 false 8 false, .rdcyc 8].all fun i =>
      goesOn i (probe 0)) = true ∧
    ([.br 2 false 2, .ldGB32 9 8 false 12 false 0, .stGB32 9 8 false 12 false 0, .imm 4, .aczero 3].all fun i => goesOn i (probe 0)) = true := by
  decide +kernel
theorem witness_frame_members : (.addN32 8 4 true 7 true) ∈ registerWords 8 4 true 7 true 0 0 false 0 0 ∧
    (.imm 4) ∈ controlAndAccessWords 0 0 false false 0 false 4 0 0 0 0 0 := by
  decide +kernel

/-- A result in flight, for g8 and p1, at a position in program order. -/
def resultOp (pos : Nat) : Op := { opOf 7 .result .issued with pos := pos, dests := [8, 65], vals := [5, 1] }
def resultS (pos : Nat) : State := { probeT 0 fun t => { t with wpos := t.wpos.set 8 3 } with ops := [resultOp pos], pick := [7], nextId := 8 }
theorem witness_result : (resultS 2).op? ((resultS 2).arg 0) = some (resultOp 2) ∧ (resultS 2).isDue (resultOp 2) = true ∧
    traps (resultOp 2).flags (resultOp 2).en = false ∧ (resultOp 2).dests.Nodup ∧ thr.regs.length ≤ 64 ∧ thr.preds.length = 12 ∧
    thr.wpos.length = 76 ∧ thr.dead.length = thr.regs.length ∧ (∀ r ∈ (resultOp 2).dests, r < thr.regs.length ∨ 64 ≤ r ∧ r < 76) ∧
    (resultOp 2).pos < ((resultS 2).thread? thr.id).elim 0 (fun t => nth t.wpos 8 0) := by decide +kernel

/-- A store in its path whose cycle of issue is over. -/
def laterS (a : Access) : State := { opS (.mem a) .ready [] with cycles := [1, 0] }
/-- The conditions under which the stores of a merge step are performed, computed. -/
def storesReady (s : State) (o : Op) (a : Access) : Bool :=
  s.stepClosed o && ! s.mergeWaits o a && (s.mergeGroup o a).all fun p => ! p.2.kind.atomic && s.storeReady p.1 p.2
theorem witness_stores_step : ([accOf .store .s 0 .tm, accOf .store .g 0x10000 .sy, accOf .store .g 0x10000 .cl].all fun a =>
      storesReady (laterS a) (opOf 7 (.mem a) .ready) a &&
      decide ((laterS a).mergeGroup (opOf 7 (.mem a) .ready) a = [(opOf 7 (.mem a) .ready, a)])) = true ∧
    (accOf .store .s 0 .tm).rel = false ∧ (laterS (accOf .store .s 0 .tm)).tagged thr.id.teamId 0 4 = false ∧
    (accOf .store .s 0 .tm).pa = some (accOf .store .s 0 .tm).va := by
  decide +kernel
/-- Stores of two threads of one merge step that share two bytes. -/
def lowerA : Access := { accOf .store .s 0 .tm with data := 0x01020304 }
def higherA : Access := { plainAccess .store .s 2 2 .tm with pa := some 2, data := 0xAABB }
def higherO : Op := { opOf 8 (.mem higherA) .ready with thr := ⟨0, 0, 0, 1⟩ }
def mergedS : State := { opS (.mem lowerA) .ready [] with ops := [higherO, opOf 7 (.mem lowerA) .ready], cycles := [1, 0], nextId := 9 }
theorem witness_stores_merge : storesReady mergedS (opOf 7 (.mem lowerA) .ready) lowerA = true ∧
    mergedS.mergeGroup (opOf 7 (.mem lowerA) .ready) lowerA = [(opOf 7 (.mem lowerA) .ready, lowerA), (higherO, higherA)] ∧
    lastGiving (mergedS.mergeGroup (opOf 7 (.mem lowerA) .ready) lowerA) 2 = some (higherO, higherA) := by decide +kernel
/-- R249: a byte that stores of one cycle share takes the value of the thread of the highest rank. -/
theorem test_merge_bytes : (match exec .storePerformed mergedS with
    | .next s => (s.team? placedTeam).map fun u => (memRead u.scratch 0 4, s.ops.length)
    | _ => none) = some (0xAABB0304, 0) := by decide +kernel
theorem witness_stores : (opS (.mem (accOf .store .g 0x10000 .cl)) .core []).pathOlder (opOf 7 (.mem (accOf .store .g 0x10000 .cl)) .core)
      { accOf .store .g 0x10000 .cl with cp := 3 } = false ∧ Memory.wf (opS .result .issued []).home = true ∧ Memory.wf team.scratch = true := by
  decide +kernel

/-- A state with one access of the placed thread that may act: a scratchpad and home memory with bytes, and the sector in the L1 of its cluster. -/
def actS (a : Access) (more : List Op) : State :=
  { (opS (.mem a) .ready []).updTeam placedTeam fun u => { u with scratch := memWrite [] 0 8 0x8877665544332211 } with
    ops := opOf 7 (.mem a) .ready :: more, nextId := 9, cycles := [1, 0], home := memWrite [] 0x20000 4 0x80FF7F01,
    l1 := [⟨0, 0x10000 / 64, BitVec.ofNat 64 (2 ^ 64 - 1), 0, BitVec.ofNat 512 0xF00D, false, false, false, 0⟩],
    consts := [⟨0, ⟨0, 0⟩, 0, BitVec.ofNat 512 0xFEDCBA9876543210⟩] }
def loadA (sp : Space) (va : Nat) (sc : Scope) : Access := accOf (.load true) sp va sc
/-- The orders of a load, computed. -/
def loadFree (a : Access) (more : List Op) : Bool :=
  let o := opOf 7 (.mem a) .ready
  let s := actS a more
  decide (s.op? (s.arg 0) = some o) && ! s.acquireHolds o && ! s.readsAbsent o a && ! s.readHeld o a && ! (a.isWide && s.pathBusy o a.va (a.pa.getD 0))
    && ! s.bankRefreshes a && ! s.detMode o.thr.gridId
/-- An older store of the placed thread, in its path. -/
def olderO : Op := { opOf 8 (.mem { accOf .store .s 0 .tm with data := 5 }) .ready with pos := 3 }
theorem witness_load_binds : ([loadA .s 4 .tm, loadA .g 0x20000 .sy, loadA .g 0x10000 .cl, loadA .w 0x40000100 .cl].all fun a => loadFree a []) = true ∧
    ((actS (loadA .g 0x20000 .sy) []).constSector? 0 ⟨0, 0⟩ 0).isSome = true := by decide +kernel
theorem witness_load_sees : (actS (loadA .s 4 .tm) []).Sees (opOf 7 (.mem (loadA .s 4 .tm)) .ready) (loadA .s 4 .tm) 3 0x88 ∧
    (actS (loadA .g 0x20000 .sy) []).Sees (opOf 7 (.mem (loadA .g 0x20000 .sy)) .ready) (loadA .g 0x20000 .sy) 1 0x7F ∧
    (actS (loadA .g 0x10000 .cl) []).Sees (opOf 7 (.mem (loadA .g 0x10000 .cl)) .ready) (loadA .g 0x10000 .cl) 0 0x0D := by
  have none_ : ∀ (a : Access), a.kind = .load true → ∀ i x st, ¬ (actS a []).OwnGives (opOf 7 (.mem a) .ready) a i x st := by
    rintro a ha i x st ⟨hx, -, -, hacc, hst, -⟩
    have hm : x = opOf 7 (.mem a) .ready := by simpa [actS] using hx
    subst hm
    have : st = a := by simpa [opOf, Op.access] using hacc.symm
    subst this
    rw [ha] at hst
    cases hst
  refine ⟨.inr ⟨none_ _ rfl 3, ?_⟩, .inr ⟨none_ _ rfl 1, ?_⟩, .inr ⟨none_ _ rfl 0, ?_⟩⟩
  · exact ⟨_, rfl, by decide +kernel, by decide +kernel⟩
  · exact ⟨_, rfl, by rw [if_pos (by decide +kernel)]; decide +kernel⟩
  · exact ⟨_, rfl, by
      rw [if_neg (by decide +kernel)]
      exact .inr ⟨by decide +kernel, _, rfl, by decide +kernel, by decide +kernel, by decide +kernel⟩⟩
theorem witness_load_sees_own : (actS (loadA .s 0 .tm) [{ olderO with pos := 0 }]).OwnGives { opOf 7 (.mem (loadA .s 0 .tm)) .ready with pos := 4 }
    (loadA .s 0 .tm) 0 { olderO with pos := 0 } { accOf .store .s 0 .tm with data := 5 } :=
  ⟨by simp [actS], rfl, by decide, rfl, rfl, by decide, by decide, by decide +kernel⟩
/-- R290, R266: a load at .sy binds the home slice's four bytes, sign-extended; one of the scratchpad, the bytes there. -/
theorem test_load_binds : ([loadA .g 0x20000 .sy, loadA .s 4 .tm, { loadA .g 0x10000 .cl with size := 2 },
    { loadA .k 8 .cl with size := 2 }].map fun a => match exec .resultWrite (actS a []) with
      | .next s => (s.op? 7).map fun o => (o.stage, o.vals)
      | _ => none) =
    [some (.bound, [0x80FF7F01]), some (.bound, [0x88776655]), some (.bound, [0xFFFFF00D]), some (.bound, [0])] := by decide +kernel

def atomA (sp : Space) (va : Nat) (sc : Scope) (k : AccKind) : Access := { accOf k sp va sc with data := 0x55443322, data2 := 9 }
theorem witness_atomic_performs : ([atomA .s 4 .tm .cas, atomA .g 0x20000 .sy (.atom 0), atomA .g 0x10000 .cl (.atom 8)].all fun a =>
      let s := actS a []
      let o := opOf 7 (.mem a) .ready
      decide (s.op? (s.arg 0) = some o) && ! s.acquireHolds o && ! s.readsAbsent o a && s.atomicReady o a && decide (a.mask = 2 ^ a.size - 1) &&
        ! (s.beforePerform o a).homePoison.contains (0x20000 / 64) && ! s.detMode o.thr.gridId && ! s.tagged placedTeam 4 4) = true ∧
    ((actS (atomA .g 0x10000 .cl (.atom 8)) []).l1Sector? 0 0x400).any (fun l => ! l.poison) = true ∧ (0x10000 : Nat) % 64 + 4 ≤ 64 ∧
    Memory.wf (memWrite [] 0 8 0x8877665544332211) = true ∧ Memory.wf (memWrite [] 0x20000 4 0x80FF7F01) = true := by decide +kernel
/-- R294, R295: ATOM.add at .sy returns the old value and writes the sum; ATOMC with another old value writes nothing. -/
theorem test_atomic_performs : (match exec .resultWrite (actS (atomA .g 0x20000 .sy (.atom 0)) []) with
      | .next s => ((s.op? 7).map fun o => (o.stage, o.vals), memRead s.home 0x20000 4)
      | _ => (none, 0)) = (some (.bound, [0x80FF7F01]), 0xD643B223) ∧
    (match exec .resultWrite (actS (atomA .s 4 .tm .cas) []) with
      | .next s => ((s.op? 7).map fun o => o.vals, (s.team? placedTeam).map fun u => memRead u.scratch 0 8)
      | _ => (none, none)) = (some [0x88776655], some 0x8877665544332211) := by decide +kernel

/-- A set whose two members have deposited, the second not signed yet, and signed. -/
def depositIn (kind : CollKind) (a : Nat) (dests : List Nat) : Deposit :=
  { kind := kind, word := 0, rc := 0, en := 0, a := a, b := 1, dests := dests, pos := 0, pc := 0x10000, latch := [], issued := 0, signed := true, op := 0 }
def firedTm (k : CollKind) : Team :=
  { team with crs := team.crs.set 2 ⟨.range, 0, 1, 0, 0, 4, [⟨0, .signed, some (depositIn k 7 [8])⟩, ⟨1, .signed, some (depositIn k 3 [9])⟩]⟩ }
def firedS (k : CollKind) : State := bothS id fun _ => firedTm k
theorem witness_fired : (firedS (.red 0)).team? placedTeam = some (firedTm (.red 0)) ∧ ((firedTm (.red 0)).cr 2).kind ≠ .free ∧
    ((firedTm (.red 0)).cr 2).complete = true ∧ (depositIn (.red 0) 7 [8]).isMatrix = false ∧ [0, 1].Pairwise (· < ·) ∧
    [(0, depositIn (.red 0) 7 [8]), (1, depositIn (.red 0) 3 [9])].Pairwise (fun p q => p.1 < q.1) := by decide +kernel
/-- R202, R203, R205: the sum of both deposits to each register; each member's value to the other; and the sums of the members below. -/
theorem test_fired : ([.red 0, .shuffle 3, .scan true 0].map fun k => (((firedS k).settle placedTeam 2).ops.map fun o => (o.dests, o.vals, o.due))) =
    [[([8], [10], some 20), ([9], [10], some 20)], [([8], [3], some 12), ([9], [7], some 12)], [([8], [0], some 20), ([9], [7], some 20)]] ∧
    (((firedS (.red 0)).settle placedTeam 2).team? placedTeam).map (fun u => (u.cr 2).phase) = some 5 := by decide +kernel
theorem witness_memories : (placedS 0x0C8123C4 []).memoriesWf ∧ (match step (placedS 0x0C8123C4 []) with
    | .next _ => true
    | _ => false) = true := ⟨⟨by decide +kernel, by decide +kernel, by decide +kernel, by decide +kernel⟩, by decide +kernel⟩

/-- A state whose context has a fault queue of a size at 0x20000. -/
def ringS (sz : Nat) : State := userS fun c => { c with fqb := 0x20000, fqc := BitVec.ofNat 32 sz }
/-- A die whose held store is full (R366). -/
def fullS : State := { ringS 0 with held := List.replicate 256 ⟨0, (probe 0).deviceRecord 0 clsSoft 0 0 0⟩ }
theorem witness_trap : (ringS 4).thread? thr.id = some thr ∧ ((ringS 4).ctx? 0).any (fun c => (ringS 4).ringRoom c) = true ∧
    ((ringS 0).ctx? 0).any (fun c => ! (ringS 0).ringRoom c) = true ∧ (ringS 4).waiters = [] ∧ (ringS 4).held = [] ∧
    ((ringS 0).ctx? 0).any (fun c => ! (ringS 0).storeFull 0 c) = true ∧
    ((ringS 0).ctx? 0).any (fun c => (fullS.storeFull 0 c)) = true ∧ Memory.wf (ringS 4).home = true ∧
    clsSoft ≠ clsYield := by decide +kernel
theorem witness_kernel : (ringS 0).cur = .thread thr.id ∧ (ringS 0).thread? thr.id = some thr ∧ (ringS 0).kernelMode thr.id.gridId = false := by decide +kernel

theorem witness_bad_address : (regS [(8, 2)]).Issues (regT [(8, 2)]) (loadForm (regS [(8, 2)]) .g 4 16 8 true 11) ∧
    (regT [(8, 2)]).pred 11 ≠ true ∧ effAddr .g (srcOf (regT [(8, 2)]) (loadForm (regS [(8, 2)]) .g 4 16 8 true 11) 0) 0 % 4 ≠ 0 := meets (by decide +kernel)
theorem witness_bad_range : ([(Space.s, 4096), (.k, 65536), (.w, 2 ^ 31)].all fun x =>
    issuesB (withWeights (regS [(8, x.2)])) (regT [(8, x.2)]) (loadForm (withWeights (regS [(8, x.2)])) x.1 4 16 8 true 11) &&
    decide (effAddr x.1 (srcOf (regT [(8, x.2)]) (loadForm (withWeights (regS [(8, x.2)])) x.1 4 16 8 true 11) 0) 0 = x.2)) = true ∧
    (regS []).scrOf thr.id.teamId * 4096 ≤ 4096 := by decide +kernel
theorem witness_bad_store : (regS [(8, 4096)]).Issues (regT [(8, 4096)]) (storeForm (regT [(8, 4096)]) .s 4 16 8 true 11) ∧
    (regS [(8, 4096)]).Issues (regT [(8, 4096)]) (atomForm (regT [(8, 4096)]) 16 1 1 8 true true 0) :=
  ⟨issues_of_check (by decide +kernel), issues_of_check (by decide +kernel)⟩

-- ---------------------------------------------------------------- values the spec gives

/-- The state after one step of a placed word; the reset state where the step stops. -/
def ran (s : State) : State :=
  match step s with
  | .next s2 => s2
  | _ => State.reset
/-- The results in flight: registers, values, flags. -/
def resultsOf (s : State) : List (List Nat × List Nat × Nat) := s.ops.map fun o => (o.dests, o.vals, o.flags)
/-- The state after a placed word with registers set and hints latched. -/
def ranWith (w : Nat) (l : List (Nat × Nat)) (h : List Word) : State :=
  ran ((placedS w l).updThread thr.id fun t => { t with latch := h })
/-- The same under slot words. -/
def ranSlot (w slot : Nat) (l : List (Nat × Nat)) : State :=
  ran ((placedS w l).updGrid ⟨0, 0⟩ fun g => { g with launch := { g.launch with slots := List.replicate 8 (BitVec.ofNat 32 slot) } })

-- The example of ch. 6: a carry chain, a division by zero, a comparison ORed into its predicate, a saturating sum.
theorem test_addc_carries : resultsOf (ranWith 0x0C8123C4 [(4, 0xFFFFFFFF), (7, 1)] []) = [([8, 65], [0, 1], 0)] := by decide +kernel
theorem test_div_by_zero : resultsOf (ranWith 0x04C2C548 [(11, 2), (10, 0)] []) = [([12], [0xFFFFFFFF], 0)] := by decide +kernel
theorem test_cmp_combines : resultsOf (ranWith 0x80A20480 [] []) = [([66], [1], 0)] := by decide +kernel
theorem test_add_saturates : resultsOf (ranWith 0x04D30581 [(12, 0xFFFFFFFF), (11, 2)] [0xFC400010]) = [([13], [0xFFFFFFFF], 0)] := by decide +kernel
theorem test_add_wraps : resultsOf (ranWith 0x04D30581 [(12, 0xFFFFFFFF), (11, 2)] []) = [([13], [1], 0)] := by decide +kernel
-- R147: the quotient of the most negative number by -1.
theorem test_div_overflow : resultsOf (ranWith (encode (.divI32 8 4 false 5 false)) [(4, 0x80000000), (5, 0xFFFFFFFF)] []) = [([8], [0x80000000], 0)] := by
  decide +kernel
-- The example of ch. 4: 3.0 × 1.0 + 3.0 = 6.0, 6.0 + 6.0 = 12.0; the branch back past the addition; the load's address; the exit.
theorem test_ffma : resultsOf (ranWith 0x50824189 [(9, 0x40400000), (3, 0x3F800000)] [0xFC40000A, 0xFC800001]) = [([8], [0x40C00000], 0)] := by decide +kernel
theorem test_fadd : resultsOf (ranWith 0x40820400 [(8, 0x40C00000)] []) = [([8], [0x41400000], 0)] := by decide +kernel
theorem test_branch : ((ran ((placedS 0x88800002 []).updThread thr.id fun t => { t with preds := t.preds.set 2 true })).thread? thr.id).map (·.pc) =
    some 0x10008 ∧ ((ranWith 0x88800002 [] []).thread? thr.id).map (·.pc) = some 0x10004 := by decide +kernel
theorem test_load_address : ((ranWith 0xC0901800 [(1, 0x40)] [0xFC000004]).ops.map fun o => o.access.map fun a => (a.va, a.size)) = [some (0x4000001000, 4)] := by
  decide +kernel
theorem test_exit : ((ranWith 0x90000C00 [] []).thread? thr.id).elim true (fun t => decide (t.st = .exited)) = true := by decide +kernel
theorem test_movi : resultsOf (ranWith 0x34300000 [] [0xFC01FC00]) = [([3], [0x3F800000], 0)] := by decide +kernel
-- R74, R73: 65,520 to .f16 under RNE overflows to infinity, OF and NX; under RZ it is 0x7BFF, NX (the worked conversions of ch. 3).
theorem test_cvt_nearest : resultsOf (ranSlot (encode (.cvt 8 4 false 0 false 0)) 0x00000201 [(4, 0x477FF000)]) = [([8], [0x7C00], fOF + fNX)] := by
  decide +kernel
theorem test_cvt_toward_zero : resultsOf (ranSlot (encode (.cvt 8 4 false 0 false 0)) 0x00200201 [(4, 0x477FF000)]) = [([8], [0x7BFF], fNX)] := by
  decide +kernel
-- R77, R79: the worked slot, and the slot of .bf16 operands with a .f32 result.
theorem test_slot : (Slot.ofWord 0x00619354).matrixClass = some 1 ∧ (Slot.ofWord 0x00619354).nsp = 6 ∧ (Slot.ofWord 0x00619354).rm = 6 ∧
    (Slot.ofWord 0x00000133).matrixClass = some 1 := by decide +kernel
-- R45: the worked example of ch. 2; R47: the offsets it names.
theorem test_launch_control : (LaunchRec.ofRaw 0x1000000300401901).prio = 2 ∧ (LaunchRec.ofRaw 0x1000000300401901).det = true ∧
    (LaunchRec.ofRaw 0x1000000300401901).acn32 = 4 ∧ (LaunchRec.ofRaw 0x1000000300401901).svcp = 3 ∧ (LaunchRec.ofRaw 0x1000000300401901).dl = 4096 ∧
    (LaunchRec.ofRaw 0x1000000300401901).roles.length = 2 := by decide +kernel
theorem test_record_flaws : recordFlaw (launchRaw - 2 ^ 48) = some 6 ∧ recordFlaw (launchRaw + 9 * 2 ^ 16) = some 2 ∧
    recordFlaw (launchRaw + 97 * 2 ^ 96) = some 0xC ∧ recordFlaw (launchRaw + 16384 * 2 ^ (8 * 0x28)) = some 0x28 := by decide +kernel
-- R30: rank 13 of a spanning team has site 5, rank 8,199 site 7. R252: the home slices of two lines.
theorem test_sites : siteOf true 13 = 5 ∧ siteOf true 8199 = 7 := by decide +kernel
theorem test_home_slices : homeSlice 0x23456000 = 9 ∧ homeSlice 0x23456100 = 8 := by decide +kernel
-- A trap parks its thread at its word; a kernel word outside kernel mode takes one.
theorem test_softi : ((ranWith (encode (.trap 5)) [] []).thread? thr.id).map (fun t => (t.st, t.pc)) = some (.parked .fault, 0x10000) := by decide +kernel
theorem test_halt_user : ((exec (.halt 8 4 false) (ringS 0) matches .next _) &&
    decide ((ran { ringS 0 with agenda := [.thread thr.id], picks := [⟨0, 0, .thread thr.id⟩], home := memWrite (ringS 0).home 0x10000 4 (encode (.halt 8 4 false)) }).held.length = 1)) = true := by
  decide +kernel
-- R116, R290: a store takes its value at issue; R265: a scratchpad store writes its bytes and no others.
theorem test_store_takes_value : ((ranWith 0xC4801801 [(8, 0x01020304), (1, 0x40)] [0xFC000004]).ops.map fun o => o.access.map fun a => (a.va, a.data)) =
    [some (0x4000001004, 0x01020304)] := by decide +kernel
theorem test_store_scratch : (match exec .storePerformed (laterS { accOf .store .s 4 .tm with data := 0x01020304 }) with
    | .next s => (s.team? placedTeam).map fun u => memRead u.scratch 0 12
    | _ => none) = some 0x0102030400000000 := by
  decide +kernel
-- R470, R124: RDCYC reads the die's cycles; sr.rank.
theorem test_rdcyc : resultsOf (ran { placedS (encode (.rdcyc 8)) [] with cycles := [0x100000002, 0] }) = [([8, 9], [2, 1], 0)] := by decide +kernel
-- R328: a slice's loop opens a level.
theorem test_slice_loop : ((ran (placedS (encode (.aLoop 2)) [])).team? placedTeam).map (fun u => u.slice.map fun x => (x.apc, x.loops.map fun l => (l.start, l.cnt))) =
    some (some (0x10004, [(0x10004, 3)])) := by decide +kernel
-- R210, R220: a matrix word deposits in its set.
theorem test_matrix_deposits : (match exec (.mma 16 20 true 7 15 3) { mxS 0 fun _ => wideTm 15 .declared with ir := 0 } with
    | .next s => (s.team? placedTeam).any fun u => ((u.cr 15).deposit 0).isSome
    | _ => false) = true := by decide +kernel

end Tests
end Sys2Proof
end

section
/-! PROOFS. What placing an ordinary team makes (R31, R36): the thread of each rank, and the fields of a new thread. -/

namespace Sys2Proof
namespace Machine

/-- Every entry of a list of equal entries reads as that entry when it is also the default. -/
@[simp] theorem nth_replicate_self {α : Type} (n i : Nat) (d : α) : nth (List.replicate n d) i d = d := by
  simp only [nth, List.getD_eq_getElem?_getD, List.getElem?_getD_replicate_default_eq]

/-- Entries equal to the default, put behind a list, change no read of it. -/
@[simp] theorem nth_append_replicate {α : Type} (l : List α) (n i : Nat) (d : α) : nth (l ++ List.replicate n d) i d = nth l i d := by
  unfold nth
  rcases Nat.lt_or_ge i l.length with h | h
  · exact List.getD_append l _ d i h
  · rw [List.getD_append_right l _ d i h, List.getD_eq_default l d h]
    exact nth_replicate_self n (i - l.length) d

/-- A pair as a list: entry 0, entry 1, and the default past them. -/
theorem nth_pair {α : Type} (a b d : α) (n : Nat) : nth [a, b] n d = if n = 0 then a else if n = 1 then b else d := by
  match n with
  | 0 => rfl
  | 1 => rfl
  | n + 2 => simp [nth]

section newThread

variable (id : ThreadId) (role rrank tsize nteam lcore nlcore budget : Nat) (regs : List Word) (pc : Addr) (now : Nat)

/-- No register of a new thread is dead (R36). -/
theorem newThread_dead (n : Nat) :
    nth (newThread id role rrank tsize nteam lcore nlcore budget regs pc now).dead n false = false :=
  nth_replicate_self budget n false

/-- A new thread's registers hold the words it is given, and 0 past them (R36). -/
theorem newThread_reg (n : Nat) :
    nth (newThread id role rrank tsize nteam lcore nlcore budget regs pc now).regs n 0 = nth regs n 0 :=
  nth_append_replicate regs (budget - regs.length) n 0

/-- Every predicate of a new thread is false (R36). -/
theorem newThread_pred (p : Nat) :
    nth (newThread id role rrank tsize nteam lcore nlcore budget regs pc now).preds p false = false :=
  nth_replicate_self 12 p false

/-- A new thread has no operation outstanding (R36). -/
theorem newThread_counter (c : KClass) :
    (newThread id role rrank tsize nteam lcore nlcore budget regs pc now).counter c = 0 := rfl

end newThread

/-- Invalidating an L1 changes no thread (R275). -/
@[simp] theorem State.invalidateL1_threads (s : State) (cluster : Nat) : (s.invalidateL1 cluster).threads = s.threads := rfl

/-- Adding a team adds its threads and changes no other. -/
theorem State.addTeam_threads (s : State) (g : GridId) (t : Team) (ths : List Thread) :
    (s.addTeam g t ths).threads = s.threads ++ ths := by
  simp only [State.addTeam, State.updGrid_threads, apply_ite State.threads, State.invalidateL1_threads, ite_self]

/-- The thread that placing a grid's next ordinary team makes for a rank of a role (R31, R36), at a place that sr.lcore and sr.nlcore name. -/
def ordinaryThread (g : Grid) (now rank : Nat) (x : Nat × Nat × RoleDesc) (place : Nat × Nat) : Thread :=
  newThread ⟨g.id.ctx, g.id.grid, g.nextTeam, rank⟩ x.1 x.2.1 g.launch.tsize g.launch.nteam place.1 place.2 (budgetOf x.2.2.rbud)
    [BitVec.ofNat 32 g.launch.arg.toNat, BitVec.ofNat 32 (g.launch.arg.toNat / 2 ^ 32)] x.2.2.entry now

/-- Placing a grid's next ordinary team makes the thread of every rank below the team's size that a role covers (R31). -/
theorem State.ordinaryThread_mem_placeOrdinary (s : State) {g : Grid} (core : Nat)
    (grants : List (Nat × Nat × Nat) × List (Nat × Nat × Nat)) {rank : Nat} {x : Nat × Nat × RoleDesc}
    (hrank : rank < g.launch.tsize) (hrole : roleOf g.launch.roles 0 rank = some x) :
    ∃ place, ordinaryThread g (s.now core) rank x place ∈ (s.placeOrdinary g core grants).threads := by
  simp only [State.placeOrdinary, State.updGrid_threads, State.addTeam_threads, List.mem_append, List.mem_filterMap, List.mem_range]
  exact ⟨_, .inr ⟨rank, hrank, by rw [hrole]; rfl⟩⟩

/-- Settles O53: the thread made for the rank is a new thread, whose registers begin with the two halves of ARG. -/
theorem placedThreadsStart : Obligations.PlacedThreadsStart := by
  intro s g core grants rank k rr desc hrank hrole
  obtain ⟨place, hmem⟩ := s.ordinaryThread_mem_placeOrdinary core grants hrank hrole
  refine ⟨_, hmem, rfl, rfl, rfl, rfl, rfl, rfl, fun n _ => ⟨?live, ?value⟩, fun p _ => ?pred, rfl, rfl, fun c => ?counter, rfl⟩
  case live => exact newThread_dead ..
  case value => exact (newThread_reg ..).trans (nth_pair ..)
  case pred => exact newThread_pred ..
  case counter => exact newThread_counter ..

end Machine
end Sys2Proof
end

section
/-! PROOFS. The integer words that write results (R145, R147, R151 to R153): a row of one or of two operands holds when the machine runs
its instruction by the shared frame with a function that gives the same destination words; then, per group, why the functions agree. -/

namespace Sys2Proof
namespace Machine

-- ---------------------------------------------------------------- rows

/-- A row of one operand holds when its instruction runs by the unary frame and gives the same words. -/
theorem unaryRow_holds {i : Instr} {lat : Nat} {d a : Src} {l : Bool} {f g : Nat → Nat}
    (hexec : ∀ s, exec i s = unaryWord lat d a l g s) (hwords : ∀ x, wordsOf d.n (g x) = wordsOf d.n (f x)) :
    (unaryRow i lat d a l f).Holds := by
  intro s t h
  exact (hexec s).trans ((unaryWord_next h).trans (by rw [hwords]; rfl))

/-- A row of two operands holds when its instruction runs by the binary frame and gives the same words. -/
theorem binaryRow_holds {i : Instr} {lat : Nat} {d a b : Src} {l m : Bool} {f g : Nat → Nat → Nat}
    (hexec : ∀ s, exec i s = binaryWord lat d a l b m false (fun _ => g) s)
    (hwords : ∀ x y, wordsOf d.n (g x y) = wordsOf d.n (f x y)) : (binaryRow i lat d a l b m f).Holds := by
  intro s t h
  exact (hexec s).trans ((binaryWord_next h).trans (by rw [hwords]; rfl))

/-- A row that SAT may govern holds when its instruction runs by the binary frame with SAT allowed and gives the same words. -/
theorem satRow_holds {i : Instr} {d a b : Src} {l m : Bool} {f g : Bool → Nat → Nat → Nat}
    (hexec : ∀ s, exec i s = binaryWord 4 d a l b m true g s)
    (hwords : ∀ sat x y, wordsOf d.n (g sat x y) = wordsOf d.n (f sat x y)) : (satRow i d a l b m f).Holds := by
  intro s t h
  exact (hexec s).trans ((binaryWord_next h).trans (by rw [hwords]; rfl))

-- ---------------------------------------------------------------- addition and subtraction

/-- The model's sum or difference is R145's, whatever the width. -/
theorem addSub_eq_addRule (w : Nat) (sub signed sat : Bool) (a b : Nat) : addSub w sub signed sat a b = addRule w sub signed sat a b := by
  rfl

/-- A row of R145 holds when its instruction adds or subtracts by the binary frame. -/
theorem addSubRow_holds {i : Instr} {w : Nat} {sub signed : Bool} {d a b : Src} {l m : Bool}
    (hexec : ∀ s, exec i s = binaryWord 4 d a l b m true (addSub w sub signed) s) : (satRow i d a l b m (addRule w sub signed)).Holds :=
  satRow_holds hexec fun sat x y => by rw [addSub_eq_addRule]

/-- Settles O1: each of the eight words adds or subtracts by the shared frame, with R145's values. -/
theorem additionAndSubtractionComplete : Obligations.AdditionAndSubtractionComplete := by
  intro d a l b m
  simp only [addSubRows, List.forall_mem_append, List.forall_mem_cons, List.not_mem_nil, false_imp_iff, implies_true, and_true]
  refine ⟨⟨?_, ?_, ?_, ?_⟩, ?_, ?_, ?_, ?_⟩ <;> exact addSubRow_holds fun _ => rfl

-- ---------------------------------------------------------------- division

/-- Reducing a natural number modulo 2^w. -/
@[simp] theorem wrap_natCast (n w : Nat) : wrap (n : Int) w = n % 2 ^ w := by
  rw [wrap, ← Int.natCast_emod, Int.toNat_natCast]

/-- 0 is a value of every width. -/
@[simp] theorem wrap_zero (w : Nat) : wrap 0 w = 0 := rfl

/-- 2^w - 1 is a w-bit value. -/
theorem wrap_ones (w : Nat) : wrap ((2 ^ w : Nat) - 1) w = 2 ^ w - 1 := by
  have hpos : 0 < 2 ^ w := Nat.two_pow_pos w
  rw [← Nat.cast_pred hpos, wrap_natCast, Nat.mod_eq_of_lt (Nat.sub_one_lt hpos.ne')]

/-- The most negative w-bit number has only its top bit set. -/
theorem wrap_neg_half {w : Nat} (hw : 0 < w) : wrap (-(2 ^ (w - 1) : Nat)) w = 2 ^ (w - 1) := by
  have hdouble : 2 ^ w = 2 ^ (w - 1) + 2 ^ (w - 1) := by rw [← Nat.two_mul, mul_pow_sub_one hw.ne']
  have hpos : 0 < 2 ^ (w - 1) := Nat.two_pow_pos _
  have hshift : wrap (-(2 ^ (w - 1) : Nat)) w = wrap ((2 ^ (w - 1) : Nat) : Int) w := by
    rw [wrap, wrap, ← Int.add_emod_right, hdouble]
    congr 2; push_cast; ring
  rw [hshift, wrap_natCast, Nat.mod_eq_of_lt (by omega)]

/-- The model's quotient is R147's: of a division by 0, of the one quotient that does not fit, and of any other pair. -/
theorem divRem_quotient {w : Nat} (hw : 0 < w) (signed : Bool) (a b : Nat) : (divRem w signed a b).1 = divisionRule w signed false a b := by
  simp only [divRem, divisionRule, Bool.false_eq_true, if_false]
  generalize (if signed then sext a w else (a : Int)) = n
  generalize (if signed then sext b w else (b : Int)) = d
  split_ifs with hzero hover
  · exact (wrap_ones w).symm
  · exact (wrap_neg_half hw).symm
  · rfl

/-- The model's remainder is R147's: of a division by 0, of the one quotient that does not fit, and of any other pair. -/
theorem divRem_remainder (w : Nat) (signed : Bool) (a b : Nat) : (divRem w signed a b).2 = divisionRule w signed true a b := by
  simp only [divRem, divisionRule, if_true]
  generalize (if signed then sext a w else (a : Int)) = n
  generalize (if signed then sext b w else (b : Int)) = d
  split_ifs with hzero hover
  · rfl
  · exact (wrap_zero w).symm
  · rfl

/-- A row of DIV holds when its instruction takes the model's quotient by the binary frame. -/
theorem quotientRow_holds {i : Instr} {w lat : Nat} {signed : Bool} {d a b : Src} {l m : Bool} (hw : 0 < w)
    (hexec : ∀ s, exec i s = binaryWord lat d a l b m false (fun _ x y => (divRem w signed x y).1) s) :
    (binaryRow i lat d a l b m (divisionRule w signed false)).Holds :=
  binaryRow_holds hexec fun x y => by rw [divRem_quotient hw]

/-- A row of REM holds when its instruction takes the model's remainder by the binary frame. -/
theorem remainderRow_holds {i : Instr} {w lat : Nat} {signed : Bool} {d a b : Src} {l m : Bool}
    (hexec : ∀ s, exec i s = binaryWord lat d a l b m false (fun _ x y => (divRem w signed x y).2) s) :
    (binaryRow i lat d a l b m (divisionRule w signed true)).Holds :=
  binaryRow_holds hexec fun x y => by rw [divRem_remainder]

/-- Settles O2: DIV takes the model's quotient, REM its remainder, which are R147's for every operand pair. -/
theorem divisionCompletes : Obligations.DivisionCompletes := by
  intro d a l b m
  simp only [divisionRows, List.forall_mem_append, List.forall_mem_cons, List.not_mem_nil, false_imp_iff, implies_true, and_true]
  refine ⟨⟨?divI32, ?divN32, ?remI32, ?remN32⟩, ?divI64, ?divN64, ?remI64, ?remN64⟩
  case divI32 | divN32 | divI64 | divN64 => exact quotientRow_holds (by decide) fun _ => rfl
  case remI32 | remN32 | remI64 | remN64 => exact remainderRow_holds fun _ => rfl

-- ---------------------------------------------------------------- shifts, rotations, field extractions

/-- The destination words of a value do not see its bits past them. -/
@[simp] theorem wordsOf_mod (n x : Nat) : wordsOf n (x % 2 ^ (32 * n)) = wordsOf n x := by
  induction n generalizing x with
  | zero => rfl
  | succ n ih =>
    have hpow : 2 ^ (32 * (n + 1)) = 2 ^ 32 * 2 ^ (32 * n) := by rw [← pow_add, Nat.mul_succ, Nat.add_comm]
    rw [wordsOf, wordsOf, hpow, Nat.mod_mul_right_mod, Nat.mod_mul_right_div_self, ih]

/-- A shift by the model gives the destination words of R151's: the rule leaves what passes the width to the destination. -/
theorem wordsOf_shiftOp {w : Nat} (hw : 32 ∣ w) (op a n : Nat) : wordsOf (w / 32) (shiftOp w op a n) = wordsOf (w / 32) (shiftRule w op a n) := by
  have hcut (x : Nat) : wordsOf (w / 32) (x % 2 ^ w) = wordsOf (w / 32) x := by
    simpa only [Nat.mul_div_cancel' hw] using wordsOf_mod (w / 32) x
  match op with
  | 0 =>
    rw [shiftOp, shiftRule]
    split
    · rfl
    · exact hcut _
  | 1 => rfl
  | 2 => rfl
  | _ + 3 => exact hcut _

/-- A row of R151 holds when its instruction shifts by the binary frame, by the low byte of B. -/
theorem shiftRow_holds {i : Instr} {w op : Nat} {d a : Nat} {b : Src} {l m : Bool} (hw : 32 ∣ w)
    (hexec : ∀ s, exec i s = binaryWord 4 ⟨d, w / 32⟩ ⟨a, w / 32⟩ l b m false (fun _ x y => shiftOp w op x (y % 256)) s) :
    (binaryRow i 4 ⟨d, w / 32⟩ ⟨a, w / 32⟩ l b m (fun x y => shiftRule w op x (y % 256))).Holds :=
  binaryRow_holds hexec fun x y => wordsOf_shiftOp hw op x (y % 256)

/-- A row of R152 holds when its instruction shifts by the unary frame, by its immediate. -/
theorem shiftImmRow_holds {i : Instr} {w op d a n : Nat} {l : Bool} (hw : 32 ∣ w)
    (hexec : ∀ s, exec i s = unaryWord 4 ⟨d, w / 32⟩ ⟨a, w / 32⟩ l (fun x => shiftOp w op x n) s) :
    (unaryRow i 4 ⟨d, w / 32⟩ ⟨a, w / 32⟩ l (fun x => shiftRule w op x n)).Holds :=
  unaryRow_holds hexec fun x => wordsOf_shiftOp hw op x n

/-- The rows of R151 and R153 hold, of either width. -/
theorem shiftRows_hold (d a : Nat) (l : Bool) (b : Nat) (m : Bool) :
    ∀ r ∈ shiftRows 32 narrow d a l b m ++ shiftRows 64 wide d a l b m, r.Holds := by
  simp only [shiftRows, List.forall_mem_append, List.forall_mem_cons, List.not_mem_nil, false_imp_iff, implies_true, and_true]
  refine ⟨⟨?shl32, ?shr32, ?shra32, ?rot32, ?bfxI32, ?bfxN32⟩, ?shl64, ?shr64, ?shra64, ?rot64, ?bfxI64, ?bfxN64⟩
  case shl32 | shr32 | shra32 | rot32 | shl64 | shr64 | shra64 | rot64 => exact shiftRow_holds (by decide) fun _ => rfl
  case bfxI32 | bfxN32 | bfxI64 | bfxN64 => exact binaryRow_holds (fun _ => rfl) fun _ _ => rfl

/-- The rows of R152 hold, of either width. -/
theorem shiftImmRows_hold (d a : Nat) (l w : Bool) (n : Nat) : ∀ r ∈ shiftImmRows d a l w n, r.Holds := by
  have hwidth : 32 ∣ (if w then 64 else 32) := by cases w <;> decide
  simp only [shiftImmRows, List.forall_mem_cons, List.not_mem_nil, false_imp_iff, implies_true, and_true]
  refine ⟨?_, ?_, ?_, ?_⟩ <;> exact shiftImmRow_holds hwidth fun _ => rfl

/-- Settles O5: the words of each width shift and extract by the shared frames, with the destination words of R151 to R153. -/
theorem shiftsComplete : Obligations.ShiftsComplete := by
  intro d a l b m w n
  exact List.forall_mem_append.2 ⟨shiftRows_hold d a l b m, shiftImmRows_hold d a l w n⟩

end Machine
end Sys2Proof
end

section
/-! PROOFS. The other integer words that write results (R146, R148 to R150, R153 to R156): products, orders, counts, carries, selections,
addresses and immediates, each by the shared frame it issues by. -/

namespace Sys2Proof
namespace Machine

-- ---------------------------------------------------------------- rows

/-- A word whose body only writes results issues with them in flight. -/
theorem issue_result {s : State} {t : Thread} {i : Thread → Issue} {lat : Nat} {dests : List Nat} {vals : Args → List Nat}
    (h : s.Issues t (i t)) : issue s i (fun x s1 => .ok (s1.result x lat dests (vals x))) =
      .next (s.issuedResult t (i t) lat dests (vals (s.argsOf t (i t)))) :=
  issue_ok h rfl (h.room_result _ _ _)

/-- A row of three operands holds when its instruction runs by the ternary frame with the row's function. -/
theorem ternaryRow_holds {i : Instr} {lat : Nat} {d a b c : Src} {l m : Bool} {f : Nat → Nat → Nat → Nat}
    (hexec : ∀ s, exec i s = ternaryWord lat d a l b m c f s) : (ternaryRow i lat d a l b m c f).Holds := by
  intro s t h
  exact (hexec s).trans (ternaryWord_next h)

/-- A row of a register and an immediate holds when its instruction runs by the immediate frame and gives the same words. -/
theorem immRow_holds {i : Instr} {d a : Src} {l sat : Bool} {n : Nat} {f g : Bool → Nat → Nat → Nat}
    (hexec : ∀ s, exec i s = immWord 4 d a l n sat g s)
    (hwords : ∀ k x y, wordsOf d.n (g k x y) = wordsOf d.n (f k x y)) : (immRow i d a l sat n f).Holds := by
  intro s t h
  exact (hexec s).trans ((immWord_next h).trans (by rw [hwords]; rfl))

-- ---------------------------------------------------------------- products, orders, ABS and NEG

/-- The upper half of a signed product is R146's. -/
theorem mulHi_signed (w a b : Nat) : mulHi w true a b = wrap (sext a w * sext b w / ((2 ^ w : Nat) : Int)) w := rfl

/-- The upper half of an unsigned product is R146's, cut to its width. -/
theorem mulHi_unsigned (w a b : Nat) : mulHi w false a b = a * b / 2 ^ w % 2 ^ w := rfl

/-- MIN is R148's, whichever the signedness. -/
theorem minMax_min (w : Nat) (signed : Bool) (a b : Nat) :
    minMax w signed false a b = if (if signed then sext a w < sext b w else a < b) then a else b := by
  cases signed <;> simp [minMax]

/-- MAX is R148's, whichever the signedness. -/
theorem minMax_max (w : Nat) (signed : Bool) (a b : Nat) :
    minMax w signed true a b = if (if signed then sext a w < sext b w else a < b) then b else a := by
  cases signed <;> simp only [minMax, if_true, Bool.false_eq_true, if_false, bne_iff_ne, ne_eq, decide_eq_true_eq, ite_not]

/-- ABS is the absolute value, wrapped (R148). -/
theorem absInt_eq_abs (w a : Nat) : absInt w a = wrap |sext a w| w := by
  rw [absInt, Int.natCast_natAbs]

/-- The rows of R146 and R148 hold, of either width. -/
theorem arithmeticRows_hold (d a : Nat) (l : Bool) (b : Nat) (m : Bool) :
    ∀ r ∈ arithmeticRows 32 narrow 6 d a l b m ++ arithmeticRows 64 wide 10 d a l b m, r.Holds := by
  simp only [arithmeticRows, List.forall_mem_append, List.forall_mem_cons, List.not_mem_nil, false_imp_iff, implies_true, and_true]
  refine ⟨⟨?lo32, ?hiI32, ?hiN32, ?minI32, ?minN32, ?maxI32, ?maxN32, ?abs32, ?neg32⟩,
    ?lo64, ?hiI64, ?hiN64, ?minI64, ?minN64, ?maxI64, ?maxN64, ?abs64, ?neg64⟩
  case lo32 | lo64 | hiI32 | hiI64 => exact binaryRow_holds (fun _ => rfl) fun _ _ => rfl
  case hiN32 => exact binaryRow_holds (fun _ => rfl) fun x y => (congrArg _ (mulHi_unsigned 32 x y)).trans (wordsOf_mod 1 _)
  case hiN64 => exact binaryRow_holds (fun _ => rfl) fun x y => (congrArg _ (mulHi_unsigned 64 x y)).trans (wordsOf_mod 2 _)
  case minI32 | minI64 => exact binaryRow_holds (fun _ => rfl) fun x y => congrArg _ (minMax_min _ true x y)
  case minN32 | minN64 => exact binaryRow_holds (fun _ => rfl) fun x y => congrArg _ (minMax_min _ false x y)
  case maxI32 | maxI64 => exact binaryRow_holds (fun _ => rfl) fun x y => congrArg _ (minMax_max _ true x y)
  case maxN32 | maxN64 => exact binaryRow_holds (fun _ => rfl) fun x y => congrArg _ (minMax_max _ false x y)
  case abs32 | abs64 => exact unaryRow_holds (fun _ => rfl) fun x => congrArg _ (absInt_eq_abs _ x)
  case neg32 | neg64 => exact unaryRow_holds (fun _ => rfl) fun _ => rfl

/-- Settles O3: the words run by the shared frames, with R146's products and R148's orders. -/
theorem integerArithmeticCompletes : Obligations.IntegerArithmeticCompletes := arithmeticRows_hold

-- ---------------------------------------------------------------- bitwise operations, counts, moves

/-- The 32-bit rows of R148 hold. -/
theorem logicRows_narrow_hold (d a : Nat) (l : Bool) (b : Nat) (m : Bool) : ∀ r ∈ logicRows 32 narrow d a l b m, r.Holds := by
  simp only [logicRows, List.forall_mem_cons, List.not_mem_nil, false_imp_iff, implies_true, and_true]
  refine ⟨?and, ?or, ?xor, ?andn, ?not, ?mov, ?brev, ?popc, ?clz, ?ctz⟩
  case and | or | xor | andn => exact binaryRow_holds (fun _ => rfl) fun _ _ => rfl
  all_goals exact unaryRow_holds (fun _ => rfl) fun _ => rfl

/-- The 64-bit rows of R148 hold. -/
theorem logicRows_wide_hold (d a : Nat) (l : Bool) (b : Nat) (m : Bool) : ∀ r ∈ logicRows 64 wide d a l b m, r.Holds := by
  simp only [logicRows, List.forall_mem_cons, List.not_mem_nil, false_imp_iff, implies_true, and_true]
  refine ⟨?and, ?or, ?xor, ?andn, ?not, ?mov, ?brev, ?popc, ?clz, ?ctz⟩
  case and | or | xor | andn => exact binaryRow_holds (fun _ => rfl) fun _ _ => rfl
  all_goals exact unaryRow_holds (fun _ => rfl) fun _ => rfl

/-- Settles O4: the words run by the shared frames, with the very functions of R148. -/
theorem integerLogicCompletes : Obligations.IntegerLogicCompletes := fun d a l b m =>
  List.forall_mem_append.2 ⟨logicRows_narrow_hold d a l b m, logicRows_wide_hold d a l b m⟩

-- ---------------------------------------------------------------- carries, selections, addresses

/-- A sum with a carry in wraps to its value modulo 2^32 (R150). -/
theorem wrap_carrySum (x y k : Nat) : wrap ((x : Int) + y + k) 32 = (x + y + k) % 2 ^ 32 := wrap_natCast (x + y + k) 32

/-- ADDC carries out when the exact sum has a 33rd bit (R150). -/
theorem carryOut_toNat (x y k : Nat) : (decide ((x : Int) + y + k ≥ 2 ^ 32)).toNat = if 2 ^ 32 ≤ x + y + k then 1 else 0 := by
  rw [Bool.toNat, Bool.cond_decide]
  exact if_congr (by norm_cast) rfl rfl

/-- SUBB borrows when the exact difference is negative (R150). -/
theorem borrowOut_toNat (x y k : Nat) : (decide ((x : Int) - y - k < 0)).toNat = if x < y + k then 1 else 0 := by
  rw [Bool.toNat, Bool.cond_decide]
  exact if_congr (by omega) rfl rfl

/-- The result of ADDC or SUBB: the sum or difference with the predicate, and the carry or borrow (R150). -/
def carryVals (sub : Bool) (x y k : Nat) : List Nat :=
  if sub then [wrap ((x : Int) - y - k) 32, if x < y + k then 1 else 0] else [(x + y + k) % 2 ^ 32, if 2 ^ 32 ≤ x + y + k then 1 else 0]

/-- ADDC and SUBB that issue. -/
theorem carryWord_next {s : State} {t : Thread} (sub : Bool) {d a b p : Nat} {l m : Bool} (h : s.Issues t (carryForm d a l b m p true)) :
    carryWord sub d a l b m p s = .next (s.issuedResult t (carryForm d a l b m p true) 4 [d, 64 + p]
      (carryVals sub (srcOf t (carryForm d a l b m p true) 0) (srcOf t (carryForm d a l b m p true) 1) (t.pred p).toNat)) := by
  refine (issue_result (i := fun _ => carryForm d a l b m p true) h).trans ?_
  cases sub
  case false => rw [carryVals, if_neg Bool.false_ne_true, ← wrap_carrySum, ← carryOut_toNat]; rfl
  case true => rw [carryVals, if_pos rfl, ← borrowOut_toNat]; rfl

/-- The rows of ADDC, SUBB and SEL hold, and those of LEA, PERMB, BFI and MAD. -/
theorem mixedRows_hold (d a : Nat) (l : Bool) (b : Nat) (m : Bool) (c p : Nat) (x : Bool) (sh : Nat) :
    ∀ r ∈ mixedRows d a l b m c p x sh, r.Holds := by
  simp only [mixedRows, List.forall_mem_cons, List.not_mem_nil, false_imp_iff, implies_true, and_true]
  refine ⟨?addc, ?subb, ?sel, ?lea, ?permb, ?bfi, ?mad32, ?mad64⟩
  case addc => exact fun s t h => carryWord_next false h
  case subb => exact fun s t h => carryWord_next true h
  case sel => exact fun s t h => issue_result (i := fun _ => _) h
  case lea | permb => exact binaryRow_holds (fun _ => rfl) fun _ _ => rfl
  case bfi | mad32 | mad64 => exact ternaryRow_holds fun _ => rfl

/-- Settles O6: each word issues by its frame, with the value its rule gives. -/
theorem carriesSelectsAddressesComplete : Obligations.CarriesSelectsAddressesComplete := mixedRows_hold

-- ---------------------------------------------------------------- immediates

/-- Settles O7: the words with an immediate run by the immediate frame; MOVI has no register operand. -/
theorem immediatesComplete : Obligations.ImmediatesComplete := by
  intro d a l n
  simp only [immediateRows, List.forall_mem_cons, List.not_mem_nil, false_imp_iff, implies_true, and_true]
  refine ⟨?add32, ?and, ?or, ?xor, ?add64, ?movi⟩
  case movi => exact fun s t h => issue_result (i := fun _ => _) h
  case add32 => exact immRow_holds (fun _ => rfl) fun sat x y => by rw [addSub_eq_addRule]
  case add64 =>
    exact immRow_holds (g := fun sat x y => addSub 64 false true sat x (wrap (sext y 32) 64)) (fun _ => rfl) fun sat x y => by rw [addSub_eq_addRule]
  all_goals exact immRow_holds (fun _ => rfl) fun _ _ _ => rfl

end Machine
end Sys2Proof
end

section
/-! PROOFS. The floating-point words, the conversion, and the words that write a predicate (R157 to R182): a row holds when the machine
runs its instruction by the shared frame with the row's function. -/

namespace Sys2Proof
namespace Machine

-- ---------------------------------------------------------------- rows

/-- A word whose body only writes a floating-point result issues with it in flight. -/
theorem issue_floatResult {s : State} {t : Thread} {i : Thread → Issue} {lat mask : Nat} {dests : List Nat} {rc flags : Args → Nat}
    {vals : Args → List Nat} (h : s.Issues t (i t)) :
    issue s i (fun x s1 => .ok (s1.floatResult x lat (rc x) mask dests (vals x) (flags x))) =
      .next (s.issuedFloat t (i t) lat (rc (s.argsOf t (i t))) mask dests (vals (s.argsOf t (i t))) (flags (s.argsOf t (i t)))) :=
  issue_ok h rfl (h.room_float _ _ _ _ _ _)

/-- A row of one operand holds when its instruction runs by the floating-point frame of one operand. -/
theorem floatRow1_holds {i : Instr} {f : Fmt} {lat a : Nat} {d : Src} {l : Bool} {g : Nat → Nat → Nat × Nat}
    (hexec : ∀ s, exec i s = floatUnary f lat d a l g s) : (floatRow1 i f lat d a l g).Holds := by
  intro s t h v hv
  exact (hexec s).trans (floatUnary_next h v hv)

/-- A row of two operands holds when its instruction runs by the floating-point frame of two operands. -/
theorem floatRow2_holds {i : Instr} {f : Fmt} {lat d a : Nat} {l m : Bool} {b : Src} {g : Nat → Nat → Nat → Nat × Nat}
    (hexec : ∀ s, exec i s = floatBinary f lat d a l b m g s) : (floatRow2 i f lat d a l b m g).Holds := by
  intro s t h v hv
  exact (hexec s).trans (floatBinary_next h v hv)

/-- A row of FFMA holds when its instruction runs by the fused frame. -/
theorem fmaRow_holds {i : Instr} {f : Fmt} {lat d a b c : Nat} {l m : Bool}
    (hexec : ∀ s, exec i s = floatFma f lat d a l b m c s) : (fmaRow i f lat d a l b m c).Holds := by
  intro s t h v hv
  exact (hexec s).trans (floatFma_next h v hv)

-- ---------------------------------------------------------------- arithmetic, order and sign, elementary functions

/-- Settles O8: the sums, products and quotients run by the frame of two operands, FFMA by its own. -/
theorem floatArithmeticCompletes : Obligations.FloatArithmeticCompletes := by
  intro d a l b m c
  simp only [floatArithmeticRows, List.forall_mem_cons, List.not_mem_nil, false_imp_iff, implies_true, and_true]
  refine ⟨?add32, ?sub32, ?mul32, ?div32, ?add64, ?sub64, ?mul64, ?div64, ?add16, ?sub16, ?mul16, ?addBf, ?subBf, ?mulBf,
    ?fma32, ?fma64, ?fma16, ?fmaBf⟩
  case fma32 | fma64 | fma16 | fmaBf => exact fmaRow_holds fun _ => rfl
  all_goals exact floatRow2_holds fun _ => rfl

/-- The rows of R171 to R174 in one format hold when the seven instructions run by the shared frames with the rows' functions. -/
theorem floatOtherRows_hold {f : Fmt} {lat d a : Nat} {l : Bool} {b : Nat} {m : Bool} {fmin fmax fabs fneg fcls fscl frnt : Instr}
    (hmin : ∀ s, exec fmin s = floatBinary f lat d a l (fshape f b) m (fun _ x y => fminmax f false x y) s)
    (hmax : ∀ s, exec fmax s = floatBinary f lat d a l (fshape f b) m (fun _ x y => fminmax f true x y) s)
    (habs : ∀ s, exec fabs s = floatUnary f lat (fshape f d) a l (fun _ x => (x % 2 ^ (f.width - 1), 0)) s)
    (hneg : ∀ s, exec fneg s = floatUnary f lat (fshape f d) a l (fun _ x => ((x % 2 ^ f.width) ^^^ 2 ^ (f.width - 1), 0)) s)
    (hcls : ∀ s, exec fcls s = floatUnary f lat ⟨d, 1⟩ a l (fun _ x => (fclass f x, 0)) s)
    (hscl : ∀ s, exec fscl s = floatBinary f lat d a l ⟨b, 1⟩ m (fun rc x n => fscale f rc (decodeFloat f x) (sext n 32)) s)
    (hrnt : ∀ s, exec frnt s = floatUnary f lat (fshape f d) a l (fun rc x => frint f rc (decodeFloat f x)) s) :
    ∀ r ∈ floatOtherRows f lat d a l b m fmin fmax fabs fneg fcls fscl frnt, r.Holds := by
  simp only [floatOtherRows, List.forall_mem_cons, List.not_mem_nil, false_imp_iff, implies_true, and_true]
  exact ⟨floatRow2_holds hmin, floatRow2_holds hmax, floatRow1_holds habs, floatRow1_holds hneg, floatRow1_holds hcls,
    floatRow2_holds hscl, floatRow1_holds hrnt⟩

/-- Settles O9: in each of the four formats the seven words run by the shared frames. -/
theorem floatOrderAndSignComplete : Obligations.FloatOrderAndSignComplete := by
  intro d a l b m
  simp only [List.forall_mem_append]
  refine ⟨⟨⟨?f32, ?f64⟩, ?f16⟩, ?bf16⟩ <;>
    exact floatOtherRows_hold (fun _ => rfl) (fun _ => rfl) (fun _ => rfl) (fun _ => rfl) (fun _ => rfl) (fun _ => rfl) fun _ => rfl

/-- Settles O10: the seven functions of either format run by the frame of one operand. -/
theorem elementaryFunctionsComplete : Obligations.ElementaryFunctionsComplete := by
  intro d a l
  simp only [elementaryRows, List.forall_mem_cons, List.not_mem_nil, false_imp_iff, implies_true, and_true]
  refine ⟨?sqrt32, ?rcp32, ?rsq32, ?exp32, ?log32, ?sin32, ?cos32, ?sqrt64, ?rcp64, ?rsq64, ?exp64, ?log64, ?sin64, ?cos64⟩ <;>
    exact floatRow1_holds fun _ => rfl

-- ---------------------------------------------------------------- conversion

/-- Settles O11: CVT issues by the form its slot gives, and converts between the formats that the slot's codes name. -/
theorem conversionCompletes : Obligations.ConversionCompletes := by
  rintro s t d a l b m k x rfl h fa fd v hfa hfd rfl
  obtain rfl : (Fmt.ofCode (s.slotOf t k).fa).getD .b1 = fa := by rw [hfa]; rfl
  obtain rfl : (Fmt.ofCode (s.slotOf t k).fd).getD .b1 = fd := by rw [hfd]; rfl
  exact issue_ok h rfl (h.room_float _ _ _ _ _ _)

-- ---------------------------------------------------------------- comparisons and predicates

/-- CMP that issues: by an integer type with its outcome, by a floating-point type with its flags too (R157). -/
theorem cmpWord_next {s : State} {t : Thread} {p c a b o ty : Nat} {l m : Bool} (h : s.Issues t (cmpForm s t p c a l b m ty)) :
    ∀ r, r = compareBy ty o (srcOf t (cmpForm s t p c a l b m ty) 0) (srcOf t (cmpForm s t p c a l b m ty) 1) →
      exec (.cmp p c a l b m o ty) s = .next (if ty < 4
        then s.issuedResult t (cmpForm s t p c a l b m ty) 4 [64 + p] [(combine c (t.pred p) r.1).toNat]
        else s.issuedFloat t (cmpForm s t p c a l b m ty) 4 (roundingCode t) holdMask [64 + p] [(combine c (t.pred p) r.1).toNat] r.2) := by
  rintro r rfl
  by_cases hty : ty < 4
  · exact issue_ok (i := fun t => cmpForm s t p c a l b m ty) h (by simp only [if_pos hty]; rfl) (by rw [if_pos hty]; exact h.room_result _ _ _)
  · exact issue_ok (i := fun t => cmpForm s t p c a l b m ty) h (by simp only [if_neg hty]; rfl) (by rw [if_neg hty]; exact h.room_float _ _ _ _ _ _)

/-- The value that CMB leaves in a predicate, as R158's rows write it. -/
theorem combine_eq (c : Nat) (old v : Bool) :
    combine c old v = if c = 0 then v else if c = 1 then old && v else if c = 2 then old || v else old ^^ v := by
  match c with
  | 0 | 1 | 2 => rfl
  | _ + 3 => rfl

/-- A predicate row holds when its instruction runs by the predicate frame with the row's function (R158). -/
theorem predRow_holds {i : Instr} {p c a b : Nat} {f : Bool → Bool → Bool} (hexec : ∀ s, exec i s = predWord p c a b f s) :
    ResultRow.Holds ⟨i, fun s t => predForm s t p c a b, 4, [64 + p], fun t _ =>
      let v := f (t.pred a) (t.pred b)
      [(if c = 0 then v else if c = 1 then t.pred p && v else if c = 2 then t.pred p || v else t.pred p ^^ v).toNat]⟩ := by
  intro s t h
  exact (hexec s).trans ((predWord_next h).trans (by rw [combine_eq]; rfl))

/-- Settles O12: CMP by its integer and its floating-point types, and the five predicate words by their shared frame. -/
theorem comparisonsAndPredicatesComplete : Obligations.ComparisonsAndPredicatesComplete := by
  refine ⟨fun s t p c a l b m o ty h => cmpWord_next h, fun p c a b => ?_⟩
  simp only [predicateRows, List.forall_mem_cons, List.not_mem_nil, false_imp_iff, implies_true, and_true]
  exact ⟨predRow_holds fun _ => rfl, predRow_holds fun _ => rfl, predRow_holds fun _ => rfl,
    predRow_holds (f := fun x _ => ! x) fun _ => rfl, predRow_holds (f := fun x _ => x) fun _ => rfl⟩

end Machine
end Sys2Proof
end

section
/-! PROOFS. The encodings, read from the words (R93 to R113): a row of the opcode map gives an instruction only from its own word, and each
bit of the word stands in a field or is fixed. -/

namespace Sys2Proof

-- ---------------------------------------------------------------- fields of a word

/-- A one-bit field as a number. -/
theorem flag_toNat (w k : Nat) : (flag w k).toNat = fld w k 1 := by
  rcases Nat.mod_two_eq_zero_or_one (w / 2 ^ k) with h | h <;> simp [flag, fld, h]

/-- The sum of adjacent fields of a word, each at its place: fields of the given widths, from bit lo up. -/
def tiles (w lo : Nat) : List Nat → Nat
  | [] => 0
  | n :: ns => fld w lo n * 2 ^ lo + tiles w (lo + n) ns

/-- Adjacent fields make up the bits they cover. -/
theorem tiles_eq (w lo : Nat) (ns : List Nat) : tiles w lo ns = fld w lo ns.sum * 2 ^ lo := by
  induction ns generalizing lo with
  | nil => simp [tiles, fld, Nat.mod_one]
  | cons n ns ih =>
    rw [tiles, ih, List.sum_cons, fld, fld, fld, pow_add 2 n, Nat.mod_mul, Nat.div_div_eq_div_mul, pow_add]
    ring

/-- A word is its major and the fields below it (R95). -/
theorem word_eq_tiles {w M : Nat} (hM : w / 2 ^ 26 = M) {ns : List Nat} (hsum : ns.sum = 26) : M * 2 ^ 26 + tiles w 0 ns = w := by
  rw [tiles_eq, hsum, ← hM, fld, Nat.pow_zero, Nat.div_one, Nat.mul_one]
  exact Nat.div_add_mod' w (2 ^ 26)

/-- The word of two operands is made of its major, its row and its fields. -/
theorem word_binary {w M k : Nat} (hM : w / 2 ^ 26 = M) (hk : fld w 0 6 = k) :
    word (M * 2 ^ 26 + k) [(fld w 20 6, 20), (fld w 14 6, 14), ((flag w 13).toNat, 13), (fld w 7 6, 7), ((flag w 6).toNat, 6)] = w := by
  refine Eq.trans ?_ (word_eq_tiles hM (ns := [6, 1, 6, 1, 6, 6]) rfl)
  simp only [word, flag_toNat, tiles, Nat.reduceAdd]
  omega

/-- The word of one operand is made of its major, its row and its fields. -/
theorem word_unary {w M k : Nat} (hM : w / 2 ^ 26 = M) (hk : fld w 0 13 = k) :
    word (M * 2 ^ 26 + k) [(fld w 20 6, 20), (fld w 14 6, 14), ((flag w 13).toNat, 13)] = w := by
  refine Eq.trans ?_ (word_eq_tiles hM (ns := [13, 1, 6, 6]) rfl)
  simp only [word, flag_toNat, tiles, Nat.reduceAdd]
  omega

-- ---------------------------------------------------------------- rows that read their own words

/-- A reading of a word gives only an instruction whose word it is. -/
def ReadsOwn (w : Nat) (r : Option Instr) : Prop := ∀ i, r = some i → encode i = w

theorem readsOwn_none (w : Nat) : ReadsOwn w none := by
  intro i h
  cases h

theorem readsOwn_some {w : Nat} {i : Instr} : ReadsOwn w (some i) ↔ encode i = w :=
  ⟨fun h => h i rfl, fun h j e => by cases e; exact h⟩

/-- A row and the rows after it: the condition of the row holds of the words that reach it. -/
theorem readsOwn_ite {w : Nat} {c : Prop} [Decidable c] {x y : Option Instr} (hx : c → ReadsOwn w x) (hy : ReadsOwn w y) :
    ReadsOwn w (if c then x else y) := by
  split
  · exact hx ‹_›
  · exact hy

/-- A row whose condition and fields cover the word, as its encoding puts them, and the rows after it. -/
theorem readsOwn_row {w M : Nat} (hM : w / 2 ^ 26 = M) {c : Prop} [Decidable c] {i : Instr} {y : Option Instr} (ns : List Nat)
    (hsum : ns.sum = 26) (hrow : c → encode i = M * 2 ^ 26 + tiles w 0 ns) (hy : ReadsOwn w y) :
    ReadsOwn w (if c then some i else y) :=
  readsOwn_ite (fun hk => readsOwn_some.2 ((hrow hk).trans (word_eq_tiles hM hsum))) hy

/-- The one row of a major, whose fields cover the word. -/
theorem readsOwn_last {w M : Nat} (hM : w / 2 ^ 26 = M) {i : Instr} (ns : List Nat) (hsum : ns.sum = 26)
    (hrow : encode i = M * 2 ^ 26 + tiles w 0 ns) : ReadsOwn w (some i) :=
  readsOwn_some.2 (hrow.trans (word_eq_tiles hM hsum))

/-- The rows of major 0x00 are read from their own words. -/
theorem readsOwn00 {w : Nat} (hM : w / 2 ^ 26 = 0x00) : ReadsOwn w (decodeMajor00 w) := by
  unfold decodeMajor00
  refine readsOwn_row hM [26] rfl (by simp only [encode, word, tiles]; omega) ?_
  exact readsOwn_none w

/-- The rows of major 0x01 are read from their own words. -/
theorem readsOwn01 {w : Nat} (hM : w / 2 ^ 26 = 0x01) : ReadsOwn w (decodeMajor01 w) := by
  unfold decodeMajor01
  repeat refine readsOwn_ite (fun hk => readsOwn_some.2 (by first | exact word_binary hM hk | exact word_unary hM hk)) ?_
  exact readsOwn_none w

/-- The rows of major 0x02 are read from their own words. -/
theorem readsOwn02 {w : Nat} (hM : w / 2 ^ 26 = 0x02) : ReadsOwn w (decodeMajor02 w) := by
  unfold decodeMajor02
  repeat refine readsOwn_ite (fun hk => readsOwn_some.2 (by first | exact word_binary hM hk | exact word_unary hM hk)) ?_
  exact readsOwn_none w

/-- The rows of major 0x03 are read from their own words. -/
theorem readsOwn03 {w : Nat} (hM : w / 2 ^ 26 = 0x03) : ReadsOwn w (decodeMajor03 w) := by
  unfold decodeMajor03
  repeat refine readsOwn_row hM [2, 4, 1, 6, 1, 6, 6] rfl (by simp only [encode, word, flag_toNat, tiles, Nat.reduceAdd]; omega) ?_
  exact readsOwn_none w

/-- The rows of major 0x04 are read from their own words. -/
theorem readsOwn04 {w : Nat} (hM : w / 2 ^ 26 = 0x04) : ReadsOwn w (decodeMajor04 w) := by
  unfold decodeMajor04
  refine readsOwn_row hM [3, 1, 2, 1, 6, 1, 6, 6] rfl (by simp only [encode, word, flag_toNat, tiles, Nat.reduceAdd]; omega) ?_
  exact readsOwn_none w

/-- The rows of major 0x05 are read from their own words. -/
theorem readsOwn05 {w : Nat} (hM : w / 2 ^ 26 = 0x05) : ReadsOwn w (decodeMajor05 w) :=
  readsOwn_last hM [6, 1, 6, 1, 6, 6] rfl (by simp only [encode, word, flag_toNat, tiles, Nat.reduceAdd]; omega)

/-- The rows of major 0x06 are read from their own words. -/
theorem readsOwn06 {w : Nat} (hM : w / 2 ^ 26 = 0x06) : ReadsOwn w (decodeMajor06 w) :=
  readsOwn_last hM [6, 1, 6, 1, 6, 6] rfl (by simp only [encode, word, flag_toNat, tiles, Nat.reduceAdd]; omega)

/-- The rows of major 0x07 are read from their own words. -/
theorem readsOwn07 {w : Nat} (hM : w / 2 ^ 26 = 0x07) : ReadsOwn w (decodeMajor07 w) :=
  readsOwn_last hM [6, 1, 6, 1, 6, 6] rfl (by simp only [encode, word, flag_toNat, tiles, Nat.reduceAdd]; omega)

/-- The rows of major 0x08 are read from their own words. -/
theorem readsOwn08 {w : Nat} (hM : w / 2 ^ 26 = 0x08) : ReadsOwn w (decodeMajor08 w) :=
  readsOwn_last hM [13, 1, 6, 6] rfl (by simp only [encode, word, flag_toNat, tiles, Nat.reduceAdd]; omega)

/-- The rows of major 0x09 are read from their own words. -/
theorem readsOwn09 {w : Nat} (hM : w / 2 ^ 26 = 0x09) : ReadsOwn w (decodeMajor09 w) :=
  readsOwn_last hM [13, 1, 6, 6] rfl (by simp only [encode, word, flag_toNat, tiles, Nat.reduceAdd]; omega)

/-- The rows of major 0x0A are read from their own words. -/
theorem readsOwn0a {w : Nat} (hM : w / 2 ^ 26 = 0x0a) : ReadsOwn w (decodeMajor0a w) :=
  readsOwn_last hM [13, 1, 6, 6] rfl (by simp only [encode, word, flag_toNat, tiles, Nat.reduceAdd]; omega)

/-- The rows of major 0x0B are read from their own words. -/
theorem readsOwn0b {w : Nat} (hM : w / 2 ^ 26 = 0x0b) : ReadsOwn w (decodeMajor0b w) :=
  readsOwn_last hM [13, 1, 6, 6] rfl (by simp only [encode, word, flag_toNat, tiles, Nat.reduceAdd]; omega)

/-- The rows of major 0x0C are read from their own words. -/
theorem readsOwn0c {w : Nat} (hM : w / 2 ^ 26 = 0x0c) : ReadsOwn w (decodeMajor0c w) := by
  unfold decodeMajor0c
  repeat refine readsOwn_row hM [6, 4, 1, 2, 1, 6, 6] rfl (by simp only [encode, word, flag_toNat, tiles, Nat.reduceAdd]; omega) ?_
  exact readsOwn_none w

/-- The rows of major 0x0D are read from their own words. -/
theorem readsOwn0d {w : Nat} (hM : w / 2 ^ 26 = 0x0d) : ReadsOwn w (decodeMajor0d w) := by
  unfold decodeMajor0d
  refine readsOwn_row hM [13, 7, 6] rfl (by simp only [encode, word, tiles, Nat.reduceAdd]; omega) ?_
  exact readsOwn_none w

/-- The rows of major 0x0E are read from their own words. -/
theorem readsOwn0e {w : Nat} (hM : w / 2 ^ 26 = 0x0e) : ReadsOwn w (decodeMajor0e w) :=
  readsOwn_last hM [13, 1, 6, 6] rfl (by simp only [encode, word, flag_toNat, tiles, Nat.reduceAdd]; omega)

/-- The rows of major 0x10 are read from their own words. -/
theorem readsOwn10 {w : Nat} (hM : w / 2 ^ 26 = 0x10) : ReadsOwn w (decodeMajor10 w) := by
  unfold decodeMajor10
  repeat refine readsOwn_ite (fun hk => readsOwn_some.2 (by first | exact word_binary hM hk | exact word_unary hM hk)) ?_
  exact readsOwn_none w

/-- The rows of major 0x11 are read from their own words. -/
theorem readsOwn11 {w : Nat} (hM : w / 2 ^ 26 = 0x11) : ReadsOwn w (decodeMajor11 w) := by
  unfold decodeMajor11
  repeat refine readsOwn_ite (fun hk => readsOwn_some.2 (by first | exact word_binary hM hk | exact word_unary hM hk)) ?_
  exact readsOwn_none w

/-- The rows of major 0x12 are read from their own words. -/
theorem readsOwn12 {w : Nat} (hM : w / 2 ^ 26 = 0x12) : ReadsOwn w (decodeMajor12 w) := by
  unfold decodeMajor12
  repeat refine readsOwn_ite (fun hk => readsOwn_some.2 (by first | exact word_binary hM hk | exact word_unary hM hk)) ?_
  exact readsOwn_none w

/-- The rows of major 0x13 are read from their own words. -/
theorem readsOwn13 {w : Nat} (hM : w / 2 ^ 26 = 0x13) : ReadsOwn w (decodeMajor13 w) := by
  unfold decodeMajor13
  repeat refine readsOwn_ite (fun hk => readsOwn_some.2 (by first | exact word_binary hM hk | exact word_unary hM hk)) ?_
  exact readsOwn_none w

/-- The rows of major 0x14 are read from their own words. -/
theorem readsOwn14 {w : Nat} (hM : w / 2 ^ 26 = 0x14) : ReadsOwn w (decodeMajor14 w) :=
  readsOwn_last hM [6, 1, 6, 1, 6, 6] rfl (by simp only [encode, word, flag_toNat, tiles, Nat.reduceAdd]; omega)

/-- The rows of major 0x15 are read from their own words. -/
theorem readsOwn15 {w : Nat} (hM : w / 2 ^ 26 = 0x15) : ReadsOwn w (decodeMajor15 w) :=
  readsOwn_last hM [6, 1, 6, 1, 6, 6] rfl (by simp only [encode, word, flag_toNat, tiles, Nat.reduceAdd]; omega)

/-- The rows of major 0x16 are read from their own words. -/
theorem readsOwn16 {w : Nat} (hM : w / 2 ^ 26 = 0x16) : ReadsOwn w (decodeMajor16 w) :=
  readsOwn_last hM [6, 1, 6, 1, 6, 6] rfl (by simp only [encode, word, flag_toNat, tiles, Nat.reduceAdd]; omega)

/-- The rows of major 0x17 are read from their own words. -/
theorem readsOwn17 {w : Nat} (hM : w / 2 ^ 26 = 0x17) : ReadsOwn w (decodeMajor17 w) :=
  readsOwn_last hM [6, 1, 6, 1, 6, 6] rfl (by simp only [encode, word, flag_toNat, tiles, Nat.reduceAdd]; omega)

/-- The rows of major 0x18 are read from their own words. -/
theorem readsOwn18 {w : Nat} (hM : w / 2 ^ 26 = 0x18) : ReadsOwn w (decodeMajor18 w) := by
  unfold decodeMajor18
  refine readsOwn_row hM [3, 3, 1, 6, 1, 6, 6] rfl (by simp only [encode, word, flag_toNat, tiles, Nat.reduceAdd]; omega) ?_
  exact readsOwn_none w

/-- The rows of major 0x20 are read from their own words. -/
theorem readsOwn20 {w : Nat} (hM : w / 2 ^ 26 = 0x20) : ReadsOwn w (decodeMajor20 w) :=
  readsOwn_last hM [3, 3, 1, 6, 1, 6, 2, 4] rfl (by simp only [encode, word, flag_toNat, tiles, Nat.reduceAdd]; omega)

/-- The rows of major 0x21 are read from their own words. -/
theorem readsOwn21 {w : Nat} (hM : w / 2 ^ 26 = 0x21) : ReadsOwn w (decodeMajor21 w) := by
  unfold decodeMajor21
  repeat refine readsOwn_row hM [7, 4, 3, 4, 2, 2, 4] rfl (by simp only [encode, word, tiles, Nat.reduceAdd]; omega) ?_
  repeat refine readsOwn_row hM [14, 4, 2, 2, 4] rfl (by simp only [encode, word, tiles, Nat.reduceAdd]; omega) ?_
  exact readsOwn_none w

/-- The rows of major 0x22 are read from their own words. -/
theorem readsOwn22 {w : Nat} (hM : w / 2 ^ 26 = 0x22) : ReadsOwn w (decodeMajor22 w) :=
  readsOwn_last hM [21, 1, 4] rfl (by simp only [encode, word, flag_toNat, tiles, Nat.reduceAdd]; omega)

/-- The rows of major 0x23 are read from their own words. -/
theorem readsOwn23 {w : Nat} (hM : w / 2 ^ 26 = 0x23) : ReadsOwn w (decodeMajor23 w) :=
  readsOwn_last hM [21, 1, 4] rfl (by simp only [encode, word, flag_toNat, tiles, Nat.reduceAdd]; omega)

/-- The rows of major 0x24 are read from their own words. -/
theorem readsOwn24 {w : Nat} (hM : w / 2 ^ 26 = 0x24) : ReadsOwn w (decodeMajor24 w) := by
  unfold decodeMajor24
  repeat refine readsOwn_row hM [13, 1, 6, 6] rfl (by simp only [encode, word, flag_toNat, tiles, Nat.reduceAdd]; omega) ?_
  repeat refine readsOwn_row hM [26] rfl (by simp only [encode, word, tiles]; omega) ?_
  refine readsOwn_row hM [6, 1, 3, 16] rfl (by simp only [encode, word, tiles, Nat.reduceAdd]; omega) ?_
  repeat refine readsOwn_row hM [10, 16] rfl (by simp only [encode, word, tiles, Nat.reduceAdd]; omega) ?_
  exact readsOwn_none w

/-- The rows of major 0x28 are read from their own words. -/
theorem readsOwn28 {w : Nat} (hM : w / 2 ^ 26 = 0x28) : ReadsOwn w (decodeMajor28 w) := by
  unfold decodeMajor28
  repeat refine readsOwn_row hM [3, 4, 6, 1, 6, 6] rfl (by simp only [encode, word, flag_toNat, tiles, Nat.reduceAdd]; omega) ?_
  repeat refine readsOwn_row hM [3, 4, 19] rfl (by simp only [encode, word, tiles, Nat.reduceAdd]; omega) ?_
  exact readsOwn_none w

/-- The rows of major 0x29 are read from their own words. -/
theorem readsOwn29 {w : Nat} (hM : w / 2 ^ 26 = 0x29) : ReadsOwn w (decodeMajor29 w) := by
  unfold decodeMajor29
  repeat refine readsOwn_row hM [2, 4, 1, 6, 1, 6, 6] rfl (by simp only [encode, word, flag_toNat, tiles, Nat.reduceAdd]; omega) ?_
  exact readsOwn_none w

/-- The rows of major 0x2A are read from their own words. -/
theorem readsOwn2a {w : Nat} (hM : w / 2 ^ 26 = 0x2a) : ReadsOwn w (decodeMajor2a w) := by
  unfold decodeMajor2a
  refine readsOwn_row hM [2, 4, 1, 1, 5, 1, 6, 6] rfl (by simp only [encode, word, flag_toNat, tiles, Nat.reduceAdd]; omega) ?_
  repeat refine readsOwn_row hM [2, 4, 4, 3, 1, 6, 6] rfl (by simp only [encode, word, flag_toNat, tiles, Nat.reduceAdd]; omega) ?_
  refine readsOwn_row hM [2, 4, 2, 6, 4, 2, 6] rfl (by simp only [encode, word, tiles, Nat.reduceAdd]; omega) ?_
  exact readsOwn_none w

/-- The rows of major 0x2C are read from their own words. -/
theorem readsOwn2c {w : Nat} (hM : w / 2 ^ 26 = 0x2c) : ReadsOwn w (decodeMajor2c w) := by
  unfold decodeMajor2c
  repeat refine readsOwn_row hM [3, 3, 4, 3, 1, 6, 6] rfl (by simp only [encode, word, flag_toNat, tiles, Nat.reduceAdd]; omega) ?_
  exact readsOwn_none w

/-- The rows of major 0x2D are read from their own words. -/
theorem readsOwn2d {w : Nat} (hM : w / 2 ^ 26 = 0x2d) : ReadsOwn w (decodeMajor2d w) := by
  unfold decodeMajor2d
  refine readsOwn_row hM [3, 3, 20] rfl (by simp only [encode, word, tiles, Nat.reduceAdd]; omega) ?_
  repeat refine readsOwn_row hM [3, 3, 7, 1, 6, 6] rfl (by simp only [encode, word, flag_toNat, tiles, Nat.reduceAdd]; omega) ?_
  refine readsOwn_row hM [3, 3, 3, 3, 1, 1, 6, 6] rfl (by simp only [encode, word, flag_toNat, tiles, Nat.reduceAdd]; omega) ?_
  refine readsOwn_row hM [3, 3, 3, 4, 1, 6, 6] rfl (by simp only [encode, word, flag_toNat, tiles, Nat.reduceAdd]; omega) ?_
  refine readsOwn_row hM [3, 3, 3, 17] rfl (by simp only [encode, word, tiles, Nat.reduceAdd]; omega) ?_
  exact readsOwn_none w

/-- The rows of major 0x30 are read from their own words. -/
theorem readsOwn30 {w : Nat} (hM : w / 2 ^ 26 = 0x30) : ReadsOwn w (decodeMajor30 w) :=
  readsOwn_last hM [8, 1, 4, 1, 6, 6] rfl (by simp only [encode, word, flag_toNat, tiles, Nat.reduceAdd]; omega)

/-- The rows of major 0x31 are read from their own words. -/
theorem readsOwn31 {w : Nat} (hM : w / 2 ^ 26 = 0x31) : ReadsOwn w (decodeMajor31 w) :=
  readsOwn_last hM [8, 1, 4, 1, 6, 6] rfl (by simp only [encode, word, flag_toNat, tiles, Nat.reduceAdd]; omega)

/-- The rows of major 0x32 are read from their own words. -/
theorem readsOwn32 {w : Nat} (hM : w / 2 ^ 26 = 0x32) : ReadsOwn w (decodeMajor32 w) :=
  readsOwn_last hM [8, 1, 4, 1, 6, 6] rfl (by simp only [encode, word, flag_toNat, tiles, Nat.reduceAdd]; omega)

/-- The rows of major 0x33 are read from their own words. -/
theorem readsOwn33 {w : Nat} (hM : w / 2 ^ 26 = 0x33) : ReadsOwn w (decodeMajor33 w) :=
  readsOwn_last hM [8, 1, 4, 1, 6, 6] rfl (by simp only [encode, word, flag_toNat, tiles, Nat.reduceAdd]; omega)

/-- The rows of major 0x34 are read from their own words. -/
theorem readsOwn34 {w : Nat} (hM : w / 2 ^ 26 = 0x34) : ReadsOwn w (decodeMajor34 w) :=
  readsOwn_last hM [8, 1, 4, 1, 6, 6] rfl (by simp only [encode, word, flag_toNat, tiles, Nat.reduceAdd]; omega)

/-- The rows of major 0x35 are read from their own words. -/
theorem readsOwn35 {w : Nat} (hM : w / 2 ^ 26 = 0x35) : ReadsOwn w (decodeMajor35 w) :=
  readsOwn_last hM [8, 1, 4, 1, 6, 6] rfl (by simp only [encode, word, flag_toNat, tiles, Nat.reduceAdd]; omega)

/-- The rows of major 0x36 are read from their own words. -/
theorem readsOwn36 {w : Nat} (hM : w / 2 ^ 26 = 0x36) : ReadsOwn w (decodeMajor36 w) := by
  unfold decodeMajor36
  repeat refine readsOwn_row hM [3, 2, 1, 4, 1, 2, 1, 6, 6] rfl (by simp only [encode, word, flag_toNat, tiles, Nat.reduceAdd]; omega) ?_
  exact readsOwn_none w

/-- The rows of major 0x37 are read from their own words. -/
theorem readsOwn37 {w : Nat} (hM : w / 2 ^ 26 = 0x37) : ReadsOwn w (decodeMajor37 w) := by
  unfold decodeMajor37
  repeat refine readsOwn_row hM [4, 3, 4, 1, 1, 1, 6, 6] rfl (by simp only [encode, word, flag_toNat, tiles, Nat.reduceAdd]; omega) ?_
  refine readsOwn_row hM [4, 3, 19] rfl (by simp only [encode, word, tiles, Nat.reduceAdd]; omega) ?_
  refine readsOwn_row hM [4, 3, 4, 1, 1, 1, 6, 6] rfl (by simp only [encode, word, flag_toNat, tiles, Nat.reduceAdd]; omega) ?_
  refine readsOwn_row hM [4, 3, 5, 1, 1, 6, 6] rfl (by simp only [encode, word, flag_toNat, tiles, Nat.reduceAdd]; omega) ?_
  repeat refine readsOwn_row hM [13, 1, 6, 6] rfl (by simp only [encode, word, flag_toNat, tiles, Nat.reduceAdd]; omega) ?_
  exact readsOwn_none w

/-- The rows of major 0x38 are read from their own words. -/
theorem readsOwn38 {w : Nat} (hM : w / 2 ^ 26 = 0x38) : ReadsOwn w (decodeMajor38 w) := by
  unfold decodeMajor38
  refine readsOwn_row hM [3, 2, 2, 6, 1, 6, 6] rfl (by simp only [encode, word, flag_toNat, tiles, Nat.reduceAdd]; omega) ?_
  refine readsOwn_row hM [3, 2, 8, 1, 6, 6] rfl (by simp only [encode, word, flag_toNat, tiles, Nat.reduceAdd]; omega) ?_
  exact readsOwn_none w

/-- The rows of major 0x39 are read from their own words. -/
theorem readsOwn39 {w : Nat} (hM : w / 2 ^ 26 = 0x39) : ReadsOwn w (decodeMajor39 w) := by
  unfold decodeMajor39
  repeat refine readsOwn_row hM [3, 2, 2, 6, 1, 6, 6] rfl (by simp only [encode, word, flag_toNat, tiles, Nat.reduceAdd]; omega) ?_
  exact readsOwn_none w

/-- The rows of major 0x3A are read from their own words. -/
theorem readsOwn3a {w : Nat} (hM : w / 2 ^ 26 = 0x3a) : ReadsOwn w (decodeMajor3a w) := by
  unfold decodeMajor3a
  refine readsOwn_row hM [4, 9, 13] rfl (by simp only [encode, word, tiles, Nat.reduceAdd]; omega) ?_
  refine readsOwn_row hM [26] rfl (by simp only [encode, word, tiles]; omega) ?_
  refine readsOwn_row hM [4, 9, 1, 6, 6] rfl (by simp only [encode, word, tiles, Nat.reduceAdd]; omega) ?_
  repeat refine readsOwn_row hM [4, 2, 3, 5, 6, 6] rfl (by simp only [encode, word, tiles, Nat.reduceAdd]; omega) ?_
  refine readsOwn_row hM [20, 6] rfl (by simp only [encode, word, tiles, Nat.reduceAdd]; omega) ?_
  refine readsOwn_row hM [4, 4, 12, 6] rfl (by simp only [encode, word, tiles, Nat.reduceAdd]; omega) ?_
  refine readsOwn_row hM [4, 9, 1, 6, 6] rfl (by simp only [encode, word, tiles, Nat.reduceAdd]; omega) ?_
  refine readsOwn_row hM [26] rfl (by simp only [encode, word, tiles]; omega) ?_
  exact readsOwn_none w

/-- The rows of major 0x3B are read from their own words. -/
theorem readsOwn3b {w : Nat} (hM : w / 2 ^ 26 = 0x3b) : ReadsOwn w (decodeMajor3b w) := by
  unfold decodeMajor3b
  repeat refine readsOwn_row hM [4, 2, 3, 4, 1, 6, 6] rfl (by simp only [encode, word, flag_toNat, tiles, Nat.reduceAdd]; omega) ?_
  refine readsOwn_row hM [6, 3, 4, 1, 6, 6] rfl (by simp only [encode, word, flag_toNat, tiles, Nat.reduceAdd]; omega) ?_
  refine readsOwn_row hM [4, 2, 2, 5, 1, 6, 6] rfl (by simp only [encode, word, flag_toNat, tiles, Nat.reduceAdd]; omega) ?_
  refine readsOwn_row hM [13, 1, 6, 6] rfl (by simp only [encode, word, flag_toNat, tiles, Nat.reduceAdd]; omega) ?_
  repeat refine readsOwn_row hM [4, 4, 5, 1, 6, 6] rfl (by simp only [encode, word, flag_toNat, tiles, Nat.reduceAdd]; omega) ?_
  refine readsOwn_row hM [4, 4, 2, 3, 1, 6, 6] rfl (by simp only [encode, word, flag_toNat, tiles, Nat.reduceAdd]; omega) ?_
  exact readsOwn_none w

/-- The rows of major 0x3C are read from their own words. -/
theorem readsOwn3c {w : Nat} (hM : w / 2 ^ 26 = 0x3c) : ReadsOwn w (decodeMajor3c w) := by
  unfold decodeMajor3c
  refine readsOwn_row hM [4, 3, 1, 5, 1, 6, 6] rfl (by simp only [encode, word, flag_toNat, tiles, Nat.reduceAdd]; omega) ?_
  repeat refine readsOwn_row hM [13, 1, 6, 6] rfl (by simp only [encode, word, flag_toNat, tiles, Nat.reduceAdd]; omega) ?_
  refine readsOwn_row hM [20, 6] rfl (by simp only [encode, word, tiles, Nat.reduceAdd]; omega) ?_
  refine readsOwn_row hM [6, 1, 6, 1, 6, 6] rfl (by simp only [encode, word, flag_toNat, tiles, Nat.reduceAdd]; omega) ?_
  refine readsOwn_row hM [4, 1, 1, 1, 6, 1, 6, 6] rfl (by simp only [encode, word, flag_toNat, tiles, Nat.reduceAdd]; omega) ?_
  exact readsOwn_none w

/-- The rows of major 0x3D are read from their own words. -/
theorem readsOwn3d {w : Nat} (hM : w / 2 ^ 26 = 0x3d) : ReadsOwn w (decodeMajor3d w) := by
  unfold decodeMajor3d
  refine readsOwn_row hM [3, 10, 7, 6] rfl (by simp only [encode, word, tiles, Nat.reduceAdd]; omega) ?_
  refine readsOwn_row hM [3, 10, 1, 6, 6] rfl (by simp only [encode, word, flag_toNat, tiles, Nat.reduceAdd]; omega) ?_
  repeat refine readsOwn_row hM [13, 1, 6, 6] rfl (by simp only [encode, word, flag_toNat, tiles, Nat.reduceAdd]; omega) ?_
  exact readsOwn_none w

/-- The rows of major 0x3F are read from their own words. -/
theorem readsOwn3f {w : Nat} (hM : w / 2 ^ 26 = 0x3f) : ReadsOwn w (decodeMajor3f w) := by
  unfold decodeMajor3f
  refine readsOwn_row hM [22, 4] rfl (by simp only [encode, word, tiles, Nat.reduceAdd]; omega) ?_
  refine readsOwn_row hM [3, 1, 1, 3, 3, 2, 9, 4] rfl (by simp only [encode, word, flag_toNat, tiles, Nat.reduceAdd]; omega) ?_
  refine readsOwn_row hM [1, 1, 20, 4] rfl (by simp only [encode, word, flag_toNat, tiles, Nat.reduceAdd]; omega) ?_
  refine readsOwn_row hM [1, 21, 4] rfl (by simp only [encode, word, flag_toNat, tiles, Nat.reduceAdd]; omega) ?_
  exact readsOwn_none w

/-- Every row of the opcode map is read from its own words (R104). -/
theorem readsOwn_decodeRow (w : Nat) : ReadsOwn w (decodeRow w) := by
  unfold decodeRow
  split
  · exact readsOwn00 ‹_›
  · exact readsOwn01 ‹_›
  · exact readsOwn02 ‹_›
  · exact readsOwn03 ‹_›
  · exact readsOwn04 ‹_›
  · exact readsOwn05 ‹_›
  · exact readsOwn06 ‹_›
  · exact readsOwn07 ‹_›
  · exact readsOwn08 ‹_›
  · exact readsOwn09 ‹_›
  · exact readsOwn0a ‹_›
  · exact readsOwn0b ‹_›
  · exact readsOwn0c ‹_›
  · exact readsOwn0d ‹_›
  · exact readsOwn0e ‹_›
  · exact readsOwn10 ‹_›
  · exact readsOwn11 ‹_›
  · exact readsOwn12 ‹_›
  · exact readsOwn13 ‹_›
  · exact readsOwn14 ‹_›
  · exact readsOwn15 ‹_›
  · exact readsOwn16 ‹_›
  · exact readsOwn17 ‹_›
  · exact readsOwn18 ‹_›
  · exact readsOwn20 ‹_›
  · exact readsOwn21 ‹_›
  · exact readsOwn22 ‹_›
  · exact readsOwn23 ‹_›
  · exact readsOwn24 ‹_›
  · exact readsOwn28 ‹_›
  · exact readsOwn29 ‹_›
  · exact readsOwn2a ‹_›
  · exact readsOwn2c ‹_›
  · exact readsOwn2d ‹_›
  · exact readsOwn30 ‹_›
  · exact readsOwn31 ‹_›
  · exact readsOwn32 ‹_›
  · exact readsOwn33 ‹_›
  · exact readsOwn34 ‹_›
  · exact readsOwn35 ‹_›
  · exact readsOwn36 ‹_›
  · exact readsOwn37 ‹_›
  · exact readsOwn38 ‹_›
  · exact readsOwn39 ‹_›
  · exact readsOwn3a ‹_›
  · exact readsOwn3b ‹_›
  · exact readsOwn3c ‹_›
  · exact readsOwn3d ‹_›
  · exact readsOwn3f ‹_›
  · exact readsOwn_none w
-- ---------------------------------------------------------------- the whole decoder

/-- An instruction without a flaw is well formed. -/
theorem Instr.wellFormed_of_flaw_none {i : Instr} (h : i.flaw = none) : i.wellFormed = true := by
  unfold Instr.flaw at h
  split_ifs at h with hevent hfits
  have hchecks : ∀ c ∈ i.checks, c.ok = true := by simpa using h
  simp only [Instr.wellFormed, Bool.and_eq_true, List.all_eq_true]
  exact ⟨⟨by simp [hevent], by simpa using hfits⟩, hchecks⟩

/-- A word decodes to the instruction of its row, when that has no flaw. -/
theorem decodeWord_ok_iff {w : Nat} {i : Instr} : decodeWord w = .ok i ↔ decodeRow w = some i ∧ i.flaw = none := by
  unfold decodeWord
  split
  · next h => simp [h]
  · next j h =>
    split
    · next f hf => simp only [h, reduceCtorEq, Option.some.injEq, false_iff, not_and]; rintro rfl; simp [hf]
    · next hf => simp only [h, Except.ok.injEq, Option.some.injEq]; exact ⟨fun e => ⟨e, e ▸ hf⟩, fun e => e.1⟩

/-- Settles O49: the row that a word decodes by reads its own words only, and an instruction without a flaw is well formed. -/
theorem aWordThatDecodesIsTheWordOfItsInstruction : Obligations.AWordThatDecodesIsTheWordOfItsInstruction := by
  intro w i _ h
  obtain ⟨hrow, hflaw⟩ := decodeWord_ok_iff.1 h
  exact ⟨Instr.wellFormed_of_flaw_none hflaw, readsOwn_decodeRow w i hrow⟩

end Sys2Proof
end

section
/-! PROOFS. The encodings, read from the instructions (R93 to R111, R374): the word of an instruction whose fields fit holds each of them at
its place, and the opcode map picks its row by the bits that the row fixes. -/

namespace Sys2Proof

/-- The word of an instruction gives it back, under the one name of its word. -/
def ReadBack (i : Instr) : Prop := i.fits = true → ∀ w, w = encode i → decodeRow w = some i.canon

-- ---------------------------------------------------------------- fields of an encoding

/-- A one-bit field by its number. -/
theorem flag_of_toNat {w k : Nat} {l : Bool} (h : w / 2 ^ k % 2 = l.toNat) : flag w k = l := by
  rw [flag, h]
  cases l <;> rfl

/-- The low 13 bits are the low 6 and the 7 above them. -/
theorem fld_zero_thirteen {w k : Nat} : fld w 0 13 = k ↔ fld w 0 6 = k % 64 ∧ fld w 6 7 = k / 64 := by
  simp only [fld]
  omega

/-- The fields of a word of two operands. -/
theorem fields_binary {w f d a b : Nat} {l m : Bool} (hw : w = word f [(d, 20), (a, 14), (l.toNat, 13), (b, 7), (m.toNat, 6)])
    (hf : f % 2 ^ 26 < 64) (h : (decide (d < 64) && decide (a < 64) && decide (b < 64)) = true) :
    w / 2 ^ 26 = f / 2 ^ 26 ∧ fld w 0 6 = f % 64 ∧ fld w 20 6 = d ∧ fld w 14 6 = a ∧ flag w 13 = l ∧ fld w 7 6 = b ∧ flag w 6 = m := by
  have hl := Bool.toNat_le l
  have hm := Bool.toNat_le m
  simp only [word] at hw
  simp only [Bool.and_eq_true, decide_eq_true_eq] at h
  simp only [fld]
  exact ⟨by omega, by omega, by omega, by omega, flag_of_toNat (by omega), by omega, flag_of_toNat (by omega)⟩

/-- The fields of a word of one operand. -/
theorem fields_unary {w f d a : Nat} {l : Bool} (hw : w = word f [(d, 20), (a, 14), (l.toNat, 13)]) (hf : f % 2 ^ 26 < 64)
    (h : (decide (d < 64) && decide (a < 64)) = true) :
    w / 2 ^ 26 = f / 2 ^ 26 ∧ fld w 0 6 = f % 64 ∧ fld w 6 7 = 0 ∧ fld w 20 6 = d ∧ fld w 14 6 = a ∧ flag w 13 = l := by
  have hl := Bool.toNat_le l
  simp only [word] at hw
  simp only [Bool.and_eq_true, decide_eq_true_eq] at h
  simp only [fld]
  exact ⟨by omega, by omega, by omega, by omega, by omega, flag_of_toNat (by omega)⟩

/-- The fields of a word of three operands. -/
theorem fields_fused {w f d a b c : Nat} {l m : Bool}
    (hw : w = word f [(d, 20), (a, 14), (l.toNat, 13), (b, 7), (m.toNat, 6), (c, 0)]) (hf : f % 2 ^ 26 = 0)
    (h : (decide (d < 64) && decide (a < 64) && decide (b < 64) && decide (c < 64)) = true) :
    w / 2 ^ 26 = f / 2 ^ 26 ∧ fld w 20 6 = d ∧ fld w 14 6 = a ∧ flag w 13 = l ∧ fld w 7 6 = b ∧ flag w 6 = m ∧ fld w 0 6 = c := by
  have hl := Bool.toNat_le l
  have hm := Bool.toNat_le m
  simp only [word] at hw
  simp only [Bool.and_eq_true, decide_eq_true_eq] at h
  simp only [fld]
  exact ⟨by omega, by omega, by omega, flag_of_toNat (by omega), by omega, flag_of_toNat (by omega), by omega⟩

/-- The fields of a word with an immediate of 13 bits. -/
theorem fields_immediate {w f d a n : Nat} {l : Bool} (hw : w = word f [(d, 20), (a, 14), (l.toNat, 13), (n, 0)]) (hf : f % 2 ^ 26 = 0)
    (h : (decide (d < 64) && decide (a < 64) && decide (n < 8192)) = true) :
    w / 2 ^ 26 = f / 2 ^ 26 ∧ fld w 20 6 = d ∧ fld w 14 6 = a ∧ flag w 13 = l ∧ fld w 0 13 = n := by
  have hl := Bool.toNat_le l
  simp only [word] at hw
  simp only [Bool.and_eq_true, decide_eq_true_eq] at h
  simp only [fld]
  exact ⟨by omega, by omega, by omega, flag_of_toNat (by omega), by omega⟩

/-- The fields of a load or store with an offset of 8 bits. -/
theorem fields_access {w f d a g o : Nat} {l s : Bool}
    (hw : w = word f [(d, 20), (a, 14), (l.toNat, 13), (g, 9), (s.toNat, 8), (o, 0)]) (hf : f % 2 ^ 26 = 0)
    (h : (decide (d < 64) && decide (a < 64) && decide (g < 16) && decide (o < 256)) = true) :
    w / 2 ^ 26 = f / 2 ^ 26 ∧ fld w 20 6 = d ∧ fld w 14 6 = a ∧ flag w 13 = l ∧ fld w 9 4 = g ∧ flag w 8 = s ∧ fld w 0 8 = o := by
  have hl := Bool.toNat_le l
  have hs := Bool.toNat_le s
  simp only [word] at hw
  simp only [Bool.and_eq_true, decide_eq_true_eq] at h
  simp only [fld]
  exact ⟨by omega, by omega, by omega, flag_of_toNat (by omega), by omega, flag_of_toNat (by omega), by omega⟩

/-- The fields of a guarded branch. -/
theorem fields_branch {w f g o : Nat} {s : Bool} (hw : w = word f [(g, 22), (s.toNat, 21), (o, 0)]) (hf : f % 2 ^ 26 = 0)
    (h : (decide (g < 16) && decide (o < 2097152)) = true) :
    w / 2 ^ 26 = f / 2 ^ 26 ∧ fld w 22 4 = g ∧ flag w 21 = s ∧ fld w 0 21 = o := by
  have hs := Bool.toNat_le s
  simp only [word] at hw
  simp only [Bool.and_eq_true, decide_eq_true_eq] at h
  simp only [fld]
  exact ⟨by omega, by omega, flag_of_toNat (by omega), by omega⟩

-- ---------------------------------------------------------------- the rows, by major

/-- The words of two operands of major 0x01 read back. -/
theorem readBack_binary01 (d a : Nat) (l : Bool) (b : Nat) (m : Bool) :
    ∀ i ∈ [Instr.addI32 d a l b m, .addN32 d a l b m, .subI32 d a l b m, .subN32 d a l b m, .mullo32 d a l b m, .mulhiI32 d a l b m,
      .mulhiN32 d a l b m, .divI32 d a l b m, .divN32 d a l b m, .remI32 d a l b m, .remN32 d a l b m, .minI32 d a l b m,
      .minN32 d a l b m, .maxI32 d a l b m, .maxN32 d a l b m, .and32 d a l b m, .or32 d a l b m, .xor32 d a l b m, .andn32 d a l b m,
      .shl32 d a l b m, .shr32 d a l b m, .shra32 d a l b m, .rot32 d a l b m, .permb d a l b m, .bfxI32 d a l b m, .bfxN32 d a l b m], ReadBack i := by
  simp only [List.forall_mem_cons, List.not_mem_nil, false_imp_iff, implies_true, and_true]
  and_intros <;>
  · intro hf w hw
    obtain ⟨hM, hk, rfl, rfl, rfl, rfl, rfl⟩ := fields_binary hw (by decide) hf
    rw [decodeRow, hM]
    change decodeMajor01 w = _
    simp only [decodeMajor01, fld_zero_thirteen, hk]
    rfl

/-- The words of one operand of major 0x01 read back. -/
theorem readBack_unary01 (d a : Nat) (l : Bool) :
    ∀ i ∈ [Instr.abs32 d a l, .neg32 d a l, .not32 d a l, .popc32 d a l, .clz32 d a l, .ctz32 d a l, .brev32 d a l, .mov32 d a l], ReadBack i := by
  simp only [List.forall_mem_cons, List.not_mem_nil, false_imp_iff, implies_true, and_true]
  and_intros <;>
  · intro hf w hw
    obtain ⟨hM, hk, hz, rfl, rfl, rfl⟩ := fields_unary hw (by decide) hf
    rw [decodeRow, hM]
    change decodeMajor01 w = _
    simp only [decodeMajor01, fld_zero_thirteen, hk, hz]
    rfl

/-- The words of two operands of major 0x02 read back. -/
theorem readBack_binary02 (d a : Nat) (l : Bool) (b : Nat) (m : Bool) :
    ∀ i ∈ [Instr.addI64 d a l b m, .addN64 d a l b m, .subI64 d a l b m, .subN64 d a l b m, .mullo64 d a l b m, .mulhiI64 d a l b m,
      .mulhiN64 d a l b m, .divI64 d a l b m, .divN64 d a l b m, .remI64 d a l b m, .remN64 d a l b m, .minI64 d a l b m,
      .minN64 d a l b m, .maxI64 d a l b m, .maxN64 d a l b m, .and64 d a l b m, .or64 d a l b m, .xor64 d a l b m, .andn64 d a l b m,
      .shl64 d a l b m, .shr64 d a l b m, .shra64 d a l b m, .rot64 d a l b m, .bfxI64 d a l b m, .bfxN64 d a l b m], ReadBack i := by
  simp only [List.forall_mem_cons, List.not_mem_nil, false_imp_iff, implies_true, and_true]
  and_intros <;>
  · intro hf w hw
    obtain ⟨hM, hk, rfl, rfl, rfl, rfl, rfl⟩ := fields_binary hw (by decide) hf
    rw [decodeRow, hM]
    change decodeMajor02 w = _
    simp only [decodeMajor02, fld_zero_thirteen, hk]
    rfl

/-- The words of one operand of major 0x02 read back. -/
theorem readBack_unary02 (d a : Nat) (l : Bool) :
    ∀ i ∈ [Instr.abs64 d a l, .neg64 d a l, .not64 d a l, .popc64 d a l, .clz64 d a l, .ctz64 d a l, .brev64 d a l, .mov64 d a l], ReadBack i := by
  simp only [List.forall_mem_cons, List.not_mem_nil, false_imp_iff, implies_true, and_true]
  and_intros <;>
  · intro hf w hw
    obtain ⟨hM, hk, hz, rfl, rfl, rfl⟩ := fields_unary hw (by decide) hf
    rw [decodeRow, hM]
    change decodeMajor02 w = _
    simp only [decodeMajor02, fld_zero_thirteen, hk, hz]
    rfl

/-- The words of two operands of major 0x10 read back. -/
theorem readBack_binary10 (d a : Nat) (l : Bool) (b : Nat) (m : Bool) :
    ∀ i ∈ [Instr.faddF32 d a l b m, .fsubF32 d a l b m, .fmulF32 d a l b m, .fminF32 d a l b m, .fmaxF32 d a l b m, .fdivF32 d a l b m,
      .fscaleF32 d a l b m], ReadBack i := by
  simp only [List.forall_mem_cons, List.not_mem_nil, false_imp_iff, implies_true, and_true]
  and_intros <;>
  · intro hf w hw
    obtain ⟨hM, hk, rfl, rfl, rfl, rfl, rfl⟩ := fields_binary hw (by decide) hf
    rw [decodeRow, hM]
    change decodeMajor10 w = _
    simp only [decodeMajor10, fld_zero_thirteen, hk]
    rfl

/-- The words of one operand of major 0x10 read back. -/
theorem readBack_unary10 (d a : Nat) (l : Bool) :
    ∀ i ∈ [Instr.fsqrtF32 d a l, .frcpF32 d a l, .frsqF32 d a l, .fexp2F32 d a l, .flog2F32 d a l, .fsinF32 d a l, .fcosF32 d a l,
      .fabsF32 d a l, .fnegF32 d a l, .fclassF32 d a l, .frintF32 d a l], ReadBack i := by
  simp only [List.forall_mem_cons, List.not_mem_nil, false_imp_iff, implies_true, and_true]
  and_intros <;>
  · intro hf w hw
    obtain ⟨hM, hk, hz, rfl, rfl, rfl⟩ := fields_unary hw (by decide) hf
    rw [decodeRow, hM]
    change decodeMajor10 w = _
    simp only [decodeMajor10, fld_zero_thirteen, hk, hz]
    rfl

/-- The words of two operands of major 0x11 read back. -/
theorem readBack_binary11 (d a : Nat) (l : Bool) (b : Nat) (m : Bool) :
    ∀ i ∈ [Instr.faddF64 d a l b m, .fsubF64 d a l b m, .fmulF64 d a l b m, .fminF64 d a l b m, .fmaxF64 d a l b m, .fdivF64 d a l b m,
      .fscaleF64 d a l b m], ReadBack i := by
  simp only [List.forall_mem_cons, List.not_mem_nil, false_imp_iff, implies_true, and_true]
  and_intros <;>
  · intro hf w hw
    obtain ⟨hM, hk, rfl, rfl, rfl, rfl, rfl⟩ := fields_binary hw (by decide) hf
    rw [decodeRow, hM]
    change decodeMajor11 w = _
    simp only [decodeMajor11, fld_zero_thirteen, hk]
    rfl

/-- The words of one operand of major 0x11 read back. -/
theorem readBack_unary11 (d a : Nat) (l : Bool) :
    ∀ i ∈ [Instr.fsqrtF64 d a l, .frcpF64 d a l, .frsqF64 d a l, .fexp2F64 d a l, .flog2F64 d a l, .fsinF64 d a l, .fcosF64 d a l,
      .fabsF64 d a l, .fnegF64 d a l, .fclassF64 d a l, .frintF64 d a l], ReadBack i := by
  simp only [List.forall_mem_cons, List.not_mem_nil, false_imp_iff, implies_true, and_true]
  and_intros <;>
  · intro hf w hw
    obtain ⟨hM, hk, hz, rfl, rfl, rfl⟩ := fields_unary hw (by decide) hf
    rw [decodeRow, hM]
    change decodeMajor11 w = _
    simp only [decodeMajor11, fld_zero_thirteen, hk, hz]
    rfl

/-- The words of two operands of major 0x12 read back. -/
theorem readBack_binary12 (d a : Nat) (l : Bool) (b : Nat) (m : Bool) :
    ∀ i ∈ [Instr.faddF16 d a l b m, .fsubF16 d a l b m, .fmulF16 d a l b m, .fminF16 d a l b m, .fmaxF16 d a l b m, .fscaleF16 d a l b m], ReadBack i := by
  simp only [List.forall_mem_cons, List.not_mem_nil, false_imp_iff, implies_true, and_true]
  and_intros <;>
  · intro hf w hw
    obtain ⟨hM, hk, rfl, rfl, rfl, rfl, rfl⟩ := fields_binary hw (by decide) hf
    rw [decodeRow, hM]
    change decodeMajor12 w = _
    simp only [decodeMajor12, fld_zero_thirteen, hk]
    rfl

/-- The words of one operand of major 0x12 read back. -/
theorem readBack_unary12 (d a : Nat) (l : Bool) :
    ∀ i ∈ [Instr.fabsF16 d a l, .fnegF16 d a l, .fclassF16 d a l, .frintF16 d a l], ReadBack i := by
  simp only [List.forall_mem_cons, List.not_mem_nil, false_imp_iff, implies_true, and_true]
  and_intros <;>
  · intro hf w hw
    obtain ⟨hM, hk, hz, rfl, rfl, rfl⟩ := fields_unary hw (by decide) hf
    rw [decodeRow, hM]
    change decodeMajor12 w = _
    simp only [decodeMajor12, fld_zero_thirteen, hk, hz]
    rfl

/-- The words of two operands of major 0x13 read back. -/
theorem readBack_binary13 (d a : Nat) (l : Bool) (b : Nat) (m : Bool) :
    ∀ i ∈ [Instr.faddBf16 d a l b m, .fsubBf16 d a l b m, .fmulBf16 d a l b m, .fminBf16 d a l b m, .fmaxBf16 d a l b m, .fscaleBf16 d a l b m], ReadBack i := by
  simp only [List.forall_mem_cons, List.not_mem_nil, false_imp_iff, implies_true, and_true]
  and_intros <;>
  · intro hf w hw
    obtain ⟨hM, hk, rfl, rfl, rfl, rfl, rfl⟩ := fields_binary hw (by decide) hf
    rw [decodeRow, hM]
    change decodeMajor13 w = _
    simp only [decodeMajor13, fld_zero_thirteen, hk]
    rfl

/-- The words of one operand of major 0x13 read back. -/
theorem readBack_unary13 (d a : Nat) (l : Bool) :
    ∀ i ∈ [Instr.fabsBf16 d a l, .fnegBf16 d a l, .fclassBf16 d a l, .frintBf16 d a l], ReadBack i := by
  simp only [List.forall_mem_cons, List.not_mem_nil, false_imp_iff, implies_true, and_true]
  and_intros <;>
  · intro hf w hw
    obtain ⟨hM, hk, hz, rfl, rfl, rfl⟩ := fields_unary hw (by decide) hf
    rw [decodeRow, hM]
    change decodeMajor13 w = _
    simp only [decodeMajor13, fld_zero_thirteen, hk, hz]
    rfl

/-- The words of three operands read back; each has a major of its own. -/
theorem readBack_fused (d a : Nat) (l : Bool) (b : Nat) (m : Bool) (c : Nat) :
    ∀ i ∈ [Instr.bfi d a l b m c, .mad32 d a l b m c, .mad64 d a l b m c, .ffmaF32 d a l b m c, .ffmaF64 d a l b m c, .ffmaF16 d a l b m c,
      .ffmaBf16 d a l b m c], ReadBack i := by
  simp only [List.forall_mem_cons, List.not_mem_nil, false_imp_iff, implies_true, and_true]
  and_intros <;>
  · intro hf w hw
    obtain ⟨hM, rfl, rfl, rfl, rfl, rfl, rfl⟩ := fields_fused hw (by decide) hf
    rw [decodeRow, hM]
    rfl

/-- The words with an immediate of 13 bits read back; each has a major of its own. -/
theorem readBack_immediate (d a : Nat) (l : Bool) (j : Nat) :
    ∀ i ∈ [Instr.addI32Imm d a l j, .andImm d a l j, .orImm d a l j, .xorImm d a l j, .addI64Imm d a l j], ReadBack i := by
  simp only [List.forall_mem_cons, List.not_mem_nil, false_imp_iff, implies_true, and_true]
  and_intros <;>
  · intro hf w hw
    obtain ⟨hM, rfl, rfl, rfl, rfl⟩ := fields_immediate hw (by decide) hf
    rw [decodeRow, hM]
    rfl

/-- The loads and stores with an offset of 8 bits read back; each has a major of its own. -/
theorem readBack_access (d a : Nat) (l : Bool) (g : Nat) (s : Bool) (o : Nat) :
    ∀ i ∈ [Instr.ldGB32 d a l g s o, .stGB32 d a l g s o, .ldGB64 d a l g s o, .stGB64 d a l g s o, .ldSB32 d a l g s o, .stSB32 d a l g s o], ReadBack i := by
  simp only [List.forall_mem_cons, List.not_mem_nil, false_imp_iff, implies_true, and_true]
  and_intros <;>
  · intro hf w hw
    obtain ⟨hM, rfl, rfl, rfl, rfl, rfl, rfl⟩ := fields_access hw (by decide) hf
    rw [decodeRow, hM]
    rfl

/-- The guarded branches read back; each has a major of its own. -/
theorem readBack_branch (g : Nat) (s : Bool) (o : Nat) :
    ∀ i ∈ [Instr.br g s o, .call g s o], ReadBack i := by
  simp only [List.forall_mem_cons, List.not_mem_nil, false_imp_iff, implies_true, and_true]
  and_intros <;>
  · intro hf w hw
    obtain ⟨hM, rfl, rfl, rfl⟩ := fields_branch hw (by decide) hf
    rw [decodeRow, hM]
    rfl

/-- The words without fields read back. -/
theorem readBack_bare :
    ∀ i ∈ [Instr.ill, .ret, .exit, .yield, .aEnd, .aExit], ReadBack i := by
  simp only [List.forall_mem_cons, List.not_mem_nil, false_imp_iff, implies_true, and_true]
  and_intros <;>
  · intro _ w hw
    subst hw
    rfl

/-- The words of major 0x03 read back. -/
theorem readBack03 (d a : Nat) (l : Bool) (b : Nat) (m : Bool) (p : Nat) :
    ∀ i ∈ [Instr.addc d a l b m p, .subb d a l b m p, .sel d a l b m p], ReadBack i := by
  have hl := Bool.toNat_le l
  have hm := Bool.toNat_le m
  simp only [List.forall_mem_cons, List.not_mem_nil, false_imp_iff, implies_true, and_true]
  and_intros <;>
  · intro hf w hw
    simp only [Instr.fits, Bool.and_eq_true, decide_eq_true_eq] at hf
    simp only [encode, word] at hw
    rw [decodeRow, show w / 2 ^ 26 = 0x03 by omega]
    change decodeMajor03 w = _
    rw [decodeMajor03]
    repeat rw [if_neg (by simp only [fld]; omega)]
    rw [if_pos (by simp only [fld]; omega)]
    simp only [Instr.canon, fld]
    congr <;> first | omega | exact flag_of_toNat (by omega)

/-- The words of major 0x04 read back. -/
theorem readBack04 (d a : Nat) (l : Bool) (b : Nat) (m x : Bool) (s : Nat) :
    ∀ i ∈ [Instr.lea d a l b m x s], ReadBack i := by
  have hl := Bool.toNat_le l
  have hm := Bool.toNat_le m
  have hx := Bool.toNat_le x
  simp only [List.forall_mem_cons, List.not_mem_nil, false_imp_iff, implies_true, and_true]
  · intro hf w hw
    simp only [Instr.fits, Bool.and_eq_true, decide_eq_true_eq] at hf
    simp only [encode, word] at hw
    rw [decodeRow, show w / 2 ^ 26 = 0x04 by omega]
    change decodeMajor04 w = _
    rw [decodeMajor04]
    rw [if_pos (by simp only [fld]; omega)]
    simp only [Instr.canon, fld]
    congr <;> first | omega | exact flag_of_toNat (by omega)

/-- The words of major 0x0C read back. -/
theorem readBack0c (d a : Nat) (l w : Bool) (n : Nat) :
    ∀ i ∈ [Instr.shlImm d a l w n, .shrImm d a l w n, .shraImm d a l w n, .rotImm d a l w n], ReadBack i := by
  have hl := Bool.toNat_le l
  have hw := Bool.toNat_le w
  simp only [List.forall_mem_cons, List.not_mem_nil, false_imp_iff, implies_true, and_true]
  and_intros <;>
  · intro hf w hw
    simp only [Instr.fits, Bool.and_eq_true, decide_eq_true_eq] at hf
    simp only [encode, word] at hw
    rw [decodeRow, show w / 2 ^ 26 = 0x0c by omega]
    change decodeMajor0c w = _
    rw [decodeMajor0c]
    repeat rw [if_neg (by simp only [fld]; omega)]
    rw [if_pos (by simp only [fld]; omega)]
    simp only [Instr.canon, fld]
    congr <;> first | omega | exact flag_of_toNat (by omega)

/-- The words of major 0x0D read back. -/
theorem readBack0d (d j : Nat) :
    ∀ i ∈ [Instr.movi d j], ReadBack i := by
  simp only [List.forall_mem_cons, List.not_mem_nil, false_imp_iff, implies_true, and_true]
  · intro hf w hw
    simp only [Instr.fits, Bool.and_eq_true, decide_eq_true_eq] at hf
    simp only [encode, word] at hw
    rw [decodeRow, show w / 2 ^ 26 = 0x0d by omega]
    change decodeMajor0d w = _
    rw [decodeMajor0d]
    rw [if_pos (by simp only [fld]; omega)]
    simp only [Instr.canon, fld]
    congr <;> omega

/-- The words of major 0x18 read back. -/
theorem readBack18 (d a : Nat) (l : Bool) (b : Nat) (m : Bool) (s : Nat) :
    ∀ i ∈ [Instr.cvt d a l b m s], ReadBack i := by
  have hl := Bool.toNat_le l
  have hm := Bool.toNat_le m
  simp only [List.forall_mem_cons, List.not_mem_nil, false_imp_iff, implies_true, and_true]
  · intro hf w hw
    simp only [Instr.fits, Bool.and_eq_true, decide_eq_true_eq] at hf
    simp only [encode, word] at hw
    rw [decodeRow, show w / 2 ^ 26 = 0x18 by omega]
    change decodeMajor18 w = _
    rw [decodeMajor18]
    rw [if_pos (by simp only [fld]; omega)]
    simp only [Instr.canon, fld]
    congr <;> first | omega | exact flag_of_toNat (by omega)

/-- The words of major 0x20 read back. -/
theorem readBack20 (p c a : Nat) (l : Bool) (b : Nat) (m : Bool) (o t : Nat) :
    ∀ i ∈ [Instr.cmp p c a l b m o t], ReadBack i := by
  have hl := Bool.toNat_le l
  have hm := Bool.toNat_le m
  simp only [List.forall_mem_cons, List.not_mem_nil, false_imp_iff, implies_true, and_true]
  · intro hf w hw
    simp only [Instr.fits, Bool.and_eq_true, decide_eq_true_eq] at hf
    simp only [encode, word] at hw
    rw [decodeRow, show w / 2 ^ 26 = 0x20 by omega]
    change decodeMajor20 w = _
    simp only [decodeMajor20]
    simp only [Instr.canon, fld]
    congr <;> first | omega | exact flag_of_toNat (by omega)

/-- The words of major 0x21 read back. -/
theorem readBack21 (p c a b : Nat) :
    ∀ i ∈ [Instr.pand p c a b, .por p c a b, .pxor p c a b, .pnot p c a, .pmov p c a], ReadBack i := by
  simp only [List.forall_mem_cons, List.not_mem_nil, false_imp_iff, implies_true, and_true]
  and_intros <;>
  · intro hf w hw
    simp only [Instr.fits, Bool.and_eq_true, decide_eq_true_eq] at hf
    simp only [encode, word] at hw
    rw [decodeRow, show w / 2 ^ 26 = 0x21 by omega]
    change decodeMajor21 w = _
    rw [decodeMajor21]
    repeat rw [if_neg (by simp only [fld]; omega)]
    rw [if_pos (by simp only [fld]; omega)]
    simp only [Instr.canon, fld]
    congr <;> omega

/-- The words of major 0x24 read back. -/
theorem readBack24 (a : Nat) (l : Bool) (k n c q : Nat) :
    ∀ i ∈ [Instr.brx a l, .callx a l, .waitk k n, .trap c, .softi q], ReadBack i := by
  have hl := Bool.toNat_le l
  simp only [List.forall_mem_cons, List.not_mem_nil, false_imp_iff, implies_true, and_true]
  and_intros <;>
  · intro hf w hw
    simp only [Instr.fits, Bool.and_eq_true, decide_eq_true_eq] at hf
    simp only [encode, word] at hw
    rw [decodeRow, show w / 2 ^ 26 = 0x24 by omega]
    change decodeMajor24 w = _
    rw [decodeMajor24]
    repeat rw [if_neg (by simp only [fld]; omega)]
    rw [if_pos (by simp only [fld]; omega)]
    simp only [Instr.canon, fld]
    congr <;> first | omega | exact flag_of_toNat (by omega)

/-- The words of major 0x28 read back. -/
theorem readBack28 (a : Nat) (l : Bool) (n d : Nat) :
    ∀ i ∈ [Instr.cdeclRange a l n, .cdeclMask d a l n, .csign n, .cwait n], ReadBack i := by
  have hl := Bool.toNat_le l
  simp only [List.forall_mem_cons, List.not_mem_nil, false_imp_iff, implies_true, and_true]
  and_intros <;>
  · intro hf w hw
    simp only [Instr.fits, Bool.and_eq_true, decide_eq_true_eq] at hf
    simp only [encode, word] at hw
    rw [decodeRow, show w / 2 ^ 26 = 0x28 by omega]
    change decodeMajor28 w = _
    rw [decodeMajor28]
    repeat rw [if_neg (by simp only [fld]; omega)]
    rw [if_pos (by simp only [fld]; omega)]
    simp only [Instr.canon, fld]
    congr <;> first | omega | exact flag_of_toNat (by omega)

/-- The words of major 0x29 read back. -/
theorem readBack29 (d a : Nat) (l : Bool) (b : Nat) (m : Bool) (n : Nat) :
    ∀ i ∈ [Instr.xshfIdx d a l b m n, .xshfUp d a l b m n, .xshfDown d a l b m n, .xshfXor d a l b m n], ReadBack i := by
  have hl := Bool.toNat_le l
  have hm := Bool.toNat_le m
  simp only [List.forall_mem_cons, List.not_mem_nil, false_imp_iff, implies_true, and_true]
  and_intros <;>
  · intro hf w hw
    simp only [Instr.fits, Bool.and_eq_true, decide_eq_true_eq] at hf
    simp only [encode, word] at hw
    rw [decodeRow, show w / 2 ^ 26 = 0x29 by omega]
    change decodeMajor29 w = _
    rw [decodeMajor29]
    repeat rw [if_neg (by simp only [fld]; omega)]
    rw [if_pos (by simp only [fld]; omega)]
    simp only [Instr.canon, fld]
    congr <;> first | omega | exact flag_of_toNat (by omega)

/-- The words of major 0x2A read back. -/
theorem readBack2a (d a : Nat) (l w h : Bool) (n o : Nat) :
    ∀ i ∈ [Instr.xbcast d a l w h n, .xred d a l o n, .xscanInc d a l o n, .xscanExc d a l o n, .xvote d a o n], ReadBack i := by
  have hl := Bool.toNat_le l
  have hw := Bool.toNat_le w
  have hh := Bool.toNat_le h
  simp only [List.forall_mem_cons, List.not_mem_nil, false_imp_iff, implies_true, and_true]
  and_intros <;>
  · intro hf w hw
    simp only [Instr.fits, Bool.and_eq_true, decide_eq_true_eq] at hf
    simp only [encode, word] at hw
    rw [decodeRow, show w / 2 ^ 26 = 0x2a by omega]
    change decodeMajor2a w = _
    rw [decodeMajor2a]
    repeat rw [if_neg (by simp only [fld]; omega)]
    rw [if_pos (by simp only [fld]; omega)]
    simp only [Instr.canon, fld]
    congr <;> first | omega | exact flag_of_toNat (by omega)

/-- The words of major 0x2C read back. -/
theorem readBack2c (s b : Nat) (l : Bool) (p n t : Nat) :
    ∀ i ∈ [Instr.mma s b l p n t, .mmas s b l p n t, .mmabXor s b l p n t, .mmabAnd s b l p n t, .mmac s b l p n t], ReadBack i := by
  have hl := Bool.toNat_le l
  simp only [List.forall_mem_cons, List.not_mem_nil, false_imp_iff, implies_true, and_true]
  and_intros <;>
  · intro hf w hw
    simp only [Instr.fits, Bool.and_eq_true, decide_eq_true_eq] at hf
    simp only [encode, word] at hw
    rw [decodeRow, show w / 2 ^ 26 = 0x2c by omega]
    change decodeMajor2c w = _
    rw [decodeMajor2c]
    repeat rw [if_neg (by simp only [fld]; omega)]
    rw [if_pos (by simp only [fld]; omega)]
    simp only [Instr.canon, fld]
    congr <;> first | omega | exact flag_of_toNat (by omega)

/-- The words of major 0x2D read back. -/
theorem readBack2d (t a : Nat) (l : Bool) (d s u : Nat) :
    ∀ i ∈ [Instr.aczero t, .acld a l t, .acst a l t, .acres d a l s t, .accmp d a l u t, .acmov u t], ReadBack i := by
  have hl := Bool.toNat_le l
  simp only [List.forall_mem_cons, List.not_mem_nil, false_imp_iff, implies_true, and_true]
  and_intros <;>
  · intro hf w hw
    simp only [Instr.fits, Bool.and_eq_true, decide_eq_true_eq] at hf
    simp only [encode, word] at hw
    rw [decodeRow, show w / 2 ^ 26 = 0x2d by omega]
    change decodeMajor2d w = _
    rw [decodeMajor2d]
    repeat rw [if_neg (by simp only [fld]; omega)]
    rw [if_pos (by simp only [fld]; omega)]
    simp only [Instr.canon, fld]
    congr <;> first | omega | exact flag_of_toNat (by omega)

/-- The words of major 0x36 read back. -/
theorem readBack36 (d a : Nat) (l s : Bool) (g p z : Nat) :
    ∀ i ∈ [Instr.ldGeneral d a l s g p z, .stGeneral d a l s g p z], ReadBack i := by
  have hl := Bool.toNat_le l
  have hs := Bool.toNat_le s
  simp only [List.forall_mem_cons, List.not_mem_nil, false_imp_iff, implies_true, and_true]
  and_intros <;>
  · intro hf w hw
    simp only [Instr.fits, Bool.and_eq_true, decide_eq_true_eq] at hf
    simp only [encode, word] at hw
    rw [decodeRow, show w / 2 ^ 26 = 0x36 by omega]
    change decodeMajor36 w = _
    rw [decodeMajor36]
    repeat rw [if_neg (by simp only [fld]; omega)]
    rw [if_pos (by simp only [fld]; omega)]
    simp only [Instr.canon, fld]
    congr <;> first | omega | exact flag_of_toNat (by omega)

/-- The words of major 0x37 read back. -/
theorem readBack37 (d a : Nat) (l p w : Bool) (o s : Nat) :
    ∀ i ∈ [Instr.atom d a l p w o s, .atomc d a l p w s, .fence s, .waita d a l p w s, .wakea d a l p s, .cflush a l, .cinv a l, .pin d a l,
      .unpin d a l], ReadBack i := by
  have hl := Bool.toNat_le l
  have hp := Bool.toNat_le p
  have hw := Bool.toNat_le w
  simp only [List.forall_mem_cons, List.not_mem_nil, false_imp_iff, implies_true, and_true]
  and_intros <;>
  · intro hf w hw
    simp only [Instr.fits, Bool.and_eq_true, decide_eq_true_eq] at hf
    simp only [encode, word] at hw
    rw [decodeRow, show w / 2 ^ 26 = 0x37 by omega]
    change decodeMajor37 w = _
    rw [decodeMajor37]
    repeat rw [if_neg (by simp only [fld]; omega)]
    rw [if_pos (by simp only [fld]; omega)]
    simp only [Instr.canon, fld]
    congr <;> first | omega | exact flag_of_toNat (by omega)

/-- The words of major 0x38 read back. -/
theorem readBack38 (d a : Nat) (l : Bool) (e s : Nat) :
    ∀ i ∈ [Instr.tcopy d a l e s, .tcast d a l s], ReadBack i := by
  have hl := Bool.toNat_le l
  simp only [List.forall_mem_cons, List.not_mem_nil, false_imp_iff, implies_true, and_true]
  and_intros <;>
  · intro hf w hw
    simp only [Instr.fits, Bool.and_eq_true, decide_eq_true_eq] at hf
    simp only [encode, word] at hw
    rw [decodeRow, show w / 2 ^ 26 = 0x38 by omega]
    change decodeMajor38 w = _
    rw [decodeMajor38]
    repeat rw [if_neg (by simp only [fld]; omega)]
    rw [if_pos (by simp only [fld]; omega)]
    simp only [Instr.canon, fld]
    congr <;> first | omega | exact flag_of_toNat (by omega)

/-- The words of major 0x39 read back. -/
theorem readBack39 (d a : Nat) (l : Bool) (e s : Nat) :
    ∀ i ∈ [Instr.tredBf16 d a l e s, .tredF32 d a l e s], ReadBack i := by
  have hl := Bool.toNat_le l
  simp only [List.forall_mem_cons, List.not_mem_nil, false_imp_iff, implies_true, and_true]
  and_intros <;>
  · intro hf w hw
    simp only [Instr.fits, Bool.and_eq_true, decide_eq_true_eq] at hf
    simp only [encode, word] at hw
    rw [decodeRow, show w / 2 ^ 26 = 0x39 by omega]
    change decodeMajor39 w = _
    rw [decodeMajor39]
    repeat rw [if_neg (by simp only [fld]; omega)]
    rw [if_pos (by simp only [fld]; omega)]
    simp only [Instr.canon, fld]
    congr <;> first | omega | exact flag_of_toNat (by omega)

/-- The words of major 0x3A read back. -/
theorem readBack3a (c d a j s r l : Nat) :
    ∀ i ∈ [Instr.aLoop c, .aAddr d a j, .aLdq d a s r, .aLdwq d a s r, .aWaitq d, .aSetq d l, .aBase d a j], ReadBack i := by
  simp only [List.forall_mem_cons, List.not_mem_nil, false_imp_iff, implies_true, and_true]
  and_intros <;>
  · intro hf w hw
    simp only [Instr.fits, Bool.and_eq_true, decide_eq_true_eq] at hf
    simp only [encode, word] at hw
    rw [decodeRow, show w / 2 ^ 26 = 0x3a by omega]
    change decodeMajor3a w = _
    rw [decodeMajor3a]
    repeat rw [if_neg (by simp only [fld]; omega)]
    rw [if_pos (by simp only [fld]; omega)]
    simp only [Instr.canon, fld]
    congr <;> omega

/-- The words of major 0x3B read back. -/
theorem readBack3b (d a : Nat) (l : Bool) (q z c r o n p : Nat) :
    ∀ i ∈ [Instr.qpop d a l q z, .qpeek d a l q z, .qpush a l q, .isub d a l c r, .trace d a l, .reord d a l o n, .launch a l p, .svc d a l n c], ReadBack i := by
  have hl := Bool.toNat_le l
  simp only [List.forall_mem_cons, List.not_mem_nil, false_imp_iff, implies_true, and_true]
  and_intros <;>
  · intro hf w hw
    simp only [Instr.fits, Bool.and_eq_true, decide_eq_true_eq] at hf
    simp only [encode, word] at hw
    rw [decodeRow, show w / 2 ^ 26 = 0x3b by omega]
    change decodeMajor3b w = _
    rw [decodeMajor3b]
    repeat rw [if_neg (by simp only [fld]; omega)]
    rw [if_pos (by simp only [fld]; omega)]
    simp only [Instr.canon, fld]
    congr <;> first | omega | exact flag_of_toNat (by omega)

/-- The words of major 0x3C read back. -/
theorem readBack3c (d a : Nat) (l u : Bool) (s b : Nat) (m k : Bool) :
    ∀ i ∈ [Instr.crnInit d a l u s, .crnFree a l, .crnExpect d a l, .crnArrive d a l, .crnWait d a l, .crnTest d a l, .rdcyc d, .rngx d a l b m,
      .rngadd d a l b m k], ReadBack i := by
  have hl := Bool.toNat_le l
  have hu := Bool.toNat_le u
  have hm := Bool.toNat_le m
  have hk := Bool.toNat_le k
  simp only [List.forall_mem_cons, List.not_mem_nil, false_imp_iff, implies_true, and_true]
  and_intros <;>
  · intro hf w hw
    simp only [Instr.fits, Bool.and_eq_true, decide_eq_true_eq] at hf
    simp only [encode, word] at hw
    rw [decodeRow, show w / 2 ^ 26 = 0x3c by omega]
    change decodeMajor3c w = _
    rw [decodeMajor3c]
    repeat rw [if_neg (by simp only [fld]; omega)]
    rw [if_pos (by simp only [fld]; omega)]
    simp only [Instr.canon, fld]
    congr <;> first | omega | exact flag_of_toNat (by omega)

/-- The words of major 0x3D read back. -/
theorem readBack3d (d n a : Nat) (l : Bool) :
    ∀ i ∈ [Instr.movsr d n, .movrs a l n, .eretResume d a l, .halt d a l], ReadBack i := by
  have hl := Bool.toNat_le l
  simp only [List.forall_mem_cons, List.not_mem_nil, false_imp_iff, implies_true, and_true]
  and_intros <;>
  · intro hf w hw
    simp only [Instr.fits, Bool.and_eq_true, decide_eq_true_eq] at hf
    simp only [encode, word] at hw
    rw [decodeRow, show w / 2 ^ 26 = 0x3d by omega]
    change decodeMajor3d w = _
    rw [decodeMajor3d]
    repeat rw [if_neg (by simp only [fld]; omega)]
    rw [if_pos (by simp only [fld]; omega)]
    simp only [Instr.canon, fld]
    congr <;> first | omega | exact flag_of_toNat (by omega)

/-- The words of major 0x3F read back. -/
theorem readBack3f (p e c s : Nat) (t v : Bool) (r z : Nat) (x y u : Bool) :
    ∀ i ∈ [Instr.imm p, .mod e c s t v r z, .live x y z, .sched u z], ReadBack i := by
  have ht := Bool.toNat_le t
  have hv := Bool.toNat_le v
  have hx := Bool.toNat_le x
  have hy := Bool.toNat_le y
  have hu := Bool.toNat_le u
  simp only [List.forall_mem_cons, List.not_mem_nil, false_imp_iff, implies_true, and_true]
  and_intros <;>
  · intro hf w hw
    simp only [Instr.fits, Bool.and_eq_true, decide_eq_true_eq] at hf
    simp only [encode, word] at hw
    rw [decodeRow, show w / 2 ^ 26 = 0x3f by omega]
    change decodeMajor3f w = _
    rw [decodeMajor3f]
    repeat rw [if_neg (by simp only [fld]; omega)]
    rw [if_pos (by simp only [fld]; omega)]
    simp only [Instr.canon, fld]
    congr <;> first | omega | exact flag_of_toNat (by omega)

-- ---------------------------------------------------------------- the whole encoder

/-- Every instruction that has a word is read back from it. -/
theorem readBack_of_not_event (i : Instr) (hevent : i.isEvent = false) : ReadBack i := by
  cases i with
  | addI32 d a l b m | addN32 d a l b m | subI32 d a l b m | subN32 d a l b m | mullo32 d a l b m | mulhiI32 d a l b m
  | mulhiN32 d a l b m | divI32 d a l b m | divN32 d a l b m | remI32 d a l b m | remN32 d a l b m | minI32 d a l b m | minN32 d a l b m
  | maxI32 d a l b m | maxN32 d a l b m | and32 d a l b m | or32 d a l b m | xor32 d a l b m | andn32 d a l b m | shl32 d a l b m
  | shr32 d a l b m | shra32 d a l b m | rot32 d a l b m | permb d a l b m | bfxI32 d a l b m | bfxN32 d a l b m =>
    exact readBack_binary01 d a l b m _ (by simp)
  | abs32 d a l | neg32 d a l | not32 d a l | popc32 d a l | clz32 d a l | ctz32 d a l | brev32 d a l | mov32 d a l =>
    exact readBack_unary01 d a l _ (by simp)
  | addI64 d a l b m | addN64 d a l b m | subI64 d a l b m | subN64 d a l b m | mullo64 d a l b m | mulhiI64 d a l b m
  | mulhiN64 d a l b m | divI64 d a l b m | divN64 d a l b m | remI64 d a l b m | remN64 d a l b m | minI64 d a l b m | minN64 d a l b m
  | maxI64 d a l b m | maxN64 d a l b m | and64 d a l b m | or64 d a l b m | xor64 d a l b m | andn64 d a l b m | shl64 d a l b m
  | shr64 d a l b m | shra64 d a l b m | rot64 d a l b m | bfxI64 d a l b m | bfxN64 d a l b m =>
    exact readBack_binary02 d a l b m _ (by simp)
  | abs64 d a l | neg64 d a l | not64 d a l | popc64 d a l | clz64 d a l | ctz64 d a l | brev64 d a l | mov64 d a l =>
    exact readBack_unary02 d a l _ (by simp)
  | faddF32 d a l b m | fsubF32 d a l b m | fmulF32 d a l b m | fminF32 d a l b m | fmaxF32 d a l b m | fdivF32 d a l b m
  | fscaleF32 d a l b m =>
    exact readBack_binary10 d a l b m _ (by simp)
  | fsqrtF32 d a l | frcpF32 d a l | frsqF32 d a l | fexp2F32 d a l | flog2F32 d a l | fsinF32 d a l | fcosF32 d a l | fabsF32 d a l
  | fnegF32 d a l | fclassF32 d a l | frintF32 d a l =>
    exact readBack_unary10 d a l _ (by simp)
  | faddF64 d a l b m | fsubF64 d a l b m | fmulF64 d a l b m | fminF64 d a l b m | fmaxF64 d a l b m | fdivF64 d a l b m
  | fscaleF64 d a l b m =>
    exact readBack_binary11 d a l b m _ (by simp)
  | fsqrtF64 d a l | frcpF64 d a l | frsqF64 d a l | fexp2F64 d a l | flog2F64 d a l | fsinF64 d a l | fcosF64 d a l | fabsF64 d a l
  | fnegF64 d a l | fclassF64 d a l | frintF64 d a l =>
    exact readBack_unary11 d a l _ (by simp)
  | faddF16 d a l b m | fsubF16 d a l b m | fmulF16 d a l b m | fminF16 d a l b m | fmaxF16 d a l b m | fscaleF16 d a l b m =>
    exact readBack_binary12 d a l b m _ (by simp)
  | fabsF16 d a l | fnegF16 d a l | fclassF16 d a l | frintF16 d a l =>
    exact readBack_unary12 d a l _ (by simp)
  | faddBf16 d a l b m | fsubBf16 d a l b m | fmulBf16 d a l b m | fminBf16 d a l b m | fmaxBf16 d a l b m | fscaleBf16 d a l b m =>
    exact readBack_binary13 d a l b m _ (by simp)
  | fabsBf16 d a l | fnegBf16 d a l | fclassBf16 d a l | frintBf16 d a l =>
    exact readBack_unary13 d a l _ (by simp)
  | bfi d a l b m c | mad32 d a l b m c | mad64 d a l b m c | ffmaF32 d a l b m c | ffmaF64 d a l b m c | ffmaF16 d a l b m c
  | ffmaBf16 d a l b m c =>
    exact readBack_fused d a l b m c _ (by simp)
  | addI32Imm d a l j | andImm d a l j | orImm d a l j | xorImm d a l j | addI64Imm d a l j =>
    exact readBack_immediate d a l j _ (by simp)
  | ldGB32 d a l g s o | stGB32 d a l g s o | ldGB64 d a l g s o | stGB64 d a l g s o | ldSB32 d a l g s o | stSB32 d a l g s o =>
    exact readBack_access d a l g s o _ (by simp)
  | br g s o | call g s o =>
    exact readBack_branch g s o _ (by simp)
  | ill | ret | exit | yield | aEnd | aExit =>
    exact readBack_bare _ (by simp)
  | addc d a l b m p | subb d a l b m p | sel d a l b m p =>
    exact readBack03 d a l b m p _ (by simp)
  | lea d a l b m x s =>
    exact readBack04 d a l b m x s _ (by simp)
  | shlImm d a l w n | shrImm d a l w n | shraImm d a l w n | rotImm d a l w n =>
    exact readBack0c d a l w n _ (by simp)
  | movi d j =>
    exact readBack0d d j _ (by simp)
  | cvt d a l b m s =>
    exact readBack18 d a l b m s _ (by simp)
  | cmp p c a l b m o t =>
    exact readBack20 p c a l b m o t _ (by simp)
  | pand p c a b | por p c a b | pxor p c a b =>
    exact readBack21 p c a b _ (by simp)
  | pnot p c a | pmov p c a =>
    exact readBack21 p c a 0 _ (by simp)
  | brx a l | callx a l =>
    exact readBack24 a l 0 0 0 0 _ (by simp)
  | waitk k n =>
    exact readBack24 0 false k n 0 0 _ (by simp)
  | trap c =>
    exact readBack24 0 false 0 0 c 0 _ (by simp)
  | softi q =>
    exact readBack24 0 false 0 0 0 q _ (by simp)
  | cdeclRange a l n =>
    exact readBack28 a l n 0 _ (by simp)
  | cdeclMask d a l n =>
    exact readBack28 a l n d _ (by simp)
  | csign n | cwait n =>
    exact readBack28 0 false n 0 _ (by simp)
  | xshfIdx d a l b m n | xshfUp d a l b m n | xshfDown d a l b m n | xshfXor d a l b m n =>
    exact readBack29 d a l b m n _ (by simp)
  | xbcast d a l w h n =>
    exact readBack2a d a l w h n 0 _ (by simp)
  | xred d a l o n | xscanInc d a l o n | xscanExc d a l o n =>
    exact readBack2a d a l false false n o _ (by simp)
  | xvote d a o n =>
    exact readBack2a d a false false false n o _ (by simp)
  | mma s b l p n t | mmas s b l p n t | mmabXor s b l p n t | mmabAnd s b l p n t | mmac s b l p n t =>
    exact readBack2c s b l p n t _ (by simp)
  | aczero t =>
    exact readBack2d t 0 false 0 0 0 _ (by simp)
  | acld a l t | acst a l t =>
    exact readBack2d t a l 0 0 0 _ (by simp)
  | acres d a l s t =>
    exact readBack2d t a l d s 0 _ (by simp)
  | accmp d a l u t =>
    exact readBack2d t a l d 0 u _ (by simp)
  | acmov u t =>
    exact readBack2d t 0 false 0 0 u _ (by simp)
  | ldGeneral d a l s g p z | stGeneral d a l s g p z =>
    exact readBack36 d a l s g p z _ (by simp)
  | atom d a l p w o s =>
    exact readBack37 d a l p w o s _ (by simp)
  | atomc d a l p w s | waita d a l p w s =>
    exact readBack37 d a l p w 0 s _ (by simp)
  | fence s =>
    exact readBack37 0 0 false false false 0 s _ (by simp)
  | wakea d a l p s =>
    exact readBack37 d a l p false 0 s _ (by simp)
  | cflush a l | cinv a l =>
    exact readBack37 0 a l false false 0 0 _ (by simp)
  | pin d a l | unpin d a l =>
    exact readBack37 d a l false false 0 0 _ (by simp)
  | tcopy d a l e s =>
    exact readBack38 d a l e s _ (by simp)
  | tcast d a l s =>
    exact readBack38 d a l 0 s _ (by simp)
  | tredBf16 d a l e s | tredF32 d a l e s =>
    exact readBack39 d a l e s _ (by simp)
  | aLoop c =>
    exact readBack3a c 0 0 0 0 0 0 _ (by simp)
  | aAddr d a j | aBase d a j =>
    exact readBack3a 0 d a j 0 0 0 _ (by simp)
  | aLdq d a s r | aLdwq d a s r =>
    exact readBack3a 0 d a 0 s r 0 _ (by simp)
  | aWaitq d =>
    exact readBack3a 0 d 0 0 0 0 0 _ (by simp)
  | aSetq d l =>
    exact readBack3a 0 d 0 0 0 0 l _ (by simp)
  | qpop d a l q z | qpeek d a l q z =>
    exact readBack3b d a l q z 0 0 0 0 0 _ (by simp)
  | qpush a l q =>
    exact readBack3b 0 a l q 0 0 0 0 0 0 _ (by simp)
  | isub d a l c r =>
    exact readBack3b d a l 0 0 c r 0 0 0 _ (by simp)
  | trace d a l =>
    exact readBack3b d a l 0 0 0 0 0 0 0 _ (by simp)
  | reord d a l o n =>
    exact readBack3b d a l 0 0 0 0 o n 0 _ (by simp)
  | launch a l p =>
    exact readBack3b 0 a l 0 0 0 0 0 0 p _ (by simp)
  | svc d a l n c =>
    exact readBack3b d a l 0 0 c 0 0 n 0 _ (by simp)
  | crnInit d a l u s =>
    exact readBack3c d a l u s 0 false false _ (by simp)
  | crnFree a l =>
    exact readBack3c 0 a l false 0 0 false false _ (by simp)
  | crnExpect d a l | crnArrive d a l | crnWait d a l | crnTest d a l =>
    exact readBack3c d a l false 0 0 false false _ (by simp)
  | rdcyc d =>
    exact readBack3c d 0 false false 0 0 false false _ (by simp)
  | rngx d a l b m =>
    exact readBack3c d a l false 0 b m false _ (by simp)
  | rngadd d a l b m k =>
    exact readBack3c d a l false 0 b m k _ (by simp)
  | movsr d n =>
    exact readBack3d d n 0 false _ (by simp)
  | movrs a l n =>
    exact readBack3d 0 n a l _ (by simp)
  | eretResume d a l | halt d a l =>
    exact readBack3d d 0 a l _ (by simp)
  | imm p =>
    exact readBack3f p 0 0 0 false false 0 0 false false false _ (by simp)
  | mod e c s t v r z =>
    exact readBack3f 0 e c s t v r z false false false _ (by simp)
  | live x y z =>
    exact readBack3f 0 0 0 0 false false 0 z x y false _ (by simp)
  | sched u z =>
    exact readBack3f 0 0 0 0 false false 0 z false false u _ (by simp)
  | eretSkip d a l | eretKill d a l | eretWrite d a l | eretRqrel d a l | eretRqcan d a l | eretDone d a l =>
    exact readBack3d d 0 a l (.eretResume d a l) (by simp)
  | bundleReform | threadPromotion | resultWrite | matrixStart | matrixRetire | storePerformed | l1Fill | hostAccess | tableWalk
  | uncorrectableError | copySectorRequest | copyDelivery | queueSlotArrival | islandContextBoundary | islandAccept | islandResult
  | rasterHandoffRecord | ridgelineEngineWake | ridgelineJobAccept | ridgelineJobEnd | launchQueueWake | launchQueueScan
  | launchReleaseComplete | launchDependenceTest | teamPlace | compactorMove | reorderBatchForm | serviceReply | gridComplete
  | handlerEntryOpen | heldRecordPost | preemptRequest | teamFreeze | preemptDeadline | contextSaveComplete | restoreGo | goResumeFrozen
  | contextCreate | contextDestroy | contextDestroyDone | invalidatePage | invalidateRange | invalidateContext | invalidationComplete
  | scunp | scunpDone | imagePost | imagePostDone | keyInstall | trimCounterClear | fqcWrite | registerWrite | packetHeaderArrival
  | reRequestWindow | reRequest | delivered | chainReservation | chainGrant | chainData | chainDone | linkCrcFailure | refreshSlot
  | weightBankTurn | clockLevelStep | thermalTrip | powerOnReset | die0BringUp | die1BringUp | standardImagePost | lockInterfaceRequest
  | stopInterfaceRequest | endSession | heartbeatLapse | getMeasurements | setCertificate | accumulatorInstructionFinish | tdiEntersError
  | startInterfaceRequest => cases hevent

/-- The one name of a word is as well formed as every other. -/
theorem Instr.flaw_canon_of_wellFormed {i : Instr} (h : i.wellFormed = true) : i.canon.flaw = none := by
  simp only [Instr.wellFormed, Bool.and_eq_true, Bool.not_eq_true', List.all_eq_true] at h
  obtain ⟨⟨hevent, hfits⟩, hchecks⟩ := h
  have hcanon : i.canon.isEvent = i.isEvent ∧ i.canon.fits = i.fits ∧ i.canon.checks = i.checks := by
    unfold Instr.canon
    split <;> exact ⟨rfl, rfl, rfl⟩
  obtain ⟨he, hf, hc⟩ := hcanon
  simp only [Instr.flaw, he, hevent, hf, hfits, hc, Bool.false_eq_true, Bool.not_true, if_false, Option.map_eq_none_iff, List.find?_eq_none]
  intro c hmem
  simp [hchecks c hmem]

/-- A word of some row is one of 32 bits (R104). -/
theorem lt_of_decodeRow_some {w : Nat} {i : Instr} (h : decodeRow w = some i) : w < 2 ^ 32 := by
  by_contra hw
  unfold decodeRow at h
  split at h <;> first | omega | cases h

/-- Settles O48: the word of an instruction is read back by its row, and has no more bits than the opcode map reads. -/
theorem decodingTheWordOfAnInstructionGivesItBack : Obligations.DecodingTheWordOfAnInstructionGivesItBack := by
  intro i h
  have hflaw := Instr.flaw_canon_of_wellFormed h
  simp only [Instr.wellFormed, Bool.and_eq_true, Bool.not_eq_true'] at h
  obtain ⟨⟨hevent, hfits⟩, -⟩ := h
  have hrow := readBack_of_not_event i hevent hfits (encode i) rfl
  exact ⟨lt_of_decodeRow_some hrow, decodeWord_ok_iff.2 ⟨hrow, hflaw⟩⟩

end Sys2Proof
end

section
/-! PROOFS. The control words (R185 to R194, R297, R353) and the hint words (R98 to R102): each goes through what issuing can do, with the
change of PC, the call stack or the end of the thread that its own effect makes. -/

namespace Sys2Proof
namespace Machine

-- ---------------------------------------------------------------- sources

@[simp] theorem State.argsOf_t (s : State) (t : Thread) (i : Issue) : (s.argsOf t i).t = t := rfl

/-- A word without sources has none. -/
theorem sourceVals_nil {t : Thread} {i : Issue} (h : i.srcs = []) : sourceVals t i = [] := by
  rw [sourceVals, h]
  cases t.resume <;> simp

/-- A word of one operand has that source alone. -/
theorem sourceVals_one {t : Thread} {i : Issue} {x : Src} (h : i.srcs = [x]) (hr : 1 ≤ i.recs) : sourceVals t i = [srcOf t i 0] := by
  have hlen : (sourceVals t i).length = 1 := by
    rw [sourceVals, h]
    cases t.resume with
    | none => rfl
    | some r => simp [Nat.min_eq_right hr, List.drop_eq_nil_of_le (show [t.regsFrom x.reg x.n].length ≤ i.recs by simpa using hr)]
  obtain ⟨v, hv⟩ := List.length_eq_one_iff.1 hlen
  rw [srcOf, hv]
  rfl

/-- A word without sources traps with no operand in its record. -/
theorem issue_trap_bare {s : State} {t : Thread} {i : Thread → Issue} {body : Args → State → Res} {cls detail addr : Nat}
    (h : s.Issues t (i t)) (hsrcs : (i t).srcs = []) (hb : body (s.argsOf t (i t)) (s.committed t (i t)) = .trap cls detail addr) :
    issue s i body = .next (s.raiseTrap t cls s.ir detail addr (some 0)) := by
  have hopnd : opndOf (s.argsOf t (i t)).opnd 0 = 0 := by
    simp [State.argsOf, sourceVals_nil hsrcs, opndOf, nth]
  rw [issue_trap h hb, hopnd]

-- ---------------------------------------------------------------- branches

/-- A value that is a word address (R188). -/
theorem targetOk_iff {v : Nat} : targetOk v = true ↔ v % 4 = 0 ∧ v < 2 ^ 52 := by
  simp [targetOk]

/-- A word whose effect jumps takes no counter to 64. -/
theorem State.Issues.room_jump {s : State} {t : Thread} {i : Issue} (h : s.Issues t i) (x : Args) (target : Addr) (lat : Nat) :
    ((s.committed t i).jump x target lat).overCount t.id = false :=
  h.room_fall (State.jump_fall _ _ _ _)

/-- Settles O13: BR by its guard, BRX by whether its target is a word address. -/
theorem branchesComplete : Obligations.BranchesComplete := by
  intro s t
  refine ⟨fun g sv o h => ?br, fun a l h v hv => ⟨fun hok => ?brx, fun hbad => ?bad⟩⟩
  case br =>
    by_cases hg : t.pred g = sv
    · exact (issue_ok (i := fun _ => guardForm g) h (if_pos hg) h.room_committed).trans (by rw [if_pos hg])
    · exact (issue_ok (i := fun _ => guardForm g) h (if_neg hg) (h.room_jump _ _ _)).trans (by rw [if_neg hg]; rfl)
  case brx =>
    subst hv
    exact issue_ok (i := fun _ => targetForm a l) h (if_pos (targetOk_iff.2 hok)) (h.room_jump _ _ _)
  case bad =>
    subst hv
    have hno : ¬ targetOk (srcOf t (targetForm a l) 0) = true := by rw [targetOk_iff]; omega
    refine (issue_trap (i := fun _ => targetForm a l) h (if_neg hno)).trans ?_
    rw [State.argsOf, sourceVals_one (x := ⟨a, 2⟩) rfl (Nat.le_add_left 1 2)]
    rfl

-- ---------------------------------------------------------------- the call stack

/-- A push while the four link slots have room (R189). -/
theorem pushReturn_free {s : State} {x : Args} {ret : Addr} (h : x.t.csd.toNat < 4) :
    s.pushReturn x ret = .ok (s.pushLink x.t ret false) := by
  rw [State.pushReturn, if_pos h]
  rfl

/-- A push onto four slots with no room in the scratch area (R189). -/
theorem pushReturn_overflow {s : State} {x : Args} {ret : Addr} (h : 4 ≤ x.t.csd.toNat) (hfull : s.scratchSize x.t < x.t.ssp.toNat + 8) :
    s.pushReturn x ret = .overflow := by
  rw [State.pushReturn, if_neg (by omega), if_pos hfull]

/-- A push onto four slots with room in the scratch area and no refill of the oldest slot in flight: the oldest is spilled (R189). -/
theorem pushReturn_spill {s : State} {x : Args} {ret : Addr} (h : 4 ≤ x.t.csd.toNat) (hroom : x.t.ssp.toNat + 8 ≤ s.scratchSize x.t)
    (hrefill : ∀ op va, nth x.t.ls 3 .empty ≠ .refill op va) :
    s.pushReturn x ret = .ok ((s.spillOldest x (s.spillVa x.t) (nth x.t.ls 3 .empty)).pushLink x.t ret true) := by
  rw [State.pushReturn, if_neg (by omega), if_neg (by omega)]
  cases hslot : nth x.t.ls 3 .empty with
  | refill op va => exact absurd hslot (hrefill op va)
  | pc _ | mark _ _ | empty => rfl

/-- Moving the link slots counts nothing. -/
theorem State.pushLink_fall (s : State) (t : Thread) (ret : Addr) (grow : Bool) : s.CountersFall (s.pushLink t ret grow) :=
  .keep (fun _ => rfl) fun _ => rfl

/-- Spilling the oldest slot counts one store at most (R459). -/
theorem State.spillOldest_rise (s : State) (x : Args) (va : Nat) (slot : LinkSlot) : s.CountersRise (s.spillOldest x va slot) x.t.id .st := by
  cases slot with
  | pc r => exact s.startAccess_rise x _ _ _ _
  | empty => exact s.startAccess_rise x _ _ _ _
  | mark _ _ => exact fun id k => Nat.le_add_right _ _
  | refill _ _ => exact fun id k => Nat.le_add_right _ _

/-- A taken call, by what its push does. -/
theorem callTaken_of_body {i : Instr} {form : Issue} {s : State} {t : Thread} {target : Addr} {lat : Nat} (body : Args → State → Res)
    (h : s.Issues t form) (hexec : exec i s = issue s (fun _ => form) body)
    (hok : ∀ s2, (s.committed t form).pushReturn (s.argsOf t form) ((s.argsOf t form).t.pc + 4) = .ok s2 →
      body (s.argsOf t form) (s.committed t form) = .ok (s2.jump (s.argsOf t form) target lat))
    (hover : (s.committed t form).pushReturn (s.argsOf t form) ((s.argsOf t form).t.pc + 4) = .overflow →
      body (s.argsOf t form) (s.committed t form) = .trap clsOverflow 0 0) : CallTaken i form s t target lat := by
  refine ⟨fun hfree => ?free, fun hdeep hroom hrefill hst => ?spill, fun hdeep hfull => ?overflow⟩
  case free =>
    exact hexec.trans (issue_ok (i := fun _ => form) h (hok _ (pushReturn_free hfree))
      (h.room_fall ((State.pushLink_fall _ _ _ _).trans (State.jump_fall _ _ _ _))))
  case spill =>
    refine hexec.trans (issue_ok (i := fun _ => form) h (hok _ (pushReturn_spill hdeep hroom hrefill)) (h.room_rise ?_ hst))
    exact (State.spillOldest_rise _ (s.argsOf t form) _ _).fall ((State.pushLink_fall _ _ _ _).trans (State.jump_fall _ _ _ _))
  case overflow =>
    exact hexec.trans (issue_trap (i := fun _ => form) h (hover (pushReturn_overflow hdeep hfull)))

/-- Settles O14: a call that is taken pushes its return PC and jumps; one whose guard holds the sense goes on. -/
theorem callsComplete : Obligations.CallsComplete := by
  intro s t
  refine ⟨fun g sv o h => ⟨fun hg => ?stay, fun hg => ?call⟩, fun a l h v hv hal hlt => ?callx⟩
  case stay => exact issue_ok (i := fun _ => guardForm g) h (if_pos hg) h.room_committed
  case call =>
    exact callTaken_of_body _ h rfl (fun s2 hp => (if_neg hg).trans (by rw [hp]; rfl)) fun hp => (if_neg hg).trans (by rw [hp])
  case callx =>
    subst hv
    have hok : ¬ (! targetOk (srcOf t (targetForm a l) 0)) = true := by
      rw [Bool.not_eq_true', Bool.not_eq_false]
      exact targetOk_iff.2 ⟨hal, hlt⟩
    exact callTaken_of_body _ h rfl (fun s2 hp => (if_neg hok).trans (by rw [hp]; rfl)) fun hp => (if_neg hok).trans (by rw [hp])

/-- Two changes of a thread one after the other. -/
theorem State.updThread_updThread (s : State) (t : ThreadId) (f g : Thread → Thread) (hf : ∀ x, (f x).id = x.id) :
    (s.updThread t f).updThread t g = s.updThread t fun x => g (f x) := by
  simp only [State.updThread, List.map_map]
  congr 1
  refine List.map_congr_left fun x _ => ?_
  by_cases h : x.id = t
  · simp [h, hf]
  · simp [h]

/-- A pop from a stack of four or fewer (R189). -/
theorem popReturn_shallow {s : State} {x : Args} (h : x.t.csd.toNat < 5) : s.popReturn x = s.updThread x.t.id fun u =>
    { u with ls := [nth u.ls 1 .empty, nth u.ls 2 .empty, nth u.ls 3 .empty, .empty], csd := u.csd - 1 } := by
  rw [State.popReturn, if_pos h]

/-- A pop from a deeper stack starts the refill of the oldest slot (R189). -/
theorem popReturn_deep {s : State} {x : Args} (h : 5 ≤ x.t.csd.toNat) : s.popReturn x = (s.updThread x.t.id fun u =>
    { u with
      ls := [nth u.ls 1 .empty, nth u.ls 2 .empty, nth u.ls 3 .empty, .refill s.nextId (s.spillVa x.t - 8)]
      csd := u.csd - 1
      ssp := u.ssp - 8 }).startAccess x (stackAccess .refill (s.spillVa x.t - 8) 0) (some .ld) [] none := by
  rw [State.popReturn, if_neg (by omega)]
  refine congrArg (fun q : State => q.startAccess x _ _ _ _) ?_
  exact State.updThread_updThread s x.t.id _ _ fun _ => rfl

/-- Settles O15: RET goes by link slot 0 and pops; at depth 0 it takes stack underflow. -/
theorem returnCompletes : Obligations.ReturnCompletes := by
  intro s t h
  refine ⟨fun a hslot hal hlt => ?_, fun hdepth => issue_trap_bare (i := fun _ => bareForm) h rfl (if_pos hdepth)⟩
  have hret (hdepth : 1 ≤ t.csd.toNat)
      (hroom : (((s.committed t bareForm).popReturn (s.argsOf t bareForm)).jump (s.argsOf t bareForm) (a.setWidth 52) 8).overCount t.id = false) :
      exec .ret s = .next (((s.committed t bareForm).popReturn (s.argsOf t bareForm)).jump (s.argsOf t bareForm) (a.setWidth 52) 8) := by
    have hne : t.csd ≠ 0 := by rintro h0; simp [h0] at hdepth
    have hok : ¬ (! targetOk a.toNat) = true := by rw [Bool.not_eq_true', Bool.not_eq_false]; exact targetOk_iff.2 ⟨hal, hlt⟩
    refine issue_ok (i := fun _ => bareForm) h ((if_neg hne).trans ?_) hroom
    have hslot' : nth (s.argsOf t bareForm).t.ls 0 .empty = .pc a := hslot
    rw [hslot']
    exact if_neg hok
  refine ⟨fun hpos hshallow => ?shallow, fun hdeep hld => ?deep⟩
  case shallow =>
    rw [popReturn_shallow (x := s.argsOf t bareForm) hshallow] at hret
    refine hret hpos (h.room_fall (State.CountersFall.trans ?_ (State.jump_fall _ _ _ _)))
    exact .keep (fun _ => rfl) fun _ => rfl
  case deep =>
    rw [popReturn_deep (x := s.argsOf t bareForm) hdeep] at hret
    refine hret (by omega) (h.room_rise ?_ hld)
    refine State.CountersRise.fall ?_ (State.jump_fall _ _ _ _)
    refine State.CountersFall.rise ?_ (State.startAccess_rise _ (s.argsOf t bareForm) _ _ _ _)
    exact .keep (fun _ => rfl) fun _ => rfl

-- ---------------------------------------------------------------- the end of a thread

/-- Settles O16: both words end their thread, REORD after its deposit. -/
theorem threadEndsComplete : Obligations.ThreadEndsComplete := by
  intro s t
  refine ⟨fun h => ?exit, fun d a l o n h => ?reord⟩
  case exit => exact issue_ok (i := fun _ => bareForm) h rfl (h.room_fall (State.exitThread_fall _ _))
  case reord =>
    refine issue_ok (i := fun _ => reordForm d a l n) h rfl (h.room_fall (State.CountersFall.trans ?_ (State.exitThread_fall _ _)))
    exact .of_threads rfl

-- ---------------------------------------------------------------- waits, traps, interrupts

/-- Settles O17: each of the four goes on when its condition holds; WAITK and CWAIT are Blocked otherwise. -/
theorem waitsComplete : Obligations.WaitsComplete := by
  intro s t
  refine ⟨fun h => ⟨fun k n hle => ?go, fun k n hlt => ?block, fun hpreq => ?yield, fun sc scope hscope => ?fence⟩,
    fun h => ⟨fun n hsigned => ?cwait, fun n hsigned => ?cblock⟩⟩
  case go => exact issue_ok (i := fun _ => bareForm) h (if_neg (Nat.not_lt.2 hle)) h.room_committed
  case block => exact issue_hold (i := fun _ => bareForm) h (if_pos hlt)
  case yield => exact issue_ok (i := fun _ => bareForm) h (if_neg (Bool.eq_false_iff.1 hpreq)) h.room_committed
  case fence =>
    obtain rfl : (Scope.ofCode sc).getD .dv = scope := by rw [hscope]; rfl
    exact issue_ok (i := fun _ => bareForm) h rfl (h.room_fall (.of_threads rfl))
  case cwait => exact issue_ok (i := fun _ => {}) h (if_neg (Bool.eq_false_iff.1 hsigned)) h.room_committed
  case cblock => exact issue_hold (i := fun _ => {}) h (if_pos hsigned)

/-- A SOFTI to a queue that its context's map names wakes the queue, which tests the dependences of its die again (R194, R343, R346). -/
theorem softi_next {s : State} {t : Thread} {q n : Nat} (h : s.Issues t bareForm) (hq : q ≠ 0x3FF) (hmap : s.mapQueue t.id.ctx q = some n)
    (hroom : ((s.committed t bareForm).wakeLq n).overCount t.id = false) :
    exec (.softi q) s = .next ((s.committed t bareForm).wakeLq n) := by
  have hmap' : (s.committed t bareForm).mapQueue (s.argsOf t bareForm).t.id.ctx q = some n := hmap
  exact issue_ok (i := fun _ => bareForm) h ((if_neg hq).trans (by rw [hmap'])) hroom

/-- A thread at a word of a context whose map names queue 0, on a die where an eligible record without dependence is not ready yet. -/
def waitingRecordState : State :=
  let s := State.reset.withFetchWord 32 0
  let s := (s.updGrid ⟨0, 0⟩ fun g => { g with ready := false }).updCtx 0 fun c => { c with qmap := [0x80] }
  { s with cur := .thread ⟨0, 0, 0, 0⟩ }

/-- The thread of that state. -/
def waitingRecordThread : Thread := newThread ⟨0, 0, 0, 0⟩ 0 0 1 1 0 0 64 [] 0x10000 0

/-- A word without operands issues there. -/
theorem waitingRecordState_issues : waitingRecordState.Issues waitingRecordThread bareForm where
  acting := by decide +kernel
  found := by decide +kernel
  legal := rfl
  accepted := by decide +kernel
  inside := rfl
  budget := by decide +kernel
  present := rfl
  alone := by decide +kernel
  awaited := rfl
  released := by decide +kernel
  settled := by decide +kernel
  room := by intro c; cases c <;> decide +kernel

/-- Refutes O18: a wake of a launch queue also tests the waiting dependences of its die again (R346), so that SOFTI changes more than the
queue: in `waitingRecordState` the record becomes ready. -/
theorem not_trapAndInterruptWordsComplete : ¬ Obligations.TrapAndInterruptWordsComplete := by
  intro hall
  obtain ⟨-, -, -, -, -, hwake, -⟩ := hall waitingRecordState waitingRecordThread
  have h := waitingRecordState_issues
  have hmap : waitingRecordState.mapQueue waitingRecordThread.id.ctx 0 = some 0 := by decide +kernel
  have hclaim := hwake h 0 (by decide) 0 hmap
  rw [softi_next h (by decide) hmap (by decide +kernel)] at hclaim
  have hgrids := congrArg State.grids (Host.Outcome.next.inj hclaim)
  revert hgrids
  decide +kernel

-- ---------------------------------------------------------------- hint words

/-- A hint word that the machine latches by its shared rule latches its payload, or is a misuse. -/
theorem hintLatched_of_exec {i : Instr} {kind pay : Nat} (hexec : ∀ s, exec i s = hintWord kind pay s) : HintLatched i kind pay := by
  refine ⟨fun s t hcur hfound => ?thread, fun s tm sl hcur hteam hslice => ?slice⟩
  case thread =>
    rw [hexec, hintWord, hcur]
    simp only [hfound]
    exact ⟨fun hok => by rw [hok]; rfl, fun hbad => by rw [hbad]; rfl⟩
  case slice =>
    rw [hexec, hintWord, hcur]
    simp only [hteam, hslice]
    exact ⟨fun hok => by rw [hok]; rfl, fun hbad => by rw [hbad]; rfl⟩

/-- Settles O19: the four hint words are latched by the shared rule, each with its kind and payload. -/
theorem hintWordsComplete : Obligations.HintWordsComplete :=
  ⟨fun _ => hintLatched_of_exec fun _ => rfl, fun _ _ _ _ _ _ _ => hintLatched_of_exec fun _ => rfl,
    fun _ _ _ => hintLatched_of_exec fun _ => rfl, fun _ _ => hintLatched_of_exec fun _ => rfl⟩

end Machine
end Sys2Proof
end

section
/-! PROOFS. Convergence sets: declaration, withdrawal and signature (R184 to R199). -/

namespace Sys2Proof
namespace Machine

-- ---------------------------------------------------------------- teams of committed words

/-- A word that issues leaves its team as it was, but for the cycle of its last issue (R97). -/
theorem State.committed_team {s : State} {t : Thread} {i : Issue} {tm : Team} (hid : tm.id = t.id.teamId) (h : s.team? tm.id = some tm) :
    (s.committed t i).team? t.id.teamId = some (tm.issuedAt (s.now (s.coreOf t.id))) := by
  rw [State.committed, State.team_updTeam _ _ (fun _ => by rfl), State.team_updThread, ← hid, h]
  rfl

@[simp] theorem Team.issuedAt_cr (tm : Team) (now n : Nat) : (tm.issuedAt now).cr n = tm.cr n := rfl

/-- Changing a team's convergence register counts nothing. -/
theorem State.setCr_fall (s : State) (t : TeamId) (n : Nat) (c : ConvReg) : s.CountersFall (s.setCr t n c) := .of_threads rfl

-- ---------------------------------------------------------------- declarations

/-- The conditions of R196 under which valid ranks are declared: no rank beyond the team, and the thread's own among them. -/
def RanksFit (t : Thread) (ranks : List Nat) : Prop := (∀ r ∈ ranks, r < t.tsize) ∧ t.id.rank ∈ ranks

/-- Ranks that fit pass the test of a declaration (R196). -/
theorem RanksFit.passes {t : Thread} {ranks : List Nat} (h : RanksFit t ranks) :
    ¬ (false || ranks.any (fun r => decide (t.tsize ≤ r)) || ! ranks.contains t.id.rank) = true := by
  obtain ⟨hall, hmem⟩ := h
  simpa [hmem] using hall

/-- The members that a declaration makes of a Free register (R196). -/
theorem State.freshMembers_eq (s : State) (t : ThreadId) (ranks : List Nat) : s.freshMembers t ranks = ranks.map fun r =>
    (⟨r, if r = t.rank then .declared else if (match s.thread? ⟨t.ctx, t.grid, t.team, r⟩ with
      | some x => decide (x.st = .exited)
      | none => true) = true then .withdrawn else .undeclared, none⟩ : Member) := by
  refine List.map_congr_left fun r _ => ?_
  congr 2
  cases s.thread? ⟨t.ctx, t.grid, t.team, r⟩ <;> simp

section declare

variable {s1 : State} {x : Args} {n : Nat} {ranks : List Nat} {fresh : ConvReg → ConvReg} {tm : Team} {c : ConvReg}

/-- Valid ranks declared in a Free register (R196). -/
theorem declare_free (hteam : s1.team? x.t.id.teamId = some tm) (hc : tm.cr n = c) (hfit : RanksFit x.t ranks) (hfree : c.kind = .free) :
    declare s1 x n ranks false fresh =
      .ok (s1.setCr x.t.id.teamId n { fresh c with members := s1.freshMembers x.t.id ranks }) := by
  simp only [declare, hteam, hc]
  rw [if_neg hfit.passes, if_pos hfree, State.freshMembers_eq] <;> rfl

/-- An undeclared member of a register with the same membership joins it (R196). -/
theorem declare_join (hteam : s1.team? x.t.id.teamId = some tm) (hc : tm.cr n = c) (hfit : RanksFit x.t ranks) (hkind : c.kind ≠ .free)
    (hranks : c.members.map (·.rank) = ranks) (hstatus : c.status x.t.id.rank = some .undeclared) :
    declare s1 x n ranks false fresh =
      .ok (s1.setCr x.t.id.teamId n (c.upd x.t.id.rank fun m => { m with st := .declared })) := by
  simp only [declare, hteam, hc]
  rw [if_neg hfit.passes, if_neg hkind, if_neg (not_not.2 hranks), hstatus]

/-- A member that is declared or has signed declares again to no effect (R196). -/
theorem declare_again (hteam : s1.team? x.t.id.teamId = some tm) (hc : tm.cr n = c) (hfit : RanksFit x.t ranks) (hkind : c.kind ≠ .free)
    (hranks : c.members.map (·.rank) = ranks)
    (hstatus : c.status x.t.id.rank = some .declared ∨ c.status x.t.id.rank = some .signed) :
    declare s1 x n ranks false fresh = .ok s1 := by
  simp only [declare, hteam, hc]
  rw [if_neg hfit.passes, if_neg hkind, if_neg (not_not.2 hranks)]
  rcases hstatus with hstatus | hstatus <;> rw [hstatus]

end declare

/-- A declaration of valid ranks does what R196 says of the register it finds. -/
theorem declares_of_body {i : Instr} {form : Issue} {n : Nat} {s : State} {t : Thread} {tm : Team} {ranks : List Nat}
    {fresh : ConvReg → ConvReg} (body : Args → State → Res) (h : s.Issues t form) (hid : tm.id = t.id.teamId) (hteam : s.team? tm.id = some tm)
    (hfit : RanksFit t ranks) (hexec : exec i s = issue s (fun _ => form) body)
    (hbody : body (s.argsOf t form) (s.committed t form) = declare (s.committed t form) (s.argsOf t form) n ranks false fresh) :
    Declares i form n s t tm ranks fresh := by
  have hcommitted : (s.committed t form).team? (s.argsOf t form).t.id.teamId = _ := State.committed_team hid hteam
  have hrun {q : State} (hb : declare (s.committed t form) (s.argsOf t form) n ranks false fresh = .ok q)
      (hq : (s.committed t form).CountersFall q) : exec i s = .next q :=
    hexec.trans (issue_ok (i := fun _ => form) h (hbody.trans hb) (h.room_fall hq))
  rw [Declares, hid]
  refine ⟨fun hfree => ?free, fun hkind hranks => ⟨fun hstatus => ?join, fun hstatus => ?again⟩⟩
  case free => exact hrun (declare_free hcommitted rfl hfit hfree) (State.setCr_fall _ _ _ _)
  case join => exact hrun (declare_join hcommitted rfl hfit hkind hranks hstatus) (State.setCr_fall _ _ _ _)
  case again => exact hrun (declare_again hcommitted rfl hfit hkind hranks hstatus) .rfl

/-- A rank lies in a range of ranks when it lies between its ends (R184). -/
theorem mem_rangeRanks {lo hi r : Nat} : r ∈ rangeRanks lo hi ↔ lo ≤ r ∧ r ≤ hi := by
  simp only [rangeRanks, List.mem_map, List.mem_range]
  exact ⟨fun ⟨k, hk, e⟩ => by omega, fun h => ⟨r - lo, by omega, by omega⟩⟩

/-- A member of a set in its own register, by a word that issues (R197, R198). -/
theorem status_committed {s : State} {t : Thread} {form : Issue} {tm : Team} (hid : tm.id = t.id.teamId) (hteam : s.team? tm.id = some tm)
    (n : Nat) : ∃ tm2, (s.committed t form).team? t.id.teamId = some tm2 ∧ tm2.cr n = tm.cr n :=
  ⟨_, State.committed_team hid hteam, rfl⟩

/-- Settles O20: the declarations by the register they find, the withdrawal, and the signature with the settling of its phase. -/
theorem setWordsComplete : Obligations.SetWordsComplete := by
  refine ⟨fun s t tm hid hteam => ⟨fun a l n v lo hi h hv hlo hhi => ⟨fun hlow hhigh hfrom hto hsize => ?range, fun hless hmember => ?withdraw⟩,
    fun d a l n v base mask h hv hmask hbase hlow haligned hnone hself hsize => ?mask⟩, fun s t tm n hid hteam h hstatus => ?sign⟩
  case range =>
    subst hv hlo hhi
    refine declares_of_body _ h hid hteam ⟨fun r hr => ?_, mem_rangeRanks.2 ⟨hfrom, hto⟩⟩ rfl ((if_neg ?_).trans ?_)
    · have := mem_rangeRanks.1 hr
      omega
    · exact Nat.not_lt.2 (hfrom.trans hto)
    · have hbits : (decide (bits (nth (s.argsOf t (rangeForm a l)).vals 0 0) 14 2 ≠ 0) ||
          decide (bits (nth (s.argsOf t (rangeForm a l)).vals 0 0) 30 2 ≠ 0)) = false := by
        simp only [Bool.or_eq_false_iff, decide_eq_false_iff_not, not_not]
        exact ⟨hlow, hhigh⟩
      rw [hbits]
      rfl
  case withdraw =>
    subst hv hlo hhi
    obtain ⟨tm2, hteam2, hcr⟩ := status_committed (form := rangeForm a l) hid hteam n
    refine issue_ok (i := fun _ => rangeForm a l) h ((if_pos hless).trans ?_) (h.room_fall (State.withdraw_fall _ _ _ _))
    simp only [State.argsOf_t, hteam2, hcr, hmember, hid, if_true]
  case mask =>
    subst hv hmask hbase
    refine declares_of_body _ h hid hteam ⟨hsize, hself⟩ rfl ?_
    have hbits : (decide (bits (nth (s.argsOf t (maskForm d a l)).vals 0 0) 14 18 ≠ 0) ||
        decide (bits (nth (s.argsOf t (maskForm d a l)).vals 0 0) 0 14 % 64 ≠ 0) ||
        decide (nth (s.argsOf t (maskForm d a l)).vals 1 0 = 0)) = false := by
      simp only [Bool.or_eq_false_iff, decide_eq_false_iff_not, not_not]
      exact ⟨⟨hlow, haligned⟩, hnone⟩
    dsimp only
    rw [hbits]
    rfl
  case sign =>
    obtain ⟨tm2, hteam2, hcr⟩ := status_committed (form := { wait := t.signed.getLsbD n }) hid hteam n
    refine issue_ok (i := fun t => { wait := t.signed.getLsbD n }) h ?_ (h.room_fall ?_)
    · simp only [State.argsOf_t, hteam2, hcr, hid]
      rcases hstatus with hstatus | hstatus <;> rw [hstatus]
    · refine State.CountersFall.trans ?_ (State.settle_fall _ _ _)
      refine State.CountersFall.trans ?_ (State.setCr_fall _ _ _ _)
      exact .keep (fun _ => rfl) fun _ => rfl

end Machine
end Sys2Proof
end

section
/-! PROOFS. What reset leaves, the words that the spec writes out, the words reserved to kernel mode, and the words that read the clock and
draw (R95 to R113, R252, R373, R470 to R487). -/

namespace Sys2Proof
namespace Machine

-- ---------------------------------------------------------------- reset and fixed words

/-- An entry of a list of copies of the default is the default. -/
theorem nth_replicate {α : Type} (n i : Nat) (x : α) : nth (List.replicate n x) i x = x := by
  rw [nth, List.getD_eq_getElem?_getD, List.getElem?_getD_replicate_default_eq]

/-- The launch queues reset leaves wake none (R339). -/
theorem reset_lq_idle (q : Nat) : (State.reset.lq q).pw = false :=
  congrArg LaunchQ.pw (nth_replicate 32 q _)

/-- Settles O52: each field as reset leaves it. -/
theorem resetLeavesAnEmptyDevice : Obligations.ResetLeavesAnEmptyDevice := by
  refine ⟨rfl, rfl, rfl, rfl, rfl, rfl, rfl, rfl, rfl, rfl, rfl, rfl, rfl, rfl, rfl, rfl, fun slot _ => nth_replicate 16 slot _, ?keys, rfl, rfl, ?cycles,
    fun q _ => reset_lq_idle q, ⟨rfl, rfl, ?teams, ?grids⟩, fun _ => rfl, fun _ => rfl⟩
  case keys => decide
  case cycles => decide
  case teams => exact List.forall_mem_nil _
  case grids => exact List.forall_mem_nil _

/-- Settles O50: each word by the decoder. -/
theorem wordsOfTheSpecDecode : Obligations.WordsOfTheSpecDecode := by
  refine ⟨rfl, rfl, rfl, rfl, rfl, rfl, rfl, rfl, rfl, rfl, rfl, rfl, rfl, rfl, rfl, rfl, rfl, rfl, rfl⟩

-- ---------------------------------------------------------------- words of kernel mode

/-- A word with a flaw takes illegal instruction (R113). -/
theorem issue_flaw {s : State} {t : Thread} {i : Thread → Issue} {body : Args → State → Res} (hcur : s.cur = .thread t.id)
    (ht : s.thread? t.id = some t) (hflaw : (i t).flaw = true) : issue s i body = .next (s.raiseTrap t clsIllegal s.ir 0 0 none) := by
  rw [issue_next hcur ht, issueThread, hflaw]
  rfl

/-- A special register from 0x100 up is no good outside kernel mode (R373). -/
theorem badSpecial_outside_kernel {s : State} {t : Thread} {n : Nat} (hmode : s.kernelMode t.id.gridId = false) (hn : 0x100 ≤ n) :
    s.badSpecial t n = true := by
  have huser : userSpecial n = false := by
    simp only [userSpecial, Bool.or_eq_false_iff, Bool.and_eq_false_iff, decide_eq_false_iff_not]
    omega
  simp [State.badSpecial, huser, hmode]

/-- Settles O59: each of the words has a flaw outside kernel mode. -/
theorem kernelWordsTrapOutsideKernelMode : Obligations.KernelWordsTrapOutsideKernelMode := by
  intro s t d a n l hcur ht hmode hn
  have hkernel : (! s.kernelMode t.id.gridId) = true := by rw [hmode]; rfl
  have hspecial := badSpecial_outside_kernel hmode hn
  simp only [List.forall_mem_cons, List.not_mem_nil, false_imp_iff, implies_true, and_true]
  refine ⟨?resume, ?skip, ?kill, ?write, ?rqrel, ?rqcan, ?done, ?halt, ?movsr, ?movrs⟩
  case movsr => exact issue_flaw hcur ht (Bool.or_eq_true_iff.2 (.inl hspecial))
  case movrs => exact issue_flaw hcur ht hspecial
  all_goals exact issue_flaw hcur ht hkernel

-- ---------------------------------------------------------------- cycles and draws

/-- Settles O36: the words run by their frames; the cycle count of a die is read modulo 2^64. -/
theorem cyclesAndDrawsComplete : Obligations.CyclesAndDrawsComplete := by
  intro s t d a l b m k
  refine ⟨fun form hform h => ?rdcyc, fun form hform h => ?rngx, fun form hform h sum hsum => ?rngadd⟩
  case rdcyc =>
    subst hform
    have hwords (n : Nat) : pairWords (n % 2 ^ 64) = [n % 2 ^ 32, n / 2 ^ 32 % 2 ^ 32] := by
      simp only [pairWords, List.cons.injEq, and_true]
      omega
    exact (issue_result (i := fun _ => _) h).trans (by rw [hwords]; rfl)
  case rngx =>
    subst hform
    exact issue_result (i := fun _ => _) h
  case rngadd =>
    subst hform hsum
    have hwords (x : Nat) : quadWords x = [x % 2 ^ 32, x / 2 ^ 32 % 2 ^ 32, x / 2 ^ 64 % 2 ^ 32, x / 2 ^ 96 % 2 ^ 32] := by
      simp only [quadWords, bits, pow_zero, Nat.div_one]
    exact (issue_result (i := fun _ => _) h).trans (by rw [hwords]; rfl)

end Machine
end Sys2Proof
end

section
/-! PROOFS. Loads, stores, atomics and the address words at issue (R239, R240, R246, R289 to R304): what each starts, waits for or traps at. -/

namespace Sys2Proof
namespace Machine

-- ---------------------------------------------------------------- addresses

/-- A valid address takes no trap (R239, R240). -/
theorem rangeTrap_valid {scr ea size : Nat} {space : Space} (h : AddressValid scr space ea size) : rangeTrap scr space ea size = none := by
  obtain ⟨halign, hrange⟩ := h
  unfold rangeTrap
  rw [if_neg (not_not.2 halign)]
  cases space with
  | g => rfl
  | s => exact if_neg (Nat.not_le.2 hrange)
  | k => exact if_neg (Nat.not_lt.2 (Nat.le_of_lt_succ hrange))
  | w => exact if_neg (Nat.not_le.2 hrange)

/-- A bad address takes the trap of its class (R239, R240). -/
theorem rangeTrap_bad {scr ea size cls : Nat} {space : Space} (h : BadAddress scr space ea size cls) :
    rangeTrap scr space ea size = some cls := by
  unfold rangeTrap
  rcases h with ⟨hodd, rfl⟩ | ⟨halign, rfl, hrange⟩
  · exact if_pos hodd
  · rw [if_neg (not_not.2 halign)]
    cases space with
    | g => exact hrange.elim
    | s => exact if_pos hrange
    | k => exact if_pos hrange
    | w => exact if_pos hrange

/-- What follows an address check, when the address is valid. -/
theorem match_valid {α : Type} {r : Option Nat} {f : Nat → α} {b : α} : r = none → (match r with
    | some cls => f cls
    | none => b) = b := by
  rintro rfl
  rfl

/-- What follows an address check, when the address takes a trap. -/
theorem match_trap {α : Type} {r : Option Nat} {f : Nat → α} {b : α} {cls : Nat} : r = some cls → (match r with
    | some cls => f cls
    | none => b) = f cls := by
  rintro rfl
  rfl

-- ---------------------------------------------------------------- accesses and their counters

/-- An access of a class whose counter stands at 63 takes it to 64 (R459). -/
theorem State.startAccess_full {s : State} {t : Thread} {form : Issue} (h : s.Issues t form) {c : KClass} (hc : t.counter c = 63)
    (a : Access) (dests : List Nat) (due : Option Nat) :
    ((s.committed t form).startAccess (s.argsOf t form) a (some c) dests due).overCount t.id = true := by
  obtain ⟨p, hp⟩ := (s.committed t form).startAccess_threads (s.argsOf t form) a (some c) dests due
  have hthread : ((s.committed t form).startAccess (s.argsOf t form) a (some c) dests due).thread? t.id =
      some { (t.commit form (s.now (s.coreOf t.id))).count c (s.committed t form).nextId with
        lastPage := p ((t.commit form (s.now (s.coreOf t.id))).count c (s.committed t form).nextId) } := by
    refine (congrArg (List.find? _) hp).trans ?_
    exact State.thread_updThread_some (State.thread_updThread_some h.committed_thread fun _ => rfl) fun _ => rfl
  have hcounter : Thread.counter ((t.commit form (s.now (s.coreOf t.id))).count c (s.committed t form).nextId) c = 64 := by
    simp only [Thread.counter] at hc
    simp [Thread.counter, Thread.count, hc]
  simp only [State.overCount, hthread, List.any_eq_true, decide_eq_true_eq]
  exact ⟨c, by cases c <;> decide, hcounter.ge⟩

/-- A word whose effect starts an access does what an access does at issue (R290, R459, R460). -/
theorem accessIssued_of_body {w : Instr} {s : State} {t : Thread} {i : Thread → Issue} {body : Args → State → Res} {a : Access} {c : KClass}
    {dests : List Nat} {due : Option Nat} (h : s.Issues t (i t)) (hexec : exec w s = issue s i body)
    (hbody : body (s.argsOf t (i t)) (s.committed t (i t)) =
      .ok ((s.committed t (i t)).startAccess (s.argsOf t (i t)) a (some c) dests due)) :
    AccessIssued w (i t) s t a c dests due :=
  ⟨fun hroom => hexec.trans (issue_ok h hbody (h.room_rise (State.startAccess_rise _ _ _ _ _ _) hroom)),
    fun hfull => hexec.trans (issue_full h hbody (State.startAccess_full h hfull _ _ _))⟩

-- ---------------------------------------------------------------- loads and stores

/-- A word that runs by the frame of a load does what a load does. -/
theorem loads_of_exec {i : Instr} {space : Space} {sx : Bool} {size d a : Nat} {l : Bool} {g : Nat} {gs : Bool} {off : List Word → Int}
    (hexec : ∀ s, exec i s = loadWord space sx size d a l g gs off s) : Loads i space sx size d a l g gs off := by
  intro s t form hform h
  subst hform
  have hrun : exec i s = issue s (fun _ => loadForm s space size d a l g) _ := (hexec s).trans rfl
  refine ⟨fun hg => ?idle, fun hg ea hea hvalid => ⟨fun habsent => ?absent, fun hblocked => ?blocked, fun hpresent hfree acc hacc => ?starts⟩⟩
  case idle => exact hrun.trans (issue_ok (i := fun _ => _) h (if_pos hg) h.room_committed)
  case absent =>
    subst hea
    exact hrun.trans (issue_hold (i := fun _ => _) h ((if_neg hg).trans ((match_valid (rangeTrap_valid hvalid)).trans (if_pos habsent))))
  case blocked =>
    subst hea
    have hpresent : ¬ (space = .s ∧ s.lineAbsent t.id.teamId (effAddr space (srcOf t (loadForm s space size d a l g) 0) (off t.latch) / 128) = true) :=
      fun hs => nomatch hs.1.symm.trans hblocked.1
    exact hrun.trans (issue_hold (i := fun _ => _) h ((if_neg hg).trans ((match_valid (rangeTrap_valid hvalid)).trans
      ((if_neg hpresent).trans (if_pos hblocked)))))
  case starts =>
    subst hea hacc
    exact accessIssued_of_body (i := fun _ => _) h hrun ((if_neg hg).trans ((match_valid (rangeTrap_valid hvalid)).trans
      ((if_neg hpresent).trans (if_neg hfree))))

/-- A word that runs by the frame of a store does what a store does. -/
theorem stores_of_exec {i : Instr} {space : Space} {size d a : Nat} {l : Bool} {g : Nat} {gs : Bool} {off : List Word → Int}
    (hexec : ∀ s, exec i s = storeWord space size d a l g gs off s) : Stores i space size d a l g gs off := by
  intro s t form hform h
  subst hform
  have hrun : exec i s = issue s (fun t => storeForm t space size d a l g) _ := (hexec s).trans rfl
  refine ⟨fun hg => ?idle, fun hg ea hea hvalid => ⟨fun htagged => ?clobber, fun huntagged => ?starts⟩⟩
  case idle => exact hrun.trans (issue_ok (i := fun t => storeForm t space size d a l g) h (if_pos hg) h.room_committed)
  case clobber =>
    subst hea
    exact hrun.trans (issue_trap (i := fun t => storeForm t space size d a l g) h ((if_neg hg).trans
      ((match_valid (rangeTrap_valid hvalid)).trans (if_pos htagged))))
  case starts =>
    subst hea
    exact accessIssued_of_body (i := fun t => storeForm t space size d a l g) h hrun ((if_neg hg).trans
      ((match_valid (rangeTrap_valid hvalid)).trans (if_neg huntagged)))

/-- The sizes of the general words (R111). -/
theorem sizeOfCode_eq {z : Nat} (hz : z < 7) : sizeOfCode z = nth [1, 2, 4, 8, 16, 1, 2] z 0 := by
  interval_cases z <;> rfl

/-- The spaces of the general words (R111). -/
theorem spaceOfCode_eq {p : Nat} (hp : p < 4) : Space.ofCode p = nth [.g, .s, .k, .w] p .g := by
  interval_cases p <;> rfl

/-- Settles O23: each word runs by the frame of a store. -/
theorem storesComplete : Obligations.StoresComplete := by
  intro d a l g gs o p z
  refine ⟨stores_of_exec fun _ => rfl, stores_of_exec fun _ => rfl, stores_of_exec fun _ => rfl, fun hp hz => ?_⟩
  have hspace : nth [Space.g, .s] p .g = Space.ofCode p := by interval_cases p <;> rfl
  rw [hspace, ← sizeOfCode_eq hz]
  exact stores_of_exec fun _ => rfl

/-- Every LD does what a load does (R290). -/
theorem loads_hold (d a : Nat) (l : Bool) (g : Nat) (gs : Bool) (o p z : Nat) :
    Loads (.ldGB32 d a l g gs o) .g false 4 d a l g gs (fun h => memOffset h o 4) ∧
    Loads (.ldGB64 d a l g gs o) .g false 8 d a l g gs (fun h => memOffset h o 8) ∧
    Loads (.ldSB32 d a l g gs o) .s false 4 d a l g gs (fun h => memOffset h o 4) ∧
    (p < 4 → z < 7 → Loads (.ldGeneral d a l gs g p z) (nth [.g, .s, .k, .w] p .g) (decide (5 ≤ z)) (nth [1, 2, 4, 8, 16, 1, 2] z 0) d a l g gs
      (fun h => memOffsetGeneral h (nth [1, 2, 4, 8, 16, 1, 2] z 0))) := by
  refine ⟨loads_of_exec fun _ => rfl, loads_of_exec fun _ => rfl, loads_of_exec fun _ => rfl, fun hp hz => ?_⟩
  rw [← spaceOfCode_eq hp, ← sizeOfCode_eq hz]
  exact loads_of_exec fun _ => rfl

-- ---------------------------------------------------------------- atomics

/-- A word that runs by the frame of an atomic does what an atomic does; the second value is ATOMC's. -/
theorem atomics_of_exec {i : Instr} {kind : AccKind} {d n outs a : Nat} {l p w : Bool} {sv : Nat} {new : Nat → Nat}
    (hexec : ∀ s, exec i s = atomWord kind d n outs a l p w sv s)
    (hnew : ∀ v, (if kind = .cas then v / 256 ^ (if w then 8 else 4) else 0) = new v) : Atomics i kind d n outs a l p w sv new := by
  intro s t form hform h space size ea hspace hsize hea hvalid
  subst hform hspace hsize hea
  have hrun : exec i s = issue s (fun t => atomForm t d n outs a l p sv) _ := (hexec s).trans rfl
  refine ⟨fun htagged => ?clobber, fun huntagged => ⟨fun habsent => ?absent, fun hpresent => ?starts⟩⟩
  case clobber =>
    exact hrun.trans (issue_trap (i := fun t => atomForm t d n outs a l p sv) h
      ((match_valid (rangeTrap_valid hvalid)).trans (if_pos htagged)))
  case absent =>
    exact hrun.trans (issue_hold (i := fun t => atomForm t d n outs a l p sv) h
      ((match_valid (rangeTrap_valid hvalid)).trans ((if_neg huntagged).trans (if_pos habsent))))
  case starts =>
    rw [← hnew]
    exact accessIssued_of_body (i := fun t => atomForm t d n outs a l p sv) h hrun
      ((match_valid (rangeTrap_valid hvalid)).trans ((if_neg huntagged).trans (if_neg hpresent)))

/-- ATOM and ATOMC do what an atomic does (R294, R295). -/
theorem atomics_hold (d a : Nat) (l p w : Bool) (o sv : Nat) :
    Atomics (.atom d a l p w o sv) (.atom o) d (if w then 2 else 1) (if w then 2 else 1) a l p w sv (fun _ => 0) ∧
    Atomics (.atomc d a l p w sv) .cas d (if w then 4 else 2) (if w then 2 else 1) a l p w sv (fun v => v / 256 ^ (if w then 8 else 4)) :=
  ⟨atomics_of_exec (fun _ => rfl) fun _ => if_neg nofun, atomics_of_exec (fun _ => rfl) fun _ => if_pos rfl⟩

-- ---------------------------------------------------------------- address words

/-- Settles O25: each word starts its access at a valid address; the cache and pin words check none. -/
theorem addressWordsComplete : Obligations.AddressWordsComplete := by
  intro s t d a l p w sv
  refine ⟨fun form hform h space size ea hspace hsize hea hvalid hpresent => ?wait, fun form hform h space ea hspace hea hvalid => ?wake,
    fun form hform h => ?line, fun form hform h => ?pin⟩ <;> subst hform
  case wait =>
    subst hspace hsize hea
    exact issue_ok (i := fun _ => waitForm d a l p w) h ((match_valid (rangeTrap_valid hvalid)).trans (if_neg hpresent))
      (h.room_fall (State.startAccess_fall _ _ _ _ _))
  case wake =>
    subst hspace hea
    exact accessIssued_of_body (i := fun _ => wakeForm d a l p) h rfl (match_valid (rangeTrap_valid hvalid))
  case line => exact ⟨accessIssued_of_body (i := fun _ => lineForm a l) h rfl rfl, accessIssued_of_body (i := fun _ => lineForm a l) h rfl rfl⟩
  case pin => exact ⟨accessIssued_of_body (i := fun _ => pinForm d a l) h rfl rfl, accessIssued_of_body (i := fun _ => pinForm d a l) h rfl rfl⟩

-- ---------------------------------------------------------------- bad addresses

/-- A load of a bad address traps (R239, R240). -/
theorem load_trapsAtAddress {i : Instr} {space : Space} {sx : Bool} {size d a : Nat} {l : Bool} {g : Nat} {gs : Bool}
    {off : List Word → Int} (hexec : ∀ s, exec i s = loadWord space sx size d a l g gs off s) :
    TrapsAtAddress i space size (fun s _ => loadForm s space size d a l g) (fun t => t.pred g ≠ gs) off := by
  intro s t h hg ea cls hea hbad
  subst hea
  exact (hexec s).trans (issue_trap (i := fun _ => loadForm s space size d a l g) h ((if_neg hg).trans (match_trap (rangeTrap_bad hbad))))

/-- A store to a bad address traps (R239, R240). -/
theorem store_trapsAtAddress {i : Instr} {space : Space} {size d a : Nat} {l : Bool} {g : Nat} {gs : Bool}
    {off : List Word → Int} (hexec : ∀ s, exec i s = storeWord space size d a l g gs off s) :
    TrapsAtAddress i space size (fun _ t => storeForm t space size d a l g) (fun t => t.pred g ≠ gs) off := by
  intro s t h hg ea cls hea hbad
  subst hea
  exact (hexec s).trans (issue_trap (i := fun t => storeForm t space size d a l g) h ((if_neg hg).trans (match_trap (rangeTrap_bad hbad))))

/-- An atomic at a bad address traps (R239, R240). -/
theorem atomic_trapsAtAddress {i : Instr} {kind : AccKind} {d n outs a : Nat} {l p w : Bool} {sv : Nat}
    (hexec : ∀ s, exec i s = atomWord kind d n outs a l p w sv s) :
    TrapsAtAddress i (if p then .s else .g) (if w then 8 else 4) (fun _ t => atomForm t d n outs a l p sv) (fun _ => True) (fun _ => 0) := by
  intro s t h _ ea cls hea hbad
  subst hea
  exact (hexec s).trans (issue_trap (i := fun t => atomForm t d n outs a l p sv) h (match_trap (rangeTrap_bad hbad)))

/-- Settles O60: each word traps by the address check of its frame. -/
theorem badAddressesTrap : Obligations.BadAddressesTrap := by
  intro d a l g gs o p z w sv
  refine ⟨load_trapsAtAddress fun _ => rfl, load_trapsAtAddress fun _ => rfl, load_trapsAtAddress fun _ => rfl, store_trapsAtAddress fun _ => rfl,
    store_trapsAtAddress fun _ => rfl, store_trapsAtAddress fun _ => rfl, fun hp hz space size hspace hsize => ?_,
    fun k => ⟨atomic_trapsAtAddress fun _ => rfl, atomic_trapsAtAddress fun _ => rfl⟩⟩
  rw [← spaceOfCode_eq hp] at hspace
  rw [← sizeOfCode_eq hz] at hsize
  subst hspace hsize
  exact ⟨load_trapsAtAddress fun _ => rfl, fun _ => store_trapsAtAddress fun _ => rfl⟩

end Machine
end Sys2Proof
end

section
/-! PROOFS. The matrix words at issue (R220, R221) and the words of the accumulator tiles (R229 to R234). -/

namespace Sys2Proof
namespace Machine

-- ---------------------------------------------------------------- what issuing keeps

/-- Two effects that agree where a word issues make the same word. -/
theorem issue_congr {s : State} {t : Thread} {i : Thread → Issue} {body body' : Args → State → Res} (h : s.Issues t (i t))
    (hb : body (s.argsOf t (i t)) (s.committed t (i t)) = body' (s.argsOf t (i t)) (s.committed t (i t))) : issue s i body = issue s i body' := by
  rw [issue_eq_body h, issue_eq_body h, hb]

/-- The team found under a name has that name. -/
theorem State.team_id {s : State} {id : TeamId} {tm : Team} (h : s.team? id = some tm) : tm.id = id := by
  simpa using List.find?_some h

/-- Teams that change only in the cycle of their last issue hold the same open deposits (R221). -/
theorem State.openDeposits_committed (s : State) (t : Thread) (form : Issue) (core part : Nat) :
    (s.committed t form).openDeposits core part = s.openDeposits core part := by
  unfold State.openDeposits
  refine congrArg List.sum ((List.map_map ..).trans (List.map_congr_left fun tm _ => ?_))
  dsimp only [Function.comp]
  split <;> rfl

/-- A word that issues leaves the tags of the scratchpads (R246). -/
theorem State.tagged_committed (s : State) (t : Thread) (form : Issue) (id : TeamId) (off n : Nat) :
    (s.committed t form).tagged id off n = s.tagged id off n := by
  unfold State.tagged
  by_cases hid : id = t.id.teamId
  · rw [hid]
    rw [show (s.committed t form).team? t.id.teamId = (s.team? t.id.teamId).map _ from State.team_updTeam _ _ fun _ => rfl]
    cases s.team? t.id.teamId <;> rfl
  · rw [show (s.committed t form).team? id = s.team? id from State.team_updTeam_ne hid _ fun _ => rfl]

/-- The operands of a word that issues. -/
@[simp] theorem State.argsOf_val (s : State) (t : Thread) (form : Issue) (k : Nat) : nth (s.argsOf t form).vals k 0 = srcOf t form k := rfl

/-- A word that issues leaves the class of the tiles (R78). -/
@[simp] theorem State.tileWide_committed (s : State) (t : Thread) (form : Issue) (g : GridId) (tile : Nat) :
    (s.committed t form).tileWide g tile = s.tileWide g tile := rfl

@[simp] theorem Team.absentIn_issuedAt (tm : Team) (now off n : Nat) : (tm.issuedAt now).absentIn off n = tm.absentIn off n := rfl

/-- A word that issues leaves what an engine entry of the team may read (R230). -/
theorem State.tileRead_committed {s : State} {t : Thread} {tm : Team} (h : s.team? t.id.teamId = some tm) (form : Issue) (tile : Nat) (site : Option Nat) :
    (s.committed t form).tileRead t.id.teamId tile site = s.tileRead t.id.teamId tile site := by
  have hteam := State.committed_team (s := s) (i := form) (State.team_id h) ((congrArg _ (State.team_id h)).trans h)
  unfold State.tileRead
  rw [hteam, h]
  cases site <;> rfl

/-- One of two tests passes. -/
theorem decide_or_true {p q : Prop} [Decidable p] [Decidable q] (h : p ∨ q) : (decide p || decide q) = true := by
  simpa using h

-- ---------------------------------------------------------------- matrix deposits

/-- A matrix word that is ready deposits its sources (R220, R221). -/
theorem matrixDeposits_of_exec {i : Instr} {kind sa sb : Nat} {l : Bool} {slot cn tile : Nat}
    (hexec : ∀ s, exec i s = matrixWord kind sa sb l slot cn tile s) : MatrixDeposits i kind sa sb l slot cn tile := by
  intro s t tm form hform h a b hb ha hready
  subst hform
  obtain ⟨hfound, hroom, hclass, hdeclared, hfree, hsourceA, hsourceB, hinsideA, hinsideB, hcounter⟩ := hready
  have hteam := State.committed_team (s := s) (i := matrixForm s t kind sa sb l slot cn tile) (State.team_id hfound)
    ((congrArg _ (State.team_id hfound)).trans hfound)
  rw [hexec]
  refine issue_ok (i := fun t => matrixForm s t kind sa sb l slot cn tile) h ?body (h.room_rise (c := .mx) ?rise hcounter)
  case body =>
    subst ha hb
    have hset : ¬ (! (decide ((tm.cr cn).status t.id.rank = some .declared) || decide ((tm.cr cn).status t.id.rank = some .signed)) ||
        (match (generalizing := false) (tm.cr cn).deposit t.id.rank with
          | some d => ! d.signed
          | none => false)) = true := by
      have hsigned : ∀ d, (tm.cr cn).deposit t.id.rank = some d → d.signed = true := hfree
      rw [decide_or_true hdeclared]
      cases hd : (tm.cr cn).deposit t.id.rank with
      | none => decide
      | some d => simp [hsigned d hd]
    have hsources : ¬ (! srcOk (srcOf t (matrixForm s t kind sa sb l slot cn tile) 1) ||
        ! srcOk (srcOf t (matrixForm s t kind sa sb l slot cn tile) 0)) = true := by
      rw [hsourceA, hsourceB]
      decide
    have hlimit : ¬ 4 ≤ (s.committed t (matrixForm s t kind sa sb l slot cn tile)).openDeposits (s.coreOf t.id) (s.partOf t.id) := by
      rw [State.openDeposits_committed]
      exact Nat.not_le.2 hroom
    dsimp only [State.argsOf_t]
    rw [hteam]
    exact (if_neg hlimit).trans ((if_neg (not_not.2 hclass)).trans ((if_neg hset).trans ((if_neg hsources).trans
      ((if_neg (Bool.not_eq_true _ ▸ hinsideA)).trans (if_neg (Bool.not_eq_true _ ▸ hinsideB))))))
  case rise =>
    exact State.CountersFall.rise (.of_threads rfl) (State.CountersRise.count _ _ _ _)

/-- Settles O26: each matrix word runs by the one frame. -/
theorem matrixWordsComplete : Obligations.MatrixWordsComplete := fun _ _ _ _ _ _ =>
  ⟨matrixDeposits_of_exec fun _ => rfl, matrixDeposits_of_exec fun _ => rfl, matrixDeposits_of_exec fun _ => rfl,
    matrixDeposits_of_exec fun _ => rfl, matrixDeposits_of_exec fun _ => rfl⟩

-- ---------------------------------------------------------------- accumulator words

/-- An accumulator word that finds its tiles ready runs its effect (R229, R230). -/
theorem accWord_ready {i : Thread → Issue} {tiles : List Nat} {slot writes : Option Nat} {addr : Bool} {body : Args → Team → Nat → State → Res}
    {s : State} {t : Thread} {tm : Team} (h : s.Issues t (accForm s t (i t) tiles)) (hready : s.TilesReady t tm tiles writes.toList)
    (hclass : ∀ k, slot = some k → decide ((s.slotOf t k).matrixClass = some 0) = s.tileWide t.id.gridId (nth tiles 0 0))
    (haddr : addr = true → ImageAddress s t tm (nth tiles 0 0) (srcOf t (accForm s t (i t) tiles) 0)) :
    accWord i tiles slot writes addr body s = issue s (fun t => accForm s t (i t) tiles)
      fun x s1 => body x (tm.issuedAt (s.now (s.coreOf t.id))) (tm.siteFor t.id.rank) s1 := by
  obtain ⟨hfound, halike, hunwritten, hunheld⟩ := hready
  have hteam := State.committed_team (s := s) (i := accForm s t (i t) tiles) (State.team_id hfound)
    ((congrArg _ (State.team_id hfound)).trans hfound)
  refine issue_congr (i := fun t => accForm s t (i t) tiles) h ?_
  have hwrong : (match (generalizing := false) slot with
      | some k => decide (decide ((Slot.ofWord (s.slotWord t.id.gridId k)).matrixClass = some 0) ≠ s.tileWide t.id.gridId (nth tiles 0 0))
      | none => tiles.any fun x => s.tileWide t.id.gridId x ≠ s.tileWide t.id.gridId (nth tiles 0 0)) ≠ true := by
    cases slot with
    | none => simpa using halike
    | some k => exact not_not.2 (hclass k rfl) ∘ of_decide_eq_true
  have hword : (addr && ! addrWordOk (srcOf t (accForm s t (i t) tiles) 0)) ≠ true := by
    cases addr with
    | false => exact Bool.false_ne_true
    | true =>
      obtain ⟨hlow, haligned, -⟩ := haddr rfl
      simpa [addrWordOk, haligned] using hlow
  have hinside : (addr && decide (tm.scr * 4096 < srcOf t (accForm s t (i t) tiles) 0 + 1024 * elemSize (s.tileWide t.id.gridId (nth tiles 0 0)))) ≠ true := by
    cases addr with
    | false => exact Bool.false_ne_true
    | true =>
      obtain ⟨-, -, hend⟩ := haddr rfl
      simpa using hend
  have hquiet : tiles.any (tm.tileWritten (tm.siteFor t.id.rank)) ≠ true := by simpa using hunwritten
  have hunread : (match (generalizing := false) writes with
      | some x => tm.tileHeld (tm.siteFor t.id.rank) x || (s.committed t (accForm s t (i t) tiles)).tileRead tm.id x (some (tm.siteFor t.id.rank))
      | none => false) ≠ true := by
    cases writes with
    | none => exact Bool.false_ne_true
    | some x =>
      obtain ⟨hheld, hread⟩ := hunheld x (List.mem_singleton.2 rfl)
      have hafter := (State.tileRead_committed hfound (accForm s t (i t) tiles) x (some (tm.siteFor t.id.rank))).trans
        ((congrArg (s.tileRead · x _) (State.team_id hfound).symm).trans hread)
      rw [← State.team_id hfound] at hafter
      simp [hheld, hafter]
  dsimp only [State.argsOf_t]
  rw [hteam]
  exact (if_neg hwrong).trans ((if_neg hword).trans ((if_neg hinside).trans ((if_neg hquiet).trans (if_neg hunread))))

/-- An entry of an engine's order counts nothing. -/
theorem State.addEntry_fall (s : State) (x : Args) (kind tile tile2 a b site lat opId : Nat) :
    s.CountersFall (s.addEntry x kind tile tile2 a b site lat opId) := .of_threads rfl

/-- Setting a share counts nothing. -/
theorem State.updTeam_fall (s : State) (id : TeamId) (f : Team → Team) : s.CountersFall (s.updTeam id f) := .of_threads rfl

/-- Settles O27: each tile word runs its effect once its tiles are ready. -/
theorem tileWordsComplete : Obligations.TileWordsComplete := by
  intro s t tm tile other a l
  refine ⟨fun form hform h hready => ?zero, fun form hform h hready => ?move,
    fun form off hform hoff h hready himage n hn => ⟨fun line habsent => ?loadAbsent, fun hpresent hfree => ?load⟩,
    fun form off hform hoff h hready himage n hn => ⟨fun htagged => ?storeClobber, fun huntagged hroom => ?store⟩⟩ <;> subst hform
  case zero =>
    change execAczero tile s = _
    unfold execAczero
    refine (accWord_ready (i := fun _ => {}) (slot := none) (writes := some tile) (addr := false) h hready nofun nofun).trans ?_
    refine issue_ok (i := fun t => accForm s t {} [tile]) h rfl (h.room_fall ?_)
    exact (State.updTeam_fall _ _ _).trans (State.addEntry_fall _ _ _ _ _ _ _ _ _ _)
  case move =>
    change execAcmov other tile s = _
    unfold execAcmov
    refine (accWord_ready (i := fun _ => {}) (slot := none) (writes := some tile) (addr := false) h hready nofun nofun).trans ?_
    refine issue_ok (i := fun t => accForm s t {} [tile, other]) h rfl (h.room_fall ?_)
    exact (State.updTeam_fall _ _ _).trans (State.addEntry_fall _ _ _ _ _ _ _ _ _ _)
  case loadAbsent =>
    subst hoff hn
    change execAcld a l tile s = _
    unfold execAcld
    refine (accWord_ready (i := fun _ => { srcs := [⟨a, 1⟩], kills := killIf l ⟨a, 1⟩ }) (slot := none) (writes := some tile) (addr := true) h hready nofun fun _ => himage).trans ?_
    refine issue_hold (i := fun t => accForm s t (acFormA a l) [tile]) h ?_
    dsimp only [State.argsOf_t, State.argsOf_val, State.tileWide_committed, Team.absentIn_issuedAt]
    rw [habsent]
  case load =>
    subst hoff hn
    change execAcld a l tile s = _
    unfold execAcld
    refine (accWord_ready (i := fun _ => { srcs := [⟨a, 1⟩], kills := killIf l ⟨a, 1⟩ }) (slot := none) (writes := some tile) (addr := true) h hready nofun fun _ => himage).trans ?_
    refine issue_ok (i := fun t => accForm s t (acFormA a l) [tile]) h ?_ (h.room_fall
      ((State.updTeam_fall _ _ _).trans (State.addEntry_fall _ _ _ _ _ _ _ _ _ _)))
    dsimp only [State.argsOf_t, State.argsOf_val, State.tileWide_committed, Team.absentIn_issuedAt]
    rw [hpresent]
    exact if_neg (Bool.not_eq_true _ ▸ hfree)
  case storeClobber =>
    subst hoff hn
    change execAcst a l tile s = _
    unfold execAcst
    refine (accWord_ready (i := fun _ => { srcs := [⟨a, 1⟩], kills := killIf l ⟨a, 1⟩ }) (slot := none) (writes := none) (addr := true) h hready nofun fun _ => himage).trans ?_
    exact issue_trap (i := fun t => accForm s t (acFormA a l) [tile]) h (if_pos ((State.tagged_committed ..).trans htagged))
  case store =>
    subst hoff hn
    change execAcst a l tile s = _
    unfold execAcst
    refine (accWord_ready (i := fun _ => { srcs := [⟨a, 1⟩], kills := killIf l ⟨a, 1⟩ }) (slot := none) (writes := none) (addr := true) h hready nofun fun _ => himage).trans ?_
    refine issue_ok (i := fun t => accForm s t (acFormA a l) [tile]) h (if_neg ?_) (h.room_rise (c := .mx) ?_ hroom)
    · rw [Bool.not_eq_true]
      exact (State.tagged_committed ..).trans huntagged
    · exact State.CountersRise.fall (State.CountersFall.rise (.of_threads rfl) (State.CountersRise.count _ _ _ _)) (State.addEntry_fall _ _ _ _ _ _ _ _ _ _)

/-- The element ACRES resolves, by what the thread resumes from (R167, R233). -/
theorem acresElem_issuedAt (t : Thread) (tm : Team) (now : Nat) (wide : Bool) (tile w : Nat) :
    (match t.resume with
      | some r => (match r.image with
        | some i => Elem.ofImage wide i
        | none => (tm.issuedAt now).elem tile (tm.siteFor t.id.rank) (elemIndex w))
      | none => (tm.issuedAt now).elem tile (tm.siteFor t.id.rank) (elemIndex w)) = acresElem t tm wide tile w := by
  unfold acresElem
  rcases t.resume with _ | r
  · rfl
  · cases hi : r.image <;> simp only [Option.bind_some, hi] <;> rfl

/-- The rounding code of ACRES, by what the thread resumes from (R233). -/
theorem acresMode_eq (t : Thread) (x : Slot) : acresMode t x =
    (match t.resume with
      | some r => if r.image.isSome then r.rc else if x.rm = 6 then fpcRounding t else x.rm
      | none => if x.rm = 6 then fpcRounding t else x.rm) := by
  unfold acresMode
  rcases t.resume with _ | r
  · rfl
  · cases hi : r.image <;> simp [hi]

/-- Any of the six enables holds the next word after ACRES (R233). -/
theorem holds_acres (en : Nat) : decide (en &&& holdMaskAcres ≠ 0) = decide (en % 64 ≠ 0) := by
  rw [show en &&& holdMaskAcres = en % 64 from Nat.and_two_pow_sub_one_eq_mod en 6]

/-- The result of ACRES, held by its mask (R233). -/
theorem acresOp_eq (s : State) (x : Args) (d n lat rc : Nat) (el : Elem) (wide : Bool) (r : Nat × Nat) :
    acresOp s x d n lat rc el wide r = { acresOp s x d n lat rc el wide r with holds := decide (enables x.t &&& holdMaskAcres ≠ 0) } := by
  rw [holds_acres]
  rfl

/-- Settles O28: each element word runs its effect once its tiles are ready. -/
theorem elementWordsComplete : Obligations.ElementWordsComplete := by
  intro s t tm d a l sv tile other
  refine ⟨fun form hform h hready x wide hx hwide hclass el rc n hel hrc hn s2 hs2 => ?resolve, fun form hform h hready i hi => ?compare⟩ <;> subst hform
  case resolve =>
    subst hx hwide
    change execAcres d a l sv tile s = _
    unfold execAcres
    refine (accWord_ready (i := fun t => acresForm s t d a l sv) (slot := some sv) (writes := none) (addr := false) h hready (fun k hk => Option.some.inj hk ▸ hclass) nofun).trans ?_
    refine issue_ok (i := fun t => accForm s t (acresForm s t d a l sv) [tile]) h ?_ ?_
    · subst hs2 hn hrc hel
      rw [← acresElem_issuedAt t tm (s.now (s.coreOf t.id)), acresMode_eq]
      rw [acresOp_eq]
      rfl
    · subst hs2
      exact h.room_fall (.of_threads rfl)
  case compare =>
    subst hi
    change execAccmp d a l other tile s = _
    unfold execAccmp
    refine (accWord_ready (i := fun _ => { srcs := [⟨a, 1⟩], dests := [d], kills := killIf l ⟨a, 1⟩ }) (slot := none) (writes := none) (addr := false) h hready nofun nofun).trans ?_
    exact issue_ok (i := fun t => accForm s t { acFormA a l with dests := [d] } [tile, other]) h rfl (h.room_result _ _ _)

end Machine
end Sys2Proof
end

section
/-! PROOFS. The words of the operand queues (R313 to R321) and the submissions to islands (R322 to R325). -/

namespace Sys2Proof
namespace Machine

-- ---------------------------------------------------------------- teams of committed words

@[simp] theorem Team.queue_issuedAt (tm : Team) (now q : Nat) : (tm.issuedAt now).queue q = tm.queue q := rfl

/-- A word that issues finds its team, issued at the present cycle (R97). -/
theorem State.team_committed {s : State} {t : Thread} {tm : Team} (h : s.team? t.id.teamId = some tm) (form : Issue) :
    (s.committed t form).team? t.id.teamId = some (tm.issuedAt (s.now (s.coreOf t.id))) :=
  State.committed_team (State.team_id h) ((congrArg _ (State.team_id h)).trans h)

-- ---------------------------------------------------------------- QPOP and QPEEK

/-- Popping counts nothing. -/
theorem State.popped_fall (s : State) (tm : Team) (pop : Bool) (q i now : Nat) : s.CountersFall (s.popped tm pop q i now) := by
  cases pop
  · exact .rfl
  · exact State.updTeam_fall _ _ _

/-- A word that runs by the frame of a pop does what a pop does. -/
theorem pops_of_exec {i : Instr} {pop : Bool} {d a : Nat} {l : Bool} {q z : Nat} (hexec : ∀ s, exec i s = popWord pop d a l q z s) :
    Pops i pop d a l q z := by
  intro s t tm form hform h hteam n off hn hoff
  subst hform hn hoff
  rw [hexec]
  have hfound := State.team_committed hteam (popForm d a l z)
  refine ⟨fun hsize hodd => ?misaligned, fun halign => ⟨fun hnone => ?idle, fun k hfront => ⟨fun hst => ?pending, fun hst =>
    ⟨fun hsize hpoison => ?marked, fun hsize => ?empties, fun hsize hclean => ?reads⟩⟩⟩⟩
  case misaligned => exact issue_trap (i := fun _ => popForm d a l z) h (if_pos ⟨hsize, hodd⟩)
  all_goals
    have heven : ¬ (popSize z ≠ 0 ∧ srcOf t (popForm d a l z) 0 % 256 % popSize z ≠ 0) := by
      rintro ⟨hsize, hodd⟩
      exact halign.elim hsize hodd
  case idle =>
    refine issue_hold (i := fun _ => popForm d a l z) h ((if_neg heven).trans ?_)
    simp only [State.argsOf_t, hfound, Team.queue_issuedAt, hnone]
  case pending =>
    refine issue_hold (i := fun _ => popForm d a l z) h ((if_neg heven).trans ?_)
    simp only [State.argsOf_t, hfound, Team.queue_issuedAt, hfront]
    exact if_pos hst
  case marked =>
    refine issue_trap (i := fun _ => popForm d a l z) h ((if_neg heven).trans ?_)
    simp only [State.argsOf_t, hfound, Team.queue_issuedAt, hfront]
    exact (if_neg (not_not.2 hst)).trans (if_pos ⟨hsize, hpoison⟩)
  case empties =>
    refine issue_ok (i := fun _ => popForm d a l z) h ((if_neg heven).trans ?_) (h.room_fall (State.popped_fall _ _ _ _ _ _))
    simp only [State.argsOf_t, hfound, Team.queue_issuedAt, hfront]
    exact (if_neg (not_not.2 hst)).trans ((if_neg (not_and.2 fun hne => absurd hsize hne)).trans (congrArg Res.ok (if_pos hsize)))
  case reads =>
    refine issue_ok (i := fun _ => popForm d a l z) h ((if_neg heven).trans ?_)
      (h.room_fall ((State.popped_fall _ _ _ _ _ _).trans (.of_threads rfl)))
    simp only [State.argsOf_t, hfound, Team.queue_issuedAt, hfront]
    exact (if_neg (not_not.2 hst)).trans ((if_neg (not_and.2 fun _ => Bool.not_eq_true _ ▸ hclean)).trans (congrArg Res.ok (if_neg hsize)))

-- ---------------------------------------------------------------- QPUSH

/-- Settles O29: pops and peeks by their frame; a push reserves its slot and reads its bytes at issue. -/
theorem queueWordsComplete : Obligations.QueueWordsComplete := by
  intro d a l q z
  refine ⟨pops_of_exec fun _ => rfl, pops_of_exec fun _ => rfl, fun s t tm h hteam off hoff halign hinside hpresent hfree =>
    ⟨fun hfull => ?full, fun hroom hcounter res s2 op hres hs2 hop => ?push⟩⟩
  all_goals
    subst hoff
    have hfound := State.team_committed hteam (acFormA a l)
    have hregion : ¬ s.scrOf t.id.teamId * 4096 < srcOf t (acFormA a l) 0 + 256 := by
      rw [State.scrOf, hteam]
      exact Nat.not_lt.2 hinside
  case full =>
    refine issue_hold (i := fun _ => acFormA a l) h ((if_neg (not_not.2 halign)).trans ((if_neg hregion).trans ?_))
    simp only [State.argsOf_t, State.argsOf_val, hfound, Team.absentIn_issuedAt, hpresent, Team.queue_issuedAt]
    exact (if_neg (Bool.not_eq_true _ ▸ hfree)).trans (if_pos (by rw [show (s.argsOf t (acFormA a l)).now = s.now (s.coreOf t.id) from rfl, hfull]; rfl))
  case push =>
    subst hres hs2 hop
    refine issue_ok (i := fun _ => acFormA a l) h ((if_neg (not_not.2 halign)).trans ((if_neg hregion).trans ?_)) (h.room_rise (c := .st) ?_ hcounter)
    · simp only [State.argsOf_t, State.argsOf_val, hfound, Team.absentIn_issuedAt, hpresent, Team.queue_issuedAt]
      exact (if_neg (Bool.not_eq_true _ ▸ hfree)).trans (if_neg (by rw [show (s.argsOf t (acFormA a l)).now = s.now (s.coreOf t.id) from rfl, hroom]; decide))
    · exact State.CountersFall.rise (.of_threads rfl) (State.CountersRise.count _ _ _ _)

-- ---------------------------------------------------------------- submissions

/-- A word whose body waits at the word and leaves a trace of its wait. -/
theorem issue_holdWith {s s2 : State} {t : Thread} {i : Thread → Issue} {body : Args → State → Res} {st : TState} (h : s.Issues t (i t))
    (hb : body (s.argsOf t (i t)) (s.committed t (i t)) = .holdWith st s2) (hr : s2.overCount t.id = false) :
    issue s i body = .next (s2.setWaiting t.id st) := by
  rw [issue_eq_body h, hb]
  simp [hr]

/-- Counting one operation raises its counter by one, whatever else of the thread changes (R459). -/
theorem State.CountersRise.count_as {s : State} {t : ThreadId} {c : KClass} {op : Nat} {f : Thread → Thread} (hid : ∀ x, (f x).id = x.id)
    (hout : ∀ x, (f x).outstanding = (x.count c op).outstanding) : s.CountersRise (s.updThread t f) t c := by
  intro id k
  refine Nat.le_trans (Nat.le_of_eq ?_) (State.CountersRise.count s t c op id k)
  by_cases h : id = t
  · subst h
    simp only [State.counterOf, State.thread_updThread (s := s) id f hid,
      State.thread_updThread (s := s) id (fun x => x.count c op) (fun _ => rfl)]
    cases s.thread? id with
    | none => rfl
    | some x => simp only [Option.map_some, Thread.counter, hout]
  · simp only [State.counterOf, State.thread_updThread_ne (s := s) h f hid,
      State.thread_updThread_ne (s := s) h (fun x => x.count c op) (fun _ => rfl)]

/-- A wait for an island takes a word over no count. -/
theorem State.overCount_waitIsland {s : State} {t : Thread} {form : Issue} (h : s.Issues t form) (x : Island) (ctx : Nat) :
    (s.waitIsland x ctx).overCount t.id = false :=
  State.overCount_of_thread (s := s.waitIsland x ctx) h.found h.room

/-- A control word with no reserved bit set, and an island number only for the class that has one, passes the test of ISUB (R322). -/
theorem isub_word_passes {ctl c : Nat} (hbit : bitAt ctl 3 = false) (hhigh : bits ctl 18 14 = 0) (hri : c ≠ 0 → bits ctl 16 2 = 0) :
    ¬ (bitAt ctl 3 = true ∨ bits ctl 18 14 ≠ 0 ∨ (c ≠ 0 ∧ bits ctl 16 2 ≠ 0)) := by
  rintro (hset | hset | ⟨hc, hset⟩)
  · exact Bool.false_ne_true (hbit.symm.trans hset)
  · exact hset hhigh
  · exact hset (hri hc)

/-- What is true does not fail its negation. -/
theorem not_not_of_true {b : Bool} (h : b = true) : ¬ (! b) = true := by rw [h]; exact Bool.false_ne_true

/-- What is false passes its negation. -/
theorem not_of_false {b : Bool} (h : b = false) : (! b) = true := by rw [h]; rfl

/-- What is there is not none. -/
theorem not_isNone_of_isSome {α : Type} {o : Option α} (h : o.isSome = true) : ¬ o.isNone = true := by
  cases o with
  | none => exact absurd h Bool.false_ne_true
  | some x => exact Bool.false_ne_true

/-- Settles O30: the submissions by what their island and their queue allow. -/
theorem submissionsComplete : Obligations.SubmissionsComplete := by
  intro s t tm d a l hteam
  refine ⟨fun c r form hform h ctl hctl hbit hhigh hri himage isl go hisl hgo => ?isub,
    fun form hform h ctl np hctl hnp hmid hhigh hpay himage => ⟨fun g hlaunch hdeep => ?recursion, fun g hlaunch hdepth t1 ht1 =>
      ⟨fun hsmall => ?overflow, fun hspace isl go hisl hgo => ⟨fun hwait => ?traceWaits, fun hgoes hcounter => ?traces⟩⟩⟩⟩
  case isub =>
    subst hform hctl hisl hgo
    have hfound := State.team_committed hteam (isubForm d a l r)
    have hword := isub_word_passes (c := c) hbit hhigh hri
    have hbound := not_isNone_of_isSome himage
    refine ⟨fun hgo => ?waits, fun hgo hfull => ?blocked, fun hgo hroom hcounter res s2 hres hs2 => ?submits⟩
    case waits =>
      refine issue_holdWith (i := fun _ => isubForm d a l r) h ((if_neg hword).trans ((if_neg hbound).trans ?_)) (State.overCount_waitIsland h _ _)
      simp only [State.argsOf_t, State.argsOf_val, hfound]
      exact if_pos (not_of_false hgo)
    case blocked =>
      refine issue_hold (i := fun _ => isubForm d a l r) h ((if_neg hword).trans ((if_neg hbound).trans ?_))
      simp only [State.argsOf_t, State.argsOf_val, hfound, Team.queue_issuedAt]
      exact (if_neg (not_not_of_true hgo)).trans (if_pos (not_of_false hfull))
    case submits =>
      subst hres hs2
      refine issue_ok (i := fun _ => isubForm d a l r) h ((if_neg hword).trans ((if_neg hbound).trans ?_)) (h.room_rise (c := .is) ?_ hcounter)
      · simp only [State.argsOf_t, State.argsOf_val, hfound, Team.queue_issuedAt]
        exact (if_neg (not_not_of_true hgo)).trans (if_neg (not_not_of_true hroom))
      · exact State.CountersFall.rise (.of_threads rfl) (State.CountersRise.fall (State.CountersRise.count _ _ _ _) (.of_threads rfl))
  all_goals
    subst hform hctl hnp
    have hword : ¬ (bits (srcOf t (traceForm d a l) 0) 5 3 ≠ 0 ∨ bits (srcOf t (traceForm d a l) 0) 16 16 ≠ 0 ∨
        24 < bits (srcOf t (traceForm d a l) 0) 0 5) := by
      rintro (hset | hset | hmany)
      · exact hset hmid
      · exact hset hhigh
      · exact Nat.not_lt.2 hpay hmany
    have hbound := not_isNone_of_isSome himage
    have hgrid : (s.committed t (traceForm d a l)).launchOf t.id.gridId = some g := hlaunch
  case recursion =>
    refine issue_trap (i := fun _ => traceForm d a l) h ((if_neg hword).trans ((if_neg hbound).trans ?_))
    simp only [State.argsOf_t, State.argsOf_val, hgrid]
    exact if_pos hdeep
  all_goals subst ht1
  case overflow =>
    refine issue_trap (i := fun _ => traceForm d a l) h ((if_neg hword).trans ((if_neg hbound).trans ?_))
    simp only [State.argsOf_t, State.argsOf_val, hgrid]
    exact (if_neg (Nat.not_le.2 hdepth)).trans (if_pos hsmall)
  case traceWaits =>
    subst hisl hgo
    refine issue_holdWith (i := fun _ => traceForm d a l) h ((if_neg hword).trans ((if_neg hbound).trans ?_)) (State.overCount_waitIsland h _ _)
    simp only [State.argsOf_t, State.argsOf_val, hgrid]
    exact (if_neg (Nat.not_le.2 hdepth)).trans ((if_neg (Nat.not_lt.2 hspace)).trans (if_pos (not_of_false hwait)))
  case traces =>
    subst hisl hgo
    refine issue_ok (i := fun _ => traceForm d a l) h ((if_neg hword).trans ((if_neg hbound).trans ?_)) (h.room_rise (c := .is) ?_ hcounter)
    · simp only [State.argsOf_t, State.argsOf_val, hgrid]
      exact (if_neg (Nat.not_le.2 hdepth)).trans ((if_neg (Nat.not_lt.2 hspace)).trans (if_neg (not_not_of_true hgoes)))
    · have hrise := State.CountersRise.count_as (s := s.committed t (traceForm d a l)) (t := t.id) (c := .is) (op := s.nextId)
        (f := fun u => u.traced t.freeFrames (traceFrame t d (bits (srcOf t (traceForm d a l) 0) 0 5)) s.nextId) (fun _ => rfl) fun _ => rfl
      exact State.CountersRise.fall hrise (.of_threads rfl)

end Machine
end Sys2Proof
end

section
/-! PROOFS. The words of an access slice (R327 to R334). -/

namespace Sys2Proof
namespace Machine

section words

variable {s : State} {tm : Team} {sl : Slice} {h : Hints} {body : Team → Slice → SliceRes}

/-- A word of a running slice runs its effect. -/
theorem sliceWord_runs (hr : s.SliceRuns tm sl h) : sliceWord h s body = match body tm sl with
    | .wait => .next s
    | .stop cls addr => .next (s.stopSlice tm.id cls s.ir addr)
    | .go sl1 s1 => .next (s1.setSlice tm.id sl1) := by
  obtain ⟨hacting, hfound, hslice, hrunning, haccepted⟩ := hr
  simp only [sliceWord, hacting, hfound, hslice, hrunning, haccepted, ne_eq, not_true_eq_false, if_false, Bool.not_true, Bool.false_eq_true] <;> rfl

/-- A word whose effect moves the slice on. -/
theorem sliceWord_go {sl1 : Slice} {s1 : State} (hr : s.SliceRuns tm sl h) (hb : body tm sl = .go sl1 s1) :
    sliceWord h s body = .next (s1.setSlice tm.id sl1) := by
  rw [sliceWord_runs hr, hb]

/-- A word whose effect waits. -/
theorem sliceWord_wait (hr : s.SliceRuns tm sl h) (hb : body tm sl = .wait) : sliceWord h s body = .next s := by
  rw [sliceWord_runs hr, hb]

/-- A word whose effect stops the slice. -/
theorem sliceWord_stop {cls addr : Nat} (hr : s.SliceRuns tm sl h) (hb : body tm sl = .stop cls addr) :
    sliceWord h s body = .next (s.stopSlice tm.id cls s.ir addr) := by
  rw [sliceWord_runs hr, hb]

end words

/-- A loop level that begins its next iteration counts it. -/
theorem LoopLevel.again_it (lv : LoopLevel) : lv.again = { lv with it := BitVec.ofNat 32 (lv.it.toNat + 1) } := by
  simp [LoopLevel.again, BitVec.ofNat_add]

/-- The words of a slice that read no memory do what R329 says. -/
theorem sliceImmediates_hold (s : State) (tm : Team) (sl : Slice) (c d a i : Nat) (hr : s.SliceRuns tm sl { schedOnly with imm := 2 }) :
    (sl.loops.length < 4 → SliceGoes (.aLoop c) s tm s
      (sl.next.withLoops (sl.loops ++ [⟨sl.apc + 4, BitVec.ofNat 32 (latchPay0 sl.latch 0 * 2 ^ 9 + c + 1), 0⟩]))) ∧
    (4 ≤ sl.loops.length → exec (.aLoop c) s = .next (s.stopSlice tm.id clsIllegal s.ir 0)) ∧
    SliceGoes (.aAddr d a i) s tm s (sl.next.withStride d a (wrap (imm9 sl.latch i * 32) 32)) ∧
    SliceGoes (.aBase d a i) s tm s (sl.next.withX d
      (wrap ((sl.xreg d : Int) + (if a = 8 then 1 else (sl.xreg a : Int)) * (imm9 sl.latch i * 32)) 64)) := by
  unfold SliceGoes
  have hv : ((if a = 8 then 1 else sl.xreg a : Nat) : Int) = if a = 8 then 1 else (sl.xreg a : Int) := by split <;> rfl
  rw [← hv]
  refine ⟨fun hroom => sliceWord_go hr (if_neg (Nat.not_le.2 hroom)), fun hfull => sliceWord_stop hr (if_pos hfull), ?addr, ?base⟩
  case addr =>
    change execAAddr d a i s = _
    exact sliceWord_go hr rfl
  case base =>
    change execABase d a i s = _
    exact sliceWord_go hr rfl

/-- A.END closes the innermost loop level, or begins its next iteration (R330). -/
theorem aEnd_holds {s : State} {tm : Team} {sl : Slice} (hr : s.SliceRuns tm sl schedOnly) {outer : List LoopLevel} {lv : LoopLevel}
    (hloops : sl.loops = outer ++ [lv]) :
    (lv.it.toNat + 1 < lv.cnt.toNat → SliceGoes .aEnd s tm s (((sl.next.advance outer.length 1).at lv.start).withLoops (outer ++ [lv.again]))) ∧
    (lv.cnt.toNat ≤ lv.it.toNat + 1 → SliceGoes .aEnd s tm s ((sl.next.advance outer.length (-((lv.cnt.toNat : Int) - 1))).withLoops outer)) := by
  have hlast : sl.loops.getLast? = some lv := by rw [hloops, List.getLast?_concat]
  have hlevel : sl.loops.length - 1 = outer.length := by rw [hloops, List.length_append]; rfl
  have hdrop : sl.loops.dropLast = outer := by rw [hloops, List.dropLast_concat]
  unfold SliceGoes
  refine ⟨fun hmore => sliceWord_go hr ?_, fun hdone => sliceWord_go hr ?_⟩ <;> simp only [hlast, hlevel, hdrop]
  · rw [LoopLevel.again_it]
    exact if_pos hmore
  · exact if_neg (Nat.not_lt.2 hdone)

/-- A.WAITQ pops the front of its queue once it is Ready, and waits before (R333). -/
theorem aWaitq_holds {s : State} {tm : Team} {sl : Slice} (hr : s.SliceRuns tm sl schedOnly) (d : Nat) :
    ((tm.queue d).front = none → exec (.aWaitq d) s = .next s) ∧
    (∀ k, (tm.queue d).front = some k →
      (((tm.queue d).slot k).st ≠ .ready → exec (.aWaitq d) s = .next s) ∧
      (((tm.queue d).slot k).st = .ready → SliceGoes (.aWaitq d) s tm
        (s.updTeam tm.id fun u => u.updQueue d fun y => y.pop (s.now tm.core) k) sl.next)) := by
  unfold SliceGoes
  refine ⟨fun hnone => sliceWord_wait hr ?_, fun k hfront => ⟨fun hst => sliceWord_wait hr ?_, fun hst => sliceWord_go hr ?_⟩⟩
  · simp only [hnone]
  · simp only [hfront]
    exact if_pos hst
  · simp only [hfront]
    exact if_neg (not_not.2 hst)

/-- The first number of a range that fails a test. -/
theorem find_range_first {n k : Nat} {p : Nat → Bool} (hk : k < n) (hbefore : ∀ j < k, p j = false) (hp : p k = true) :
    (List.range n).find? p = some k := by
  rw [List.find?_range_eq_some]
  exact ⟨hp, List.mem_range.2 hk, fun j hj => by rw [hbefore j hj]; rfl⟩

/-- A word that runs by the frame of a slice load does what a slice load does. -/
theorem queueLoads_of_exec {i : Instr} {weight : Bool} {d a sv r : Nat} (hexec : ∀ s, exec i s = loadQueue weight d a sv r s) :
    QueueLoads i weight d a sv r := by
  intro s tm sl hr stride hstride
  subst hstride
  unfold SliceGoes
  rw [hexec]
  unfold loadQueue
  refine ⟨fun hw hno => ?absent, fun hw hhas hfar => ?range, fun hthere k hk hbefore hodd => ?misaligned,
    fun hthere heven => ⟨fun hfull => ?waits, fun hroom hlimit res rd hres hrd => ?loads⟩⟩
  case absent => exact sliceWord_stop hr (if_pos ⟨hw, not_of_false hno⟩)
  case range =>
    refine sliceWord_stop hr ((if_neg fun h => absurd h.2 (not_not_of_true hhas)).trans (if_pos ⟨hw, ?_⟩))
    exact Nat.pos_iff_ne_zero.1 (Nat.div_pos hfar (by decide))
  all_goals
    have hpresent : ¬ (weight = true ∧ (! s.hasWeights) = true) := fun h => absurd h.2 (not_not_of_true (hthere h.1).1)
    have hnear : ¬ (weight = true ∧ sl.xreg a / 2 ^ 31 ≠ 0) := fun h => h.2 (Nat.div_eq_of_lt (hthere h.1).2)
  case misaligned =>
    refine sliceWord_stop hr ((if_neg hpresent).trans ((if_neg hnear).trans ?_))
    rw [find_range_first hk (fun j hj => decide_eq_false (not_not.2 (hbefore j hj))) (decide_eq_true hodd)]
  all_goals
    have hfind : ((List.range (2 ^ r)).find? fun i : Nat => decide (wrap ((sl.xreg a : Int) + (i : Nat) * (if r = 0 then 0 else sext (sl.xreg sv) 32))
        (if weight then 31 else 64) % 32 ≠ 0)) = none := by
      rw [List.find?_eq_none]
      exact fun j hj => by simpa using heven j (List.mem_range.1 hj)
  case waits =>
    refine sliceWord_wait hr ((if_neg hpresent).trans ((if_neg hnear).trans ?_))
    rw [hfind]
    exact if_pos (by simpa using hfull)
  case loads =>
    subst hres hrd
    refine sliceWord_go hr ((if_neg hpresent).trans ((if_neg hnear).trans ?_))
    rw [hfind]
    exact if_neg (by simpa [hroom] using hlimit)

/-- A.SETQ sets a limit and A.EXIT ends the slice (R329). -/
theorem sliceSettings_hold {s : State} {tm : Team} {sl : Slice} (hr : s.SliceRuns tm sl schedOnly) (d l : Nat) :
    SliceGoes (.aSetq d l) s tm (s.updTeam tm.id fun u => u.updQueue d fun q => { q with limit := BitVec.ofNat 5 (l + 1) }) sl.next ∧
    SliceGoes .aExit s tm s sl.next.ended := by
  unfold SliceGoes
  refine ⟨?limit, ?exit⟩
  case limit =>
    change execASetq d l s = _
    exact sliceWord_go hr rfl
  case exit =>
    change execAExit s = _
    exact sliceWord_go hr rfl

/-- Settles O31: the words of a slice, by the one frame they run in. -/
theorem sliceWordsComplete : Obligations.SliceWordsComplete := by
  refine ⟨fun s tm sl c d a i l => ⟨sliceImmediates_hold s tm sl c d a i, fun hr =>
    ⟨(sliceSettings_hold hr d l).1, (sliceSettings_hold hr d l).2, fun hnone => ?_, fun outer lv hloops => aEnd_holds hr hloops, aWaitq_holds hr d⟩⟩,
    fun d a sv r => ⟨queueLoads_of_exec fun _ => rfl, queueLoads_of_exec fun _ => rfl⟩⟩
  refine sliceWord_stop hr ?_
  simp only [hnone, List.getLast?_nil]

end Machine
end Sys2Proof
end

section
/-! PROOFS. What the memory system, the records and the journal may change of a state: no counter of outstanding operations rises, no
register changes, and memories keep their canonical form. One lemma for each operation over the state, in the order of the definitions. -/

namespace Sys2Proof
namespace Machine

-- ---------------------------------------------------------------- the relation

/-- A change of state that raises no counter, writes no register and keeps the memories in their canonical form. -/
structure State.Mild (s s' : State) : Prop where
  falls : s.CountersFall s'
  regs : s.SameRegisters s'
  wf : s.memoriesWf → s'.memoriesWf

theorem Thread.SameRegisters.rfl {t : Thread} : t.SameRegisters t := ⟨by rfl, by rfl, by rfl, by rfl, by rfl, by rfl⟩

theorem Thread.SameRegisters.trans {t t' t'' : Thread} (h : t.SameRegisters t') (k : t'.SameRegisters t'') : t.SameRegisters t'' := by
  obtain ⟨h1, h2, h3, h4, h5, h6⟩ := h
  obtain ⟨k1, k2, k3, k4, k5, k6⟩ := k
  exact ⟨k1.trans h1, k2.trans h2, k3.trans h3, k4.trans h4, k5.trans h5, k6.trans h6⟩

theorem State.SameRegisters.rfl {s : State} : s.SameRegisters s := fun _ t h => ⟨t, h, .rfl⟩

theorem State.SameRegisters.trans {s s' s'' : State} (h : s.SameRegisters s') (k : s'.SameRegisters s'') : s.SameRegisters s'' := by
  intro id t ht
  obtain ⟨t', ht', hs⟩ := h id t ht
  obtain ⟨t'', ht'', hs'⟩ := k id t' ht'
  exact ⟨t'', ht'', hs.trans hs'⟩

/-- Nothing but the threads holds registers. -/
theorem State.SameRegisters.of_threads {s s' : State} (h : s'.threads = s.threads) : s.SameRegisters s' := by
  intro id t ht
  exact ⟨t, by rwa [State.thread?, h], .rfl⟩

namespace State.Mild

variable {s s' s'' : State}

protected theorem rfl : s.Mild s := ⟨.rfl, .rfl, id⟩

theorem trans (h : s.Mild s') (k : s'.Mild s'') : s.Mild s'' := ⟨h.falls.trans k.falls, h.regs.trans k.regs, k.wf ∘ h.wf⟩

/-- The last of two changes first. -/
theorem after (k : s'.Mild s'') (h : s.Mild s') : s.Mild s'' := h.trans k

theorem foldl {α : Type} {f : State → α → State} (hf : ∀ (s : State) (x : α), s.Mild (f s x)) (l : List α) (s : State) : s.Mild (l.foldl f s) := by
  induction l generalizing s with
  | nil => exact .rfl
  | cons x xs ih => exact (hf s x).trans (ih _)

/-- A change of neither threads nor memories. -/
theorem inert (ht : s'.threads = s.threads) (hm : (s'.home, s'.weights, s'.teams, s'.grids) = (s.home, s.weights, s.teams, s.grids)) :
    s.Mild s' := by
  simp only [Prod.mk.injEq] at hm
  obtain ⟨hhome, hweights, hteams, hgrids⟩ := hm
  exact ⟨.of_threads ht, .of_threads ht, fun h => by unfold State.memoriesWf at *; rwa [hhome, hweights, hteams, hgrids]⟩

/-- A change of home memory that keeps its form. -/
theorem home (ht : s'.threads = s.threads) (hm : (s'.weights, s'.teams, s'.grids) = (s.weights, s.teams, s.grids))
    (hh : Memory.wf s.home = true → Memory.wf s'.home = true) : s.Mild s' := by
  simp only [Prod.mk.injEq] at hm
  obtain ⟨hweights, hteams, hgrids⟩ := hm
  refine ⟨.of_threads ht, .of_threads ht, fun h => ?_⟩
  unfold State.memoriesWf at *
  rw [hweights, hteams, hgrids]
  exact ⟨hh h.1, h.2⟩

/-- A change of threads and of nothing that holds bytes. -/
theorem threads (ht : s.CountersFall s') (hr : s.SameRegisters s')
    (hm : (s'.home, s'.weights, s'.teams, s'.grids) = (s.home, s.weights, s.teams, s.grids)) : s.Mild s' := by
  simp only [Prod.mk.injEq] at hm
  obtain ⟨hhome, hweights, hteams, hgrids⟩ := hm
  exact ⟨ht, hr, fun h => by unfold State.memoriesWf at *; rwa [hhome, hweights, hteams, hgrids]⟩

/-- A change of one thread, where it stands, that keeps its registers and raises none of its counters. -/
theorem at_thread {t : ThreadId} {f : Thread → Thread} (hid : ∀ x, x.id = t → (f x).id = t)
    (hf : ∀ x, s.thread? t = some x → x.SameRegisters (f x) ∧ ∀ c, (f x).counter c ≤ x.counter c) : s.Mild (s.updThread t f) := by
  have hg : s.updThread t f = s.updThread t fun x => if x.id = t then f x else x := by
    simp only [State.updThread]
    congr 1
    exact List.map_congr_left fun x _ => by by_cases h : x.id = t <;> simp [h]
  have hgid : ∀ x, (if x.id = t then f x else x).id = x.id := fun x => by
    by_cases h : x.id = t
    · rw [if_pos h, hid x h, h]
    · rw [if_neg h]
  have hself : (s.updThread t f).thread? t = (s.thread? t).map f := by
    rw [hg, State.thread_updThread _ _ hgid]
    cases hx : s.thread? t with
    | none => rfl
    | some x => simp [show x.id = t by simpa using List.find?_some hx]
  have hother {u : ThreadId} (hu : u ≠ t) : (s.updThread t f).thread? u = s.thread? u := by
    rw [hg, State.thread_updThread_ne hu _ hgid]
  refine threads (fun id c => ?_) (fun id x hx => ?_) rfl
  · by_cases h : id = t
    · subst h
      simp only [counterOf, hself]
      cases hx : s.thread? id with
      | none => exact Nat.le_refl _
      | some x => exact (hf x hx).2 c
    · simp only [counterOf, hother h]
      exact Nat.le_refl _
  · by_cases h : id = t
    · subst h
      exact ⟨f x, by rw [hself, hx]; rfl, (hf x hx).1⟩
    · exact ⟨x, by rw [hother h, hx], .rfl⟩

/-- A change of one thread that keeps its name, its registers and its outstanding operations. -/
theorem keep {t : ThreadId} {f : Thread → Thread} (hid : ∀ x, (f x).id = x.id) (ho : ∀ x, (f x).outstanding = x.outstanding)
    (hr : ∀ x : Thread, x.SameRegisters (f x)) : s.Mild (s.updThread t f) :=
  at_thread (fun x h => (hid x).trans h) fun x _ => ⟨hr x, fun c => by simp [Thread.counter, ho]⟩

/-- A change of one team that keeps the form of its scratchpad. -/
theorem team {t : TeamId} {f : Team → Team} (hf : ∀ x, Memory.wf x.scratch = true → Memory.wf (f x).scratch = true) :
    s.Mild (s.updTeam t f) := by
  refine ⟨.of_threads rfl, .of_threads rfl, fun ⟨hhome, hweights, hteams, hgrids⟩ => ⟨hhome, hweights, fun y hy => ?_, hgrids⟩⟩
  obtain ⟨x, hx, rfl⟩ := List.mem_map.1 hy
  split
  · exact hf x (hteams x hx)
  · exact hteams x hx

/-- A change of one grid that keeps its saved teams. -/
theorem grid {g : GridId} {f : Grid → Grid} (hf : ∀ x, (f x).waiting = x.waiting) : s.Mild (s.updGrid g f) := by
  refine ⟨.of_threads rfl, .of_threads rfl, fun ⟨hhome, hweights, hteams, hgrids⟩ => ⟨hhome, hweights, hteams, fun y hy => ?_⟩⟩
  obtain ⟨x, hx, rfl⟩ := List.mem_map.1 hy
  split
  · rw [hf]
    exact hgrids x hx
  · exact hgrids x hx

/-- Two ways a condition may go. -/
theorem ite {p : Prop} [Decidable p] (h : s.Mild s') (k : s.Mild s'') : s.Mild (if p then s' else s'') := by
  split
  · exact h
  · exact k

end State.Mild

-- ---------------------------------------------------------------- slices, waiters and writes at home

theorem Thread.becomeReady_sameRegisters (x : Thread) (n p : Nat) : x.SameRegisters (x.becomeReady n p) := .rfl

theorem State.sliceTouch_mild (s : State) (pa group cp : Nat) : s.Mild (s.sliceTouch pa group cp) := by
  obtain ⟨l, hl⟩ := s.sliceTouch_eq pa group cp
  rw [hl]
  exact .inert rfl rfl

theorem State.touchSpan_mild (s : State) (pa n group : Nat) : s.Mild (s.touchSpan pa n group) :=
  .foldl (fun s line => s.sliceTouch_mild (line * 256) group 0) _ s

theorem State.touchFor_mild (s : State) (t : ThreadId) (pa cp : Nat) : s.Mild (s.touchFor t pa cp) := s.sliceTouch_mild _ _ _

theorem State.wakeThread_mild (s : State) (t : ThreadId) : s.Mild (s.wakeThread t) := by
  refine .keep (fun x => ?_) (fun x => ?_) (fun x => ?_) <;> split <;> try split
  all_goals first | rfl | exact .rfl

theorem State.releaseWaiters_mild (s : State) (ws : List Waiter) : s.Mild (s.releaseWaiters ws) := by
  unfold State.releaseWaiters
  have hfirst : s.Mild { s with waiters := s.waiters.filter fun w => ! ws.contains w } := .inert rfl rfl
  exact hfirst.trans (.foldl (fun s w => s.wakeThread_mild w.thr) ws _)

theorem State.checkHomeWaiters_mild (s : State) (from? : Option Nat) (val : Nat → Option Nat) : s.Mild (s.checkHomeWaiters from? val) :=
  s.releaseWaiters_mild _

theorem State.checkL1Waiters_mild (s : State) (cluster : Nat) (cores : Nat → Bool) (core : Bool) (val : Nat → Option Nat) :
    s.Mild (s.checkL1Waiters cluster cores core val) := s.releaseWaiters_mild _

theorem State.wakeGranule_mild (s : State) (pa : Nat) : s.Mild (s.wakeGranule pa) := s.releaseWaiters_mild _

theorem State.homeWriteBy_mild (s : State) (group pa n v : Nat) : s.Mild (s.homeWriteBy group pa n v) :=
  (State.checkHomeWaiters_mild _ _ _).after ((State.touchSpan_mild _ _ _ _).after (.home rfl rfl (wf_memWrite pa n v)))

theorem State.homeWrite_mild (s : State) (ctx pa n v : Nat) : s.Mild (s.homeWrite ctx pa n v) := s.homeWriteBy_mild _ _ _ _

theorem State.homeStore_mild (s : State) (ctx pa : Nat) (bs : List Byte) : s.Mild (s.homeStore ctx pa bs) :=
  (State.checkHomeWaiters_mild _ _ _).after ((State.touchSpan_mild _ _ _ _).after (.home rfl rfl (wf_memStore pa bs)))

theorem State.updCtx_mild (s : State) (c : Nat) (f : Ctx → Ctx) : s.Mild (s.updCtx c f) := .inert rfl rfl

theorem State.updOp_mild (s : State) (o : Nat) (f : Op → Op) : s.Mild (s.updOp o f) := .inert rfl rfl

theorem State.dropOp_mild (s : State) (o : Nat) : s.Mild (s.dropOp o) := .inert rfl rfl

theorem State.addOp_mild (s : State) (o : Op) : s.Mild (s.addOp o) := .inert rfl rfl

-- ---------------------------------------------------------------- records

theorem State.writeRecord_mild (s : State) (c : Ctx) (r : FRec) : s.Mild (s.writeRecord c r) := by
  unfold State.writeRecord
  refine State.Mild.after (.team fun x hx => ?_) (.after (.ite .rfl (.inert rfl rfl)) ((State.wakeGranule_mild _ _).after
    ((State.homeWrite_mild _ _ _ _ _).after (s.homeStore_mild _ _ _))))
  split <;> exact hx

theorem State.makeRecord_mild (s : State) (die : Nat) (c : Ctx) (r : FRec) : s.Mild (s.makeRecord die c r) :=
  State.Mild.ite ((State.writeRecord_mild _ _ _).after (.inert rfl rfl)) (.inert rfl rfl)

theorem State.postRecord_mild (s : State) (die : Nat) (r : FRec) : s.Mild (s.postRecord die r) := by
  unfold State.postRecord
  split
  · exact .rfl
  · exact .ite (.inert rfl rfl) (s.makeRecord_mild _ _ _)

theorem State.parkOn_mild (s : State) (t : Thread) (r : FRec) : s.Mild (s.parkOn t r) :=
  (State.postRecord_mild _ _ _).after (.keep (fun _ => rfl) (fun _ => rfl) fun _ => .rfl)

theorem State.raiseTrap_mild (s : State) (t : Thread) (cls : Nat) (word : Word) (detail addr : Nat) (opnd : Option Nat) :
    s.Mild (s.raiseTrap t cls word detail addr opnd) :=
  .ite (.keep (fun _ => rfl) (fun _ => rfl) fun _ => .rfl) (s.parkOn_mild _ _)

theorem State.raiseLate_mild (s : State) (o : Op) (cls detail addr result nrep : Nat) : s.Mild (s.raiseLate o cls detail addr result nrep) := by
  unfold State.raiseLate
  split
  · exact .ite (s.postRecord_mild _ _) (s.parkOn_mild _ _)
  · exact s.postRecord_mild _ _

-- ---------------------------------------------------------------- the journal

theorem State.setStall_mild (s : State) (ctx : Nat) (b : Bool) : s.Mild (s.setStall ctx b) := s.updCtx_mild _ _

theorem State.journalPut_mild {s s1 : State} {c : Ctx} {kind grid addr : Nat} {bs : List Byte} (h : s.journalPut c kind grid addr bs = some s1) :
    s.Mild s1 := by
  unfold State.journalPut at h
  dsimp only at h
  split at h
  · cases h
  · cases h
    exact (State.wakeGranule_mild _ _).after ((State.homeWrite_mild _ _ _ _ _).after (s.homeStore_mild _ _ _))

theorem State.journal_mild (s : State) (ctx kind grid addr : Nat) (bs : List Byte) : s.Mild (s.journal ctx kind grid addr bs).1 := by
  unfold State.journal
  split
  · exact .rfl
  · split
    · exact .rfl
    · split
      · exact s.setStall_mild _ _
      · next hput => exact (State.setStall_mild _ _ _).after (State.journalPut_mild hput)

theorem State.journalRead_mild (s : State) (g : GridId) (pa : Nat) : s.Mild (s.journalRead g pa).1 := by
  unfold State.journalRead
  split
  · exact s.journal_mild _ _ _ _ _
  · exact .rfl

-- ---------------------------------------------------------------- the L1

theorem State.writeBackSector_mild (s : State) (x : L1Sector) : s.Mild (s.writeBackSector x) :=
  .ite .rfl ((State.checkHomeWaiters_mild _ _ _).after ((State.sliceTouch_mild _ _ _ _).after (.home rfl rfl (wf_memWriteMask 64 _ _ _))))

theorem State.mapL1_mild (s : State) (p : L1Sector → Bool) (f : L1Sector → L1Sector) : s.Mild (s.mapL1 p f) := .inert rfl rfl

theorem State.writeBack_mild (s : State) (p : L1Sector → Bool) : s.Mild (s.writeBack p) :=
  (State.mapL1_mild _ _ _).after (.foldl State.writeBackSector_mild _ s)

theorem State.pushSector_mild (s : State) (cluster pa : Nat) : s.Mild (s.pushSector cluster pa) := s.writeBack_mild _

theorem State.flushL1_mild (s : State) (cluster : Nat) : s.Mild (s.flushL1 cluster) := s.writeBack_mild _

theorem State.invalidateL1_mild (s : State) (cluster : Nat) : s.Mild (s.invalidateL1 cluster) := .inert rfl rfl

theorem State.l1Room_mild (s : State) (cluster sector victim : Nat) : s.Mild (s.l1Room cluster sector victim) :=
  .ite .rfl ((s.writeBack_mild _).trans (.inert rfl rfl))

theorem State.l1Put_mild (s : State) (x : L1Sector) : s.Mild (s.l1Put x) := .ite (s.mapL1_mild _ _) (.inert rfl rfl)

theorem State.l1Write_mild (s : State) (ctx cluster pa n v mask cp victim : Nat) : s.Mild (s.l1Write ctx cluster pa n v mask cp victim) :=
  (State.l1Put_mild _ _).after (s.l1Room_mild _ _ _)

theorem State.l1Fill_mild (s : State) (cluster sector cp victim : Nat) : s.Mild (s.l1Fill cluster sector cp victim) :=
  (State.l1Put_mild _ _).after (s.l1Room_mild _ _ _)

theorem State.l1Drop_mild (s : State) (cluster pa n : Nat) : s.Mild (s.l1Drop cluster pa n) := .inert rfl rfl

-- ---------------------------------------------------------------- completions and faults of accesses

theorem Thread.retire_sameRegisters (x : Thread) (op : Nat) : x.SameRegisters (x.retire op) := by
  unfold Thread.retire
  split <;> exact .rfl

theorem State.retireOf_mild (s : State) (t : ThreadId) (op : Nat) : s.Mild (s.retireOf t op) :=
  .at_thread (fun x h => (x.retire_id op).trans h) fun x _ => ⟨x.retire_sameRegisters op, x.retire_counter op⟩

theorem State.completeOp_mild (s : State) (o : Op) : s.Mild (s.completeOp o) :=
  (State.dropOp_mild _ _).after (s.retireOf_mild _ _)

theorem State.markRefill_mild (s : State) (o : Op) (va cls : Nat) : s.Mild (s.markRefill o va cls) :=
  (State.completeOp_mild _ _).after (.keep (fun _ => rfl) (fun _ => rfl) fun _ => .rfl)

theorem State.finishRefill_mild (s : State) (o : Op) (v : Nat) : s.Mild (s.finishRefill o v) :=
  (State.completeOp_mild _ _).after (.keep (fun _ => rfl) (fun _ => rfl) fun _ => .rfl)

theorem Thread.uncount_counter (x : Thread) (op : Nat) (c : KClass) : (x.uncount op).counter c ≤ x.counter c := by
  simp only [Thread.uncount, Thread.counter]
  rw [List.filter_comm]
  exact List.length_filter_le _ _

/-- A thread that goes back to a word keeps its registers and counters. -/
theorem State.goBack_mild {s : State} {id : ThreadId} {t : Thread} (h : s.thread? id = some t) (pc : Addr) (latch : List Word) :
    s.Mild (s.updThread t.id fun _ => { t with pc := pc, latch := latch }) := by
  have hid : t.id = id := by simpa using List.find?_some h
  refine .at_thread (fun _ _ => rfl) fun x hx => ?_
  rw [hid, h] at hx
  cases hx
  exact ⟨.rfl, fun _ => Nat.le_refl _⟩

theorem State.uncountOf_mild (s : State) (t : ThreadId) (op : Nat) : s.Mild (s.updThread t fun x => x.uncount op) :=
  .at_thread (fun _ h => h) fun x _ => ⟨.rfl, x.uncount_counter op⟩

theorem State.accessFault_mild (s : State) (o : Op) (a : Access) (cls : Nat) : s.Mild (s.accessFault o a cls) := by
  have hdrop : s.Mild ((s.dropOp o.id).updThread o.thr fun t => t.uncount o.id) := (State.uncountOf_mild _ _ _).after (s.dropOp_mild _)
  unfold State.accessFault
  dsimp only
  split
  case h_1 => exact s.markRefill_mild _ _ _
  case h_2 | h_3 =>
    split
    · next ht => exact .ite ((State.parkOn_mild _ _ _).after ((State.goBack_mild ht _ _).after hdrop)) ((State.raiseLate_mild _ _ _ _ _ _ _).after hdrop)
    · exact hdrop
  case h_4 => exact .ite (s.updOp_mild _ _) ((s.raiseLate_mild o cls (if cls ≥ 0x40 then a.kind.code.num else 0) (s.globalVa o.thr a) 0 1).trans
    (.inert rfl rfl))

-- ---------------------------------------------------------------- accesses at their place

theorem State.observe_mild (s : State) (t : ThreadId) (l : List ByteView) : s.Mild (s.observe t l) :=
  .ite .rfl (.keep (fun _ => rfl) (fun _ => rfl) fun _ => .rfl)

theorem State.afterAcquire_mild (s : State) (o : Op) (a : Access) : s.Mild (s.afterAcquire o a) := .ite (s.invalidateL1_mild _) .rfl

theorem State.beforePerform_mild (s : State) (o : Op) (a : Access) : s.Mild (s.beforePerform o a) := by
  have hpush : s.Mild (if a.isWide then s.pushSector (clusterOf o.core) (a.pa.getD 0) else s) := .ite (s.pushSector_mild _ _) .rfl
  exact .ite ((State.flushL1_mild _ _).after hpush) hpush

theorem State.bindConst_mild (s : State) (o : Op) (a : Access) (sx : Bool) : s.Mild (s.bindConst o a sx) := by
  unfold State.bindConst
  split
  · exact s.updOp_mild _ _
  · refine .ite (s.updOp_mild _ _) (.ite (s.accessFault_mild _ _ _) ?_)
    have hread := s.journalRead_mild o.thr.gridId (a.pa.getD 0 / 64 * 64)
    exact .ite hread ((hread.trans (State.touchFor_mild _ _ _ _)).trans (.inert rfl rfl))

theorem State.bindLoad_mild (s : State) (o : Op) (a : Access) (sx : Bool) : s.Mild (s.bindLoad o a sx) := by
  have hpush : s.Mild (if a.isWide then s.pushSector (clusterOf o.core) (a.pa.getD 0) else s) := .ite (s.pushSector_mild _ _) .rfl
  unfold State.bindLoad
  dsimp only
  split
  · exact .rfl
  · have hread := (State.journalRead_mild _ o.thr.gridId (a.pa.getD 0)).after ((State.touchFor_mild _ o.thr (a.pa.getD 0) a.cp).after hpush)
    refine .ite (s.accessFault_mild _ _ _) ?_
    split
    · exact .ite hread ((State.afterAcquire_mild _ _ _).after ((State.observe_mild _ _ _).after ((State.updOp_mild _ _ _).after hread)))
    · exact .ite hpush ((State.afterAcquire_mild _ _ _).after ((State.observe_mild _ _ _).after ((State.updOp_mild _ _ _).after hpush)))

theorem State.bindRefill_mild (s : State) (o : Op) (a : Access) : s.Mild (s.bindRefill o a) := by
  unfold State.bindRefill
  split
  · exact .rfl
  · exact .ite (s.accessFault_mild _ _ _) ((State.finishRefill_mild _ _ _).after (s.observe_mild _ _))

theorem State.arm_mild (s : State) (w : Waiter) : s.Mild (s.arm w) := by
  have hfirst : s.Mild (match leastBy (fun x y => decide (x.armed < y.armed) || (decide (x.armed = y.armed) && x.thr.before y.thr))
      (s.waiters.filter fun x => decide (x.cluster = w.cluster)) with
    | some x => s.releaseWaiters [x]
    | none => s) := by
    split
    · exact s.releaseWaiters_mild _
    · exact .rfl
  have hroom := State.Mild.ite (p := 1024 ≤ (s.waiters.filter fun x => decide (x.cluster = w.cluster)).length) hfirst .rfl
  exact hroom.trans (.inert rfl rfl)

theorem State.performWait_mild (s : State) (o : Op) (a : Access) (expect : Nat) : s.Mild (s.performWait o a expect) := by
  have hpush : s.Mild (if a.isWide then (s.pushSector (clusterOf o.core) (a.pa.getD 0)).touchFor o.thr (a.pa.getD 0) 0 else s) :=
    .ite ((State.touchFor_mild _ _ _ _).after (s.pushSector_mild _ _)) .rfl
  unfold State.performWait
  dsimp only
  split
  · exact .rfl
  · have hdone := (State.dropOp_mild _ o.id).after ((State.observe_mild _ o.thr ‹_›).after hpush)
    refine .ite (s.accessFault_mild _ _ _) (.ite hdone ?_)
    refine State.Mild.after (.keep (fun x => ?_) (fun x => ?_) fun x => ?_) ((State.arm_mild _ _).after hdone) <;> split
    all_goals first | rfl | exact .rfl

theorem State.scratchWrite_mild (s : State) (t : TeamId) (off n v mask : Nat) : s.Mild (s.scratchWrite t off n v mask) :=
  (State.releaseWaiters_mild _ _).after (.team fun _ hx => wf_memWriteMask n off v mask hx)

theorem State.atomicWrite_mild (s : State) (o : Op) (a : Access) (v : Nat) : s.Mild (s.atomicWrite o a v) := by
  unfold State.atomicWrite
  dsimp only
  split
  · exact s.scratchWrite_mild _ _ _ _ _
  · refine .ite ?_ ((State.checkL1Waiters_mild _ _ _ _ _).after (s.l1Write_mild _ _ _ _ _ _ _ _))
    exact (State.checkHomeWaiters_mild _ _ _).after ((State.l1Drop_mild _ _ _ _).after ((State.touchFor_mild _ _ _ _).after
      (.home rfl rfl (wf_memWriteMask a.size _ _ _))))

theorem State.clobbered_mild (s : State) (o : Op) (a : Access) : s.Mild (s.clobbered o a) :=
  (State.raiseLate_mild _ _ _ _ _ _ _).after (s.completeOp_mild _)

/-- The end of an atomic, from the state before it is performed, its old value, and whether that is marked or tagged (R261, R294, R295). -/
def State.endAtomic (s s0 : State) (o : Op) (a : Access) (old : Nat) (poison tagged : Bool) : State :=
  let read := if a.isWide && ! poison then (s0.touchFor o.thr (a.pa.getD 0) a.cp).journalRead o.thr.gridId (a.pa.getD 0) else (s0, true)
  if poison then s.accessFault o a clsPoison
  else if tagged then s.clobbered o a
  else if ! read.2 then read.1
  else
    let new := match a.kind with
      | .cas => (a.data2, decide (old = a.data))
      | .atom op => (atomNew op (8 * a.size) old a.data, true)
      | _ => (0, false)
    ((if new.2 then read.1.atomicWrite o a new.1 else read.1).updOp o.id fun x => { x with stage := .bound, vals := wordsOf (a.size / 4) old }).afterAcquire
      o a

/-- An atomic is its end, with what it finds at its place. -/
theorem State.performAtomic_eq (s : State) (o : Op) (a : Access) : ∃ old poison tagged, s.performAtomic o a =
    s.endAtomic (s.beforePerform o a) o a old poison tagged := ⟨_, _, _, rfl⟩

theorem State.endAtomic_mild {s s0 : State} (h : s.Mild s0) (o : Op) (a : Access) (old : Nat) (poison tagged : Bool) :
    s.Mild (s.endAtomic s0 o a old poison tagged) := by
  have hread : s.Mild (if a.isWide && ! poison then (s0.touchFor o.thr (a.pa.getD 0) a.cp).journalRead o.thr.gridId (a.pa.getD 0) else (s0, true)).1 := by
    split
    · exact (State.journalRead_mild _ _ _).after ((State.touchFor_mild _ _ _ _).after h)
    · exact h
  exact .ite (s.accessFault_mild _ _ _) (.ite (s.clobbered_mild _ _) (.ite hread ((State.afterAcquire_mild _ _ _).after
    ((State.updOp_mild _ _ _).after (.ite ((State.atomicWrite_mild _ _ _ _).after hread) hread)))))

theorem State.performAtomic_mild (s : State) (o : Op) (a : Access) : s.Mild (s.performAtomic o a) := by
  obtain ⟨old, poison, tagged, h⟩ := s.performAtomic_eq o a
  rw [h]
  exact State.endAtomic_mild (s.beforePerform_mild o a) o a old poison tagged

theorem State.performWake_mild (s : State) (o : Op) (a : Access) (n : Nat) : s.Mild (s.performWake o a n) :=
  (State.updOp_mild _ _ _).after (s.releaseWaiters_mild _)

theorem State.pinPlace_mild (s : State) (line group : Nat) : s.Mild (s.pinPlace line group) :=
  (State.sliceTouch_mild _ _ _ _).after (.inert rfl rfl)

theorem State.setPin_mild (s : State) (line : Nat) (b : Bool) : s.Mild (s.setPin line b) := .inert rfl rfl

theorem State.performPin_mild (s : State) (o : Op) (a : Access) (group : Nat) : s.Mild (s.performPin o a group) := by
  unfold State.performPin
  refine (State.updOp_mild _ _ _).after ?_
  split
  · split
    · exact .rfl
    · dsimp only
      split
      · exact .rfl
      · exact (State.setPin_mild _ _ _).after (s.pinPlace_mild _ _)
  · split
    · exact s.setPin_mild _ _
    · exact .rfl

theorem State.performFlush_mild (s : State) (o : Op) (a : Access) (inv : Bool) : s.Mild (s.performFlush o a inv) := by
  unfold State.performFlush
  exact (State.completeOp_mild _ _).after (.ite ((s.writeBack_mild _).trans (.inert rfl rfl)) (s.writeBack_mild _))

/-- Whatever an access does at its place (R265 to R275) is mild. -/
theorem State.actAccess_mild (s : State) (o : Op) (a : Access) : s.Mild (s.actAccess o a) := by
  unfold State.actAccess
  refine .ite .rfl ?_
  split
  · exact .ite (s.bindConst_mild _ _ _) (.ite .rfl (.ite .rfl (s.bindLoad_mild _ _ _)))
  · exact .ite .rfl (s.bindRefill_mild _ _)
  · exact .ite (s.performAtomic_mild _ _) .rfl
  · exact .ite (s.performAtomic_mild _ _) .rfl
  · exact .ite .rfl (s.performWait_mild _ _ _)
  · exact s.performWake_mild _ _ _
  · exact s.performPin_mild _ _ _
  · exact s.performPin_mild _ _ _
  · exact s.performFlush_mild _ _ _
  · exact s.performFlush_mild _ _ _
  · exact .rfl
  · exact .rfl

end Machine
end Sys2Proof
end

section
/-! PROOFS. O32: the copy words. A copy that begins is counted once and then changes no counter: cairns, present lines and accesses that the
lines let act only lower them. -/

namespace Sys2Proof
namespace Machine

-- ---------------------------------------------------------------- the start of a copy

/-- Writing bytes of a team's scratchpad keeps its form. -/
theorem State.Mild.scratch (s : State) (t : TeamId) (off n v : Nat) :
    s.Mild (s.updTeam t fun tm => { tm with scratch := memWrite tm.scratch off n v }) :=
  .team fun _ hx => wf_memWrite off n v hx

theorem State.putCairn_mild (s : State) (t : TeamId) (off : Nat) (c : CairnObj) : s.Mild (s.putCairn t off c) := .scratch s t off 32 c.value

theorem State.cairnCopies_mild (s : State) (t : TeamId) (off : Nat) (up : Bool) : s.Mild (s.cairnCopies t off up) := by
  unfold State.cairnCopies
  split
  · exact .rfl
  · exact s.putCairn_mild _ _ _

theorem State.bindPresent_mild (s : State) (t : TeamId) (lines : List Nat) : s.Mild (s.bindPresent t lines) := by
  unfold State.bindPresent
  refine .foldl (fun s o => ?_) _ s
  split
  · exact .ite (s.actAccess_mild _ _) .rfl
  · exact .rfl

theorem Team.raiseLine_scratch (t : Team) (line : Nat) : (t.raiseLine line).scratch = t.scratch := by
  unfold Team.raiseLine
  split <;> rfl

theorem Team.raiseLines_scratch (lines : List Nat) (t : Team) : (lines.foldl Team.raiseLine t).scratch = t.scratch := by
  induction lines generalizing t with
  | nil => rfl
  | cons l ls ih => exact (ih _).trans (t.raiseLine_scratch l)

theorem State.startCopy_mild (s : State) (c : Copy) : s.Mild (s.startCopy c) := by
  unfold State.startCopy
  refine .ite .rfl (State.Mild.trans (.ite (.foldl (fun s r => ?_) c.recvs s) .rfl) (.inert rfl rfl))
  refine (s.bindPresent_mild r.team c.dstLines).trans (.team fun x hx => ?_)
  rw [Team.raiseLines_scratch]
  exact hx

/-- A copy counted, before it starts. -/
def State.countCopy (s : State) (c : Copy) : State :=
  State.updThread { s with nextId := s.nextId + 1, copies := s.copies ++ [c] } c.thr fun t => t.count .cp c.id

theorem State.countCopy_rise (s : State) (c : Copy) : s.CountersRise (s.countCopy c) c.thr .cp :=
  State.CountersFall.rise (s' := { s with nextId := s.nextId + 1, copies := s.copies ++ [c] }) (.of_threads rfl) (.count _ c.thr .cp c.id)

theorem State.beginCopy_eq (s : State) (c : Copy) : s.beginCopy c =
    (if c.en then c.recvs.foldl (fun s r => s.cairnCopies r.team c.coff true) (s.countCopy c) else s.countCopy c).startCopy c := rfl

/-- A copy that begins is counted once, in k.cp (R459). -/
theorem State.beginCopy_rise (s : State) (c : Copy) : s.CountersRise (s.beginCopy c) c.thr .cp := by
  have hrest : (s.countCopy c).Mild (s.beginCopy c) := by
    rw [State.beginCopy_eq]
    exact (State.startCopy_mild _ c).after (.ite (.foldl (fun s r => s.cairnCopies_mild r.team c.coff true) c.recvs _) .rfl)
  exact (s.countCopy_rise c).fall hrest.falls

/-- A copy of no bytes is counted once, in k.cp, and retires at once (R309). -/
theorem State.emptyCopy_rise (s : State) (c : Copy) : s.CountersRise (s.emptyCopy c) c.thr .cp := by
  have hcount : s.CountersRise (State.updThread { s with nextId := s.nextId + 1 } c.thr fun t => t.count .cp c.id) c.thr .cp :=
    State.CountersFall.rise (s' := { s with nextId := s.nextId + 1 }) (.of_threads rfl) (.count _ c.thr .cp c.id)
  exact hcount.fall (State.retireOf_mild _ _ _).falls

-- ---------------------------------------------------------------- the words

/-- The body of a copy word whose checks find something to take (R308). -/
theorem match_copyTrap {α : Type} {r : Option (Nat × Nat)} {f : Nat → Nat → α} {b : α} {trap : Nat × Nat} : r = some trap → (match r with
    | some (cls, addr) => f cls addr
    | none => b) = f trap.1 trap.2 := by
  rintro rfl
  rfl

/-- The body of a copy word whose checks find nothing. -/
theorem match_noCopyTrap {α : Type} {r : Option (Nat × Nat)} {f : Nat → Nat → α} {b : α} : r = none → (match r with
    | some (cls, addr) => f cls addr
    | none => b) = b := by
  rintro rfl
  rfl

/-- A word that runs as a copy word does what a copy word does. -/
theorem copies_of_exec {i : Instr} {kind d a : Nat} {l : Bool} {sc dc : Nat} (hexec : ∀ s, exec i s = copyWord kind d a l sc dc s) :
    Copies i kind d a l sc dc := by
  intro s t form hform h cw v c hcw hv hc
  subst hform hcw hv hc
  rw [hexec]
  refine ⟨⟨rfl, rfl, rfl, rfl, rfl, rfl⟩, fun trap htrap => issue_trap h ?_,
    fun hnone => ⟨fun hempty hroom => ?empty, fun hbytes hfull => ?full, fun hbytes hfree hroom => ?begin⟩⟩
  · simp only [State.argsOf_val]
    exact match_copyTrap htrap
  case empty =>
    refine issue_ok h ?_ (h.room_rise (c := .cp) (State.emptyCopy_rise _ _) hroom)
    simp only [State.argsOf_val]
    exact (match_noCopyTrap hnone).trans (if_pos hempty)
  case full =>
    refine issue_hold h ?_
    simp only [State.argsOf_val]
    exact (match_noCopyTrap hnone).trans ((if_neg hbytes).trans (if_pos hfull))
  case begin =>
    refine issue_ok h ?_ (h.room_rise (c := .cp) (State.beginCopy_rise _ _) hroom)
    simp only [State.argsOf_val]
    exact (match_noCopyTrap hnone).trans ((if_neg hbytes).trans (if_neg (Bool.eq_false_iff.1 hfree)))

/-- Settles O32: the four words are one word of four kinds. -/
theorem copiesComplete : Obligations.CopiesComplete := fun _ _ _ _ _ =>
  ⟨copies_of_exec fun _ => rfl, copies_of_exec fun _ => rfl, copies_of_exec fun _ => rfl, copies_of_exec fun _ => rfl⟩

end Machine
end Sys2Proof
end

section
/-! PROOFS. O37: the special registers. -/

namespace Sys2Proof
namespace Machine

/-- Only sr.fps reads the sticky flags (R60, R124). -/
theorem State.special_withFps (s : State) (t : Thread) (core : Nat) {n : Nat} (hn : n ≠ 0x11) (f : Word) :
    s.special { t with fps := f } core n = s.special t core n := by
  unfold State.special
  split
  · rfl
  · split
    case h_12 => exact absurd rfl hn
    all_goals rfl

/-- A word without sources leaves the sticky flags as it commits (R129). -/
theorem Thread.commit_fps_of_srcs_nil {t : Thread} {i : Issue} (hs : i.srcs = []) (hk : i.kills = []) (now : Nat) : (t.commit i now).fps = t.fps := by
  simp [Thread.commit, hs, hk, Thread.kill]

/-- REM of sr.wsref is from 1 to 500 (R257). -/
theorem State.slotLeft_bounds (s : State) (die : Nat) : 1 ≤ s.slotLeft die ∧ s.slotLeft die ≤ 500 := by
  have hunits : s.slotUnits die ≤ 500 := by
    unfold State.slotUnits
    split
    · exact Nat.le_refl _
    · exact Nat.mod_lt _ (by decide)
  unfold State.slotLeft
  omega

theorem kernelSpecial_of_lt {n : Nat} (h : n < 0x100) : kernelSpecial n = false := by
  simp [kernelSpecial]
  omega

theorem kernelSpecial_of_mem {n : Nat} (h : 0x100 ≤ n) (h' : n ≤ 0x105) : kernelSpecial n = true := by
  simp [kernelSpecial, h, h']

theorem bitrev_lt (n x : Nat) : bitrev n x < 2 ^ n := by
  induction n generalizing x with
  | zero => exact Nat.one_pos
  | succ n ih =>
    have hrest := ih (x / 2)
    have hbit : x % 2 * 2 ^ n ≤ 1 * 2 ^ n := Nat.mul_le_mul_right _ (by omega)
    rw [bitrev, Nat.pow_succ]
    omega

theorem Thread.specialWritten_id (t : Thread) (n v now : Nat) : (t.specialWritten n v now).id = t.id := by
  unfold Thread.specialWritten Thread.setSpecial
  split_ifs <;> rfl

theorem Thread.specialWritten_outstanding (t : Thread) (n v now : Nat) : (t.specialWritten n v now).outstanding = t.outstanding := by
  unfold Thread.specialWritten Thread.setSpecial
  split_ifs <;> rfl

/-- Settles O37, register by register. -/
theorem specialRegistersComplete : Obligations.SpecialRegistersComplete := by
  intro s t d a l n
  refine ⟨fun k form hn hk hform h => ?read, fun form hform h => ?flags, fun core => ⟨fun hw => ?absent, fun hw => ?present⟩,
    fun form v hform h hv => ⟨fun hn hbad => ?badMode, fun hok => ?write⟩, fun v => ⟨?fpc, ?fps, fun hlt hc hs => ?readOnly, fun hge hle => ?kernel⟩⟩
  case read =>
    subst hk hform
    refine issue_ok (i := fun t => movsrForm s t d n (if n = 0x28 then 2 else 1)) h ?_ (h.room_result _ _ _)
    exact congrArg (fun v => Res.ok ((s.committed t _).result (s.argsOf t _) 8 _ (wordsOf _ v))) (State.special_withFps _ t _ hn _)
  case flags =>
    subst hform
    refine issue_ok (i := fun t => movsrForm s t d 0x11 1) h ?_ (h.room_result _ _ _)
    have hflags : (t.commit (movsrForm s t d 0x11 1) (s.now (s.coreOf t.id))).fps = t.fps := Thread.commit_fps_of_srcs_nil rfl rfl _
    simp only [State.argsOf_t, h.committed_thread]
    refine congrArg (fun v => Res.ok ((s.committed t (movsrForm s t d 0x11 1)).result (s.argsOf t (movsrForm s t d 0x11 1)) 8 [d] [v])) ?_
    exact (Nat.mod_eq_of_lt (BitVec.isLt _)).trans (congrArg BitVec.toNat hflags)
  case absent => simp [State.wsref, hw]
  case present =>
    have hbank : refreshBank (nth s.refresh (dieOf core) 0) < 16 := bitrev_lt 4 _
    obtain ⟨hleast, hmost⟩ := s.slotLeft_bounds (dieOf core)
    have hreg : s.wsref core = refreshBank (nth s.refresh (dieOf core) 0) + 2 ^ 4 + s.slotLeft (dieOf core) * 2 ^ 16 := if_pos hw
    have hleft : s.wsref core / 2 ^ 16 = s.slotLeft (dieOf core) := by omega
    refine ⟨by omega, ?_, by omega, by omega, fun c n0 hslot => ?_⟩
    · have hbit : s.wsref core / 2 ^ 4 % 2 = 1 := by omega
      exact beq_iff_eq.2 hbit
    · rw [hleft, State.slotLeft, State.slotUnits, hslot]
      rfl
  case badMode =>
    subst hform hv hn
    refine issue_trap (i := fun t => movrsForm s t a l 0x10) h (if_pos ?_)
    simp only [State.argsOf_val]
    exact ⟨trivial, decide_eq_true hbad⟩
  case write =>
    subst hform hv
    refine issue_ok (i := fun t => movrsForm s t a l n) h ?_ (h.room_fall ?_)
    · simp only [State.argsOf_val]
      refine (if_neg fun hbad => ?_).trans rfl
      obtain ⟨hn, hmode⟩ := hbad
      have := of_decide_eq_true hmode
      omega
    · exact .keep (fun x => Thread.specialWritten_id x n _ _) fun x => Thread.specialWritten_outstanding x n _ _
  case fpc => rfl
  case fps => rfl
  case readOnly => simp [Thread.setSpecial, kernelSpecial_of_lt hlt, hc, hs]
  case kernel => simp [Thread.setSpecial, kernelSpecial_of_mem hge hle]

end Machine
end Sys2Proof
end

section
/-! PROOFS. O33 and O34: LAUNCH and SVC. The stores of the two words, to the spill ring and to the service ring, change no counter. -/

namespace Sys2Proof
namespace Machine

-- ---------------------------------------------------------------- LAUNCH

theorem State.acceptGrid_fall (s : State) (ctx die order raw : Nat) (km : Bool) (src : ThreadId × Nat × Nat) (va : Nat) :
    s.CountersFall (s.acceptGrid ctx die order raw km (some src) va) := by
  unfold State.acceptGrid
  split
  · exact .rfl
  · exact .of_threads rfl

theorem State.spill_mild (s : State) (die ctx grid raw : Nat) (src : ThreadId × Nat × Nat) : s.Mild (s.spill die ctx grid raw src) := by
  unfold State.spill
  generalize leBytes 256 raw ++ leBytes 4 ctx ++ leBytes 4 grid = image
  exact (s.homeStore_mild _ _ image).trans (.inert rfl rfl)

/-- What LAUNCH leaves of a valid record (R339, R344, R351): the store takes it, or the spill ring, or neither. -/
def State.launched (s : State) (x : Args) (p die raw : Nat) (src : ThreadId × Nat × Nat) : State :=
  if (s.ctl die).spilled = 0 ∧ s.storeRoom die then
    (s.withNextId.acceptGrid x.t.id.ctx die s.nextId raw false (some src) 0).result x 12 [64 + p] [1]
  else if (s.ctl die).spillSize ≠ 0 ∧ (s.ctl die).spilled < (s.ctl die).spillSize then
    (s.spill die x.t.id.ctx x.t.id.grid raw src).result x 12 [64 + p] [1]
  else (s.result x 12 [64 + p] [0]).addOp (x.op (s.result x 12 [64 + p] [0]) .release)

theorem State.ok_launched (s : State) (x : Args) (p die raw : Nat) (src : ThreadId × Nat × Nat) : Res.ok (s.launched x p die raw src) =
    if (s.ctl die).spilled = 0 ∧ s.storeRoom die then
      Res.ok ((s.withNextId.acceptGrid x.t.id.ctx die s.nextId raw false (some src) 0).result x 12 [64 + p] [1])
    else if (s.ctl die).spillSize ≠ 0 ∧ (s.ctl die).spilled < (s.ctl die).spillSize then
      Res.ok ((s.spill die x.t.id.ctx x.t.id.grid raw src).result x 12 [64 + p] [1])
    else Res.ok ((s.result x 12 [64 + p] [0]).addOp (x.op (s.result x 12 [64 + p] [0]) .release)) := by
  unfold State.launched
  split
  · rfl
  · split <;> rfl

theorem State.launched_fall (s : State) (x : Args) (p die raw : Nat) (src : ThreadId × Nat × Nat) : s.CountersFall (s.launched x p die raw src) := by
  unfold State.launched
  split
  · exact (State.acceptGrid_fall s.withNextId _ _ _ _ _ _ _).trans (.of_threads rfl)
  · split
    · exact (s.spill_mild die x.t.id.ctx x.t.id.grid raw src).falls.trans (.of_threads rfl)
    · exact .of_threads rfl

/-- The form of LAUNCH (R339). -/
def launchForm (a : Nat) (l : Bool) (p : Nat) : Issue := { acFormA a l with dests := [64 + p] }

@[simp] theorem Team.present_issuedAt (tm : Team) (now off n : Nat) : (tm.issuedAt now).present off n = tm.present off n := rfl

/-- LAUNCH of a valid record issues (R339, R344). -/
theorem launch_valid {s : State} {t : Thread} {tm : Team} {gr : Grid} {a : Nat} {l : Bool} {p off b : Nat} (h : s.Issues t (launchForm a l p))
    (hteam : s.team? t.id.teamId = some tm) (hgrid : s.grid? t.id.gridId = some gr) (hoff : off = srcOf t (launchForm a l p) 0)
    (halign : off % 256 = 0) (hinside : off + 256 ≤ tm.scr * 4096) (hpresent : tm.present off 256 = true)
    (hfree : (s.committed t (launchForm a l p)).imageHeld (s.argsOf t (launchForm a l p)) off 256 = false)
    (hb : (s.committed t (launchForm a l p)).imageBytes (s.argsOf t (launchForm a l p)) off 256 = (b, false)) (hvalid : recordFlaw b = none)
    (hcluster : s.noCluster t.id.ctx (LaunchRec.ofRaw b) = false) :
    exec (.launch a l p) s = .next ((s.committed t (launchForm a l p)).launched (s.argsOf t (launchForm a l p)) p (dieOf (s.coreOf t.id))
      (b - bits (recWord b 0) 32 16 * 2 ^ 32 + (bits (recWord b 0) 32 16 &&& gr.svcp) * 2 ^ 32) (t.id, t.pos, s.coreOf t.id)) := by
  have hregion : ¬ s.scrOf t.id.teamId * 4096 < off + 256 := by
    rw [State.scrOf, hteam]
    exact Nat.not_lt.2 hinside
  have hfound := State.team_committed hteam (launchForm a l p)
  have hgr : (s.committed t (launchForm a l p)).grid? t.id.gridId = some gr := hgrid
  have hsrc : nth (s.argsOf t (launchForm a l p)).vals 0 0 = off := by rw [State.argsOf_val, hoff]
  refine issue_ok (i := fun _ => launchForm a l p) h ?_ (h.room_fall (State.launched_fall _ _ _ _ _ _))
  simp only [hsrc]
  refine (if_neg (not_not.2 halign)).trans ((if_neg hregion).trans ?_)
  simp only [State.argsOf_t, hfound, hgr, Team.present_issuedAt, hpresent, hfree, hb, hvalid]
  have hcluster' : (s.committed t (launchForm a l p)).noCluster t.id.gridId.ctx (LaunchRec.ofRaw b) = false := hcluster
  rw [hcluster']
  generalize b - bits (recWord b 0) 32 16 * 2 ^ 32 + (bits (recWord b 0) 32 16 &&& gr.svcp) * 2 ^ 32 = raw
  simp only [Bool.not_true, Bool.false_eq_true, if_false]
  refine Eq.trans ?_ (State.ok_launched _ _ _ _ _ _).symm
  exact if_congr Iff.rfl rfl (if_congr Iff.rfl rfl rfl)

/-- Settles O33. -/
theorem launchCompletes : Obligations.LaunchCompletes := by
  intro s t tm gr a l p form hform h hteam hgrid off hoff halign hinside hpresent hfree b hb hclean hvalid hcluster die raw src hdie hsrc hraw
  replace hform : form = launchForm a l p := hform
  subst hform
  have hview : (s.committed t (launchForm a l p)).imageBytes (s.argsOf t (launchForm a l p)) off 256 = (b.1, false) := by
    rw [← hb, ← hclean]
  have hrun := launch_valid h hteam hgrid hoff halign hinside hpresent hfree hview hvalid hcluster
  rw [hrun, ← hdie, ← hsrc, ← hraw]
  refine ⟨fun hnone hroom => ?store, fun hfull hring => ?ring, fun hfull hring s2 hs2 => ?neither⟩
  case store => exact congrArg _ (if_pos ⟨hnone, hroom⟩)
  all_goals
    have hnot : ¬ ((s.ctl die).spilled = 0 ∧ s.storeRoom die = true) := fun ⟨hz, hr⟩ =>
      hfull.elim (fun hne => hne hz) fun hno => by simp [hno] at hr
  case ring => exact congrArg _ ((if_neg hnot).trans (if_pos ⟨Nat.ne_zero_of_lt hring, hring⟩))
  case neither =>
    subst hs2
    exact congrArg _ ((if_neg hnot).trans (if_neg fun ⟨_, hlt⟩ => absurd hlt (Nat.not_lt.2 hring)))

-- ---------------------------------------------------------------- SVC

theorem State.writeVa_mild (s : State) (die ctx fuel va n v : Nat) : s.Mild (s.writeVa die ctx fuel va n v).1 := by
  induction fuel generalizing s va n v with
  | zero => exact .rfl
  | succ fuel ih =>
    rw [State.writeVa]
    split
    · exact .rfl
    · dsimp only
      split
      · exact .rfl
      · exact (s.homeWrite_mild _ _ _ _).trans (ih _ _ _ _)

theorem State.wakeVa_mild (s : State) (die ctx va : Nat) : s.Mild (s.wakeVa die ctx va) := by
  unfold State.wakeVa
  split
  · exact s.wakeGranule_mild _
  · exact .rfl

theorem Thread.commit_counter (t : Thread) (i : Issue) (now : Nat) (c : KClass) : (t.commit i now).counter c = t.counter c := by
  rw [Thread.counter, Thread.commit_outstanding]
  rfl

theorem State.parkService_fall (s : State) (x : Args) (i : Issue) (y : SvcCaller) (dests : List Nat) :
    s.CountersFall (s.parkService x i y dests) :=
  (State.CountersFall.of_threads (s := s) (s' := s.addOp _) rfl).trans
    (.keep (fun u => Thread.commit_id u i x.now) fun u => Thread.commit_outstanding u i x.now)

/-- A thread put back as it was at its word counts what it counted there. -/
theorem State.counterOf_putBack (s : State) (t : Thread) (c : KClass) : (s.updThread t.id fun _ => t).counterOf t.id c ≤ t.counter c := by
  unfold State.counterOf
  cases hy : (s.updThread t.id fun _ => t).thread? t.id with
  | none => exact Nat.zero_le _
  | some y =>
    have hname : y.id = t.id := by simpa using List.find?_some hy
    obtain ⟨x, -, hx⟩ := List.mem_map.1 (List.mem_of_find?_eq_some hy)
    split at hx
    · exact hx ▸ Nat.le_refl _
    · next hother => exact absurd (hx ▸ hname) hother

/-- A batch parks its threads with the counters they have. -/
theorem State.parkBatch_room (s s3 : State) (x : Args) (d a : Nat) (l : Bool) (k j ctx base va : Nat) (all : List SvcCaller)
    (hroom : ∀ c, x.t.counter c < 64) : (s.parkBatch s3 x d a l k j ctx base va all).overCount x.t.id = false := by
  have hfall : (s3.updThread x.t.id fun _ => x.t).CountersFall (s.parkBatch s3 x d a l k j ctx base va all) := by
    unfold State.parkBatch
    exact (State.CountersFall.foldl (fun u y => State.parkService_fall u x _ y _) all _).trans
      ((State.CountersFall.of_threads rfl).trans (State.wakeVa_mild _ _ _ _).falls)
  exact hfall.room fun c => Nat.lt_of_le_of_lt (s3.counterOf_putBack x.t c) (hroom c)

/-- Settles O34: with its class permitted SVC reads PW and CW; a full ring holds it, and an open slot is written and parks the batch. -/
theorem serviceCallCompletes : Obligations.ServiceCallCompletes := by
  intro s t gr d a l n c k form hk hform h hgrid
  subst hk hform
  have hgr : (s.committed t (svcForm s d a l (2 * 2 ^ n) t)).grid? t.id.gridId = some gr := hgrid
  refine ⟨fun hdenied => issue_trap (i := svcForm s d a l (2 * 2 ^ n)) h ?denied,
    fun hpermitted s1 die ctx base slots pw cw m1 m2 hs1 hdie hring hctx hpw hcw => ⟨fun hfull => ?full, fun hopen hfree all va s2 s3 hall hva hw1 hw2 => ?park⟩⟩
  case denied =>
    simp only [State.argsOf_t, hgr, hdenied]
    rfl
  all_goals
    subst hs1 hdie
    have hcore : (s.argsOf t (svcForm s d a l (2 * 2 ^ n) t)).core = s.coreOf t.id := rfl
    have hring' : ((s.committed t (svcForm s d a l (2 * 2 ^ n) t)).ctl (dieOf (s.coreOf t.id))).serviceRing = some (base, slots) := hring
    have hctx' : (s.committed t (svcForm s d a l (2 * 2 ^ n) t)).serviceCtx (dieOf (s.coreOf t.id)) = some ctx := hctx
  case full =>
    refine issue_hold (i := svcForm s d a l (2 * 2 ^ n)) h ?_
    simp only [State.argsOf_t, hgr, hpermitted, hcore, hring', hctx', hpw, hcw, decide_eq_false (Nat.not_lt.2 hfull)]
    rfl
  case park =>
    subst hall hva
    refine issue_holdWith (i := svcForm s d a l (2 * 2 ^ n)) h ?_ (State.parkBatch_room s s3 (s.argsOf t _) d a l _ pw ctx base _ _ h.room)
    have hown : ((s.committed t (svcForm s d a l (2 * 2 ^ n) t)).svc.any fun b =>
        decide (b.die = dieOf (s.coreOf t.id)) && decide (b.j % slots = pw % slots)) = false := by
      refine List.any_eq_false.2 fun b hb hboth => ?_
      obtain ⟨hdie, hj⟩ := Bool.and_eq_true_iff.1 hboth
      exact hfree b hb (of_decide_eq_true hdie) (of_decide_eq_true hj)
    have huser : (s.committed t (svcForm s d a l (2 * 2 ^ n) t)).userOf t.id.gridId = s.userOf t.id.gridId := rfl
    simp only [State.argsOf_t, hgr, hpermitted, hcore, hring', hctx', hpw, hcw, hown, decide_eq_true hopen, huser, hw1, hw2]
    rfl

end Machine
end Sys2Proof
end

section
/-! PROOFS. O35: the cairn words. Each is one frame, the checks of R464 before the word's own body, and its own body. -/

namespace Sys2Proof
namespace Machine

-- ---------------------------------------------------------------- the cairn's state

theorem State.releaseCairn_mild (s : State) (t : TeamId) (off phase n : Nat) : s.Mild (s.releaseCairn t off phase n) := .ite .rfl (.inert rfl rfl)

theorem State.cairnAcquire_mild (s : State) (core scope : Nat) : s.Mild (s.cairnAcquire core scope) := .ite (s.invalidateL1_mild _) .rfl

theorem State.cairnUsed_fall (s : State) (t : Thread) (form : Issue) : (s.committed t form).CountersFall (s.cairnUsed t form) := .of_threads rfl

/-- A word that issues finds its team with its cairns used. -/
theorem State.team_cairnUsed {s : State} {t : Thread} {tm : Team} (h : s.team? t.id.teamId = some tm) (form : Issue) :
    (s.cairnUsed t form).team? t.id.teamId =
      some { tm.issuedAt (s.now (s.coreOf t.id)) with cairnAt := s.now (s.coreOf t.id) + 1 } := by
  rw [State.cairnUsed, State.team_updTeam _ _ (fun _ => by rfl), State.team_committed h form]
  rfl

-- ---------------------------------------------------------------- the frame

@[simp] theorem Team.cairn_issuedAt (tm : Team) (now off : Nat) : (tm.issuedAt now).cairn off = tm.cairn off := rfl

/-- The checks of R464 pass for a cairn word that is ready. -/
theorem cairnCheck_ready {s : State} {t : Thread} {tm : Team} {off scope now : Nat} {named : Option Nat} {form : Issue}
    (hready : s.CairnReady t tm off scope) (hscope : named.getD (tm.cairn off).scope = scope) :
    cairnCheck (s.committed t form) t.id.gridId (tm.issuedAt now) off named false = none := by
  obtain ⟨-, halign, hinside, hclean, halone⟩ := hready
  refine (if_neg (not_not.2 halign)).trans ((if_neg (Nat.not_le.2 hinside)).trans ((if_neg (Bool.eq_false_iff.1 hclean)).trans
    ((if_neg fun hwide => ?_).trans (if_neg Bool.false_ne_true))))
  obtain ⟨hdet, hbeyond⟩ := Bool.and_eq_true_iff.1 hwide
  have hnarrow := halone hdet
  cases named with
  | some c => exact absurd (of_decide_eq_true hbeyond) (Nat.not_lt.2 (Nat.le_trans (Nat.le_of_eq hscope) hnarrow))
  | none => exact absurd (of_decide_eq_true (Bool.and_eq_true_iff.1 hbeyond).2) (Nat.not_lt.2 (Nat.le_trans (Nat.le_of_eq hscope) hnarrow))

/-- A cairn word that is ready runs its body (R464, R468). -/
theorem cairnWord_eq {s : State} {t : Thread} {tm : Team} {i : Thread → Issue} {off v scope : Nat} {named : Option Nat}
    {misuse : Team → Nat → Nat → Bool} {body : Args → Team → Nat → Nat → State → Res} (h : s.Issues t { i t with hints := schedOnly })
    (hoff : off = srcOf t { i t with hints := schedOnly } 0) (hv : v = srcOf t { i t with hints := schedOnly } 1) (hready : s.CairnReady t tm off scope)
    (hscope : named.getD (tm.cairn off).scope = scope) (hmisuse : misuse (tm.issuedAt (s.now (s.coreOf t.id))) off v = false) :
    cairnWord i named misuse body s = issue s (fun t => { i t with hints := schedOnly })
      fun x _ => body x (tm.issuedAt (s.now (s.coreOf t.id))) off v (s.cairnUsed t { i t with hints := schedOnly }) := by
  have hid : (tm.issuedAt (s.now (s.coreOf t.id))).id = t.id.teamId := State.team_id (s := s) (tm := tm) hready.found
  unfold cairnWord
  refine issue_congr h ?_
  simp only [State.argsOf_t, State.argsOf_val, ← hoff, ← hv, State.team_committed hready.found, hmisuse, cairnCheck_ready hready hscope, hid]
  rfl

-- ---------------------------------------------------------------- the words

theorem Team.freed_tag (tm : Team) (m : List Host.Cell) (off : Nat) :
    Team.tag { tm with scratch := m } off false = { tm with scratch := m, tags := setDel tm.tags (off / 32) } := rfl

/-- Tagging a granule counts nothing, whatever else of the team changes with it. -/
theorem State.updTeam_falls {s s' : State} (h : s.CountersFall s') (t : TeamId) (f : Team → Team) : s.CountersFall (s'.updTeam t f) :=
  h.trans (.of_threads rfl)

/-- A completion written, and its waiters released, count nothing. -/
theorem State.completed_fall (s : State) (t : TeamId) (off : Nat) (c c' : CairnObj) (core : Nat) (p : Prop) [Decidable p] :
    s.CountersFall (((if p then s.flushL1 core else s).putCairn t off c').releaseCairn t off c.phase c.completions) :=
  ((State.Mild.ite (s.flushL1_mild core) .rfl).trans ((State.putCairn_mild _ _ _ _).trans (State.releaseCairn_mild _ _ _ _ _))).falls

/-- CRN.ARRIVE's count, where its team is there (R462, R465). -/
theorem State.cairnArrive_eq {s : State} {t : TeamId} {tm : Team} (h : s.team? t = some tm) (off n core : Nat) :
    s.cairnArrive t off n core = ((if 4 ≤ (tm.cairn off).scope then s.flushL1 (clusterOf core) else s).putCairn t off
      ((tm.cairn off).arrived n).check).releaseCairn t off ((tm.cairn off).arrived n).phase ((tm.cairn off).arrived n).completions := by
  rw [State.cairnArrive, h]
  rfl

/-- What a waiting cairn word leaves of the state counts no more than the state. -/
theorem State.Issues.room_waiting {s s' : State} {t : Thread} {form : Issue} (h : s.Issues t form) (hf : s.CountersFall s') :
    s'.overCount t.id = false :=
  hf.room fun c => by
    rw [State.counterOf, h.found]
    exact h.room c

/-- What CRN.WAIT does at a cairn (R466). -/
def crnWaitBody (s : State) (x : Args) (c : CairnObj) (off v : Nat) (s1 : State) : Res :=
  if x.t.cairn = some (off, v) then
    if phaseReached c.phase v && ! s.freed.contains x.t.id then .ok ((s1.leaveCairn x.t.id).cairnAcquire x.core c.scope)
    else .hold .blocked
  else if x.t.cairn.isSome then .holdWith .blocked (s.leaveCairn x.t.id)
  else if phaseReached c.phase v then .ok (s1.cairnAcquire x.core c.scope)
  else .holdWith .blocked ((s.putCairn x.t.id.teamId off c.waited).updThread x.t.id fun u => u.atCairn off v)

theorem execCrnWait_eq (d a : Nat) (l : Bool) (s : State) : execCrnWait d a l s =
    cairnWord (fun _ => { srcs := [⟨a, 1⟩, ⟨d, 1⟩], recs := 1, kills := killIf l ⟨a, 1⟩ }) none (fun tm off _ => ! tm.taggedAt off)
      (fun x tm off v s1 => crnWaitBody s x (tm.cairn off) off v s1) s :=
  rfl

section
variable {s s1 : State} {x : Args} {c : CairnObj} {off v : Nat}

theorem crnWaitBody_pass (hphase : phaseReached c.phase v = true) (hidle : x.t.cairn = none) :
    crnWaitBody s x c off v s1 = .ok (s1.cairnAcquire x.core c.scope) := by
  simp [crnWaitBody, hphase, hidle]

theorem crnWaitBody_leave (hphase : phaseReached c.phase v = true) (hat : x.t.cairn = some (off, v)) (hkept : x.t.id ∉ s.freed) :
    crnWaitBody s x c off v s1 = .ok ((s1.leaveCairn x.t.id).cairnAcquire x.core c.scope) := by
  simp [crnWaitBody, hphase, hat, hkept]

theorem crnWaitBody_stand (hphase : phaseReached c.phase v = false) (hidle : x.t.cairn = none) : crnWaitBody s x c off v s1 =
    .holdWith .blocked ((s.putCairn x.t.id.teamId off c.waited).updThread x.t.id fun u => u.atCairn off v) := by
  simp [crnWaitBody, hphase, hidle]

theorem crnWaitBody_stay (hstays : phaseReached c.phase v = false ∨ x.t.id ∈ s.freed) (hat : x.t.cairn = some (off, v)) :
    crnWaitBody s x c off v s1 = .hold .blocked := by
  rcases hstays with hno | hfreed
  · simp [crnWaitBody, hat, hno]
  · simp [crnWaitBody, hat, hfreed]

theorem crnWaitBody_move {p : Nat × Nat} (hat : x.t.cairn = some p) (hother : p ≠ (off, v)) :
    crnWaitBody s x c off v s1 = .holdWith .blocked (s.leaveCairn x.t.id) := by
  simp [crnWaitBody, hat, hother]

end

/-- CRN.WAIT (R466): it passes a cairn that has reached its phase, stands at one that has not, and leaves one it no longer waits at. -/
theorem crnWait_completes {s : State} {t : Thread} {tm : Team} {d a off v : Nat} {l : Bool} (h : s.Issues t (cairnForm d a l 1))
    (hoff : off = srcOf t (cairnForm d a l 1) 0) (hv : v = srcOf t (cairnForm d a l 1) 1)
    (hready : s.CairnReady t tm off (tm.cairn off).scope) (htag : tm.taggedAt off = true) :
    (phaseReached (tm.cairn off).phase v = true → t.cairn = none →
      exec (.crnWait d a l) s = .next ((s.cairnUsed t (cairnForm d a l 1)).cairnAcquire (s.coreOf t.id) (tm.cairn off).scope)) ∧
    (phaseReached (tm.cairn off).phase v = true → t.cairn = some (off, v) → t.id ∉ s.freed →
      exec (.crnWait d a l) s = .next (((s.cairnUsed t (cairnForm d a l 1)).leaveCairn t.id).cairnAcquire (s.coreOf t.id) (tm.cairn off).scope)) ∧
    (phaseReached (tm.cairn off).phase v = false → t.cairn = none →
      exec (.crnWait d a l) s = .next (((s.putCairn t.id.teamId off (tm.cairn off).waited).updThread t.id fun u => u.atCairn off v).setWaiting
        t.id .blocked)) ∧
    (phaseReached (tm.cairn off).phase v = false ∨ t.id ∈ s.freed → t.cairn = some (off, v) →
      exec (.crnWait d a l) s = .next (s.setWaiting t.id .blocked)) ∧
    (∀ p, t.cairn = some p → p ≠ (off, v) → exec (.crnWait d a l) s = .next ((s.leaveCairn t.id).setWaiting t.id .blocked)) := by
  have hrun : exec (.crnWait d a l) s = issue s (fun _ => cairnForm d a l 1) fun x _ =>
      crnWaitBody s x ((tm.issuedAt (s.now (s.coreOf t.id))).cairn off) off v (s.cairnUsed t (cairnForm d a l 1)) :=
    Eq.trans (execCrnWait_eq d a l s) (cairnWord_eq h hoff hv hready (by rfl) (show (! tm.taggedAt off) = false by rw [htag]; rfl))
  rw [Team.cairn_issuedAt] at hrun
  rw [hrun]
  generalize tm.cairn off = c
  refine ⟨fun hphase hidle => ?pass, fun hphase hat hkept => ?leave, fun hphase hidle => ?stand, fun hstays hat => ?stay, fun p hat hother => ?move⟩
  case pass =>
    exact issue_ok (i := fun _ => cairnForm d a l 1) h (crnWaitBody_pass hphase hidle)
      (h.room_fall ((State.cairnUsed_fall s t _).trans (State.cairnAcquire_mild _ _ _).falls))
  case leave =>
    exact issue_ok (i := fun _ => cairnForm d a l 1) h (crnWaitBody_leave hphase hat hkept)
      (h.room_fall ((State.cairnUsed_fall s t _).trans ((State.leaveCairn_fall _ _).trans (State.cairnAcquire_mild _ _ _).falls)))
  case stand =>
    exact issue_holdWith (i := fun _ => cairnForm d a l 1) h (crnWaitBody_stand hphase hidle)
      (h.room_waiting ((State.putCairn_mild s _ _ _).falls.trans (.keep (fun _ => rfl) fun _ => rfl)))
  case stay => exact issue_hold (i := fun _ => cairnForm d a l 1) h (crnWaitBody_stay hstays hat)
  case move => exact issue_holdWith (i := fun _ => cairnForm d a l 1) h (crnWaitBody_move hat hother) (h.room_waiting (s.leaveCairn_fall t.id))

/-- Settles O35, word by word: the frame, the body, and no counter raised. -/
theorem cairnWordsComplete : Obligations.CairnWordsComplete := by
  intro s t tm d a l auto sv
  refine ⟨fun form off v scope hform h hoff hv hscope hready hidle hfresh => ?init, fun form off hform h hoff hready htag hwaiters hcopies => ?free,
    fun form off v hform h hoff hv hready htag harmed hauto c hc => ?expect, fun form off v hform h hoff hv hready htag c hc => ?arrive,
    fun form off v hform h hoff hv hready htag => ?wait, fun form off hform h hoff hready htag => ?test⟩
  all_goals subst hform
  case init =>
    subst hscope
    change execCrnInit d a l auto sv s = _
    unfold execCrnInit
    refine Eq.trans (cairnWord_eq h hoff hv hready (by rfl) ?_) (issue_ok (i := fun _ => cairnForm d a l 2) h rfl (h.room_fall ?_))
    · change (tm.taggedAt off && (decide ((tm.cairn off).waiters ≠ 0) || decide ((tm.cairn off).icnt ≠ 0)) || auto && decide (v = 0)) = false
      cases htag : tm.taggedAt off <;> cases hauto : auto <;> simp_all
    · exact State.updTeam_falls ((State.cairnUsed_fall s t _).trans (State.putCairn_mild _ _ _ _).falls) _ _
  case free =>
    change execCrnFree a l s = _
    unfold execCrnFree
    refine Eq.trans (cairnWord_eq h hoff (by rfl) hready (by rfl) ?_) (issue_ok (i := fun _ => cairnForm d a l 0) h
      (congrArg (fun f => Res.ok ((s.cairnUsed t (cairnForm d a l 0)).updTeam t.id.teamId f)) (funext fun u => (Team.freed_tag u _ off).symm))
      (h.room_fall ?_))
    · change (! tm.taggedAt off || decide ((tm.cairn off).waiters ≠ 0) || decide ((tm.cairn off).icnt ≠ 0)) = false
      simp [htag, hwaiters, hcopies]
    · exact State.updTeam_falls (State.cairnUsed_fall s t _) _ _
  case expect =>
    subst hc
    change execCrnExpect d a l s = _
    unfold execCrnExpect
    refine Eq.trans (cairnWord_eq h hoff hv hready (by rfl) ?_) (issue_ok (i := fun _ => cairnForm d a l 2) h rfl (h.room_fall ?_))
    · change (! tm.taggedAt off || (tm.cairn off).armed || (tm.cairn off).auto) = false
      simp [htag, harmed, hauto]
    · exact (State.cairnUsed_fall s t _).trans (State.completed_fall _ _ _ _ _ _ _)
  case arrive =>
    subst hc
    change execCrnArrive d a l s = _
    unfold execCrnArrive
    have htagged : (! tm.taggedAt off) = false := by rw [htag]; rfl
    refine Eq.trans (cairnWord_eq h hoff hv hready (by rfl) htagged)
      (issue_ok (i := fun t => { cairnForm d a l 1 with wait := ! s.releasable t }) h ?_ (h.room_fall ?_))
    · exact congrArg Res.ok (State.cairnArrive_eq (State.team_cairnUsed hready.found _) off v _)
    · exact (State.cairnUsed_fall s t _).trans (State.completed_fall _ _ _ _ _ _ _)
  case wait => exact crnWait_completes h hoff hv hready htag
  case test =>
    change execCrnTest d a l s = _
    unfold execCrnTest
    have htagged : (! tm.taggedAt off) = false := by rw [htag]; rfl
    refine Eq.trans (cairnWord_eq h hoff (by rfl) hready (by rfl) htagged)
      (issue_ok (i := fun _ => { acFormA a l with dests := [d] }) h rfl (h.room_fall ?_))
    exact (State.cairnUsed_fall s t _).trans ((State.cairnAcquire_mild _ _ _).falls.trans (.of_threads rfl))

end Machine
end Sys2Proof
end

section
/-! PROOFS. O38: ERET's issue, its actions and their statuses, the answering of records, and HALT. -/

namespace Sys2Proof
namespace Machine

-- ---------------------------------------------------------------- ERET issues

theorem erets_of_exec {i : Instr} {d a : Nat} {l : Bool} (hexec : ∀ s, exec i s = eretWord d a l s) : Erets i d a l := by
  intro s t form hform h s2 hs2
  subst hform hs2
  rw [hexec]
  refine issue_ok (i := fun t => eretForm s t d a l) h ?_ (h.room_fall ?_)
  · simp only [State.argsOf_val]
    rfl
  · exact (State.flushL1_mild _ _).falls.trans (.of_threads rfl)

-- ---------------------------------------------------------------- the actions

/-- The team a target names has no thread of its rank (R376). -/
def State.beyondTeam (s : State) (k : Target) : Bool := (s.team? k.team').isSome && decide (s.teamSize k.team' ≤ k.rank)

/-- What the target names is not there (R376): for the actions on requests its records, for the others its team or its record. -/
def State.unknownTarget (s : State) (op : Nat) (k : Target) : Bool :=
  if op = 4 ∨ op = 5 then (s.named k).isEmpty && (decide (k.seq ≠ allSeq) || (s.team? k.team').isNone)
  else (s.team? k.team').isNone || ! s.recordExists k

/-- The action of ERET on a thread that is there (R376). -/
def State.eretOn (s : State) (op reg : Nat) (k : Target) (x : Thread) : State × Nat :=
  if x.st = .exited then (s, 2)
  else match op with
    | 0 => s.eretAnswer k .resume
    | 1 => s.eretAnswer k .skip
    | 2 => (s.killThread k.thread, 0)
    | _ =>
      if ! x.st.isParked ∨ x.openParks.isEmpty ∨ (k.seq ≠ allSeq ∧ ! x.openParks.contains k.seq) then (s, 2)
      else match x.eretWrite reg k.val with
        | some y => (s.updThread k.thread fun _ => y, 0)
        | none => (s, 5)

/-- DONE on a team that is there (R376). -/
def State.eretDone (s : State) (k : Target) (tm : Team) : State × Nat :=
  if tm.entry ≠ .opened then (s, 3)
  else
    let s := s.updTeam k.team' fun x => { x with entry := .closed }
    let np := s.recs.filter fun r => r.np && decide (r.ctx = k.ctx) && decide (r.grid = k.grid) && decide (r.team % 2 ^ 32 = k.team)
    ({ s with recs := s.recs.filter fun r => ! np.contains r }, 0)

/-- What ERET does once its target is there, by its action (R376). -/
def State.eretDo (s : State) (op reg : Nat) (k : Target) : State × Nat :=
  match op with
  | 4 | 5 => if op = 4 then (s.releaseAll k.ctx (s.named k), 0) else (s.cancelAll k.ctx (s.named k), 0)
  | 6 => (match s.team? k.team' with
    | none => (s, 1)
    | some tm => s.eretDone k tm)
  | _ => (match s.thread? k.thread with
    | none => (s, 1)
    | some x => s.eretOn op reg k x)

section
variable {s : State} {w : Nat} {k : Target}

theorem State.eretAct_malformed (h : w / 2 ^ 12 ≠ 0 ∨ 6 < bits w 0 4) : s.eretAct w k = (s, 6) := if_pos h

theorem State.eretAct_noContext (hw : w / 2 ^ 12 = 0) (hop : bits w 0 4 ≤ 6) (hc : s.ctx? k.ctx = none) : s.eretAct w k = (s, 1) := by
  have hok : ¬ (w / 2 ^ 12 ≠ 0 ∨ 6 < bits w 0 4) := by omega
  rw [State.eretAct, if_neg hok, hc]

theorem State.eretAct_notLive {c : Ctx} (hw : w / 2 ^ 12 = 0) (hop : bits w 0 4 ≤ 6) (hc : s.ctx? k.ctx = some c) (hl : c.live = false) :
    s.eretAct w k = (s, 1) := by
  have hok : ¬ (w / 2 ^ 12 ≠ 0 ∨ 6 < bits w 0 4) := by omega
  rw [State.eretAct, if_neg hok, hc]
  simp [hl]

theorem State.eretAct_notResident {c : Ctx} (hw : w / 2 ^ 12 = 0) (hop : bits w 0 4 ≤ 6) (hc : s.ctx? k.ctx = some c) (hl : c.live = true)
    (hb : s.tdiBound c = false) (hr : c.resident = false) : s.eretAct w k = (s, 4) := by
  have hok : ¬ (w / 2 ^ 12 ≠ 0 ∨ 6 < bits w 0 4) := by omega
  rw [State.eretAct, if_neg hok, hc]
  simp [hl, hb, hr]

/-- An ERET whose context is live and resident acts when its target is there (R376). -/
theorem State.eretAct_lives (hw : w / 2 ^ 12 = 0) (hop : bits w 0 4 ≤ 6) (hl : s.targetLives k) :
    s.eretAct w k = if s.beyondTeam k || s.unknownTarget (bits w 0 4) k then (s, 1) else s.eretDo (bits w 0 4) (bits w 4 8) k := by
  have hok : ¬ (w / 2 ^ 12 ≠ 0 ∨ 6 < bits w 0 4) := by omega
  obtain ⟨c, hc, hlive, hres, htdi⟩ := hl
  rw [State.eretAct, if_neg hok, hc]
  dsimp only
  rw [if_neg (by simp [hlive, htdi]), if_neg (by simp [hres])]
  rfl

theorem State.eretDo_requests {op reg : Nat} (hop : op = 4 ∨ op = 5) :
    s.eretDo op reg k = if op = 4 then (s.releaseAll k.ctx (s.named k), 0) else (s.cancelAll k.ctx (s.named k), 0) := by
  rcases hop with rfl | rfl <;> rfl

theorem State.eretDo_done {reg : Nat} {tm : Team} (hteam : s.team? k.team' = some tm) : s.eretDo 6 reg k = s.eretDone k tm := by
  rw [State.eretDo, hteam]

theorem State.eretDo_thread {op reg : Nat} (hop : op < 4) : s.eretDo op reg k = match s.thread? k.thread with
    | none => (s, 1)
    | some x => s.eretOn op reg k x := by
  interval_cases op <;> rfl

theorem State.not_beyondTeam (h : ∀ tm, s.team? k.team' = some tm → k.rank < s.teamSize k.team') : s.beyondTeam k = false := by
  unfold State.beyondTeam
  cases hteam : s.team? k.team' with
  | none => rfl
  | some tm => simpa using h tm hteam

end

-- ---------------------------------------------------------------- the statuses

section
variable {s : State} {w : Nat} {k : Target} {x : Thread}

theorem Thread.not_exited_of_parked (h : x.st.isParked = true) : x.st ≠ .exited := fun he => by rw [he] at h; cases h

/-- RESUME and SKIP answer the records named, and there is none when there is none of those (R376). -/
theorem State.eretAnswer_eq (hx : s.thread? k.thread = some x) (how : ParkAnswer) : s.eretAnswer k how =
    if (x.namedParks k).isEmpty then (s, 2) else ((match how with
      | .resume => s.releaseAll k.ctx (x.namedParks k)
      | .skip => s.cancelAll k.ctx (x.namedParks k)).answer k.thread (x.namedParks k) how, 0) := by
  have hsel : (if k.seq = allSeq then (if x.st.isParked then x.openParks.filter fun q => decide (q < 2 ^ 32) else [])
      else (if x.st.isParked then x.openParks.filter fun q => decide (q < 2 ^ 32) else []).filter fun q => decide (q = k.seq)) = x.namedParks k := by
    unfold Thread.namedParks
    split
    · next hall => simp [hall]
    · next hone => simp [hone]
  unfold State.eretAnswer
  dsimp only
  rw [show s.thread? ⟨k.ctx, k.grid, k.team, k.rank⟩ = some x from hx]
  dsimp only
  rw [hsel]
  split
  · rfl
  · cases how <;> rfl

theorem State.eretAnswer_none (hx : s.thread? k.thread = some x) (how : ParkAnswer) (h : x.namedParks k = []) : s.eretAnswer k how = (s, 2) := by
  rw [State.eretAnswer_eq hx, h]
  rfl

theorem State.eretAnswer_some (hx : s.thread? k.thread = some x) (how : ParkAnswer) (h : x.namedParks k ≠ []) : s.eretAnswer k how =
    ((match how with
      | .resume => s.releaseAll k.ctx (x.namedParks k)
      | .skip => s.cancelAll k.ctx (x.namedParks k)).answer k.thread (x.namedParks k) how, 0) := by
  rw [State.eretAnswer_eq hx, if_neg (by simpa using h)]

theorem Thread.parked_of_namedParks (h : x.namedParks k ≠ []) : x.st.isParked = true := by
  by_contra hno
  exact h (by rw [Thread.namedParks, if_neg hno]; rfl)

/-- The statuses of ERET's actions on a thread that is there (R376). -/
theorem State.eretOn_cases (hx : s.thread? k.thread = some x) (op reg : Nat) :
    (x.st = .exited → s.eretOn op reg k x = (s, 2)) ∧
    (op ≤ 1 → x.namedParks k = [] → s.eretOn op reg k x = (s, 2)) ∧
    (op = 0 → x.namedParks k ≠ [] →
      s.eretOn op reg k x = ((s.releaseAll k.ctx (x.namedParks k)).answer k.thread (x.namedParks k) .resume, 0)) ∧
    (op = 1 → x.namedParks k ≠ [] →
      s.eretOn op reg k x = ((s.cancelAll k.ctx (x.namedParks k)).answer k.thread (x.namedParks k) .skip, 0)) ∧
    (op = 2 → x.st ≠ .exited → s.eretOn op reg k x = (s.killThread k.thread, 0)) ∧
    (op = 3 → x.st.isParked = false ∨ x.openParks = [] ∨ (k.seq ≠ allSeq ∧ k.seq ∉ x.openParks) → s.eretOn op reg k x = (s, 2)) ∧
    (op = 3 → x.st.isParked = true → k.seq ∈ x.openParks ∨ (k.seq = allSeq ∧ x.openParks ≠ []) →
      (x.eretWrite reg k.val = none → s.eretOn op reg k x = (s, 5)) ∧
      (∀ y, x.eretWrite reg k.val = some y → s.eretOn op reg k x = (s.updThread k.thread fun _ => y, 0))) := by
  refine ⟨fun hexit => if_pos hexit, fun hop hnone => ?none, fun hop hsome => ?resume, fun hop hsome => ?skip, fun hop hlive => ?kill,
    fun hop hrefused => ?refused, fun hop hparked hnamed => ?write⟩
  case none =>
    by_cases hexit : x.st = .exited
    · exact if_pos hexit
    · refine (if_neg hexit).trans ?_
      interval_cases op
      · exact State.eretAnswer_none hx _ hnone
      · exact State.eretAnswer_none hx _ hnone
  case resume =>
    subst hop
    exact (if_neg (Thread.not_exited_of_parked (Thread.parked_of_namedParks hsome))).trans (State.eretAnswer_some hx .resume hsome)
  case skip =>
    subst hop
    exact (if_neg (Thread.not_exited_of_parked (Thread.parked_of_namedParks hsome))).trans (State.eretAnswer_some hx .skip hsome)
  case kill =>
    subst hop
    exact if_neg hlive
  case refused =>
    subst hop
    by_cases hexit : x.st = .exited
    · exact if_pos hexit
    · refine (if_neg hexit).trans (if_pos ?_)
      simpa using hrefused
  case write =>
    subst hop
    have hpass : ¬ ((! x.st.isParked) = true ∨ x.openParks.isEmpty = true ∨ (k.seq ≠ allSeq ∧ (! x.openParks.contains k.seq) = true)) := by
      rcases hnamed with hmem | ⟨hall, hne⟩
      · simpa [hparked, hmem] using List.ne_nil_of_mem hmem
      · simp [hparked, hall, hne]
    have hrun : s.eretOn 3 reg k x = match x.eretWrite reg k.val with
        | some y => (s.updThread k.thread fun _ => y, 0)
        | none => (s, 5) := (if_neg (Thread.not_exited_of_parked hparked)).trans (if_neg hpass)
    exact ⟨fun hv => by rw [hrun, hv], fun y hy => by rw [hrun, hy]⟩

/-- DONE (R376): an entry that is not open has status 3; an open one is closed, and the records of its team without a thread are gone. -/
theorem State.eretDone_cases {tm : Team} : (tm.entry ≠ .opened → s.eretDone k tm = (s, 3)) ∧
    (tm.entry = .opened → ∃ s2, s.eretDone k tm = (s2, 0) ∧ (∀ u, s2.team? k.team' = some u → u.entry = .closed) ∧
      ∀ r ∈ s2.recs, ¬ (r.np = true ∧ r.ctx = k.ctx ∧ r.grid = k.grid ∧ r.team % 2 ^ 32 = k.team)) := by
  refine ⟨fun h => if_pos h, fun h => ⟨_, if_neg (not_not.2 h), fun u hu => ?_, fun r hr hnp => ?_⟩⟩
  · have hname : u.id = k.team' := State.team_id hu
    obtain ⟨tm', -, hset⟩ := List.mem_map.1 (List.mem_of_find?_eq_some hu)
    split at hset
    · exact hset ▸ rfl
    · next hother => exact absurd (hset ▸ hname) hother
  · obtain ⟨hmem, hkept⟩ := List.mem_filter.1 hr
    obtain ⟨hnp, hctx, hgrid, hteam⟩ := hnp
    refine not_not_of_true (List.contains_iff_mem.2 (List.mem_filter.2 ⟨hmem, ?_⟩)) hkept
    rw [hnp, decide_eq_true hctx, decide_eq_true hgrid, decide_eq_true hteam]
    rfl

/-- What ERET does, in the order of its checks (R376). -/
theorem State.eretActs (s : State) (w : Nat) (k : Target) : EretActs s w k := by
  refine ⟨State.eretAct_malformed, fun hw hop => ⟨State.eretAct_noContext hw hop, fun c => State.eretAct_notLive hw hop,
    fun c => State.eretAct_notResident hw hop, fun hl => ?lives⟩⟩
  have hacts := State.eretAct_lives hw hop hl
  generalize bits w 0 4 = op at hop hacts
  generalize bits w 4 8 = reg at hacts
  have habsent (h : (s.beyondTeam k || s.unknownTarget op k) = true) : s.eretAct w k = (s, 1) := hacts.trans (if_pos h)
  have hthere (h : s.beyondTeam k = false) (h' : s.unknownTarget op k = false) : s.eretAct w k = s.eretDo op reg k :=
    hacts.trans (if_neg (by simp [h, h']))
  have hthread (hlt : op < 4) {tm : Team} (hteam : s.team? k.team' = some tm) (hrec : s.recordExists k = true) : s.unknownTarget op k = false := by
    rw [State.unknownTarget, if_neg (by omega), hteam, hrec]
    rfl
  refine ⟨fun h4 h5 hgone => habsent ?gone, fun hreq hnone hone => habsent ?norec, fun tm hteam hsize => habsent ?beyond, fun hlt hno => ?nothread,
    fun tm x hteam hsize hrec hx => ?onThread, fun hsize hsome => ⟨fun h4 => ?release, fun h5 => ?cancel⟩, fun h6 tm hteam hsize hrec => ?done⟩
  case gone =>
    rw [State.unknownTarget, if_neg (by omega)]
    rcases hgone with h | h <;> simp [h]
  case norec =>
    rw [State.unknownTarget, if_pos hreq]
    simp [hnone, hone]
  case beyond => simp [State.beyondTeam, hteam, hsize]
  case nothread =>
    refine hacts.trans ?_
    split
    · rfl
    · rw [State.eretDo_thread hlt, hno]
  case onThread =>
    have hin : s.beyondTeam k = false := State.not_beyondTeam fun _ _ => hsize
    have hrun (hlt : op < 4) : s.eretAct w k = s.eretOn op reg k x := by
      rw [hthere hin (hthread hlt hteam hrec), State.eretDo_thread hlt, hx]
    obtain ⟨hexit, hnone, hresume, hskip, hkill, hrefused, hwrite⟩ := State.eretOn_cases hx op reg
    refine ⟨fun hlt he => (hrun hlt).trans (hexit he), fun hlt hn => (hrun (by omega)).trans (hnone hlt hn),
      fun ho hs => (hrun (by omega)).trans (hresume ho hs), fun ho hs => (hrun (by omega)).trans (hskip ho hs),
      fun ho hs => (hrun (by omega)).trans (hkill ho hs), fun ho hs => (hrun (by omega)).trans (hrefused ho hs), fun ho hp hs => ?_⟩
    rw [hrun (by omega)]
    exact hwrite ho hp hs
  case release =>
    subst h4
    rw [hthere (State.not_beyondTeam hsize) (by simp [State.unknownTarget, hsome]), State.eretDo_requests (.inl rfl)]
    rfl
  case cancel =>
    subst h5
    rw [hthere (State.not_beyondTeam hsize) (by simp [State.unknownTarget, hsome]), State.eretDo_requests (.inr rfl)]
    rfl
  case done =>
    subst h6
    rw [hthere (State.not_beyondTeam fun _ _ => hsize) (by simp [State.unknownTarget, hteam, hrec]), State.eretDo_done hteam]
    exact State.eretDone_cases

end

-- ---------------------------------------------------------------- answers

/-- The thread after its records are answered, before it is made Ready (R510). -/
def Thread.answered (x : Thread) (seqs : List Nat) (how : ParkAnswer) (res : Option Resume) : Thread :=
  { x with
    parks := x.parks.map fun p => if seqs.contains p.seq then { p with answer := some how } else p
    resume := match res with
      | some r => some r
      | none => x.resume }

theorem Thread.mem_openParks {x : Thread} {q : Nat} : q ∈ x.openParks ↔ ∃ p ∈ x.parks, p.answer = none ∧ p.seq = q := by
  simp [Thread.openParks, and_assoc]

/-- The records that an answer leaves open (R510). -/
theorem Thread.mem_openParks_answered (x : Thread) (seqs : List Nat) (how : ParkAnswer) (res : Option Resume) (q : Nat) :
    q ∈ (x.answered seqs how res).openParks ↔ q ∈ x.openParks ∧ q ∉ seqs := by
  rw [Thread.mem_openParks, Thread.mem_openParks]
  constructor
  · rintro ⟨p, hp, hopen, rfl⟩
    obtain ⟨p', hp', rfl⟩ := List.mem_map.1 hp
    by_cases hin : seqs.contains p'.seq
    · rw [if_pos hin] at hopen
      cases hopen
    · rw [if_neg hin] at hopen ⊢
      exact ⟨⟨p', hp', hopen, rfl⟩, fun h => hin (List.contains_iff_mem.2 h)⟩
  · rintro ⟨⟨p, hp, hopen, rfl⟩, hout⟩
    have hin : ¬ seqs.contains p.seq = true := fun h => hout (List.contains_iff_mem.1 h)
    exact ⟨p, List.mem_map.2 ⟨p, hp, if_neg hin⟩, hopen, rfl⟩

/-- Closing records changes no thread. -/
theorem State.closeRecords_threads (ctx : Nat) (seqs : List Nat) (s : State) : (seqs.foldl (fun s q => s.closeRecord ctx q) s).threads = s.threads := by
  induction seqs generalizing s with
  | nil => rfl
  | cons q qs ih => exact ih _

/-- A thread found ready to go on, at a word with a latch and with no record (R510). -/
def State.readyAt (s : State) (t : ThreadId) (pc : Addr) (latch : List Word) : Prop :=
  ∃ y, s.thread? t = some y ∧ y.st = .ready ∧ y.pc = pc ∧ y.latch = latch ∧ y.parks = []

/-- A woken thread without open records is Ready where it is (R510). -/
theorem State.readyAt_wakeThread {s : State} {t : ThreadId} {x : Thread} (hx : s.thread? t = some x) (hlive : x.st ≠ .exited) (hparks : x.parks = []) :
    (s.wakeThread t).readyAt t x.pc x.latch := by
  refine ⟨x.becomeReady (s.now (s.coreOf t)) (s.pauseOf t.teamId), ?_, rfl, rfl, rfl, hparks⟩
  rw [State.wakeThread, State.thread_updThread_some hx fun y => by split <;> [rfl; (split <;> rfl)], if_neg hlive,
    if_pos (by simp [Thread.openParks, hparks])]

/-- What leaving its wait leaves of a thread (R466, R510). -/
theorem State.thread_unwait {s : State} {t : ThreadId} {x : Thread} (hx : s.thread? t = some x) :
    ∃ c, (s.unwait t).thread? t = some { x with cairn := c } := by
  unfold State.unwait
  generalize hs : ({ s with waiters := _, ops := _ } : State) = s0
  have hx0 : s0.thread? t = some x := by rw [← hs]; exact hx
  rw [State.leaveCairn, hx0]
  dsimp only
  split
  · exact ⟨x.cairn, hx0⟩
  · refine ⟨none, ?_⟩
    rw [State.thread_updTeam]
    exact State.thread_updThread_some (s := { s0 with freed := _ }) hx0 fun _ => rfl

/-- The resumption that answering records of a thread finds among them (R376). -/
def State.resumptionOf (s : State) (t : ThreadId) (seqs : List Nat) : Option Resume :=
  ((s.recs ++ s.held.map (·.record)).filter fun r => decide (r.ctx = t.ctx) && seqs.contains r.seq).findSome? FRec.resumption

/-- The state with records of a thread answered, before the thread is made Ready (R510). -/
def State.answered (s : State) (t : ThreadId) (seqs : List Nat) (how : ParkAnswer) : State :=
  (seqs.foldl (fun s q => s.closeRecord t.ctx q) s).updThread t fun x => x.answered seqs how (s.resumptionOf t seqs)

theorem State.thread_answered {s : State} {t : ThreadId} {x : Thread} (hx : s.thread? t = some x) (seqs : List Nat) (how : ParkAnswer) :
    (s.answered t seqs how).thread? t = some (x.answered seqs how (s.resumptionOf t seqs)) :=
  State.thread_updThread_some (by rwa [State.thread?, State.closeRecords_threads]) fun _ => rfl

/-- A thread past the word it was parked at. -/
def Thread.skipped (y : Thread) (pc : Addr) : Thread := { y with pc := pc + 4, latch := [], resume := none, parks := [] }

/-- A thread with no record any more. -/
def Thread.unparked (y : Thread) : Thread := { y with parks := [] }

/-- What an answer makes of the state: the thread stays while a record is open, goes past its word after a SKIP, and else to its word (R510). -/
theorem State.answer_eq {s : State} {t : ThreadId} {x : Thread} (hx : s.thread? t = some x) (seqs : List Nat) (how : ParkAnswer) :
    s.answer t seqs how =
      if ! (x.answered seqs how (s.resumptionOf t seqs)).openParks.isEmpty then s.answered t seqs how
      else if (x.answered seqs how (s.resumptionOf t seqs)).parks.any (fun p => decide (p.answer = some .skip)) then
        (((s.answered t seqs how).unwait t).updThread t fun y => y.skipped x.parkPc).wakeThread t
      else if x.st = .parked .fault then ((s.answered t seqs how).updThread t Thread.unparked).wakeThread t
      else (s.answered t seqs how).updThread t Thread.unparked := by
  have hfound := State.thread_answered hx seqs how
  change (match (s.answered t seqs how).thread? t with
    | none => _
    | some x => _) = _
  rw [hfound]
  rfl

/-- A record of the thread has a SKIP for its answer (R510). -/
theorem Thread.any_skip {x : Thread} {seqs : List Nat} {how : ParkAnswer} {res : Option Resume} :
    (x.answered seqs how res).parks.any (fun p => decide (p.answer = some .skip)) = true ↔
      (∃ p ∈ x.parks, p.seq ∈ seqs ∧ how = .skip) ∨ ∃ p ∈ x.parks, p.seq ∉ seqs ∧ p.answer = some .skip := by
  simp only [Thread.answered, List.any_map, List.any_eq_true, Function.comp, decide_eq_true_eq]
  constructor
  · rintro ⟨p, hp, hans⟩
    by_cases hin : seqs.contains p.seq
    · rw [if_pos hin] at hans
      exact .inl ⟨p, hp, List.contains_iff_mem.1 hin, Option.some.inj hans⟩
    · rw [if_neg hin] at hans
      exact .inr ⟨p, hp, fun h => hin (List.contains_iff_mem.2 h), hans⟩
  · rintro (⟨p, hp, hin, hhow⟩ | ⟨p, hp, hout, hans⟩)
    · exact ⟨p, hp, by rw [if_pos (List.contains_iff_mem.2 hin), hhow]⟩
    · exact ⟨p, hp, by rw [if_neg fun h => hout (List.contains_iff_mem.1 h), hans]⟩

/-- What becomes of a thread whose records are answered (R510). -/
theorem State.answers (s : State) (t : ThreadId) (seqs : List Nat) (how : ParkAnswer) : Answers s t seqs how := by
  intro x hx
  have hfound := State.thread_answered hx seqs how
  have hmem := x.mem_openParks_answered seqs how (s.resumptionOf t seqs)
  rw [State.answer_eq hx]
  refine ⟨fun ⟨q, hq, hout⟩ => ?stays, fun hall hne hlive => ?last⟩
  case stays =>
    have hopen : (! (x.answered seqs how (s.resumptionOf t seqs)).openParks.isEmpty) = true :=
      not_of_false (by simpa using List.ne_nil_of_mem ((hmem q).2 ⟨hq, hout⟩))
    rw [if_pos hopen]
    exact ⟨_, hfound, rfl, rfl, rfl, hmem⟩
  case last =>
    have hclosed : ¬ (! (x.answered seqs how (s.resumptionOf t seqs)).openParks.isEmpty) = true := by
      have hnil : (x.answered seqs how (s.resumptionOf t seqs)).openParks = [] :=
        List.eq_nil_iff_forall_not_mem.2 fun q hq => ((hmem q).1 hq).2 (hall q ((hmem q).1 hq).1)
      rw [hnil]
      exact Bool.false_ne_true
    rw [if_neg hclosed]
    refine ⟨fun hskip => ?skip, fun hresume hnone hfault => ?resume⟩
    case skip =>
      rw [if_pos (Thread.any_skip.2 ?_)]
      · obtain ⟨c, hc⟩ := State.thread_unwait hfound
        exact State.readyAt_wakeThread (State.thread_updThread_some (f := fun y => y.skipped x.parkPc) hc fun _ => rfl) hlive rfl
      · refine hskip.imp (fun hhow => ?_) id
        obtain ⟨q, hq⟩ := List.exists_mem_of_ne_nil _ hne
        obtain ⟨p, hp, -, rfl⟩ := Thread.mem_openParks.1 hq
        exact ⟨p, hp, hall _ hq, hhow⟩
    case resume =>
      rw [if_neg fun h => ?_, if_pos hfault]
      · exact State.readyAt_wakeThread (x := (x.answered seqs how (s.resumptionOf t seqs)).unparked)
          (State.thread_updThread_some (f := Thread.unparked) hfound fun _ => rfl) hlive rfl
      · rcases Thread.any_skip.1 h with ⟨p, -, -, hskip⟩ | ⟨p, hp, hout, hans⟩
        · rw [hresume] at hskip
          cases hskip
        · exact hnone p hp hout hans

-- ---------------------------------------------------------------- HALT

theorem State.dropSpills_fall (s : State) (die n : Nat) : s.CountersFall (s.dropSpills die n) := by
  induction n generalizing s with
  | zero => exact .rfl
  | succ n ih =>
    rw [State.dropSpills]
    split
    · exact .rfl
    · split
      · exact (State.CountersFall.of_threads (by rfl)).trans (ih _)
      · exact .rfl

theorem State.drainSpill_fall (s : State) (die : Nat) : s.CountersFall (s.drainSpill die) := by
  unfold State.drainSpill
  refine (s.dropSpills_fall die s.spills.length).trans ?_
  dsimp only
  split
  · exact .rfl
  · split
    · exact .rfl
    · next x _ _ => exact (State.CountersFall.of_threads (s' := State.popSpill _ x) (by rfl)).trans (State.acceptGrid_fall _ _ _ _ _ _ _ _)

/-- The store entries that open take spilled records, and count nothing (R346). -/
theorem State.drainAll_fall (s : State) : s.CountersFall s.drainAll :=
  (State.CountersFall.foldl (fun s _ => s.drainSpill_fall 0) _ s).trans (.foldl (fun s _ => s.drainSpill_fall 1) _ _)

/-- Threads that go count nothing any more. -/
theorem State.CountersFall.filter {s s' : State} {p : ThreadId → Bool} (h : s'.threads = s.threads.filter fun t => p t.id) : s.CountersFall s' := by
  intro id c
  have hfind : s'.thread? id = if p id then s.thread? id else none := by
    simp only [State.thread?, h, List.find?_filter]
    split
    · next hp =>
      congr 1
      funext t
      by_cases ht : t.id = id <;> simp [ht, hp]
    · next hp =>
      refine List.find?_eq_none.2 fun t _ => ?_
      simp only [decide_eq_true_eq, not_and]
      rintro hpt rfl
      exact hp hpt
  rw [State.counterOf, hfind]
  by_cases hp : p id = true
  · rw [if_pos hp]
    exact Nat.le_refl _
  · rw [if_neg hp]
    exact Nat.zero_le _

theorem State.killContext_fall (s : State) (ctx : Nat) : s.CountersFall (s.killContext ctx) :=
  .filter (p := fun t => decide (t.ctx ≠ ctx)) (by rfl)

/-- Settles O38: ERET's issue, its actions and the answers of records are stated of the state; HALT ends the context or says why not. -/
theorem kernelWordsComplete : Obligations.KernelWordsComplete := by
  refine ⟨fun d a l => ⟨erets_of_exec fun _ => rfl, erets_of_exec fun _ => rfl, erets_of_exec fun _ => rfl, erets_of_exec fun _ => rfl,
    erets_of_exec fun _ => rfl, erets_of_exec fun _ => rfl, erets_of_exec fun _ => rfl⟩, fun s o w ks hbody r hr => ?perform,
    State.eretActs, State.answers, fun s t d a l form hform h n hn => ?halt⟩
  case perform =>
    subst hr
    rw [State.performEret, hbody]
  case halt =>
    subst hform hn
    refine ⟨fun hnone => ?noContext, fun c hc => ⟨fun hrefused => ?refused, fun hlive hown hkernel => ?kernel, fun hlive hown huser s2 hs2 => ?ends⟩⟩
    case noContext =>
      refine issue_ok (i := fun t => haltForm s t d a l) h ?_ (h.room_result _ _ _)
      have hno : (s.committed t (haltForm s t d a l)).ctx? (srcOf t (haltForm s t d a l) 0 % 256) = none := hnone
      simp only [State.argsOf_val, hno]
      rfl
    all_goals
      have hfound : (s.committed t (haltForm s t d a l)).ctx? (srcOf t (haltForm s t d a l) 0 % 256) = some c := hc
    case refused =>
      refine issue_ok (i := fun t => haltForm s t d a l) h ?_ (h.room_result _ _ _)
      simp only [State.argsOf_val, hfound]
      refine if_pos (Bool.or_eq_true_iff.2 (hrefused.imp (fun hl => by rw [hl]; rfl) fun hb => ?_))
      exact hb
    all_goals
      have hpass : ¬ (! c.live || (s.committed t (haltForm s t d a l)).tdiBound c) = true := by
        rw [hlive, show (s.committed t (haltForm s t d a l)).tdiBound c = false from hown]
        exact Bool.false_ne_true
    case kernel =>
      refine issue_ok (i := fun t => haltForm s t d a l) h ?_ (h.room_result _ _ _)
      simp only [State.argsOf_val, hfound]
      exact (if_neg hpass).trans (if_pos hkernel)
    case ends =>
      subst hs2
      refine issue_ok (i := fun t => haltForm s t d a l) h ?_
        (h.room_fall ((State.killContext_fall _ _).trans ((State.drainAll_fall _).trans (.of_threads rfl))))
      simp only [State.argsOf_val, hfound]
      exact (if_neg hpass).trans (if_neg (Bool.eq_false_iff.1 huser))

end Machine
end Sys2Proof
end

section
/-! PROOFS. O56: a result writes its registers one by one, each judged alone by the last write applied to it. -/

namespace Sys2Proof
namespace Machine

/-- A register or predicate, with the position of its last write, as it was. -/
structure Thread.SameAt (t t2 : Thread) (r : Nat) : Prop where
  wpos : nth t2.wpos r 0 = nth t.wpos r 0
  reg : r < 64 → nth t2.regs r 0 = nth t.regs r 0 ∧ nth t2.dead r false = nth t.dead r false
  pred : 64 ≤ r → nth t2.preds (r - 64) false = nth t.preds (r - 64) false

/-- A register or predicate after a write of a position: written where no younger write has been applied, and else as it was (R129). -/
structure Thread.WrittenAt (t t2 : Thread) (pos r v : Nat) : Prop where
  wpos : (pos < nth t.wpos r 0 → nth t2.wpos r 0 = nth t.wpos r 0) ∧ (nth t.wpos r 0 ≤ pos → nth t2.wpos r 0 = pos)
  reg : r < 64 → (pos < nth t.wpos r 0 → nth t2.regs r 0 = nth t.regs r 0 ∧ nth t2.dead r false = nth t.dead r false) ∧
    (nth t.wpos r 0 ≤ pos → nth t2.regs r 0 = BitVec.ofNat 32 v ∧ nth t2.dead r false = false)
  pred : 64 ≤ r → (pos < nth t.wpos r 0 → nth t2.preds (r - 64) false = nth t.preds (r - 64) false) ∧
    (nth t.wpos r 0 ≤ pos → nth t2.preds (r - 64) false = decide (v % 2 = 1))

/-- The lists of a thread that hold its registers and predicates have their lengths, and a register is one of them (R26, R28). -/
structure Thread.Holds (t : Thread) (r : Nat) : Prop where
  regs : t.regs.length ≤ 64
  preds : t.preds.length = 12
  wpos : t.wpos.length = 76
  dead : t.dead.length = t.regs.length
  here : r < t.regs.length ∨ 64 ≤ r ∧ r < 76

section
variable {t t1 t2 : Thread} {pos r r' v : Nat}

theorem Thread.SameAt.rfl : t.SameAt t r := ⟨by rfl, fun _ => ⟨by rfl, by rfl⟩, fun _ => by rfl⟩

/-- A thread with the same lists has the same registers. -/
theorem Thread.SameAt.of_lists (h : (t2.wpos, t2.regs, t2.dead, t2.preds) = (t.wpos, t.regs, t.dead, t.preds)) : t.SameAt t2 r := by
  simp only [Prod.mk.injEq] at h
  obtain ⟨hw, hr, hd, hp⟩ := h
  exact ⟨by rw [hw], fun _ => ⟨by rw [hr], by rw [hd]⟩, fun _ => by rw [hp]⟩

theorem Thread.SameAt.trans (h : t.SameAt t1 r) (k : t1.SameAt t2 r) : t.SameAt t2 r :=
  ⟨k.wpos.trans h.wpos, fun hr => ⟨(k.reg hr).1.trans (h.reg hr).1, (k.reg hr).2.trans (h.reg hr).2⟩, fun hr => (k.pred hr).trans (h.pred hr)⟩

theorem Thread.SameAt.written (h : t.SameAt t1 r) (k : t1.WrittenAt t2 pos r v) : t.WrittenAt t2 pos r v := by
  obtain ⟨hw, hr, hp⟩ := h
  obtain ⟨kw, kr, kp⟩ := k
  rw [hw] at kw kr kp
  refine ⟨kw, fun h => ?_, fun h => ?_⟩
  · rw [(hr h).1, (hr h).2] at kr
    exact kr h
  · rw [hp h] at kp
    exact kp h

theorem Thread.WrittenAt.same (h : t.WrittenAt t1 pos r v) (k : t1.SameAt t2 r) : t.WrittenAt t2 pos r v := by
  obtain ⟨hw, hr, hp⟩ := h
  obtain ⟨kw, kr, kp⟩ := k
  refine ⟨by rwa [kw], fun h => ?_, fun h => ?_⟩
  · rw [(kr h).1, (kr h).2]
    exact hr h
  · rw [kp h]
    exact hp h

theorem nth_set_self {α : Type} {l : List α} {i : Nat} (h : i < l.length) (x d : α) : nth (l.set i x) i d = x := by
  simp [nth, h]

theorem nth_set_other {α : Type} {l : List α} {i j : Nat} (h : i ≠ j) (x d : α) : nth (l.set i x) j d = nth l j d := by
  simp [nth, h]

/-- A write leaves every other register as it was. -/
theorem Thread.applyWrite_other (h : r' ≠ r) : t.SameAt (t.applyWrite pos r' v) r := by
  unfold Thread.applyWrite
  split
  · exact .rfl
  · split
    · exact ⟨nth_set_other h _ _, fun _ => ⟨nth_set_other h _ _, nth_set_other h _ _⟩, fun _ => rfl⟩
    · next hpred => exact ⟨nth_set_other h _ _, fun hr => ⟨rfl, rfl⟩, fun hr => nth_set_other (by omega) _ _⟩

/-- A write writes its register, unless a younger one has been applied to it (R129). -/
theorem Thread.applyWrite_self (h : t.Holds r) : t.WrittenAt (t.applyWrite pos r v) pos r v := by
  obtain ⟨hregs, hpreds, hwpos, hdead, hhere⟩ := h
  unfold Thread.applyWrite
  split
  · next hold => exact ⟨⟨fun _ => rfl, fun h => by omega⟩, fun _ => ⟨fun _ => ⟨rfl, rfl⟩, fun h => by omega⟩, fun _ => ⟨fun _ => rfl, fun h => by omega⟩⟩
  · next hnew =>
    split
    · next hr =>
      refine ⟨⟨fun h => absurd h hnew, fun _ => nth_set_self (by omega) _ _⟩,
        fun _ => ⟨fun h => absurd h hnew, fun _ => ⟨nth_set_self (by omega) _ _, nth_set_self (by omega) _ _⟩⟩, fun h => by omega⟩
    · next hr =>
      refine ⟨⟨fun h => absurd h hnew, fun _ => nth_set_self (by omega) _ _⟩, fun h => absurd h hr,
        fun _ => ⟨fun h => absurd h hnew, fun _ => (nth_set_self (by omega) _ _).trans ?_⟩⟩
      by_cases hv : v % 2 = 1 <;> simp [hv]

/-- A write keeps the lengths of the lists. -/
theorem Thread.Holds.applyWrite (h : t.Holds r) : (t.applyWrite pos r' v).Holds r := by
  obtain ⟨hregs, hpreds, hwpos, hdead, hhere⟩ := h
  unfold Thread.applyWrite
  split
  · exact ⟨hregs, hpreds, hwpos, hdead, hhere⟩
  · split <;> exact ⟨by simpa using hregs, by simpa using hpreds, by simpa using hwpos, by simpa using hdead, by simpa using hhere⟩

end

/-- Writes leave every register they do not name as it was. -/
theorem Thread.applyWrites_other {r : Nat} (pos : Nat) (dests vals : List Nat) (t : Thread) (h : r ∉ dests) :
    t.SameAt (t.applyWrites pos dests vals) r := by
  induction dests generalizing t vals with
  | nil => exact .rfl
  | cons d ds ih =>
    rw [List.mem_cons, not_or] at h
    obtain ⟨hne, hds⟩ := h
    cases vals with
    | nil => exact .rfl
    | cons v vs => exact (Thread.applyWrite_other (Ne.symm hne)).trans (ih vs _ hds)

/-- Each register of a result is judged alone (R129). -/
theorem Thread.applyWrites_each (pos : Nat) (dests vals : List Nat) (t : Thread) (hnd : dests.Nodup) (hall : ∀ r ∈ dests, t.Holds r)
    {k r v : Nat} (hr : dests[k]? = some r) (hv : vals[k]? = some v) : t.WrittenAt (t.applyWrites pos dests vals) pos r v := by
  induction dests generalizing t vals k with
  | nil => simp at hr
  | cons d ds ih =>
    obtain ⟨hd, hds⟩ := List.nodup_cons.1 hnd
    cases vals with
    | nil => simp at hv
    | cons w ws =>
      cases k with
      | zero =>
        obtain rfl : d = r := by simpa using hr
        obtain rfl : w = v := by simpa using hv
        exact (Thread.applyWrite_self (hall _ (.head _))).same (Thread.applyWrites_other _ _ _ _ hd)
      | succ k =>
        have hmem : r ∈ ds := List.mem_of_getElem? (by simpa using hr)
        refine (Thread.applyWrite_other ?_).written (ih ws _ hds (fun x hx => (hall x (.tail _ hx)).applyWrite) (by simpa using hr) (by simpa using hv))
        rintro rfl
        exact hd hmem

/-- Writes change registers, predicates and the positions of their last writes, and nothing else of a thread. -/
theorem Thread.applyWrites_frame (pos : Nat) (dests vals : List Nat) (t : Thread) : ∃ regs dead preds wpos,
    t.applyWrites pos dests vals = { t with regs := regs, dead := dead, preds := preds, wpos := wpos } := by
  induction dests generalizing t vals with
  | nil => exact ⟨_, _, _, _, rfl⟩
  | cons d ds ih =>
    cases vals with
    | nil => exact ⟨_, _, _, _, rfl⟩
    | cons v vs =>
      have hone : ∃ regs dead preds wpos, t.applyWrite pos d v = { t with regs := regs, dead := dead, preds := preds, wpos := wpos } := by
        unfold Thread.applyWrite
        split
        · exact ⟨_, _, _, _, rfl⟩
        · split <;> exact ⟨_, _, _, _, rfl⟩
      obtain ⟨_, _, _, _, hone⟩ := hone
      obtain ⟨_, _, _, _, hrest⟩ := ih vs (t.applyWrite pos d v)
      rw [Thread.applyWrites, hrest, hone]
      exact ⟨_, _, _, _, rfl⟩

/-- Retiring changes the outstanding operations of a thread only, and looks at nothing else. -/
theorem Thread.retire_frame (t : Thread) (op : Nat) : t.retire op = { t with outstanding := (t.retire op).outstanding } := by
  unfold Thread.retire
  split <;> rfl

theorem Thread.retire_outstanding {t u : Thread} (h : t.outstanding = u.outstanding) (op : Nat) :
    (t.retire op).outstanding = (u.retire op).outstanding := by
  unfold Thread.retire
  rw [h]
  split
  · exact h
  · rfl

/-- The thread of a result once it is written (R129). -/
def Thread.written (t : Thread) (o : Op) : Thread := ((t.orFps o.flags).applyWrites o.pos o.dests o.vals).retire o.id

theorem Thread.written_frame (t : Thread) (o : Op) : t.written o = { t with
    regs := (t.written o).regs, dead := (t.written o).dead, preds := (t.written o).preds, wpos := (t.written o).wpos,
    outstanding := (t.written o).outstanding, fps := (t.written o).fps } := by
  obtain ⟨_, _, _, _, hw⟩ := Thread.applyWrites_frame o.pos o.dests o.vals (t.orFps o.flags)
  unfold Thread.written
  rw [Thread.retire_frame, hw]
  rfl

/-- What a result leaves of its thread (R129). -/
theorem Thread.written_result (t : Thread) (o : Op) : (t.written o).outstanding = (t.retire o.id).outstanding ∧
    (t.written o).fps = t.fps ||| BitVec.ofNat 32 o.flags ∧ (t.written o).id = t.id := by
  obtain ⟨_, _, _, _, hw⟩ := Thread.applyWrites_frame o.pos o.dests o.vals (t.orFps o.flags)
  unfold Thread.written
  refine ⟨Thread.retire_outstanding (by rw [hw]; rfl) _, ?_, ?_⟩
  · rw [Thread.retire_frame, hw]
    rfl
  · rw [Thread.retire_frame, hw]
    rfl

theorem Thread.written_other (t : Thread) (o : Op) {r : Nat} (h : r ∉ o.dests) : t.SameAt (t.written o) r := by
  have hflags : t.SameAt (t.orFps o.flags) r := .of_lists rfl
  rw [Thread.written, Thread.retire_frame]
  exact (hflags.trans (Thread.applyWrites_other _ _ _ _ h)).trans (.of_lists rfl)

theorem Thread.written_each {t : Thread} {o : Op} (hnd : o.dests.Nodup) (hall : ∀ r ∈ o.dests, t.Holds r) {k r v : Nat}
    (hr : o.dests[k]? = some r) (hv : o.vals[k]? = some v) : t.WrittenAt (t.written o) o.pos r v := by
  have hflags : t.SameAt (t.orFps o.flags) r := .of_lists rfl
  have hheld : ∀ r ∈ o.dests, (t.orFps o.flags).Holds r := fun r hr => by
    obtain ⟨hregs, hpreds, hwpos, hdead, hhere⟩ := hall r hr
    exact ⟨hregs, hpreds, hwpos, hdead, hhere⟩
  rw [Thread.written, Thread.retire_frame]
  exact (hflags.written (Thread.applyWrites_each _ _ _ _ hnd hheld hr hv)).same (.of_lists rfl)

-- ---------------------------------------------------------------- the state

/-- A result that does not trap writes its registers, raises its flags and is over (R129, R163). -/
def State.withWritten (s : State) (o : Op) : State := (s.updThread o.thr fun t => t.written o).dropOp o.id

theorem Thread.orFps_zero (t : Thread) : t.orFps 0 = t := by
  simp [Thread.orFps]

theorem Thread.applyWrites_id (t : Thread) (pos : Nat) (dests vals : List Nat) : (t.applyWrites pos dests vals).id = t.id := by
  obtain ⟨_, _, _, _, hw⟩ := Thread.applyWrites_frame pos dests vals t
  rw [hw]

theorem State.writeBackResult_eq {s : State} {o : Op} (h : o.flags = 0) : s.writeBackResult o = s.withWritten o := by
  have hflags (x : Thread) : x.orFps o.flags = x := by rw [h, Thread.orFps_zero]
  unfold State.writeBackResult State.completeOp State.withWritten Thread.written
  rw [State.updThread_updThread _ _ _ _ fun x => x.applyWrites_id _ _ _]
  simp only [hflags]

theorem State.finishResult_eq {s : State} {o : Op} (h : traps o.flags o.en = false) : s.finishResult o = s.withWritten o := by
  unfold State.finishResult
  rw [if_neg (Bool.eq_false_iff.1 h)]
  split
  · next hflags => exact State.writeBackResult_eq hflags
  · unfold State.writeBackResult State.completeOp State.withWritten Thread.written
    rw [State.updThread_updThread _ _ _ _ fun x => x.applyWrites_id _ _ _, State.updThread_updThread _ _ (fun x => x.orFps o.flags) _ fun x => rfl]

/-- Settles O56: the state after the write is the thread with the result written, and the operation over. -/
theorem resultsAreWrittenInProgramOrder : Obligations.ResultsAreWrittenInProgramOrder := by
  intro s o t hop ht hdue hkind hnd hlen hregs hpreds hwpos hdests hdead
  have hexec : exec .resultWrite s = .next (s.withWritten o) := by
    change execResultWrite s = _
    unfold execResultWrite
    dsimp only
    rw [hop]
    rcases hkind with ⟨hbody | ⟨r, hbody⟩, hstage, htraps⟩ | ⟨⟨a, hbody⟩, hstage, hflags⟩
    · simp [hbody, hdue, hstage, State.finishResult_eq htraps]
    · simp [hbody, hdue, hstage, State.finishResult_eq htraps]
    · simp [hbody, hdue, hstage, State.writeBackResult_eq hflags]
  have hfound : (s.withWritten o).thread? o.thr = some (t.written o) :=
    State.thread_updThread_some ht fun x => (x.written_result o).2.2
  obtain ⟨hout, hfps, -⟩ := t.written_result o
  refine ⟨s.withWritten o, t.written o, hexec, hfound, fun k r v hr hv => ?_, fun r hr => ?_, hout, hfps, t.written_frame o, fun x hx => ?_, ?_, rfl⟩
  · obtain ⟨hw, hreg, hpred⟩ := Thread.written_each hnd (fun r hr => ⟨hregs, hpreds, hwpos, hdead, hdests r hr⟩) hr hv
    exact ⟨hw.1, hw.2, hreg, hpred⟩
  · obtain ⟨hw, hreg, hpred⟩ := t.written_other o hr
    exact ⟨hw, hreg, hpred⟩
  · exact State.thread_updThread_ne hx _ fun x => (x.written_result o).2.2
  · refine List.find?_eq_none.2 fun x hx => ?_
    simpa using (List.mem_filter.1 hx).2

end Machine
end Sys2Proof
end

section
/-! PROOFS. O58: taking a trap. The record is written to the ring, and what the writes wake stays where it is; the trapping thread waits for
nothing, so it keeps all but its state and its record. -/

namespace Sys2Proof
namespace Machine

-- ---------------------------------------------------------------- bytes

theorem Memory.wf_memBytes {m : List Host.Cell} (a : Nat) (bs : List Byte) (hm : Memory.wf m = true) :
    memBytes (memStore m a bs) a bs.length = bs := by
  induction bs generalizing m a with
  | nil => rfl
  | cons b bs ih =>
    rw [memStore, List.length_cons, memBytes, ih _ (wf_cellPut _ _ hm), cellGet_memStore_outside _ _ (by omega), cellGet_cellPut_self hm]

theorem memBytes_congr {m m' : List Host.Cell} (a n : Nat) (h : ∀ x, a ≤ x → x < a + n → cellGet m' x = cellGet m x) :
    memBytes m' a n = memBytes m a n := by
  induction n generalizing a with
  | zero => rfl
  | succ n ih => rw [memBytes, memBytes, h a (by omega) (by omega), ih _ fun x hx hx' => h x (by omega) (by omega)]

theorem memRead_congr {m m' : List Host.Cell} (a n : Nat) (h : ∀ x, a ≤ x → x < a + n → cellGet m' x = cellGet m x) :
    memRead m' a n = memRead m a n := by
  induction n generalizing a with
  | zero => rfl
  | succ n ih => rw [memRead, memRead, h a (by omega) (by omega), ih _ fun x hx hx' => h x (by omega) (by omega)]

/-- Bytes that hold a value's bytes read as the value. -/
theorem memRead_of_bytes {m : List Host.Cell} (a n v : Nat) (h : ∀ i, i < n → cellGet m (a + i) = BitVec.ofNat 8 (v / 256 ^ i)) :
    memRead m a n = v % 256 ^ n := by
  induction n generalizing a v with
  | zero => exact (Nat.mod_one v).symm
  | succ n ih =>
    have hrest : memRead m (a + 1) n = v / 256 % 256 ^ n := ih (a + 1) (v / 256) fun i hi => by
      rw [show a + 1 + i = a + (i + 1) by omega, h (i + 1) (by omega), Nat.div_div_eq_div_mul, Nat.pow_succ']
    have hfirst : cellGet m a = BitVec.ofNat 8 v := by simpa using h 0 (by omega)
    rw [memRead, hrest, hfirst, Nat.pow_succ', Nat.mod_mul]
    rfl

/-- A write of n bytes reads back as the value in n bytes. -/
theorem memRead_memWrite {m : List Host.Cell} (hm : Memory.wf m = true) (a n v : Nat) : memRead (memWrite m a n v) a n = v % 256 ^ n := by
  refine memRead_of_bytes a n v fun i hi => ?_
  have hbit : (2 ^ n - 1) / 2 ^ i % 2 = 1 := by
    have := Nat.testBit_two_pow_sub_one n i
    rw [Nat.testBit_eq_decide_div_mod_eq, decide_eq_true hi] at this
    exact of_decide_eq_true this
  rw [memWrite, cellGet_memWriteMask_inside n hm a v _ i hi, if_pos hbit]

theorem leBytes_length (n x : Nat) : (leBytes n x).length = n := by
  induction n generalizing x with
  | zero => rfl
  | succ n ih => rw [leBytes, List.length_cons, ih]

theorem FRec.bytes_length (r : FRec) : r.bytes.length = 128 := by
  simp [FRec.bytes, leBytes_length]

-- ---------------------------------------------------------------- waking

/-- A thread that at most became Ready. -/
structure Thread.Stays (y y2 : Thread) : Prop where
  regs : y.SameRegisters y2
  word : (y2.pc, y2.latch, y2.fps, y2.outstanding, y2.parks) = (y.pc, y.latch, y.fps, y.outstanding, y.parks)

theorem Thread.Stays.rfl {y : Thread} : y.Stays y := ⟨.rfl, by rfl⟩

theorem Thread.Stays.trans {x y z : Thread} (h : x.Stays y) (k : y.Stays z) : x.Stays z := ⟨h.regs.trans k.regs, k.word.trans h.word⟩

/-- A change of state that wakes threads that wait for values, and no other: a thread that does not wait is not touched. -/
structure State.OnlyWakes (s s' : State) (id : ThreadId) : Prop where
  waiters : (∀ w ∈ s.waiters, w.thr ≠ id) → ∀ w ∈ s'.waiters, w.thr ≠ id
  self : (∀ w ∈ s.waiters, w.thr ≠ id) → s'.thread? id = s.thread? id
  others : ∀ x y, s.thread? x = some y → ∃ y2, s'.thread? x = some y2 ∧ y.Stays y2

namespace State.OnlyWakes

variable {s s' s'' : State} {id : ThreadId}

theorem trans (h : s.OnlyWakes s' id) (k : s'.OnlyWakes s'' id) : s.OnlyWakes s'' id := by
  refine ⟨fun hw => k.waiters (h.waiters hw), fun hw => (k.self (h.waiters hw)).trans (h.self hw), fun x y hy => ?_⟩
  obtain ⟨y2, hy2, hs2⟩ := h.others x y hy
  obtain ⟨y3, hy3, hs3⟩ := k.others x y2 hy2
  exact ⟨y3, hy3, hs2.trans hs3⟩

/-- A change of neither threads nor waiters. -/
theorem inert (ht : (s'.threads, s'.waiters) = (s.threads, s.waiters)) : s.OnlyWakes s' id := by
  simp only [Prod.mk.injEq] at ht
  obtain ⟨hthreads, hwaiters⟩ := ht
  refine ⟨fun hw => by rwa [hwaiters], fun _ => by rw [State.thread?, hthreads]; rfl, fun x y hy => ⟨y, ?_, .rfl⟩⟩
  rwa [State.thread?, hthreads]

end State.OnlyWakes

/-- What a wake makes of a thread. -/
def Thread.woken (x : Thread) (n p : Nat) : Thread :=
  if x.st = .exited then x else if x.openParks.isEmpty then x.becomeReady n p else { x with st := .parked .fault }

theorem Thread.woken_stays (x : Thread) (n p : Nat) : x.Stays (x.woken n p) ∧ (x.woken n p).id = x.id := by
  unfold Thread.woken
  split
  · exact ⟨.rfl, rfl⟩
  · split <;> exact ⟨⟨.rfl, rfl⟩, rfl⟩

theorem State.wakeThread_def (s : State) (t : ThreadId) :
    s.wakeThread t = s.updThread t fun x => x.woken (s.now (s.coreOf t)) (s.pauseOf t.teamId) := rfl

theorem State.wakeThread_stays (s : State) (t x : ThreadId) (y : Thread) (hy : s.thread? x = some y) :
    ∃ y2, (s.wakeThread t).thread? x = some y2 ∧ y.Stays y2 := by
  by_cases hx : x = t
  · subst hx
    exact ⟨_, State.thread_updThread_some hy fun y => (y.woken_stays _ _).2, (y.woken_stays _ _).1⟩
  · exact ⟨y, (State.thread_updThread_ne hx _ fun x => (x.woken_stays _ _).2).trans hy, .rfl⟩

theorem State.wakeThreads_stays (ws : List Waiter) (s : State) (x : ThreadId) (y : Thread) (hy : s.thread? x = some y) :
    ∃ y2, (ws.foldl (fun s w => s.wakeThread w.thr) s).thread? x = some y2 ∧ y.Stays y2 := by
  induction ws generalizing s y with
  | nil => exact ⟨y, hy, .rfl⟩
  | cons w ws ih =>
    obtain ⟨y2, hy2, hs⟩ := s.wakeThread_stays w.thr x y hy
    obtain ⟨y3, hy3, hs'⟩ := ih (s.wakeThread w.thr) y2 hy2
    exact ⟨y3, hy3, hs.trans hs'⟩

theorem State.wakeThreads_other (ws : List Waiter) (s : State) {id : ThreadId} (h : ∀ w ∈ ws, w.thr ≠ id) :
    (ws.foldl (fun s w => s.wakeThread w.thr) s).thread? id = s.thread? id := by
  induction ws generalizing s with
  | nil => rfl
  | cons w ws ih =>
    refine (ih (s.wakeThread w.thr) fun v hv => h v (.tail _ hv)).trans ?_
    exact State.thread_updThread_ne (Ne.symm (h w (.head _))) _ fun x => (x.woken_stays _ _).2

theorem State.wakeThreads_waiters (ws : List Waiter) (s : State) : (ws.foldl (fun s w => s.wakeThread w.thr) s).waiters = s.waiters := by
  induction ws generalizing s with
  | nil => rfl
  | cons w ws ih => exact ih (s.wakeThread w.thr)

/-- A release of waiters wakes only threads that wait (R299). -/
theorem State.releaseWaiters_onlyWakes (s : State) (p : Waiter → Bool) (id : ThreadId) : s.OnlyWakes (s.releaseWaiters (s.waiters.filter p)) id := by
  refine ⟨fun hw w hmem => ?_, fun hw => ?_, fun x y hy => State.wakeThreads_stays _ _ x y hy⟩
  · rw [State.releaseWaiters, State.wakeThreads_waiters] at hmem
    exact hw w (List.mem_filter.1 hmem).1
  · exact State.wakeThreads_other _ _ fun w hmem => hw w (List.mem_filter.1 hmem).1

theorem State.touchSpan_onlyWakes (s : State) (pa n group : Nat) (id : ThreadId) : s.OnlyWakes (s.touchSpan pa n group) id := by
  obtain ⟨l, hl⟩ := s.touchSpan_eq pa n group
  rw [hl]
  exact .inert rfl

theorem State.homeStore_onlyWakes (s : State) (ctx pa : Nat) (bs : List Byte) (id : ThreadId) : s.OnlyWakes (s.homeStore ctx pa bs) id := by
  have hwrite : s.OnlyWakes { s with home := memStore s.home pa bs, homePoison := clearWhole s.homePoison pa bs.length 64 } id := .inert rfl
  exact (hwrite.trans (State.touchSpan_onlyWakes _ _ _ _ _)).trans (State.releaseWaiters_onlyWakes _ _ _)

theorem State.homeWrite_onlyWakes (s : State) (ctx pa n v : Nat) (id : ThreadId) : s.OnlyWakes (s.homeWrite ctx pa n v) id := by
  have hwrite : s.OnlyWakes { s with home := memWrite s.home pa n v, homePoison := clearWhole s.homePoison pa n 64 } id := .inert rfl
  exact (hwrite.trans (State.touchSpan_onlyWakes _ _ _ _ _)).trans (State.releaseWaiters_onlyWakes _ _ _)

theorem State.wakeGranule_onlyWakes (s : State) (pa : Nat) (id : ThreadId) : s.OnlyWakes (s.wakeGranule pa) id :=
  s.releaseWaiters_onlyWakes _ id

-- ---------------------------------------------------------------- the record

/-- Home memory after a record has been written to the ring of its context, and PW after it (R366). -/
def recordHome (m : List Host.Cell) (c : Ctx) (r : FRec) : List Host.Cell :=
  memWrite (memStore m (c.ringBase + 128 * (1 + memRead m c.ringBase 8 % 2 ^ c.ringSz)) r.bytes) c.ringBase 8 ((memRead m c.ringBase 8 + 1) % 2 ^ 64)

/-- The device's writes of a record to its ring, before the record stands among those in force (R366). -/
def State.ringWritten (s : State) (c : Ctx) (r : FRec) : State :=
  ((s.homeStore c.num (c.ringBase + 128 * (1 + memRead s.home c.ringBase 8 % 2 ^ c.ringSz)) r.bytes).homeWrite c.num c.ringBase 8
    ((memRead s.home c.ringBase 8 + 1) % 2 ^ 64)).wakeGranule c.ringBase

/-- Two writes of the device, and the waiters of a granule released. -/
theorem State.storeThenWrite_eq (s : State) (ctx slot base n v : Nat) (bs : List Byte) : ∃ marks l w t,
    ((s.homeStore ctx slot bs).homeWrite ctx base n v).wakeGranule base =
      { s with home := memWrite (memStore s.home slot bs) base n v, homePoison := marks, slices := l, waiters := w, threads := t } := by
  obtain ⟨l1, w1, t1, h1⟩ := s.homeStore_eq ctx slot bs
  obtain ⟨l2, w2, t2, h2⟩ := (s.homeStore ctx slot bs).homeWriteBy_eq ((s.homeStore ctx slot bs).wayGroup ctx) base n v
  obtain ⟨w3, t3, h3⟩ := State.releaseWaiters_eq ((s.homeStore ctx slot bs).homeWrite ctx base n v) _
  unfold State.wakeGranule
  rw [h3, State.homeWrite, h2, h1]
  exact ⟨_, _, _, _, rfl⟩

theorem State.ringWritten_eq (s : State) (c : Ctx) (r : FRec) : ∃ marks l w t, s.ringWritten c r =
    { s with home := recordHome s.home c r, homePoison := marks, slices := l, waiters := w, threads := t } :=
  s.storeThenWrite_eq _ _ _ _ _ _

/-- What the writes of a record leave beside the ring's bytes. -/
theorem State.ringWritten_rest (s : State) (c : Ctx) (r : FRec) : (s.ringWritten c r).home = recordHome s.home c r ∧
    (s.ringWritten c r).weights = s.weights ∧ (s.ringWritten c r).unposted = s.unposted ∧ (s.ringWritten c r).held = s.held ∧
    (s.ringWritten c r).ctxs = s.ctxs := by
  obtain ⟨_, _, _, _, h⟩ := s.ringWritten_eq c r
  simp only [h, and_self]

theorem State.ringWritten_onlyWakes (s : State) (c : Ctx) (r : FRec) (id : ThreadId) : s.OnlyWakes (s.ringWritten c r) id :=
  ((s.homeStore_onlyWakes _ _ _ _).trans (State.homeWrite_onlyWakes _ _ _ _ _ _)).trans (State.wakeGranule_onlyWakes _ _ _)

/-- What the ring holds once a record is written: the record in its slot, PW counted on, and every other byte as it was (R366). -/
theorem recordHome_bytes {m : List Host.Cell} (hm : Memory.wf m = true) (c : Ctx) (r : FRec) {pw slot : Nat} (hpw : pw = memRead m c.ringBase 8)
    (hslot : slot = c.ringBase + 128 * (1 + pw % 2 ^ c.ringSz)) :
    memBytes (recordHome m c r) slot 128 = r.bytes ∧ memRead (recordHome m c r) c.ringBase 8 = (pw + 1) % 2 ^ 64 ∧
    ∀ x, (x < slot ∨ slot + 128 ≤ x) → (x < c.ringBase ∨ c.ringBase + 8 ≤ x) → cellGet (recordHome m c r) x = cellGet m x := by
  have hbeyond : c.ringBase + 128 ≤ slot := by
    rw [hslot]
    omega
  have hlen := r.bytes_length
  have heq : recordHome m c r = memWrite (memStore m slot r.bytes) c.ringBase 8 ((pw + 1) % 2 ^ 64) := by rw [recordHome, hslot, hpw]
  rw [heq]
  refine ⟨?_, ?_, fun x hx hx' => ?_⟩
  · rw [memBytes_congr slot 128 fun x hx _ => cellGet_memWrite_outside _ _ _ (.inr (by omega)), ← hlen]
    exact Memory.wf_memBytes slot r.bytes hm
  · rw [memRead_memWrite (wf_memStore _ _ hm)]
    omega
  · rw [cellGet_memWrite_outside _ _ _ hx', cellGet_memStore_outside _ _ (by omega)]

/-- A record that is written to the ring while its thread stands under it (R366): it is in force, the team is counted, and nothing changes
beside the ring's bytes but what the writes wake. -/
theorem State.writeRecord_inForce {s : State} {c : Ctx} {r : FRec} {t : Thread} (hent : r.ent = false)
    (ht : s.thread? ⟨r.ctx, r.grid, r.team, r.rank⟩ = some t) (hpark : (⟨r.seq, none⟩ : ParkRec) ∈ t.parks)
    (hw : ∀ w ∈ s.waiters, w.thr ≠ ⟨r.ctx, r.grid, r.team, r.rank⟩) :
    s.writeRecord c r = State.updTeam { s.ringWritten c r with recs := s.recs ++ [r] } ⟨r.ctx, r.grid, r.team⟩ fun t => { t with posted := t.posted + 1 } := by
  have hfound : (s.ringWritten c r).thread? ⟨r.ctx, r.grid, r.team, r.rank⟩ = some t := ((s.ringWritten_onlyWakes c r _).self hw).trans ht
  have hopen : (t.parks.any fun p => decide (p.seq = r.seq) && p.answer.isNone) = true := List.any_eq_true.2 ⟨_, hpark, by simp⟩
  have hrecs : (s.ringWritten c r).recs = s.recs := by
    obtain ⟨_, _, _, _, h⟩ := s.ringWritten_eq c r
    rw [h]
  change State.updTeam (if r.ent || ! (r.np || (match (s.ringWritten c r).thread? ⟨r.ctx, r.grid, r.team, r.rank⟩ with
    | some t => t.parks.any fun p => decide (p.seq = r.seq) && p.answer.isNone
    | none => false)) then s.ringWritten c r else { s.ringWritten c r with recs := (s.ringWritten c r).recs ++ [r] }) _ _ = _
  rw [hfound, hent, hrecs]
  simp only [hopen, Bool.or_true, Bool.not_true, Bool.or_self, Bool.false_eq_true, if_false]

-- ---------------------------------------------------------------- the trap

/-- A thread parked under a record, at the word where it trapped (R364, R510). -/
def Thread.trapped (x : Thread) (seq : Nat) : Thread :=
  { x with st := if x.st.isParked then x.st else .parked .fault, parks := x.parks ++ [⟨seq, none⟩], bundle := none, promoted := false }

/-- A context's next record has its number, and is raised (R365). -/
def State.recordNumbered (s : State) (r : FRec) : State :=
  { s.updCtx r.ctx fun c => { c with fseq := nextSeq c.fseq } with raised := s.raised ++ [⟨r.ctx, r.seq, r.grid, r.team % 2 ^ 32⟩] }

section
variable {s : State} {t : Thread} {c : Ctx} {cls detail addr die : Nat} {word : Word} {opnd : Option Nat}

/-- A trap parks its thread and posts its record. -/
theorem State.raiseTrap_eq (hcls : cls ≠ clsYield) (hc : s.ctx? t.id.ctx = some c) (hdie : die = dieOf (s.coreOf t.id)) {seq : Nat}
    (hseq : seq = if s.storeFull die c then 2 ^ 32 + s.nextId else c.fseq.toNat) :
    s.raiseTrap t cls word detail addr opnd = (s.updThread t.id fun x => x.trapped seq).postRecord die
      (s.threadRecord t cls t.pc word t.latch detail addr opnd) := by
  have hnext : s.nextSeqOf die t.id.ctx = seq := by rw [State.nextSeqOf, hc, hseq]
  rw [State.raiseTrap, if_neg hcls, State.parkOn, ← hdie]
  rw [hnext]
  rfl

theorem State.threadRecord_withSeq : (s.threadRecord t cls t.pc word t.latch detail addr opnd).withSeq c.fseq.toNat =
    trapRecord s t c cls word detail addr opnd := by
  simp [State.threadRecord, FRec.withSeq, trapRecord]

/-- Where the die already holds 256 records, the new one waits unmade (R366). -/
theorem State.raiseTrap_full (hcls : cls ≠ clsYield) (hc : s.ctx? t.id.ctx = some c) (hdie : die = dieOf (s.coreOf t.id))
    (hfull : s.storeFull die c = true) : s.raiseTrap t cls word detail addr opnd =
      { s.updThread t.id fun x => x.trapped (2 ^ 32 + s.nextId) with
        unposted := s.unposted ++ [⟨die, (trapRecord s t c cls word detail addr opnd).withSeq (2 ^ 32 + s.nextId)⟩], nextId := s.nextId + 1 } := by
  rw [State.raiseTrap_eq hcls hc hdie (if_pos hfull).symm, ← State.threadRecord_withSeq, State.postRecord]
  have hfound : (s.updThread t.id fun x => x.trapped (2 ^ 32 + s.nextId)).ctx? (s.threadRecord t cls t.pc word t.latch detail addr opnd).ctx = some c := hc
  have hfull' : (s.updThread t.id fun x => x.trapped (2 ^ 32 + s.nextId)).storeFull die c = true := hfull
  rw [hfound]
  dsimp only
  rw [if_pos hfull']
  rfl

/-- Where there is room in the store, the record is made (R365, R366). -/
theorem State.raiseTrap_made (hcls : cls ≠ clsYield) (hc : s.ctx? t.id.ctx = some c) (hdie : die = dieOf (s.coreOf t.id))
    (hroom : s.storeFull die c = false) : s.raiseTrap t cls word detail addr opnd =
      if s.ringOpen c then (State.recordNumbered (s.updThread t.id fun x => x.trapped c.fseq.toNat) (trapRecord s t c cls word detail addr opnd)).writeRecord c
        (trapRecord s t c cls word detail addr opnd)
      else { State.recordNumbered (s.updThread t.id fun x => x.trapped c.fseq.toNat) (trapRecord s t c cls word detail addr opnd) with
        held := s.held ++ [⟨die, trapRecord s t c cls word detail addr opnd⟩] } := by
  rw [State.raiseTrap_eq hcls hc hdie (if_neg (Bool.eq_false_iff.1 hroom)).symm, ← State.threadRecord_withSeq, State.postRecord]
  have hfound : (s.updThread t.id fun x => x.trapped c.fseq.toNat).ctx? (s.threadRecord t cls t.pc word t.latch detail addr opnd).ctx = some c := hc
  have hroom' : (s.updThread t.id fun x => x.trapped c.fseq.toNat).storeFull die c = false := hroom
  rw [hfound]
  dsimp only
  rw [if_neg (Bool.eq_false_iff.1 hroom')]
  rfl

end

/-- A context is found with its next number (R365). -/
theorem State.ctx_recordNumbered {s : State} {c : Ctx} {r : FRec} (hc : s.ctx? r.ctx = some c) :
    (s.recordNumbered r).ctx? r.ctx = some { c with fseq := nextSeq c.fseq } := by
  refine (find_map_self Ctx.num r.ctx (fun c => { c with fseq := nextSeq c.fseq }) (fun _ => rfl) s.ctxs).trans ?_
  rw [show s.ctxs.find? (fun x => decide (x.num = r.ctx)) = some c from hc]
  rfl

/-- A record among those in force, and a team's count of them, wake nothing. -/
theorem State.inForce_onlyWakes (s : State) (recs : List FRec) (team : TeamId) (f : Team → Team) (id : ThreadId) :
    s.OnlyWakes (State.updTeam { s with recs := recs } team f) id := .inert rfl

theorem nextSeq_eq (x : Word) : nextSeq x = if x = 0xFFFFFFFF then 1 else x + 1 := by
  unfold nextSeq
  have h : x + 1 = 0 ↔ x = 0xFFFFFFFF := by constructor <;> intro h <;> bv_omega
  simp only [h]

/-- What a trap does to the threads, where the parking is followed only by wakes (R364). -/
theorem State.threads_of_trap {s s2 : State} {t : Thread} {seq : Nat} (ht : s.thread? t.id = some t) (hw : ∀ w ∈ s.waiters, w.thr ≠ t.id)
    (hwakes : (s.updThread t.id fun x => x.trapped seq).OnlyWakes s2 t.id) :
    s2.thread? t.id = some (t.trapped seq) ∧ ∀ x y, x ≠ t.id → s.thread? x = some y → ∃ y2, s2.thread? x = some y2 ∧ y.Stays y2 :=
  ⟨(hwakes.self hw).trans (State.thread_updThread_some ht fun _ => rfl),
    fun x y hx hy => hwakes.others x y ((State.thread_updThread_ne hx (fun x => x.trapped seq) fun _ => rfl).trans hy)⟩

/-- Settles O58: the record waits unmade, is held, or is written; each leaves the threads to the parking and the wakes of the ring's bytes. -/
theorem takingATrap : Obligations.TakingATrap := by
  intro s s2 t c cls word detail addr die opnd hcls ht hc hwait hdie hs2
  have hnum : c.num = t.id.ctx := by simpa using List.find?_some hc
  have hopen : s.ringOpen c = (s.ringRoom c && ! s.held.any fun h => decide (h.record.ctx = t.id.ctx)) := by rw [State.ringOpen, hnum]
  subst hs2
  have hthreads : ∀ {q : State} {seq : Nat}, seq = (if s.storeFull die c then 2 ^ 32 + s.nextId else c.fseq.toNat) →
      (s.updThread t.id fun x => x.trapped seq).OnlyWakes q t.id →
      (∃ t2, q.thread? t.id = some t2 ∧ t2.st = (if t.st.isParked then t.st else .parked .fault) ∧
        t2.parks = t.parks ++ [⟨if s.storeFull die c then 2 ^ 32 + s.nextId else c.fseq.toNat, none⟩] ∧
        t2 = { t with st := t2.st, parks := t2.parks, bundle := none, promoted := false }) ∧
      (∀ x y, x ≠ t.id → s.thread? x = some y → ∃ y2, q.thread? x = some y2 ∧ y.SameRegisters y2 ∧ y2.pc = y.pc ∧ y2.latch = y.latch ∧
        y2.fps = y.fps ∧ y2.outstanding = y.outstanding ∧ y2.parks = y.parks) := by
    intro q seq hseq hwakes
    obtain ⟨hself, hothers⟩ := State.threads_of_trap ht hwait hwakes
    refine ⟨⟨_, hself, rfl, by rw [← hseq]; rfl, rfl⟩, fun x y hx hy => ?_⟩
    obtain ⟨y2, hy2, hregs, hword⟩ := hothers x y hx hy
    simp only [Prod.mk.injEq] at hword
    exact ⟨y2, hy2, hregs, hword⟩
  cases hfull : s.storeFull die c with
  | true =>
    rw [State.raiseTrap_full hcls hc hdie hfull]
    obtain ⟨hself, hothers⟩ := hthreads (if_pos hfull).symm (.inert (s' := { s.updThread t.id fun x => x.trapped (2 ^ 32 + s.nextId) with
      unposted := s.unposted ++ [⟨die, (trapRecord s t c cls word detail addr opnd).withSeq (2 ^ 32 + s.nextId)⟩], nextId := s.nextId + 1 }) rfl)
    rw [hfull] at hself
    exact ⟨hself, hothers, rfl, fun _ => ⟨rfl, rfl, rfl, rfl, rfl, rfl⟩, fun h => by cases h⟩
  | false =>
    have hseq : c.fseq.toNat = if s.storeFull die c then 2 ^ 32 + s.nextId else c.fseq.toNat := (if_neg (Bool.eq_false_iff.1 hfull)).symm
    rw [State.raiseTrap_made hcls hc hdie hfull]
    generalize hr : trapRecord s t c cls word detail addr opnd = r
    have hctx : r.ctx = t.id.ctx := by rw [← hr]; rfl
    have hnumbered : (State.recordNumbered (s.updThread t.id fun x => x.trapped c.fseq.toNat) r).ctx? t.id.ctx =
        some { c with fseq := if c.fseq = 0xFFFFFFFF then 1 else c.fseq + 1 } := by
      rw [← nextSeq_eq, ← hctx]
      exact State.ctx_recordNumbered (s := s.updThread t.id _) (hctx ▸ hc)
    cases ho : s.ringOpen c with
    | false =>
      rw [if_neg Bool.false_ne_true]
      obtain ⟨hself, hothers⟩ := hthreads hseq (.inert (s' := { State.recordNumbered (s.updThread t.id fun x => x.trapped c.fseq.toNat) r with
        held := s.held ++ [⟨die, r⟩] }) rfl)
      rw [hfull] at hself
      refine ⟨hself, hothers, rfl, (fun h => by cases h), fun _ => ⟨rfl, ⟨_, hnumbered, rfl⟩, fun room hroom => ⟨fun _ => ⟨rfl, rfl, rfl, rfl⟩, fun h => ?_⟩⟩⟩
      rw [hroom, ← hopen, ho] at h
      cases h
    | true =>
      rw [if_pos rfl]
      have hid : (⟨r.ctx, r.grid, r.team, r.rank⟩ : ThreadId) = t.id := by rw [← hr]; rfl
      have hown : (State.recordNumbered (s.updThread t.id fun x => x.trapped c.fseq.toNat) r).thread? ⟨r.ctx, r.grid, r.team, r.rank⟩ =
          some (t.trapped c.fseq.toNat) := by
        rw [hid]
        exact State.thread_updThread_some ht fun _ => rfl
      have hpark : (⟨r.seq, none⟩ : ParkRec) ∈ (t.trapped c.fseq.toNat).parks := by
        rw [← hr]
        exact List.mem_append_right _ (.head _)
      rw [State.writeRecord_inForce (by rw [← hr]; rfl) hown hpark (by rw [hid]; exact hwait)]
      have hwakes := State.ringWritten_onlyWakes (State.recordNumbered (s.updThread t.id fun x => x.trapped c.fseq.toNat) r) c r t.id
      obtain ⟨hhome, hweights, hunposted, hheld, hctxs⟩ :=
        State.ringWritten_rest (State.recordNumbered (s.updThread t.id fun x => x.trapped c.fseq.toNat) r) c r
      replace hhome : _ = recordHome s.home c r := hhome
      generalize State.ringWritten (State.recordNumbered (s.updThread t.id fun x => x.trapped c.fseq.toNat) r) c r = q at *
      have hnumber : (s.updThread t.id fun x => x.trapped c.fseq.toNat).OnlyWakes
        (State.recordNumbered (s.updThread t.id fun x => x.trapped c.fseq.toNat) r) t.id := .inert rfl
      obtain ⟨hself, hothers⟩ := hthreads hseq ((hnumber.trans hwakes).trans (State.inForce_onlyWakes q _ _ _ t.id))
      rw [hfull] at hself
      have hfound : q.ctx? t.id.ctx = _ := (congrArg (List.find? fun x : Ctx => decide (x.num = t.id.ctx)) hctxs).trans hnumbered
      refine ⟨hself, hothers, hweights, (fun h => by cases h), fun _ => ⟨hunposted, ⟨_, hfound, rfl⟩,
        fun room hroom => ⟨fun h => ?_, fun _ hm pw slot hpw hslot => ?_⟩⟩⟩
      · rw [hroom, ← hopen, ho] at h
        cases h
      · obtain ⟨hbytes, hcount, helse⟩ := recordHome_bytes hm c r hpw hslot
        simp only [State.updTeam_home, State.updTeam_recs, State.updTeam_held, hhome]
        exact ⟨hbytes, hcount, List.mem_append_right _ (.head _), hheld, helse⟩

end Machine
end Sys2Proof
end

section
/-! PROOFS. O54: the frame of the words that write registers. Each issues by `issue` with a body that adds one operation; what `issue` itself
changes is the thread's place and the time of its team's last issue. -/

namespace Sys2Proof
namespace Machine

-- ---------------------------------------------------------------- what a word can do

/-- What the outcome of a word's body makes of the state (R112, R460). -/
def issueOutcome (s : State) (t : Thread) (i : Issue) : Res → State
  | .ok s2 => if s2.overCount t.id then s.setWaiting t.id .blocked else s2
  | .trap cls detail addr => s.raiseTrap t cls s.ir detail addr (some (opndOf (s.argsOf t i).opnd 0))
  | .hold st => s.setWaiting t.id st
  | .holdWith st s2 => if s2.overCount t.id then s.setWaiting t.id .blocked else s2.setWaiting t.id st

/-- The checks before the word's own effect, in their order (R112, R113). -/
theorem issueThread_eq (s : State) (t : Thread) (i : Issue) (body : Args → State → Res) : issueThread s t i body =
    if i.flaw || ! hintsOk i.hints t.latch then s.raiseTrap t clsIllegal s.ir 0 0 none
    else if i.outside || i.regs.any (fun r => decide (t.budget ≤ r)) then s.raiseTrap t clsBudget s.ir 0 0 none
    else if i.absent then s.raiseTrap t clsAbsent s.ir 0 0 none
    else if i.cross && s.detMode t.id.gridId then s.raiseTrap t clsCrossTeam s.ir 0 0 none
    else if i.wait || s.heldBack t.id || i.reads.any (s.pendingWrite t) then s.setWaiting t.id .dependent
    else issueOutcome s t i (body (s.argsOf t i) (s.committed t i)) := rfl

/-- What a word of a thread can come to: a trap, a wait at the word, or the outcome of its body on the committed state (R112). -/
theorem issueThread_cases (s : State) (t : Thread) (i : Issue) (body : Args → State → Res) :
    (∃ cls detail addr opnd, issueThread s t i body = s.raiseTrap t cls s.ir detail addr opnd ∧
      (cls ≠ clsYield ∨ body (s.argsOf t i) (s.committed t i) = .trap cls detail addr)) ∨
    (∃ st, issueThread s t i body = s.setWaiting t.id st) ∨
    (∃ s2, body (s.argsOf t i) (s.committed t i) = .ok s2 ∧ issueThread s t i body = s2) ∨
    (∃ st s2, body (s.argsOf t i) (s.committed t i) = .holdWith st s2 ∧ issueThread s t i body = s2.setWaiting t.id st) := by
  rw [issueThread_eq]
  split
  · exact .inl ⟨_, _, _, _, rfl, .inl (by decide)⟩
  split
  · exact .inl ⟨_, _, _, _, rfl, .inl (by decide)⟩
  split
  · exact .inl ⟨_, _, _, _, rfl, .inl (by decide)⟩
  split
  · exact .inl ⟨_, _, _, _, rfl, .inl (by decide)⟩
  split
  · exact .inr (.inl ⟨_, rfl⟩)
  cases body (s.argsOf t i) (s.committed t i) with
  | ok s2 =>
    rw [issueOutcome]
    split
    · exact .inr (.inl ⟨_, rfl⟩)
    · exact .inr (.inr (.inl ⟨s2, rfl, rfl⟩))
  | trap cls detail addr => exact .inl ⟨_, _, _, _, rfl, .inr rfl⟩
  | hold st => exact .inr (.inl ⟨_, rfl⟩)
  | holdWith st s2 =>
    rw [issueOutcome]
    split
    · exact .inr (.inl ⟨_, rfl⟩)
    · exact .inr (.inr (.inr ⟨st, s2, rfl, rfl⟩))

theorem State.ringWritten_raised (s : State) (c : Ctx) (r : FRec) : (s.ringWritten c r).raised = s.raised := by
  obtain ⟨_, _, _, _, h⟩ := s.ringWritten_eq c r
  rw [h]

theorem State.writeRecord_raised (s : State) (c : Ctx) (r : FRec) : (s.writeRecord c r).raised = s.raised := by
  refine Eq.trans ?_ (s.ringWritten_raised c r)
  unfold State.writeRecord
  dsimp only
  rw [State.updTeam_raised]
  split <;> split <;> rfl

/-- A record that is made is raised (R365). -/
theorem State.makeRecord_raised (s : State) (die : Nat) (c : Ctx) (r : FRec) : ∃ x, (s.makeRecord die c r).raised = s.raised ++ [x] := by
  unfold State.makeRecord
  dsimp only
  split
  · exact ⟨_, State.writeRecord_raised _ _ _⟩
  · exact ⟨_, rfl⟩

/-- What posting a record can come to: nothing without its context, an unmade record, or a raised one (R366). -/
theorem State.postRecord_cases (s : State) (die : Nat) (r : FRec) :
    s.postRecord die r = s ∨ (∃ u, s.postRecord die r = { s with unposted := s.unposted ++ [u], nextId := s.nextId + 1 }) ∨
    ∃ x, (s.postRecord die r).raised = s.raised ++ [x] := by
  unfold State.postRecord
  split
  · exact .inl rfl
  · next c _ =>
    split
    · exact .inr (.inl ⟨_, rfl⟩)
    · exact .inr (.inr (s.makeRecord_raised die c r))

-- ---------------------------------------------------------------- the frame

/-- A word whose body, where it does not trap, adds one operation in flight. -/
def AddsOperation (i : Instr) : Prop := ∀ s : State, ∃ (f : Thread → Issue) (body : Args → State → Res), exec i s = issue s f body ∧
  ∀ x s1, ∃ op, body x s1 = .ok (s1.addOp op)

/-- The words of R145 to R147 and their kin add their result. -/
theorem arithmetic_add (d a : Nat) (l : Bool) (b : Nat) (m : Bool) :
    ∀ r ∈ addSubRows 32 narrow d a l b m ++ addSubRows 64 wide d a l b m ++ divisionRows 32 narrow 36 d a l b m ++
      divisionRows 64 wide 68 d a l b m ++ arithmeticRows 32 narrow 6 d a l b m ++ arithmeticRows 64 wide 10 d a l b m, AddsOperation r.instr := by
  simp only [addSubRows, divisionRows, arithmeticRows, List.forall_mem_append, List.forall_mem_cons, List.not_mem_nil, false_imp_iff,
    implies_true, and_true]
  repeat' refine And.intro ?_ ?_
  all_goals exact fun _ => ⟨_, _, rfl, fun _ _ => ⟨_, rfl⟩⟩

/-- The words of R148 and R151 to R153 add their result. -/
theorem logic_add (d a : Nat) (l : Bool) (b : Nat) (m x : Bool) (n : Nat) :
    ∀ r ∈ logicRows 32 narrow d a l b m ++ logicRows 64 wide d a l b m ++ shiftRows 32 narrow d a l b m ++ shiftRows 64 wide d a l b m ++
      shiftImmRows d a l x n, AddsOperation r.instr := by
  simp only [logicRows, shiftRows, shiftImmRows, List.forall_mem_append, List.forall_mem_cons, List.not_mem_nil, false_imp_iff,
    implies_true, and_true]
  repeat' refine And.intro ?_ ?_
  all_goals exact fun _ => ⟨_, _, rfl, fun _ _ => ⟨_, rfl⟩⟩

/-- The mixed words, the words with an immediate and the predicate words add their result. -/
theorem mixed_add (d a : Nat) (l : Bool) (b : Nat) (m : Bool) (c p : Nat) (x : Bool) (n o : Nat) :
    ∀ r ∈ mixedRows d a l b m c p x o ++ immediateRows d a l n ++ predicateRows p c a b, AddsOperation r.instr := by
  simp only [mixedRows, immediateRows, predicateRows, List.forall_mem_append, List.forall_mem_cons, List.not_mem_nil, false_imp_iff,
    implies_true, and_true]
  repeat' refine And.intro ?_ ?_
  all_goals exact fun _ => ⟨_, _, rfl, fun _ _ => ⟨_, rfl⟩⟩

/-- The floating-point words of R163 to R176 add their result. -/
theorem float_add (d a : Nat) (l : Bool) (b : Nat) (m : Bool) (c : Nat) :
    ∀ r ∈ floatArithmeticRows d a l b m c ++ elementaryRows d a l ++
      floatOtherRows .f32 6 d a l b m (.fminF32 d a l b m) (.fmaxF32 d a l b m) (.fabsF32 d a l) (.fnegF32 d a l) (.fclassF32 d a l)
        (.fscaleF32 d a l b m) (.frintF32 d a l) ++
      floatOtherRows .f64 10 d a l b m (.fminF64 d a l b m) (.fmaxF64 d a l b m) (.fabsF64 d a l) (.fnegF64 d a l) (.fclassF64 d a l)
        (.fscaleF64 d a l b m) (.frintF64 d a l) ++
      floatOtherRows .f16 6 d a l b m (.fminF16 d a l b m) (.fmaxF16 d a l b m) (.fabsF16 d a l) (.fnegF16 d a l) (.fclassF16 d a l)
        (.fscaleF16 d a l b m) (.frintF16 d a l) ++
      floatOtherRows .bf16 6 d a l b m (.fminBf16 d a l b m) (.fmaxBf16 d a l b m) (.fabsBf16 d a l) (.fnegBf16 d a l)
        (.fclassBf16 d a l) (.fscaleBf16 d a l b m) (.frintBf16 d a l), AddsOperation r.instr := by
  simp only [floatArithmeticRows, elementaryRows, floatOtherRows, List.forall_mem_append, List.forall_mem_cons, List.not_mem_nil, false_imp_iff,
    implies_true, and_true]
  repeat' refine And.intro ?_ ?_
  all_goals exact fun _ => ⟨_, _, rfl, fun _ _ => ⟨_, rfl⟩⟩

/-- The words outside the rows add their result. -/
theorem others_add (d a : Nat) (l : Bool) (b : Nat) (m : Bool) (c p : Nat) (x : Bool) (n o : Nat) :
    ∀ i ∈ [Instr.cvt d a l b m n, .cmp p c a l b m o n, .rdcyc d, .rngx d a l b m, .rngadd d a l b m x, .movsr d n], AddsOperation i := by
  simp only [List.forall_mem_cons, List.not_mem_nil, false_imp_iff, implies_true, and_true]
  refine ⟨?cvt, ?cmp, ?rdcyc, ?rngx, ?rngadd, ?movsr⟩
  case cmp =>
    refine fun s => ⟨_, _, rfl, fun _ _ => ?_⟩
    dsimp only
    split <;> exact ⟨_, rfl⟩
  all_goals exact fun _ => ⟨_, _, rfl, fun _ _ => ⟨_, rfl⟩⟩

/-- Every word that writes registers adds an operation in flight, where it does not trap. -/
theorem registerWords_add (d a : Nat) (l : Bool) (b : Nat) (m : Bool) (c p : Nat) (x : Bool) (n o : Nat) :
    ∀ i ∈ registerWords d a l b m c p x n o, AddsOperation i := by
  intro i hi
  rcases List.mem_append.1 hi with hrow | hother
  · rcases List.mem_append.1 hrow with hint | hfloat
    · obtain ⟨r, hr, rfl⟩ := List.mem_map.1 hint
      clear hi hrow hint
      have harith := arithmetic_add d a l b m
      have hlogic := logic_add d a l b m x n
      have hmixed := mixed_add d a l b m c p x n o
      revert r
      simp only [List.forall_mem_append] at harith hlogic hmixed ⊢
      obtain ⟨⟨⟨⟨⟨hadd32, hadd64⟩, hdiv32⟩, hdiv64⟩, har32⟩, har64⟩ := harith
      obtain ⟨⟨⟨⟨hlog32, hlog64⟩, hsh32⟩, hsh64⟩, hshImm⟩ := hlogic
      obtain ⟨⟨hmix, himm⟩, hpred⟩ := hmixed
      exact ⟨⟨⟨⟨⟨⟨⟨⟨⟨⟨⟨⟨⟨hadd32, hadd64⟩, hdiv32⟩, hdiv64⟩, har32⟩, har64⟩, hlog32⟩, hlog64⟩, hsh32⟩, hsh64⟩, hshImm⟩, hmix⟩, himm⟩, hpred⟩
    · obtain ⟨r, hr, rfl⟩ := List.mem_map.1 hfloat
      exact float_add d a l b m c r hr
  · exact others_add d a l b m c p x n o i hother

-- ---------------------------------------------------------------- the frame

/-- What a register word may change of its own thread. -/
def Thread.FrameKept (t t2 : Thread) : Prop :=
  t.SameRegisters t2 ∧ (t2.fps = t.fps ∨ t2.fps = t.fps ||| BitVec.ofNat 32 fDEAD) ∧
    t2.csd = t.csd ∧ t2.ls = t.ls ∧ t2.ssp = t.ssp ∧ t2.signed = t.signed ∧ t2.outstanding = t.outstanding ∧ t2.tdep = t.tdep ∧
    t2.fbase = t.fbase ∧ t2.fsize = t.fsize ∧ t2.lastPage = t.lastPage ∧ t2.cairn = t.cairn

theorem Thread.commit_frameKept (t : Thread) (i : Issue) (now : Nat) : t.FrameKept (t.commit i now) := by
  unfold Thread.commit
  generalize (if t.resume.isNone then i.srcs else i.srcs.drop i.recs).any _ = dead
  cases dead
  case true => exact ⟨⟨rfl, rfl, rfl, rfl, rfl, rfl⟩, .inr rfl, rfl, rfl, rfl, rfl, rfl, rfl, rfl, rfl, rfl, rfl⟩
  case false => exact ⟨⟨rfl, rfl, rfl, rfl, rfl, rfl⟩, .inl rfl, rfl, rfl, rfl, rfl, rfl, rfl, rfl, rfl, rfl, rfl⟩

/-- A change of one thread that keeps its frame is a change a register word may make. -/
theorem State.registerWordFrame_updThread (s : State) (id : ThreadId) {f : Thread → Thread} (hid : ∀ x, (f x).id = x.id)
    (hf : ∀ x : Thread, x.FrameKept (f x)) : s.RegisterWordFrame (s.updThread id f) id :=
  ⟨rfl, fun _ tm h => ⟨tm.lastIssue, h⟩, fun _ hx => State.thread_updThread_ne hx f hid,
    fun t ht => ⟨f t, State.thread_updThread_some ht hid, hf t⟩⟩

/-- A word that commits and adds an operation. -/
theorem State.registerWordFrame_committed (s : State) (t : Thread) (i : Issue) (op : Op) :
    s.RegisterWordFrame ((s.committed t i).addOp op) t.id := by
  obtain ⟨-, -, hothers, hown⟩ := s.registerWordFrame_updThread t.id (f := fun x => x.commit i (s.now (s.coreOf t.id)))
    (fun _ => Thread.commit_id _ i _) fun _ => Thread.commit_frameKept _ i _
  refine ⟨rfl, fun x tm hx => ?_, hothers, hown⟩
  by_cases h : x = t.id.teamId
  · subst h
    exact ⟨_, State.team_committed hx i⟩
  · exact ⟨tm.lastIssue, (State.team_updTeam_ne (s := s.updThread t.id _) h (fun tm => tm.issuedAt (s.now (s.coreOf t.id))) fun _ => rfl).trans hx⟩

/-- A trap that leaves no record, made or unmade, only parks its thread. -/
theorem State.registerWordFrame_raiseTrap {s : State} {t : Thread} {cls detail addr : Nat} {word : Word} {opnd : Option Nat} (hcls : cls ≠ clsYield)
    (hr : (s.raiseTrap t cls word detail addr opnd).raised = s.raised) (hu : (s.raiseTrap t cls word detail addr opnd).unposted = s.unposted) :
    s.RegisterWordFrame (s.raiseTrap t cls word detail addr opnd) t.id := by
  rw [State.raiseTrap, if_neg hcls] at hr hu ⊢
  rw [State.parkOn] at hr hu ⊢
  rcases State.postRecord_cases (s.updThread t.id _) (dieOf (s.coreOf t.id)) (s.threadRecord t cls t.pc word t.latch detail addr opnd) with
    hnone | ⟨u, hunmade⟩ | ⟨x, hmade⟩
  · rw [hnone]
    exact s.registerWordFrame_updThread t.id (fun _ => rfl)
      fun _ => ⟨⟨rfl, rfl, rfl, rfl, rfl, rfl⟩, .inl rfl, rfl, rfl, rfl, rfl, rfl, rfl, rfl, rfl, rfl, rfl⟩
  · rw [hunmade] at hu
    simp at hu
  · rw [hmade] at hr
    simp at hr

theorem State.registerWordFrame_setWaiting (s : State) (id : ThreadId) (st : TState) : s.RegisterWordFrame (s.setWaiting id st) id :=
  s.registerWordFrame_updThread id (fun _ => rfl)
    fun _ => ⟨⟨rfl, rfl, rfl, rfl, rfl, rfl⟩, .inl rfl, rfl, rfl, rfl, rfl, rfl, rfl, rfl, rfl, rfl, rfl⟩

/-- Settles O54: a register word traps, waits, or adds its operation to the committed state. -/
theorem registerWordsFrame : Obligations.RegisterWordsFrame := by
  intro d a l b m c p x n o i hi s s2 t hcur ht hexec hraised hunposted
  obtain ⟨f, body, heq, hadds⟩ := registerWords_add d a l b m c p x n o i hi s
  rw [heq, issue_next hcur ht] at hexec
  obtain ⟨rfl⟩ := hexec
  rcases issueThread_cases s t (f t) body with ⟨cls, detail, addr, opnd, htrap, hcls⟩ | ⟨st, hwait⟩ | ⟨s2, hbody, hok⟩ | ⟨st, s2, hbody, -⟩
  · rw [htrap] at hraised hunposted ⊢
    refine State.registerWordFrame_raiseTrap (hcls.elim id fun hbody => ?_) hraised hunposted
    obtain ⟨op, hop⟩ := hadds (s.argsOf t (f t)) (s.committed t (f t))
    rw [hop] at hbody
    cases hbody
  · rw [hwait]
    exact s.registerWordFrame_setWaiting t.id st
  · obtain ⟨op, hop⟩ := hadds (s.argsOf t (f t)) (s.committed t (f t))
    rw [hop] at hbody
    rw [hok, ← Res.ok.inj hbody]
    exact s.registerWordFrame_committed t (f t) op
  · obtain ⟨op, hop⟩ := hadds (s.argsOf t (f t)) (s.committed t (f t))
    rw [hop] at hbody
    cases hbody

end Machine
end Sys2Proof
end

-- ==== proofs: the turns of an agenda ====
section
/-! PROOFS. What a step does with the turn at the head of its agenda: how a thread and an access slice get from the pick of their cycle to
the word they execute (R93, R112, R113, R328), and how an event is reached (R487). -/

namespace Sys2Proof
namespace Machine

/-- The step that takes the turn at the head of the agenda. -/
theorem step_of_agenda {s : State} {t : Turn} {rest : List Turn} (h : s.agenda = t :: rest) :
    step s = (s.withAgenda rest).take t := by
  simp only [step, h]
  rfl

section
variable {s s3 : State} {id : ThreadId} {t : Thread}

/-- A thread that may not issue passes its turn. -/
theorem State.runThread_idle (ht : s.thread? id = some t) (hm : s.mayIssue t = false) : s.runThread id = .next s := by
  simp [State.runThread, ht, hm]

/-- A thread that an older word holds waits as Dependent, before its word is fetched (R165). -/
theorem State.runThread_heldBack (ht : s.thread? id = some t) (hm : s.mayIssue t = true) (hb : s.heldBack id = true) :
    s.runThread id = .next (s.setWaiting id .dependent) := by
  simp [State.runThread, ht, hm, hb]

/-- A thread that may issue executes the instruction of its word. -/
theorem State.runThread_exec (ht : s.thread? id = some t) (hm : s.mayIssue t = true) (hb : s.heldBack id = false) {w : Word} {i : Instr}
    (hf : s.fetch (s.coreOf id) id.ctx t.pc = (s3, .ok w)) (hd : decodeWord w.toNat = .ok i) :
    s.runThread id = exec i (s3.acting (.thread id) w) := by
  simp only [State.runThread, ht, hm, hb, hf, hd]
  rfl

/-- A word that is no instruction traps (R113). -/
theorem State.runThread_illegal (ht : s.thread? id = some t) (hm : s.mayIssue t = true) (hb : s.heldBack id = false) {w : Word} {r}
    (hf : s.fetch (s.coreOf id) id.ctx t.pc = (s3, .ok w)) (hd : decodeWord w.toNat = .error r) :
    s.runThread id = .next ((s3.acting (.thread id) w).raiseTrap t clsIllegal w 0 0 none) := by
  simp only [State.runThread, ht, hm, hb, hf, hd]
  rfl

/-- A fetch that faults traps at the word (R112). -/
theorem State.runThread_fault (ht : s.thread? id = some t) (hm : s.mayIssue t = true) (hb : s.heldBack id = false) {cls : Nat}
    (hf : s.fetch (s.coreOf id) id.ctx t.pc = (s3, .error cls)) :
    s.runThread id = .next (s3.raiseTrap t cls 0 AccCode.fetch.num t.pc.toNat none) := by
  simp only [State.runThread, ht, hm, hb, hf]
  rfl

end

section
variable {s s3 : State} {id : TeamId} {tm : Team} {sl : Slice}

/-- A running slice executes the instruction of its word. -/
theorem State.runSlice_exec (ht : s.team? id = some tm) (hs : tm.slice = some sl) (hr : s.sliceRuns tm = true) {w : Word} {i : Instr}
    (hf : s.fetch tm.core id.ctx sl.apc = (s3, .ok w)) (hd : decodeWord w.toNat = .ok i) :
    s.runSlice id = exec i (s3.acting (.slice id) w) := by
  simp only [State.runSlice, ht, hs, hr, hf, hd]
  rfl

/-- A word that is no instruction stops the slice (R334). -/
theorem State.runSlice_illegal (ht : s.team? id = some tm) (hs : tm.slice = some sl) (hr : s.sliceRuns tm = true) {w : Word} {r}
    (hf : s.fetch tm.core id.ctx sl.apc = (s3, .ok w)) (hd : decodeWord w.toNat = .error r) :
    s.runSlice id = .next ((s3.acting (.slice id) w).stopSlice id clsIllegal w 0) := by
  simp only [State.runSlice, ht, hs, hr, hf, hd]
  rfl

/-- A fetch that faults stops the slice (R334). -/
theorem State.runSlice_fault (ht : s.team? id = some tm) (hs : tm.slice = some sl) (hr : s.sliceRuns tm = true) {cls : Nat}
    (hf : s.fetch tm.core id.ctx sl.apc = (s3, .error cls)) :
    s.runSlice id = .next (s3.stopSlice id cls 0 sl.apc.toNat) := by
  simp only [State.runSlice, ht, hs, hr, hf]
  rfl

end

/-- The first pick of an actor is granted when no pick of its die goes before it that can issue (R350). -/
theorem State.granted_first {s : State} {a : Actor} {p : Pick} (hp : (s.picks.find? fun p => decide (p.who = a)) = some p)
    (hq : ∀ q ∈ s.picks, dieOf q.core = dieOf p.core → keyBefore (s.pickKey q) (s.pickKey p) = true → s.pickLive q = false) :
    s.granted a = some (s.withPicks (s.picks.filter fun q => decide (q ≠ p))) := by
  have hnone : (s.picks.any fun q => decide (dieOf q.core = dieOf p.core) && keyBefore (s.pickKey q) (s.pickKey p) && s.pickLive q) = false := by
    simp only [List.any_eq_false, Bool.and_eq_true, decide_eq_true_eq, not_and, Bool.not_eq_true, and_imp]
    exact hq
  simp only [State.granted, hp, hnone]
  rfl

section
variable {s : State} {die : Nat}

/-- A cycle in which no pick is left that can issue ends. -/
theorem State.clockTurn_ends (h : ∀ p ∈ (s.deal die).pickOrder die, (s.deal die).pickLive p = false) :
    s.clockTurn die = .next ((s.deal die).cycleTurn die) := by
  have hnone : ((s.deal die).pickOrder die).find? (s.deal die).pickLive = none := by
    simpa [List.find?_eq_none] using h
  simp only [State.clockTurn, hnone]

/-- The first pick that can issue issues in the turn of its die's clock. -/
theorem State.clockTurn_thread {p : Pick} {t : ThreadId} (hp : ((s.deal die).pickOrder die).find? (s.deal die).pickLive = some p)
    (hw : p.who = .thread t) :
    s.clockTurn die = (((s.deal die).withAgenda (.cycle die :: (s.deal die).agenda)).withPicks
      ((s.deal die).picks.filter fun q => decide (q ≠ p))).runThread t := by
  simp only [State.clockTurn, hp, hw]
  rfl

/-- The same of a slice. -/
theorem State.clockTurn_slice {p : Pick} {t : TeamId} (hp : ((s.deal die).pickOrder die).find? (s.deal die).pickLive = some p)
    (hw : p.who = .slice t) :
    s.clockTurn die = (((s.deal die).withAgenda (.cycle die :: (s.deal die).agenda)).withPicks
      ((s.deal die).picks.filter fun q => decide (q ≠ p))).runSlice t := by
  simp only [State.clockTurn, hp, hw]
  rfl

end

/-- A fetch that is translated reads the word at its address, and touches no more than the access slices besides the translation. -/
theorem State.fetch_ok {s s1 : State} {core ctx pa : Nat} {pc : Addr} {tr} (h : s.lookup core ctx pc.toNat false false true = (s1, .ok pa tr)) :
    s.fetch core ctx pc = (s1.sliceTouch pa (s.wayGroup ctx) 0, .ok (BitVec.ofNat 32 (memRead s1.home pa 4))) := by
  simp only [State.fetch, h]

/-- The memory side caches change, and nothing else, when a sector is touched. -/
theorem State.sliceTouch_rest (s : State) (pa group cp : Nat) :
    s.sliceTouch pa group cp = { s with slices := (s.sliceTouch pa group cp).slices } := by
  obtain ⟨l, hl⟩ := s.sliceTouch_eq pa group cp
  rw [hl]

section
variable {s : State} {i : Instr} {args : List Nat}

/-- A request before the device answers any has no effect (R487; log 14). -/
theorem State.eventTurn_early (h : s.stage = 0) (hr : requestEvent i = true) : s.eventTurn i args = .next s := by
  simp [State.eventTurn, h, hr]

/-- The turn of an event that may come now. -/
theorem State.eventTurn_eq (hi : i.isEvent = true) (h : s.stage ≠ 0 ∨ requestEvent i = false) :
    s.eventTurn i args = (if (s.readied i args).picks.any ((s.readied i args).waitsFor i args) then .next (s.readied i args)
      else exec i ((s.readied i args).eventful args)) := by
  have hno : ¬ (s.stage = 0 ∧ requestEvent i = true) := by
    rintro ⟨h0, h1⟩
    rcases h with h | h
    · exact h h0
    · simp [h] at h1
  simp only [State.eventTurn, hi, hno, Bool.not_true, Bool.false_eq_true, or_self, if_false]
  rfl

end

section
variable {s s1 s2 : State}

/-- A thread whose pick is not granted passes its turn. -/
theorem State.threadTurn_passes {id : ThreadId} (h : (s.deal (dieOf (s.coreOf id))).granted (.thread id) = none) :
    s.threadTurn id = .next (s.deal (dieOf (s.coreOf id))) := by
  simp only [State.threadTurn, h]

/-- A thread whose pick is granted runs. -/
theorem State.threadTurn_runs {id : ThreadId} (h : (s.deal (dieOf (s.coreOf id))).granted (.thread id) = some s2) :
    s.threadTurn id = s2.runThread id := by
  simp only [State.threadTurn, h]

/-- A slice whose pick is not granted passes its turn. -/
theorem State.sliceTurn_passes {id : TeamId} (h : (s.deal (dieOf (s.coreOf ⟨id.ctx, id.grid, id.team, 0⟩))).granted (.slice id) = none) :
    s.sliceTurn id = .next (s.deal (dieOf (s.coreOf ⟨id.ctx, id.grid, id.team, 0⟩))) := by
  simp only [State.sliceTurn, h]

/-- A slice whose pick is granted runs. -/
theorem State.sliceTurn_runs {id : TeamId} (h : (s.deal (dieOf (s.coreOf ⟨id.ctx, id.grid, id.team, 0⟩))).granted (.slice id) = some s2) :
    s.sliceTurn id = s2.runSlice id := by
  simp only [State.sliceTurn, h]

end

/-- Settles O47: each turn at the head of the agenda is taken as its own lemma says. -/
theorem aStepRunsTheDecodedInstruction : Obligations.AStepRunsTheDecodedInstruction := by
  unfold Obligations.AStepRunsTheDecodedInstruction
  rintro s s0 rest rfl
  refine ⟨?thread, ?slice, ?granted, ?early, ?event, ?cycle, ?alone, ?fetch⟩
  case thread =>
    rintro id s1 ha rfl
    refine ⟨fun hg => (step_of_agenda ha).trans (State.threadTurn_passes hg), fun s2 t hg ht => ?_⟩
    have hrun : step s = s2.runThread id := (step_of_agenda ha).trans (State.threadTurn_runs hg)
    exact ⟨fun hm => hrun.trans (State.runThread_idle ht hm), fun hm hb => hrun.trans (State.runThread_heldBack ht hm hb),
      fun hm hb => ⟨fun s3 w i hf hd => hrun.trans (State.runThread_exec ht hm hb hf hd),
        fun s3 w r hf hd => hrun.trans (State.runThread_illegal ht hm hb hf hd),
        fun s3 cls hf => hrun.trans (State.runThread_fault ht hm hb hf)⟩⟩
  case slice =>
    rintro id s1 ha rfl
    refine ⟨fun hg => (step_of_agenda ha).trans (State.sliceTurn_passes hg), fun s2 tm sl hg ht hs hr => ?_⟩
    have hrun : step s = s2.runSlice id := (step_of_agenda ha).trans (State.sliceTurn_runs hg)
    exact ⟨fun s3 w i hf hd => hrun.trans (State.runSlice_exec ht hs hr hf hd),
      fun s3 w r hf hd => hrun.trans (State.runSlice_illegal ht hs hr hf hd), fun s3 cls hf => hrun.trans (State.runSlice_fault ht hs hr hf)⟩
  case granted => exact fun a p hp hq => State.granted_first hp hq
  case early => exact fun i args ha h0 hr => (step_of_agenda ha).trans (State.eventTurn_early h0 hr)
  case event =>
    rintro i args s1 ha hi h rfl
    have hturn := (step_of_agenda ha).trans (State.eventTurn_eq (s := s.withAgenda rest) (args := args) hi h)
    exact ⟨fun hw => hturn.trans (if_pos hw), fun hw => hturn.trans (if_neg (by simp only [hw]; exact Bool.false_ne_true))⟩
  case cycle =>
    rintro die s1 ha rfl
    exact ⟨fun h => (step_of_agenda ha).trans (State.clockTurn_ends h),
      fun p t hp hw => (step_of_agenda ha).trans (State.clockTurn_thread hp hw),
      fun p t hp hw => (step_of_agenda ha).trans (State.clockTurn_slice hp hw)⟩
  case alone => exact fun ha => by simp only [step, ha]
  case fetch => exact fun core ctx pc s1 pa tr h => ⟨_, State.fetch_ok h, State.sliceTouch_rest _ _ _ _⟩

end Machine
end Sys2Proof
end

section
/-! PROOFS. O55: the frame of the words that move a thread, latch hints, wait, start accesses or deposit. Each changes the state by steps of
one kind: a step that raises no record keeps every byte of memory and every register. -/

namespace Sys2Proof
namespace Machine

/-- A change of state that, where it raises no record, keeps every byte and every register. -/
def State.Tame (s s' : State) : Prop := ∃ l, s'.raised = s.raised ++ l ∧ (l = [] → s.SameBytes s' ∧ s.SameRegisters s')

theorem State.SameBytes.trans {s s' s'' : State} (h : s.SameBytes s') (k : s'.SameBytes s'') : s.SameBytes s'' := by
  obtain ⟨hhome, hweights, hteams⟩ := h
  obtain ⟨khome, kweights, kteams⟩ := k
  refine ⟨fun a => (khome a).trans (hhome a), fun a => (kweights a).trans (hweights a), fun id tm htm => ?_⟩
  obtain ⟨tm', htm', hsame⟩ := hteams id tm htm
  obtain ⟨tm'', htm'', ksame⟩ := kteams id tm' htm'
  exact ⟨tm'', htm'', fun a => (ksame a).trans (hsame a)⟩

/-- Nothing but home memory, the weight store and the teams holds bytes. -/
theorem State.SameBytes.of_fields {s s' : State} (h : (s'.home, s'.weights, s'.teams) = (s.home, s.weights, s.teams)) : s.SameBytes s' := by
  simp only [Prod.mk.injEq] at h
  obtain ⟨hhome, hweights, hteams⟩ := h
  exact ⟨fun a => by rw [hhome], fun a => by rw [hweights], fun id tm htm => ⟨tm, by rwa [State.team?, hteams], fun _ => rfl⟩⟩

/-- A change of a team that keeps its scratchpad keeps every byte. -/
theorem State.SameBytes.updTeam (s : State) (id : TeamId) {f : Team → Team} (hid : ∀ x, (f x).id = x.id) (hf : ∀ x, (f x).scratch = x.scratch) :
    s.SameBytes (s.updTeam id f) := by
  refine ⟨fun _ => rfl, fun _ => rfl, fun x tm htm => ?_⟩
  by_cases h : x = id
  · subst h
    exact ⟨f tm, by rw [State.team_updTeam x f hid, htm]; rfl, fun a => by rw [hf]⟩
  · exact ⟨tm, (State.team_updTeam_ne h f hid).trans htm, fun _ => rfl⟩

namespace State.Tame

variable {s s' s'' : State}

theorem trans (h : s.Tame s') (k : s'.Tame s'') : s.Tame s'' := by
  obtain ⟨l, hl, hsame⟩ := h
  obtain ⟨l', hl', ksame⟩ := k
  refine ⟨l ++ l', by rw [hl', hl, List.append_assoc], fun h0 => ?_⟩
  obtain ⟨h1, h2⟩ := List.append_eq_nil_iff.1 h0
  obtain ⟨hbytes, hregs⟩ := hsame h1
  obtain ⟨kbytes, kregs⟩ := ksame h2
  exact ⟨hbytes.trans kbytes, hregs.trans kregs⟩

/-- The last of two changes first. -/
theorem after (k : s'.Tame s'') (h : s.Tame s') : s.Tame s'' := h.trans k

/-- What raises nothing and keeps bytes and registers. -/
theorem of_same (hr : s'.raised = s.raised) (hb : s.SameBytes s') (hg : s.SameRegisters s') : s.Tame s' :=
  ⟨[], by rw [hr, List.append_nil], fun _ => ⟨hb, hg⟩⟩

/-- What is neither memory nor thread may change. -/
theorem inert (h : (s'.home, s'.weights, s'.teams, s'.threads, s'.raised) = (s.home, s.weights, s.teams, s.threads, s.raised)) : s.Tame s' := by
  simp only [Prod.mk.injEq] at h
  obtain ⟨hhome, hweights, hteams, hthreads, hraised⟩ := h
  exact of_same hraised (.of_fields (by rw [hhome, hweights, hteams])) (.of_threads hthreads)

protected theorem rfl : s.Tame s := inert (by rfl)

/-- A thread may change but for its registers. -/
theorem thread {id : ThreadId} {f : Thread → Thread} (hid : ∀ x, (f x).id = x.id) (hf : ∀ x : Thread, x.SameRegisters (f x)) :
    s.Tame (s.updThread id f) := by
  refine of_same rfl (.of_fields rfl) fun x t ht => ?_
  by_cases h : x = id
  · subst h
    exact ⟨f t, State.thread_updThread_some ht hid, hf t⟩
  · exact ⟨t, (State.thread_updThread_ne h f hid).trans ht, .rfl⟩

/-- A team may change but for its scratchpad. -/
theorem team {id : TeamId} {f : Team → Team} (hid : ∀ x, (f x).id = x.id) (hf : ∀ x, (f x).scratch = x.scratch) : s.Tame (s.updTeam id f) :=
  of_same rfl (.updTeam s id hid hf) (.of_threads rfl)

theorem foldl {α : Type} {f : State → α → State} (hf : ∀ (s : State) (x : α), s.Tame (f s x)) (l : List α) (s : State) :
    s.Tame (l.foldl f s) := by
  induction l generalizing s with
  | nil => exact .rfl
  | cons x xs ih => exact (hf s x).trans (ih _)

end State.Tame

-- ---------------------------------------------------------------- the operations of the words

theorem State.postRecord_tame (s : State) (die : Nat) (r : FRec) : s.Tame (s.postRecord die r) := by
  rcases s.postRecord_cases die r with hnone | ⟨u, hunmade⟩ | ⟨x, hmade⟩
  · rw [hnone]
    exact .rfl
  · rw [hunmade]
    exact .inert rfl
  · exact ⟨[x], hmade, fun h => by cases h⟩

theorem State.raiseTrap_tame (s : State) (t : Thread) (cls : Nat) (word : Word) (detail addr : Nat) (opnd : Option Nat) :
    s.Tame (s.raiseTrap t cls word detail addr opnd) := by
  unfold State.raiseTrap
  split
  · exact .thread (fun _ => rfl) fun _ => ⟨rfl, rfl, rfl, rfl, rfl, rfl⟩
  · rw [State.parkOn]
    exact .after (State.postRecord_tame _ _ _) (.thread (fun _ => rfl) fun _ => ⟨rfl, rfl, rfl, rfl, rfl, rfl⟩)

theorem State.setWaiting_tame (s : State) (id : ThreadId) (st : TState) : s.Tame (s.setWaiting id st) :=
  .thread (fun _ => rfl) fun _ => ⟨rfl, rfl, rfl, rfl, rfl, rfl⟩

theorem State.committed_tame (s : State) (t : Thread) (i : Issue) : s.Tame (s.committed t i) :=
  .after (.team (fun _ => rfl) fun _ => rfl) (.thread (fun x => x.commit_id i _) fun x => (x.commit_frameKept i _).1)

theorem State.addOp_tame (s : State) (o : Op) : s.Tame (s.addOp o) := .inert rfl

theorem State.jump_tame (s : State) (x : Args) (target : Addr) (lat : Nat) : s.Tame (s.jump x target lat) :=
  .thread (fun _ => rfl) fun _ => ⟨rfl, rfl, rfl, rfl, rfl, rfl⟩

theorem State.count_tame (s : State) (id : ThreadId) (c : KClass) (op : Nat) : s.Tame (s.updThread id fun t => t.count c op) :=
  .thread (fun _ => rfl) fun _ => ⟨rfl, rfl, rfl, rfl, rfl, rfl⟩

theorem State.takeMisses_tame (s : State) (c : Nat) : s.Tame (s.takeMisses c) := .inert rfl

theorem State.fillTlb_tame (s : State) (core : Nat) (tr : Translation) : s.Tame (s.fillTlb core tr) := .inert rfl

theorem State.lastPage_tame (s : State) (id : ThreadId) (p : Option Translation) : s.Tame (s.updThread id fun t => { t with lastPage := p }) :=
  .thread (fun _ => rfl) fun _ => ⟨rfl, rfl, rfl, rfl, rfl, rfl⟩

/-- The lines that an access brings into the translation caches, and the page its thread remembers. -/
theorem State.translated_tame (s : State) (core : Nat) (id : ThreadId) (sp : Space) (tr : Option (Nat × Translation × Nat)) :
    s.Tame (match sp, tr with
      | .g, some r => (if r.2.2 = 0 then s else s.fillTlb core r.2.1).updThread id fun t => { t with lastPage := some r.2.1 }
      | .k, some r => s.fillTlb core r.2.1
      | _, _ => s) := by
  split
  · refine State.Tame.trans ?_ (State.lastPage_tame _ _ _)
    split
    · exact .rfl
    · exact State.fillTlb_tame _ _ _
  · exact State.fillTlb_tame _ _ _
  · exact .rfl

theorem State.startAccess_tame (s : State) (x : Args) (a : Access) (cls : Option KClass) (dests : List Nat) (due : Option Nat) :
    s.Tame (s.startAccess x a cls dests due) := by
  cases cls with
  | none => exact ((s.addOp_tame _).trans (State.translated_tame _ _ _ _ _)).trans (State.takeMisses_tame _ _)
  | some c =>
    exact (((s.addOp_tame _).trans (State.count_tame _ _ _ _)).trans (State.translated_tame _ _ _ _ _)).trans (State.takeMisses_tame _ _)

/-- The link slots that hold a new return address. -/
theorem State.pushed_tame (s : State) (id : ThreadId) (ls : Thread → List LinkSlot) (ssp : BitVec 23) :
    s.Tame (s.updThread id fun th => { th with ls := ls th, csd := th.csd + 1, ssp := ssp }) :=
  .thread (fun _ => rfl) fun _ => ⟨rfl, rfl, rfl, rfl, rfl, rfl⟩

/-- What pushing a return address comes to. -/
theorem State.pushReturn_tame (s : State) (x : Args) (ret : Addr) {s' : State} (h : s.pushReturn x ret = .ok s') : s.Tame s' := by
  unfold State.pushReturn at h
  dsimp only at h
  split at h
  · cases h
    exact s.pushed_tame _ _ _
  split at h
  · cases h
  split at h <;> cases h
  · exact s.pushed_tame _ _ _
  · exact .after (State.pushed_tame _ _ _ _) (s.startAccess_tame _ _ _ _ _)
  · exact .after (State.pushed_tame _ _ _ _) (s.startAccess_tame _ _ _ _ _)

/-- The last link slot that awaits its return address from the scratch area. -/
theorem State.refilling_tame (s : State) (id : ThreadId) (op va : Nat) :
    s.Tame (s.updThread id fun th => { th with ls := th.ls.set 3 (.refill op va), ssp := th.ssp - 8 }) :=
  .thread (fun _ => rfl) fun _ => ⟨rfl, rfl, rfl, rfl, rfl, rfl⟩

theorem State.popReturn_tame (s : State) (x : Args) : s.Tame (s.popReturn x) := by
  have hpop : s.Tame (s.updThread x.t.id fun th =>
      { th with ls := [nth th.ls 1 .empty, nth th.ls 2 .empty, nth th.ls 3 .empty, .empty], csd := th.csd - 1 }) :=
    .thread (fun _ => rfl) fun _ => ⟨rfl, rfl, rfl, rfl, rfl, rfl⟩
  unfold State.popReturn
  dsimp only
  split
  · exact hpop
  · exact .after (State.startAccess_tame _ _ _ _ _ _) (.after (State.refilling_tame _ _ _ _) hpop)

theorem State.testDep_tame (s : State) (g : Grid) : s.Tame (s.testDep g) := by
  unfold State.testDep
  split
  · exact .rfl
  split
  · exact .inert rfl
  dsimp only
  split
  · exact State.postRecord_tame _ _ _
  · split
    · exact State.postRecord_tame _ _ _
    · exact .inert rfl

theorem State.wakeLq_tame (s : State) (q : Nat) : s.Tame (s.wakeLq q) :=
  State.Tame.trans (State.Tame.inert rfl) (State.Tame.foldl State.testDep_tame _ _)

theorem State.summitWake_tame (s : State) : s.Tame { s with summitWake := true } := .inert rfl

/-- The newest link slot that awaits the read of a resumed word. -/
theorem State.resumeLink_tame (s : State) (id : ThreadId) (op va : Nat) :
    s.Tame (s.updThread id fun t => { t with ls := t.ls.set 0 (.refill op va), resume := none }) :=
  .thread (fun _ => rfl) fun _ => ⟨rfl, rfl, rfl, rfl, rfl, rfl⟩

theorem State.nextId_tame (s : State) (n : Nat) : s.Tame { s with nextId := n } := .inert rfl

theorem State.setCr_tame (s : State) (id : TeamId) (n : Nat) (c : ConvReg) : s.Tame (s.setCr id n c) := .team (fun _ => rfl) fun _ => rfl

theorem State.addEntry_tame (s : State) (x : Args) (kind tile tile2 a b site lat opId : Nat) :
    s.Tame (s.addEntry x kind tile tile2 a b site lat opId) :=
  State.Tame.trans (State.Tame.inert rfl) (.team (fun _ => rfl) fun _ => rfl)

-- ---------------------------------------------------------------- the words

/-- The outcome of a word's body, where it is no trap, keeps bytes and registers as `Tame` says: of the committed state s1 where the word
issues, and of the state before where it waits with an effect. -/
def Res.Tame (s s1 : State) : Res → Prop
  | .ok s' => s1.Tame s'
  | .holdWith _ s' => s.Tame s'
  | .trap _ _ _ => True
  | .hold _ => True

/-- An instruction that a thread issues with such a body. -/
def TameWord (i : Instr) : Prop := ∀ s : State, ∃ (f : Thread → Issue) (body : Args → State → Res), exec i s = issue s f body ∧
  ∀ x s1, (body x s1).Tame s s1

/-- What a word of a thread makes of the state. -/
theorem issueThread_tame {s : State} (t : Thread) (i : Issue) {body : Args → State → Res} (h : ∀ x s1, (body x s1).Tame s s1) :
    s.Tame (issueThread s t i body) := by
  have hb := h (s.argsOf t i) (s.committed t i)
  rcases issueThread_cases s t i body with ⟨cls, detail, addr, opnd, htrap, -⟩ | ⟨st, hwait⟩ | ⟨s2, hbody, hok⟩ | ⟨st, s2, hbody, hhold⟩
  · rw [htrap]
    exact s.raiseTrap_tame t cls _ _ _ _
  · rw [hwait]
    exact s.setWaiting_tame _ _
  · rw [hbody] at hb
    rw [hok]
    exact (s.committed_tame t i).trans hb
  · rw [hbody] at hb
    rw [hhold]
    exact .after (s2.setWaiting_tame _ _) hb

namespace Res.Tame

variable {s s1 : State}

/-- A body that only lets its word go on. -/
theorem go (s1 : State) : (Res.ok s1).Tame s s1 := State.Tame.rfl

theorem trap {cls detail addr : Nat} : (Res.trap cls detail addr).Tame s s1 := trivial

theorem hold {st : TState} : (Res.hold st).Tame s s1 := trivial

theorem ok {s' : State} (h : s1.Tame s') : (Res.ok s').Tame s s1 := h

theorem ite {p : Prop} [Decidable p] {r r' : Res} (h : r.Tame s s1) (k : r'.Tame s s1) : (if p then r else r').Tame s s1 := by
  split
  · exact h
  · exact k

/-- A word that traps at a bad address. -/
theorem ranged {o : Option Nat} {ea : Nat} {r : Res} (h : r.Tame s s1) : (match o with | some cls => Res.trap cls 0 ea | none => r).Tame s s1 := by
  split
  · trivial
  · exact h

/-- A word that waits at an absent line. -/
theorem absent {o : Option Nat} {r : Res} (h : r.Tame s s1) :
    (match o with | some line => Res.hold (.parked (.absentLine line)) | none => r).Tame s s1 := by
  split
  · trivial
  · exact h

/-- A word that pushes a return address and goes to its target. -/
theorem call {x : Args} {ret target : Addr} {lat : Nat} :
    (match s1.pushReturn x ret with
      | .ok s2 => Res.ok (s2.jump x target lat)
      | .overflow => .trap clsOverflow 0 0
      | .wait => .hold .dependent).Tame s s1 := by
  split
  · next s2 h => exact (s1.pushReturn_tame x ret h).trans (s2.jump_tame x target lat)
  · trivial
  · trivial

end Res.Tame

/-- The control words and the waits. -/
theorem controlWords_tame (a : Nat) (l : Bool) (g : Nat) (gs : Bool) (o n : Nat) :
    ∀ i ∈ [Instr.br g gs o, .call g gs o, .brx a l, .callx a l, .ret, .waitk n o, .cwait n, .yield, .fence n, .trap o, .softi o, .ill],
      TameWord i := by
  simp only [List.forall_mem_cons, List.not_mem_nil, false_imp_iff, implies_true, and_true]
  refine ⟨?br, ?call, ?brx, ?callx, ?ret, ?waitk, ?cwait, ?yield, ?fence, ?trapWord, ?softi, ?ill⟩ <;> intro s <;>
    refine ⟨_, _, rfl, fun x s1 => ?_⟩
  case br => exact .ite (.go s1) (.ok (s1.jump_tame x _ _))
  case call => exact .ite (.go s1) .call
  case brx => exact .ite (.ok (s1.jump_tame x _ _)) .trap
  case callx => exact .ite .trap .call
  case ret =>
    refine .ite .trap ?_
    split
    · exact .trap
    · exact .hold
    · exact .ite (State.Tame.after (State.startAccess_tame _ _ _ _ _ _) (s.resumeLink_tame _ _ _)) .trap
    · exact .ite .trap (.ok (.after (State.jump_tame _ _ _ _) (s1.popReturn_tame x)))
  case waitk => exact .ite .hold (.go s1)
  case cwait => exact .ite .hold (.go s1)
  case yield => exact .ite .trap (.go s1)
  case fence => exact .ok (s1.addOp_tame _)
  case trapWord => exact .trap
  case softi =>
    refine .ite (.ok s1.summitWake_tame) ?_
    split
    · exact .ok (s1.wakeLq_tame _)
    · exact .trap
  case ill => exact .go s1

/-- The loads, the stores and the atomics start their access or wait. -/
theorem loadWord_tame {s : State} {r : Host.Outcome State Fault Refusal} {space : Space} {sx : Bool} {size d a : Nat} {l : Bool}
    {g : Nat} {gs : Bool} {off : List Word → Int} (hr : r = loadWord space sx size d a l g gs off s) :
    ∃ (f : Thread → Issue) (body : Args → State → Res), r = issue s f body ∧ ∀ x s1, (body x s1).Tame s s1 := by
  refine ⟨_, _, hr, fun x s1 => ?_⟩
  exact .ite (.go s1) (.ranged (.ite .hold (.ite .hold (.ok (s1.startAccess_tame _ _ _ _ _)))))

theorem storeWord_tame {s : State} {r : Host.Outcome State Fault Refusal} {space : Space} {size d a : Nat} {l : Bool} {g : Nat}
    {gs : Bool} {off : List Word → Int} (hr : r = storeWord space size d a l g gs off s) :
    ∃ (f : Thread → Issue) (body : Args → State → Res), r = issue s f body ∧ ∀ x s1, (body x s1).Tame s s1 := by
  refine ⟨_, _, hr, fun x s1 => ?_⟩
  exact .ite (.go s1) (.ranged (.ite .trap (.ok (s1.startAccess_tame _ _ _ _ _))))

theorem atomWord_tame {s : State} {r : Host.Outcome State Fault Refusal} {kind : AccKind} {d n outs a : Nat} {l p w : Bool}
    {sv : Nat} (hr : r = atomWord kind d n outs a l p w sv s) :
    ∃ (f : Thread → Issue) (body : Args → State → Res), r = issue s f body ∧ ∀ x s1, (body x s1).Tame s s1 := by
  refine ⟨_, _, hr, fun x s1 => ?_⟩
  exact .ranged (.ite .trap (.ite .hold (.ok (s1.startAccess_tame _ _ _ _ _))))

theorem accessWords_tame (d a : Nat) (l m : Bool) (g : Nat) (gs : Bool) (o p z n : Nat) :
    ∀ i ∈ [Instr.ldGB32 d a l g gs o, .ldGB64 d a l g gs o, .ldSB32 d a l g gs o, .ldGeneral d a l gs g p z, .stGB32 d a l g gs o,
      .stGB64 d a l g gs o, .stSB32 d a l g gs o, .stGeneral d a l gs g p z, .atom d a l gs m o n, .atomc d a l gs m n, .waita d a l gs m n,
      .wakea d a l gs n, .cflush a l, .cinv a l, .pin d a l, .unpin d a l], TameWord i := by
  simp only [List.forall_mem_cons, List.not_mem_nil, false_imp_iff, implies_true, and_true]
  refine ⟨fun s => loadWord_tame (r := execLdGB32 d a l g gs o s) rfl,
    fun s => loadWord_tame (r := execLdGB64 d a l g gs o s) rfl,
    fun s => loadWord_tame (r := execLdSB32 d a l g gs o s) rfl,
    fun s => loadWord_tame (r := execLdGeneral d a l gs g p z s) rfl,
    fun s => storeWord_tame (r := execStGB32 d a l g gs o s) rfl,
    fun s => storeWord_tame (r := execStGB64 d a l g gs o s) rfl,
    fun s => storeWord_tame (r := execStSB32 d a l g gs o s) rfl,
    fun s => storeWord_tame (r := execStGeneral d a l gs g p z s) rfl,
    fun s => atomWord_tame (r := execAtom d a l gs m o n s) rfl,
    fun s => atomWord_tame (r := execAtomc d a l gs m n s) rfl, ?waita, ?wakea, ?cflush, ?cinv, ?pin, ?unpin⟩ <;> intro s <;>
    refine ⟨_, _, rfl, fun x s1 => ?_⟩
  case waita => exact .ranged (.ite .hold (.ok (s1.startAccess_tame _ _ _ _ _)))
  case wakea => exact .ranged (.ok (s1.startAccess_tame _ _ _ _ _))
  all_goals exact .ok (s1.startAccess_tame _ _ _ _ _)

/-- A matrix word deposits in its set, and is counted. -/
theorem matrixWord_tame {s : State} {r : Host.Outcome State Fault Refusal} {kind sa sb : Nat} {l : Bool} {slot cn tile : Nat}
    (hr : r = matrixWord kind sa sb l slot cn tile s) :
    ∃ (f : Thread → Issue) (body : Args → State → Res), r = issue s f body ∧ ∀ x s1, (body x s1).Tame s s1 := by
  refine ⟨_, _, hr, fun x s1 => ?_⟩
  dsimp only
  split
  · trivial
  · exact .ite .hold (.ite .trap (.ite .trap (.ite .trap (.ite .trap (.ite .trap
      (.ok (.after (State.count_tame _ _ _ _) (.after (State.setCr_tame _ _ _ _) (s1.nextId_tame _)))))))))

/-- A word of an accumulator, given what its own effect keeps. -/
theorem accWord_tame {s : State} {r : Host.Outcome State Fault Refusal} {f : Thread → Issue} {tiles : List Nat} {slot writes : Option Nat}
    {addr : Bool} {body : Args → Team → Nat → State → Res} (hr : r = accWord f tiles slot writes addr body s)
    (h : ∀ x tm site s1, (body x tm site s1).Tame s s1) :
    ∃ (f' : Thread → Issue) (body' : Args → State → Res), r = issue s f' body' ∧ ∀ x s1, (body' x s1).Tame s s1 := by
  refine ⟨_, _, hr, fun x s1 => ?_⟩
  dsimp only
  split
  · trivial
  · exact .ite .trap (.ite .trap (.ite .trap (.ite .hold (.ite .hold (h _ _ _ _)))))

theorem State.setShare_tame (s : State) (id : TeamId) (tile site : Nat) (e : Team → Nat → Elem) :
    s.Tame (s.updTeam id fun tm => tm.setShare tile site (e tm)) := .team (fun _ => rfl) fun _ => rfl

theorem matrixWords_tame (d a : Nat) (l : Bool) (o p z b n : Nat) :
    ∀ i ∈ [Instr.mma a b l p n z, .mmas a b l p n z, .mmabXor a b l p n z, .mmabAnd a b l p n z, .mmac a b l p n z,
      .aczero z, .acmov o z, .acld a l z, .acst a l z, .acres d a l n z, .accmp d a l o z], TameWord i := by
  simp only [List.forall_mem_cons, List.not_mem_nil, false_imp_iff, implies_true, and_true]
  refine ⟨fun s => matrixWord_tame (r := execMma a b l p n z s) rfl,
    fun s => matrixWord_tame (r := execMmas a b l p n z s) rfl,
    fun s => matrixWord_tame (r := execMmabXor a b l p n z s) rfl,
    fun s => matrixWord_tame (r := execMmabAnd a b l p n z s) rfl,
    fun s => matrixWord_tame (r := execMmac a b l p n z s) rfl, ?aczero, ?acmov, ?acld, ?acst, ?acres, ?accmp⟩ <;>
    intro s
  case aczero =>
    exact accWord_tame (r := execAczero z s) rfl fun _ _ _ s1 =>
      .ok (.after (State.addEntry_tame _ _ _ _ _ _ _ _ _ _) (s1.setShare_tame _ _ _ _))
  case acmov =>
    exact accWord_tame (r := execAcmov o z s) rfl fun _ _ _ s1 =>
      .ok (.after (State.addEntry_tame _ _ _ _ _ _ _ _ _ _) (s1.setShare_tame _ _ _ _))
  case acld =>
    exact accWord_tame (r := execAcld a l z s) rfl fun _ _ _ s1 =>
      .absent (.ite .hold (.ok (.after (State.addEntry_tame _ _ _ _ _ _ _ _ _ _) (s1.setShare_tame _ _ _ _))))
  case acst =>
    exact accWord_tame (r := execAcst a l z s) rfl fun _ _ _ s1 =>
      .ite .trap (.ok (.after (State.addEntry_tame _ _ _ _ _ _ _ _ _ _) (.after (State.count_tame _ _ _ _) (s1.nextId_tame _))))
  case acres =>
    show ∃ f body, execAcres d a l n z s = issue s f body ∧ _
    unfold execAcres
    extract_lets slotOf regs
    exact accWord_tame rfl fun _ _ _ s1 => .ok (s1.addOp_tame _)
  case accmp => exact accWord_tame (r := execAccmp d a l o z s) rfl fun _ _ _ s1 => .ok (s1.addOp_tame _)

theorem State.latched_tame (s : State) (id : ThreadId) (w : Word) (n : Nat) (st : TState) : s.Tame (s.updThread id fun t => { t with
    pc := t.pc + 4, latch := t.latch ++ [w], pos := t.pos + 1, st := st, readyAt := n, promoted := false }) :=
  .thread (fun _ => rfl) fun _ => ⟨rfl, rfl, rfl, rfl, rfl, rfl⟩

theorem State.lastIssue_tame (s : State) (id : TeamId) (n : Nat) : s.Tame (s.updTeam id fun tm => { tm with lastIssue := n }) :=
  .team (fun _ => rfl) fun _ => rfl

/-- The hint words of a thread latch, or trap. -/
theorem hintWord_tame {s s2 : State} {id : ThreadId} (hcur : s.cur = .thread id) {kind pay : Nat} (h : hintWord kind pay s = .next s2) :
    s.Tame s2 := by
  unfold hintWord at h
  simp only [hcur] at h
  split at h
  · cases h
  split at h <;> cases h
  · exact s.raiseTrap_tame _ _ _ _ _ _
  · exact (s.latched_tame _ _ _ _).trans (State.lastIssue_tame _ _ _)

/-- A word of a thread with a body that keeps bytes and registers. -/
theorem TameWord.tame {i : Instr} (hi : TameWord i) {s s2 : State} {id : ThreadId} (hcur : s.cur = .thread id) (h : exec i s = .next s2) :
    s.Tame s2 := by
  obtain ⟨f, body, heq, hbody⟩ := hi s
  rw [heq] at h
  simp only [issue, hcur] at h
  split at h <;> cases h
  exact issueThread_tame _ _ hbody

/-- Every word of the list keeps bytes and registers where it raises no record. -/
theorem controlAndAccessWords_tame {d a : Nat} {l m : Bool} {g : Nat} {gs : Bool} {o p z b c n : Nat} {i : Instr}
    (hi : i ∈ controlAndAccessWords d a l m g gs o p z b c n) {s s2 : State} {id : ThreadId} (hcur : s.cur = .thread id)
    (h : exec i s = .next s2) : s.Tame s2 := by
  have hsplit : controlAndAccessWords d a l m g gs o p z b c n =
      [Instr.br g gs o, .call g gs o, .brx a l, .callx a l, .ret, .waitk n o, .cwait n, .yield, .fence n, .trap o, .softi o, .ill] ++
      ([.imm o, .mod a b c l m n z, .live l m o, .sched l o] ++
      ([.ldGB32 d a l g gs o, .ldGB64 d a l g gs o, .ldSB32 d a l g gs o, .ldGeneral d a l gs g p z, .stGB32 d a l g gs o,
        .stGB64 d a l g gs o, .stSB32 d a l g gs o, .stGeneral d a l gs g p z, .atom d a l gs m o n, .atomc d a l gs m n, .waita d a l gs m n,
        .wakea d a l gs n, .cflush a l, .cinv a l, .pin d a l, .unpin d a l] ++
      [.mma a b l p n z, .mmas a b l p n z, .mmabXor a b l p n z, .mmabAnd a b l p n z, .mmac a b l p n z,
        .aczero z, .acmov o z, .acld a l z, .acst a l z, .acres d a l n z, .accmp d a l o z])) := rfl
  rw [hsplit] at hi
  rcases List.mem_append.1 hi with hcontrol | hi
  · exact (controlWords_tame a l g gs o n i hcontrol).tame hcur h
  rcases List.mem_append.1 hi with hhint | hi
  · simp only [List.mem_cons, List.not_mem_nil, or_false] at hhint
    rcases hhint with rfl | rfl | rfl | rfl <;> exact hintWord_tame hcur h
  rcases List.mem_append.1 hi with haccess | hmatrix
  · exact (accessWords_tame d a l m g gs o p z n i haccess).tame hcur h
  · exact (matrixWords_tame d a l o p z b n i hmatrix).tame hcur h

/-- Settles O55: no record is raised, so each step of the word kept bytes and registers. -/
theorem controlAndAccessWordsFrame : Obligations.ControlAndAccessWordsFrame := by
  intro d a l m g gs o p z b c n i hi s s2 id hcur h hraised
  obtain ⟨l', hl, hsame⟩ := controlAndAccessWords_tame hi hcur h
  refine hsame ?_
  rw [hraised] at hl
  exact List.self_eq_append_right.1 hl

end Machine
end Sys2Proof
end

section
/-! PROOFS. What the memory system may change besides the bytes: the slices' lines, the L1 sectors, the waiters and the threads they wake. One
equation for each operation, so that what else a state holds is read off by `rfl`. -/

namespace Sys2Proof
namespace Machine

-- ---------------------------------------------------------------- the frame of the memory system

/-- Nothing but home memory with its marks, the slices, the L1s, the waiters and the threads differs. -/
def State.MemoryFrame (s s' : State) : Prop := ∃ home marks slices l1 waiters threads,
  s' = { s with home := home, homePoison := marks, slices := slices, l1 := l1, waiters := waiters, threads := threads }

namespace State.MemoryFrame

variable {s s' s'' : State}

protected theorem rfl : s.MemoryFrame s := ⟨_, _, _, _, _, _, by rfl⟩

theorem trans (h : s.MemoryFrame s') (k : s'.MemoryFrame s'') : s.MemoryFrame s'' := by
  obtain ⟨_, _, _, _, _, _, rfl⟩ := h
  obtain ⟨_, _, _, _, _, _, rfl⟩ := k
  exact ⟨_, _, _, _, _, _, rfl⟩

/-- The last of two changes first. -/
theorem after (k : s'.MemoryFrame s'') (h : s.MemoryFrame s') : s.MemoryFrame s'' := h.trans k

theorem foldl {α : Type} {f : State → α → State} (hf : ∀ (s : State) (x : α), s.MemoryFrame (f s x)) (l : List α) (s : State) :
    s.MemoryFrame (l.foldl f s) := by
  induction l generalizing s with
  | nil => exact .rfl
  | cons x xs ih => exact (hf s x).trans (ih _)

theorem ite {p : Prop} [Decidable p] (h : s.MemoryFrame s') (k : s.MemoryFrame s'') : s.MemoryFrame (if p then s' else s'') := by
  split
  · exact h
  · exact k

theorem ops (h : s.MemoryFrame s') : s'.ops = s.ops := by
  obtain ⟨_, _, _, _, _, _, rfl⟩ := h
  rfl

theorem teams (h : s.MemoryFrame s') : s'.teams = s.teams := by
  obtain ⟨_, _, _, _, _, _, rfl⟩ := h
  rfl

theorem weights (h : s.MemoryFrame s') : s'.weights = s.weights := by
  obtain ⟨_, _, _, _, _, _, rfl⟩ := h
  rfl

theorem grids (h : s.MemoryFrame s') : s'.grids = s.grids := by
  obtain ⟨_, _, _, _, _, _, rfl⟩ := h
  rfl

theorem op (h : s.MemoryFrame s') (n : Nat) : s'.op? n = s.op? n := by rw [State.op?, State.op?, h.ops]

theorem team (h : s.MemoryFrame s') (id : TeamId) : s'.team? id = s.team? id := by rw [State.team?, State.team?, h.teams]

theorem detMode (h : s.MemoryFrame s') (g : GridId) : s'.detMode g = s.detMode g := by
  obtain ⟨_, _, _, _, _, _, rfl⟩ := h
  rfl

theorem tagged (h : s.MemoryFrame s') (id : TeamId) (off n : Nat) : s'.tagged id off n = s.tagged id off n := by
  rw [State.tagged, State.tagged, h.team]

end State.MemoryFrame

-- ---------------------------------------------------------------- its operations

theorem State.sliceTouch_frame (s : State) (pa group cp : Nat) : s.MemoryFrame (s.sliceTouch pa group cp) := by
  obtain ⟨l, hl⟩ := s.sliceTouch_eq pa group cp
  exact ⟨_, _, _, _, _, _, hl⟩

theorem State.touchFor_frame (s : State) (t : ThreadId) (pa cp : Nat) : s.MemoryFrame (s.touchFor t pa cp) := s.sliceTouch_frame _ _ _

theorem State.releaseWaiters_frame (s : State) (ws : List Waiter) : s.MemoryFrame (s.releaseWaiters ws) := by
  obtain ⟨l, m, h⟩ := s.releaseWaiters_eq ws
  exact ⟨_, _, _, _, _, _, h⟩

theorem State.checkHomeWaiters_frame (s : State) (c : Option Nat) (val : Nat → Option Nat) : s.MemoryFrame (s.checkHomeWaiters c val) :=
  s.releaseWaiters_frame _

theorem State.checkL1Waiters_frame (s : State) (cluster : Nat) (cores : Nat → Bool) (core : Bool) (val : Nat → Option Nat) :
    s.MemoryFrame (s.checkL1Waiters cluster cores core val) := s.releaseWaiters_frame _

theorem State.mapL1_frame (s : State) (p : L1Sector → Bool) (f : L1Sector → L1Sector) : s.MemoryFrame (s.mapL1 p f) := ⟨_, _, _, _, _, _, rfl⟩

/-- Home memory with its marks. -/
theorem State.homeMarks_frame (s : State) (m : List Host.Cell) (marks : List Nat) : s.MemoryFrame { s with home := m, homePoison := marks } :=
  ⟨_, _, _, _, _, _, rfl⟩

theorem State.l1_frame (s : State) (l : List L1Sector) : s.MemoryFrame { s with l1 := l } := ⟨_, _, _, _, _, _, rfl⟩

theorem State.writeBackSector_frame (s : State) (x : L1Sector) : s.MemoryFrame (s.writeBackSector x) := by
  unfold State.writeBackSector
  split
  · exact .rfl
  · exact .after (State.checkHomeWaiters_frame _ _ _) (.after (State.sliceTouch_frame _ _ _ _) (s.homeMarks_frame _ _))

theorem State.writeBack_frame (s : State) (p : L1Sector → Bool) : s.MemoryFrame (s.writeBack p) :=
  .after (State.mapL1_frame _ _ _) (.foldl State.writeBackSector_frame _ _)

theorem State.pushSector_frame (s : State) (cluster pa : Nat) : s.MemoryFrame (s.pushSector cluster pa) := s.writeBack_frame _

theorem State.flushL1_frame (s : State) (cluster : Nat) : s.MemoryFrame (s.flushL1 cluster) := s.writeBack_frame _

theorem State.invalidateL1_frame (s : State) (cluster : Nat) : s.MemoryFrame (s.invalidateL1 cluster) :=
  .after (State.l1_frame _ _) (s.mapL1_frame _ _)

theorem State.beforePerform_frame (s : State) (o : Op) (a : Access) : s.MemoryFrame (s.beforePerform o a) := by
  unfold State.beforePerform
  dsimp only
  exact .ite (.after (State.flushL1_frame _ _) (.ite (s.pushSector_frame _ _) .rfl)) (.ite (s.pushSector_frame _ _) .rfl)

theorem State.afterAcquire_frame (s : State) (o : Op) (a : Access) : s.MemoryFrame (s.afterAcquire o a) :=
  .ite (s.invalidateL1_frame _) .rfl

theorem State.l1Drop_frame (s : State) (cluster pa n : Nat) : s.MemoryFrame (s.l1Drop cluster pa n) :=
  .after (State.l1_frame _ _) (s.mapL1_frame _ _)

theorem State.observe_frame (s : State) (t : ThreadId) (l : List ByteView) : s.MemoryFrame (s.observe t l) := by
  unfold State.observe
  exact .ite .rfl ⟨_, _, _, _, _, _, rfl⟩

-- ---------------------------------------------------------------- which of them leave home memory

@[simp] theorem State.invalidateL1_home (s : State) (cluster : Nat) : (s.invalidateL1 cluster).home = s.home := rfl

@[simp] theorem State.l1Drop_home (s : State) (cluster pa n : Nat) : (s.l1Drop cluster pa n).home = s.home := rfl

theorem State.afterAcquire_home (s : State) (o : Op) (a : Access) : (s.afterAcquire o a).home = s.home := by
  unfold State.afterAcquire
  split <;> rfl

theorem State.observe_home (s : State) (t : ThreadId) (l : List ByteView) : (s.observe t l).home = s.home := by
  unfold State.observe
  dsimp only
  split <;> rfl

theorem State.sliceTouch_home (s : State) (pa group cp : Nat) : (s.sliceTouch pa group cp).home = s.home := by
  obtain ⟨l, hl⟩ := s.sliceTouch_eq pa group cp
  rw [hl]

theorem State.touchFor_home (s : State) (t : ThreadId) (pa cp : Nat) : (s.touchFor t pa cp).home = s.home := s.sliceTouch_home _ _ _

theorem State.releaseWaiters_home (s : State) (ws : List Waiter) : (s.releaseWaiters ws).home = s.home := by
  obtain ⟨l, m, h⟩ := s.releaseWaiters_eq ws
  rw [h]

theorem State.checkHomeWaiters_home (s : State) (c : Option Nat) (val : Nat → Option Nat) : (s.checkHomeWaiters c val).home = s.home :=
  s.releaseWaiters_home _

theorem State.checkL1Waiters_home (s : State) (cluster : Nat) (cores : Nat → Bool) (core : Bool) (val : Nat → Option Nat) :
    (s.checkL1Waiters cluster cores core val).home = s.home := s.releaseWaiters_home _

theorem State.releaseWaiters_l1 (s : State) (ws : List Waiter) : (s.releaseWaiters ws).l1 = s.l1 := by
  obtain ⟨l, m, h⟩ := s.releaseWaiters_eq ws
  rw [h]

theorem State.writeBackSector_wf {s : State} (h : Memory.wf s.home = true) (x : L1Sector) : Memory.wf (s.writeBackSector x).home = true := by
  unfold State.writeBackSector
  split
  · exact h
  · dsimp only
    rw [State.checkHomeWaiters_home, State.sliceTouch_home]
    exact wf_memWriteMask _ _ _ _ h

theorem State.writeBack_wf {s : State} (h : Memory.wf s.home = true) (p : L1Sector → Bool) : Memory.wf (s.writeBack p).home = true := by
  show Memory.wf ((s.l1.filter p).foldl State.writeBackSector s).home = true
  generalize s.l1.filter p = l
  induction l generalizing s with
  | nil => exact h
  | cons x xs ih => exact ih (State.writeBackSector_wf h x)

theorem State.beforePerform_wf {s : State} {o : Op} {a : Access} (h : Memory.wf s.home = true) : Memory.wf (s.beforePerform o a).home = true := by
  unfold State.beforePerform
  dsimp only
  split <;> split
  · exact State.writeBack_wf (State.writeBack_wf h _) _
  · exact State.writeBack_wf h _
  · exact State.writeBack_wf h _
  · exact h

/-- A read that the journal of no deterministic grid records goes on (R490). -/
theorem State.journalRead_pass {s : State} {g : GridId} {pa : Nat} (h : s.detMode g = true → pa < 0x4000000000) :
    s.journalRead g pa = (s, true) := by
  unfold State.journalRead
  split
  · next hj =>
    simp only [Bool.and_eq_true, decide_eq_true_eq] at hj
    exact absurd (h hj.1) (Nat.not_lt.2 hj.2)
  · rfl

/-- An operation is found by its number. -/
theorem State.op_id {s : State} {n : Nat} {o : Op} (h : s.op? n = some o) : o.id = n := by simpa using List.find?_some h

/-- The operation that is updated is found changed. -/
theorem State.op_updOp {s : State} {n : Nat} {o : Op} (h : s.op? n = some o) {f : Op → Op} (hf : ∀ x, (f x).id = x.id) :
    (s.updOp n f).op? n = some (f o) := by
  rw [State.op?, State.updOp, find_map_self Op.id n f hf, ← State.op?, h, Option.map_some]

/-- An operation that is bound is found with its values. -/
theorem State.op_bound {s : State} {n : Nat} {o : Op} (h : s.op? n = some o) (vals : List Nat) :
    (s.updOp n fun x => { x with stage := .bound, vals := vals }).op? n = some (o.boundTo vals) :=
  State.op_updOp (f := fun x => x.boundTo vals) h fun _ => rfl

end Machine
end Sys2Proof
end

section
/-! PROOFS. O22: a load whose bytes are all present binds their value (R265 to R268). A byte that a load sees is the byte of its view, unpoisoned;
the view's value is that of the bytes. -/

namespace Sys2Proof
namespace Machine

-- ---------------------------------------------------------------- the youngest store

theorem leastBy_mem {α : Type} (lt : α → α → Bool) : ∀ {l : List α} {x : α}, leastBy lt l = some x → x ∈ l
  | y :: ys, x, h => by
    rw [leastBy] at h
    split at h
    · exact List.mem_cons.2 (.inl (Option.some.inj h).symm)
    · next z hz =>
      split at h
      · exact List.mem_cons_of_mem y (Option.some.inj h ▸ leastBy_mem lt hz)
      · exact List.mem_cons.2 (.inl (Option.some.inj h).symm)

theorem leastBy_eq_none {α : Type} (lt : α → α → Bool) : ∀ {l : List α}, leastBy lt l = none → l = []
  | [], _ => rfl
  | y :: ys, h => by
    rw [leastBy] at h
    split at h
    · cases h
    · split at h <;> cases h

/-- An operation that every other of a list is older than is the youngest. -/
theorem youngest_eq {x : Op} : ∀ {l : List Op}, x ∈ l → (∀ y ∈ l, y = x ∨ y.pos < x.pos) → youngest l = some x
  | y :: ys, hx, h => by
    have hy := h y (.head _)
    have hys : ∀ z ∈ ys, z = x ∨ z.pos < x.pos := fun z hz => h z (.tail _ hz)
    unfold youngest
    rw [leastBy]
    rcases List.mem_cons.1 hx with rfl | htail
    · split
      · rfl
      · next z hz =>
        have hle : ¬ x.pos < z.pos := by
          rcases hys z (leastBy_mem _ hz) with rfl | hlt
          · exact Nat.lt_irrefl _
          · exact Nat.lt_asymm hlt
        rw [decide_eq_false hle]
        rfl
    · have hrest := youngest_eq htail hys
      rw [youngest] at hrest
      rw [hrest]
      dsimp only
      rcases hy with rfl | hlt
      · split <;> rfl
      · rw [decide_eq_true hlt, if_pos rfl]

/-- No operation of a list is the youngest only when there is none. -/
theorem youngest_nil {l : List Op} (h : ∀ x ∈ l, False) : youngest l = none := by
  rw [List.eq_nil_iff_forall_not_mem.2 h]
  rfl

-- ---------------------------------------------------------------- the bytes of a load

section
variable {s : State} {o : Op} {a : Access} {i v : Nat}

/-- The stores that `viewByte` takes the youngest of are those that `OwnGives` names. -/
theorem State.ownGives_iff {x : Op} : x ∈ ((s.ownStores o.thr o.pos).filter fun x => decide (x.stage ≠ .core) && x.gives a i) ↔
    ∃ st, s.OwnGives o a i x st := by
  simp only [State.ownStores, State.OwnGives, List.mem_filter, Bool.and_eq_true, decide_eq_true_eq]
  constructor
  · rintro ⟨⟨hmem, ⟨⟨hthr, hpos⟩, hstores⟩, hdone⟩, hcore, hgives⟩
    cases hacc : x.access with
    | none => simp [hacc] at hstores
    | some st => exact ⟨st, hmem, hthr, hpos, rfl, by simpa [hacc] using hstores, hdone, hcore, by simpa [Op.gives, hacc] using hgives⟩
  · rintro ⟨st, hmem, hthr, hpos, hacc, hstores, hdone, hcore, hgives⟩
    exact ⟨⟨hmem, ⟨⟨hthr, hpos⟩, by simpa [hacc] using hstores⟩, hdone⟩, hcore, by simpa [Op.gives, hacc] using hgives⟩

theorem and_byteMask_one (n k : Nat) : decide (n &&& byteMask k 1 = byteMask k 1) = bitAt n k := by
  have hbit : bitAt n k = n.testBit k := by
    rw [Nat.testBit_eq_decide_div_mod_eq, bitAt]
    rfl
  rw [byteMask, Nat.pow_one, Nat.add_one_sub_one, Nat.one_mul, Nat.and_two_pow, hbit]
  have hpos := Nat.two_pow_pos k
  cases n.testBit k
  · simpa using hpos.ne
  · simp

/-- A byte that a load sees is the byte of its view, unpoisoned. -/
theorem State.Sees.view (h : s.Sees o a i v) : ∃ f, s.viewByte o a i = some ⟨v, false, f⟩ := by
  rcases h with ⟨x, st, hgives, hyoung, rfl⟩ | ⟨hnone, hbyte⟩
  · have hfound : youngest ((s.ownStores o.thr o.pos).filter fun x => decide (x.stage ≠ .core) && x.gives a i) = some x :=
      youngest_eq (State.ownGives_iff.2 ⟨st, hgives⟩) fun y hy => by
        obtain ⟨su, hsu⟩ := State.ownGives_iff.1 hy
        exact hyoung y su hsu
    obtain ⟨-, -, -, hacc, -⟩ := hgives
    simp only [State.viewByte, hfound, hacc]
    exact ⟨_, rfl⟩
  · have hfound : youngest ((s.ownStores o.thr o.pos).filter fun x => decide (x.stage ≠ .core) && x.gives a i) = none :=
      youngest_nil fun x hx => by
        obtain ⟨st, hst⟩ := State.ownGives_iff.1 hx
        exact hnone x st hst
    simp only [State.viewByte, hfound]
    cases hsp : a.space with
    | s =>
      simp only [hsp] at hbyte
      obtain ⟨tm, htm, hpoison, rfl⟩ := hbyte
      simp only [htm, List.contains_eq_mem, decide_eq_false hpoison]
      exact ⟨_, rfl⟩
    | w =>
      simp only [hsp] at hbyte
      obtain ⟨hpoison, rfl⟩ := hbyte
      simp only [List.contains_eq_mem, decide_eq_false hpoison]
      exact ⟨_, rfl⟩
    | k =>
      simp only [hsp] at hbyte
    | g =>
      simp only [hsp] at hbyte
      obtain ⟨x, rfl, hbyte⟩ := hbyte
      split at hbyte
      · next hwide =>
        obtain ⟨hpoison, rfl⟩ := hbyte
        simp only [hwide, if_true, List.contains_eq_mem, decide_eq_false hpoison]
        exact ⟨_, rfl⟩
      · next hwide =>
        simp only [hwide, Bool.false_eq_true, if_false]
        rcases hbyte with ⟨y, st, hlast, hacc, rfl⟩ | ⟨hlast, l, hl, hvalid, hpoison, rfl⟩
        · rw [State.coreGiving] at hlast
          simp only [hlast, hacc]
          exact ⟨_, rfl⟩
        · rw [State.coreGiving] at hlast
          simp only [hlast, hl, State.l1Has, and_byteMask_one, hvalid, hpoison, if_true]
          exact ⟨_, rfl⟩

/-- The view of the bytes that a load sees. -/
theorem State.viewBytes_of_sees {vs : List Nat} : ∀ {n : Nat}, (∀ i < n, s.Sees o a i (nth vs i 0)) →
    ∃ l, s.viewBytes o a n = some l ∧ l.map ByteView.val = (List.range n).map (nth vs · 0) ∧ l.any ByteView.poison = false
  | 0, _ => ⟨[], rfl, rfl, rfl⟩
  | n + 1, h => by
    obtain ⟨l, hl, hvals, hpoison⟩ := State.viewBytes_of_sees fun i hi => h i (Nat.lt_succ_of_lt hi)
    obtain ⟨f, hf⟩ := (h n (Nat.lt_succ_self n)).view
    refine ⟨l ++ [⟨nth vs n 0, false, f⟩], ?_, ?_, ?_⟩
    · rw [State.viewBytes, hl, hf]
    · rw [List.map_append, hvals, List.range_succ, List.map_append]
      rfl
    · rw [List.any_append, hpoison]
      rfl

end

-- ---------------------------------------------------------------- the value

theorem viewValue_eq : ∀ l : List ByteView, viewValue l = leValue (l.map ByteView.val)
  | [] => rfl
  | b :: bs => by rw [viewValue, List.map_cons, leValue, viewValue_eq bs]

theorem range_map_nth (vs : List Nat) : (List.range vs.length).map (nth vs · 0) = vs := by
  refine List.ext_getElem (by simp) fun i h _ => ?_
  have hi : i < vs.length := by simpa using h
  simp [nth, hi]

theorem wordsOf_eq : ∀ n v : Nat, wordsOf n v = (List.range n).map fun i => v / 2 ^ (32 * i) % 2 ^ 32
  | 0, _ => rfl
  | n + 1, v => by
    rw [wordsOf, wordsOf_eq n, List.range_succ_eq_map, List.map_cons, List.map_map]
    congr 1
    · rw [Nat.mul_zero, Nat.pow_zero, Nat.div_one]
    · refine List.map_congr_left fun i _ => ?_
      rw [Function.comp, Nat.div_div_eq_div_mul, ← Nat.pow_add]
      congr 3
      omega

theorem loadWords_eq (sx : Bool) (size v : Nat) : loadWords sx size v = loadedWords sx size v := by
  rw [loadWords, loadedWords, wordsOf_eq]

-- ---------------------------------------------------------------- the load

section
variable {s : State} {o : Op} {a : Access} {sx : Bool}

/-- A load whose bytes are all present binds their value: it holds them, its thread remembers the stores it has seen, and the rest is the
frame of the memory system. -/
theorem State.bindLoad_of_sees {s0 : State} (h0 : s0 = if a.isWide then s.pushSector (clusterOf o.core) (a.pa.getD 0) else s) {vs : List Nat}
    (hop : s.op? o.id = some o) (hdet : s.detMode o.thr.gridId = true → a.pa.getD 0 < 0x4000000000) (hlen : vs.length = a.size)
    (hsees : ∀ i < a.size, s0.Sees o a i (nth vs i 0)) :
    (s.bindLoad o a sx).op? o.id = some (o.boundTo (loadedWords sx a.size (leValue vs))) ∧ (s.bindLoad o a sx).teams = s.teams ∧
      (s.bindLoad o a sx).weights = s.weights ∧ (s.bindLoad o a sx).home = s0.home := by
  obtain ⟨l, hview, hvals, hpoison⟩ := State.viewBytes_of_sees hsees
  have hvalue : viewValue l = leValue vs := by rw [viewValue_eq, hvals, ← hlen, range_map_nth]
  have hframe : s.MemoryFrame s0 := by
    rw [h0]
    exact .ite (s.pushSector_frame _ _) .rfl
  have hread : ((s0.touchFor o.thr (a.pa.getD 0) a.cp).journalRead o.thr.gridId (a.pa.getD 0)) =
      (s0.touchFor o.thr (a.pa.getD 0) a.cp, true) :=
    State.journalRead_pass fun h => hdet ((hframe.trans (s0.touchFor_frame _ _ _)).detMode _ ▸ h)
  have hdone (sj : State) (hj : s.MemoryFrame sj) (hhome : sj.home = s0.home) (s2 : State)
      (h2 : s2 = ((sj.updOp o.id fun x => { x with stage := .bound, vals := loadWords sx a.size (viewValue l) }).observe o.thr l).afterAcquire o a) :
      s2.op? o.id = some (o.boundTo (loadedWords sx a.size (leValue vs))) ∧ s2.teams = s.teams ∧ s2.weights = s.weights ∧ s2.home = s0.home := by
    subst h2
    have hafter := State.MemoryFrame.after (State.afterAcquire_frame _ o a)
      ((sj.updOp o.id fun x => { x with stage := .bound, vals := loadWords sx a.size (viewValue l) }).observe_frame o.thr l)
    refine ⟨?_, hafter.teams.trans hj.teams, hafter.weights.trans hj.weights, ?_⟩
    · rw [hafter.op, State.op_bound ((hj.op o.id).trans hop), hvalue, loadWords_eq]
    · rw [State.afterAcquire_home, State.observe_home]
      exact hhome
  unfold State.bindLoad
  rw [← h0]
  dsimp only
  rw [hview]
  simp only [hpoison, Bool.false_eq_true, if_false, hread]
  split
  · exact hdone _ (hframe.trans (s0.touchFor_frame _ _ _)) (State.touchFor_home _ _ _ _) _ rfl
  · exact hdone _ hframe rfl _ rfl

/-- A load whose bytes are present needs no fill (R248). -/
theorem State.needsFill_of_sees {vs : List Nat} (hkind : a.kind = .load sx)
    (hsees : ∀ i < a.size, s.Sees o a i (nth vs i 0)) : s.needsFill o a = false := by
  obtain ⟨l, hview, -, -⟩ := State.viewBytes_of_sees (a := { a with cp := 0 }) (n := a.size) hsees
  have hatomic : a.kind.atomic = false := by
    rw [hkind]
    rfl
  rw [State.needsFill, hview, hatomic, Option.isNone_some, Bool.and_false, Bool.false_and, Bool.or_false, Bool.and_false]

end

/-- What the next step of an access at its place is (R129). -/
theorem execResultWrite_mem {s : State} {o : Op} {a : Access} (hop : s.op? (s.arg 0) = some o) (hbody : o.body = .mem a) (hstage : o.stage = .ready) :
    exec .resultWrite s = .next (s.actAccess o a) := by
  show execResultWrite s = _
  simp only [execResultWrite, hop, hbody, hstage, if_true]

/-- A load whose order allows it binds. -/
theorem State.actAccess_load {s : State} {o : Op} {a : Access} {sx : Bool} (hkind : a.kind = .load sx) (hacq : s.acquireHolds o = false)
    (habs : s.readsAbsent o a = false) (hspace : a.space ≠ .k) (hheld : s.readHeld o a = false)
    (hbusy : a.isWide = true → s.pathBusy o a.va (a.pa.getD 0) = false)
    (hbank : a.space = .w → s.bankRefreshes a = false ∧ (weightDie a.va = dieOf o.core → o.dueBy (s.now o.core) = true))
    (hfill : s.needsFill o a = false) : s.actAccess o a = s.bindLoad o a sx := by
  have hturn : ¬ ((a.space = .w ∧ weightDie a.va = dieOf o.core ∧ (! o.dueBy (s.now o.core)) = true) ∨ s.bankRefreshes a = true) := by
    rintro (⟨hw, hdie, hdue⟩ | hrefresh)
    · rw [(hbank hw).2 hdie] at hdue
      cases hdue
    · by_cases hw : a.space = .w
      · rw [(hbank hw).1] at hrefresh
        cases hrefresh
      · simp [State.bankRefreshes, hw] at hrefresh
  have hpath : (a.isWide && s.pathBusy o a.va (a.pa.getD 0)) = false := by
    cases hw : a.isWide with
    | false => rfl
    | true => exact hbusy hw
  simp only [State.actAccess, hacq, habs, hkind, if_neg hspace, if_neg hturn, hheld, hpath, hfill, Bool.or_false, Bool.false_eq_true, if_false]

/-- What a load binds. -/
theorem loadsBind : LoadsBind := by
  intro s s0 o a sx hop hbody hkind hstage hacq habs h0
  have hid := State.op_id hop
  have hop' : s.op? o.id = some o := by rwa [hid]
  have hexec := execResultWrite_mem hop hbody hstage
  constructor
  · intro vs hspace hheld hbusy hbank hdet hlen hsees
    have hfill : s.needsFill o a = false := by
      cases hw : a.isWide with
      | true =>
        simp only [Access.isWide, Bool.and_eq_true] at hw
        simp [State.needsFill, hw.2]
      | false =>
        rw [hw, if_neg Bool.false_ne_true] at h0
        rw [h0] at hsees
        exact State.needsFill_of_sees hkind hsees
    rw [State.actAccess_load hkind hacq habs hspace hheld hbusy hbank hfill] at hexec
    obtain ⟨hbound, hteams, hweights, hhome⟩ := State.bindLoad_of_sees (sx := sx) h0 hop' hdet hlen hsees
    exact ⟨_, hexec, hbound, (s.bindLoad_mild o a sx).regs, hteams, hweights, hhome⟩
  · intro c hspace hc
    refine ⟨_, hexec, ?_⟩
    simp only [State.actAccess, hacq, habs, hkind, if_pos hspace, Bool.or_false, Bool.false_eq_true, if_false, State.bindConst, hc]
    refine ⟨.of_fields rfl, .of_threads rfl, ?_⟩
    rw [State.op_bound hop', loadWords_eq]

/-- Settles O22: loads issue as `loads_hold` says, and bind as `loadsBind` says. -/
theorem loadsComplete : Obligations.LoadsComplete := ⟨loadsBind, loads_hold⟩

end Machine
end Sys2Proof
end

section
/-! PROOFS. O24: an atomic whose order allows it writes the new value of its rule where it is performed and is bound to the old one (R268, R294,
R295). -/

namespace Sys2Proof
namespace Machine

-- ---------------------------------------------------------------- bytes

theorem byteAt_memRead (m : List Host.Cell) : ∀ (n a i : Nat), i < n → byteAt (memRead m a n) i = cellGet m (a + i)
  | n + 1, a, 0, _ => by
    rw [memRead, byteAt, Nat.pow_zero, Nat.div_one]
    refine BitVec.eq_of_toNat_eq ?_
    have hlt := (cellGet m a).isLt
    rw [BitVec.toNat_ofNat, Nat.add_zero, Nat.add_mul_mod_self_left, Nat.mod_eq_of_lt hlt]
    rfl
  | n + 1, a, i + 1, h => by
    have hrest := byteAt_memRead m n (a + 1) i (by omega)
    have hlt : (cellGet m a).toNat < 256 := (cellGet m a).isLt
    rw [byteAt] at hrest
    rw [memRead, byteAt, Nat.pow_succ', ← Nat.div_div_eq_div_mul, Nat.add_mul_div_left _ _ (by decide), Nat.div_eq_of_lt hlt, Nat.zero_add,
      hrest]
    congr 1
    omega

theorem bitAt_iff (x k : Nat) : bitAt x k = true ↔ x / 2 ^ k % 2 = 1 := by
  rw [bitAt, beq_iff_eq]

/-- A masked write stores its bytes and no other. -/
theorem stored_memWriteMask {m : List Host.Cell} (hm : Memory.wf m = true) (pa n v mask : Nat) : Stored m (memWriteMask m pa n v mask) pa n v mask := by
  intro x
  by_cases hin : pa ≤ x ∧ x < pa + n
  · obtain ⟨i, rfl⟩ := Nat.exists_eq_add_of_le hin.1
    rw [cellGet_memWriteMask_inside n hm pa v mask i (by omega), Nat.add_sub_cancel_left, byteAt]
    simp only [bitAt_iff, hin, true_and]
  · rw [cellGet_memWriteMask_outside n pa v mask (by omega), if_neg fun h => hin ⟨h.1, h.2.1⟩]

/-- What was there already is stored by no write. -/
theorem stored_memRead (m : List Host.Cell) (pa n mask : Nat) : Stored m m pa n (memRead m pa n) mask := by
  intro x
  split
  · next h =>
    rw [byteAt_memRead m n pa (x - pa) (by omega)]
    congr 1
    omega
  · rfl

/-- A team whose scratchpad has been written (R246, R260). -/
def Team.scratchWritten (x : Team) (off n v mask : Nat) : Team :=
  { x with scratch := memWriteMask x.scratch off n v mask, poison := if mask = 2 ^ n - 1 then clearWhole x.poison off n 32 else x.poison }

/-- A write to a scratchpad changes its team, and releases waiters. -/
theorem State.scratchWrite_eq (s : State) (id : TeamId) (off n v mask : Nat) : ∃ w m, s.scratchWrite id off n v mask =
    { s.updTeam id fun x => x.scratchWritten off n v mask with waiters := w, threads := m } :=
  State.releaseWaiters_eq (s.updTeam id fun x => x.scratchWritten off n v mask) _

/-- A write to a scratchpad stores its bytes and no other, and touches no other memory. -/
theorem State.scratchWrite_stores {s : State} {id : TeamId} {tm : Team} (htm : s.team? id = some tm) (hwf : Memory.wf tm.scratch = true)
    (off n v mask : Nat) : ∃ tm2, (s.scratchWrite id off n v mask).team? id = some tm2 ∧ Stored tm.scratch tm2.scratch off n v mask ∧
      (∀ x, x ≠ id → (s.scratchWrite id off n v mask).team? x = s.team? x) ∧ (s.scratchWrite id off n v mask).ops = s.ops ∧
      (s.scratchWrite id off n v mask).home = s.home ∧ (s.scratchWrite id off n v mask).weights = s.weights := by
  obtain ⟨w, m, h⟩ := s.scratchWrite_eq id off n v mask
  have hself : (s.updTeam id fun x => x.scratchWritten off n v mask).team? id = some (tm.scratchWritten off n v mask) := by
    rw [State.team_updTeam id (fun x : Team => x.scratchWritten off n v mask) fun _ => rfl, htm, Option.map_some]
  rw [h]
  exact ⟨_, hself, stored_memWriteMask hwf off n v mask,
    fun x hx => State.team_updTeam_ne hx (fun x : Team => x.scratchWritten off n v mask) fun _ => rfl, rfl, rfl, rfl⟩

-- ---------------------------------------------------------------- the rule

/-- Two values of w bits with the same signed value are the same. -/
theorem sext_injective {w x y : Nat} (hx : x < 2 ^ w) (hy : y < 2 ^ w) (h : sext x w = sext y w) : x = y := by
  unfold sext at h
  rw [Nat.mod_eq_of_lt hx, Nat.mod_eq_of_lt hy] at h
  generalize 2 ^ w = p at *
  split at h <;> split at h <;> omega

/-- The least and the greatest of two values, as the rule names them. -/
theorem minMax_signed {w old x : Nat} (hold : old < 2 ^ w) (hx : x < 2 ^ w) :
    minMax w true false old x = (if sext x w < sext old w then x else old) ∧
      minMax w true true old x = (if sext old w < sext x w then x else old) := by
  have htie := sext_injective hold hx
  simp only [minMax, if_true]
  by_cases hlt : sext old w < sext x w
  · rw [decide_eq_true hlt, if_neg (Int.not_lt.2 hlt.le), if_pos hlt]
    exact ⟨rfl, rfl⟩
  · rw [decide_eq_false hlt, if_neg hlt]
    refine ⟨?_, rfl⟩
    by_cases hgt : sext x w < sext old w
    · rw [if_pos hgt]
      rfl
    · rw [if_neg hgt]
      exact (htie (le_antisymm (not_lt.1 hgt) (not_lt.1 hlt))).symm

theorem minMax_unsigned (w old x : Nat) : minMax w false false old x = min old x ∧ minMax w false true old x = max old x := by
  simp only [minMax, Bool.false_eq_true, if_false]
  by_cases hlt : old < x
  · simp [hlt, Nat.min_eq_left hlt.le, Nat.max_eq_right hlt.le]
  · simp [hlt, Nat.min_eq_right (Nat.le_of_not_lt hlt), Nat.max_eq_left (Nat.le_of_not_lt hlt)]

/-- The new value of each operation of ATOM is that of the rule (R294). -/
theorem atomNew_eq {op w old x : Nat} (h : op < 10) (hold : old < 2 ^ w) (hx : x < 2 ^ w) (y : Nat) :
    atomNew op w old x = atomicRule (.atom op) w old x y := by
  obtain ⟨hmin, hmax⟩ := minMax_signed hold hx
  obtain ⟨hminu, hmaxu⟩ := minMax_unsigned w old x
  match op, h with
  | 4, _ => exact hmin
  | 5, _ => exact hmax
  | 6, _ => exact hminu
  | 7, _ => exact hmaxu
  | 0, _ | 1, _ | 2, _ | 3, _ | 8, _ | 9, _ => rfl

theorem memRead_lt (m : List Host.Cell) : ∀ n a : Nat, memRead m a n < 256 ^ n
  | 0, _ => Nat.one_pos
  | n + 1, a => by
    have hrest := memRead_lt m n (a + 1)
    have hbyte : (cellGet m a).toNat < 256 := (cellGet m a).isLt
    rw [memRead, Nat.pow_succ']
    omega

-- ---------------------------------------------------------------- the end of an atomic

/-- Whether an atomic writes (R295). -/
def Access.writesOver (a : Access) (old : Nat) : Bool := decide (a.kind ≠ .cas) || decide (old = a.data)

/-- The write of an atomic, by the rule. -/
def State.atomicStep (s : State) (o : Op) (a : Access) (old : Nat) : State :=
  if a.writesOver old then s.atomicWrite o a (atomicRule a.kind (8 * a.size) old a.data a.data2) else s

/-- An atomic that has written is bound to the old value, and acquires. -/
def State.atomicBound (s : State) (o : Op) (a : Access) (old : Nat) : State :=
  (s.updOp o.id fun x => { x with stage := .bound, vals := wordsOf (a.size / 4) old }).afterAcquire o a

/-- Where an atomic at .dv or .sy reads, its slice is touched. -/
def State.atomicPlace (s : State) (o : Op) (a : Access) : State :=
  if a.isWide then s.touchFor o.thr (a.pa.getD 0) a.cp else s

section
variable {s s0 : State} {o : Op} {a : Access} {old : Nat}

theorem atomicRule_keeps (h : a.writesOver old = false) (w : Nat) :
    atomicRule a.kind w old a.data a.data2 = old := by
  simp only [Access.writesOver, Bool.or_eq_false_iff, decide_eq_false_iff_not, not_not] at h
  rw [h.1, atomicRule, if_neg h.2]

/-- An atomic that meets no mark, no tag and no full journal ends by the rule. -/
theorem State.endAtomic_rule (hkind : a.kind = .cas ∨ ∃ k < 10, a.kind = .atom k) (hold : old < 2 ^ (8 * a.size)) (hdata : a.data < 2 ^ (8 * a.size))
    (hdet : a.isWide = true → s0.detMode o.thr.gridId = true → a.pa.getD 0 < 0x4000000000) :
    s.endAtomic s0 o a old false false = ((s0.atomicPlace o a).atomicStep o a old).atomicBound o a old := by
  have hread : (if a.isWide && ! false then (s0.touchFor o.thr (a.pa.getD 0) a.cp).journalRead o.thr.gridId (a.pa.getD 0) else (s0, true)) =
      (s0.atomicPlace o a, true) := by
    unfold State.atomicPlace
    cases hw : a.isWide with
    | false => rfl
    | true => exact State.journalRead_pass fun h => hdet hw ((s0.touchFor_frame _ _ _).detMode _ ▸ h)
  unfold State.endAtomic
  rw [hread]
  rcases hkind with hcas | ⟨k, hk, hatom⟩
  · simp only [hcas, State.atomicStep, Access.writesOver, atomicRule]
    by_cases h : old = a.data <;> simp [h, State.atomicBound]
  · simp only [hatom, State.atomicStep, Access.writesOver, atomNew_eq hk hold hdata a.data2]
    rfl

theorem State.atomicPlace_frame (s : State) (o : Op) (a : Access) : s.MemoryFrame (s.atomicPlace o a) :=
  .ite (s.touchFor_frame _ _ _) .rfl

theorem State.atomicPlace_home (s : State) (o : Op) (a : Access) : (s.atomicPlace o a).home = s.home := by
  unfold State.atomicPlace
  split
  · exact s.touchFor_home _ _ _
  · rfl

theorem State.atomicBound_op (hop : s.op? o.id = some o) : (s.atomicBound o a old).op? o.id = some (o.boundTo (wordsOf (a.size / 4) old)) :=
  ((State.afterAcquire_frame _ o a).op _).trans (State.op_bound hop _)

theorem State.atomicBound_team (s : State) (o : Op) (a : Access) (old : Nat) (id : TeamId) : (s.atomicBound o a old).team? id = s.team? id :=
  (State.afterAcquire_frame _ o a).team id

theorem State.atomicBound_home (s : State) (o : Op) (a : Access) (old : Nat) : (s.atomicBound o a old).home = s.home :=
  State.afterAcquire_home _ o a

theorem State.atomicBound_weights (s : State) (o : Op) (a : Access) (old : Nat) : (s.atomicBound o a old).weights = s.weights :=
  (State.afterAcquire_frame _ o a).weights

theorem State.atomicBound_teams (s : State) (o : Op) (a : Access) (old : Nat) : (s.atomicBound o a old).teams = s.teams :=
  (State.afterAcquire_frame _ o a).teams

-- ---------------------------------------------------------------- what it finds

/-- The value an atomic finds (R294, R295). -/
def State.atomicOld (s : State) (o : Op) (a : Access) : Nat :=
  match a.space with
  | .s => (match s.team? o.thr.teamId with
    | some tm => memRead tm.scratch a.va a.size
    | none => 0)
  | _ => if a.scope.wide then memRead s.home (a.pa.getD 0) a.size
    else match s.l1Sector? (clusterOf o.core) (a.pa.getD 0 / 64) with
      | some x => x.data.toNat / 256 ^ (a.pa.getD 0 % 64) % 256 ^ a.size
      | none => 0

/-- Whether what an atomic finds is marked (R261). -/
def State.atomicMarked (s : State) (o : Op) (a : Access) : Bool :=
  match a.space with
  | .s => (match s.team? o.thr.teamId with
    | some tm => tm.poison.contains (a.va / 32)
    | none => false)
  | _ => if a.scope.wide then s.homePoison.contains (a.pa.getD 0 / 64)
    else match s.l1Sector? (clusterOf o.core) (a.pa.getD 0 / 64) with
      | some x => x.poison
      | none => false

theorem State.performAtomic_found (s : State) (o : Op) (a : Access) : s.performAtomic o a =
    s.endAtomic (s.beforePerform o a) o a ((s.beforePerform o a).atomicOld o a) ((s.beforePerform o a).atomicMarked o a)
      (decide (a.space = .s) && (s.beforePerform o a).tagged o.thr.teamId a.va a.size) := rfl

/-- An atomic whose order allows it is performed by its rule. -/
theorem State.actAccess_atomic (h0 : s0 = s.beforePerform o a) (hkind : a.kind = .cas ∨ ∃ k < 10, a.kind = .atom k)
    (hacq : s.acquireHolds o = false) (habs : s.readsAbsent o a = false) (hready : s.atomicReady o a = true) (hdata : a.data < 256 ^ a.size)
    (hold : s0.atomicOld o a = old) (hlt : old < 256 ^ a.size) (hmark : s0.atomicMarked o a = false)
    (htag : a.space = .s → s0.tagged o.thr.teamId a.va a.size = false)
    (hdet : a.isWide = true → s.detMode o.thr.gridId = true → a.pa.getD 0 < 0x4000000000) :
    s.actAccess o a = ((s0.atomicPlace o a).atomicStep o a old).atomicBound o a old := by
  have hperform : s.actAccess o a = s.performAtomic o a := by
    rcases hkind with hcas | ⟨k, -, hatom⟩
    · simp only [State.actAccess, hacq, habs, hcas, hready, Bool.or_false, Bool.false_eq_true, if_false, if_true]
    · simp only [State.actAccess, hacq, habs, hatom, hready, Bool.or_false, Bool.false_eq_true, if_false, if_true]
  have hclean : (decide (a.space = .s) && s0.tagged o.thr.teamId a.va a.size) = false := by
    by_cases hs : a.space = .s
    · rw [htag hs, Bool.and_false]
    · rw [decide_eq_false hs, Bool.false_and]
  have hpow : (256 : Nat) ^ a.size = 2 ^ (8 * a.size) := by rw [Nat.pow_mul]
  rw [hpow] at hdata hlt
  rw [hperform, State.performAtomic_found, ← h0, hold, hmark, hclean]
  refine State.endAtomic_rule hkind hlt hdata fun hw hd => hdet hw ?_
  rw [h0, (s.beforePerform_frame o a).detMode] at hd
  exact hd

end

-- ---------------------------------------------------------------- the three places

section
variable {s : State} {o : Op} {a : Access} {old : Nat}

/-- In the scratchpad an atomic writes the bytes of its rule and no other (R246, R295). -/
theorem State.atomicStep_scratch {tm : Team} (hspace : a.space = .s) (htm : s.team? o.thr.teamId = some tm) (hwf : Memory.wf tm.scratch = true)
    (hold : old = memRead tm.scratch a.va a.size) :
    ∃ tm2, (s.atomicStep o a old).team? o.thr.teamId = some tm2 ∧
      Stored tm.scratch tm2.scratch a.va a.size (atomicRule a.kind (8 * a.size) old a.data a.data2) a.mask ∧
      (∀ id, id ≠ o.thr.teamId → (s.atomicStep o a old).team? id = s.team? id) ∧ (s.atomicStep o a old).ops = s.ops ∧
      (s.atomicStep o a old).home = s.home ∧ (s.atomicStep o a old).weights = s.weights := by
  unfold State.atomicStep
  cases hw : a.writesOver old with
  | false =>
    rw [atomicRule_keeps hw, hold]
    exact ⟨tm, htm, stored_memRead _ _ _ _, fun _ _ => rfl, rfl, rfl, rfl⟩
  | true =>
    simp only [if_true, State.atomicWrite, hspace]
    generalize hv : atomicRule a.kind (8 * a.size) old a.data a.data2 = v
    obtain ⟨tm2, htm2, hstored, hothers, hops, hhome, hweights⟩ := s.scratchWrite_stores htm hwf a.va a.size v a.mask
    exact ⟨tm2, htm2, hstored, hothers, hops, hhome, hweights⟩

/-- At the home slice an atomic writes the bytes of its rule and no other (R268, R295). -/
theorem State.atomicStep_wide (hspace : a.space = .g) (hwide : a.scope.wide = true) (hwf : Memory.wf s.home = true)
    (hold : old = memRead s.home (a.pa.getD 0) a.size) :
    Stored s.home (s.atomicStep o a old).home (a.pa.getD 0) a.size (atomicRule a.kind (8 * a.size) old a.data a.data2) a.mask ∧
      s.MemoryFrame (s.atomicStep o a old) := by
  unfold State.atomicStep
  cases hw : a.writesOver old with
  | false =>
    rw [atomicRule_keeps hw, hold]
    exact ⟨stored_memRead _ _ _ _, .rfl⟩
  | true =>
    simp only [if_true, State.atomicWrite, hspace, hwide]
    generalize atomicRule a.kind (8 * a.size) old a.data a.data2 = v
    refine ⟨?_, .after (State.checkHomeWaiters_frame _ _ _) (.after (State.l1Drop_frame _ _ _ _) (.after (State.touchFor_frame _ _ _ _)
      (s.homeMarks_frame _ _)))⟩
    rw [State.checkHomeWaiters_home, State.l1Drop_home, State.touchFor_home]
    exact stored_memWriteMask hwf _ _ _ _

end

-- ---------------------------------------------------------------- the L1

theorem byteOf_mod_pow (x : Nat) {n k : Nat} (h : k < n) : byteOf (x % 256 ^ n) k = byteOf x k := by
  have hpow : (256 : Nat) ^ n = 256 ^ k * (256 * 256 ^ (n - k - 1)) := by
    rw [← Nat.pow_succ', ← Nat.pow_add]
    congr 1
    omega
  rw [byteOf, byteOf, hpow, Nat.mod_mul_right_div_self, Nat.mod_mul_right_mod]

theorem toNat_ofNat_bytes (n x : Nat) : (BitVec.ofNat (8 * n) x).toNat = x % 256 ^ n := by
  rw [BitVec.toNat_ofNat, Nat.pow_mul]

/-- A sector holds 64 bytes. -/
theorem toNat_ofNat_sector (x : Nat) : (BitVec.ofNat 512 x).toNat = x % 256 ^ 64 := toNat_ofNat_bytes 64 x

theorem byteOf_mul_pow (v : Nat) {off k : Nat} (h : off ≤ k) : byteOf (v * 256 ^ off) k = byteOf v (k - off) := by
  obtain ⟨j, rfl⟩ := Nat.exists_eq_add_of_le h
  rw [byteOf, byteOf, Nat.add_sub_cancel_left, Nat.pow_add, ← Nat.div_div_eq_div_mul, Nat.mul_div_cancel _ (Nat.pow_pos (by decide))]

theorem byteOf_div_pow (x off k : Nat) : byteOf (x / 256 ^ off) k = byteOf x (off + k) := by
  rw [byteOf, byteOf, Nat.div_div_eq_div_mul, ← Nat.pow_add]

/-- A merged byte is the new one where the mask's bit is 1. -/
theorem byteOf_mergeBytes : ∀ (n old new mask k : Nat), k < n →
    byteOf (mergeBytes n old new mask) k = if bitAt mask k = true then byteOf new k else byteOf old k
  | n + 1, old, new, mask, 0, _ => by
    rw [mergeBytes]
    simp only [bitAt_iff, byteOf, Nat.pow_zero, Nat.div_one]
    split <;> omega
  | n + 1, old, new, mask, k + 1, h => by
    have hrest := byteOf_mergeBytes n (old / 256) (new / 256) (mask / 2) k (by omega)
    have hshift (x : Nat) : byteOf x (k + 1) = byteOf (x / 256) k := by
      rw [byteOf, byteOf, Nat.pow_succ', Nat.div_div_eq_div_mul]
    have hbit : bitAt mask (k + 1) = bitAt (mask / 2) k := by
      rw [bitAt, bitAt, Nat.pow_succ', Nat.div_div_eq_div_mul]
    have hhead : (if mask % 2 = 1 then new % 256 else old % 256) < 256 := by split <;> exact Nat.mod_lt _ (by decide)
    rw [mergeBytes, hshift, Nat.add_mul_div_left _ _ (by decide), Nat.div_eq_of_lt hhead, Nat.zero_add, hrest, hshift, hshift, hbit]

theorem bitAt_eq_testBit (n k : Nat) : bitAt n k = n.testBit k := by
  rw [Nat.testBit_eq_decide_div_mod_eq, bitAt]
  rfl

/-- The bits of a run of bytes in a sector's mask. -/
theorem bitAt_run {off n k : Nat} (hk : k < 64) :
    bitAt (BitVec.ofNat 64 ((2 ^ n - 1) * 2 ^ off)).toNat k = true ↔ off ≤ k ∧ k < off + n := by
  rw [bitAt_eq_testBit, BitVec.toNat_ofNat, Nat.testBit_mod_two_pow, ← Nat.shiftLeft_eq, Nat.testBit_shiftLeft, Nat.testBit_two_pow_sub_one]
  simp only [hk, decide_true, Bool.true_and, Bool.and_eq_true, decide_eq_true_eq, ge_iff_le]
  omega

section
variable {s : State} {cluster sector : Nat} {l : L1Sector}

theorem State.l1Sector_key (h : s.l1Sector? cluster sector = some l) : l ∈ s.l1 ∧ l.cluster = cluster ∧ l.sector = sector := by
  have hkey := List.find?_some h
  simp only [Bool.and_eq_true, decide_eq_true_eq] at hkey
  exact ⟨List.mem_of_find?_eq_some h, hkey⟩

/-- A sector that is held needs no room (R250). -/
theorem State.l1Room_of_held (h : s.l1Sector? cluster sector = some l) (victim : Nat) : s.l1Room cluster sector victim = s := by
  obtain ⟨hmem, rfl, rfl⟩ := State.l1Sector_key h
  have hline : (s.l1Lines l.cluster (l1Set l.sector)).contains (l.sector / 4) = true := by
    rw [List.contains_eq_mem, decide_eq_true_eq, State.l1Lines, List.mem_dedup]
    exact List.mem_map_of_mem (List.mem_filter.2 ⟨hmem, by simp⟩)
  unfold State.l1Room
  dsimp only
  rw [hline, Bool.true_or, if_pos rfl]

/-- A sector that is put in place of a held one is found there. -/
theorem State.l1Put_held {x : L1Sector} (h : s.l1Sector? x.cluster x.sector = some l) :
    (s.l1Put x).l1Sector? x.cluster x.sector = some x ∧ ∃ l1, s.l1Put x = { s with l1 := l1 } := by
  have hput : s.l1Put x = s.mapL1 (fun y => decide (y.cluster = x.cluster) && decide (y.sector = x.sector)) fun _ => x := by
    rw [State.l1Put, h, Option.isSome_some, if_pos rfl]
  refine ⟨?_, _, hput⟩
  rw [hput]
  unfold State.l1Sector? at h ⊢
  unfold State.mapL1
  dsimp only
  generalize s.l1 = ys at h
  induction ys with
  | nil => cases h
  | cons y ys ih =>
    cases hy : decide (y.cluster = x.cluster) && decide (y.sector = x.sector) with
    | true => simp only [List.map_cons, hy, if_true, List.find?_cons, decide_true, Bool.and_true]
    | false =>
      simp only [List.find?_cons, hy] at h
      simp only [List.map_cons, hy, Bool.false_eq_true, if_false, List.find?_cons]
      exact ih h

/-- A write into a sector that is held changes its bytes and no other, and nothing but the L1 (R250). -/
theorem State.l1Write_held {pa n v mask : Nat} (h : s.l1Sector? cluster (pa / 64) = some l) (hmask : mask = 2 ^ n - 1)
    (ctx cp victim : Nat) : ∃ l2, (s.l1Write ctx cluster pa n v mask cp victim).l1Sector? cluster (pa / 64) = some l2 ∧
      (∀ k < 64, byteOf l2.data.toNat k = if pa % 64 ≤ k ∧ k < pa % 64 + n then byteOf v (k - pa % 64) else byteOf l.data.toNat k) ∧
      ∃ l1, s.l1Write ctx cluster pa n v mask cp victim = { s with l1 := l1 } := by
  obtain ⟨-, hcluster, hsector⟩ := State.l1Sector_key h
  unfold State.l1Write
  dsimp only
  rw [State.l1Room_of_held h, h, Option.getD_some]
  generalize hx : L1Sector.mk _ _ _ _ _ _ _ _ _ = x
  have hkey : x.cluster = cluster ∧ x.sector = pa / 64 := by
    rw [← hx]
    exact ⟨hcluster, hsector⟩
  obtain ⟨hput, hl1⟩ := State.l1Put_held (s := s) (x := x) (l := l) (by rw [hkey.1, hkey.2]; exact h)
  rw [hkey.1, hkey.2] at hput
  refine ⟨x, hput, fun k hk => ?_, hl1⟩
  rw [← hx, hmask]
  dsimp only
  rw [toNat_ofNat_sector, byteOf_mod_pow _ hk, byteOf_mergeBytes _ _ _ _ _ hk]
  simp only [bitAt_run hk]
  split
  · next hrun => rw [byteOf_mul_pow _ hrun.1, byteOf_mod_pow _ (by omega)]
  · rfl

end

section
variable {s : State} {o : Op} {a : Access} {old : Nat}

/-- In the L1 of its cluster an atomic writes the bytes of its rule and no other (R268, R295). -/
theorem State.atomicStep_narrow {l : L1Sector} (hspace : a.space = .g) (hwide : a.scope.wide = false)
    (hl : s.l1Sector? (clusterOf o.core) (a.pa.getD 0 / 64) = some l) (hmask : a.mask = 2 ^ a.size - 1)
    (hold : old = l.data.toNat / 256 ^ (a.pa.getD 0 % 64) % 256 ^ a.size) :
    ∃ l2, (s.atomicStep o a old).l1Sector? (clusterOf o.core) (a.pa.getD 0 / 64) = some l2 ∧
      (∀ k < 64, byteOf l2.data.toNat k = if a.pa.getD 0 % 64 ≤ k ∧ k < a.pa.getD 0 % 64 + a.size then
        byteOf (atomicRule a.kind (8 * a.size) old a.data a.data2) (k - a.pa.getD 0 % 64) else byteOf l.data.toNat k) ∧
      s.MemoryFrame (s.atomicStep o a old) ∧ (s.atomicStep o a old).home = s.home := by
  unfold State.atomicStep
  cases hw : a.writesOver old with
  | false =>
    rw [atomicRule_keeps hw]
    refine ⟨l, hl, fun k hk => ?_, .rfl, rfl⟩
    split
    · next hrun =>
      rw [hold, byteOf_mod_pow _ (by omega), byteOf_div_pow]
      congr 1
      omega
    · rfl
  | true =>
    simp only [if_true, State.atomicWrite, hspace, hwide, Bool.false_eq_true, if_false]
    generalize atomicRule a.kind (8 * a.size) old a.data a.data2 = v
    obtain ⟨l2, hl2, hbytes, l1, heq⟩ := State.l1Write_held (v := v) hl hmask o.thr.ctx 0 0
    refine ⟨l2, ?_, hbytes, .after (State.checkL1Waiters_frame _ _ _ _ _) ?_, ?_⟩
    · rw [State.l1Sector?, State.checkL1Waiters, State.releaseWaiters_l1, ← State.l1Sector?]
      exact hl2
    · rw [heq]
      exact s.l1_frame l1
    · rw [State.checkL1Waiters_home, heq]

end

-- ---------------------------------------------------------------- the claim

/-- A narrow access writes nothing back before it is performed. -/
theorem State.beforePerform_narrow {s : State} {o : Op} {a : Access} (hwide : a.scope.wide = false) : s.beforePerform o a = s := by
  have hsy : a.scope ≠ .sy := by
    rintro h
    rw [h] at hwide
    cases hwide
  unfold State.beforePerform
  rw [Access.isWide, hwide, Bool.and_false, decide_eq_false hsy, Bool.and_false]
  rfl

theorem State.atomicPlace_narrow {s : State} {o : Op} {a : Access} (h : a.isWide = false) : s.atomicPlace o a = s := by
  rw [State.atomicPlace, h, if_neg Bool.false_ne_true]

/-- An atomic that acquires no more than its cluster's L1 drops nothing from it (R274). -/
theorem State.atomicBound_l1 {s : State} {o : Op} {a : Access} {old : Nat} (hwide : a.scope.wide = false) : (s.atomicBound o a old).l1 = s.l1 := by
  have hsy : a.scope ≠ .sy := by
    rintro h
    rw [h] at hwide
    cases hwide
  unfold State.atomicBound State.afterAcquire
  rw [decide_eq_false hsy, Bool.and_false]
  rfl

theorem atomicsPerform : AtomicsPerform := by
  intro s s0 o a hop hbody hkind hstage hacq habs hready hsize hdata hdata2 hmask h0
  have hop' : s.op? o.id = some o := by rwa [State.op_id hop]
  have hexec := execResultWrite_mem hop hbody hstage
  have hmild : s.Mild (s.actAccess o a) := s.actAccess_mild o a
  have hframe : s.MemoryFrame s0 := h0 ▸ s.beforePerform_frame o a
  refine ⟨?scratch, ?wide, ?narrow⟩
  case scratch =>
    intro tm old hspace htm hwf hpoison htag hold
    have hw : a.isWide = false := by rw [Access.isWide, hspace]; rfl
    have htm0 : s0.team? o.thr.teamId = some tm := (hframe.team _).trans htm
    have hfound : s0.atomicOld o a = old := by simp only [State.atomicOld, hspace, htm0, hold]
    have hmark : s0.atomicMarked o a = false := by
      simp only [State.atomicMarked, hspace, htm0, List.contains_eq_mem, decide_eq_false hpoison]
    have hact := State.actAccess_atomic h0 hkind hacq habs hready hdata hfound (hold ▸ memRead_lt _ _ _) hmark
      (fun _ => (hframe.tagged _ _ _).trans htag) fun h => absurd h (by rw [hw]; exact Bool.false_ne_true)
    rw [State.atomicPlace_narrow hw] at hact
    obtain ⟨tm2, htm2, hstored, hothers, hops, hhome, hweights⟩ := State.atomicStep_scratch hspace htm0 hwf hold
    rw [hact] at hexec hmild
    exact ⟨_, tm2, hexec, State.atomicBound_op (by rw [State.op?, hops, hframe.ops]; exact hop'),
      (State.atomicBound_team _ _ _ _ _).trans htm2, hstored, (State.atomicBound_home _ _ _ _).trans hhome,
      ((State.atomicBound_weights _ _ _ _).trans hweights).trans hframe.weights,
      fun id hid => ((State.atomicBound_team _ _ _ _ _).trans (hothers id hid)).trans (hframe.team id), hmild.regs⟩
  case wide =>
    intro pa old hspace hwide hpa hwf hpoison hdet hold
    have hget : a.pa.getD 0 = pa := by rw [hpa, Option.getD_some]
    have hfound : s0.atomicOld o a = old := by simp only [State.atomicOld, hspace, hwide, if_true, hget, hold]
    have hmark : s0.atomicMarked o a = false := by
      simp only [State.atomicMarked, hspace, hwide, if_true, hget, List.contains_eq_mem, decide_eq_false hpoison]
    have hact := State.actAccess_atomic h0 hkind hacq habs hready hdata hfound (hold ▸ memRead_lt _ _ _) hmark
      (fun h => by rw [hspace] at h; cases h) fun _ h => hget ▸ hdet h
    have hplace := s0.atomicPlace_frame o a
    have hhome : (s0.atomicPlace o a).home = s0.home := s0.atomicPlace_home o a
    have hwf0 : Memory.wf (s0.atomicPlace o a).home = true := by
      rw [hhome, h0]
      exact State.beforePerform_wf hwf
    obtain ⟨hstored, hstep⟩ := State.atomicStep_wide (s := s0.atomicPlace o a) (o := o) (old := old) hspace hwide hwf0
      (by rw [hhome, hget, hold])
    rw [hhome, hget] at hstored
    have hall := (hframe.trans hplace).trans hstep
    rw [hact] at hexec hmild
    exact ⟨_, hexec, State.atomicBound_op ((hall.op _).trans hop'), by rw [State.atomicBound_home]; exact hstored,
      (State.atomicBound_weights _ _ _ _).trans hall.weights, (State.atomicBound_teams _ _ _ _).trans hall.teams, hmild.regs⟩
  case narrow =>
    intro pa l old hspace hwide hpa _ hl hpoison hold
    have hget : a.pa.getD 0 = pa := by rw [hpa, Option.getD_some]
    have hw : a.isWide = false := by rw [Access.isWide, hwide, Bool.and_false]
    rw [State.beforePerform_narrow hwide] at h0
    subst h0
    rw [← hget] at hl hold
    have hfound : s0.atomicOld o a = old := by simp only [State.atomicOld, hspace, hwide, Bool.false_eq_true, if_false, hl, hold]
    have hmark : s0.atomicMarked o a = false := by
      simp only [State.atomicMarked, hspace, hwide, Bool.false_eq_true, if_false, hl, hpoison]
    have hact := State.actAccess_atomic (State.beforePerform_narrow hwide).symm hkind hacq habs hready hdata hfound
      (hold ▸ Nat.mod_lt _ (Nat.pow_pos (by decide))) hmark (fun h => by rw [hspace] at h; cases h) fun h =>
      absurd h (by rw [hw]; exact Bool.false_ne_true)
    rw [State.atomicPlace_narrow hw] at hact
    obtain ⟨l2, hl2, hbytes, hstep, hhome⟩ := State.atomicStep_narrow hspace hwide hl hmask hold
    rw [hact] at hexec hmild
    rw [hget] at hl2 hbytes
    exact ⟨_, l2, hexec, State.atomicBound_op ((hstep.op _).trans hop'), by rw [State.l1Sector?, State.atomicBound_l1 hwide]; exact hl2, hbytes,
      .of_fields (by rw [State.atomicBound_home, State.atomicBound_weights, State.atomicBound_teams, hhome, hstep.weights, hstep.teams]),
      hmild.regs⟩

/-- Settles O24: atomics issue as `atomics_hold` says, and perform as `atomicsPerform` says. -/
theorem atomicsComplete : Obligations.AtomicsComplete := ⟨atomicsPerform, atomics_hold⟩

end Machine
end Sys2Proof
end

section
/-! PROOFS. O57: which bytes a store changes, and to what. Stores of one merge step are performed in the order of their threads, each without the
bytes that a later one gives (R249); a store at .dv or .sy writes at the home slice (R268); the others only leave their core's path. -/

namespace Sys2Proof
namespace Machine

-- ---------------------------------------------------------------- masks

/-- Taking a set bit out of a number clears that bit alone. -/
theorem testBit_sub_two_pow {m i : Nat} (h : m.testBit i = true) (j : Nat) : (m - 2 ^ i).testBit j = (m.testBit j && decide (j ≠ i)) := by
  obtain ⟨q, r, hr, rfl⟩ : ∃ q r, r < 2 ^ i ∧ m = 2 ^ i * q + r :=
    ⟨m / 2 ^ i, m % 2 ^ i, Nat.mod_lt _ (Nat.two_pow_pos i), (Nat.div_add_mod m (2 ^ i)).symm⟩
  rw [Nat.testBit_two_pow_mul_add _ hr, if_neg (Nat.lt_irrefl i), Nat.sub_self, Nat.testBit_zero, decide_eq_true_eq] at h
  obtain ⟨k, rfl⟩ : ∃ k, q = 2 * k + 1 := ⟨q / 2, by omega⟩
  have hsub : 2 ^ i * (2 * k + 1) + r - 2 ^ i = 2 ^ i * (2 * k) + r := by
    rw [Nat.mul_succ]
    omega
  rw [hsub, Nat.testBit_two_pow_mul_add _ hr, Nat.testBit_two_pow_mul_add _ hr]
  split
  · next hlt => rw [decide_eq_true (by omega), Bool.and_true]
  · next hge =>
    cases hd : j - i with
    | zero =>
      have hji : j = i := by omega
      simp [hji]
    | succ n =>
      rw [decide_eq_true (by omega), Bool.and_true, Nat.testBit_succ, Nat.testBit_succ]
      congr 1
      omega

/-- The bytes of a store that another store gives too are taken from it (R249). -/
theorem bitAt_loseBytes (mine other : Access) (i : Nat) :
    bitAt (loseBytes mine other) i = (bitAt mine.mask i && ! (decide (i < mine.size) && other.gives mine i)) := by
  unfold loseBytes
  induction mine.size with
  | zero => simp
  | succ n ih =>
    rw [List.range_succ, List.foldl_append, List.foldl_cons, List.foldl_nil]
    generalize hm : (List.range n).foldl _ mine.mask = m at ih
    by_cases hn : (other.gives mine n && bitAt m n) = true
    · obtain ⟨hgives, hbit⟩ := Bool.and_eq_true_iff.1 hn
      rw [if_pos hn, bitAt_eq_testBit, testBit_sub_two_pow (by rwa [← bitAt_eq_testBit]), ← bitAt_eq_testBit, ih]
      by_cases hi : i = n
      · subst hi
        simp [hgives]
      · simp [hi, show i < n + 1 ↔ i < n by omega]
    · rw [if_neg hn, ih]
      by_cases hi : i = n
      · subst hi
        simp only [Bool.and_eq_true, not_and, Bool.not_eq_true] at hn
        rw [ih] at hn
        cases hg : other.gives mine i with
        | false => simp
        | true => simpa using hn hg
      · simp [show i < n + 1 ↔ i < n by omega]

/-- A store without the bytes that the stores after it give. -/
def Access.without (a : Access) (rest : List (Op × Access)) : Access := rest.foldl (fun m p => { m with mask := loseBytes m p.2 }) a

theorem Access.without_eq (a : Access) (rest : List (Op × Access)) : a.without rest = { a with mask := (a.without rest).mask } := by
  unfold Access.without
  induction rest generalizing a with
  | nil => rfl
  | cons p ps ih =>
    rw [List.foldl_cons]
    exact ih { a with mask := loseBytes a p.2 }

theorem Access.bitAt_without (a : Access) (rest : List (Op × Access)) (i : Nat) (hi : i < a.size) :
    bitAt (a.without rest).mask i = (bitAt a.mask i && rest.all fun p => ! p.2.gives a i) := by
  unfold Access.without
  induction rest generalizing a with
  | nil => simp
  | cons p ps ih =>
    rw [List.foldl_cons, ih { a with mask := loseBytes a p.2 } hi, List.all_cons]
    dsimp only
    rw [bitAt_loseBytes, decide_eq_true hi, Bool.true_and, Bool.and_assoc]
    rfl

-- ---------------------------------------------------------------- what stores may change

theorem State.storeHome_mild (s : State) (o : Op) (a : Access) : s.Mild (s.storeHome o a) :=
  (State.checkHomeWaiters_mild _ _ _).after ((State.l1Drop_mild _ _ _ _).after ((State.touchFor_mild _ _ _ _).after
    (.home rfl rfl (wf_memWriteMask _ _ _ _))))

theorem State.withOps_mild (s : State) (l : List Op) : s.Mild { s with ops := l } := .inert rfl rfl

theorem State.performStore_mild (s : State) (o : Op) (a : Access) : s.Mild (s.performStore o a) := by
  unfold State.performStore
  exact .ite (.ite (s.clobbered_mild o a) ((State.completeOp_mild _ _).after (s.scratchWrite_mild _ _ _ _ _)))
    (.ite (.ite ((State.completeOp_mild _ _).after (s.beforePerform_mild o a))
        ((State.completeOp_mild _ _).after ((State.storeHome_mild _ _ _).after (s.beforePerform_mild o a))))
      ((State.checkL1Waiters_mild _ _ _ _ _).after ((State.withOps_mild _ _).after (s.dropOp_mild _))))

theorem State.performStores_mild (g : List (Op × Access)) (s : State) : s.Mild (s.performStores g) := by
  induction g generalizing s with
  | nil => exact .rfl
  | cons p ps ih => exact (s.performStore_mild _ _).trans (ih _)

/-- A completed operation changes its thread and the operations in flight. -/
theorem State.completeOp_rest (s : State) (o : Op) :
    ∃ threads ops, s.completeOp o = { s with threads := threads, ops := ops } := ⟨_, _, rfl⟩

-- ---------------------------------------------------------------- stores to a scratchpad

/-- A store of the merge step of a team's scratchpad. -/
def ScratchStore (id : TeamId) (p : Op × Access) : Prop := p.2.space = .s ∧ p.1.thr.teamId = id ∧ p.2.pa = some p.2.va

/-- Whether a store gives the byte at an address. -/
def Access.covers (a : Access) (x : Nat) : Bool := decide (a.va ≤ x) && decide (x < a.va + a.size) && bitAt a.mask (x - a.va)

/-- Of the stores to a scratchpad, one gives a byte of another where it covers its address. -/
theorem ScratchStore.gives_eq {id : TeamId} {p q : Op × Access} (hp : ScratchStore id p) (hq : ScratchStore id q) (i : Nat) :
    q.2.gives p.2 i = q.2.covers (p.2.va + i) := by
  obtain ⟨hps, -, hpa⟩ := hp
  obtain ⟨hqs, -, hqa⟩ := hq
  simp only [Access.gives, Access.addr, hps, hqs, hpa, hqa, Access.covers, decide_true, Bool.true_and]

theorem lastGiving_cons (p : Op × Access) (ps : List (Op × Access)) (x : Nat) :
    lastGiving (p :: ps) x = (lastGiving ps x).or (if p.2.covers x then some p else none) := by
  unfold lastGiving
  rw [List.reverse_cons, List.find?_append, List.find?_singleton]
  rfl

theorem lastGiving_eq_none {ps : List (Op × Access)} {x : Nat} (h : lastGiving ps x = none) : ∀ p ∈ ps, p.2.covers x = false := by
  intro p hp
  have hnone := List.find?_eq_none.1 h p (List.mem_reverse.2 hp)
  exact Bool.not_eq_true _ ▸ hnone

/-- One store to a scratchpad writes its bytes there and no other. -/
theorem State.performStore_scratch {s : State} {id : TeamId} {tm : Team} {o : Op} {a : Access} (ha : ScratchStore id (o, a))
    (htm : s.team? id = some tm) (hwf : Memory.wf tm.scratch = true) (htag : s.tagged id a.va a.size = false) :
    ∃ tm2, (s.performStore o a).team? id = some tm2 ∧ Memory.wf tm2.scratch = true ∧ tm2.tags = tm.tags ∧
      Stored tm.scratch tm2.scratch a.va a.size a.data a.mask ∧ (s.performStore o a).home = s.home ∧
      (s.performStore o a).weights = s.weights ∧ ∀ x, x ≠ id → (s.performStore o a).team? x = s.team? x := by
  obtain ⟨hspace, hteam, -⟩ := ha
  obtain ⟨w, m, hwrite⟩ := s.scratchWrite_eq id a.va a.size a.data a.mask
  have hperform : s.performStore o a = (s.scratchWrite id a.va a.size a.data a.mask).completeOp o := by
    dsimp only at hspace hteam
    rw [State.performStore, if_pos hspace, hteam, htag, if_neg Bool.false_ne_true]
  obtain ⟨threads, ops, hdone⟩ := (s.scratchWrite id a.va a.size a.data a.mask).completeOp_rest o
  have hself : (s.updTeam id fun x => x.scratchWritten a.va a.size a.data a.mask).team? id = some (tm.scratchWritten a.va a.size a.data a.mask) := by
    rw [State.team_updTeam id (fun x : Team => x.scratchWritten a.va a.size a.data a.mask) fun _ => rfl, htm, Option.map_some]
  rw [hperform, hdone, hwrite]
  exact ⟨_, hself, wf_memWriteMask _ _ _ _ hwf, rfl, stored_memWriteMask hwf _ _ _ _, rfl, rfl,
    fun x hx => State.team_updTeam_ne hx (fun x : Team => x.scratchWritten a.va a.size a.data a.mask) fun _ => rfl⟩

theorem State.tagged_of_tags {s s' : State} {id : TeamId} {tm tm' : Team} (htm : s.team? id = some tm) (htm' : s'.team? id = some tm')
    (h : tm'.tags = tm.tags) (off n : Nat) : s'.tagged id off n = s.tagged id off n := by
  simp only [State.tagged, htm, htm', h]

/-- Stores of one merge step to a scratchpad: a byte they share takes the value of the last, which is the highest thread's (R249). -/
theorem State.performStores_scratch {id : TeamId} : ∀ {g : List (Op × Access)} {s : State} {tm : Team}, s.team? id = some tm →
    Memory.wf tm.scratch = true → (∀ p ∈ g, ScratchStore id p) → (∀ p ∈ g, s.tagged id p.2.va p.2.size = false) →
    ∃ tm2, (s.performStores g).team? id = some tm2 ∧ Memory.wf tm2.scratch = true ∧
      (∀ x, cellGet tm2.scratch x = match lastGiving g x with
        | some p => byteAt p.2.data (x - p.2.va)
        | none => cellGet tm.scratch x) ∧
      (s.performStores g).home = s.home ∧ (s.performStores g).weights = s.weights ∧
      ∀ x, x ≠ id → (s.performStores g).team? x = s.team? x
  | [], s, tm, htm, hwf, _, _ => ⟨tm, htm, hwf, fun _ => rfl, rfl, rfl, fun _ _ => rfl⟩
  | (o, a) :: ps, s, tm, htm, hwf, hg, htags => by
    have ha := hg (o, a) (.head _)
    have heq := a.without_eq ps
    have hstore : ScratchStore id (o, a.without ps) := by
      rw [heq]
      exact ha
    have htag : s.tagged id (a.without ps).va (a.without ps).size = false := by
      rw [heq]
      exact htags (o, a) (.head _)
    obtain ⟨tm1, htm1, hwf1, htags1, hstored, hhome1, hweights1, hothers1⟩ := State.performStore_scratch hstore htm hwf htag
    obtain ⟨tm2, htm2, hwf2, hcells, hhome2, hweights2, hothers2⟩ := State.performStores_scratch (g := ps) htm1 hwf1
      (fun p hp => hg p (.tail _ hp)) fun p hp => (State.tagged_of_tags htm htm1 htags1 _ _).trans (htags p (.tail _ hp))
    refine ⟨tm2, htm2, hwf2, fun x => ?_, hhome2.trans hhome1, hweights2.trans hweights1, fun x hx => (hothers2 x hx).trans (hothers1 x hx)⟩
    rw [hcells x, lastGiving_cons]
    cases hlast : lastGiving ps x with
    | some p => rfl
    | none =>
      have hfirst := hstored x
      rw [heq] at hfirst
      dsimp only at hfirst ⊢
      rw [hfirst, Option.none_or]
      have hbit (hin : a.va ≤ x ∧ x < a.va + a.size) : bitAt (a.without ps).mask (x - a.va) = bitAt a.mask (x - a.va) := by
        rw [a.bitAt_without ps _ (by omega), List.all_eq_true.2, Bool.and_true]
        intro p hp
        rw [ha.gives_eq (hg p (.tail _ hp)), show a.va + (x - a.va) = x by omega, lastGiving_eq_none hlast p hp]
        rfl
      by_cases hin : a.va ≤ x ∧ x < a.va + a.size
      · simp only [hbit hin, Access.covers, hin, decide_true, Bool.true_and, true_and]
        split <;> rfl
      · rw [if_neg fun h => hin ⟨h.1, h.2.1⟩, if_neg fun h => hin ?_]
        simp only [Access.covers, Bool.and_eq_true, decide_eq_true_eq] at h
        exact h.1

-- ---------------------------------------------------------------- stores that leave their core's path

/-- A store that leaves its core's path changes no byte (R265). -/
theorem State.performStore_narrow {s : State} {o : Op} {a : Access} (hspace : a.space = .g) (hwide : a.scope.wide = false) :
    s.SameBytes (s.performStore o a) := by
  have hs : a.space ≠ .s := by
    rw [hspace]
    decide
  rw [State.performStore, if_neg hs, hwide, if_neg Bool.false_ne_true]
  have hframe := State.checkL1Waiters_frame { s.dropOp o.id with ops := (s.dropOp o.id).ops ++ [{ o with stage := .core, body := .mem a }] }
    (clusterOf o.core) (fun c => decide (c = o.core)) false (writtenAt (a.pa.getD 0) a.data a.mask)
  refine .of_fields (by rw [hframe.weights, hframe.teams, State.checkL1Waiters_home]; rfl)

theorem State.SameBytes.rfl {s : State} : s.SameBytes s := .of_fields (by rfl)

theorem State.performStores_narrow : ∀ {g : List (Op × Access)} {s : State}, (∀ p ∈ g, p.2.space = .g ∧ p.2.scope.wide = false) →
    s.SameBytes (s.performStores g)
  | [], _, _ => .rfl
  | (o, a) :: ps, s, h => by
    obtain ⟨hspace, hwide⟩ := h (o, a) (.head _)
    have heq := a.without_eq ps
    refine State.SameBytes.trans (s' := s.performStore o (a.without ps)) (State.performStore_narrow ?_ ?_)
      (State.performStores_narrow fun p hp => h p (.tail _ hp))
    · rw [heq]
      exact hspace
    · rw [heq]
      exact hwide

-- ---------------------------------------------------------------- the write-back before a wide store

/-- The write-back of a sector changes no byte of another. -/
theorem State.writeBackSector_outside (s : State) (l : L1Sector) {x : Nat} (h : x / 64 ≠ l.sector) :
    cellGet (s.writeBackSector l).home x = cellGet s.home x := by
  unfold State.writeBackSector
  split
  · rfl
  · dsimp only
    rw [State.checkHomeWaiters_home, State.sliceTouch_home]
    exact cellGet_memWriteMask_outside _ _ _ _ (by omega)

theorem State.writeBack_outside (s : State) (p : L1Sector → Bool) {x : Nat} (h : ∀ l ∈ s.l1, p l = true → x / 64 ≠ l.sector) :
    cellGet (s.writeBack p).home x = cellGet s.home x := by
  have hall : ∀ l ∈ s.l1.filter p, x / 64 ≠ l.sector := fun l hl => h l (List.mem_of_mem_filter hl) (List.of_mem_filter hl)
  show cellGet ((s.l1.filter p).foldl State.writeBackSector s).home x = cellGet s.home x
  clear h
  generalize s.l1.filter p = ls at hall
  induction ls generalizing s with
  | nil => rfl
  | cons l ls ih => exact (ih _ fun l' hl' => hall l' (.tail _ hl')).trans (s.writeBackSector_outside l (hall l (.head _)))

/-- A clean sector is not written back. -/
theorem State.writeBack_clean {s : State} {p : L1Sector → Bool} (h : ∀ l ∈ s.l1, p l = true → l.dirty = 0) : (s.writeBack p).home = s.home := by
  have hall : ∀ l ∈ s.l1.filter p, l.dirty = 0 := fun l hl => h l (List.mem_of_mem_filter hl) (List.of_mem_filter hl)
  have hfold : (s.l1.filter p).foldl State.writeBackSector s = s := by
    generalize s.l1.filter p = ls at hall
    induction ls with
    | nil => rfl
    | cons l ls ih =>
      rw [List.foldl_cons, State.writeBackSector, if_pos (hall l (.head _))]
      exact ih fun l' hl' => hall l' (.tail _ hl')
  show ((s.l1.filter p).foldl State.writeBackSector s).home = s.home
  rw [hfold]

theorem State.sliceTouch_l1 (s : State) (pa group cp : Nat) : (s.sliceTouch pa group cp).l1 = s.l1 := by
  obtain ⟨l, hl⟩ := s.sliceTouch_eq pa group cp
  rw [hl]

/-- The write-back of sectors leaves them clean, and the others as they were. -/
theorem State.writeBack_l1 (s : State) (p : L1Sector → Bool) : (s.writeBack p).l1 = s.l1.map fun x => if p x then { x with dirty := 0 } else x := by
  have hfold (ls : List L1Sector) : (ls.foldl State.writeBackSector s).l1 = s.l1 := by
    induction ls generalizing s with
    | nil => rfl
    | cons l ls ih =>
      refine (ih _).trans ?_
      unfold State.writeBackSector
      split
      · rfl
      · dsimp only
        rw [State.checkHomeWaiters, State.releaseWaiters_l1, State.sliceTouch_l1]
  unfold State.writeBack State.mapL1
  dsimp only
  rw [hfold]

section
variable {s : State} {o : Op} {a : Access}

/-- Only the sector that a store at .dv writes is written back before it (R247). -/
theorem State.beforePerform_outside (h : a.rel = false ∨ a.scope = .dv) {x : Nat} (hx : x / 64 ≠ a.pa.getD 0 / 64) :
    cellGet (s.beforePerform o a).home x = cellGet s.home x := by
  have hflush : (a.rel && decide (a.scope = .sy)) = false := by
    rcases h with hrel | hdv
    · rw [hrel, Bool.false_and]
    · rw [hdv, Bool.and_eq_false_iff]
      exact .inr rfl
  unfold State.beforePerform
  rw [hflush, if_neg Bool.false_ne_true]
  split
  · refine s.writeBack_outside _ fun l _ hl => ?_
    simp only [Bool.and_eq_true, decide_eq_true_eq] at hl
    rwa [hl.2]
  · rfl

/-- Where the L1 of the cluster holds nothing dirty, nothing is written back. -/
theorem State.beforePerform_clean (h : ∀ l ∈ s.l1, l.cluster = clusterOf o.core → l.dirty = 0) : (s.beforePerform o a).home = s.home := by
  have hpush : (s.pushSector (clusterOf o.core) (a.pa.getD 0)).home = s.home := State.writeBack_clean fun l hl hp => by
    simp only [Bool.and_eq_true, decide_eq_true_eq] at hp
    exact h l hl hp.1
  have hstep (s1 : State) (hhome : s1.home = s.home) (hclean : ∀ l ∈ s1.l1, l.cluster = clusterOf o.core → l.dirty = 0) :
      (if a.rel && decide (a.scope = .sy) then s1.flushL1 (clusterOf o.core) else s1).home = s.home := by
    split
    · rw [State.flushL1, State.writeBack_clean fun l hl hp => hclean l hl (by simpa using hp), hhome]
    · exact hhome
  unfold State.beforePerform
  dsimp only
  refine hstep _ ?_ ?_
  · split
    · exact hpush
    · rfl
  · split
    · intro l hl hcluster
      rw [State.pushSector, State.writeBack_l1] at hl
      obtain ⟨y, hy, rfl⟩ := List.mem_map.1 hl
      split at hcluster
      · next hp => rw [if_pos hp]
      · next hp =>
        rw [if_neg hp]
        exact h y hy hcluster
    · exact h

end

-- ---------------------------------------------------------------- stores at the home slice

/-- A store at the home slice writes its bytes and no other (R268). -/
theorem State.storeHome_stored {s : State} (hwf : Memory.wf s.home = true) (o : Op) (a : Access) :
    Stored s.home (s.storeHome o a).home (a.pa.getD 0) a.size a.data a.mask ∧ Memory.wf (s.storeHome o a).home = true ∧
      s.MemoryFrame (s.storeHome o a) := by
  have hhome : (s.storeHome o a).home = memWriteMask s.home (a.pa.getD 0) a.size a.data a.mask := by
    unfold State.storeHome
    dsimp only
    rw [State.checkHomeWaiters_home, State.l1Drop_home, State.touchFor_home]
  rw [hhome]
  refine ⟨stored_memWriteMask hwf _ _ _ _, wf_memWriteMask _ _ _ _ hwf, ?_⟩
  unfold State.storeHome
  exact .after (State.checkHomeWaiters_frame _ _ _) (.after (State.l1Drop_frame _ _ _ _) (.after (State.touchFor_frame _ _ _ _)
    (s.homeMarks_frame _ _)))

theorem stored_nothing (m : List Host.Cell) (pa n v : Nat) : Stored m m pa n v 0 := by
  intro x
  have hbit : bitAt 0 (x - pa) = false := by
    rw [bitAt, Nat.zero_div]
    rfl
  rw [hbit]
  simp

theorem State.performStore_wide {s : State} {o : Op} {a : Access} (hspace : a.space = .g) (hwide : a.scope.wide = true)
    (hwf : Memory.wf s.home = true) :
    Stored (s.beforePerform o a).home (s.performStore o a).home (a.pa.getD 0) a.size a.data a.mask ∧
      Memory.wf (s.performStore o a).home = true ∧ (s.performStore o a).weights = s.weights ∧ (s.performStore o a).teams = s.teams := by
  have hbeforeWf : Memory.wf (s.beforePerform o a).home = true := State.beforePerform_wf hwf
  have hs : a.space ≠ .s := by
    rw [hspace]
    decide
  have hbefore := s.beforePerform_frame o a
  rw [State.performStore, if_neg hs, hwide, if_pos rfl]
  split
  · next hmask =>
    obtain ⟨threads, ops, hdone⟩ := (s.beforePerform o a).completeOp_rest o
    rw [hdone, hmask]
    exact ⟨stored_nothing _ _ _ _, hbeforeWf, hbefore.weights, hbefore.teams⟩
  · obtain ⟨threads, ops, hdone⟩ := ((s.beforePerform o a).storeHome o a).completeOp_rest o
    obtain ⟨hstored, hstoreWf, hstore⟩ := State.storeHome_stored hbeforeWf o a
    rw [hdone]
    exact ⟨hstored, hstoreWf, (hbefore.trans hstore).weights, (hbefore.trans hstore).teams⟩

/-- A .nol1 store that reaches its place writes at the home slice (R250). -/
theorem State.reachL1_home {s : State} {o : Op} {a : Access} (hcp : a.cp = 3) (hpath : s.pathOlder o a = false) (hwf : Memory.wf s.home = true)
    (victim : Nat) : Stored s.home (s.reachL1 o a victim).home (a.pa.getD 0) a.size a.data a.mask ∧
      Memory.wf (s.reachL1 o a victim).home = true ∧ (s.reachL1 o a victim).weights = s.weights ∧ (s.reachL1 o a victim).teams = s.teams := by
  unfold State.reachL1
  dsimp only
  rw [hpath, if_neg Bool.false_ne_true]
  split
  · next hmask =>
    obtain ⟨threads, ops, hdone⟩ := s.completeOp_rest o
    rw [hdone, hmask]
    exact ⟨stored_nothing _ _ _ _, hwf, rfl, rfl⟩
  · obtain ⟨threads, ops, hdone⟩ := (s.storeHome o a).completeOp_rest o
    obtain ⟨hstored, hstoreWf, hstore⟩ := State.storeHome_stored hwf o a
    rw [hdone]
    exact ⟨hstored, hstoreWf, hstore.weights, hstore.teams⟩

theorem State.reachL1_mild (s : State) (o : Op) (a : Access) (victim : Nat) : s.Mild (s.reachL1 o a victim) :=
  .ite .rfl (.ite (s.completeOp_mild o) (.ite ((State.completeOp_mild _ _).after (s.storeHome_mild o a))
    ((State.completeOp_mild _ _).after ((State.checkL1Waiters_mild _ _ _ _ _).after (s.l1Write_mild _ _ _ _ _ _ _ _)))))

-- ---------------------------------------------------------------- the merge step

theorem mem_of_mem_sortBy {α : Type} {lt : α → α → Bool} {x : α} : ∀ {l : List α}, x ∈ sortBy lt l → x ∈ l
  | y :: ys, h => by
    have hinsert (zs : List α) : x ∈ sortBy.insertByFront lt y zs → x = y ∨ x ∈ zs := by
      induction zs with
      | nil => simp [sortBy.insertByFront]
      | cons z zs ih =>
        rw [sortBy.insertByFront]
        split
        · intro hx
          rcases List.mem_cons.1 hx with rfl | hx
          · exact .inr (.head _)
          · exact (ih hx).imp_right (.tail _)
        · exact List.mem_cons.1
    rcases hinsert _ h with rfl | htail
    · exact .head _
    · exact .tail _ (mem_of_mem_sortBy htail)

/-- The stores of a merge step share their space, and in a scratchpad their team. -/
theorem State.mem_mergeGroup {s : State} {o : Op} {a : Access} {p : Op × Access} (h : p ∈ s.mergeGroup o a) :
    p.2.space = a.space ∧ (a.space = .s → p.1.thr.teamId = o.thr.teamId) := by
  have hmem := (List.mem_filter.1 (mem_of_mem_sortBy h)).1
  obtain ⟨x, -, hx⟩ := List.mem_filterMap.1 hmem
  split at hx
  · obtain ⟨b, hb, rfl⟩ := Option.map_eq_some_iff.1 hx
    obtain ⟨-, hkeep⟩ := Option.filter_eq_some_iff.1 hb
    simp only [Bool.and_eq_true, Bool.or_eq_true, decide_eq_true_eq] at hkeep
    obtain ⟨⟨-, hspace⟩, hteam⟩ := hkeep
    exact ⟨hspace, fun hs => hteam.resolve_left (not_not.2 hs)⟩
  · cases hx

section
variable {s : State} {o : Op} {a : Access}

/-- The turn of a store that may be performed with those of its merge step. -/
theorem execStorePerformed_ready (hop : s.op? (s.arg 0) = some o) (hbody : o.body = .mem a) (hstores : a.kind.stores = true)
    (hstage : o.stage = .ready) (hclosed : s.stepClosed o = true) (hmerge : s.mergeWaits o a = false)
    (hready : ∀ p ∈ s.mergeGroup o a, p.2.kind.atomic = false ∧ s.storeReady p.1 p.2 = true) :
    exec .storePerformed s = .next (s.performStores (s.mergeGroup o a)) := by
  have hatomic : ((s.mergeGroup o a).any fun p => p.2.kind.atomic) = false := by
    rw [List.any_eq_false]
    exact fun p hp => by rw [(hready p hp).1]; exact Bool.false_ne_true
  have hall : ((s.mergeGroup o a).all fun p => s.storeReady p.1 p.2) = true := List.all_eq_true.2 fun p hp => (hready p hp).2
  show execStorePerformed s = _
  simp only [execStorePerformed, hop, hbody, hstores, hstage, State.leavePath, hatomic, hclosed, hmerge, hall, Bool.not_true, Bool.or_false,
    Bool.false_eq_true, if_false, if_true]

theorem execStorePerformed_core (hop : s.op? (s.arg 0) = some o) (hbody : o.body = .mem a) (hstores : a.kind.stores = true)
    (hstage : o.stage = .core) : exec .storePerformed s = .next (s.reachL1 o a (s.arg 1)) := by
  have hne : o.stage ≠ .ready := by
    rw [hstage]
    decide
  show execStorePerformed s = _
  simp only [execStorePerformed, hop, hbody, hstores, hstage, Bool.not_true, Bool.false_eq_true, if_false, if_true]
  rfl

end

-- ---------------------------------------------------------------- writes of the device and of cairns

theorem State.homeWrite_stored {s : State} (hwf : Memory.wf s.home = true) (ctx pa n v : Nat) :
    Stored s.home (s.homeWrite ctx pa n v).home pa n v (2 ^ n - 1) ∧ Memory.wf (s.homeWrite ctx pa n v).home = true ∧
      (s.homeWrite ctx pa n v).weights = s.weights ∧ (s.homeWrite ctx pa n v).teams = s.teams ∧
      memRead (s.homeWrite ctx pa n v).home pa n = v % 256 ^ n := by
  obtain ⟨l, w, t, h⟩ := s.homeWriteBy_eq (s.wayGroup ctx) pa n v
  rw [State.homeWrite, h]
  exact ⟨stored_memWriteMask hwf _ _ _ _, wf_memWrite _ _ _ hwf, rfl, rfl, memRead_memWrite hwf _ _ _⟩

/-- A team whose cairn has been put. -/
def Team.withCairn (tm : Team) (off n : Nat) (c : CairnObj) : Team := { tm with scratch := memWrite tm.scratch off n c.value }

theorem State.putCairn_stored {s : State} {id : TeamId} {off : Nat} {c : CairnObj} {tm : Team} (htm : s.team? id = some tm)
    (hwf : Memory.wf tm.scratch = true) :
    ∃ tm2, (s.putCairn id off c).team? id = some tm2 ∧ Stored tm.scratch tm2.scratch off 32 c.value (2 ^ 32 - 1) ∧
      Memory.wf tm2.scratch = true ∧ (s.putCairn id off c).home = s.home ∧ ∀ x, x ≠ id → (s.putCairn id off c).team? x = s.team? x := by
  rw [State.putCairn]
  generalize 32 = n
  have hself : (s.updTeam id fun tm => tm.withCairn off n c).team? id = some (tm.withCairn off n c) := by
    rw [State.team_updTeam id (fun tm : Team => tm.withCairn off n c) fun _ => rfl, htm, Option.map_some]
  exact ⟨_, hself, stored_memWriteMask hwf _ _ _ _, wf_memWrite _ _ _ hwf, rfl,
    fun x hx => State.team_updTeam_ne hx (fun tm : Team => tm.withCairn off n c) fun _ => rfl⟩

-- ---------------------------------------------------------------- the claim

/-- Settles O57: the stores of a merge step by their space, the .nol1 store, the device's writes and those of cairns. -/
theorem storesWriteTheirBytes : Obligations.StoresWriteTheirBytes := by
  unfold Obligations.StoresWriteTheirBytes
  refine ⟨fun s o a hop hbody hstores => ⟨?ready, ?nol1⟩, ?device, ?cairn⟩
  case ready =>
    rintro g rfl hstage hclosed hmerge hready
    have hexec := execStorePerformed_ready hop hbody hstores hstage hclosed hmerge hready
    have hregs := (State.performStores_mild (s.mergeGroup o a) s).regs
    refine ⟨hexec, ?scratch, ?wide, ?narrow⟩
    case scratch =>
      intro tm hspace htm hg hwf
      have hstep : ∀ p ∈ s.mergeGroup o a, ScratchStore o.thr.teamId p := fun p hp =>
        ⟨(State.mem_mergeGroup hp).1.trans hspace, (State.mem_mergeGroup hp).2 hspace, (hg p hp).2⟩
      obtain ⟨tm2, htm2, hwf2, hcells, hhome, hweights, hothers⟩ := State.performStores_scratch htm hwf hstep fun p hp => (hg p hp).1
      exact ⟨tm2, htm2, hwf2, hcells, hhome, hweights, hothers, hregs⟩
    case wide =>
      intro pa hspace hwide hg hpa hwf
      rw [hg] at hexec hregs
      have hget : a.pa.getD 0 = pa := by rw [hpa, Option.getD_some]
      obtain ⟨hstored, hwf2, hweights, hteams⟩ := State.performStore_wide (o := o) hspace hwide hwf
      rw [hget] at hstored
      exact ⟨_, hexec, hstored, hwf2, hweights, hteams, hregs, fun hdv x hx => State.beforePerform_outside hdv (hget ▸ hx),
        State.beforePerform_clean⟩
    case narrow =>
      exact fun hspace hnarrow => ⟨State.performStores_narrow fun p hp => ⟨(State.mem_mergeGroup hp).1.trans hspace, hnarrow p hp⟩, hregs⟩
  case nol1 =>
    intro pa hspace hwide hstage hcp hpa hpath hwf
    have hget : a.pa.getD 0 = pa := by rw [hpa, Option.getD_some]
    obtain ⟨hstored, hwf2, hweights, hteams⟩ := State.reachL1_home hcp hpath hwf (s.arg 1)
    rw [hget] at hstored
    exact ⟨_, execStorePerformed_core hop hbody hstores hstage, hstored, hwf2, hweights, hteams, (s.reachL1_mild o a _).regs⟩
  case device => exact fun s ctx pa n v hwf => State.homeWrite_stored hwf ctx pa n v
  case cairn => exact fun s id off c tm htm hwf => State.putCairn_stored htm hwf

end Machine
end Sys2Proof
end

section
/-! PROOFS. The deposits and the firing of the collectives (R201 to R206). -/

namespace Sys2Proof
namespace Machine

-- ---------------------------------------------------------------- deposits

/-- A collective whose effect deposits its operands puts them into its member (R201). -/
theorem deposits_of_body {i : Instr} {form : Thread → Issue} {n : Nat} {k : CollKind} {s : State} {t : Thread} {tm : Team} {a b : Nat}
    {dests : List Nat} (body : Args → State → Res) (h : s.Issues t (form t)) (hid : tm.id = t.id.teamId) (hteam : s.team? tm.id = some tm)
    (hdep : tm.depositable n t.id.rank) (hexec : exec i s = issue s form body)
    (hbody : body (s.argsOf t (form t)) (s.committed t (form t)) =
      Machine.depositIn s (s.committed t (form t)) (s.argsOf t (form t)) n k a b dests) :
    Deposits i (form t) n k s t tm a b dests := by
  obtain ⟨tm2, hteam2, hcr⟩ := status_committed (form := form t) hid hteam n
  obtain ⟨hstatus, hnone⟩ := hdep
  refine hexec.trans (issue_ok h (hbody.trans ?_) (h.room_fall (State.setCr_fall _ _ _ _)))
  unfold Machine.depositIn
  simp only [State.argsOf_t, hteam2, hcr, hnone, hid]
  rcases hstatus with hstatus | hstatus <;> rw [hstatus] <;> rfl

/-- The shuffles deposit their operand and their selector (R202). -/
theorem shuffle_deposits {i : Instr} {mode d a b n : Nat} {l m : Bool} {s : State} {t : Thread} {tm : Team} (hid : tm.id = t.id.teamId)
    (hteam : s.team? tm.id = some tm) (h : s.Issues t (shuffleForm t d a l b m n)) (hdep : tm.depositable n t.id.rank)
    (hexec : exec i s = shuffleWord mode d a l b m n s) :
    Deposits i (shuffleForm t d a l b m n) n (.shuffle mode) s t tm (srcOf t (shuffleForm t d a l b m n) 0)
      (srcOf t (shuffleForm t d a l b m n) 1) [d] :=
  deposits_of_body (form := fun t => shuffleForm t d a l b m n) _ h hid hteam hdep hexec rfl

/-- The words with one operand deposit it (R203 to R205). -/
theorem collWord_deposits {i : Instr} {k : CollKind} {rm n : Nat} {D A : Src} {l : Bool} {s : State} {t : Thread} {tm : Team}
    (hid : tm.id = t.id.teamId) (hteam : s.team? tm.id = some tm) (h : s.Issues t (collForm t D A l rm n))
    (hdep : tm.depositable n t.id.rank) (hexec : exec i s = collWord k rm D A l n s) :
    Deposits i (collForm t D A l rm n) n k s t tm (srcOf t (collForm t D A l rm n) 0) 0 D.regs :=
  deposits_of_body (form := fun t => collForm t D A l rm n) _ h hid hteam hdep hexec rfl

/-- A vote deposits its predicate (R204). -/
theorem vote_deposits {d a o n : Nat} {s : State} {t : Thread} {tm : Team} (hid : tm.id = t.id.teamId)
    (hteam : s.team? tm.id = some tm) (h : s.Issues t (voteForm t d a o n)) (hdep : tm.depositable n t.id.rank) :
    Deposits (.xvote d a o n) (voteForm t d a o n) n (.vote o) s t tm (t.pred a).toNat 0 (Src.mk d (if o = 3 then 2 else 1)).regs :=
  deposits_of_body (form := fun t => voteForm t d a o n) _ h hid hteam hdep rfl rfl

/-- The width of a reduction's operand in registers. -/
theorem redShape_eq (o r : Nat) : redShape o r = ⟨r, if 11 ≤ o then 2 else 1⟩ := by
  unfold redShape redWidth
  split <;> rfl

/-- The rows of R202 to R205 deposit. -/
theorem collectiveRows_deposit (d a : Nat) (l : Bool) (b : Nat) (m w h : Bool) (o n : Nat) :
    ∀ r ∈ collectiveRows d a l b m w h o n, ∀ (s : State) (t : Thread) (tm : Team), tm.id = t.id.teamId → s.team? tm.id = some tm →
      s.Issues t (r.form t) → tm.depositable n t.id.rank → Deposits r.instr (r.form t) n r.kind s t tm (r.a t) (r.b t) r.dests := by
  have hred {i : Instr} {s : State} {k : CollKind} (hexec : exec i s = collWord k (redRm o) (redShape o d) (redShape o a) l n s) :
      exec i s = collWord k (if 8 ≤ o then 1 else 0) ⟨d, if 11 ≤ o then 2 else 1⟩ ⟨a, if 11 ≤ o then 2 else 1⟩ l n s := by
    rw [hexec, redShape_eq, redShape_eq, redRm]
  simp only [collectiveRows, List.forall_mem_cons, List.not_mem_nil, false_imp_iff, implies_true, and_true]
  refine ⟨?idx, ?up, ?down, ?xor, ?bcast, ?red, ?inc, ?exc, ?vote⟩ <;> intro s t tm hid hteam hissues hdep
  case idx => exact shuffle_deposits hid hteam hissues hdep rfl
  case up => exact shuffle_deposits hid hteam hissues hdep rfl
  case down => exact shuffle_deposits hid hteam hissues hdep rfl
  case xor => exact shuffle_deposits hid hteam hissues hdep rfl
  case bcast => exact collWord_deposits hid hteam hissues hdep rfl
  case red => exact collWord_deposits hid hteam hissues hdep (hred rfl)
  case inc => exact collWord_deposits hid hteam hissues hdep (hred rfl)
  case exc => exact collWord_deposits hid hteam hissues hdep (hred rfl)
  case vote => exact vote_deposits hid hteam hissues hdep

-- ---------------------------------------------------------------- the firing of a phase

/-- A deposit with the rank of its member. -/
def Member.ranked (m : Member) : Option (Nat × Deposit) := m.dep.map fun d => (m.rank, d)

/-- The participants of a firing with their deposits: those not of the matrix family, whichever is asked first. -/
theorem participants_eq (ms : List Member) :
    (ms.filter fun m => ! m.isMatrix).filterMap Member.ranked = (ms.filterMap Member.ranked).filter fun p => ! p.2.isMatrix := by
  induction ms with
  | nil => rfl
  | cons m ms ih =>
    cases hd : m.dep with
    | none =>
      have hm : m.isMatrix = false := by rw [Member.isMatrix, hd]
      have hr : m.ranked = none := by rw [Member.ranked, hd]; rfl
      rw [List.filter_cons_of_pos (by rw [hm]; rfl), List.filterMap_cons_none hr, List.filterMap_cons_none hr, ih]
    | some d =>
      have hm : m.isMatrix = d.isMatrix := by rw [Member.isMatrix, hd]
      have hr : m.ranked = some (m.rank, d) := by rw [Member.ranked, hd]; rfl
      cases hx : d.isMatrix with
      | false =>
        rw [List.filter_cons_of_pos (by rw [hm, hx]; rfl), List.filterMap_cons_some hr, List.filterMap_cons_some hr,
          List.filter_cons_of_pos (by simp [hx]), ih]
      | true =>
        rw [List.filter_cons_of_neg (by simp [hm, hx]), List.filterMap_cons_some hr, List.filter_cons_of_neg (by simp [hx]), ih]

/-- The lowest participant is the first of the signed members. -/
theorem lowest_member {ms : List Member} {lowest : Nat × Deposit}
    (h : ((ms.filter fun m => m.dep.any (·.signed)).filterMap Member.ranked).head? = some lowest) :
    ∃ m, (ms.filter fun m => m.dep.any (·.signed)).head? = some m ∧ m.dep = some lowest.2 := by
  cases hparts : ms.filter fun m => m.dep.any (·.signed) with
  | nil => rw [hparts] at h; cases h
  | cons m rest =>
    have hm : m ∈ ms.filter fun m => m.dep.any (·.signed) := hparts ▸ List.mem_cons_self
    have hsigned := (List.mem_filter.1 hm).2
    cases hd : m.dep with
    | none => rw [hd] at hsigned; cases hsigned
    | some d =>
      have hr : m.ranked = some (m.rank, d) := by rw [Member.ranked, hd]; rfl
      rw [hparts, List.filterMap_cons_some hr] at h
      cases h
      exact ⟨m, rfl, hd⟩

/-- A result of a firing is started under the next number (R201). -/
theorem State.collOp_eq (s : State) (tm : Team) (k : CollKind) (rank : Nat) (d : Deposit) (r : Nat × Nat) :
    s.collOp tm.id (s.now tm.core) k rank d r = s.withResults [s.firedOp tm k s.nextId rank d r] 1 := rfl

/-- Results already started do not change those still to start. -/
theorem State.firedOp_withResults (s : State) (l : List Op) (j : Nat) (tm : Team) (k : CollKind) (id rank : Nat) (d : Deposit) (r : Nat × Nat) :
    (s.withResults l j).firedOp tm k id rank d r = s.firedOp tm k id rank d r := rfl

/-- The results of a firing are started one after the other, under the next numbers (R201). -/
theorem foldl_collOp (tm : Team) (k : CollKind) (now : Nat) (f : Nat × Deposit → Nat × Nat) (ps : List (Nat × Deposit)) (s : State)
    (hnow : s.now tm.core = now) :
    ps.foldl (fun s p => s.collOp tm.id now k p.1 p.2 (f p)) s =
      s.withResults (ps.zipIdx.map fun q => s.firedOp tm k (s.nextId + q.2) q.1.1 q.1.2 (f q.1)) ps.length := by
  subst hnow
  induction ps generalizing s with
  | nil => simp [State.withResults]
  | cons p ps ih =>
    have htail := ih (s.withResults [s.firedOp tm k s.nextId p.1 p.2 (f p)] 1)
    rw [List.foldl_cons, State.collOp_eq]
    refine htail.trans ?_
    rw [List.zipIdx_cons', List.map_cons, List.map_map]
    simp only [State.firedOp_withResults]
    simp only [State.withResults, List.append_assoc, List.singleton_append, List.length_cons, Function.comp_def, Prod.map, id_eq,
      Nat.add_zero, Nat.add_assoc, Nat.add_comm 1]

/-- The latencies of the collectives (R116, R117). -/
theorem collective_latencies (mode o : Nat) (x : Bool) :
    (CollKind.shuffle mode).latency = 12 ∧ (CollKind.bcast x x).latency = 12 ∧ (CollKind.vote o).latency = 8 ∧
    (CollKind.red o).latency = (if o < 11 then 20 else 28) ∧ (CollKind.scan x o).latency = (if o < 11 then 20 else 28) := by
  refine ⟨rfl, rfl, rfl, ?_, ?_⟩ <;> simp only [CollKind.latency] <;> split <;> split <;> omega

/-- What a firing collects when its lowest participant deposited a collective (R199, R201). -/
theorem State.collect_collective {s : State} {tm : Team} {ranks : List Nat} {ms parts : List Member} {ps : List (Nat × Deposit)}
    {lowest : Nat × Deposit} (hparts : parts = ms.filter fun m => m.dep.any (·.signed))
    (hlowest : (parts.filterMap Member.ranked).head? = some lowest) (hmatrix : lowest.2.isMatrix = false)
    (hps : ps = (parts.filterMap Member.ranked).filter fun p => ! p.2.isMatrix) :
    s.collect tm.id (s.now tm.core) ranks ms = (parts.filter Member.isMatrix).foldl (fun s m => s.misfit tm.id m)
      (s.withResults (ps.zipIdx.map fun q => s.firedOp tm lowest.2.kind (s.nextId + q.2) q.1.1 q.1.2
        (collResult lowest.2.kind ranks ps q.1.1 q.1.2)) ps.length) := by
  subst hparts
  obtain ⟨m, hhead, hdep⟩ := lowest_member hlowest
  rw [← foldl_collOp tm lowest.2.kind _ (fun p => collResult lowest.2.kind ranks ps p.1 p.2) ps s rfl, hps, ← participants_eq]
  unfold State.collect
  extract_lets signed heard
  have hsigned : signed = ms.filter fun m => m.dep.any (·.signed) := List.filter_congr fun m _ => by cases m.dep <;> rfl
  have hheard : heard = (signed.filter fun m => ! m.isMatrix).filterMap Member.ranked := rfl
  rw [hsigned] at hheard
  simp only [hsigned, hheard, hhead, hdep]
  cases hkind : lowest.2.kind with
  | matrix kind tile slot => rw [Deposit.isMatrix, hkind] at hmatrix; cases hmatrix
  | shuffle mode => rfl
  | bcast hi pair => rfl
  | red o => rfl
  | scan excl o => rfl
  | vote o => rfl

/-- Somebody has signed in a complete set (R199). -/
theorem ConvReg.complete_not_withdrawn {c : ConvReg} (h : c.complete = true) :
    ¬ (c.members.all fun m => decide (m.st = .withdrawn)) = true := by
  intro hall
  obtain ⟨m, hm, hsigned⟩ := List.any_eq_true.1 (Bool.and_eq_true_iff.1 h).1
  have hst := of_decide_eq_true (List.all_eq_true.1 hall m hm)
  rw [hst] at hsigned
  cases hsigned

/-- A complete set whose lowest participant deposited a collective fires it (R199, R201). -/
theorem settle_fires {s : State} {tm : Team} {n : Nat} {c : ConvReg} {ranks : List Nat} {parts : List Member} {ps : List (Nat × Deposit)}
    {lowest : Nat × Deposit} (hteam : s.team? tm.id = some tm) (hc : c = tm.cr n) (hkind : c.kind ≠ .free) (hcomplete : c.complete = true)
    (hranks : ranks = c.members.map (·.rank)) (hparts : parts = c.members.filter (fun m => m.dep.any (·.signed)))
    (hlowest : (parts.filterMap Member.ranked).head? = some lowest) (hmatrix : lowest.2.isMatrix = false)
    (hps : ps = (parts.filterMap Member.ranked).filter (fun p => ! p.2.isMatrix)) :
    s.settle tm.id n = ((((parts.filter Member.isMatrix).foldl (fun s m => s.misfit tm.id m)
      (s.withResults ((ps.zipIdx).map fun q => s.firedOp tm lowest.2.kind (s.nextId + q.2) q.1.1 q.1.2 (collResult lowest.2.kind ranks ps q.1.1 q.1.2))
        ps.length)).setCr tm.id n (c.fired)).clearSigned tm.id n ranks) := by
  subst hc hranks
  rw [← State.collect_collective hparts hlowest hmatrix hps]
  simp only [State.settle, hteam]
  rw [if_neg hkind, if_neg (ConvReg.complete_not_withdrawn hcomplete), if_pos hcomplete]
  rfl

-- ---------------------------------------------------------------- the values

/-- The position of a member is the number of the members of lower rank (R184). -/
theorem posIn_eq_posOf {ranks : List Nat} {r : Nat} (hsorted : ranks.Pairwise (· < ·)) (hr : r ∈ ranks) : posIn ranks r = posOf ranks r := by
  induction ranks with
  | nil => cases hr
  | cons q qs ih =>
    obtain ⟨hq, hqs⟩ := List.pairwise_cons.1 hsorted
    unfold posIn posOf
    rcases List.mem_cons.1 hr with rfl | hr
    · have hnone : qs.filter (fun x => decide (x < r)) = [] := List.filter_eq_nil_iff.2 fun x hx => by have := hq x hx; simp; omega
      rw [List.findIdx_cons, List.filter_cons_of_neg (by simp), hnone]
      simp
    · have hlt := hq r hr
      rw [List.findIdx_cons, List.filter_cons_of_pos (by simpa using hlt), decide_eq_false (Nat.ne_of_lt hlt), List.length_cons]
      exact congrArg (· + 1) (ih hqs hr)

/-- The lesser of two words, unsigned (R148). -/
theorem minMax_unsigned_min (w a b : Nat) : minMax w false false a b = min a b := by
  unfold minMax
  rcases Nat.lt_or_ge a b with h | h
  · simp [h, Nat.min_eq_left h.le]
  · simp [h, Nat.not_lt.2 h]

/-- The greater of two words, unsigned (R148). -/
theorem minMax_unsigned_max (w a b : Nat) : minMax w false true a b = max a b := by
  unfold minMax
  rcases Nat.lt_or_ge a b with h | h
  · simp [h, Nat.max_eq_right h.le]
  · simp [h, Nat.not_lt.2 h]

/-- The lesser of two words, signed (R148). -/
theorem minMax_signed_min (w a b : Nat) : minMax w true false a b = if sext a w < sext b w then a else b := by
  unfold minMax
  rcases lt_or_ge (sext a w) (sext b w) with h | h
  · simp only [h, decide_true, if_true]
    rfl
  · simp only [Int.not_lt.2 h, decide_false, if_true, if_false]
    rfl

/-- The greater of two words, signed (R148). -/
theorem minMax_signed_max (w a b : Nat) : minMax w true true a b = if sext a w < sext b w then b else a := by
  unfold minMax
  rcases lt_or_ge (sext a w) (sext b w) with h | h
  · simp only [h, decide_true, if_true]
    rfl
  · simp only [Int.not_lt.2 h, decide_false, if_true, if_false]
    rfl

/-- One step of a fold is that of its operation (R205). -/
theorem redStep_eq (o mode acc x : Nat) : redStep o mode acc x = foldRule o mode acc x := by
  match o with
  | 0 => rfl
  | 1 => exact congrArg (·, 0) (minMax_signed_min 32 acc x)
  | 2 => exact congrArg (·, 0) (minMax_signed_max 32 acc x)
  | 3 => exact congrArg (·, 0) (minMax_unsigned_min 32 acc x)
  | 4 => exact congrArg (·, 0) (minMax_unsigned_max 32 acc x)
  | 5 | 6 | 7 | 8 | 9 | 10 | 11 | 12 => rfl
  | _ + 13 => rfl

/-- The steps of a fold, from the left (R205). -/
theorem foldSteps_eq (o mode : Nat) (xs : List Nat) (acc f : Nat) : foldSteps o mode acc f xs =
    xs.foldl (fun acc y => ((foldRule o mode acc.1 y).1, acc.2 ||| (foldRule o mode acc.1 y).2)) (acc, f) := by
  induction xs generalizing acc f with
  | nil => rfl
  | cons x xs ih => simp only [foldSteps, redStep_eq, ih, List.foldl_cons]

/-- The identity of an operation is that of R203. -/
theorem redIdentity_eq {o : Nat} (ho : o < 14) : redIdentity o = foldIdentity o := by
  interval_cases o <;> rfl

/-- A fold of deposits is that of R205. -/
theorem foldRed_eq {o : Nat} (ho : o < 14) (mode : Nat) (xs : List Nat) : foldRed o mode xs = foldOver o mode xs := by
  cases xs with
  | nil => exact congrArg (·, 0) (redIdentity_eq ho)
  | cons x xs => exact foldSteps_eq o mode xs x 0

/-- The participants of a lower rank stand before a participant, those of a rank no higher up to it. -/
theorem take_findIdx {ps : List (Nat × Deposit)} {r : Nat} {d : Deposit} (hsorted : ps.Pairwise (fun p q => p.1 < q.1)) (hr : (r, d) ∈ ps) :
    ps.take (ps.findIdx fun p => decide (p.1 = r)) = ps.filter (fun p => decide (p.1 < r)) ∧
    ps.take ((ps.findIdx fun p => decide (p.1 = r)) + 1) = ps.filter (fun p => decide (p.1 ≤ r)) := by
  induction ps with
  | nil => cases hr
  | cons p ps ih =>
    obtain ⟨hp, hps⟩ := List.pairwise_cons.1 hsorted
    rcases List.mem_cons.1 hr with rfl | hr
    · have hlt : ps.filter (fun x => decide (x.1 < r)) = [] := List.filter_eq_nil_iff.2 fun x hx => by have := hp x hx; simp; omega
      have hle : ps.filter (fun x => decide (x.1 ≤ r)) = [] := List.filter_eq_nil_iff.2 fun x hx => by have := hp x hx; simp; omega
      rw [List.findIdx_cons, List.filter_cons_of_neg (by simp), List.filter_cons_of_pos (by simp), hlt, hle]
      simp
    · have hlt := hp _ hr
      obtain ⟨ihlt, ihle⟩ := ih hps hr
      rw [List.findIdx_cons, List.filter_cons_of_pos (by simpa using hlt), List.filter_cons_of_pos (by simpa using hlt.le),
        decide_eq_false (Nat.ne_of_lt hlt), ← ihlt, ← ihle]
      exact ⟨rfl, rfl⟩

/-- The width of a reduction (R203). -/
theorem redWidth_eq (o : Nat) : redWidth o = if o < 11 then 32 else 64 := by
  unfold redWidth
  split <;> split <;> omega

/-- One participant of a rank. -/
theorem participant_unique {ps : List (Nat × Deposit)} {r : Nat} {d e : Deposit} (hsorted : ps.Pairwise (fun p q => p.1 < q.1))
    (hd : (r, d) ∈ ps) (he : (r, e) ∈ ps) : d = e := by
  induction ps with
  | nil => cases hd
  | cons p ps ih =>
    obtain ⟨hp, hps⟩ := List.pairwise_cons.1 hsorted
    rcases List.mem_cons.1 hd with hd | hd <;> rcases List.mem_cons.1 he with he | he
    · exact (Prod.mk.inj (hd.trans he.symm)).2
    · exact absurd (hp _ he) (hd ▸ Nat.lt_irrefl _)
    · exact absurd (hp _ hd) (he ▸ Nat.lt_irrefl _)
    · exact ih hps hd he

/-- Adding a power of two to a number without that bit sets the bit alone. -/
theorem testBit_add_two_pow {x i : Nat} (h : x.testBit i = false) (j : Nat) : (x + 2 ^ i).testBit j = (x.testBit j || decide (j = i)) := by
  have hbit : (x + 2 ^ i).testBit i = true := by rw [Nat.add_comm, Nat.testBit_two_pow_add_eq, h]; rfl
  have hsub := testBit_sub_two_pow hbit j
  rw [Nat.add_sub_cancel] at hsub
  by_cases hj : j = i
  · subst hj
    rw [hbit, decide_eq_true rfl, Bool.or_true]
  · rw [hsub, decide_eq_true hj, decide_eq_false hj, Bool.and_true, Bool.or_false]

/-- What a shuffle gives, by its source position (R202). -/
theorem collResult_shuffle {mode : Nat} (hmode : mode < 4) (ranks : List Nat) (ps : List (Nat × Deposit)) (r : Nat) (d : Deposit) :
    collResult (.shuffle mode) ranks ps r d =
      (let src := shuffleSource mode (posIn ranks r) (d.b % 2 ^ 14)
      if src < 0 ∨ (ranks.length : Int) ≤ src then (d.a % 2 ^ 32, 0)
      else match ps.find? fun p => decide (p.1 = nth ranks src.toNat 0) with
        | some p => (p.2.a % 2 ^ 32, 0)
        | none => (d.a % 2 ^ 32, 0)) := by
  interval_cases mode <;> rfl

/-- A shuffle reads the participant at its source position (R202). -/
theorem shuffle_reads {mode r q : Nat} {ranks : List Nat} {ps : List (Nat × Deposit)} {d e : Deposit} (hmode : mode < 4)
    (hsorted : ps.Pairwise fun p q => p.1 < q.1) {src : Int} (hsrc : src = shuffleSource mode (posIn ranks r) (d.b % 2 ^ 14))
    (h0 : 0 ≤ src) (hq : ranks[src.toNat]? = some q) (he : (q, e) ∈ ps) :
    collResult (.shuffle mode) ranks ps r d = (e.a % 2 ^ 32, 0) := by
  have hlt : src.toNat < ranks.length := (List.getElem?_eq_some_iff.1 hq).1
  have hnth : nth ranks src.toNat 0 = q := by rw [nth, List.getD_eq_getElem?_getD, hq]; rfl
  obtain ⟨p, hp⟩ : ∃ p, ps.find? (fun p => decide (p.1 = q)) = some p :=
    Option.isSome_iff_exists.1 (List.find?_isSome.2 ⟨_, he, decide_eq_true rfl⟩)
  have hpq : p.1 = q := by simpa using List.find?_some hp
  have hpe : p.2 = e := participant_unique hsorted (List.mem_of_find?_eq_some hp) (hpq ▸ he)
  rw [collResult_shuffle hmode, ← hsrc]
  dsimp only
  rw [if_neg (by omega), hnth, hp]
  exact congrArg (fun x : Deposit => (x.a % 2 ^ 32, 0)) hpe

/-- A shuffle without a participant at its source keeps its own value (R202). -/
theorem shuffle_keeps {mode r : Nat} {ranks : List Nat} {ps : List (Nat × Deposit)} {d : Deposit} (hmode : mode < 4) {src : Int}
    (hsrc : src = shuffleSource mode (posIn ranks r) (d.b % 2 ^ 14))
    (h : src < 0 ∨ (ranks.length : Int) ≤ src ∨ ∀ q e, ranks[src.toNat]? = some q → (q, e) ∉ ps) :
    collResult (.shuffle mode) ranks ps r d = (d.a % 2 ^ 32, 0) := by
  rw [collResult_shuffle hmode, ← hsrc]
  dsimp only
  split
  · rfl
  · next hin =>
    have hlt : src.toNat < ranks.length := by omega
    have hget : ranks[src.toNat]? = some ranks[src.toNat] := List.getElem?_eq_getElem hlt
    have hnth : nth ranks src.toNat 0 = ranks[src.toNat] := by rw [nth, List.getD_eq_getElem?_getD, hget]; rfl
    have hnone : ps.find? (fun p => decide (p.1 = ranks[src.toNat])) = none := by
      refine List.find?_eq_none.2 fun p hp hrank => ?_
      have habsent := (h.resolve_left (by omega)).resolve_left (by omega) _ p.2 hget
      exact habsent (by rw [← of_decide_eq_true hrank]; exact hp)
    rw [hnth, hnone]

/-- The participants that deposited 1 in a vote (R204). -/
def truesOf (ps : List (Nat × Deposit)) : List (Nat × Deposit) := ps.filter fun p => decide (p.2.a % 2 = 1)

/-- Adding distinct powers of two sets their bits. -/
theorem testBit_foldl_add (base : Nat) {l : List Nat} (hl : l.Nodup) (hbase : ∀ p ∈ l, base ≤ p) (x : Nat)
    (hx : ∀ p ∈ l, x.testBit (p - base) = false) (j : Nat) :
    (l.foldl (fun x p => x + 2 ^ (p - base)) x).testBit j = (x.testBit j || decide (base + j ∈ l)) := by
  induction l generalizing x with
  | nil => simp
  | cons p l ih =>
    obtain ⟨hp, hl⟩ := List.nodup_cons.1 hl
    have hadd (i : Nat) : (x + 2 ^ (p - base)).testBit i = (x.testBit i || decide (i = p - base)) := testBit_add_two_pow (hx p List.mem_cons_self) i
    have hbp := hbase p List.mem_cons_self
    rw [List.foldl_cons, ih hl (fun q hq => hbase q (List.mem_cons_of_mem _ hq)) _ fun q hq => ?_, hadd, Bool.or_assoc]
    · congr 1
      rw [← Bool.decide_or, decide_eq_decide, List.mem_cons]
      exact or_congr_left (by omega)
    · have hbq := hbase q (List.mem_cons_of_mem _ hq)
      rw [hadd, hx q (List.mem_cons_of_mem _ hq), Bool.false_or, decide_eq_false]
      intro he
      exact hp ((show p = q by omega) ▸ hq)

/-- Members at one position are one member. -/
theorem posIn_injective {ranks : List Nat} {p q : Nat} (hp : p ∈ ranks) (hq : q ∈ ranks) (h : posIn ranks p = posIn ranks q) : p = q := by
  have hget {x : Nat} (hx : x ∈ ranks) : ranks[posIn ranks x]? = some x := by
    have hlt : posIn ranks x < ranks.length := List.findIdx_lt_length_of_exists ⟨x, hx, decide_eq_true rfl⟩
    rw [List.getElem?_eq_getElem hlt]
    exact congrArg some (of_decide_eq_true (List.findIdx_getElem (w := hlt)))
  exact Option.some.inj ((hget hp).symm.trans (h ▸ hget hq))

/-- Whether all participants deposited 1 (R204). -/
theorem truesOf_all (ps : List (Nat × Deposit)) : (truesOf ps).length = ps.length ↔ ∀ p ∈ ps, p.2.a % 2 = 1 := by
  unfold truesOf
  rw [List.length_filter_eq_length_iff]
  simp

/-- Whether no participant deposited 1 (R204). -/
theorem truesOf_none (ps : List (Nat × Deposit)) : (truesOf ps).length = 0 ↔ ∀ p ∈ ps, p.2.a % 2 = 0 := by
  unfold truesOf
  rw [List.length_eq_zero_iff, List.filter_eq_nil_iff]
  simp

/-- The four votes over the participants that deposited 1 (R204). -/
theorem collResult_vote_all (ranks : List Nat) (ps : List (Nat × Deposit)) (r : Nat) (d : Deposit) :
    collResult (.vote 0) ranks ps r d = ((if (truesOf ps).length = ps.length then 1 else 0), 0) :=
  congrArg (fun n : Nat => ((if n = ps.length then 1 else 0), 0)) (List.length_map _)

theorem collResult_vote_any (ranks : List Nat) (ps : List (Nat × Deposit)) (r : Nat) (d : Deposit) :
    collResult (.vote 1) ranks ps r d = ((if (truesOf ps).length = 0 then 0 else 1), 0) :=
  congrArg (fun n : Nat => ((if n = 0 then 0 else 1), 0)) (List.length_map _)

theorem collResult_vote_count (ranks : List Nat) (ps : List (Nat × Deposit)) (r : Nat) (d : Deposit) :
    collResult (.vote 2) ranks ps r d = ((truesOf ps).length, 0) :=
  congrArg (·, 0) (List.length_map _)

/-- The positions of the votes for 1 in the word of a participant (R204). -/
def ballot (ranks : List Nat) (ps : List (Nat × Deposit)) (r : Nat) : List Nat :=
  (((truesOf ps).map (·.1)).map (posIn ranks)).filter fun p =>
    decide (64 * (posIn ranks r / 64) ≤ p) && decide (p < 64 * (posIn ranks r / 64) + 64)

theorem collResult_vote_ballot (ranks : List Nat) (ps : List (Nat × Deposit)) (r : Nat) (d : Deposit) :
    collResult (.vote 3) ranks ps r d = ((ballot ranks ps r).foldl (fun x p => x + 2 ^ (p - 64 * (posIn ranks r / 64))) 0, 0) := rfl

/-- A ballot names each position once, and only those of its word. -/
theorem ballot_nodup {ranks : List Nat} {ps : List (Nat × Deposit)} (r : Nat) (hsorted : ps.Pairwise fun p q => p.1 < q.1)
    (hin : ∀ p ∈ ps, p.1 ∈ ranks) : (ballot ranks ps r).Nodup := by
  have hranks : ((truesOf ps).map (·.1)).Nodup := by
    refine List.pairwise_map.2 ((hsorted.filter _).imp fun h => Nat.ne_of_lt h)
  refine (List.Nodup.map_on (fun p hp q hq h => posIn_injective ?_ ?_ h) hranks).filter _
  · obtain ⟨x, hx, rfl⟩ := List.mem_map.1 hp
    exact hin x (List.mem_filter.1 hx).1
  · obtain ⟨x, hx, rfl⟩ := List.mem_map.1 hq
    exact hin x (List.mem_filter.1 hx).1

/-- The word of a ballot holds the bits of its positions (R204). -/
theorem ballot_word {ranks : List Nat} {ps : List (Nat × Deposit)} (r : Nat) (d : Deposit) (hsorted : ps.Pairwise fun p q => p.1 < q.1)
    (hranks : ranks.Pairwise (· < ·)) (hin : ∀ p ∈ ps, p.1 ∈ ranks) (hr : r ∈ ranks) :
    ∃ v, collResult (.vote 3) ranks ps r d = (v, 0) ∧ v < 2 ^ 64 ∧
      ∀ j < 64, bitAt v j = true ↔ ∃ p ∈ ps, p.2.a % 2 = 1 ∧ posOf ranks p.1 = 64 * (posOf ranks r / 64) + j := by
  have hbits (j : Nat) := testBit_foldl_add (64 * (posIn ranks r / 64)) (ballot_nodup r hsorted hin)
    (fun p hp => (by have := (List.mem_filter.1 hp).2; simp at this; omega)) 0 (fun _ _ => Nat.zero_testBit _) j
  simp only [Nat.zero_testBit, Bool.false_or] at hbits
  refine ⟨_, collResult_vote_ballot ranks ps r d, Nat.lt_pow_two_of_testBit _ fun j hj => ?_, fun j hj => ?_⟩
  · rw [hbits, decide_eq_false]
    intro hmem
    have := (List.mem_filter.1 hmem).2
    simp at this
    omega
  · rw [bitAt_eq_testBit, hbits, decide_eq_true_eq, ← posIn_eq_posOf hranks hr]
    simp only [ballot, truesOf, List.mem_filter, List.mem_map, Bool.and_eq_true, decide_eq_true_eq]
    constructor
    · rintro ⟨⟨_, ⟨p, ⟨hp, hone⟩, rfl⟩, hpos⟩, -⟩
      exact ⟨p, hp, hone, (posIn_eq_posOf hranks (hin p hp)).symm.trans hpos⟩
    · rintro ⟨p, hp, hone, hpos⟩
      exact ⟨⟨_, ⟨p, ⟨hp, hone⟩, rfl⟩, (posIn_eq_posOf hranks (hin p hp)).trans hpos⟩, by omega, by omega⟩

/-- The reductions and scans fold the deposits they name (R205). -/
theorem collResult_folds {ranks : List Nat} {ps : List (Nat × Deposit)} {r : Nat} {d : Deposit} {o : Nat} (ho : o < 14)
    (hsorted : ps.Pairwise fun p q => p.1 < q.1) (hd : (r, d) ∈ ps) :
    collResult (.red o) ranks ps r d = foldOver o d.rc (foldDeposits o ps) ∧
    collResult (.scan false o) ranks ps r d = foldOver o d.rc (foldDeposits o (ps.filter fun p => decide (p.1 ≤ r))) ∧
    collResult (.scan true o) ranks ps r d = foldOver o d.rc (foldDeposits o (ps.filter fun p => decide (p.1 < r))) := by
  obtain ⟨hlt, hle⟩ := take_findIdx hsorted hd
  have hvals (xs : List (Nat × Deposit)) : xs.map (fun p => p.2.a % 2 ^ redWidth o) = foldDeposits o xs := by rw [redWidth_eq]; rfl
  refine ⟨?red, ?inc, ?exc⟩
  case red => exact (foldRed_eq ho _ _).trans (congrArg _ (hvals ps))
  case inc =>
    refine (foldRed_eq ho _ _).trans ?_
    rw [← hle, ← hvals, List.map_take]
    rfl
  case exc =>
    have hfold : foldRed o d.rc ((ps.map fun p => p.2.a % 2 ^ redWidth o).take (ps.findIdx fun p => decide (p.1 = r))) =
        foldOver o d.rc (foldDeposits o (ps.filter fun p => decide (p.1 < r))) := by
      rw [foldRed_eq ho, ← hlt, ← hvals, List.map_take]
    rw [← hfold]
    by_cases hzero : ps.findIdx (fun p => decide (p.1 = r)) = 0
    · refine (if_pos hzero).trans ?_
      rw [hzero]
      rfl
    · exact if_neg hzero

/-- A broadcast gives the value of the lowest or of the highest participant (R202). -/
theorem collResult_bcast (ranks : List Nat) (ps : List (Nat × Deposit)) (r : Nat) (d : Deposit) (pair : Bool) :
    (∀ p, ps.head? = some p → collResult (.bcast false pair) ranks ps r d = (p.2.a % 2 ^ (if pair then 64 else 32), 0)) ∧
    (∀ p, ps.getLast? = some p → collResult (.bcast true pair) ranks ps r d = (p.2.a % 2 ^ (if pair then 64 else 32), 0)) := by
  refine ⟨fun p hp => ?low, fun p hp => ?high⟩
  case low =>
    have hhead : ((ps.map fun p => p.2.a % 2 ^ (CollKind.bcast false pair).width).head?).getD 0 =
        p.2.a % 2 ^ (if pair then 64 else 32) := by rw [List.head?_map, hp]; rfl
    exact congrArg (·, 0) hhead
  case high =>
    have hlast : ((ps.map fun p => p.2.a % 2 ^ (CollKind.bcast true pair).width).getLast?).getD 0 =
        p.2.a % 2 ^ (if pair then 64 else 32) := by rw [List.getLast?_map, hp]; rfl
    exact congrArg (·, 0) hlast

/-- Each participant receives the value of its rule (R202 to R205). -/
theorem collectiveValues {ranks : List Nat} {ps : List (Nat × Deposit)} {r : Nat} {d : Deposit} (hranks : ranks.Pairwise (· < ·))
    (hsorted : ps.Pairwise fun p q => p.1 < q.1) (hin : ∀ p ∈ ps, p.1 ∈ ranks) (hd : (r, d) ∈ ps) : CollectiveValues ranks ps r d := by
  have hr : r ∈ ranks := hin _ hd
  obtain ⟨hlow, hhigh⟩ := forall_and.1 (collResult_bcast ranks ps r d)
  refine ⟨fun mode hmode src hsrc => ?shuffle, hlow, hhigh, fun o ho => collResult_folds ho hsorted hd, fun hall => ?all, fun hsome => ?notAll,
    fun hsome => ?any, fun hnone => ?none, collResult_vote_count ranks ps r d, ballot_word r d hsorted hranks hin hr⟩
  case shuffle =>
    rw [← posIn_eq_posOf hranks hr] at hsrc
    exact ⟨fun q e h0 hq he => shuffle_reads hmode hsorted hsrc h0 hq he, shuffle_keeps hmode hsrc⟩
  case all => rw [collResult_vote_all, if_pos ((truesOf_all ps).2 hall)]
  case notAll =>
    obtain ⟨p, hp, hzero⟩ := hsome
    rw [collResult_vote_all, if_neg fun h => by have := (truesOf_all ps).1 h p hp; omega]
  case any =>
    obtain ⟨p, hp, hone⟩ := hsome
    rw [collResult_vote_any, if_neg fun h => by have := (truesOf_none ps).1 h p hp; omega]
  case none => rw [collResult_vote_any, if_pos ((truesOf_none ps).2 hnone)]

/-- Settles O21: the deposits row by row, the firing of a complete set, the latencies, and the value of each participant by its rule. -/
theorem collectivesComplete : Obligations.CollectivesComplete :=
  ⟨collectiveRows_deposit,
    fun _ _ _ _ _ _ _ _ hteam hc hkind hcomplete hranks hparts hlowest hmatrix hps =>
      settle_fires hteam hc hkind hcomplete hranks hparts hlowest hmatrix hps,
    collective_latencies,
    fun _ _ _ _ hranks hsorted hin hd => collectiveValues hranks hsorted hin hd⟩

end Machine
end Sys2Proof
end

section
/-! PROOFS. O39: bundles, promotions, result writes and engine events occur with their effects (R37, R42, R129, R224, R226, R230). -/

namespace Sys2Proof
namespace Machine

/-- The bundle a thread of a partition is formed into is that of the rule (R37). -/
theorem regrouped_eq (now : Nat) (mine : List Thread) (t : Thread) :
    (if mine.contains t then t.inBundle (reformed now mine t) else t) = regrouped now mine t := by
  have hbefore : ((mine.filter fun x => x.readyIn now).filter fun x => x.like t && decide (x.id.rank < t.id.rank)) =
      mine.filter fun x => x.readyIn now && decide (x.id.teamId = t.id.teamId) && decide (x.role = t.role) && decide (x.pc = t.pc) &&
        decide (x.id.rank < t.id.rank) := by
    rw [List.filter_filter]
    refine List.filter_congr fun x _ => ?_
    rw [Thread.like, Bool.and_comm, ← Bool.and_assoc, ← Bool.and_assoc, ← Bool.and_assoc]
  unfold regrouped reformed
  rw [bundleAt, hbefore]
  rfl

section
variable {s : State}

theorem execBundleReform_boundary (h : s.now (s.arg 0) % 4 = 0) :
    exec .bundleReform s = .next (s.mapThreads (regrouped (s.now (s.arg 0)) (s.partThreads (s.arg 0) (s.arg 1)))) := by
  have hmap : s.reformPart (s.arg 0) (s.arg 1) =
      s.mapThreads (regrouped (s.now (s.arg 0)) (s.partThreads (s.arg 0) (s.arg 1))) := by
    unfold State.reformPart State.bundlePart State.mapThreads
    dsimp only
    congr 1
    exact List.map_congr_left fun t _ => regrouped_eq _ _ t
  show execBundleReform s = _
  rw [execBundleReform, if_pos h, hmap]

theorem execThreadPromotion_due {t : Thread} (ht : s.thread? (s.argThread 0) = some t) (hst : t.st = .ready)
    (hdue : max t.readyAt t.holdUntil + 256 ≤ s.now (s.coreOf (s.argThread 0))) :
    ∃ s2, exec .threadPromotion s = .next s2 ∧ s2.thread? (s.argThread 0) = some t.promote := by
  refine ⟨_, rfl, ?_⟩
  rw [State.thread_updThread_some ht fun x => by split <;> rfl, if_pos ⟨hst, hdue⟩]
  rfl

/-- The stages of an operation in flight (R129). -/
theorem execResultWrite_stages {o : Op} (hop : s.op? (s.arg 0) = some o) :
    ((o.body = .result ∨ ∃ r, o.body = .collective r) → s.isDue o = true → o.stage = .issued → exec .resultWrite s = .next (s.finishResult o)) ∧
    (∀ a, o.body = .mem a → o.stage = .ready → exec .resultWrite s = .next (s.actAccess o a)) ∧
    (∀ a, o.body = .mem a → o.stage = .bound → s.isDue o = true → exec .resultWrite s = .next (s.writeBackResult o)) ∧
    (∀ sc, o.body = .fence sc → exec .resultWrite s = .next (s.performFence o sc)) ∧
    (o.body = .release → exec .resultWrite s = .next (s.performRelease o)) := by
  refine ⟨?result, fun a hbody hstage => execResultWrite_mem hop hbody hstage, ?bound, ?fence, ?release⟩
  case result =>
    rintro (hbody | ⟨r, hbody⟩) hdue hstage <;> show execResultWrite s = _ <;>
      simp only [execResultWrite, hop, hbody, hdue, hstage, decide_true, Bool.and_true, if_true]
  case bound =>
    intro a hbody hstage hdue
    have hne : ¬ o.stage = .ready := by
      rw [hstage]
      decide
    show execResultWrite s = _
    simp only [execResultWrite, hop, hbody, if_neg hne, if_pos hstage, hdue, if_true]
  case fence =>
    intro sc hbody
    show execResultWrite s = _
    simp only [execResultWrite, hop, hbody]
  case release =>
    intro hbody
    show execResultWrite s = _
    simp only [execResultWrite, hop, hbody]

section
variable {tm : Team} {e : EngineEntry} (htm : s.team? (s.argTeam 0) = some tm)
include htm

theorem execMatrixStart_first (he : (tm.engine.find? fun e => decide (e.kind = 0) && ! e.started) = some e) :
    exec .matrixStart s = .next (s.startMatrix tm e) := by
  show execMatrixStart s = _
  simp only [execMatrixStart, htm, he]

theorem execMatrixRetire_due (he : (tm.engine.find? fun e => decide (e.kind = 0) && e.started) = some e) (hdue : e.due ≤ s.now tm.core) :
    exec .matrixRetire s = .next ((s.retireAll e.members).updTeam (s.argTeam 0) fun u =>
      u.withEngine (u.engine.filter fun y => decide (y.id ≠ e.id))) := by
  show execMatrixRetire s = _
  simp only [execMatrixRetire, htm, he, if_pos hdue]
  rfl

theorem execAccumulatorInstructionFinish_due (he : (tm.engine.find? fun e => decide (e.id = s.arg 3) && decide (e.kind ≠ 0)) = some e)
    (hdue : e.due ≤ s.now tm.core) (hheld : e.kind = 3 → s.entryHeld e = false) :
    exec .accumulatorInstructionFinish s = .next (((if e.kind = 3 then (s.storeImage tm e).clearImageMarks tm e else s).retireAll e.members).updTeam
      (s.argTeam 0) fun u => u.withEngine (u.engine.filter fun y => decide (y.id ≠ e.id))) := by
  have hwait : ¬ (e.kind = 3 ∧ s.entryHeld e = true) := fun ⟨hkind, hh⟩ => by
    rw [hheld hkind] at hh
    cases hh
  show execAccumulatorInstructionFinish s = _
  simp only [execAccumulatorInstructionFinish, htm, he, if_neg (Nat.not_lt.2 hdue), if_neg hwait]
  rfl

end

end

/-- Settles O39: each event by its own lemma. -/
theorem executionEventsOccur : Obligations.ExecutionEventsOccur := by
  unfold Obligations.ExecutionEventsOccur
  intro s
  refine ⟨execBundleReform_boundary, fun t ht hst hdue => execThreadPromotion_due ht hst hdue, fun o hop => execResultWrite_stages hop, ?engine⟩
  case engine =>
    intro tm htm
    refine ⟨fun e he => execMatrixStart_first htm he, fun e he hdue => execMatrixRetire_due htm he hdue, fun e he hdue => ⟨?other, ?store⟩⟩
    case other =>
      intro hkind
      rw [execAccumulatorInstructionFinish_due htm he hdue fun h => absurd h hkind, if_neg hkind]
    case store =>
      intro hkind hheld
      rw [execAccumulatorInstructionFinish_due htm he hdue fun _ => hheld, if_pos hkind]

end Machine
end Sys2Proof
end

section
/-! PROOFS. O46: reset, bring-up, clock levels, the thermal trip, the interfaces and the measurements (R9, R482 to R487, R491, R492). -/

namespace Sys2Proof
namespace Machine

/-- A device whose BOOT word is 0 is at stage 0. -/
theorem State.stage_of_boot {s : State} (h : s.boot = 0) : s.stage = 0 := by
  rw [State.stage, h]
  rfl

section
variable {s : State}

/-- The reset at power-on leaves the device's capabilities and nothing of its work (R9). -/
theorem execPowerOnReset_empty : ∃ s2, exec .powerOnReset s = .next s2 ∧ s2.ctxs = [] ∧ s2.threads = [] ∧ s2.teams = [] ∧ s2.grids = [] ∧
    s2.ops = [] ∧ s2.weights = [] ∧ s2.caps = s.caps ∧ s2.stage = 0 :=
  ⟨_, rfl, rfl, rfl, rfl, rfl, rfl, rfl, rfl, State.stage_of_boot rfl⟩

-- ---------------------------------------------------------------- the bring-up

theorem execDie0BringUp_turn (h : s.stage = 0) (he : s.bootErr = 0) :
    exec .die0BringUp s = .next (s.withBoot (if Config.stagePasses 0 then bootWord 1 0 else bootWord 0 1)) := by
  show execDie0BringUp s = _
  rw [execDie0BringUp, if_pos ⟨h, he⟩]
  rfl

theorem execDie1BringUp_turn (h : s.stage = 1) (he : s.bootErr = 0) :
    exec .die1BringUp s = .next (s.withBoot (if Config.stagePasses 2 then bootWord 2 0 else bootWord 1 2)) := by
  show execDie1BringUp s = _
  rw [execDie1BringUp, if_pos ⟨h, he⟩]
  rfl

theorem execStandardImagePost_turn (h : s.stage = 2) (he : s.bootErr = 0) : ∃ s2, exec .standardImagePost s = .next s2 ∧
    s2.boot = if Config.stagePasses 3 then bootWord 3 0 else bootWord 2 4 := by
  have hturn : ¬ (s.stage ≠ 2 ∨ s.bootErr ≠ 0) := by simp [h, he]
  have hexec : exec .standardImagePost s = if Config.stagePasses 3 then
      .next { ([0, 1, 2].foldl (fun s i => s.postImage i (standardImage i)) s.releaseImages) with boot := bootWord 3 0 }
      else .next { s with boot := bootWord 2 4 } := (if_neg hturn : execStandardImagePost s = _)
  rw [hexec]
  cases Config.stagePasses 3 with
  | true => exact ⟨_, rfl, rfl⟩
  | false => exact ⟨_, rfl, rfl⟩

-- ---------------------------------------------------------------- levels

/-- A clock level of a die, and the count of its changes (R485). -/
def State.withLevel (s : State) (die l : Nat) : State := { s with levels := s.levels.set die l, tcnt := (s.tcnt + 1) % 2 ^ 16 }

theorem State.withLevel_spec {die : Nat} (h : die < s.levels.length) (l : Nat) :
    nth (s.withLevel die l).levels die 0 = l ∧ (s.withLevel die l).tcnt = (s.tcnt + 1) % 2 ^ 16 :=
  ⟨nth_set_self h l 0, rfl⟩

theorem execClockLevelStep_eq (h : s.arg 0 < s.levels.length) : exec .clockLevelStep s =
    if s.argBool 1 then .next (if nth s.levels (s.arg 0) 0 < 4 then s.withLevel (s.arg 0) (nth s.levels (s.arg 0) 0 + 1) else s)
    else .next (if nth s.levels (s.arg 0) 0 = 0 then s else s.withLevel (s.arg 0) (nth s.levels (s.arg 0) 0 - 1)) :=
  (if_neg (Nat.not_le.2 h) : execClockLevelStep s = _)

-- ---------------------------------------------------------------- the thermal trip

theorem State.killContext_threads (s : State) (ctx : Nat) : (s.killContext ctx).threads = s.threads.filter fun t => decide (t.id.ctx ≠ ctx) := rfl

theorem State.killContext_home (s : State) (ctx : Nat) : (s.killContext ctx).home = s.home := rfl

/-- Killing contexts leaves home memory, and none of their threads. -/
theorem State.killContexts (l : List Nat) (s : State) : (l.foldl State.killContext s).home = s.home ∧
    (∀ t ∈ (l.foldl State.killContext s).threads, t ∈ s.threads ∧ t.id.ctx ∉ l) := by
  induction l generalizing s with
  | nil => exact ⟨rfl, fun t ht => ⟨ht, List.not_mem_nil⟩⟩
  | cons c cs ih =>
    obtain ⟨hhome, hthreads⟩ := ih (s.killContext c)
    refine ⟨hhome.trans (s.killContext_home c), fun t ht => ?_⟩
    obtain ⟨hmem, hnot⟩ := hthreads t ht
    rw [State.killContext_threads, List.mem_filter, decide_eq_true_eq] at hmem
    exact ⟨hmem.1, fun hin => (List.mem_cons.1 hin).elim hmem.2 hnot⟩

theorem execThermalTrip_kills : ∃ s2, exec .thermalTrip s = .next s2 ∧ s2.home = s.home ∧ (∀ c ∈ s.ctxs, ∀ t ∈ s2.threads, t.id.ctx ≠ c.num) := by
  obtain ⟨hhome, hthreads⟩ := State.killContexts (s.ctxs.map (·.num)) s
  exact ⟨_, rfl, hhome, fun c hc t ht heq => (hthreads t ht).2 (heq ▸ List.mem_map_of_mem hc)⟩

-- ---------------------------------------------------------------- interfaces and measurements

theorem execLockInterfaceRequest_locks (hlo : 1 ≤ s.arg 0) (hhi : s.arg 0 ≤ 63) (hst : (s.tdi (s.arg 0)).st = 0)
    (hranges : rangesOk (pairUp (s.pick.drop 1)) = true) :
    exec .lockInterfaceRequest s = .next (s.setTdi ⟨s.arg 0, 1, pairUp (s.pick.drop 1), (s.tdi (s.arg 0)).gone⟩) :=
  (if_pos ⟨hlo, hhi, hst, hranges⟩ : execLockInterfaceRequest s = _)

theorem execStartInterfaceRequest_starts (h : (s.tdi (s.arg 0)).st = 1) :
    exec .startInterfaceRequest s = .next (s.setTdi { s.tdi (s.arg 0) with st := 2 }) :=
  congrArg Host.Outcome.next (if_pos h)

/-- An active interface ends, stopped, with its session, at a lapse of its heartbeat, or in error (R482). -/
theorem interface_ends (h : (s.tdi (s.arg 0)).active = true) : exec .stopInterfaceRequest s = .next (s.endTdi (s.arg 0) 0) ∧
    exec .endSession s = .next (s.endTdi (s.arg 0) 0) ∧ exec .heartbeatLapse s = .next (s.endTdi (s.arg 0) 0) ∧
    exec .tdiEntersError s = .next (s.endTdi (s.arg 0) 3) :=
  ⟨congrArg Host.Outcome.next (if_pos h), congrArg Host.Outcome.next (if_pos h), congrArg Host.Outcome.next (if_pos h),
    congrArg Host.Outcome.next (if_pos h)⟩

theorem execGetMeasurements_signed {d : List Byte} (h : s.measurement (s.arg 0) (s.arg 1) = some d) :
    exec .getMeasurements s = .next { s with measured := d ++ Config.identitySign d } := by
  show execGetMeasurements s = _
  rw [execGetMeasurements, h]

theorem execSetCertificate_set (hlo : 1 ≤ s.arg 0) (hhi : s.arg 0 ≤ 7) : exec .setCertificate s =
    .next { s with certs := s.certs.set (s.arg 0 - 1) ((s.pick.drop 1).map (BitVec.ofNat 8)) } :=
  (if_pos ⟨hlo, hhi⟩ : execSetCertificate s = _)

end

/-- Settles O46: each event by its own lemma. -/
theorem deviceEventsOccur : Obligations.DeviceEventsOccur := by
  unfold Obligations.DeviceEventsOccur
  intro s
  refine ⟨execPowerOnReset_empty, execDie0BringUp_turn, execDie1BringUp_turn, execStandardImagePost_turn, ?levels, execThermalTrip_kills,
    execLockInterfaceRequest_locks, execStartInterfaceRequest_starts, interface_ends, fun d => execGetMeasurements_signed, execSetCertificate_set⟩
  rintro l hdie rfl
  have hexec := execClockLevelStep_eq hdie
  refine ⟨fun hup hl => ⟨_, ?_, State.withLevel_spec hdie _⟩, fun hdown hl => ⟨_, ?_, State.withLevel_spec hdie _⟩⟩
  · rw [hexec, State.argBool, decide_eq_true hup, if_pos rfl, if_pos hl]
  · rw [hexec, State.argBool, decide_eq_false (not_not.2 hdown), if_neg Bool.false_ne_true, if_neg hl]

end Machine
end Sys2Proof
end

section
/-! PROOFS. O40: stores, fills, walks, copies, queue arrivals, errors and refreshes occur with their effects (R248, R255, R260, R265, R279, R309,
R315, R331, R413). -/

namespace Sys2Proof
namespace Machine

section
variable {s : State}

theorem execStorePerformed_leaves {o : Op} {a : Access} (hop : s.op? (s.arg 0) = some o) (hbody : o.body = .mem a) (hstores : a.kind.stores = true)
    (hstage : o.stage = .ready) : exec .storePerformed s = .next (s.leavePath o a) := by
  show execStorePerformed s = _
  simp only [execStorePerformed, hop, hbody, hstores, hstage, Bool.not_true, Bool.false_eq_true, if_false, if_true]

-- ---------------------------------------------------------------- fills

/-- A fill whose sector has no entry of the miss status waits for one (R248). -/
theorem execL1Fill_waits (h : (s.arg 0, s.arg 1) ∉ (s.takeMisses (s.arg 0)).misses) : exec .l1Fill s = .next (s.takeMisses (s.arg 0)) := by
  have hno : (s.takeMisses (s.arg 0)).misses.contains (s.arg 0, s.arg 1) = false := by
    rw [List.contains_eq_mem]
    exact decide_eq_false h
  show execL1Fill s = _
  simp only [execL1Fill, hno, Bool.not_false, if_true]

section
variable {s1 : State} {wants : List (Op × Access)} (h1 : s1 = s.takeMisses (s.arg 0)) (hwants : wants = s1.wanting (s.arg 0) (s.arg 1))
  (hmiss : (s.arg 0, s.arg 1) ∈ s1.misses)
include h1 hwants hmiss

/-- A fill of a sector that has its entry, by those that want it and those that are placed. -/
theorem execL1Fill_eq : exec .l1Fill s =
    match wants.head?, (placing wants).head? with
    | none, _ => .next (s1.freeMiss (s.arg 0) (s.arg 1))
    | some _, some (o, a) =>
      let cp := if a.kind.atomic then 0 else a.cp
      let r := s1.journalReads (wants.map fun p => p.1.thr.gridId).dedup (s.arg 1 * 64)
      .next (if r.2 then ((r.1.touchFor o.thr (s.arg 1 * 64) cp).l1Fill (s.arg 0) (s.arg 1) cp (s.arg 2)).freeMiss (s.arg 0) (s.arg 1) else r.1)
    | some _, none =>
      let s2 := wants.foldl (fun s p => s.bindNol1 p.1 p.2) s1
      let left := wants.any fun p => match s2.op? p.1.id with
        | some x => decide (x.stage = .ready)
        | none => false
      .next (if left then s2 else s2.freeMiss (s.arg 0) (s.arg 1)) := by
  have hin : s1.misses.contains (s.arg 0, s.arg 1) = true := by
    rw [List.contains_eq_mem]
    exact decide_eq_true hmiss
  subst hwants h1
  show execL1Fill s = _
  unfold execL1Fill
  simp only [hin, Bool.not_true, Bool.false_eq_true, if_false]
  rfl

theorem execL1Fill_unwanted (h : wants = []) : exec .l1Fill s = .next (s1.freeMiss (s.arg 0) (s.arg 1)) := by
  rw [execL1Fill_eq h1 hwants hmiss, h]
  rfl

theorem execL1Fill_placed {o : Op} {a : Access} {rest : List (Op × Access)} {s2 : State} {ok : Bool} (hplaced : placing wants = (o, a) :: rest)
    (hread : s1.journalReads (wants.map fun p => p.1.thr.gridId).dedup (s.arg 1 * 64) = (s2, ok)) {cp : Nat}
    (hcp : cp = if a.kind.atomic then 0 else a.cp) : exec .l1Fill s = .next (if ok
      then ((s2.touchFor o.thr (s.arg 1 * 64) cp).l1Fill (s.arg 0) (s.arg 1) cp (s.arg 2)).freeMiss (s.arg 0) (s.arg 1) else s2) := by
  rw [execL1Fill_eq h1 hwants hmiss, hplaced, hread, hcp]
  cases hw : wants with
  | nil =>
    rw [hw] at hplaced
    cases hplaced
  | cons p ps => rfl

theorem execL1Fill_nol1 {s2 : State} (hne : wants ≠ []) (hplaced : placing wants = [])
    (h2 : s2 = wants.foldl (fun s p => s.bindNol1 p.1 p.2) s1) : exec .l1Fill s =
      .next (if wants.any fun p => match s2.op? p.1.id with
        | some x => decide (x.stage = .ready)
        | none => false then s2 else s2.freeMiss (s.arg 0) (s.arg 1)) := by
  rw [execL1Fill_eq h1 hwants hmiss, hplaced, ← h2]
  cases hw : wants with
  | nil => exact absurd hw hne
  | cons p ps => rfl

/-- The loads that a fetch did not bind keep the entry; with none left it is free again (R250). -/
theorem execL1Fill_left {s2 : State} (hne : wants ≠ []) (hplaced : placing wants = [])
    (h2 : s2 = wants.foldl (fun s p => s.bindNol1 p.1 p.2) s1) :
    ((∀ p ∈ wants, ∀ x, s2.op? p.1.id = some x → x.stage ≠ .ready) → exec .l1Fill s = .next (s2.freeMiss (s.arg 0) (s.arg 1))) ∧
      (∀ p ∈ wants, ∀ x, s2.op? p.1.id = some x → x.stage = .ready → exec .l1Fill s = .next s2) := by
  rw [execL1Fill_nol1 h1 hwants hmiss hne hplaced h2]
  constructor
  · intro hnone
    rw [if_neg]
    simp only [List.any_eq_true, not_exists, not_and]
    intro p hp hready
    split at hready
    · next x hx => exact hnone p hp x hx (of_decide_eq_true hready)
    · cases hready
  · intro p hp x hx hready
    rw [if_pos]
    refine List.any_eq_true.2 ⟨p, hp, ?_⟩
    rw [hx]
    exact decide_eq_true hready

end

-- ---------------------------------------------------------------- walks, host accesses, errors

theorem execTableWalk_op {o : Op} (hop : s.op? (s.arg 0) = some o) : exec .tableWalk s = .next (s.walkOp (s.arg 0)) := by
  show execTableWalk s = _
  simp only [execTableWalk, hop]

/-- A host access within one sector of memory that is there reads or writes it (R260, R290). -/
theorem execHostAccess_sector (hsize : s.arg 2 ≤ 64) (hsector : s.arg 1 / 64 = (s.arg 1 + s.arg 2 - 1) / 64) (hthere : s.memExists (s.arg 1) = true) :
    (s.arg 0 = 0 → exec .hostAccess s = .next (s.touchSpan (s.arg 1) (s.arg 2) 0)) ∧
    (s.arg 0 ≠ 0 → exec .hostAccess s = .next (s.homeWriteBy 0 (s.arg 1) (s.arg 2) (s.arg 3 % 256 ^ s.arg 2))) := by
  have hok : ¬ (64 < s.arg 2 ∨ s.arg 1 / 64 ≠ (s.arg 1 + s.arg 2 - 1) / 64 ∨ (! s.memExists (s.arg 1)) = true) := by
    rintro (h | h | h)
    · exact absurd hsize (Nat.not_le.2 h)
    · exact h hsector
    · rw [hthere] at h
      cases h
  have hexec : exec .hostAccess s = if ! s.argBool 0 then .next (s.touchSpan (s.arg 1) (s.arg 2) 0)
      else .next (s.homeWriteBy 0 (s.arg 1) (s.arg 2) (s.arg 3 % 256 ^ s.arg 2)) := (if_neg hok : execHostAccess s = _)
  rw [hexec, State.argBool]
  constructor
  · intro h
    rw [decide_eq_false (not_not.2 h)]
    rfl
  · intro h
    rw [decide_eq_true h]
    rfl

theorem execUncorrectableError_home (h : s.arg 0 = 0) :
    exec .uncorrectableError s = .next (s.withHomePoison (setAdd s.homePoison (s.arg 2))) := by
  show execUncorrectableError s = _
  simp only [execUncorrectableError, h]
  rfl

theorem execUncorrectableError_l1 (h : s.arg 0 = 1) : exec .uncorrectableError s =
    .next (s.mapL1 (fun x => decide (x.cluster = s.arg 1) && decide (x.sector = s.arg 2)) L1Sector.marked) := by
  show execUncorrectableError s = _
  simp only [execUncorrectableError, h]
  rfl

theorem execUncorrectableError_scratch {tm : Team} (h : s.arg 0 = 2) (htm : s.team? (s.argTeam 3) = some tm) (hin : s.arg 2 < tm.scr * 128) :
    ∃ s2, exec .uncorrectableError s = .next s2 ∧ s2.team? (s.argTeam 3) = some (tm.withPoison (setAdd tm.poison (s.arg 2))) := by
  have hexec : exec .uncorrectableError s = .next (s.updTeam (s.argTeam 3) fun t =>
      if s.arg 2 < t.scr * 128 then t.withPoison (setAdd t.poison (s.arg 2)) else t) := by
    show execUncorrectableError s = _
    simp only [execUncorrectableError, h]
    rfl
  refine ⟨_, hexec, ?_⟩
  rw [State.team_updTeam (s.argTeam 3) _ fun x => by split <;> rfl, htm, Option.map_some, if_pos hin]

theorem execUncorrectableError_weight (h : s.arg 0 = 3) (hin : s.arg 2 < 2 ^ 25) :
    exec .uncorrectableError s = .next (s.withWeightPoison (setAdd s.weightPoison (s.arg 2))) := by
  show execUncorrectableError s = _
  simp only [execUncorrectableError, h]
  rw [if_pos hin]
  rfl

-- ---------------------------------------------------------------- copies

/-- A copy is found by its number. -/
theorem State.copy_id {n : Nat} {c : Copy} (h : s.copy? n = some c) : c.id = n := by simpa using List.find?_some h

theorem State.copy_updCopy {n : Nat} {c : Copy} (h : s.copy? n = some c) {f : Copy → Copy} (hf : ∀ x, (f x).id = x.id) :
    (s.updCopy n f).copy? n = some (f c) := by
  rw [State.copy?, State.updCopy, find_map_self Copy.id n f hf, ← State.copy?, h, Option.map_some]

section
variable {c : Copy} (hc : s.copy? (s.arg 0) = some c)
include hc

theorem execCopySectorRequest_starts (h : c.started = false) : exec .copySectorRequest s = .next (s.startCopy c) := by
  show execCopySectorRequest s = _
  simp only [execCopySectorRequest, hc, h, Bool.not_false, if_true]

section
variable (hold : s.olderComplete c.thr c.pos = true) (hstuck : s.copyStuck c = false) (hstarted : c.started = true)
include hold hstuck hstarted

/-- A started copy that nothing holds goes on with its requests. -/
theorem execCopySectorRequest_eq : exec .copySectorRequest s =
    match c.reqs.find? fun r => decide (r.st = .walk) with
    | some r => .next (s.makeRequest c r)
    | none => match c.todo with
      | [] => .next (s.postCopyFaults (s.arg 0))
      | x :: rest =>
        if c.kind = 1 ∧ c.posOf x / 4096 ≠ c.piece then .next s
        else match (s.withNextId.updCopy (s.arg 0) fun y => y.takes ⟨s.nextId, x, 0, 0, 0, 0, .walk⟩ rest).copy? (s.arg 0) with
          | some c1 => .next ((s.withNextId.updCopy (s.arg 0) fun y => y.takes ⟨s.nextId, x, 0, 0, 0, 0, .walk⟩ rest).makeRequest c1
              ⟨s.nextId, x, 0, 0, 0, 0, .walk⟩)
          | none => .next (s.withNextId.updCopy (s.arg 0) fun y => y.takes ⟨s.nextId, x, 0, 0, 0, 0, .walk⟩ rest) := by
  show execCopySectorRequest s = _
  simp only [execCopySectorRequest, hc, hstarted, hold, hstuck, Bool.not_true, Bool.or_false, Bool.false_eq_true, if_false]
  rfl

theorem execCopySectorRequest_walk {r : CopyReq} (hr : (c.reqs.find? fun r => decide (r.st = .walk)) = some r) :
    exec .copySectorRequest s = .next (s.makeRequest c r) := by
  rw [execCopySectorRequest_eq hc hold hstuck hstarted, hr]

theorem execCopySectorRequest_over (hr : (c.reqs.find? fun r => decide (r.st = .walk)) = none) (htodo : c.todo = []) :
    exec .copySectorRequest s = .next (s.postCopyFaults (s.arg 0)) := by
  rw [execCopySectorRequest_eq hc hold hstuck hstarted, hr, htodo]

theorem execCopySectorRequest_next {x : Chunk} {rest : List Chunk} (hr : (c.reqs.find? fun r => decide (r.st = .walk)) = none)
    (htodo : c.todo = x :: rest) (hpiece : c.kind = 1 → c.posOf x / 4096 = c.piece) {r : CopyReq} (hreq : r = CopyReq.mk s.nextId x 0 0 0 0 .walk)
    {s2 : State} (h2 : s2 = s.withNextId.updCopy (s.arg 0) (fun y => y.takes r rest)) :
    exec .copySectorRequest s = .next (s2.makeRequest (c.takes r rest) r) := by
  have hfound : s2.copy? (s.arg 0) = some (c.takes r rest) := by
    rw [h2]
    exact State.copy_updCopy (s := s.withNextId) (f := fun y => y.takes r rest) hc fun _ => rfl
  have hin : ¬ (c.kind = 1 ∧ c.posOf x / 4096 ≠ c.piece) := fun h => h.2 (hpiece h.1)
  rw [execCopySectorRequest_eq hc hold hstuck hstarted, hr, htodo]
  dsimp only
  rw [if_neg hin, ← hreq, ← h2, hfound]

end

section
variable {r : CopyReq} (hr : (c.reqs.find? fun r => decide (r.id = s.arg 1)) = some r)
include hr

/-- A request that has been translated reads its bytes (R309). -/
theorem execCopyDelivery_ready (hst : r.st = .ready) :
    (∀ s2 v m, s.copyRead c r = (s2, some (v, m)) →
      exec .copyDelivery s = .next (s2.updCopy (s.arg 0) fun y => y.mapReqs fun z => if z.id = s.arg 1 then z.got v m else z)) ∧
    (∀ s2, s.copyRead c r = (s2, none) → exec .copyDelivery s = .next s2) := by
  constructor
  · intro s2 v m hread
    show execCopyDelivery s = _
    simp only [execCopyDelivery, hc, hr, hst, hread]
    rfl
  · intro s2 hread
    show execCopyDelivery s = _
    simp only [execCopyDelivery, hc, hr, hst, hread]

section
variable (hst : r.st = .got) (hkind : c.kind ≠ 1) (hstuck : s.copyStuck c = false) (hopen : ∀ r ∈ c.recvs, s.cairnOpen c r.team = true)
include hst hkind hstuck hopen

/-- A request that has its bytes delivers them where nothing holds it. -/
theorem execCopyDelivery_got : exec .copyDelivery s =
    if c.dstS = .w then .next (if s.wordFull c (c.dstAddr r.chunk / 64) then s.deliverWord c (c.dstAddr r.chunk / 64) else s)
    else if c.dstS = .g ∧ (if c.gscope.wide then s.pathBusy c.op (c.dstAddr r.chunk) r.dstPa else s.coreOverlap c.core r.dstPa r.chunk.n) then .next s
    else .next (if (s.sumRead c r).2 then (s.sumRead c r).1.deliverReq c r else (s.sumRead c r).1) := by
  have hall : (c.recvs.all fun r => s.cairnOpen c r.team) = true := List.all_eq_true.2 hopen
  have hgo : ¬ (c.kind = 1 ∨ s.copyStuck c = true ∨ (! c.recvs.all fun r => s.cairnOpen c r.team) = true) := by
    rw [hstuck, hall]
    simpa using hkind
  show execCopyDelivery s = _
  simp only [execCopyDelivery, hc, hr, hst, if_neg hgo]

theorem execCopyDelivery_word (hdst : c.dstS = .w) (hfull : s.wordFull c (c.dstAddr r.chunk / 64) = true) :
    exec .copyDelivery s = .next (s.deliverWord c (c.dstAddr r.chunk / 64)) := by
  rw [execCopyDelivery_got hc hr hst hkind hstuck hopen, if_pos hdst, hfull, if_pos rfl]

theorem execCopyDelivery_bytes {s2 : State} (hdst : c.dstS ≠ .w)
    (hwide : c.dstS = .g → c.gscope.wide = true → s.pathBusy c.op (c.dstAddr r.chunk) r.dstPa = false)
    (hnarrow : c.dstS = .g → c.gscope.wide = false → s.coreOverlap c.core r.dstPa r.chunk.n = false) (hsum : s.sumRead c r = (s2, true)) :
    exec .copyDelivery s = .next (s2.deliverReq c r) := by
  have hfree : ¬ (c.dstS = .g ∧ (if c.gscope.wide then s.pathBusy c.op (c.dstAddr r.chunk) r.dstPa
      else s.coreOverlap c.core r.dstPa r.chunk.n) = true) := by
    rintro ⟨hg, hbusy⟩
    cases hw : c.gscope.wide with
    | true =>
      rw [hw, if_pos rfl, hwide hg hw] at hbusy
      cases hbusy
    | false =>
      rw [hw, if_neg Bool.false_ne_true, hnarrow hg hw] at hbusy
      cases hbusy
  rw [execCopyDelivery_got hc hr hst hkind hstuck hopen, if_neg hdst, if_neg hfree, hsum, if_pos rfl]

end

end

end

-- ---------------------------------------------------------------- queue slots

theorem execQueueSlotArrival_push {o : Op} (hop : s.op? (s.arg 3) = some o) : exec .queueSlotArrival s = .next (s.pushArrives o) := by
  show execQueueSlotArrival s = _
  simp only [execQueueSlotArrival, hop]

theorem execQueueSlotArrival_slice {tm : Team} {r : SliceRead} {q : SliceReq} (hop : s.op? (s.arg 3) = none)
    (htm : s.team? (s.argTeam 0) = some tm) (hreq : tm.sliceReq (s.arg 3) = some (r, q)) (hst : q.st = .ready) :
    exec .queueSlotArrival s = .next (s.sliceBind tm r q) := by
  show execQueueSlotArrival s = _
  simp only [execQueueSlotArrival, hop, htm, hreq, hst, if_true]

-- ---------------------------------------------------------------- the weight store

theorem State.slotTicks_whole {die : Nat} (h : (nth s.slotAt die (0, 0, false)).2.2 = true) : s.slotTicks die = 3600 := by
  rw [State.slotTicks, State.slotUnits, h, if_pos rfl]

theorem State.slotTicks_le (die : Nat) : s.slotTicks die ≤ 3600 := by
  have hunits : s.slotUnits die ≤ 500 := by
    unfold State.slotUnits
    split
    · exact Nat.le_refl _
    · exact Nat.mod_lt _ (by decide)
  unfold State.slotTicks
  omega

theorem execRefreshSlot_waits {x : Nat × Nat × Bool} (hx : x = nth s.slotAt (s.arg 0) (0, 0, false))
    (h : nth s.ncycs (s.arg 0) 0 < x.2.1 + s.slotTicks (s.arg 0)) : exec .refreshSlot s = .next s := by
  rw [hx] at h
  exact (if_pos h : execRefreshSlot s = _)

theorem execRefreshSlot_moves {x : Nat × Nat × Bool} (hx : x = nth s.slotAt (s.arg 0) (0, 0, false))
    (h : x.2.1 + s.slotTicks (s.arg 0) ≤ nth s.ncycs (s.arg 0) 0) (hrefresh : s.arg 0 < s.refresh.length) (hslot : s.arg 0 < s.slotAt.length) :
    ∃ s2, exec .refreshSlot s = .next s2 ∧ s2.home = s.home ∧ s2.weights = s.weights ∧
      nth s2.refresh (s.arg 0) 0 = nth s.refresh (s.arg 0) 0 + 1 ∧
      nth s2.slotAt (s.arg 0) (0, 0, false) = (s.cycleOf (s.arg 0), nth s.ncycs (s.arg 0) 0, true) := by
  rw [hx] at h
  exact ⟨_, (if_neg (Nat.not_lt.2 h) : execRefreshSlot s = _), rfl, rfl, nth_set_self hrefresh _ _, nth_set_self hslot _ _⟩

end

/-- Settles O40: each event by its own lemma. -/
theorem memoryEventsOccur : Obligations.MemoryEventsOccur := by
  unfold Obligations.MemoryEventsOccur
  intro s
  refine ⟨?stores, ?fills, fun o hop => execTableWalk_op hop, execHostAccess_sector, execUncorrectableError_home, execUncorrectableError_l1,
    fun tm h htm hin => execUncorrectableError_scratch h htm hin, execUncorrectableError_weight, fun c hc h => execCopySectorRequest_starts hc h,
    ?requests, ?deliveries, fun o hop => execQueueSlotArrival_push hop,
    fun tm r q hop htm hreq hst => execQueueSlotArrival_slice hop htm hreq hst, ?refresh, ?bank⟩
  case stores =>
    exact fun o a hop hbody hstores => ⟨fun hstage => execStorePerformed_leaves hop hbody hstores hstage,
      fun hstage => execStorePerformed_core hop hbody hstores hstage⟩
  case fills =>
    intro s1 wants h1 hwants
    exact ⟨fun h => by rw [h1] at h ⊢; exact execL1Fill_waits h, fun hmiss => ⟨fun h => execL1Fill_unwanted h1 hwants hmiss h,
      fun o a rest s2 ok hplaced hread cp hcp => execL1Fill_placed h1 hwants hmiss hplaced hread hcp,
      fun s2 hne hplaced h2 => execL1Fill_left h1 hwants hmiss hne hplaced h2⟩⟩
  case requests =>
    intro c hc hold hstuck
    exact ⟨fun hstarted hr htodo => execCopySectorRequest_over hc hold hstuck hstarted hr htodo,
      fun r hstarted hr => execCopySectorRequest_walk hc hold hstuck hstarted hr,
      fun x rest hstarted hr htodo hpiece r s2 hreq h2 => execCopySectorRequest_next hc hold hstuck hstarted hr htodo hpiece hreq h2⟩
  case deliveries =>
    intro c r hc hr
    exact ⟨fun s2 v m hst hread => (execCopyDelivery_ready hc hr hst).1 s2 v m hread,
      fun s2 hst hread => (execCopyDelivery_ready hc hr hst).2 s2 hread,
      fun hst hkind hstuck hopen hdst hfull => execCopyDelivery_word hc hr hst hkind hstuck hopen hdst hfull,
      fun s2 hst hkind hstuck hopen hdst hwide hnarrow hsum => execCopyDelivery_bytes hc hr hst hkind hstuck hopen hdst hwide hnarrow hsum⟩
  case refresh =>
    exact fun x hx => ⟨execRefreshSlot_waits hx, fun h => State.slotTicks_whole (hx ▸ h), State.slotTicks_le _, execRefreshSlot_moves hx⟩
  case bank =>
    rintro n core s2 rfl rfl rfl
    rfl

end Machine
end Sys2Proof
end

section
/-! PROOFS. O41: the events of islands and Ridgeline engines occur with their effects (R323, R335, R423 to R449). -/

namespace Sys2Proof
namespace Machine

section
variable {s : State}

-- ---------------------------------------------------------------- islands

theorem execIslandContextBoundary_moves {x : Island} {c : Nat} (hx : x = s.island (s.arg 0) (s.arg 1))
    (hbusy : s.islandBusy (s.arg 0) (s.arg 1) = false) (hnext : x.successor = some c)
    (hown : ∀ own, x.ctx = some own → own ∈ x.waiting → x.img = s.boundImage own (s.arg 0) → 4096 ≤ x.count ∧ ∃ y ∈ x.waiting, y ≠ own) :
    exec .islandContextBoundary s = .next (s.setIsland (x.serves c (s.boundImage c (s.arg 0))
      (s.cycleOf (islandDie (s.arg 0) (s.arg 1)) + 256))) := by
  have hgo : (s.islandBusy (s.arg 0) (s.arg 1) || ((match x.ctx with
      | some c => x.waiting.contains c && decide (x.img = s.boundImage c (s.arg 0))
      | none => false) && (decide (x.count < 4096) || x.waiting.all fun c => decide (some c = x.ctx)))) = false := by
    rw [hbusy, Bool.false_or]
    cases hctx : x.ctx with
    | none => rfl
    | some own =>
      dsimp only
      by_cases hkeeps : own ∈ x.waiting ∧ x.img = s.boundImage own (s.arg 0)
      · obtain ⟨hcount, y, hy, hne⟩ := hown own hctx hkeeps.1 hkeeps.2
        have hother : (x.waiting.all fun c => decide (some c = some own)) = false := by
          rw [List.all_eq_false]
          exact ⟨y, hy, by simpa using hne⟩
        rw [decide_eq_false (Nat.not_lt.2 hcount), hother, Bool.or_false, Bool.and_false]
      · have hnot : (x.waiting.contains own && decide (x.img = s.boundImage own (s.arg 0))) = false := by
          rw [Bool.eq_false_iff, ne_eq, Bool.and_eq_true, List.contains_eq_mem, decide_eq_true_eq, decide_eq_true_eq]
          exact hkeeps
        rw [hnot, Bool.false_and]
  subst hx
  show execIslandContextBoundary s = _
  unfold execIslandContextBoundary
  dsimp only
  refine (if_neg ((Bool.not_eq_true _).mpr hgo)).trans ?_
  rw [hnext]
  rfl

section
variable {j : IslandJob} (hj : (s.jobs.find? fun x => decide (x.id = s.arg 0)) = some j)
include hj

theorem execIslandAccept_resubmits (h : j.buffered = false) : exec .islandAccept s = .next (s.resubmit j) := by
  show execIslandAccept s = _
  simp only [execIslandAccept, hj, h, Bool.not_false, if_true]

theorem execIslandAccept_runs (hbuf : j.buffered = true) (hres : j.result = none) (hfault : j.fault = none)
    (hold : ∀ o, s.op? j.id = some o → s.olderComplete o.thr o.pos = true) (hbefore : (s.jobsBefore j).all IslandJob.accepted = true) :
    exec .islandAccept s = .next (s.runJob j) := by
  show execIslandAccept s = _
  simp only [execIslandAccept, hj, hbuf, hres, hfault, hbefore, Bool.not_true, Bool.false_eq_true, if_false, Bool.or_false]
  cases hop : s.op? j.id with
  | none => rfl
  | some o => simp only [hold o hop, Bool.not_true, Bool.false_eq_true, if_false]

theorem execIslandAccept_replays (hbuf : j.buffered = true) (hres : j.result = none) (hfault : j.fault ≠ none) (hpark : j.parked = none) :
    exec .islandAccept s = .next (s.runJob j) := by
  obtain ⟨f, hf⟩ := Option.ne_none_iff_exists'.1 hfault
  show execIslandAccept s = _
  simp only [execIslandAccept, hj, hbuf, hres, hf, hpark, Bool.not_true, Bool.false_eq_true, if_false]

section
variable {bytes n mark : Nat} (hres : j.result = some (bytes, n, mark)) (hpark : j.parked = none)
include hres hpark

/-- A submission with commits left performs them (R435). -/
theorem execIslandResult_commits {r : State × List (Nat × Nat) × Nat × Option Halted} (hne : j.commits ≠ [])
    (hr : r = s.commitAll j.thr.gridId (dieOf j.core) (some j.core) (! j.queries.isEmpty) j.commits) (hnone : r.2.2.2 = none) :
    exec .islandResult s = .next (r.1.updJob j.id fun x => x.committed r.2.1 r.2.2.1) := by
  have hempty : j.commits.isEmpty = false := List.isEmpty_eq_false_iff.2 hne
  show execIslandResult s = _
  simp only [execIslandResult, hj, hres, hpark, hempty, Bool.not_false, if_true, ← hr, hnone]
  rfl

/-- A submission without commits ends with its kind's results (R323, R424). -/
theorem execIslandResult_ends (hnone : j.commits = []) (hwait : j.cls = 0 → j.op = 2 → s.uncommitted j = false) : exec .islandResult s =
    if j.trace then .next (s.finishTrace j bytes)
    else if j.offered then .next s
    else if j.cls = 0 then .next ((s.dropOver j n).offerSlots j bytes)
    else .next (((s.fillSlots j bytes mark (List.range j.slots.length)).dropOver j n).completeJob j) := by
  have hempty : j.commits.isEmpty = true := List.isEmpty_iff.2 hnone
  have hgo : (decide (j.cls = 0) && decide (j.op = 2) && s.uncommitted j) = false := by
    by_cases h : j.cls = 0 ∧ j.op = 2
    · rw [hwait h.1 h.2, Bool.and_false]
    · rw [← Bool.decide_and, decide_eq_false h, Bool.false_and]
  show execIslandResult s = _
  simp only [execIslandResult, hj, hres, hpark, hempty, Bool.not_true, Bool.false_eq_true, if_false, hgo]

end

end

-- ---------------------------------------------------------------- hand-offs

theorem State.takeHandoff_nextId (s : State) (die ctx : Nat) (x : Island) (h : HandOff) : (s.takeHandoff die ctx x h).nextId = s.nextId := by
  unfold State.takeHandoff State.takeIsland State.setIsland
  rfl

section
variable {j : RidgeJob} {h : HandOff} {rest : List HandOff} {x : Island} (hj : (s.ridge (s.arg 0)).cur = some j) (hcomp : j.computed = true)
  (hend : j.ending = false) (hw : j.writes = []) (hh : j.handoffs = h :: rest) (hx : x = s.island 0 (4 * s.arg 0 + h.isl))
include hj hcomp hend hw hh hx

/-- The turn of a job whose next record goes to a raster island (R446). -/
theorem execRasterHandoffRecord_eq : exec .rasterHandoffRecord s =
    if ! j.commits.isEmpty then .next (s.commitRecord (s.arg 0) j rest)
    else if j.taken.isSome then .next (s.drawRecord (s.arg 0) j h rest)
    else if ! x.takes j.ctx (s.boundImage j.ctx 0) (s.cycleOf (s.arg 0)) then .next (s.waitIsland x j.ctx)
    else .next ((s.takeHandoff (s.arg 0) j.ctx x h).withNextId.drawRecord (s.arg 0) (j.takenAs (some s.nextId)) h rest) := by
  subst hx
  rw [State.withNextId, State.takeHandoff_nextId]
  show execRasterHandoffRecord s = _
  simp only [execRasterHandoffRecord, RidgeJob.takenAs, hj, hcomp, hend, hw, hh, List.isEmpty_nil, Bool.not_true, Bool.or_false, Bool.false_eq_true,
    if_false]

theorem execRasterHandoffRecord_cases :
    (j.commits = [] → j.taken = none → x.takes j.ctx (s.boundImage j.ctx 0) (s.cycleOf (s.arg 0)) = false →
      exec .rasterHandoffRecord s = .next (s.waitIsland x j.ctx)) ∧
    (j.commits = [] → j.taken = none → x.takes j.ctx (s.boundImage j.ctx 0) (s.cycleOf (s.arg 0)) = true →
      exec .rasterHandoffRecord s = .next ((s.takeHandoff (s.arg 0) j.ctx x h).withNextId.drawRecord (s.arg 0) (j.takenAs (some s.nextId)) h
        rest)) ∧
    (∀ n, j.commits = [] → j.taken = some n → exec .rasterHandoffRecord s = .next (s.drawRecord (s.arg 0) j h rest)) ∧
    (∀ s2 passes, j.commits ≠ [] → s.commitAll ⟨j.ctx, 2 ^ 32⟩ (s.arg 0) none (! j.queries.isEmpty) j.commits = (s2, [], passes, none) →
      exec .rasterHandoffRecord s = .next (s2.putJob (s.arg 0) (j.drawn passes rest))) := by
  rw [execRasterHandoffRecord_eq hj hcomp hend hw hh hx]
  refine ⟨fun hc ht htakes => ?waits, fun hc ht htakes => ?takes, fun n hc ht => ?draws, fun s2 passes hc hcommit => ?commits⟩
  case waits => simp only [hc, ht, htakes, List.isEmpty_nil, Option.isSome_none, Bool.not_true, Bool.not_false, Bool.false_eq_true, if_false, if_true]
  case takes => simp only [hc, ht, htakes, List.isEmpty_nil, Option.isSome_none, Bool.not_true, Bool.false_eq_true, if_false]
  case draws => simp only [hc, ht, List.isEmpty_nil, Option.isSome_some, Bool.not_true, Bool.false_eq_true, if_false, if_true]
  case commits =>
    have hempty : j.commits.isEmpty = false := List.isEmpty_eq_false_iff.2 hc
    simp only [hempty, Bool.not_false, if_true, State.commitRecord, hcommit]
    rfl

end

-- ---------------------------------------------------------------- jobs

theorem execRidgelineJobAccept_cur {tasks : Nat} (htasks : tasks = if s.arg 1 = 0 then ridgeTasks else s.arg 1) {j : RidgeJob}
    (hj : (s.ridge (s.arg 0)).cur = some j) :
    (j.computed = false → exec .ridgelineJobAccept s = .next (s.computeJob (s.arg 0) tasks j)) ∧
    (j.computed = true → j.ending = false → exec .ridgelineJobAccept s = .next (s.ridgeWrites (s.arg 0) (j.writes.length + 1) j)) := by
  constructor
  · intro hcomp
    show execRidgelineJobAccept s = _
    simp only [execRidgelineJobAccept, hj, hcomp, Bool.not_false, if_true, htasks]
  · intro hcomp hend
    show execRidgelineJobAccept s = _
    simp only [execRidgelineJobAccept, hj, hcomp, hend, Bool.not_true, Bool.false_eq_true, if_false]

theorem execRidgelineJobAccept_idle {tasks : Nat} (htasks : tasks = if s.arg 1 = 0 then ridgeTasks else s.arg 1)
    (hj : (s.ridge (s.arg 0)).cur = none) :
    (∀ j, ((s.ridge (s.arg 0)).suspended.find? fun j => j.parked.isNone) = some j →
      exec .ridgelineJobAccept s = .next (s.resumeJob (s.arg 0) j)) ∧
    (((s.ridge (s.arg 0)).suspended.find? fun j => j.parked.isNone) = none →
      ((s.ridge (s.arg 0)).awake = true → exec .ridgelineJobAccept s = .next (s.takeJob (s.arg 0) tasks (s.ridgeOrder (s.arg 0)))) ∧
      (∀ open_, (s.ridge (s.arg 0)).awake = false → open_ = (s.ridgeOrder (s.arg 0)).filter (s.ringPosted (s.arg 0)) → open_ ≠ [] →
        exec .ridgelineJobAccept s = .next (s.takeJob (s.arg 0) tasks open_))) := by
  refine ⟨fun j hsusp => ?resumes, fun hsusp => ⟨fun hawake => ?awake, fun open_ hasleep hopen hne => ?posted⟩⟩
  case resumes =>
    show execRidgelineJobAccept s = _
    simp only [execRidgelineJobAccept, hj, hsusp]
  case awake =>
    show execRidgelineJobAccept s = _
    simp only [execRidgelineJobAccept, hj, hsusp, hawake, if_true, Bool.true_or, htasks]
  case posted =>
    have hempty : open_.isEmpty = false := List.isEmpty_eq_false_iff.2 hne
    show execRidgelineJobAccept s = _
    simp only [execRidgelineJobAccept, hj, hsusp, hasleep, Bool.false_eq_true, if_false, Bool.false_or, ← hopen, hempty, Bool.not_false, if_true,
      htasks]

theorem execRidgelineJobEnd_cases {j : RidgeJob} (hj : (s.ridge (s.arg 0)).cur = some j) (hcomp : j.computed = true) :
    (j.ending = false → j.writes = [] → j.handoffs = [] → exec .ridgelineJobEnd s = .next (s.beginEnd (s.arg 0) j)) ∧
    (j.ending = true → j.writes ≠ [] → exec .ridgelineJobEnd s = .next (s.ridgeWrites (s.arg 0) (j.writes.length + 1) j)) ∧
    (j.ending = true → j.writes = [] → exec .ridgelineJobEnd s = .next (s.updRidge (s.arg 0) fun x => (x.withCur none).wake)) := by
  refine ⟨fun hend hw hh => ?begins, fun hend hw => ?writes, fun hend hw => ?ends⟩
  case begins =>
    show execRidgelineJobEnd s = _
    simp only [execRidgelineJobEnd, hj, hcomp, hend, hw, hh, List.isEmpty_nil, Bool.not_true, Bool.not_false, Bool.or_false, Bool.false_eq_true,
      if_false, if_true]
  case writes =>
    have hempty : j.writes.isEmpty = false := List.isEmpty_eq_false_iff.2 hw
    show execRidgelineJobEnd s = _
    simp only [execRidgelineJobEnd, hj, hcomp, hend, hempty, Bool.not_true, Bool.false_eq_true, if_false]
  case ends =>
    show execRidgelineJobEnd s = _
    simp only [execRidgelineJobEnd, hj, hcomp, hend, hw, List.isEmpty_nil, Bool.not_true, Bool.false_eq_true, if_false, if_true]
    rfl

end

/-- Settles O41: each event by its own lemmas. -/
theorem engineEventsOccur : Obligations.EngineEventsOccur := by
  unfold Obligations.EngineEventsOccur
  intro s
  refine ⟨fun x c hx hbusy hnext hown => execIslandContextBoundary_moves hx hbusy hnext hown, ?jobs,
    fun j h rest x hj hcomp hend hw hh hx => execRasterHandoffRecord_cases hj hcomp hend hw hh hx, rfl,
    fun tasks htasks => ⟨fun j hj => execRidgelineJobAccept_cur htasks hj, execRidgelineJobAccept_idle htasks⟩,
    fun j hj hcomp => execRidgelineJobEnd_cases hj hcomp⟩
  intro j hj
  refine ⟨execIslandAccept_resubmits hj, execIslandAccept_runs hj, execIslandAccept_replays hj, fun bytes n mark hres hpark =>
    ⟨fun r hne hr hnone => execIslandResult_commits hj hres hpark hne hr hnone, fun hnone hwait => ?ends⟩⟩
  rw [execIslandResult_ends hj hres hpark hnone hwait]
  exact ⟨fun htrace => by rw [htrace, if_pos rfl],
    fun htrace hoffered hcls => by rw [htrace, hoffered, if_neg Bool.false_ne_true, if_neg Bool.false_ne_true, if_pos hcls],
    fun htrace hoffered hcls => by rw [htrace, hoffered, if_neg Bool.false_ne_true, if_neg Bool.false_ne_true, if_neg hcls]⟩

end Machine
end Sys2Proof
end
section
/-! PROOFS. O42: the events of queues, placement, batches and grids occur with their effects (R44 to R48, R339 to R359). -/

namespace Sys2Proof
namespace Machine

section
variable {s : State} {g : Grid}

-- ---------------------------------------------------------------- queues

theorem execLaunchQueueWake_eq (locked : Bool) (h : s.queueLocked (s.arg 0 % 32) = locked) :
    exec .launchQueueWake s = .next (if locked then s else s.wakeLq (s.arg 0 % 32)) := by
  subst h
  rfl

/-- A queue is not before one of a higher level, nor before one of its level whose turn is not later. -/
theorem scansBefore_eq_false {p q : Nat} (h : s.lvl p < s.lvl q ∨ s.lvl p = s.lvl q ∧ s.turnOf q ≤ s.turnOf p) :
    s.scansBefore p q = false := by
  rw [State.scansBefore, Bool.or_eq_false_iff, Bool.and_eq_false_iff, decide_eq_false_iff_not, decide_eq_false_iff_not,
    decide_eq_false_iff_not]
  omega

theorem execLaunchQueueScan_scans (hq : s.arg 0 < 32) (hwants : s.wantsScan (s.arg 0) = true)
    (hfirst : ∀ p < 32, p / 16 = s.arg 0 / 16 → s.wantsScan p = true → s.scansBefore p (s.arg 0) = false) :
    exec .launchQueueScan s = .next (((s.scannedLast (s.arg 0)).updLq (s.arg 0) fun x => { x with pw := false, full := false }).scan
      (s.arg 0) 4096) := by
  have hnone : ((List.range 32).any fun p =>
      decide (p / 16 = s.arg 0 / 16) && s.wantsScan p && s.scansBefore p (s.arg 0)) = false := by
    rw [List.any_eq_false]
    intro p hp
    rw [Bool.and_eq_true, Bool.and_eq_true, decide_eq_true_eq]
    rintro ⟨⟨hdie, hscan⟩, hbefore⟩
    exact absurd (hfirst p (List.mem_range.1 hp) hdie hscan) (by simp [hbefore])
  exact (if_pos ⟨hq, hwants, by rw [hnone]; rfl⟩ : execLaunchQueueScan s = _)

-- ---------------------------------------------------------------- launched grids

theorem grid_id {i : GridId} (h : s.grid? i = some g) : g.id = i := by
  simpa using List.find?_some h

theorem execLaunchReleaseComplete_releases {t : ThreadId} {pos core : Nat} (hg : s.grid? ⟨s.arg 0, s.arg 1⟩ = some g)
    (helig : g.elig = false) (hsrc : g.src = some (t, pos, core)) (holder : s.olderComplete t pos = true)
    (hdone : s.observedDone t = true) :
    exec .launchReleaseComplete s = .next
      (((s.flushL1 (clusterOf core)).updGrid g.id fun y => { y with src := none }).makeEligible g.id) := by
  show execLaunchReleaseComplete s = _
  simp only [execLaunchReleaseComplete, hg, helig, hsrc, holder, hdone, Bool.false_eq_true, if_false, if_true, Bool.and_self]

theorem execLaunchDependenceTest_tests (hg : s.grid? ⟨s.arg 0, s.arg 1⟩ = some g) :
    exec .launchDependenceTest s = .next (s.testDep g) := by
  show execLaunchDependenceTest s = _
  simp only [execLaunchDependenceTest, State.argGrid, hg]

theorem testDep_none (helig : g.elig = true) (hready : g.ready = false) (hkind : g.launch.dkind = 0) :
    s.testDep g = s.updGrid g.id fun y => { y with ready := true } := by
  simp only [State.testDep, helig, hready, hkind, Bool.not_true, Bool.or_self, Bool.false_eq_true, if_false, if_true]

/-- What a test of a dependence word does with what it read at va (R342). -/
def State.tested (s : State) (g : Grid) (va : Nat) : ReadRes → State
  | .fault _ a => s.postRecord g.die (s.deviceRecord g.id.ctx clsDepend 0 a g.id.grid)
  | .ok w mark =>
    if mark then s.postRecord g.die (s.deviceRecord g.id.ctx clsDepend 0 va g.id.grid)
    else s.updGrid g.id fun y => { y with ready := depMet y.launch.dkind y.launch.depv w }

theorem testDep_word {va : Nat} (helig : g.elig = true) (hready : g.ready = false) (hkind : g.launch.dkind ≠ 0)
    (hva : va = g.launch.depa + if g.launch.dkind = 1 then 0x10 else 0) :
    s.testDep g = s.tested g va (s.read1k g.die g.id.ctx va 4) := by
  subst hva
  simp only [State.testDep, helig, hready, hkind, Bool.not_true, Bool.or_self, Bool.false_eq_true, if_false]
  cases s.read1k g.die g.id.ctx (g.launch.depa + if g.launch.dkind = 1 then 0x10 else 0) 4 <;> rfl

-- ---------------------------------------------------------------- teams, batches and grids

theorem execCompactorMove_moves {tm : Team} {now : Nat} {s1 : State} (htm : s.team? (s.argTeam 0) = some tm) (hnow : now = s.now tm.core)
    (hmay : s.mayCompact tm = true) (hpause : s.arg 3 ≤ 512)
    (hs1 : s1 = (s.updTeam (s.argTeam 0) fun u => { u with pausedUntil := now + s.arg 3, lastMove := some now }).mapThreads (fun t =>
        if t.id.teamId = s.argTeam 0 ∧ t.st = .ready then t.agedFrom (min now (max t.readyAt t.holdUntil) + s.arg 3) else t)) :
    exec .compactorMove s = .next (s1.moveTeam (s.argBool 4) tm) := by
  subst hnow hs1
  show execCompactorMove s = _
  have hgo : (! s.mayCompact tm || decide (512 < s.arg 3)) = false := by
    rw [hmay, decide_eq_false (Nat.not_lt.2 hpause)]
    rfl
  simp only [execCompactorMove, htm, hgo, Bool.false_eq_true, if_false]
  rfl

theorem execReorderBatchForm_forms
    (h : 2048 ≤ (s.reorder.filter fun d => d.inGroup (s.arg 0) (s.argGrid 1) (BitVec.ofNat 52 (s.arg 3)) (s.arg 4)).length
      ∨ s.stillRunning (s.arg 0) (s.argGrid 1) = false) :
    exec .reorderBatchForm s = .next (s.formBatch (s.arg 0) (s.argGrid 1) (BitVec.ofNat 52 (s.arg 3)) (s.arg 4)) :=
  (if_pos (h.imp_right fun hdone => by rw [hdone]; rfl) : execReorderBatchForm s = _)

/-- A reply takes its batch from those the ring holds (R358). -/
theorem execServiceReply_removes {b : SvcBatch} {w : Nat} {m : Bool}
    (hb : (s.svc.find? fun b => decide (b.die = s.arg 0) && decide (b.j = s.arg 1)) = some b) (hw : s.read1k b.die b.ctx b.va 8 = .ok w m)
    (hodd : w % 2 = 1) (hthere : ∀ x ∈ b.members, ∀ c, s.ctx? x.thr.ctx = some c → c.live = true → c.pstat ∉ [3, 4, 7, 8]) :
    ∃ s2, exec .serviceReply s = .next s2 ∧ ∀ x ∈ s2.svc, ¬ (x.die = s.arg 0 ∧ x.j = s.arg 1) := by
  have hsaved : (b.members.any fun m => match s.ctx? m.thr.ctx with
      | some c => c.live && ([3, 4, 7, 8] : List Nat).contains c.pstat
      | none => false) = false := by
    rw [List.any_eq_false]
    intro x hx
    rw [Bool.not_eq_true]
    cases hc : s.ctx? x.thr.ctx with
    | none => rfl
    | some c =>
      cases hlive : c.live with
      | false => simp only [hlive, Bool.false_and]
      | true => simpa only [hlive, Bool.true_and, List.contains_eq_mem, decide_eq_false_iff_not] using hthere x hx c hc hlive
  have hbit : bitAt w 0 = true := by
    rw [bitAt]
    simpa using hodd
  have hgo : (! bitAt w 0 || b.members.any fun m => match s.ctx? m.thr.ctx with
      | some c => c.live && ([3, 4, 7, 8] : List Nat).contains c.pstat
      | none => false) = false := by rw [hbit, hsaved]; rfl
  refine ⟨{ b.members.zipIdx.foldl (fun s m => s.replyTo b m.1 m.2) s with
    svc := (b.members.zipIdx.foldl (fun s m => s.replyTo b m.1 m.2) s).svc.filter fun x =>
      ! (decide (x.die = s.arg 0) && decide (x.j = s.arg 1)) }, ?_, ?_⟩
  · show execServiceReply s = _
    simp only [execServiceReply, hb, hw]
    exact (if_neg ((Bool.not_eq_true _).mpr hgo)).trans rfl
  · intro x hx
    simpa [imp_iff_not_or] using (List.mem_filter.1 hx).2

theorem execGridComplete_ends {s1 : State} (hs1 : s1 = s.reapTeams.retryDone) (hg : s1.grid? ⟨s.arg 0, s.arg 1⟩ = some g)
    (hover : s1.gridOver g = true) : exec .gridComplete s = .next (s1.endGrid g) := by
  subst hs1
  show execGridComplete s = _
  simp only [execGridComplete, hg, hover, if_true]

end

/-- Settles O42: each event is the function of the state that its rule describes. -/
theorem schedulingEventsOccur : Obligations.SchedulingEventsOccur := by
  intro s
  refine ⟨execLaunchQueueWake_eq true, execLaunchQueueWake_eq false, ?scan, ?release, ?independent, ?dependent, ?place, ?compact,
    execReorderBatchForm_forms, ?reply, ?complete⟩
  case scan =>
    rintro lvl last ahead rfl rfl rfl hq hwants hfirst
    refine execLaunchQueueScan_scans hq hwants fun p hp hdie hscan => scansBefore_eq_false ?_
    have hturn : s.turnOf p = (p % 16 + 15 - nth s.lqLast (s.arg 0 / 16) 15) % 16 := by rw [State.turnOf, hdie]
    rw [hturn]
    exact hfirst p hp hdie hscan
  case release =>
    intro g t pos core hg helig hsrc holder hdone
    exact execLaunchReleaseComplete_releases hg helig hsrc holder hdone
  case independent =>
    intro g hg helig hready hkind
    rw [execLaunchDependenceTest_tests hg, testDep_none helig hready hkind]
  case dependent =>
    intro g va hg helig hready hkind hva
    have hrun : exec .launchDependenceTest s = .next (s.tested g va (s.read1k g.die (s.arg 0) va 4)) := by
      rw [execLaunchDependenceTest_tests hg, testDep_word helig hready hkind hva, grid_id hg]
    have hid : g.id = ⟨s.arg 0, s.arg 1⟩ := grid_id hg
    refine ⟨?_, ?_, ?_⟩
    · intro w hw
      rw [hrun, hw]
      rfl
    · intro w hw
      rw [hrun, hw, State.tested, hid, if_pos rfl]
    · intro cls a hf
      rw [hrun, hf, State.tested, hid]
  case place =>
    rintro s0 rfl
    rfl
  case compact =>
    intro tm now htm hnow hmay hpause s1 hs1
    exact execCompactorMove_moves htm hnow hmay hpause hs1
  case reply =>
    intro b w m hb hw hodd hthere
    exact execServiceReply_removes hb hw hodd hthere
  case complete =>
    intro s1 g hs1 hg hover
    exact execGridComplete_ends hs1 hg hover

end Machine
end Sys2Proof
end
section
/-! PROOFS. O44: invalidations, posts, keys and register writes occur with their effects (R10, R365, R414, R443, R476, R480, R486). -/

namespace Sys2Proof
namespace Machine

section
variable {s : State}

-- ---------------------------------------------------------------- invalidations

theorem execInvalidationComplete_completes {c : Ctx} (hc : s.ctx? (s.arg 0) = some c) (hbusy : c.invBusy = true)
    (hold : s.usesOld c = false) :
    exec .invalidationComplete s = .next ((if bitAt c.invc.toNat 2 then s.sweepL1 else s).updCtx (s.arg 0) Ctx.invalidated) := by
  show execInvalidationComplete s = _
  simp only [execInvalidationComplete, hc, hbusy, hold, Bool.not_true, Bool.or_self, Bool.false_eq_true, if_false]
  rfl

theorem execScunp_starts (h : bitAt s.scunp.toNat 31 = false) :
    exec .scunp s = .next (s.withScunp (BitVec.ofNat 32 (s.arg 0 % 8 + 2 ^ 31))) :=
  (if_neg ((Bool.not_eq_true _).mpr h) : execScunp s = _)

theorem execScunpDone_unpins (h : bitAt s.scunp.toNat 31 = true) : exec .scunpDone s = .next
    { s with slices := s.slices.map (fun x => if bitAt (s.effWays (s.scunp.toNat % 8)) x.way = true then x.unpin else x),
             scunp := BitVec.ofNat 32 (s.scunp.toNat % 8) } :=
  (if_neg (by rw [h]; decide) : execScunpDone s = _)

-- ---------------------------------------------------------------- images, keys and the fault ring

theorem execImagePost_posts (hstage : s.stage ≠ 0) (himgs : s.imgs ≠ 1) :
    exec .imagePost s = .next { s with imgc := put32 (s.arg 0) 0x3F, imgs := 1 } :=
  (if_neg (not_or.2 ⟨hstage, himgs⟩) : execImagePost s = _)

theorem execImagePostDone_verifies (h : s.imgs = 1) :
    exec .imagePostDone s = .next { s.verifyPost.1 with imgs := s.verifyPost.2 } :=
  (if_neg (not_not.2 h) : execImagePostDone s = _)

theorem execKeyInstall_installs (h : s.stage ≠ 0) : exec .keyInstall s = .next { (s.installKey (s.arg 0 % 16)).1 with
    keyc := BitVec.ofNat 32 (s.arg 0 % 16 + 32 * (s.installKey (s.arg 0 % 16)).2) } :=
  (if_neg h : execKeyInstall s = _)

theorem execFqcWrite_writes {c : Ctx} {s1 : State} (hc : c = s.page (s.arg 0 % 256))
    (hidle : c.ringSz = 0 ∨ memRead s.home c.ringBase 8 = memRead s.home (c.ringBase + 64) 8) (hsize : s.arg 1 % 16 ≤ 12)
    (hs1 : s1 = s.updPage (s.arg 0 % 256) (fun x => { x with fqc := BitVec.ofNat 32 (s.arg 1 % 16) })) :
    exec .fqcWrite s = .next (s1.postAllHeld (s.arg 0 % 256) s1.held.length).admitAll := by
  subst hc hs1
  have hgo : (! (decide ((s.page (s.arg 0 % 256)).ringSz = 0) || decide (memRead s.home (s.page (s.arg 0 % 256)).ringBase 8 =
      memRead s.home ((s.page (s.arg 0 % 256)).ringBase + 64) 8)) || decide (12 < s.arg 1 % 16)) = false := by
    rw [Bool.or_eq_false_iff, Bool.not_eq_false', Bool.or_eq_true, decide_eq_true_eq, decide_eq_true_eq, decide_eq_false_iff_not]
    exact ⟨hidle, Nat.not_lt.2 hsize⟩
  exact (if_neg ((Bool.not_eq_true _).mpr hgo) : execFqcWrite s = _)

-- ---------------------------------------------------------------- the trim counters

/-- An entry of the trim counters is that of the port a selector names (R476). -/
def TrimCount.isAt (n : Nat) (x : TrimCount) : Bool :=
  decide (x.die = bits n 0 1) && decide (x.site = bits n 1 6) && decide (x.port = bits n 7 3)

theorem TrimCount.isAt_iff {n : Nat} {x : TrimCount} :
    x.isAt n = true ↔ x.die = bits n 0 1 ∧ x.site = bits n 1 6 ∧ x.port = bits n 7 3 := by
  simp only [TrimCount.isAt, Bool.and_eq_true, decide_eq_true_eq, and_assoc]

theorem TrimCount.isAt_shown (n now : Nat) (x : TrimCount) : (x.shown now).isAt n = x.isAt n := by
  unfold TrimCount.shown
  split
  · split <;> rfl
  · rfl

/-- Counters to clear once the cycle `now` is over (R476). -/
def TrimCount.clearedAt (x : TrimCount) (now : Nat) : TrimCount := { x with cleared := some now }

theorem TrimCount.shown_clearedAt_same (x : TrimCount) (now : Nat) : (x.clearedAt now).shown now = x.clearedAt now :=
  if_pos rfl

theorem TrimCount.shown_clearedAt_other (x : TrimCount) {now n : Nat} (h : n ≠ now) :
    ((x.clearedAt now).shown n).trims = 0 ∧ ((x.clearedAt now).shown n).flits = 0 := by
  have hshown : (x.clearedAt now).shown n = { x with trims := 0, flits := 0, cleared := none } := if_neg h.symm
  rw [hshown]
  exact ⟨rfl, rfl⟩

/-- A selector has ten bits (R476). -/
theorem toNat_selector (v : Nat) : (put32 v 0x3FF).toNat = v % 2 ^ 10 := by
  rw [put32, BitVec.toNat_ofNat, show 0x3FF = 2 ^ 10 - 1 from rfl, Nat.and_two_pow_sub_one_eq_mod]
  omega

theorem bits_selector (v : Nat) : bits (put32 v 0x3FF).toNat 0 1 = bits v 0 1 := by
  rw [toNat_selector]
  simp only [bits]
  omega

theorem TrimCount.isAt_selector (v : Nat) : TrimCount.isAt (put32 v 0x3FF).toNat = TrimCount.isAt v := by
  have hsite : bits (v % 2 ^ 10) 1 6 = bits v 1 6 := by simp only [bits]; omega
  have hport : bits (v % 2 ^ 10) 7 3 = bits v 7 3 := by simp only [bits]; omega
  funext x
  rw [TrimCount.isAt, TrimCount.isAt, bits_selector, toNat_selector, hsite, hport]

/-- The counters a selector names, as they stand in the present cycle of their die. -/
def State.portTrims (s : State) (n : Nat) : TrimCount :=
  ((s.trims.find? (TrimCount.isAt n)).getD ⟨bits n 0 1, bits n 1 6, bits n 7 3, 0, 0, none⟩).shown (nth s.ncycs (bits n 0 1) 0)

theorem portTrims_isAt (n : Nat) : (s.portTrims n).isAt n = true := by
  rw [State.portTrims, TrimCount.isAt_shown]
  cases hfind : s.trims.find? (TrimCount.isAt n) with
  | none => exact TrimCount.isAt_iff.2 ⟨rfl, rfl, rfl⟩
  | some x => exact List.find?_some hfind

/-- The state after a write of TCSEL with CLR: the counters stand until the cycle is over, and are 0 then (R476). -/
def State.trimsCleared (s : State) (v : Nat) : State :=
  { s with tcsel := put32 v 0x3FF, trims := (s.trims.filter fun x => ! x.isAt v) ++
      [(s.portTrims v).clearedAt (nth s.ncycs (bits v 0 1) 0)] }

theorem selected_selector {v : Nat} (h : s.tcsel = put32 v 0x3FF) :
    s.selected = ((s.trims.find? (TrimCount.isAt v)).getD ⟨0, 0, 0, 0, 0, none⟩).shown (nth s.ncycs (bits v 0 1) 0) := by
  show ((s.trims.find? (TrimCount.isAt s.tcsel.toNat)).getD ⟨0, 0, 0, 0, 0, none⟩).shown (nth s.ncycs (bits s.tcsel.toNat 0 1) 0) = _
  rw [h, TrimCount.isAt_selector, bits_selector]

theorem selected_counts (v : Nat) : (s.withTcsel (put32 v 0x3FF)).selected.trims = (s.portTrims v).trims ∧
    (s.withTcsel (put32 v 0x3FF)).selected.flits = (s.portTrims v).flits := by
  rw [selected_selector (v := v) rfl, State.portTrims]
  show (((s.trims.find? (TrimCount.isAt v)).getD _).shown (nth s.ncycs (bits v 0 1) 0)).trims = _ ∧
    (((s.trims.find? (TrimCount.isAt v)).getD _).shown (nth s.ncycs (bits v 0 1) 0)).flits = _
  cases s.trims.find? (TrimCount.isAt v) <;> exact ⟨rfl, rfl⟩

theorem find_trimsCleared (v : Nat) : (s.trimsCleared v).trims.find? (TrimCount.isAt v) =
    some ((s.portTrims v).clearedAt (nth s.ncycs (bits v 0 1) 0)) := by
  have hgone : (s.trims.filter fun x => ! x.isAt v).find? (TrimCount.isAt v) = none := by
    rw [List.find?_eq_none]
    intro x hx
    simpa using (List.mem_filter.1 hx).2
  have hnew : TrimCount.isAt v ((s.portTrims v).clearedAt (nth s.ncycs (bits v 0 1) 0)) = true := portTrims_isAt v
  rw [State.trimsCleared, List.find?_append, hgone, Option.none_or, List.find?_singleton, if_pos hnew]

theorem selected_trimsCleared (v : Nat) : (s.trimsCleared v).selected.trims = (s.portTrims v).trims ∧
    (s.trimsCleared v).selected.flits = (s.portTrims v).flits := by
  have hshown := TrimCount.shown_clearedAt_same (s.portTrims v) (nth s.ncycs (bits v 0 1) 0)
  rw [selected_selector (v := v) rfl, find_trimsCleared, Option.getD_some]
  exact ⟨(congrArg TrimCount.trims hshown).trans rfl, (congrArg TrimCount.flits hshown).trans rfl⟩

theorem selected_trimsCleared_later {v : Nat} {l : List Nat} (h : nth l (bits v 0 1) 0 ≠ nth s.ncycs (bits v 0 1) 0) :
    ((s.trimsCleared v).withNcycs l).selected.trims = 0 ∧ ((s.trimsCleared v).withNcycs l).selected.flits = 0 := by
  have hfind : ((s.trimsCleared v).withNcycs l).trims.find? (TrimCount.isAt v) = _ := find_trimsCleared v
  rw [selected_selector (v := v) rfl, hfind, Option.getD_some]
  exact TrimCount.shown_clearedAt_other (s.portTrims v) h

theorem mem_trimsCleared {v : Nat} {x : TrimCount} (h : x.isAt v = false) :
    x ∈ (s.trimsCleared v).trims ↔ x ∈ s.trims := by
  have hne : x ≠ (s.portTrims v).clearedAt (nth s.ncycs (bits v 0 1) 0) := by
    rintro rfl
    exact absurd (portTrims_isAt (s := s) v) ((Bool.not_eq_true _).mpr h)
  rw [State.trimsCleared, List.mem_append, List.mem_filter, List.mem_singleton]
  simp [h, hne]

/-- The two words of the selected counters are read by function 0 once the device is past stage 0 (R476). -/
theorem readReg_trims : s.readReg 0 0x608 = (if s.stage = 0 then none else some s.selected.trims.toNat) := by
  by_cases h : s.stage = 0
  · rw [if_pos h]
    exact if_pos ⟨h, rfl⟩
  · rw [if_neg h]
    exact if_neg fun hstage => h hstage.1

theorem readReg_flits : s.readReg 0 0x60C = (if s.stage = 0 then none else some s.selected.flits.toNat) := by
  by_cases h : s.stage = 0
  · rw [if_pos h]
    exact if_pos ⟨h, rfl⟩
  · rw [if_neg h]
    exact if_neg fun hstage => h hstage.1

-- ---------------------------------------------------------------- register reads and writes

theorem execRegisterWrite_word (h : s.arg 2 = 4) :
    exec .registerWrite s = .next (s.writeReg (s.arg 0) (s.arg 1) (s.arg 3 % 2 ^ 32)) := by
  show execRegisterWrite s = _
  rw [execRegisterWrite]
  exact (if_neg (by omega)).trans (if_pos h)

theorem execRegisterWrite_pair (hsize : s.arg 2 = 8) (halign : s.arg 1 % 8 = 0) :
    exec .registerWrite s = .next ((s.writeReg (s.arg 0) (s.arg 1) (s.arg 3 % 2 ^ 32)).writeReg (s.arg 0)
      (s.arg 1 + 4) (s.arg 3 / 2 ^ 32 % 2 ^ 32)) :=
  (if_pos ⟨hsize, halign⟩ : execRegisterWrite s = _)

/-- The capability words answer at every stage, and no write changes them (R486, R487). -/
theorem readReg_caps {i : Nat} (hi : i < 4) : s.readReg 0 (0x40 + 4 * i) = some (nth s.caps i 0).toNat := by
  by_cases h : s.stage = 0
  · interval_cases i <;> exact if_neg fun hstage => nomatch hstage.2
  · interval_cases i <;> exact if_neg fun hstage => h hstage.1

theorem writeReg_caps {i : Nat} (hi : i < 4) (v : Nat) : (s.writeReg 0 (0x40 + 4 * i) v).caps = s.caps := by
  by_cases h : s.stage = 0
  · rw [State.writeReg, if_pos (.inl h)]
  · rw [State.writeReg, if_neg (by omega)]
    interval_cases i <;> rfl

theorem readReg_boot : s.readReg 0 0 = some s.boot.toNat :=
  if_neg fun hstage => nomatch hstage.2

/-- A page that the TDI had when it ended, and that is not its own again, answers nothing (log 14). -/
theorem readReg_gone {vf n o : Nat} (hvf : 1 ≤ vf) (hgone : n ∈ (s.tdi vf).gone) (hown : (s.page n).own ≠ vf) (hlt : vf < 64)
    (hn : n < 256) (ho : o < 4096) : s.readReg vf (4096 * n + o) = none := by
  have hpage : (4096 * n + o) / 4096 = n := by omega
  rw [State.readReg, hpage]
  by_cases h : s.stage = 0
  · refine if_pos ⟨h, ?_⟩
    rw [decide_eq_false (by omega : ¬ vf = 0)]
    rfl
  · rw [if_neg fun hstage => h hstage.1, if_neg (by omega), if_neg (by omega), if_neg hown, if_pos (by simpa using hgone)]

end

/-- Settles O44: the writes by their conditions; TCSEL with CLR through `State.trimsCleared`. -/
theorem registerEventsOccur : Obligations.RegisterEventsOccur := by
  intro s
  refine ⟨rfl, rfl, rfl, ?complete, execScunp_starts, execScunpDone_unpins, execImagePost_posts, execImagePostDone_verifies,
    execKeyInstall_installs, ?trims, ?ring, execRegisterWrite_word, execRegisterWrite_pair, ?caps, readReg_boot, ?gone⟩
  case complete =>
    intro c hc hbusy hold
    exact execInvalidationComplete_completes hc hbusy hold
  case trims =>
    obtain ⟨htrims, hflits⟩ := selected_trimsCleared (s := s) (s.arg 0)
    obtain ⟨htrimsBefore, hflitsBefore⟩ := selected_counts (s := s) (s.arg 0)
    refine ⟨s.trimsCleared (s.arg 0), rfl, toNat_selector _, ?_, ?_, ?_, ?_⟩
    · intro x hx
      exact mem_trimsCleared ((Bool.not_eq_true _).mp fun hat => hx (TrimCount.isAt_iff.1 hat))
    · rw [readReg_trims, readReg_trims, htrims, ← htrimsBefore]
      rfl
    · rw [readReg_flits, readReg_flits, hflits, ← hflitsBefore]
      rfl
    · intro hstage l hl
      obtain ⟨htrimsLater, hflitsLater⟩ := selected_trimsCleared_later hl
      refine ⟨?_, ?_⟩
      · rw [readReg_trims, htrimsLater]
        exact if_neg hstage
      · rw [readReg_flits, hflitsLater]
        exact if_neg hstage
  case ring =>
    intro c hc hidle hsize s1 hs1
    exact execFqcWrite_writes hc hidle hsize hs1
  case caps =>
    intro i hi
    exact ⟨readReg_caps hi, fun v => writeReg_caps hi v⟩
  case gone =>
    intro vf n o hvf hgone hown hlt hn ho
    exact readReg_gone hvf hgone hown hlt hn ho

end Machine
end Sys2Proof
end
section
/-! PROOFS. O43: handler entry, pre-emption, save, restore, creation and destruction occur with their effects (R366 to R385, R445, R479). -/

namespace Sys2Proof
namespace Machine

section
variable {s : State} {tm : Team} {c : Ctx}

-- ---------------------------------------------------------------- handler entry and pre-emption

theorem execHandlerEntryOpen_opens (htm : s.team? (s.argTeam 0) = some tm) (hentry : tm.entry = .closed)
    (hrec : ∃ r ∈ s.recs, r.ctx = (s.argTeam 0).ctx ∧ r.grid = (s.argTeam 0).grid ∧ r.team = (s.argTeam 0).team)
    (hstill : s.teamAll (s.argTeam 0) TState.isParked = true ∨ tm.lastIssue + 256 ≤ s.now tm.core) :
    exec .handlerEntryOpen s = .next ((s.updTeam (s.argTeam 0) fun u => { u with entry := .opened, posted := 0 }).postRecord (dieOf tm.core)
      { s.deviceRecord (s.argTeam 0).ctx 0 tm.posted 0 (s.argTeam 0).grid with ent := true, team := (s.argTeam 0).team }) := by
  have hopen : (s.recs.any fun r => decide (r.ctx = (s.argTeam 0).ctx) && decide (r.grid = (s.argTeam 0).grid)
      && decide (r.team = (s.argTeam 0).team)) = true := by
    obtain ⟨r, hr, hctx, hgrid, hteam⟩ := hrec
    exact List.any_eq_true.2 ⟨r, hr, by simp [hctx, hgrid, hteam]⟩
  have hquiet : (s.teamAll (s.argTeam 0) TState.isParked || decide (tm.lastIssue + 256 ≤ s.now tm.core)) = true := by
    rw [Bool.or_eq_true, decide_eq_true_eq]
    exact hstill
  show execHandlerEntryOpen s = _
  simp only [execHandlerEntryOpen, htm, hopen, hquiet, hentry, ne_eq, not_true_eq_false, Bool.not_true, Bool.false_eq_true, or_self, if_false]

theorem execPreemptRequest_requests (hc : s.ctx? (s.arg 0) = some c) (hlive : c.live = true)
    (hstat : c.pstat = 0 ∨ c.pstat = 5 ∨ c.pstat = 6) : exec .preemptRequest s =
      .next (((s.mapTeams (s.deadlines (s.arg 0))).updCtx (s.arg 0) Ctx.requested).startSaving (s.arg 0)) := by
  show execPreemptRequest s = _
  simp only [execPreemptRequest, hc]
  exact if_pos ⟨hlive, hstat⟩

theorem execTeamFreeze_freezes (htm : s.team? (s.argTeam 0) = some tm) (hreq : s.requested tm = true) (hfrozen : tm.frozen = none)
    (hstill : s.still (s.argTeam 0) = true) : exec .teamFreeze s = .next (s.freeze (s.argTeam 0) false) := by
  show execTeamFreeze s = _
  simp only [execTeamFreeze, htm, hreq, hfrozen, hstill, Option.isNone_none, Bool.and_self, if_true]

theorem execPreemptDeadline_freezes {d : Nat} (htm : s.team? (s.argTeam 0) = some tm) (hreq : s.requested tm = true)
    (hfrozen : tm.frozen = none) (hd : tm.deadline = some d) (hdue : d ≤ s.now tm.core) :
    exec .preemptDeadline s = .next (s.freeze (s.argTeam 0) true) := by
  show execPreemptDeadline s = _
  simp only [execPreemptDeadline, htm, hreq, hfrozen, hd, hdue, Option.isNone_none, decide_true, Bool.and_self, if_true]

-- ---------------------------------------------------------------- save

/-- The end of a save: no grid to save, grids that are not drained yet, an area too small, or the image written (R380, R381). -/
def State.saveEnd (s : State) (c : Ctx) (ctx : Nat) : State :=
  if (s.savedGrids ctx).isEmpty then s.leaveSave ctx 5 0
  else if ! s.drained ctx then s.startSaving ctx
  else
    let s1 := s.readyToSave ctx
    let st := if s1.teams.any fun t => s1.preemptable ctx t && t.frozen = some true then 4 else 3
    let img := s1.image (s1.page ctx) st
    if c.csas.toNat * 4096 < img.length then (s.drainOut ctx).leaveSave ctx 6 (ceilDiv img.length 4096)
    else s1.saveOut ctx c.csab.toNat st img

theorem execContextSaveComplete_eq (hc : s.ctx? (s.arg 0) = some c) (hreq : c.preq = true) (hstat : c.pstat = 1 ∨ c.pstat = 2) :
    exec .contextSaveComplete s = .next ((s.reapTeams.endGrids (s.arg 0)).saveEnd c (s.arg 0)) := by
  have hgo : ¬ (! c.preq ∨ c.pstat ≠ 1 ∧ c.pstat ≠ 2) := by
    rw [hreq]
    rintro (h | h)
    · exact nomatch h
    · omega
  show execContextSaveComplete s = _
  simp only [execContextSaveComplete, hc]
  refine (if_neg hgo).trans ?_
  rw [State.saveEnd]
  by_cases hnone : ((s.reapTeams.endGrids (s.arg 0)).savedGrids (s.arg 0)).isEmpty = true
  · rw [if_pos hnone, if_pos hnone]
  rw [if_neg hnone, if_neg hnone]
  by_cases hdrained : (! (s.reapTeams.endGrids (s.arg 0)).drained (s.arg 0)) = true
  · rw [if_pos hdrained, if_pos hdrained]
  rw [if_neg hdrained, if_neg hdrained]
  exact (apply_ite Host.Outcome.next _ _ _).symm

theorem saveEnd_none {ctx : Nat} (h : s.savedGrids ctx = []) : s.saveEnd c ctx = s.leaveSave ctx 5 0 :=
  if_pos (by rw [h]; rfl)

theorem saveEnd_waits {ctx : Nat} (h : s.savedGrids ctx ≠ []) (hdrained : s.drained ctx = false) :
    s.saveEnd c ctx = s.startSaving ctx :=
  (if_neg (mt List.isEmpty_iff.1 h)).trans (if_pos (by rw [hdrained]; rfl))

theorem saveEnd_ends {ctx st : Nat} {s1 : State} {img : List Byte} (h : s.savedGrids ctx ≠ []) (hdrained : s.drained ctx = true)
    (hs1 : s1 = s.readyToSave ctx) (hst : st = if s1.teams.any fun t => s1.preemptable ctx t && t.frozen = some true then 4 else 3)
    (himg : img = s1.image (s1.page ctx) st) : s.saveEnd c ctx =
      if c.csas.toNat * 4096 < img.length then (s.drainOut ctx).leaveSave ctx 6 (ceilDiv img.length 4096)
      else s1.saveOut ctx c.csab.toNat st img := by
  subst hs1 hst himg
  exact (if_neg (mt List.isEmpty_iff.1 h)).trans (if_neg (by rw [hdrained]; decide))

-- ---------------------------------------------------------------- restore

theorem execRestoreGo_unplaced (hc : s.ctx? (s.arg 0) = some c) (hlive : c.live = true) (hstat : c.pstat = 3 ∨ c.pstat = 4 ∨ c.pstat = 8)
    (hcores : s.partitionCores c.cxpm = []) : exec .restoreGo s = .next (s.restoreFails (s.arg 0) 0) := by
  have hgo : ¬ (! c.live ∨ c.pstat ≠ 3 ∧ c.pstat ≠ 4 ∧ c.pstat ≠ 8) := by
    rw [hlive]
    rintro (h | h)
    · exact nomatch h
    · omega
  show execRestoreGo s = _
  simp only [execRestoreGo, hc]
  exact (if_neg hgo).trans (if_pos (by rw [hcores]; rfl))

/-- What RESTORE reads: the save image of the context, whose grids are not to meet those that it still has (R382). -/
def State.savedImage (s : State) (c : Ctx) (ctx : Nat) : Except Nat (RawImage × Nat) :=
  ((Src8.mk s.home c.csab.toNat (memRead s.home (c.csab.toNat + 8) 8)).image ctx
    ((s.grids.filter fun g => decide (g.id.ctx = ctx) && ! g.saved).map fun g => g.id.grid)).run 0

/-- The first team of an image that its grid or the partition has no place for. -/
def RawImage.misfit (img : RawImage) (clusters : List Nat) : Option Nat :=
  img.grids.findSome? fun g => (g.teams.findSome? fun t => t.flaw g.launch) <|> g.misplaced clusters

theorem execRestoreGo_reads (hc : s.ctx? (s.arg 0) = some c) (hlive : c.live = true) (hstat : c.pstat = 3 ∨ c.pstat = 4 ∨ c.pstat = 8)
    (hcores : s.partitionCores c.cxpm ≠ []) : exec .restoreGo s = .next (match s.savedImage c (s.arg 0) with
      | .error off => s.restoreFails (s.arg 0) off
      | .ok (img, _) => match img.misfit (clustersOf (s.partitionCores c.cxpm)) with
        | some off => s.restoreFails (s.arg 0) off
        | none => s.restoreFrom (s.arg 0) img) := by
  have hgo : ¬ (! c.live ∨ c.pstat ≠ 3 ∧ c.pstat ≠ 4 ∧ c.pstat ≠ 8) := by
    rw [hlive]
    rintro (h | h)
    · exact nomatch h
    · omega
  show execRestoreGo s = _
  simp only [execRestoreGo, hc]
  refine (if_neg hgo).trans ((if_neg (mt List.isEmpty_iff.1 hcores)).trans ?_)
  rw [State.savedImage]
  generalize ((Src8.mk s.home c.csab.toNat (memRead s.home (c.csab.toNat + 8) 8)).image (s.arg 0)
    ((s.grids.filter fun g => decide (g.id.ctx = s.arg 0) && ! g.saved).map fun g => g.id.grid)).run 0 = parse
  cases parse with
  | error off => rfl
  | ok read =>
    obtain ⟨img, n⟩ := read
    dsimp only [RawImage.misfit]
    cases img.grids.findSome? fun g => (g.teams.findSome? fun t => t.flaw g.launch) <|> g.misplaced (clustersOf (s.partitionCores c.cxpm)) <;> rfl

theorem RawImage.misfit_eq_none {img : RawImage} {clusters : List Nat}
    (h : ∀ g ∈ img.grids, (∀ t ∈ g.teams, t.flaw g.launch = none) ∧ g.misplaced clusters = none) : img.misfit clusters = none := by
  rw [RawImage.misfit, List.findSome?_eq_none_iff]
  intro g hg
  obtain ⟨hteams, hplaced⟩ := h g hg
  rw [List.findSome?_eq_none_iff.2 hteams, hplaced]
  rfl

theorem execGoResumeFrozen_thaws (hc : s.ctx? (s.arg 0) = some c) (hstat : c.pstat = 6) {s1 : State}
    (hs1 : s1 = (s.mapTeams (Team.thaw (s.arg 0))).updCtx (s.arg 0) (fun x => { x with pstat := 0 })) :
    exec .goResumeFrozen s = .next ((s1.threads.filter fun x => decide (x.id.ctx = s.arg 0) && decide (x.st = .parked .yielding)).foldl
      (fun s x => s.wakeThread x.id) s1) := by
  subst hs1
  show execGoResumeFrozen s = _
  simp only [execGoResumeFrozen, hc]
  exact if_neg (not_not.2 hstat)

-- ---------------------------------------------------------------- creation and destruction

theorem execContextCreate_creates {n : Nat} (hn : n = s.arg 0 % 256) (hc : c = s.page n) (hlive : c.live = false) (hbusy : c.busy = false)
    (hbit : s.arg 1 % 2 = 1) (hbound : s.tdiBound c = false) (hcores : s.partitionCores c.cxpm ≠ []) :
    exec .contextCreate s = .next (((s.updPage n fun _ => createdCtx n (s.arg 1) c.cxpm).updCtx n Ctx.alive).becomeResident n) := by
  subst hn hc
  have hset : bitAt (s.arg 1) 0 = true := by
    rw [bitAt]
    simpa using hbit
  have hgo : ((s.page (s.arg 0 % 256)).live || (s.page (s.arg 0 % 256)).busy || ! bitAt (s.arg 1) 0 || s.tdiBound (s.page (s.arg 0 % 256)))
      = false := by rw [hlive, hbusy, hset, hbound]; rfl
  show execContextCreate s = _
  simp only [execContextCreate]
  exact (if_neg ((Bool.not_eq_true _).mpr hgo)).trans (if_neg (mt List.isEmpty_iff.1 hcores))

theorem execContextDestroy_destroys (hc : s.ctx? (s.arg 0) = some c) (hlive : c.live = true) (hbusy : c.busy = false)
    (hbound : s.tdiBound c = false) : exec .contextDestroy s =
      .next (((((s.killContext (s.arg 0)).drainAll.writeBack fun _ => true).sweep (s.arg 0) 0 allGranules).updCtx
        (s.arg 0) Ctx.destroyed).releaseImages) := by
  have hgo : (! c.live || c.busy || s.tdiBound c) = false := by rw [hlive, hbusy, hbound]; rfl
  show execContextDestroy s = _
  simp only [execContextDestroy, hc]
  exact if_neg ((Bool.not_eq_true _).mpr hgo)

theorem execContextDestroyDone_empties (hc : s.ctx? (s.arg 0) = some c) (hbusy : c.busy = true) (hlive : c.live = false) :
    exec .contextDestroyDone s = .next (s.updCtx (s.arg 0) fun _ => emptyCtx (s.arg 0)) := by
  show execContextDestroyDone s = _
  simp only [execContextDestroyDone, hc]
  exact if_pos (by rw [hbusy, hlive]; rfl)

end

/-- Settles O43: the save through `State.saveEnd`, the restore through what it reads and the misfit of its image. -/
theorem contextEventsOccur : Obligations.ContextEventsOccur := by
  intro s
  refine ⟨?entry, rfl, ?request, ?frozen, ?save, ?restore, ?resume, ?create, ?destroy, ?destroyed⟩
  case entry =>
    intro tm htm hentry hrec hstill
    exact execHandlerEntryOpen_opens htm hentry hrec hstill
  case request =>
    intro c hc hlive hstat
    exact execPreemptRequest_requests hc hlive hstat
  case frozen =>
    intro tm htm hreq hfrozen
    exact ⟨execTeamFreeze_freezes htm hreq hfrozen, fun d hd hdue => execPreemptDeadline_freezes htm hreq hfrozen hd hdue⟩
  case save =>
    rintro c hc hreq hstat s0 rfl
    rw [execContextSaveComplete_eq hc hreq hstat]
    refine ⟨fun hnone => by rw [saveEnd_none hnone], fun hsome hdrained => by rw [saveEnd_waits hsome hdrained], ?_⟩
    intro hsome hdrained s1 st img hs1 hst himg
    rw [saveEnd_ends hsome hdrained hs1 hst himg]
    exact ⟨fun hsmall => by rw [if_pos hsmall], fun hroom => by rw [if_neg (Nat.not_lt.2 hroom)]⟩
  case restore =>
    intro c hc hlive hstat
    refine ⟨execRestoreGo_unplaced hc hlive hstat, ?_⟩
    intro hcores parse hparse
    have hread : s.savedImage c (s.arg 0) = parse := hparse.symm
    rw [execRestoreGo_reads hc hlive hstat hcores, hread]
    refine ⟨fun off hoff => by rw [hoff], ?_⟩
    intro img n himg hfits
    rw [himg]
    dsimp only
    rw [RawImage.misfit_eq_none hfits]
  case resume =>
    intro c hc hstat s1 hs1
    exact execGoResumeFrozen_thaws hc hstat hs1
  case create =>
    intro n c hn hc hlive hbusy hbit hbound hcores
    exact execContextCreate_creates hn hc hlive hbusy hbit hbound hcores
  case destroy =>
    intro c hc hlive hbusy hbound
    exact execContextDestroy_destroys hc hlive hbusy hbound
  case destroyed =>
    intro c hc hbusy hlive
    exact execContextDestroyDone_empties hc hbusy hlive

end Machine
end Sys2Proof
end
section
/-! PROOFS. O45: packets and chains move, and what is retained is sent again (R386 to R400). -/

namespace Sys2Proof
namespace Machine

section
variable {s : State} {p : Packet}

-- ---------------------------------------------------------------- a packet enters the network

/-- What moves when packets move: packets, links, rotations and counters of trims, but no transaction (R387 to R392). -/
def State.OnlyMoves (s s2 : State) : Prop :=
  s2 = { s with packets := s2.packets, wires := s2.wires, trims := s2.trims, routers := s2.routers, nextId := s2.nextId }

theorem State.OnlyMoves.trans {s1 s2 : State} (h1 : s.OnlyMoves s1) (h2 : s1.OnlyMoves s2) : s.OnlyMoves s2 :=
  Eq.trans h2 (by rw [h1])

theorem State.SameButNetwork.trans {s1 s2 : State} (h1 : s.SameButNetwork s1) (h2 : s1.SameButNetwork s2) : s.SameButNetwork s2 :=
  Eq.trans h2 (by rw [h1])

theorem State.OnlyMoves.sameButNetwork {s2 : State} (h : s.OnlyMoves s2) : s.SameButNetwork s2 := by
  unfold State.SameButNetwork
  rw [h]

theorem State.OnlyMoves.retained {s2 : State} (h : s.OnlyMoves s2) : s2.retained = s.retained := by rw [h]

theorem State.OnlyMoves.sources {s2 : State} (h : s.OnlyMoves s2) : s2.sources = s.sources := by rw [h]

theorem useHead_isSome_congr {s1 : State} {l : NetPlace} (hwires : s1.wires = s.wires) (hncycs : s1.ncycs = s.ncycs)
    (h : (s.useHead l).isSome = true) : (s1.useHead l).isSome = true := by
  have hwire : s1.wire l = s.wire l := by rw [State.wire, State.wire, hwires]
  rw [State.useHead] at h ⊢
  rw [hwire, hncycs]
  by_cases hused : (s.wire l).head = some (nth s.ncycs l.die 0)
  · exact absurd h (by rw [if_pos hused]; decide)
  · exact congrArg Option.isSome (if_neg hused)

/-- A header takes the place of its n-cycle on a link: only the link moves. -/
theorem useHead_moves {s1 : State} {l : NetPlace} (h : s.useHead l = some s1) :
    s.OnlyMoves s1 ∧ s1.packets = s.packets ∧ s1.routers = s.routers ∧ s1.ncycs = s.ncycs := by
  rw [State.useHead] at h
  by_cases hused : (s.wire l).head = some (nth s.ncycs l.die 0)
  · exact absurd h (by rw [if_pos hused]; exact nofun)
  · obtain rfl : s.setWire { s.wire l with head := some (nth s.ncycs l.die 0) } = s1 := Option.some.inj ((if_neg hused).symm.trans h)
    exact ⟨rfl, rfl, rfl, rfl⟩

/-- The rotations of the routers once a header of entry `port` has had its turn in n-cycle `n`, if it has one (R388). -/
def turnsAfter (l : List RouterTurn) (n die site port : Nat) : Option (List RouterTurn) :=
  let here (x : RouterTurn) : Bool := decide (x.die = die) && decide (x.site = site)
  let others := l.filter fun x => ! here x
  match l.find? here with
  | none => some (others ++ [⟨die, site, 4, n, port, port, false⟩])
  | some x =>
    let after := if x.contested && decide (x.tick ≠ n) then x.first else x.after
    if x.tick ≠ n then some (others ++ [⟨die, site, after, n, port, port, false⟩])
    else if portPlace after x.latest < portPlace after port then some (others ++ [{ x with latest := port, contested := true }])
    else none

theorem contend_eq (die site port : Nat) : s.contend die site port =
    (turnsAfter s.routers (nth s.ncycs die 0) die site port).map fun l => { s with routers := l } := by
  unfold State.contend turnsAfter
  dsimp only
  cases s.routers.find? fun x => decide (x.die = die) && decide (x.site = site) with
  | none => rfl
  | some x =>
    dsimp only
    rw [apply_ite (Option.map _), apply_ite (Option.map _)]
    rfl

theorem contend_isSome_congr {s1 : State} {die site port : Nat} (hrouters : s1.routers = s.routers) (hncycs : s1.ncycs = s.ncycs)
    (h : (s.contend die site port).isSome = true) : (s1.contend die site port).isSome = true := by
  rw [contend_eq, Option.isSome_map] at h ⊢
  rwa [hrouters, hncycs]

theorem contend_moves {s1 : State} {die site port : Nat} (h : s.contend die site port = some s1) :
    s.OnlyMoves s1 ∧ s1.packets = s.packets := by
  rw [contend_eq, Option.map_eq_some_iff] at h
  obtain ⟨l, _, rfl⟩ := h
  exact ⟨rfl, rfl⟩

theorem countTrim_moves (die site port nf : Nat) :
    s.OnlyMoves (s.countTrim die site port nf) ∧ (s.countTrim die site port nf).packets = s.packets := by
  unfold State.countTrim
  dsimp only
  split <;> exact ⟨rfl, rfl⟩

/-- Where a port has no room for a packet it is trimmed (R389): what was there is there still, or cut. -/
theorem decideTrim_moves (id : Nat) : s.OnlyMoves (s.decideTrim id) ∧
    ∀ q ∈ s.packets, q ∈ (s.decideTrim id).packets ∨ q.id = id ∧ q.cut ∈ (s.decideTrim id).packets := by
  unfold State.decideTrim
  split
  · exact ⟨rfl, fun q hq => .inl hq⟩
  · next r _ =>
    split
    · obtain ⟨hmoves, hpackets⟩ := countTrim_moves (s := s) r.die r.site r.hop.port (hdrNf r.header)
      refine ⟨hmoves.trans rfl, fun q hq => ?_⟩
      rw [← hpackets] at hq
      have hmap := List.mem_map_of_mem (f := fun p : Packet => if p.id = id then p.cut else p) hq
      by_cases hid : q.id = id
      · rw [if_pos hid] at hmap
        exact .inr ⟨hid, hmap⟩
      · rw [if_neg hid] at hmap
        exact .inl hmap
    · exact ⟨rfl, fun q hq => .inl hq⟩

theorem inject_enters {l : NetPlace} {h : Dword} {payload : List (BitVec 512)} {owner : NetOwner}
    (hp : p = enteringPacket s.nextId h payload owner) (htrail : p.trail = [l]) (hroom : s.roomAt l 0 h = true)
    (hhead : (s.useHead l).isSome = true) (hturn : (s.contend p.die p.site (entryPort (hdrSrc h))).isSome = true) :
    ∃ s2, s.inject h payload owner = some s2 ∧ s.OnlyMoves s2 ∧ ∃ q ∈ s2.packets, q = p ∨ q = p.cut := by
  obtain ⟨s1, hs1⟩ := Option.isSome_iff_exists.1 hhead
  obtain ⟨hmoves1, _, hrouters, hncycs⟩ := useHead_moves hs1
  obtain ⟨s2, hs2⟩ := Option.isSome_iff_exists.1 (contend_isSome_congr hrouters hncycs hturn)
  obtain ⟨hmoves2, _⟩ := contend_moves hs2
  obtain ⟨hmoves3, hkept⟩ := decideTrim_moves (s := { s2 with packets := s2.packets ++ [p], nextId := s.nextId + 1 }) s.nextId
  refine ⟨({ s2 with packets := s2.packets ++ [p], nextId := s.nextId + 1 } : State).decideTrim s.nextId, ?_,
    (hmoves1.trans hmoves2).trans ((show s2.OnlyMoves { s2 with packets := s2.packets ++ [p], nextId := s.nextId + 1 } from rfl).trans hmoves3), ?_⟩
  · subst hp
    simp only [State.inject, htrail, List.head?_cons, hroom, hs1, hs2, Bool.not_true, Bool.false_eq_true, if_false]
  · rcases hkept p (List.mem_append_right _ (List.mem_singleton_self p)) with hq | ⟨_, hq⟩
    · exact ⟨p, hq, .inl rfl⟩
    · exact ⟨p.cut, hq, .inr rfl⟩

theorem startSend_sameButNetwork (h : Dword) (payload : List (BitVec 512)) (owner : NetOwner) (sector : Option Nat) :
    s.SameButNetwork (s.startSend h payload owner sector) := by
  unfold State.startSend
  dsimp only
  split <;> split <;> rfl

theorem startSend_keeps (h : Dword) (payload : List (BitVec 512)) (owner : NetOwner) (sector : Option Nat) :
    (s.startSend h payload owner sector).packets = s.packets ∧ (s.startSend h payload owner sector).nextId = s.nextId ∧
    (s.startSend h payload owner sector).wires = s.wires ∧ (s.startSend h payload owner sector).routers = s.routers ∧
    (s.startSend h payload owner sector).ncycs = s.ncycs := by
  unfold State.startSend
  dsimp only
  split <;> split <;> exact ⟨rfl, rfl, rfl, rfl, rfl⟩

/-- A source retains what has a payload to send again (R392). -/
theorem startSend_retains {h : Dword} (hkeeps : keepsPayload h = true) (payload : List (BitVec 512)) (owner : NetOwner)
    (sector : Option Nat) : ⟨h, payload, owner, sector⟩ ∈ (s.startSend h payload owner sector).retained := by
  unfold State.startSend
  simp only [hkeeps, if_true]
  split <;> exact List.mem_append_right _ (List.mem_singleton_self _)

theorem seqNext_seqPut (l : List Stream) (ports : Nat) (next : BitVec 8) : seqNext (seqPut l ports next) ports = next := by
  have hgone : (l.filter fun x => decide (x.ports ≠ ports)).find? (fun x => decide (x.ports = ports)) = none := by
    rw [List.find?_eq_none]
    intro x hx
    simpa using (List.mem_filter.1 hx).2
  rw [seqNext, seqPut, List.find?_append, hgone, Option.none_or, List.find?_singleton, if_pos (decide_eq_true rfl)]

theorem startSend_sequence {h : Dword} (hos : hdrOs h = true) (payload : List (BitVec 512)) (owner : NetOwner) (sector : Option Nat) :
    seqNext (s.startSend h payload owner sector).sources (hdrPorts h) = seqNext s.sources (hdrPorts h) + 1 := by
  unfold State.startSend
  simp only [hos, if_true]
  split <;> exact seqNext_seqPut _ _ _

theorem roomAt_startSend {h : Dword} (payload : List (BitVec 512)) (owner : NetOwner) (sector : Option Nat) (l : NetPlace) :
    (s.startSend h payload owner sector).roomAt l 0 h = s.roomAt l 0 h := by
  obtain ⟨hpackets, _⟩ := startSend_keeps (s := s) h payload owner sector
  show (decide (hdrLane h = 0) || decide (((s.startSend h payload owner sector).packets.filter fun q =>
    decide (hdrLane q.header = hdrLane h) && q.fills l).length < laneCap (hdrLane h))) = _
  rw [hpackets]
  rfl

theorem execPacketHeaderArrival_sends {h : Dword} {l : NetPlace} {payload : List (BitVec 512)} {owner : NetOwner} (hturn : s.arg 0 = 0)
    (hh : h = BitVec.ofNat 64 (s.arg 1)) (hpay : payload = (List.range (hdrNf h)).map (fun i => BitVec.ofNat 512 (s.arg (6 + i))))
    (howner : owner = ownerOf (s.arg 3) (s.arg 4) (s.arg 5)) (hmay : s.maySend h (s.arg 2) = true)
    (hp : p = enteringPacket s.nextId h payload owner) (htrail : p.trail = [l]) (hroom : s.roomAt l 0 h = true)
    (hhead : (s.useHead l).isSome = true) (hfirst : (s.contend p.die p.site (entryPort (hdrSrc h))).isSome = true) :
    ∃ s2, exec .packetHeaderArrival s = .next s2 ∧ s.SameButNetwork s2 ∧
      (keepsPayload h = true → ⟨h, payload, owner, some (s.arg 2)⟩ ∈ s2.retained) ∧
      (hdrOs h = true → seqNext s2.sources (hdrPorts h) = seqNext s.sources (hdrPorts h) + 1) ∧
      (∃ q ∈ s2.packets, q.id = s.nextId ∧ q.die = p.die ∧ q.site = p.site ∧ q.unit = 0 ∧ (q = p ∨ q = p.cut)) := by
  obtain ⟨_, hnext, hwires, hrouters, hncycs⟩ := startSend_keeps (s := s) h payload owner (some (s.arg 2))
  have hp1 : p = enteringPacket (s.startSend h payload owner (some (s.arg 2))).nextId h payload owner := by rw [hnext, hp]
  obtain ⟨s2, hs2, hmoves, q, hq, hcut⟩ := inject_enters hp1 htrail ((roomAt_startSend _ _ _ l).trans hroom)
    (useHead_isSome_congr hwires hncycs hhead) (contend_isSome_congr hrouters hncycs hfirst)
  refine ⟨s2, ?_, (startSend_sameButNetwork h payload owner _).trans hmoves.sameButNetwork, ?_, ?_, q, hq, ?_⟩
  · show execPacketHeaderArrival s = _
    rw [execPacketHeaderArrival, hturn]
    subst hh hpay howner
    simp only [State.sendNew, hmay, Bool.not_true, Bool.false_eq_true, if_false, hs2, Option.getD_some]
  · intro hkeeps
    rw [hmoves.retained]
    exact startSend_retains hkeeps payload owner _
  · intro hos
    rw [hmoves.sources]
    exact startSend_sequence hos payload owner _
  · rcases hcut with rfl | rfl
    · exact ⟨by rw [hp]; rfl, rfl, rfl, by rw [hp]; rfl, .inl rfl⟩
    · exact ⟨by rw [hp]; rfl, rfl, rfl, by rw [hp]; rfl, .inr rfl⟩

-- ---------------------------------------------------------------- headers and flits move

theorem packet_id {id : Nat} (hp : s.packet? id = some p) : p.id = id := by
  simpa using List.find?_some hp

theorem execPacketHeaderArrival_settles (hturn : s.arg 0 = 1) (hp : s.packet? (s.arg 1) = some p) (hthere : 2 ≤ p.unit) :
    exec .packetHeaderArrival s = .next (s.settleAt (s.arg 1)) := by
  show execPacketHeaderArrival s = _
  rw [execPacketHeaderArrival, hturn]
  simp only [State.moveHeader, hp, if_pos hthere]

theorem execPacketHeaderArrival_hops {s1 s2 : State} (hturn : s.arg 0 = 1) (hp : s.packet? (s.arg 1) = some p) (hunit : p.unit < 2)
    (hroom : s.hopRoom p = true) (hfirst : s.outranked p = false) (hs1 : s.useHead p.place = some s1)
    (hs2 : (if p.hop.unit = 0 then s1.contend p.hop.die p.hop.site p.hop.entry else some s1) = some s2) :
    exec .packetHeaderArrival s = .next ((((s2.keepHeader p).updPacket (s.arg 1) Packet.hopped).decideTrim (s.arg 1)).settleAt (s.arg 1)) := by
  show execPacketHeaderArrival s = _
  rw [execPacketHeaderArrival, hturn]
  simp only [State.moveHeader, hp, Nat.not_le.2 hunit, if_false, hroom, hfirst, Bool.not_true, Bool.false_eq_true, or_self, hs1, hs2]

theorem execPacketHeaderArrival_resends {x : Outgoing} {s2 : State} (hturn : s.arg 0 = 2) (hx : s.outbox[s.arg 1]? = some x)
    (hold : x.fresh = false) (hs2 : (s.withOutbox (s.outbox.eraseIdx (s.arg 1))).inject x.header x.payload x.owner = some s2) :
    exec .packetHeaderArrival s = .next s2 := by
  show execPacketHeaderArrival s = _
  rw [execPacketHeaderArrival, hturn]
  simp only [State.sendWaiting, hx, hold, Bool.and_false, Bool.false_and, Bool.false_eq_true, if_false]
  exact congrArg (fun o => Host.Outcome.next (Option.getD o s)) hs2

theorem execPacketHeaderArrival_starts {x : Outgoing} {h : Dword} {s2 : State} (hturn : s.arg 0 = 2) (hx : s.outbox[s.arg 1]? = some x)
    (hnew : x.fresh = true) (hmay : s.mayStart h x.sector = true)
    (hh : h = if hdrOs x.header = true then withSeq x.header (seqNext s.sources (hdrPorts x.header)).toNat else x.header)
    (hs2 : ((s.withOutbox (s.outbox.eraseIdx (s.arg 1))).startSend h x.payload x.owner x.sector).inject h x.payload x.owner = some s2) :
    exec .packetHeaderArrival s = .next s2 := by
  subst hh
  show execPacketHeaderArrival s = _
  rw [execPacketHeaderArrival, hturn]
  simp only [State.sendWaiting, hx, hnew, hmay, Bool.and_true, Bool.true_and, Bool.not_true, Bool.false_eq_true, if_false, if_true]
  exact congrArg (fun o => Host.Outcome.next (Option.getD o _)) hs2

theorem execPacketHeaderArrival_flit {i : Nat} {l : NetPlace} (hturn : s.arg 0 = 3) (hp : s.packet? (s.arg 1) = some p)
    (hi : p.flits[s.arg 2]? = some i) (hl : p.trail[i]? = some l) (hready : p.ready (s.arg 2) i = true)
    (hfree : (s.wire l).flit ≠ some (nth s.ncycs l.die 0))
    (hfirst : ∀ q ∈ s.packets, lanePlace (hdrLane q.header) < lanePlace (hdrLane p.header) → ∀ n k m, q.trail[n]? = some m →
      m.link l = true → q.ready k n = false) :
    exec .packetHeaderArrival s = .next (((s.setWire ((s.wire l).movedFlit (nth s.ncycs l.die 0))).updPacket (s.arg 1) fun q =>
      q.flitAt (s.arg 2) (i + 1)).settleAt (s.arg 1)) := by
  have hnone : (s.packets.any fun q => decide (lanePlace (hdrLane q.header) < lanePlace (hdrLane p.header))
      && q.trail.zipIdx.any fun x => x.1.link l && (List.range q.flits.length).any fun k => q.ready k x.2) = false := by
    rw [List.any_eq_false]
    intro q hq
    simp only [Bool.and_eq_true, decide_eq_true_eq, List.any_eq_true, not_and]
    rintro hlane ⟨⟨m, n⟩, hm, hlink, k, _, hgoes⟩
    have hstays := hfirst q hq hlane n k m (List.mk_mem_zipIdx_iff_getElem?.1 hm) hlink
    exact absurd hgoes ((Bool.not_eq_true _).mpr hstays)
  show execPacketHeaderArrival s = _
  rw [execPacketHeaderArrival, hturn]
  simp only [State.moveFlit, hp, hi, hl, hready, hfree, Bool.not_true, Bool.false_eq_true, hnone, or_self, if_false]
  rfl

theorem settleAt_trimmed {id : Nat} (hp : s.packet? id = some p) (hunit : p.unit = 2) (htrim : hdrTr p.header = true) :
    s.settleAt id = (s.dropPacket id).noteTrim p.header := by
  simp only [State.settleAt, hp, hunit, htrim, if_true, if_false, ne_eq, not_true_eq_false, Nat.reduceEqDiff]

theorem settleAt_accepts {id : Nat} (hp : s.packet? id = some p) (hunit : p.unit = 2) (htrim : hdrTr p.header = false)
    (horphan : s.orphan p = false) (hkind : hdrKind p.header < 5) (hos : hdrOs p.header = false) (hwhole : p.whole = true)
    (hdone : s.unperformed p = false) : s.settleAt id = (s.dropPacket id).acceptPayload p.header := by
  have hgo : ¬ ((5 ≤ hdrKind p.header ∧ hdrKind p.header ≤ 10) ∨ ! p.whole) := by
    rw [hwhole]
    rintro (h | h)
    · omega
    · exact nomatch h
  have harrive : s.arrive p = (s.dropPacket id).acceptPayload p.header := by
    simp only [State.arrive, hos, hdone, Bool.false_and, Bool.false_eq_true, if_false, packet_id hp]
  simp only [State.settleAt, hp, hunit, htrim, horphan, hgo, if_false, ne_eq, not_true_eq_false, Nat.reduceEqDiff, Bool.false_eq_true, harrive]

-- ---------------------------------------------------------------- what is sent again

theorem execReRequestWindow_asks {r : ReReq} (hr : s.rereqs[s.arg 0]? = some r) (hsent : r.sent = false)
    (hdue : r.due ≤ nth s.ncycs (portDie (hdrDst r.header)) 0) :
    exec .reRequestWindow s = .next ((s.withRereqs (s.rereqs.set (s.arg 0) r.asked)).reply (answerHdr r.header 6 r.count)) := by
  show execReRequestWindow s = _
  simp only [execReRequestWindow, hr]
  refine (if_neg ?_).trans rfl
  rw [hsent, Bool.false_or, decide_eq_true_eq]
  exact Nat.not_lt.2 hdue

theorem execReRequest_sends {r : Retained} (hp : s.landed? (s.arg 0) 6 = some p)
    (hr : (s.retained.find? fun r => r.answers p.header) = some r) : exec .reRequest s = .next ((s.dropPacket p.id).offer
      ⟨withCnt r.header (hdrCnt p.header), r.payload, r.owner, false, r.sector⟩) := by
  show execReRequest s = _
  simp only [execReRequest, hp, hr]

theorem execReRequest_unknown (hp : s.landed? (s.arg 0) 6 = some p) (hnone : ∀ r ∈ s.retained, r.answers p.header = false) :
    exec .reRequest s = .next ((s.dropPacket p.id).reply (answerHdr p.header 5 255)) := by
  have hfind : (s.retained.find? fun r => r.answers p.header) = none := by
    rw [List.find?_eq_none]
    intro r hr
    exact (Bool.not_eq_true _).mpr (hnone r hr)
  show execReRequest s = _
  simp only [execReRequest, hp, hfind]

theorem execDelivered_lost (hp : s.landed? (s.arg 0) 5 = some p) (hcnt : hdrCnt p.header = 255) {mine : ReReq → Bool}
    (hmine : mine = fun r => decide (hdrSrc r.header = hdrSrc p.header) && decide (hdrDst r.header = hdrDst p.header)
      && decide (hdrTag r.header = hdrTag p.header)) :
    exec .delivered s = .next ((s.rereqs.filter mine).foldl (fun s r => s.closeHole r.header)
      ((s.dropPacket p.id).withRereqs (s.rereqs.filter fun r => ! mine r))) := by
  subst hmine
  show execDelivered s = _
  simp only [execDelivered, hp, hcnt, if_true, List.foldl_map]
  rfl

theorem execDelivered_frees (hp : s.landed? (s.arg 0) 5 = some p) (hcnt : hdrCnt p.header ≠ 255) :
    exec .delivered s = .next ((s.dropPacket p.id).withRetained (s.retained.filter fun r => ! r.answers p.header)) := by
  show execDelivered s = _
  simp only [execDelivered, hp, hcnt, if_false]
  rfl

-- ---------------------------------------------------------------- errors of a link

theorem execLinkCrcFailure_header {l : NetPlace} (hp : s.packet? (s.arg 0) = some p) (hturn : s.arg 1 = 0) (hunit : p.unit = 0)
    (hway : 1 < p.trail.length) (hlink : p.viaModule (p.trail.length - 1) = true) (hl : p.trail.getLast? = some l)
    (hsent : p.header ∈ s.replayed l) : exec .linkCrcFailure s = .next (s.updPacket p.id Packet.back) := by
  have hcontains : (s.replayed l).contains p.header = true := List.contains_iff_mem.2 hsent
  show execLinkCrcFailure s = _
  simp only [execLinkCrcFailure, hp, hturn, hl, if_true]
  exact congrArg Host.Outcome.next (if_pos ⟨hunit, by omega, hlink, hcontains⟩)

theorem execLinkCrcFailure_trims {k : Nat} {at_ : NetPlace} (hp : s.packet? (s.arg 0) = some p) (hturn : s.arg 1 ≠ 0)
    (hk : p.flits[s.arg 2]? = some (k + 1)) (hlink : p.viaModule k = true) (htrim : trimmable p.header = true)
    (hat : at_ = nth (p.trail ++ [p.place]) (k + 1) p.place) : exec .linkCrcFailure s = .next
      (((s.countTrim at_.die at_.site 6 (hdrNf p.header)).updPacket p.id Packet.cut).settleAt p.id) := by
  subst hat
  show execLinkCrcFailure s = _
  simp only [execLinkCrcFailure, hp, hturn, hk, Nat.add_sub_cancel, hlink, htrim, if_true, if_false, Nat.add_eq_zero_iff, one_ne_zero,
    and_false, Bool.not_true, Bool.false_eq_true, or_self]

theorem execLinkCrcFailure_flit {k : Nat} (hp : s.packet? (s.arg 0) = some p) (hturn : s.arg 1 ≠ 0)
    (hk : p.flits[s.arg 2]? = some (k + 1)) (hlink : p.viaModule k = true) (htrim : trimmable p.header = false) :
    exec .linkCrcFailure s = .next (s.updPacket p.id fun q => q.flitAt (s.arg 2) k) := by
  show execLinkCrcFailure s = _
  simp only [execLinkCrcFailure, hp, hturn, hk, Nat.add_sub_cancel, hlink, htrim, if_false, Nat.add_eq_zero_iff, one_ne_zero,
    and_false, Bool.not_true, Bool.false_eq_true, or_self]
  rfl

end

-- ---------------------------------------------------------------- chains

section
variable {s : State} {c : Copy}

theorem execChainReservation_walks (hc : s.copy? (s.arg 0) = some c) (hkind : c.kind = 1) (hstarted : c.started = true)
    (hmore : 4096 * c.piece < c.total) (hwalk : c.walk = false)
    (hfree : ∀ y ∈ s.copies, y.id ≠ c.id → clusterOf y.core = clusterOf c.core → y.walking = false)
    (hseated : ∀ r ∈ c.recvs, s.unseated r = false) {c1 : Copy} (hc1 : c1 = c.walks (s.seatedRecvs c)) (hchain : c1.chain ≠ []) :
    exec .chainReservation s = .next ((s.updCopy c.id fun _ => c1).offer
      (c1.chainPacket 7 c1.enginePort (corePort (c1.member 0).core) 0 c1.reservation)) := by
  have hbusy : (s.copies.any fun y => decide (y.id ≠ c.id) && decide (clusterOf y.core = clusterOf c.core) && y.walking) = false := by
    rw [List.any_eq_false]
    intro y hy
    simp only [Bool.and_eq_true, decide_eq_true_eq, not_and, Bool.not_eq_true]
    rintro ⟨hid, hcluster⟩
    exact hfree y hy hid hcluster
  have hnone : c.recvs.any s.unseated = false := by
    rw [List.any_eq_false]
    exact fun r hr => (Bool.not_eq_true _).mpr (hseated r hr)
  subst hc1
  rw [Copy.walks, hkind, hstarted] at hchain ⊢
  show execChainReservation s = _
  simp only [execChainReservation, hc, hkind, hstarted, Nat.not_le.2 hmore, hwalk, hbusy, hnone, ne_eq, not_true_eq_false, Bool.not_true,
    Bool.not_false, Bool.false_eq_true, or_self, if_false, if_true]
  exact congrArg Host.Outcome.next (if_neg (mt List.isEmpty_iff.1 hchain))

/-- The turn of a reservation that stands at a member of the chain (R397). -/
def State.reserveAt (s : State) (c : Copy) (core : Nat) : State :=
  if c.slotAt = some core then (if decide (s.buffersUsed core < 4) then s.takeBuffer c else s)
  else match s.chainAt c 7 (corePort core) with
    | none => s
    | some p => if decide (s.buffersUsed core < 4) then (s.dropPacket p.id).takeBuffer c
      else (s.dropPacket p.id).updCopy c.id fun y => y.waitsAt core

theorem execChainReservation_reserves (hc : s.copy? (s.arg 0) = some c) (hkind : c.kind = 1) (hstarted : c.started = true)
    (hmore : 4096 * c.piece < c.total) (hwalk : c.walk = true) (htaken : c.taken < c.chain.length) :
    exec .chainReservation s = .next (s.reserveAt c (c.member c.taken).core) := by
  show execChainReservation s = _
  simp only [execChainReservation, hc, hkind, hstarted, Nat.not_le.2 hmore, hwalk, Nat.not_le.2 htaken, ne_eq, not_true_eq_false,
    Bool.not_true, Bool.false_eq_true, or_self, if_false]
  rw [State.reserveAt]
  by_cases hslot : c.slotAt = some (c.member c.taken).core
  · rw [if_pos hslot, if_pos hslot]
  · rw [if_neg hslot, if_neg hslot]
    cases s.chainAt c 7 (corePort (c.member c.taken).core) <;> rfl

theorem execChainGrant_grants {k : Nat} {p : Packet} (hc : s.copy? (s.arg 0) = some c) (hk : k < c.taken)
    (hp : s.chainAt c 9 (c.portBefore k) = some p) (hsrc : hdrSrc p.header = corePort (c.member k).core)
    (hfirst : ∀ i < k, ∀ q, s.chainAt c 9 (c.portBefore i) = some q → hdrSrc q.header ≠ corePort (c.member i).core) :
    exec .chainGrant s = .next ((s.dropPacket p.id).updCopy c.id fun y => y.grantOf k) := by
  have hfind : ((List.range c.taken).find? fun k => (s.chainAt c 9 (c.portBefore k)).any fun p =>
      decide (hdrSrc p.header = corePort (c.member k).core)) = some k := by
    rw [List.find?_range_eq_some]
    refine ⟨by rw [hp, Option.any_some, decide_eq_true hsrc], List.mem_range.2 hk, fun i hi => ?_⟩
    cases hq : s.chainAt c 9 (c.portBefore i) with
    | none => rfl
    | some q => rw [Option.any_some, decide_eq_false (hfirst i hi q hq)]; rfl
  show execChainGrant s = _
  simp only [execChainGrant, hc, hfind, hp]
  rfl

theorem execChainData_sends {i : Nat} (hc : s.copy? (s.arg 0) = some c) (hi : c.chain[s.arg 1]? = some i)
    (hnone : s.chainAt c 8 (corePort (c.recv i).core) = none) : exec .chainData s = .next (s.sendChain c (s.arg 1)) := by
  show execChainData s = _
  simp only [execChainData, hc, hi, hnone]

theorem execChainData_takes {i p : Nat} {x : Packet} {s1 : State} (hc : s.copy? (s.arg 0) = some c) (hi : c.chain[s.arg 1]? = some i)
    (hx : s.chainAt c 8 (corePort (c.recv i).core) = some x) (hp : p = (c.recv i).pos) (hseq : hdrSeq x.header = p % 4096 / 256)
    (hhas : c.hasPacket p = true) (hstuck : s.copyStuck c = false) (hopen : s.cairnOpen c (c.recv i).team = true)
    (hs1 : s1 = (c.packet p).foldl (fun s r => s.chainChunk c.id i r) (s.dropPacket x.id)) :
    exec .chainData s = .next (if c.chain.length ≤ s.arg 1 + 1 ∧ c.packetEnd p = c.pieceEnd
      then s1.offer (c.chainPacket 10 (corePort (c.recv i).core) c.enginePort 0 []) else s1) := by
  subst hp hs1
  show execChainData s = _
  simp only [execChainData, hc, hi, hx, hseq, hhas, hstuck, hopen, ne_eq, not_true_eq_false, Bool.not_true, Bool.false_eq_true, or_self,
    if_false, Bool.and_eq_true, decide_eq_true_eq]

theorem execChainDone_continues {p : Packet} (hc : s.copy? (s.arg 0) = some c) (hp : s.chainAt c 10 c.enginePort = some p) :
    exec .chainDone s = .next ((s.dropPacket p.id).nextPiece c) := by
  show execChainDone s = _
  simp only [execChainDone, hc, hp]

end

/-- Settles O45: what a packet that enters leaves as it was by `State.OnlyMoves`, the other turns by their conditions. -/
theorem networkEventsOccur : Obligations.NetworkEventsOccur := by
  intro s
  refine ⟨?sends, ?moves, ?waits, ?flit, ?settles, ?window, ?again, ?delivered, ?errors, ?chains⟩
  case sends =>
    intro h p l payload owner hturn hh hpay howner hmay hp htrail hroom hhead hfirst
    exact execPacketHeaderArrival_sends hturn hh hpay howner hmay hp htrail hroom hhead hfirst
  case moves =>
    intro hturn p hp
    exact ⟨execPacketHeaderArrival_settles hturn hp, fun s1 s2 hunit hroom hfirst hs1 hs2 =>
      execPacketHeaderArrival_hops hturn hp hunit hroom hfirst hs1 hs2⟩
  case waits =>
    intro hturn x hx
    exact ⟨fun s2 hold hs2 => execPacketHeaderArrival_resends hturn hx hold hs2,
      fun h s2 hnew hmay hh hs2 => execPacketHeaderArrival_starts hturn hx hnew hmay hh hs2⟩
  case flit =>
    intro hturn p i l hp hi hl hready hfree hfirst
    exact execPacketHeaderArrival_flit hturn hp hi hl hready hfree hfirst
  case settles =>
    intro id p hp hunit
    exact ⟨settleAt_trimmed hp hunit, fun htrim horphan hkind hos hwhole hdone =>
      settleAt_accepts hp hunit htrim horphan hkind hos hwhole hdone⟩
  case window =>
    intro r hr hsent hdue
    exact execReRequestWindow_asks hr hsent hdue
  case again =>
    intro p hp
    exact ⟨fun r hr => execReRequest_sends hp hr, execReRequest_unknown hp⟩
  case delivered =>
    intro p hp
    exact ⟨fun hcnt mine hmine => execDelivered_lost hp hcnt hmine, execDelivered_frees hp⟩
  case errors =>
    intro p hp
    exact ⟨fun l hturn hunit hway hlink hl hsent => execLinkCrcFailure_header hp hturn hunit hway hlink hl hsent,
      fun k hturn hk hlink => ⟨fun at_ htrim hat => execLinkCrcFailure_trims hp hturn hk hlink htrim hat,
        execLinkCrcFailure_flit hp hturn hk hlink⟩⟩
  case chains =>
    intro c hc
    refine ⟨fun hkind hstarted hmore => ⟨?_, ?_⟩, ?_, fun i hi => ⟨execChainData_sends hc hi, ?_⟩, fun p hp => execChainDone_continues hc hp⟩
    · intro c1 hwalk hfree hseated hc1 hchain
      exact execChainReservation_walks hc hkind hstarted hmore hwalk hfree hseated hc1 hchain
    · intro core hwalk htaken hcore
      rw [execChainReservation_reserves hc hkind hstarted hmore hwalk htaken, ← hcore, State.reserveAt]
      refine ⟨fun hslot hroom => ?_, fun p hslot hp => ?_⟩
      · rw [if_pos hslot, if_pos (decide_eq_true hroom)]
      · rw [if_neg hslot, hp]
        exact ⟨fun hroom => congrArg _ (if_pos (decide_eq_true hroom)),
          fun hfull => congrArg _ (if_neg (by simpa using hfull))⟩
    · intro k p hk hp hsrc hfirst
      exact execChainGrant_grants hc hk hp hsrc hfirst
    · intro x p s1 hx hp hseq hhas hstuck hopen hs1
      exact execChainData_takes hc hi hx hp hseq hhas hstuck hopen hs1

end Machine
end Sys2Proof
end
section
/-! PROOFS. O51: that a change of state keeps the memories in their canonical form, as a relation that the operations over the state are
proved to stand in, one lemma for each, in the order of the definitions; where `State.Mild` says more, it is used. -/

namespace Sys2Proof
namespace Machine

/-- A change of state that keeps the memories in their canonical form (log 3). -/
structure State.Keeps (s s' : State) : Prop where
  wf : s.memoriesWf → s'.memoriesWf

theorem State.Mild.keeps {s s' : State} (h : s.Mild s') : s.Keeps s' := ⟨h.wf⟩

namespace State.Keeps

variable {s s' s'' : State}

protected theorem rfl : s.Keeps s := ⟨id⟩

theorem trans (h : s.Keeps s') (k : s'.Keeps s'') : s.Keeps s'' := ⟨k.wf ∘ h.wf⟩

/-- The last of two changes first. -/
theorem after (k : s'.Keeps s'') (h : s.Keeps s') : s.Keeps s'' := ⟨k.wf ∘ h.wf⟩

/-- A change of nothing that holds bytes. -/
theorem inert (h : (s'.home, s'.weights, s'.teams, s'.grids) = (s.home, s.weights, s.teams, s.grids)) : s.Keeps s' := by
  simp only [Prod.mk.injEq] at h
  obtain ⟨hhome, hweights, hteams, hgrids⟩ := h
  refine ⟨?_⟩
  unfold State.memoriesWf
  rw [hhome, hweights, hteams, hgrids]
  exact id

/-- A change of home memory that keeps its form. -/
theorem home (h : (s'.weights, s'.teams, s'.grids) = (s.weights, s.teams, s.grids)) (hh : Memory.wf s.home = true → Memory.wf s'.home = true) :
    s.Keeps s' := by
  simp only [Prod.mk.injEq] at h
  obtain ⟨hweights, hteams, hgrids⟩ := h
  refine ⟨?_⟩
  unfold State.memoriesWf
  rw [hweights, hteams, hgrids]
  exact And.imp_left hh

/-- A change of the weight store that keeps its form. -/
theorem weights (h : (s'.home, s'.teams, s'.grids) = (s.home, s.teams, s.grids))
    (hw : Memory.wf s.weights = true → Memory.wf s'.weights = true) : s.Keeps s' := by
  simp only [Prod.mk.injEq] at h
  obtain ⟨hhome, hteams, hgrids⟩ := h
  refine ⟨?_⟩
  unfold State.memoriesWf
  rw [hhome, hteams, hgrids]
  exact And.imp_right (And.imp_left hw)

/-- A change of the placed teams in which every scratchpad has its form. -/
theorem teams (h : (s'.home, s'.weights, s'.grids) = (s.home, s.weights, s.grids))
    (ht : (∀ t ∈ s.teams, Memory.wf t.scratch = true) → ∀ t ∈ s'.teams, Memory.wf t.scratch = true) : s.Keeps s' := by
  simp only [Prod.mk.injEq] at h
  obtain ⟨hhome, hweights, hgrids⟩ := h
  refine ⟨?_⟩
  unfold State.memoriesWf
  rw [hhome, hweights, hgrids]
  exact And.imp_right (And.imp_right (And.imp_left ht))

/-- A change of the grids in which every saved scratchpad has its form. -/
theorem grids (h : (s'.home, s'.weights, s'.teams) = (s.home, s.weights, s.teams))
    (hg : (∀ g ∈ s.grids, ∀ v ∈ g.waiting, Memory.wf v.team.scratch = true) → ∀ g ∈ s'.grids, ∀ v ∈ g.waiting, Memory.wf v.team.scratch = true) :
    s.Keeps s' := by
  simp only [Prod.mk.injEq] at h
  obtain ⟨hhome, hweights, hteams⟩ := h
  refine ⟨?_⟩
  unfold State.memoriesWf
  rw [hhome, hweights, hteams]
  exact And.imp_right (And.imp_right (And.imp_right hg))

/-- A change of one team that keeps the form of its scratchpad. -/
theorem team {t : TeamId} {f : Team → Team} (hf : ∀ x, Memory.wf x.scratch = true → Memory.wf (f x).scratch = true) :
    s.Keeps (s.updTeam t f) := (State.Mild.team hf).keeps

/-- A change of one grid that keeps its saved teams. -/
theorem grid {g : GridId} {f : Grid → Grid} (hf : ∀ x, (f x).waiting = x.waiting) : s.Keeps (s.updGrid g f) := (State.Mild.grid hf).keeps

/-- Two ways a condition may go. -/
theorem ite {p : Prop} [Decidable p] (h : s.Keeps s') (k : s.Keeps s'') : s.Keeps (if p then s' else s'') := by
  split
  · exact h
  · exact k

theorem foldl {α : Type} {f : State → α → State} {l : List α} {s : State} (hf : ∀ (s : State) (x : α), s.Keeps (f s x)) :
    s.Keeps (l.foldl f s) := by
  induction l generalizing s with
  | nil => exact .rfl
  | cons x xs ih => exact (hf s x).trans ih

end State.Keeps

section
variable (s : State)

theorem State.updThread_keeps (t : ThreadId) (f : Thread → Thread) : s.Keeps (s.updThread t f) := .inert rfl

theorem State.updCtx_keeps (c : Nat) (f : Ctx → Ctx) : s.Keeps (s.updCtx c f) := .inert rfl

theorem State.updOp_keeps (o : Nat) (f : Op → Op) : s.Keeps (s.updOp o f) := .inert rfl

theorem State.dropOp_keeps (o : Nat) : s.Keeps (s.dropOp o) := .inert rfl

theorem State.addOp_keeps (o : Op) : s.Keeps (s.addOp o) := .inert rfl

theorem State.updCopy_keeps (c : Nat) (f : Copy → Copy) : s.Keeps (s.updCopy c f) := .inert rfl

theorem State.updJob_keeps (j : Nat) (f : IslandJob → IslandJob) : s.Keeps (s.updJob j f) := .inert rfl

theorem State.updLq_keeps (q : Nat) (f : LaunchQ → LaunchQ) : s.Keeps (s.updLq q f) := .inert rfl

theorem State.mapL1_keeps (p : L1Sector → Bool) (f : L1Sector → L1Sector) : s.Keeps (s.mapL1 p f) := .inert rfl

theorem State.updPacket_keeps (id : Nat) (f : Packet → Packet) : s.Keeps (s.updPacket id f) := .inert rfl

theorem State.dropPacket_keeps (id : Nat) : s.Keeps (s.dropPacket id) := .inert rfl

theorem State.offer_keeps (x : Outgoing) : s.Keeps (s.offer x) := .inert rfl

end

end Machine
end Sys2Proof
end
section
/-! PROOFS. O51: the operations that only move entries of the state about, or do so through those of `State.Mild`. -/

namespace Sys2Proof
namespace Machine

theorem State.addEntry_keeps (s : State) (x : Args) (kind tile tile2 a b site lat opId : Nat) :
    s.Keeps (s.addEntry x kind tile tile2 a b site lat opId) :=
  .after (.team fun _ h => h) (.inert rfl)

theorem State.addStats_keeps (s : State) (die ctx prim cull passes : Nat) (queries : List Nat) :
    s.Keeps (s.addStats die ctx prim cull passes queries) :=
  .inert rfl

theorem State.becomeResident_keeps (s : State) (n : Nat) : s.Keeps (s.becomeResident n) :=
  .inert rfl

theorem State.beginCopy_keeps (s : State) (c : Copy) : s.Keeps (s.beginCopy c) := by
  unfold State.beginCopy
  dsimp only
  exact .after (State.startCopy_mild _ _).keeps (.ite (.after (.foldl (fun s _ => (s.cairnCopies_mild _ _ _).keeps)) (.inert rfl)) (.inert rfl))

theorem State.bindNol1_keeps (s : State) (o : Op) (a : Access) : s.Keeps (s.bindNol1 o a) := by
  unfold State.bindNol1
  split
  · exact .ite .rfl (s.bindLoad_mild _ _ _).keeps
  · exact .rfl

theorem State.bundlePart_keeps (s : State) (core part : Nat) (f : Nat → List Thread → Thread → Option (List Nat)) :
    s.Keeps (s.bundlePart core part f) :=
  .inert rfl

theorem State.clearImageMarks_keeps (s : State) (tm : Team) (e : EngineEntry) : s.Keeps (s.clearImageMarks tm e) :=
  .team fun _ h => h

theorem State.clearSigned_keeps (s : State) (t : TeamId) (n : Nat) (ranks : List Nat) : s.Keeps (s.clearSigned t n ranks) :=
  .inert rfl

theorem State.closeRecord_keeps (s : State) (ctx seq : Nat) : s.Keeps (s.closeRecord ctx seq) :=
  .inert rfl

theorem State.collOp_keeps (s : State) (t : TeamId) (now : Nat) (k : CollKind) (rank : Nat) (d : Deposit) (r : Nat × Nat) :
    s.Keeps (s.collOp t now k rank d r) :=
  .inert rfl

theorem State.countTrim_keeps (s : State) (die site port nf : Nat) : s.Keeps (s.countTrim die site port nf) :=
  .ite .rfl (.inert rfl)

theorem State.decideTrim_keeps (s : State) (id : Nat) : s.Keeps (s.decideTrim id) := by
  unfold State.decideTrim
  split
  · exact .rfl
  · exact .ite (.after (State.updPacket_keeps _ _ _) (s.countTrim_keeps _ _ _ _)) .rfl

theorem State.deliverS_keeps (s : State) (c : Copy) (recv : Nat) (r : Receiver) (x : Chunk) (data marks : Nat) :
    s.Keeps (s.deliverS c recv r x data marks) := by
  unfold State.deliverS
  dsimp only
  split
  · exact .rfl
  refine .ite ?_ ?_
  · exact .after (State.postRecord_mild _ _ _).keeps (.after (State.updCopy_keeps _ _ _) (.after (State.updCopy_keeps _ _ _) (.after (.team fun _ h
      => h) (s.scratchWrite_mild _ _ _ _ _).keeps)))
  · exact .after (State.updCopy_keeps _ _ _) (.after (.team fun _ h => h) (s.scratchWrite_mild _ _ _ _ _).keeps)

theorem State.discard_keeps (s : State) (t : TeamId) (m : Member) : s.Keeps (s.discard t m) := by
  unfold State.discard
  split
  · exact .ite (s.retireOf_mild _ _).keeps .rfl
  · exact .rfl

theorem State.dropJobCounts_keeps (s : State) (die : Nat) (j : RidgeJob) : s.Keeps (s.dropJobCounts die j) :=
  .ite (s.addStats_keeps _ _ _ _ _ _) .rfl

theorem State.dropOver_keeps (s : State) (j : IslandJob) (n : Nat) : s.Keeps (s.dropOver j n) :=
  .ite .rfl (s.postRecord_mild _ _).keeps

theorem State.dropPayloads_keeps (s : State) (gone : NetOwner → Bool) : s.Keeps (s.dropPayloads gone) :=
  .inert rfl

theorem State.dropReplay_keeps (s : State) (r : Replay) : s.Keeps (s.dropReplay r) :=
  .inert rfl

theorem State.emptyCopy_keeps (s : State) (c : Copy) : s.Keeps (s.emptyCopy c) :=
  .after (State.retireOf_mild _ _ _).keeps (.inert rfl)

theorem State.endSlice_keeps (s : State) (t : TeamId) : s.Keeps (s.endSlice t) :=
  .ite .rfl (.team fun _ h => h)

theorem State.fillSlots_keeps (s : State) (j : IslandJob) (bytes marks : Nat) (slots : List Nat) : s.Keeps (s.fillSlots j bytes marks slots) := by
  unfold State.fillSlots
  exact .foldl fun _ _ => .team fun _ h => h

theorem State.fillTlb_keeps (s : State) (core : Nat) (tr : Translation) : s.Keeps (s.fillTlb core tr) :=
  .inert rfl

theorem State.finishRecv_keeps (s : State) (c : Copy) (t : TeamId) : s.Keeps (s.finishRecv c t) :=
  .ite .rfl ((s.cairnCopies_mild _ _ _).keeps.trans (.inert rfl))

theorem State.floatResult_keeps (s : State) (a : Args) (lat rc mask : Nat) (dests vals : List Nat) (flags : Nat) :
    s.Keeps (s.floatResult a lat rc mask dests vals flags) :=
  .inert rfl

theorem State.floatTrap_keeps (s : State) (o : Op) : s.Keeps (s.floatTrap o) := by
  unfold State.floatTrap
  dsimp only
  refine .ite ?_ ?_
  · exact .after (State.raiseLate_mild _ _ _ _ _ _ _).keeps (.inert rfl)
  split
  · exact .ite (.after (State.raiseLate_mild _ _ _ _ _ _ _).keeps (.inert rfl)) (.after (State.parkOn_mild _ _ _).keeps (.inert rfl))
  · exact .inert rfl

theorem State.invalidateClean_keeps (s : State) (p : L1Sector → Bool) : s.Keeps (s.invalidateClean p) :=
  .inert rfl

theorem State.joinPart_keeps (s : State) (core part : Nat) : s.Keeps (s.joinPart core part) :=
  s.bundlePart_keeps _ _ _

theorem State.jump_keeps (s : State) (x : Args) (target : Addr) (lat : Nat) : s.Keeps (s.jump x target lat) :=
  .inert rfl

theorem State.keepHeader_keeps (s : State) (p : Packet) : s.Keeps (s.keepHeader p) :=
  .ite .rfl (.inert rfl)

theorem State.killRidge_keeps (s : State) (ctx : Nat) : s.Keeps (s.killRidge ctx) :=
  .inert rfl

theorem State.leavePath_keeps (s : State) (o : Op) (a : Access) : s.Keeps (s.leavePath o a) :=
  .ite .rfl (s.performStores_mild _).keeps

theorem State.lowerLine_keeps (s : State) (t : TeamId) (line : Nat) : s.Keeps (s.lowerLine t line) := by
  unfold State.lowerLine
  dsimp only
  refine .ite ?_ ?_
  · exact .after (.foldl (fun s _ => (s.startCopy_mild _).keeps)) (.team fun _ h => h)
  · exact .after (.foldl (fun s _ => (s.wakeThread_mild _).keeps)) (.after (.foldl (fun s _ => (s.startCopy_mild _).keeps)) (.team fun _ h => h))

theorem State.misfit_keeps (s : State) (t : TeamId) (m : Member) : s.Keeps (s.misfit t m) := by
  unfold State.misfit
  dsimp only
  split
  · exact .rfl
  · exact .after (State.raiseLate_mild _ _ _ _ _ _ _).keeps (.ite (s.retireOf_mild _ _).keeps .rfl)

theorem State.noteTrim_keeps (s : State) (h : Dword) : s.Keeps (s.noteTrim h) :=
  .inert rfl

theorem State.parkDone_keeps (s : State) (die : Nat) (g : GridId) (addr value cls : Nat) : s.Keeps (s.parkDone die g addr value cls) :=
  .ite (.inert rfl) ((s.postRecord_mild _ _).keeps.trans (.inert rfl))

theorem State.parkJob_keeps (s : State) (j : IslandJob) (cls va n : Nat) (write : Bool) : s.Keeps (s.parkJob j cls va n write) :=
  .ite .rfl ((s.postRecord_mild _ _).keeps.trans (.inert rfl))

theorem State.parkService_keeps (s : State) (a : Args) (i : Issue) (x : SvcCaller) (dests : List Nat) : s.Keeps (s.parkService a i x dests) :=
  .inert rfl

theorem State.performFence_keeps (s : State) (o : Op) (sc : Scope) : s.Keeps (s.performFence o sc) := by
  unfold State.performFence
  dsimp only
  refine .ite ?_ ?_
  · exact .after (State.dropOp_keeps _ _) (.ite (.after (State.invalidateL1_mild _ _).keeps (s.flushL1_mild _).keeps) .rfl)
  · exact .rfl

theorem State.performRelease_keeps (s : State) (o : Op) : s.Keeps (s.performRelease o) :=
  .ite (.after (State.dropOp_keeps _ _) (s.flushL1_mild _).keeps) .rfl

theorem State.pickSlice_keeps (s : State) (p : Nat × Nat) : s.Keeps (s.pickSlice p) := by
  unfold State.pickSlice
  dsimp only
  split
  · exact .rfl
  · exact .inert rfl

theorem State.pickThreads_keeps (s : State) (p : Nat × Nat) : s.Keeps (s.pickThreads p) :=
  .inert rfl

theorem State.popSpill_keeps (s : State) (x : Spill) : s.Keeps (s.popSpill x) :=
  .inert rfl

theorem State.postCopyFaults_keeps (s : State) (id : Nat) : s.Keeps (s.postCopyFaults id) := by
  unfold State.postCopyFaults
  dsimp only
  split
  · exact .rfl
  · exact .foldl fun s _ => .ite .rfl ((s.postRecord_mild _ _).keeps.trans (.inert rfl))

theorem State.postHeld_keeps (s : State) (ctx : Nat) : s.Keeps (s.postHeld ctx) := by
  unfold State.postHeld
  split
  · exact .ite (.after (State.writeRecord_mild _ _ _).keeps (.inert rfl)) .rfl
  · exact .rfl

theorem State.postImage_keeps (s : State) (slot : Nat) (i : Img) : s.Keeps (s.postImage slot i) :=
  .inert rfl

theorem State.postPre_keeps (s : State) (ctx : Nat) : s.Keeps (s.postPre ctx) := by
  unfold State.postPre
  dsimp only
  exact .foldl fun s _ => (s.postRecord_mild _ _).keeps

theorem State.pushArrives_keeps (s : State) (o : Op) : s.Keeps (s.pushArrives o) := by
  unfold State.pushArrives
  split
  · exact .ite (.after (State.completeOp_mild _ _).keeps (.team fun _ h => h)) .rfl
  · exact .rfl

theorem State.pushFor_keeps (s : State) (core : Option Nat) (pa : Nat) : s.Keeps (s.pushFor core pa) := by
  unfold State.pushFor
  split
  · exact (s.pushSector_mild _ _).keeps
  · exact .rfl

theorem State.reformPart_keeps (s : State) (core part : Nat) : s.Keeps (s.reformPart core part) :=
  s.bundlePart_keeps _ _ _

theorem State.releaseImages_keeps (s : State) : s.Keeps s.releaseImages :=
  .inert rfl

theorem State.renewReply_keeps (s : State) (t : Thread) : s.Keeps (s.renewReply t) := by
  unfold State.renewReply
  dsimp only
  refine .ite ?_ ?_
  · exact .rfl
  split
  · exact .rfl
  · exact .inert rfl

theorem State.reply_keeps (s : State) (h : Dword) : s.Keeps (s.reply h) :=
  .inert rfl

theorem State.replyTo_keeps (s : State) (b : SvcBatch) (m : SvcMember) (i : Nat) : s.Keeps (s.replyTo b m i) := by
  unfold State.replyTo
  dsimp only
  split
  · exact .after (State.wakeThread_mild _ _).keeps (.inert rfl)
  · exact .rfl

theorem State.restoreFails_keeps (s : State) (ctx off : Nat) : s.Keeps (s.restoreFails ctx off) :=
  .after (State.updCtx_keeps _ _ _) (s.postRecord_mild _ _).keeps

theorem State.result_keeps (s : State) (a : Args) (lat : Nat) (dests vals : List Nat) : s.Keeps (s.result a lat dests vals) :=
  .inert rfl

theorem State.retryDone_keeps (s : State) : s.Keeps s.retryDone := by
  unfold State.retryDone
  dsimp only
  split
  · exact .rfl
  split
  · exact .after (State.homeWrite_mild _ _ _ _ _).keeps (.inert rfl)
  · exact .ite .rfl (.after (State.parkDone_keeps _ _ _ _ _ _) (.inert rfl))

theorem State.sendChain_keeps (s : State) (c : Copy) (k : Nat) : s.Keeps (s.sendChain c k) :=
  .ite .rfl (.inert rfl)

theorem State.setCr_keeps (s : State) (t : TeamId) (n : Nat) (c : ConvReg) : s.Keeps (s.setCr t n c) :=
  .team fun _ h => h

theorem State.setIsland_keeps (s : State) (x : Island) : s.Keeps (s.setIsland x) :=
  .inert rfl

theorem State.setSlice_keeps (s : State) (t : TeamId) (sl : Slice) : s.Keeps (s.setSlice t sl) :=
  .team fun _ h => h

theorem State.setTdi_keeps (s : State) (x : Tdi) : s.Keeps (s.setTdi x) :=
  .inert rfl

theorem State.setWaiting_keeps (s : State) (t : ThreadId) (st : TState) : s.Keeps (s.setWaiting t st) :=
  .inert rfl

theorem State.setWire_keeps (s : State) (w : Wire) : s.Keeps (s.setWire w) :=
  .inert rfl

theorem State.settleAnchor_keeps (s : State) (b : ReBatch) (core : Nat) : s.Keeps (s.settleAnchor b core) :=
  .inert rfl

theorem State.settleLines_keeps (s : State) (c : Copy) (r : Receiver) (x : Chunk) : s.Keeps (s.settleLines c r x) := by
  unfold State.settleLines
  dsimp only
  exact .foldl fun s _ => s.lowerLine_keeps _ _

theorem State.settleRestores_keeps (s : State) : s.Keeps s.settleRestores :=
  .inert rfl

theorem State.sliceDeliver_keeps (s : State) (tm : Team) (r : SliceRead) (q : SliceReq) (v : Nat) (mark : Bool) :
    s.Keeps (s.sliceDeliver tm r q v mark) :=
  .team fun _ h => h

theorem State.startSaving_keeps (s : State) (ctx : Nat) : s.Keeps (s.startSaving ctx) :=
  .ite (.inert rfl) .rfl

theorem State.startSend_keeps (s : State) (h : Dword) (payload : List (BitVec 512)) (owner : NetOwner) (sector : Option Nat) :
    s.Keeps (s.startSend h payload owner sector) := by
  unfold State.startSend
  dsimp only
  split <;> split <;> exact .inert rfl

theorem State.stopSlice_keeps (s : State) (team : TeamId) (cls : Nat) (word : Word) (addr : Nat) : s.Keeps (s.stopSlice team cls word addr) := by
  unfold State.stopSlice
  dsimp only
  split
  · exact .rfl
  split
  · exact .rfl
  · exact .after (State.postRecord_mild _ _ _).keeps (.team fun _ h => h)

theorem State.storeFrames_keeps (s : State) (j : IslandJob) (o : Op) (words : List Nat) : s.Keeps (s.storeFrames j o words) := by
  unfold State.storeFrames
  dsimp only
  exact .foldl fun _ _ => .inert rfl

theorem State.storeImage_keeps (s : State) (tm : Team) (e : EngineEntry) : s.Keeps (s.storeImage tm e) := by
  unfold State.storeImage
  dsimp only
  exact .foldl fun s _ => .ite .rfl (s.scratchWrite_mild _ _ _ _ _).keeps

theorem State.sweep_keeps (s : State) (ctx lo n : Nat) : s.Keeps (s.sweep ctx lo n) :=
  .inert rfl

theorem State.sweepL1_keeps (s : State) : s.Keeps s.sweepL1 :=
  .after (State.invalidateClean_keeps _ _) (s.writeBack_mild _).keeps

theorem State.takeBuffer_keeps (s : State) (c : Copy) : s.Keeps (s.takeBuffer c) :=
  .ite (.inert rfl) (.ite (.inert rfl) (.inert rfl))

theorem State.takeIsland_keeps (s : State) (x : Island) (ctx : Nat) : s.Keeps (s.takeIsland x ctx) :=
  s.setIsland_keeps _

theorem State.takeMisses_keeps (s : State) (cluster : Nat) : s.Keeps (s.takeMisses cluster) :=
  .inert rfl

theorem State.testDep_keeps (s : State) (g : Grid) : s.Keeps (s.testDep g) := by
  unfold State.testDep
  dsimp only
  refine .ite ?_ ?_
  · exact .rfl
  refine .ite ?_ ?_
  · exact .grid fun _ => rfl
  split
  · exact (s.postRecord_mild _ _).keeps
  · exact .ite (s.postRecord_mild _ _).keeps (.grid fun _ => rfl)

theorem State.testDeps_keeps (s : State) (die : Nat) : s.Keeps (s.testDeps die) := by
  unfold State.testDeps
  exact .foldl fun s _ => s.testDep_keeps _

theorem State.tick_keeps (s : State) (die : Nat) : s.Keeps (s.tick die) :=
  .inert rfl

theorem State.touchWalk_keeps (s : State) (ctx va : Nat) : s.Keeps (s.touchWalk ctx va) := by
  unfold State.touchWalk
  split
  · exact .rfl
  · exact .ite .rfl (.foldl (fun s _ => (s.sliceTouch_mild _ _ _).keeps))

theorem State.turnLoad_keeps (s : State) (core : Nat) (o : Op) : s.Keeps (s.turnLoad core o) := by
  unfold State.turnLoad
  split
  · split
    · exact .ite (.ite .rfl (s.bindLoad_mild _ _ _).keeps) .rfl
    · exact .rfl
  · exact .rfl

theorem State.updPage_keeps (s : State) (n : Nat) (f : Ctx → Ctx) : s.Keeps (s.updPage n f) := by
  unfold State.updPage
  split
  · exact .inert rfl
  · exact .inert rfl

theorem State.updReq_keeps (s : State) (t : TeamId) (req : Nat) (f : SliceReq → SliceReq) : s.Keeps (s.updReq t req f) :=
  .team fun _ h => h

theorem State.updRidge_keeps (s : State) (die : Nat) (f : Ridge → Ridge) : s.Keeps (s.updRidge die f) :=
  .inert rfl

theorem State.waitIsland_keeps (s : State) (x : Island) (ctx : Nat) : s.Keeps (s.waitIsland x ctx) :=
  s.setIsland_keeps _

theorem State.wakeLq_keeps (s : State) (q : Nat) : s.Keeps (s.wakeLq q) :=
  .after (State.testDeps_keeps _ _) (.inert rfl)

theorem State.weightArrive_keeps (s : State) (tm : Team) (r : SliceRead) (q : SliceReq) : s.Keeps (s.weightArrive tm r q) :=
  .ite .rfl (s.sliceDeliver_keeps _ _ _ _ _)

theorem State.writeBackResult_keeps (s : State) (o : Op) : s.Keeps (s.writeBackResult o) :=
  .after (State.completeOp_mild _ _).keeps (.inert rfl)

theorem State.writeQueue_keeps (s : State) (q o v : Nat) : s.Keeps (s.writeQueue q o v) := by
  unfold State.writeQueue
  dsimp only
  refine .ite ?_ ?_
  · exact .rfl
  split
  · exact .inert rfl
  · exact .inert rfl
  · exact .inert rfl
  · exact .inert rfl
  · exact .inert rfl
  · exact .rfl

theorem State.acceptPayload_keeps (s : State) (h : Dword) : s.Keeps (s.acceptPayload h) :=
  .ite (.after (State.reply_keeps _ _) (.inert rfl)) (.inert rfl)

theorem State.addJobCounts_keeps (s : State) (die : Nat) (j : RidgeJob) : s.Keeps (s.addJobCounts die j) :=
  .ite (s.addStats_keeps _ _ _ _ _ _) .rfl

theorem State.checkRecv_keeps (s : State) (id : Nat) (t : TeamId) : s.Keeps (s.checkRecv id t) := by
  unfold State.checkRecv
  split
  · exact .ite .rfl (s.finishRecv_keeps _ _)
  · exact .rfl

theorem State.doneStore_keeps (s : State) (g : Grid) : s.Keeps (s.doneStore g) := by
  unfold State.doneStore
  refine .ite ?_ ?_
  · exact .rfl
  split
  · exact (s.homeWrite_mild _ _ _ _).keeps
  · exact s.parkDone_keeps _ _ _ _ _

theorem State.endCopy_keeps (s : State) (c : Copy) : s.Keeps (s.endCopy c) := by
  unfold State.endCopy
  dsimp only
  refine .ite ?_ ?_
  · exact .after (.foldl (fun s _ => s.finishRecv_keeps _ _)) (.inert rfl)
  · exact .after (State.retireOf_mild _ _ _).keeps (.after (.foldl (fun s _ => s.finishRecv_keeps _ _)) (.inert rfl))

theorem State.finishResult_keeps (s : State) (o : Op) : s.Keeps (s.finishResult o) := by
  unfold State.finishResult
  dsimp only
  refine .ite ?_ ?_
  · exact .after (State.floatTrap_keeps _ _) (.ite .rfl (.inert rfl))
  · exact .after (State.writeBackResult_keeps _ _) (.ite .rfl (.inert rfl))

theorem State.finishTrace_keeps (s : State) (j : IslandJob) (bytes : Nat) : s.Keeps (s.finishTrace j bytes) := by
  unfold State.finishTrace
  dsimp only
  split
  · exact .inert rfl
  next o _ =>
    refine .ite ?_ (.ite .rfl ?_)
    · exact .after (State.updJob_keeps _ _ _) (s.storeFrames_keeps _ _ _)
    · exact (s.writeBackResult_keeps { o with vals := (wordsOf 8 bytes ++ j.payload bytes).take o.dests.length }).trans (.inert rfl)

theorem State.freeMiss_keeps (s : State) (cluster sector : Nat) : s.Keeps (s.freeMiss cluster sector) :=
  .after (State.takeMisses_keeps _ _) (.inert rfl)

theorem State.freeze_keeps (s : State) (t : TeamId) (forced : Bool) : s.Keeps (s.freeze t forced) :=
  .after (State.startSaving_keeps _ _) (.team fun _ h => h)

theorem State.putJob_keeps (s : State) (die : Nat) (j : RidgeJob) : s.Keeps (s.putJob die j) :=
  s.updRidge_keeps _ _

theorem State.releaseReq_keeps (s : State) (r : Replay) : s.Keeps (s.releaseReq r) := by
  unfold State.releaseReq
  dsimp only
  split
  · exact .after (State.updOp_keeps _ _ _) (s.dropReplay_keeps _)
  · exact .after (State.updCopy_keeps _ _ _) (s.dropReplay_keeps _)
  · exact .after (State.updReq_keeps _ _ _ _) (s.dropReplay_keeps _)
  · split
    · exact .after (State.homeWrite_mild _ _ _ _ _).keeps (s.dropReplay_keeps _)
    · exact .after (State.parkDone_keeps _ _ _ _ _ _) (s.dropReplay_keeps _)
  · exact .after (State.updRidge_keeps _ _ _) (s.dropReplay_keeps _)
  · exact .after (State.updJob_keeps _ _ _) (s.dropReplay_keeps _)

theorem State.resubmit_keeps (s : State) (j : IslandJob) : s.Keeps (s.resubmit j) :=
  .ite (.after (State.updJob_keeps _ _ _) (s.takeIsland_keeps _ _)) (.ite .rfl (s.waitIsland_keeps _ _))

theorem State.resumeJob_keeps (s : State) (die : Nat) (j : RidgeJob) : s.Keeps (s.resumeJob die j) :=
  .ite (s.updRidge_keeps _ _) (.after (State.putJob_keeps _ _ _) (s.updRidge_keeps _ _))

theorem State.sliceFault_keeps (s : State) (tm : Team) (r : SliceRead) (q : SliceReq) (cls : Nat) : s.Keeps (s.sliceFault tm r q cls) :=
  .ite .rfl (.trans (.after (State.updReq_keeps _ _ _ _) (s.postRecord_mild _ _).keeps) (.inert rfl))

theorem State.startInvalidation_keeps (s : State) (ctx : Nat) (wbi : Bool) (lo n : Nat) : s.Keeps (s.startInvalidation ctx wbi lo n) :=
  .ite (s.updPage_keeps _ _) (.after (State.sweep_keeps _ _ _ _) (s.updPage_keeps _ _))

theorem State.suspendJob_keeps (s : State) (die : Nat) (j : RidgeJob) (cls va n detail : Nat) (write : Bool) :
    s.Keeps (s.suspendJob die j cls va n detail write) :=
  .ite (s.putJob_keeps _ _) ((s.postRecord_mild _ _).keeps.trans (.inert rfl))

theorem State.takeHandoff_keeps (s : State) (die ctx : Nat) (x : Island) (h : HandOff) : s.Keeps (s.takeHandoff die ctx x h) :=
  .after (State.updRidge_keeps _ _ _) (s.takeIsland_keeps _ _)

theorem State.touchVia_keeps (s : State) (die ctx va pa : Nat) : s.Keeps (s.touchVia die ctx va pa) :=
  .after (State.sliceTouch_mild _ _ _ _).keeps (.ite .rfl (s.touchWalk_keeps _ _))

theorem State.writeGlobal_keeps (s : State) (o v : Nat) : s.Keeps (s.writeGlobal o v) := by
  unfold State.writeGlobal
  dsimp only
  refine .ite ?_ ?_
  · exact .inert rfl
  refine .ite ?_ ?_
  · exact .ite .rfl (.inert rfl)
  refine .ite ?_ ?_
  · exact .ite (.inert rfl) (.ite .rfl (.inert rfl))
  refine .ite ?_ ?_
  · exact .inert rfl
  refine .ite ?_ ?_
  · exact .inert rfl
  refine .ite ?_ ?_
  · exact .inert rfl
  refine .ite ?_ ?_
  · exact .ite .rfl (.inert rfl)
  refine .ite ?_ ?_
  · exact .inert rfl
  refine .ite ?_ ?_
  · exact .inert rfl
  refine .ite ?_ ?_
  · exact .ite .rfl (.inert rfl)
  refine .ite ?_ ?_
  · exact .inert rfl
  · exact .ite (.ite .rfl (.inert rfl)) (.ite (.ite .rfl (.inert rfl)) (.ite (.inert rfl) (.ite (s.writeQueue_keeps _ _ _) .rfl)))

theorem State.writeReg_keeps (s : State) (fn off v : Nat) : s.Keeps (s.writeReg fn off v) := by
  unfold State.writeReg
  dsimp only
  refine .ite ?_ ?_
  · exact .rfl
  refine .ite ?_ ?_
  · exact .ite (s.writeGlobal_keeps _ _) (.ite (.ite (.ite .rfl (s.updPage_keeps _ _)) (s.updPage_keeps _ _)) .rfl)
  · exact .ite (s.updPage_keeps _ _) .rfl

theorem State.cancelPart_keeps (s : State) (id : Nat) : s.Keeps (s.cancelPart id) := by
  unfold State.cancelPart
  dsimp only
  split
  · exact .rfl
  · exact .after (State.endCopy_keeps _ _) (.after (State.dropPayloads_keeps _ _) (.trans (.ite (.foldl (fun s _ => .foldl (fun s _ =>
      s.lowerLine_keeps _ _))) .rfl) (.inert rfl)))

theorem State.releaseAll_keeps (s : State) (ctx : Nat) (seqs : List Nat) : s.Keeps (s.releaseAll ctx seqs) := by
  unfold State.releaseAll
  exact .foldl fun s _ => s.releaseReq_keeps _

theorem State.cancelCopy_keeps (s : State) (id : Nat) : s.Keeps (s.cancelCopy id) := by
  unfold State.cancelCopy
  split
  · exact .rfl
  · exact .foldl fun s _ => s.cancelPart_keeps _

theorem State.cancelReq_keeps (s : State) (r : Replay) : s.Keeps (s.cancelReq r) := by
  unfold State.cancelReq
  dsimp only
  split
  · split
    · exact .after (State.dropPayloads_keeps _ _) (.after (State.completeOp_mild _ _).keeps (.after (State.setStall_mild _ _ _).keeps
        (s.dropReplay_keeps _)))
    · exact .after (State.setStall_mild _ _ _).keeps (s.dropReplay_keeps _)
  · exact .after (State.cancelCopy_keeps _ _) (.after (State.setStall_mild _ _ _).keeps (s.dropReplay_keeps _))
  · split
    · split
      · exact .after (State.sliceDeliver_keeps _ _ _ _ _ _) (.after (State.setStall_mild _ _ _).keeps (s.dropReplay_keeps _))
      · exact .after (State.setStall_mild _ _ _).keeps (s.dropReplay_keeps _)
    · exact .after (State.setStall_mild _ _ _).keeps (s.dropReplay_keeps _)
  · exact .after (State.setStall_mild _ _ _).keeps (s.dropReplay_keeps _)
  · exact .after (State.updRidge_keeps _ _ _) (.after (State.setStall_mild _ _ _).keeps (s.dropReplay_keeps _))
  · exact .after (State.updJob_keeps _ _ _) (.after (State.setStall_mild _ _ _).keeps (s.dropReplay_keeps _))

theorem State.cancelAll_keeps (s : State) (ctx : Nat) (seqs : List Nat) : s.Keeps (s.cancelAll ctx seqs) := by
  unfold State.cancelAll
  exact .foldl fun s _ => s.cancelReq_keeps _

end Machine
end Sys2Proof
end
section
/-! PROOFS. O51: the runs of islands and Ridgeline engines over the state (R436, R447). They touch it in their reads only. -/

namespace Sys2Proof
namespace Machine

-- ---------------------------------------------------------------- runs

/-- The run that stopped. -/
def Halted.reader : Halted → Reader
  | .fault r _ _ _ _ => r
  | .wait r => r

/-- What a run left: the reader of its end. -/
def Run.left {α : Type} : Except Halted (α × Reader) → Reader
  | .ok x => x.2
  | .error h => h.reader

/-- A run that keeps the memories in their canonical form, wherever it ends. -/
def Run.Keeps {α : Type} (m : Run α) : Prop := ∀ r : Reader, r.st.Keeps (Run.left (m r)).st

namespace Run.Keeps

variable {α β : Type}

theorem pure (a : α) : Run.Keeps (Pure.pure a : Run α) := fun _ => .rfl

theorem bind {m : Run α} {f : α → Run β} (h : Run.Keeps m) (k : ∀ a, Run.Keeps (f a)) : Run.Keeps (m >>= f) := by
  intro r
  have hm := h r
  show r.st.Keeps (Run.left ((m r).bind fun x => f x.1 x.2)).st
  cases hr : m r with
  | error e =>
    rw [hr] at hm
    exact hm
  | ok x =>
    rw [hr] at hm
    exact hm.trans (k x.1 x.2)

theorem ite {p : Prop} [Decidable p] {m n : Run α} (h : Run.Keeps m) (k : Run.Keeps n) : Run.Keeps (if p then m else n) := by
  split
  · exact h
  · exact k

theorem foldlM {f : β → α → Run β} (l : List α) (b : β) (h : ∀ b a, Run.Keeps (f b a)) : Run.Keeps (l.foldlM f b) := by
  induction l generalizing b with
  | nil => exact .pure b
  | cons a l ih => exact .bind (h b a) ih

theorem mapM {f : α → Run β} (l : List α) (h : ∀ a, Run.Keeps (f a)) : Run.Keeps (l.mapM f) := by
  induction l with
  | nil => exact .pure []
  | cons a l ih =>
    rw [List.mapM_cons]
    exact .bind (h a) fun _ => .bind ih fun _ => .pure _

end Run.Keeps

-- ---------------------------------------------------------------- reads

theorem State.journalRead_keeps (s : State) (g : GridId) (pa : Nat) : s.Keeps (s.journalRead g pa).1 := (s.journalRead_mild g pa).keeps

section
variable (p : Port)

theorem Port.part_keeps (va n : Nat) : Run.Keeps (p.part va n) := by
  intro r
  unfold Port.part
  split
  · exact .rfl
  split
  · exact .rfl
  split
  · exact .rfl
  next pa _ _ =>
  have hpush := r.st.pushFor_keeps p.core pa
  dsimp only
  split
  · exact .rfl
  have hread := hpush.trans ((r.st.pushFor p.core pa).journalRead_keeps p.grid pa)
  split
  next s1 heq =>
    rw [heq] at hread
    exact hread.trans (s1.touchVia_keeps _ _ _ _)
  next s1 heq =>
    rw [heq] at hread
    exact hread

theorem Port.readBy_keeps (fuel va n : Nat) : Run.Keeps (p.readBy fuel va n) := by
  induction fuel generalizing va n with
  | zero => exact .pure _
  | succ fuel ih =>
    rw [Port.readBy]
    exact .ite (.pure _) (.bind (p.part_keeps _ _) fun _ => .bind (ih _ _) fun _ => .pure _)

theorem Port.read_keeps (va n : Nat) : Run.Keeps (p.read va n) := p.readBy_keeps _ _ _

theorem Port.readBits_keeps (base bit w : Nat) : Run.Keeps (p.readBits base bit w) := .bind (p.read_keeps _ _) fun _ => .pure _

-- ---------------------------------------------------------------- draws

theorem Port.cluster_keeps (va dat : Nat) : Run.Keeps (p.cluster va dat) := .bind (p.read_keeps _ _) fun _ => .pure _

theorem Port.vertex_keeps (c : Cluster) (i : Nat) : Run.Keeps (p.vertex c i) := .bind (p.readBits_keeps _ _ _) fun _ => .pure _

theorem Port.indices_keeps (c : Cluster) (t : Nat) : Run.Keeps (p.indices c t) := .bind (p.readBits_keeps _ _ _) fun _ => .pure _

theorem Port.triangle_keeps (c : Cluster) (t : Nat) : Run.Keeps (p.triangle c t) :=
  .bind (p.indices_keeps _ _) fun _ => .ite (.pure _) (.bind (.mapM _ fun _ => p.vertex_keeps _ _) fun _ => .pure _)

theorem Port.drawTri_keeps (raw : Nat) (m : List (List Nat)) (c : Cluster) (bad : Bool) (pos inst bin : Nat) (d : Drawn) (t : Nat) :
    Run.Keeps (p.drawTri raw m c bad pos inst bin d t) := by
  refine .bind (p.triangle_keeps _ _) fun tr => .ite (.pure _) ?_
  split <;> exact .pure _

theorem Port.draw_keeps (pos inst bin crec job : Nat) : Run.Keeps (p.draw pos inst bin crec job) :=
  .ite (.pure _) (.bind (p.read_keeps _ _) fun _ => .bind (p.read_keeps _ _) fun _ => .bind (p.read_keeps _ _) fun _ =>
    .bind (p.cluster_keeps _ _) fun _ => .foldlM _ _ fun _ _ => p.drawTri_keeps _ _ _ _ _ _ _ _ _)

-- ---------------------------------------------------------------- rays

theorem Port.traceLeaf_keeps (r : Ray) (j : RayJob) (pos : Nat) (x : Trav) : Run.Keeps (p.traceLeaf r j pos x) := by
  refine .bind (p.read_keeps _ _) fun e => .bind (p.read_keeps _ _) fun i => .bind (p.cluster_keeps _ _) fun c => .ite (.pure _) ?_
  refine .foldlM _ _ fun x t => .ite (.pure _) (.bind (p.triangle_keeps _ _) fun tr => ?_)
  split
  · exact .pure _
  split <;> exact .pure _

theorem Port.visit_keeps (r : Ray) (j : RayJob) (n level k : Nat) (x : Trav) : Run.Keeps (p.visit r j n level k x) := by
  induction level generalizing k x with
  | zero =>
    rw [Port.visit]
    exact .ite (.pure _) (.bind (p.read_keeps _ _) fun _ => .ite (.pure _) (p.traceLeaf_keeps _ _ _ _))
  | succ level ih =>
    rw [Port.visit]
    exact .ite (.pure _) (.bind (p.read_keeps _ _) fun _ => .ite (.pure _) (.bind (ih _ _) fun _ => ih _ _))

theorem codeAt_keeps (va : Nat) (i j k : Int) : Run.Keeps (codeAt va p i j k) := .bind (p.read_keeps _ _) fun _ => .pure _

theorem Port.sample_keeps (va hdr : Nat) (pt : List Nat) : Run.Keeps (p.sample va hdr pt) := by
  have hplane {m n m' n' : Run (Nat × Bool)} {f f' g : Nat × Bool → Nat × Bool → Nat × Bool} (hm : Run.Keeps m) (hn : Run.Keeps n)
      (hm' : Run.Keeps m') (hn' : Run.Keeps n') : Run.Keeps (do
        let a ← (do let a ← m; let b ← n; Pure.pure (f a b))
        let b ← (do let a ← m'; let b ← n'; Pure.pure (f' a b))
        Pure.pure (g a b)) :=
    .bind (.bind hm fun _ => .bind hn fun _ => .pure _) fun _ => .bind (.bind hm' fun _ => .bind hn' fun _ => .pure _) fun _ => .pure _
  exact .bind (hplane (codeAt_keeps p _ _ _ _) (codeAt_keeps p _ _ _ _) (codeAt_keeps p _ _ _ _) (codeAt_keeps p _ _ _ _)) fun _ =>
    .bind (hplane (codeAt_keeps p _ _ _ _) (codeAt_keeps p _ _ _ _) (codeAt_keeps p _ _ _ _) (codeAt_keeps p _ _ _ _)) fun _ => .pure _

theorem Port.gradient_keeps (va hdr : Nat) (pt : List Nat) : Run.Keeps (p.gradient va hdr pt) :=
  .bind (.mapM _ fun _ => .bind (p.sample_keeps _ _ _) fun _ => .bind (p.sample_keeps _ _ _) fun _ => .pure _) fun _ => .pure _

theorem Port.march_keeps (r : Ray) (va hdr eps tend fuel n t : Nat) (mark : Bool) :
    Run.Keeps (p.march r va hdr eps tend fuel n t mark) := by
  induction fuel generalizing n t mark with
  | zero => exact .pure _
  | succ fuel ih =>
    rw [Port.march]
    exact .bind (p.sample_keeps _ _ _) fun _ => .ite (.pure _) (.ite (.pure _) (ih _ _ _))

theorem Port.brick_keeps (r : Ray) (table eps lim : Nat) (x : Trav) (b : Nat) : Run.Keeps (p.brick r table eps lim x b) := by
  refine .ite (.pure _) (.bind (p.read_keeps _ _) fun hd => ?_)
  dsimp only
  split
  · exact .pure _
  refine .ite (.pure _) (.bind (p.march_keeps _ _ _ _ _ _ _ _ _) fun m => ?_)
  split
  · exact .pure _
  · exact .bind (p.gradient_keeps _ _ _) fun _ => .pure _

theorem Port.ray_keeps (b : Bound) (words : List Nat) (flags : Nat) : Run.Keeps (p.ray b words flags) := by
  unfold Port.ray
  extract_lets r x finish bricks
  have hbricks (x : Trav) : Run.Keeps (bricks x) :=
    .ite (.bind (.pure _) fun _ => .pure _)
      (.bind (p.read_keeps _ _) fun _ => .bind (.foldlM _ _ fun _ _ => p.brick_keeps _ _ _ _ _ _) fun _ => .pure _)
  exact .ite (.bind (.pure _) hbricks) (.bind (p.read_keeps _ _) fun _ => .bind (p.read_keeps _ _) fun _ =>
    .ite (.bind (.pure _) hbricks) (.bind (p.visit_keeps _ _ _ _ _ _) hbricks))

-- ---------------------------------------------------------------- textures and images

theorem Port.texel_keeps (t : Texture) (l : Nat) (i j : Int) : Run.Keeps (p.texel t l i j) := .bind (p.read_keeps _ _) fun _ => .pure _

theorem Port.nearest_keeps (t : Texture) (l u v : Nat) : Run.Keeps (p.nearest t l u v) := p.texel_keeps _ _ _ _

theorem Port.bilinear_keeps (t : Texture) (l u v : Nat) : Run.Keeps (p.bilinear t l u v) :=
  .bind (p.texel_keeps _ _ _ _) fun _ => .bind (p.texel_keeps _ _ _ _) fun _ => .bind (p.texel_keeps _ _ _ _) fun _ =>
    .bind (p.texel_keeps _ _ _ _) fun _ => .pure _

theorem Port.filterOne_keeps (t : Texture) (lod u v : Nat) : Run.Keeps (p.filterOne t lod u v) := by
  unfold Port.filterOne
  dsimp only
  split
  · exact p.nearest_keeps _ _ _ _
  · exact p.bilinear_keeps _ _ _ _
  · exact .bind (p.bilinear_keeps _ _ _ _) fun _ => .bind (p.bilinear_keeps _ _ _ _) fun _ => .pure _

theorem Port.filter_keeps (recd : Nat) : Run.Keeps (p.filter recd) :=
  .ite (.pure _) (.bind (p.read_keeps _ _) fun _ => .bind (.mapM _ fun _ => p.filterOne_keeps _ _ _ _) fun _ => .pure _)

theorem Port.imageReads_keeps (img : Img) (op recd fuel : Nat) (vs : List (Nat × Bool)) : Run.Keeps (p.imageReads img op recd fuel vs) := by
  induction fuel generalizing vs with
  | zero => exact .pure _
  | succ fuel ih =>
    rw [Port.imageReads]
    split
    · exact .pure _
    · exact .bind (p.read_keeps _ _) fun _ => ih _

theorem Port.image_keeps (b : Bound) (img : Img) (op recd : Nat) : Run.Keeps (p.image b img op recd) := by
  unfold Port.image
  refine .ite (.pure _) (.ite (.bind (p.imageReads_keeps _ _ _ _ _) fun _ => .pure _) ?_)
  split
  · exact .ite (.bind (p.draw_keeps _ _ _ _ _) fun _ => .pure _) (.pure _)
  · exact .bind (p.ray_keeps _ _ _) fun _ => .pure _
  · exact p.filter_keeps _

end

-- ---------------------------------------------------------------- the jobs of a Ridgeline engine

section
variable (w : Walk)

theorem Walk.group_keeps (g patch : Nat) : Run.Keeps (w.group g patch) :=
  .ite (.pure _) (.bind (w.p.read_keeps _ _) fun _ => .ite (.pure _) (.pure _))

theorem Walk.resident_keeps (c : Nat) : Run.Keeps (w.resident c) := .bind (w.p.read_keeps _ _) fun _ => .pure _

theorem Walk.ancestor_keeps (patch fuel par : Nat) : Run.Keeps (w.ancestor patch fuel par) := by
  induction fuel generalizing par with
  | zero => exact .pure _
  | succ fuel ih =>
    rw [Walk.ancestor]
    refine .ite (.pure _) (.bind (w.group_keeps _ _) fun grp => ?_)
    split
    · exact .pure _
    split
    · exact .pure _
    · exact .bind (.mapM _ w.resident_keeps) fun _ => .ite (.pure _) (ih _)

theorem Walk.select_keeps (n patch g grp : Nat) (x : Cut) : Run.Keeps (w.select n patch g grp x) := by
  unfold Walk.select
  split
  · exact .pure _
  refine .foldlM _ _ fun x c => .bind (w.resident_keeps _) fun held => .ite (.pure _) (.bind (w.ancestor_keeps _ _ _) fun a => ?_)
  dsimp only
  split <;> exact .pure _

theorem Walk.instTask_keeps (n : Nat) : Run.Keeps (w.instTask n) := .bind (.bind (w.p.read_keeps _ _) fun _ => .pure _) fun _ => .pure _

theorem Walk.patchTask_keeps (n k : Nat) (x : Cut) : Run.Keeps (w.patchTask n k x) :=
  .bind (.bind (w.p.read_keeps _ _) fun _ => .pure _) fun _ => .ite (.pure _) (.bind (w.p.read_keeps _ _) fun _ => .pure _)

theorem Walk.visitTask_keeps (n patch lam left g : Nat) (x : Cut) : Run.Keeps (w.visitTask n patch lam left g x) := by
  refine .ite (.pure _) (.bind (w.group_keeps _ _) fun grp => ?_)
  split
  · exact .pure _
  · exact .bind (.bind (w.p.read_keeps _ _) fun _ => .pure _) fun _ => .ite (.pure _) (.ite (.pure _) (.ite (.pure _) (.ite (.pure _) (.ite (.pure _) (.pure _)))))

theorem Walk.kidTask_keeps (n patch lam left first k m : Nat) : Run.Keeps (w.kidTask n patch lam left first k m) :=
  .bind (w.p.read_keeps _ _) fun _ => .pure _

theorem Walk.entry_keeps (k : CutKey) : Run.Keeps (w.entry k) :=
  .bind (w.p.read_keeps _ _) fun _ => .bind (w.p.cluster_keeps _ _) fun _ => .pure _

theorem Walk.missWrites_keeps (ms : List (Nat × Nat)) : Run.Keeps (w.missWrites ms) :=
  .ite (.pure _) (.bind (w.p.read_keeps _ _) fun _ => .bind (w.p.read_keeps _ _) fun _ => .pure _)

theorem Walk.outputs_keeps (j : RidgeJob) : Run.Keeps (w.outputs j) := .bind (w.missWrites_keeps _) fun _ => .pure _

end

section
variable (p : Port)

theorem Port.check_keeps (loaded : Bool) (j : RidgeJob) : Run.Keeps (p.check loaded j) :=
  .ite (.pure _) (.bind (p.read_keeps _ _) fun _ => .ite (.pure _) (.ite (.pure _) (.pure _)))

theorem Port.task_keeps (loaded : Bool) (j : RidgeJob) (t : RidgeTask) : Run.Keeps (p.task loaded j t) := by
  cases t with
  | ring => exact .pure _
  | descriptor => exact .bind (p.read_keeps _ _) fun _ => .pure _
  | check => exact p.check_keeps _ _
  | inst n => exact .bind (Walk.instTask_keeps _ _) fun _ => .pure _
  | patch n k => exact .bind (Walk.patchTask_keeps _ _ _ _) fun _ => .pure _
  | visit n patch lam left g => exact .bind (Walk.visitTask_keeps _ _ _ _ _ _ _) fun _ => .pure _
  | select n patch g =>
    refine .bind (Walk.group_keeps _ _ _) fun grp => ?_
    dsimp only
    split
    · exact .pure _
    · exact .bind (Walk.select_keeps _ _ _ _ _ _) fun _ => .pure _
  | kids n patch lam left first k m => exact .bind (Walk.kidTask_keeps _ _ _ _ _ _ _ _) fun _ => .pure _
  | sort => exact .pure _
  | entry key => exact .bind (Walk.entry_keeps _ _) fun _ => .pure _
  | outputs => exact Walk.outputs_keeps _ _

theorem Port.posted_keeps (c : Ctx) : Run.Keeps (p.posted c) :=
  .ite (.pure _) (.bind (p.read_keeps _ _) fun _ => .bind (p.read_keeps _ _) fun _ => .ite (.pure _) (.pure _))

theorem Port.endWrites_keeps (j : RidgeJob) (size : Nat) : Run.Keeps (p.endWrites j size) := .bind (p.read_keeps _ _) fun _ => .pure _

end

end Machine
end Sys2Proof
end
section
/-! PROOFS. O51: the operations that write teams, grids or memories, or answer more than a state. -/

namespace Sys2Proof
namespace Machine

/-- What a state with an answer keeps, once it is taken apart. -/
theorem State.Keeps.fst {α : Type} {s s1 : State} {x : State × α} {a : α} (h : s.Keeps x.1) (hx : x = (s1, a)) : s.Keeps s1 := by
  subst hx
  exact h

theorem State.Keeps.iteFst {α : Type} {s : State} {p : Prop} [Decidable p] {x y : State × α} (h : s.Keeps x.1) (k : s.Keeps y.1) :
    s.Keeps (if p then x else y).1 := by
  split
  · exact h
  · exact k

-- ---------------------------------------------------------------- translation and fetch

theorem State.lookup_keeps (s : State) (core ctx va : Nat) (rd wr ex : Bool) : s.Keeps (s.lookup core ctx va rd wr ex).1 := by
  unfold State.lookup
  dsimp only
  split
  · split
    · split
      · exact s.fillTlb_keeps _ _
      · exact .rfl
    · exact .rfl
  · split
    · exact .after (State.fillTlb_keeps _ _ _) (s.touchWalk_keeps _ _)
    · exact s.touchWalk_keeps _ _

theorem State.fetch_keeps (s : State) (core ctx : Nat) (pc : Addr) : s.Keeps (s.fetch core ctx pc).1 := by
  unfold State.fetch
  split
  next s1 pa _ heq => exact ((s.lookup_keeps _ _ _ _ _ _).fst heq).trans (s1.sliceTouch_mild _ _ _).keeps
  next s1 cls heq => exact (s.lookup_keeps _ _ _ _ _ _).fst heq

theorem State.copyTranslate_keeps (s : State) (c : Copy) (write : Bool) (va : Nat) : s.Keeps (s.copyTranslate c write va).1 :=
  .iteFst (s.lookup_keeps _ _ _ _ _ _) .rfl

theorem State.makeRequest_keeps (s : State) (c : Copy) (r : CopyReq) : s.Keeps (s.makeRequest c r) := by
  unfold State.makeRequest
  dsimp only
  split
  next s1 cls heq =>
    exact .after (State.postCopyFaults_keeps _ _) (.after (State.updCopy_keeps _ _ _) ((s.copyTranslate_keeps _ _ _).fst heq))
  next s1 pa _ heq =>
    have hread := (s.copyTranslate_keeps _ _ _).fst heq
    split <;> next s2 _ heq2 =>
      exact .after (State.postCopyFaults_keeps _ _) (.after (State.updCopy_keeps _ _ _) (hread.trans ((s1.copyTranslate_keeps _ _ _).fst heq2)))

theorem State.walkAccess_keeps (s : State) (o : Op) (a : Access) : s.Keeps (s.walkAccess o a) := by
  unfold State.walkAccess
  dsimp only
  split
  next s1 pa tr heq =>
    have hlookup := (s.lookup_keeps _ _ _ _ _ _).fst heq
    exact .after (State.takeMisses_keeps _ _) (.after (State.updOp_keeps _ _ _) (.ite (.after (State.updThread_keeps _ _ _) hlookup) hlookup))
  next s1 cls heq => exact ((s.lookup_keeps _ _ _ _ _ _).fst heq).trans (s1.accessFault_mild _ _ _).keeps

theorem State.walkSlice_keeps (s : State) (tm : Team) (r : SliceRead) (q : SliceReq) : s.Keeps (s.walkSlice tm r q) := by
  unfold State.walkSlice
  dsimp only
  refine .ite .rfl (.ite (.ite .rfl (s.updReq_keeps _ _ _)) ?_)
  split
  next s1 pa _ heq => exact ((s.lookup_keeps _ _ _ _ _ _).fst heq).trans (s1.updReq_keeps _ _ _)
  next s1 cls heq => exact ((s.lookup_keeps _ _ _ _ _ _).fst heq).trans (s1.sliceFault_keeps _ _ _ _)

/-- The lines that an access brings into the translation caches, and the page its thread remembers. -/
theorem State.translated_keeps (s : State) (core : Nat) (id : ThreadId) (sp : Space) (tr : Option (Nat × Translation × Nat)) :
    s.Keeps (match sp, tr with
      | .g, some r => (if r.2.2 = 0 then s else s.fillTlb core r.2.1).updThread id fun t => { t with lastPage := some r.2.1 }
      | .k, some r => s.fillTlb core r.2.1
      | _, _ => s) := by
  split
  · exact .after (State.updThread_keeps _ _ _) (.ite .rfl (s.fillTlb_keeps _ _))
  · exact s.fillTlb_keeps _ _
  · exact .rfl

theorem State.startAccess_keeps (s : State) (x : Args) (a : Access) (cls : Option KClass) (dests : List Nat) (due : Option Nat) :
    s.Keeps (s.startAccess x a cls dests due) := by
  cases cls with
  | none => exact ((s.addOp_keeps _).trans (State.translated_keeps _ _ _ _ _)).trans (State.takeMisses_keeps _ _)
  | some c =>
    exact (((s.addOp_keeps _).trans (State.updThread_keeps _ _ _)).trans (State.translated_keeps _ _ _ _ _)).trans (State.takeMisses_keeps _ _)

theorem State.pushReturn_keeps (s : State) (x : Args) (ret : Addr) {s1 : State} (h : s.pushReturn x ret = .ok s1) : s.Keeps s1 := by
  unfold State.pushReturn at h
  dsimp only at h
  split at h
  · cases h
    exact .inert rfl
  split at h
  · cases h
  split at h <;> cases h
  · exact .inert rfl
  · exact .after (State.updThread_keeps _ _ _) (s.startAccess_keeps _ _ _ _ _)
  · exact .after (State.updThread_keeps _ _ _) (s.startAccess_keeps _ _ _ _ _)

-- ---------------------------------------------------------------- copies

theorem State.copyReadG_keeps (s : State) (c : Copy) (va pa n : Nat) : s.Keeps (s.copyReadG c va pa n).1 := by
  unfold State.copyReadG
  extract_lets plain acc s1 home
  have hpush : s.Keeps s1 := .ite (s.pushSector_mild _ _).keeps .rfl
  refine .iteFst .rfl ?_
  have hread : s.Keeps (if home then (s1.touchFor c.thr pa c.cp).journalRead c.thr.gridId pa else (s1, true)).1 :=
    .iteFst (.after (State.journalRead_keeps _ _ _) (hpush.trans (s1.touchFor_mild _ _ _).keeps)) hpush
  generalize (if home then (s1.touchFor c.thr pa c.cp).journalRead c.thr.gridId pa else (s1, true)) = x at hread ⊢
  obtain ⟨s2, ok⟩ := x
  refine .iteFst hread ?_
  extract_lets s3
  have hfill : s.Keeps s3 := hread.trans (.ite (s2.l1Fill_mild _ _ _ _).keeps .rfl)
  split
  · exact hfill.trans (s3.observe_mild _ _).keeps
  · exact hfill

theorem State.copyRead_keeps (s : State) (c : Copy) (r : CopyReq) : s.Keeps (s.copyRead c r).1 := by
  unfold State.copyRead
  dsimp only
  split
  · split <;> exact .rfl
  · exact .rfl
  · exact s.copyReadG_keeps _ _ _ _

theorem State.sumRead_keeps (s : State) (c : Copy) (r : CopyReq) : s.Keeps (s.sumRead c r).1 :=
  .iteFst .rfl (.after (State.journalRead_keeps _ _ _) (s.touchFor_mild _ _ _).keeps)

/-- A write at home by a copy, of bytes that it writes whole. -/
theorem State.homeWritten_keeps (s : State) (a n v : Nat) (marks : List Nat) :
    s.Keeps { s with home := memWrite s.home a n v, homePoison := marks } := .home rfl (wf_memWrite _ _ _)

theorem State.deliverG_keeps (s : State) (c : Copy) (x : Chunk) (pa data marks : Nat) : s.Keeps (s.deliverG c x pa data marks) := by
  unfold State.deliverG
  extract_lets a units set cl s1 acc
  have hs1 : s.Keeps s1 := s.updCopy_keeps _ _
  refine .ite ?_ ?_
  · refine .after (State.checkHomeWaiters_mild _ _ _).keeps (.after (State.l1Drop_mild _ _ _ _).keeps
      (.after (State.touchFor_mild _ _ _ _).keeps (.after (State.homeWritten_keeps _ _ _ _ _) ?_)))
    exact .ite (hs1.trans (s1.pushSector_mild _ _).keeps) hs1
  · refine .after (State.mapL1_keeps _ _ _) (.after (State.checkL1Waiters_mild _ _ _ _ _).keeps (.after (State.l1Write_mild _ _ _ _ _ _ _ _ _).keeps ?_))
    exact .ite (hs1.trans (s1.l1Fill_mild _ _ _ _).keeps) hs1

theorem State.deliverW_keeps (s : State) (c : Copy) (x : Chunk) (data marks : Nat) : s.Keeps (s.deliverW c x data marks) :=
  .weights rfl (wf_memWrite _ _ _)

end Machine
end Sys2Proof
end
section
/-! PROOFS. O51: the operations that move teams, grids and records, post what was held, and run the jobs of the engines. -/

namespace Sys2Proof
namespace Machine

namespace State.Keeps

variable {s s' : State}

/-- A change after which every scratchpad, placed or saved, is one that was there before. -/
theorem inherited (h : (s'.home, s'.weights) = (s.home, s.weights)) (ht : ∀ t ∈ s'.teams, ∃ x ∈ s.teams, t.scratch = x.scratch)
    (hg : ∀ g ∈ s'.grids, ∀ v ∈ g.waiting, ∃ y ∈ s.grids, v ∈ y.waiting) : s.Keeps s' := by
  simp only [Prod.mk.injEq] at h
  obtain ⟨hhome, hweights⟩ := h
  refine ⟨fun ⟨hwh, hww, hwt, hwg⟩ => ⟨hhome ▸ hwh, hweights ▸ hww, fun t hm => ?_, fun g hm v hv => ?_⟩⟩
  · obtain ⟨x, hx, e⟩ := ht t hm
    rw [e]
    exact hwt x hx
  · obtain ⟨y, hy, hv⟩ := hg g hm v hv
    exact hwg y hy v hv

/-- A change that takes teams and grids away. -/
theorem fewer (h : (s'.home, s'.weights) = (s.home, s.weights)) (ht : s'.teams ⊆ s.teams) (hg : s'.grids ⊆ s.grids) : s.Keeps s' :=
  .inherited h (fun t hm => ⟨t, ht hm, rfl⟩) fun g hm _ hv => ⟨g, hg hm, hv⟩

/-- A change of every placed team that leaves its scratchpad. -/
theorem mapTeams {f : Team → Team} (h : (s'.home, s'.weights, s'.grids) = (s.home, s.weights, s.grids)) (ht : s'.teams = s.teams.map f)
    (hf : ∀ x, (f x).scratch = x.scratch) : s.Keeps s' := by
  refine .teams h fun hwt t hm => ?_
  rw [ht] at hm
  obtain ⟨x, hx, rfl⟩ := List.mem_map.1 hm
  rw [hf]
  exact hwt x hx

/-- A team more, its scratchpad in form. -/
theorem addTeam {t : Team} (h : (s'.home, s'.weights, s'.grids) = (s.home, s.weights, s.grids)) (ht : s'.teams = s.teams ++ [t])
    (hw : Memory.wf t.scratch = true) : s.Keeps s' := by
  refine .teams h fun hwt x hm => ?_
  rw [ht] at hm
  rcases List.mem_append.1 hm with hm | hm
  · exact hwt x hm
  · rw [List.mem_singleton.1 hm]
    exact hw

/-- A grid more, with no team saved. -/
theorem addGrid {g : Grid} (h : (s'.home, s'.weights, s'.teams) = (s.home, s.weights, s.teams)) (hg : s'.grids = s.grids ++ [g])
    (hw : g.waiting = []) : s.Keeps s' := by
  refine .grids h fun hwg x hm v hv => ?_
  rw [hg] at hm
  rcases List.mem_append.1 hm with hm | hm
  · exact hwg x hm v hv
  · rw [List.mem_singleton.1 hm, hw] at hv
    cases hv

end State.Keeps

-- ---------------------------------------------------------------- teams and grids

theorem State.swapSeqs_keeps (s : State) (ctx old new : Nat) : s.Keeps (s.swapSeqs ctx old new) := by
  refine .mapTeams (f := fun t => if t.id.ctx ≠ ctx then t else { t with slice := t.slice.map fun sl => { sl with reads := sl.reads.map fun r =>
    { r with reqs := r.reqs.map fun q => { q with st := q.st.swap old new } } } }) rfl rfl fun x => ?_
  split <;> rfl

theorem State.addTeam_keeps (s : State) (g : GridId) (t : Team) (ths : List Thread) (hw : Memory.wf t.scratch = true) :
    s.Keeps (s.addTeam g t ths) := by
  unfold State.addTeam
  extract_lets cores old fresh s1 s2 s3
  have hs1 : s.Keeps s1 := .ite .rfl (s.invalidateL1_mild _).keeps
  have hs2 : s.Keeps s2 := hs1.trans (.inert rfl)
  have hs3 : s2.Keeps s3 := .grid fun _ => rfl
  exact (hs2.trans hs3).trans (.addTeam rfl rfl hw)

theorem State.leaveCairn_keeps (s : State) (t : ThreadId) : s.Keeps (s.leaveCairn t) := by
  unfold State.leaveCairn
  split
  · exact .rfl
  split
  · exact .rfl
  · exact .after (.team fun x h => wf_memWrite _ _ _ h) (.inert rfl)

theorem State.unwait_keeps (s : State) (t : ThreadId) : s.Keeps (s.unwait t) := .after (State.leaveCairn_keeps _ _) (.inert rfl)

theorem State.freeWaiters_keeps (s : State) (die : Nat) : s.Keeps (s.freeWaiters die) :=
  .after (.foldl fun s _ => .after (State.wakeThread_mild _ _).keeps (s.leaveCairn_keeps _)) (.inert rfl)

theorem State.moveBlocks_keeps (s : State) (up : Bool) (t : TeamId) (ranks : List Nat) (left : Nat) :
    s.Keeps (s.moveBlocks up t ranks left).1 := by
  induction ranks generalizing s left with
  | nil => exact .rfl
  | cons rank rs ih =>
    rw [State.moveBlocks]
    split
    · dsimp only
      split
      · exact .iteFst (.after (ih _ _) (.team fun _ h => h)) (ih _ _)
      · exact ih _ _
    · exact ih _ _

theorem State.moveSegs_keeps (s : State) (up : Bool) (t : TeamId) (is : List Nat) (left : Nat) : s.Keeps (s.moveSegs up t is left) := by
  induction is generalizing s left with
  | nil => exact .rfl
  | cons i is ih =>
    rw [State.moveSegs]
    split
    · exact .rfl
    dsimp only
    split
    · exact .ite (.after (ih _ _) (.team fun _ h => h)) (ih _ _)
    · exact ih _ _

theorem State.blockTeam_keeps (s : State) (g : Grid) (n : NextTeam) : s.Keeps (s.blockTeam g n) := by
  unfold State.blockTeam
  extract_lets need cores r frag s1
  have hs1 : s.Keeps s1 := .grid fun _ => rfl
  exact hs1.trans (.inert rfl)

theorem State.formBatch_keeps (s : State) (core : Nat) (grid : GridId) (entry : Addr) (bud : Nat) : s.Keeps (s.formBatch core grid entry bud) := by
  have hcount : s.Keeps (s.updGrid grid fun g => { g with relaunch := g.relaunch + 1 }) := .grid fun _ => rfl
  exact .ite .rfl (hcount.trans (.inert rfl))

theorem State.formAll_keeps (s : State) (ctx n : Nat) : s.Keeps (s.formAll ctx n) := by
  induction n generalizing s with
  | zero => exact .rfl
  | succ n ih =>
    rw [State.formAll]
    split
    · exact .rfl
    · exact .after (ih _) (s.formBatch_keeps _ _ _ _)

theorem State.killContext_keeps (s : State) (ctx : Nat) : s.Keeps (s.killContext ctx) := by
  unfold State.killContext
  extract_lets other idle gone s1
  have hs1 : s.Keeps s1 := .after (State.dropPayloads_keeps _ _) (.after (State.setStall_mild _ _ _).keeps (s.killRidge_keeps _))
  exact hs1.trans (.fewer rfl (fun _ => List.mem_of_mem_filter) fun _ => List.mem_of_mem_filter)

theorem State.reapTeams_keeps (s : State) : s.Keeps s.reapTeams := .ite .rfl (.fewer rfl (fun _ => List.mem_of_mem_filter) fun _ h => h)

theorem State.leaveSave_keeps (s : State) (ctx st need : Nat) : s.Keeps (s.leaveSave ctx st need) := by
  refine .mapTeams (f := fun t => if t.id.ctx = ctx then { t with deadline := none } else t) rfl rfl fun x => ?_
  split <;> rfl

-- ---------------------------------------------------------------- records

theorem State.admitOne_keeps (s : State) (h : Held) : s.Keeps (s.admitOne h) := by
  unfold State.admitOne
  dsimp only
  split
  · exact .inert rfl
  · exact .after (State.makeRecord_mild _ _ _ _).keeps (.after (State.swapSeqs_keeps _ _ _ _) (.inert rfl))

theorem State.admitWaiting_keeps (s : State) (die n : Nat) : s.Keeps (s.admitWaiting die n) := by
  induction n generalizing s with
  | zero => exact .rfl
  | succ n ih =>
    rw [State.admitWaiting]
    split
    · exact .rfl
    · exact .ite (.after (ih _) (s.admitOne_keeps _)) .rfl

theorem State.admitAll_keeps (s : State) : s.Keeps s.admitAll := .after (State.admitWaiting_keeps _ _ _) (s.admitWaiting_keeps _ _)

theorem State.postAllHeld_keeps (s : State) (ctx n : Nat) : s.Keeps (s.postAllHeld ctx n) := by
  induction n generalizing s with
  | zero => exact .rfl
  | succ n ih => exact .after (ih _) (s.postHeld_keeps _)

theorem State.dropSpills_keeps (s : State) (die n : Nat) : s.Keeps (s.dropSpills die n) := by
  induction n generalizing s with
  | zero => exact .rfl
  | succ n ih =>
    rw [State.dropSpills]
    split
    · exact .rfl
    · exact .ite (.after (ih _) (s.popSpill_keeps _)) .rfl

theorem State.makeEligible_keeps (s : State) (g : GridId) : s.Keeps (s.makeEligible g) := by
  unfold State.makeEligible
  split
  · exact .rfl
  split
  next s1 ok heq =>
    have hjournal := ((s.journal_mild _ _ _ _ _).keeps).fst heq
    exact .ite (.after (State.testDep_keeps _ _) (hjournal.trans (.grid fun _ => rfl))) hjournal

theorem State.acceptGrid_keeps (s : State) (ctx die order raw : Nat) (km : Bool) (src : Option (ThreadId × Nat × Nat)) (va : Nat) :
    s.Keeps (s.acceptGrid ctx die order raw km src va) := by
  unfold State.acceptGrid
  split
  · exact .rfl
  extract_lets used id r g s0 s1
  have hs1 : s.Keeps s1 := .addGrid (g := g) rfl rfl rfl
  exact .ite (hs1.trans (s1.makeEligible_keeps _)) hs1

theorem State.drainSpill_keeps (s : State) (die : Nat) : s.Keeps (s.drainSpill die) := by
  unfold State.drainSpill
  extract_lets s1
  have hs1 : s.Keeps s1 := s.dropSpills_keeps _ _
  split
  · exact hs1
  · exact .ite hs1 (.after (State.acceptGrid_keeps _ _ _ _ _ _ _ _) (hs1.trans (s1.popSpill_keeps _)))

theorem State.drainSpills_keeps (s : State) (die : Nat) : s.Keeps (s.drainSpills die) := .foldl fun s _ => s.drainSpill_keeps _

theorem State.endGrid_keeps (s : State) (g : Grid) : s.Keeps (s.endGrid g) := by
  unfold State.endGrid
  extract_lets s1 s2 s3
  have hs1 : s.Keeps s1 := .foldl fun s _ => (s.flushL1_mild _).keeps
  have hs3 : s2.Keeps s3 := .fewer rfl (fun _ h => h) fun _ => List.mem_of_mem_filter
  exact .after (State.testDeps_keeps _ _) (.after (State.testDeps_keeps _ _) ((hs1.trans (s1.doneStore_keeps _)).trans hs3))

-- ---------------------------------------------------------------- copies and island jobs

theorem State.completeJob_keeps (s : State) (j : IslandJob) : s.Keeps (s.completeJob j) := by
  unfold State.completeJob
  extract_lets s1 s2
  have hs1 : s.Keeps s1 := .ite (s.addStats_keeps _ _ _ _ _ _) .rfl
  have hs2 : s.Keeps s2 := by
    show s.Keeps (match s1.op? j.id with
      | some o => s1.completeOp o
      | none => s1)
    split
    · exact hs1.trans (s1.completeOp_mild _).keeps
    · exact hs1
  exact hs2.trans (.inert rfl)

theorem State.offerSlots_keeps (s : State) (j : IslandJob) (bytes : Nat) : s.Keeps (s.offerSlots j bytes) :=
  .ite (s.completeJob_keeps _) (.inert rfl)

theorem State.slotArrives_keeps (s : State) (job i : Nat) : s.Keeps (s.slotArrives job i) := by
  unfold State.slotArrives
  split
  · exact .rfl
  split
  · exact .rfl
  refine .ite .rfl (.ite (.after (State.completeJob_keeps _ _) ?_) ?_)
  · exact .after (State.updJob_keeps _ _ _) (s.fillSlots_keeps _ _ _ _)
  · exact .after (State.updJob_keeps _ _ _) (s.fillSlots_keeps _ _ _ _)

theorem State.checkCopy_keeps (s : State) (id : Nat) : s.Keeps (s.checkCopy id) := by
  unfold State.checkCopy
  split
  · exact .rfl
  refine .ite (s.endCopy_keeps _) (.foldl fun s t => ?_)
  split
  · exact .ite .rfl (s.finishRecv_keeps _ _)
  · exact .rfl

theorem State.cairnArrive_keeps (s : State) (t : TeamId) (off n core : Nat) : s.Keeps (s.cairnArrive t off n core) := by
  unfold State.cairnArrive
  dsimp only
  split
  · exact .rfl
  · exact .after (State.releaseCairn_mild _ _ _ _ _).keeps (.after (State.putCairn_mild _ _ _ _).keeps (.ite (s.flushL1_mild _).keeps .rfl))

theorem State.deliverCount_keeps (s : State) (c : Copy) (team : TeamId) (n : Nat) : s.Keeps (s.deliverCount c team n) :=
  .ite (s.cairnArrive_keeps _ _ _ _) .rfl

theorem State.deliverReq_keeps (s : State) (c : Copy) (r : CopyReq) : s.Keeps (s.deliverReq c r) := by
  unfold State.deliverReq
  split
  · exact .rfl
  next rc _ =>
  extract_lets s1 s2 s3
  have hs1 : s.Keeps s1 := by
    show s.Keeps (match c.dstS with
      | .s => s.deliverS c 0 rc r.chunk r.data r.marks
      | .w => s.deliverW c r.chunk r.data r.marks
      | _ => s.deliverG c r.chunk r.dstPa r.data r.marks)
    split
    · exact s.deliverS_keeps _ _ _ _ _ _
    · exact s.deliverW_keeps _ _ _ _
    · exact s.deliverG_keeps _ _ _ _ _
  exact .after (State.checkCopy_keeps _ _) (.after (State.deliverCount_keeps _ _ _ _)
    (.after (State.updCopy_keeps _ _ _) (hs1.trans (s1.settleLines_keeps _ _ _))))

theorem State.deliverWord_keeps (s : State) (c : Copy) (word : Nat) : s.Keeps (s.deliverWord c word) := by
  refine .foldl fun s p => ?_
  split
  · exact s.deliverReq_keeps _ _
  · exact .rfl

theorem State.chainChunk_keeps (s : State) (id i : Nat) (r : CopyReq) : s.Keeps (s.chainChunk id i r) := by
  unfold State.chainChunk
  dsimp only
  split
  · exact .rfl
  · exact .after (State.checkRecv_keeps _ _ _) (.after (State.deliverCount_keeps _ _ _ _) (.after (State.updCopy_keeps _ _ _)
      (.after (State.settleLines_keeps _ _ _ _) (s.deliverS_keeps _ _ _ _ _ _))))

-- ---------------------------------------------------------------- the jobs of islands and Ridgeline engines

section
variable {α : Type} {m : Run α} (h : Run.Keeps m) {r0 r : Reader}
include h

/-- Where a run that stops at a fault leaves the state. -/
theorem Run.Keeps.faulted {cls va n : Nat} {w : Bool} (e : m.run r0 = .error (.fault r cls va n w)) : r0.st.Keeps r.st := by
  have hr := h r0
  rw [show m r0 = _ from e] at hr
  exact hr

/-- Where a run that has to wait leaves the state. -/
theorem Run.Keeps.waited (e : m.run r0 = .error (.wait r)) : r0.st.Keeps r.st := by
  have hr := h r0
  rw [show m r0 = _ from e] at hr
  exact hr

/-- Where a run that ends leaves the state. -/
theorem Run.Keeps.ended {a : α} (e : m.run r0 = .ok (a, r)) : r0.st.Keeps r.st := by
  have hr := h r0
  rw [show m r0 = _ from e] at hr
  exact hr

end

theorem State.computeJob_keeps (s : State) (die fuel : Nat) (j : RidgeJob) : s.Keeps (s.computeJob die fuel j) := by
  induction fuel generalizing s j with
  | zero => exact s.putJob_keeps _ _
  | succ fuel ih =>
    rw [State.computeJob]
    split
    · exact s.putJob_keeps _ _
    split
    next heq => exact ((Port.task_keeps _ _ _ _).faulted heq).trans (State.suspendJob_keeps _ _ _ _ _ _ _ _)
    next heq => exact ((Port.task_keeps _ _ _ _).waited heq).trans (State.putJob_keeps _ _ _)
    next heq => exact ((Port.task_keeps _ _ _ _).ended heq).trans (ih _ _)

theorem State.takeJob_keeps (s : State) (die tasks : Nat) (cs : List Ctx) : s.Keeps (s.takeJob die tasks cs) := by
  induction cs with
  | nil => exact s.updRidge_keeps _ _
  | cons c rest ih =>
    rw [State.takeJob]
    dsimp only
    split
    next heq =>
      exact ((Port.posted_keeps _ _).ended heq).trans (.after (State.computeJob_keeps _ _ _ _) (.after (State.updRidge_keeps _ _ _) (.inert rfl)))
    · exact ih
    next heq =>
      exact ((Port.posted_keeps _ _).faulted heq).trans
        (.after (State.suspendJob_keeps _ _ _ _ _ _ _ _) (.after (State.updRidge_keeps _ _ _) (.inert rfl)))
    next heq => exact (Port.posted_keeps _ _).waited heq

theorem State.ridgeWrites_keeps (s : State) (die fuel : Nat) (j : RidgeJob) : s.Keeps (s.ridgeWrites die fuel j) := by
  induction fuel generalizing s j with
  | zero => exact s.putJob_keeps _ _
  | succ fuel ih =>
    rw [State.ridgeWrites]
    split
    · exact s.putJob_keeps _ _
    split
    next heq => exact ((s.writeVa_mild _ _ _ _ _ _).keeps.fst heq).trans (State.suspendJob_keeps _ _ _ _ _ _ _ _)
    next heq =>
      have hwrite := (s.writeVa_mild _ _ _ _ _ _).keeps.fst heq
      exact .ite (.after (ih _ _) (.after (State.addJobCounts_keeps _ _ _) (hwrite.trans (State.wakeVa_mild _ _ _ _).keeps))) (hwrite.trans (ih _ _))

theorem State.runJob_keeps (s : State) (j : IslandJob) : s.Keeps (s.runJob j) := by
  unfold State.runJob
  split
  · exact .rfl
  split
  · dsimp only
    split
    next heq => exact ((Port.image_keeps _ _ _ _ _).faulted heq).trans (.after (State.parkJob_keeps _ _ _ _ _ _) (State.updJob_keeps _ _ _))
    next heq => exact ((Port.image_keeps _ _ _ _ _).waited heq).trans (State.updJob_keeps _ _ _)
    next heq => exact ((Port.image_keeps _ _ _ _ _).ended heq).trans (State.updJob_keeps _ _ _)
  · exact .rfl

theorem State.beginEnd_keeps (s : State) (die : Nat) (j : RidgeJob) : s.Keeps (s.beginEnd die j) := by
  unfold State.beginEnd
  dsimp only
  split
  next heq => exact ((Port.endWrites_keeps _ _ _).faulted heq).trans (State.suspendJob_keeps _ _ _ _ _ _ _ _)
  next heq => exact ((Port.endWrites_keeps _ _ _).waited heq).trans (State.putJob_keeps _ _ _)
  next heq => exact ((Port.endWrites_keeps _ _ _).ended heq).trans (State.putJob_keeps _ _ _)

/-- What a commit of one word leaves. -/
def commitLeft : Except Halted (State × Bool) → State
  | .ok x => x.1
  | .error h => h.reader.st

theorem State.commitOne_keeps (s : State) (g : GridId) (die : Nat) (core : Option Nat) (probe : Bool) (va word : Nat) :
    s.Keeps (commitLeft (s.commitOne g die core probe va word)) := by
  unfold State.commitOne
  split
  · exact .rfl
  next pa _ _ =>
  have hpush := s.pushFor_keeps core pa
  dsimp only
  split
  · exact hpush
  have hread := hpush.trans (State.journalRead_keeps _ g pa)
  split
  next heq => exact hread.fst heq
  next heq =>
    have htouch := (hread.fst heq).trans (State.touchVia_keeps _ die g.ctx va pa)
    split
    · exact htouch
    · dsimp only [commitLeft]
      refine .ite ?_ htouch
      exact htouch.trans (State.homeWrite_mild _ _ _ _ _).keeps

theorem State.commitAll_keeps (s : State) (g : GridId) (die : Nat) (core : Option Nat) (probe : Bool) (ws : List (Nat × Nat)) :
    s.Keeps (s.commitAll g die core probe ws).1 := by
  induction ws generalizing s with
  | nil => exact .rfl
  | cons w rest ih =>
    rw [State.commitAll]
    have hone := s.commitOne_keeps g die core probe w.1 w.2
    cases heq : s.commitOne g die core probe w.1 w.2 with
    | ok x =>
      rw [heq] at hone
      exact hone.trans (ih _)
    | error e =>
      rw [heq] at hone
      cases e <;> exact hone

theorem State.commitRecord_keeps (s : State) (die : Nat) (j : RidgeJob) (rest : List HandOff) : s.Keeps (s.commitRecord die j rest) := by
  unfold State.commitRecord
  split
  next heq =>
    have hall := (s.commitAll_keeps _ _ _ _ _).fst heq
    dsimp only
    split
    · exact hall.trans (State.suspendJob_keeps _ _ _ _ _ _ _ _)
    · exact hall.trans (State.putJob_keeps _ _ _)
    · exact hall.trans (State.putJob_keeps _ _ _)

theorem State.drawRecord_keeps (s : State) (die : Nat) (j : RidgeJob) (h : HandOff) (rest : List HandOff) :
    s.Keeps (s.drawRecord die j h rest) := by
  unfold State.drawRecord
  split
  · split
    · exact .rfl
    dsimp only
    split
    next heq => exact ((Port.image_keeps _ _ _ _ _).faulted heq).trans (State.suspendJob_keeps _ _ _ _ _ _ _ _)
    next heq => exact ((Port.image_keeps _ _ _ _ _).waited heq).trans (State.putJob_keeps _ _ _)
    next heq => exact ((Port.image_keeps _ _ _ _ _).ended heq).trans (State.commitRecord_keeps _ _ _ _)
  · exact .rfl

end Machine
end Sys2Proof
end
section
/-! PROOFS. O51: the operations built from those, on teams, records, spills and packets. -/

namespace Sys2Proof
namespace Machine

theorem State.answer_keeps (s : State) (t : ThreadId) (seqs : List Nat) (how : ParkAnswer) : s.Keeps (s.answer t seqs how) := by
  unfold State.answer
  dsimp only
  split
  · exact .after (State.updThread_keeps _ _ _) (.foldl (fun s _ => s.closeRecord_keeps _ _))
  refine .ite ?_ ?_
  · exact .after (State.updThread_keeps _ _ _) (.foldl (fun s _ => s.closeRecord_keeps _ _))
  refine .ite ?_ ?_
  · exact .after (State.wakeThread_mild _ _).keeps (.after (State.updThread_keeps _ _ _) (.after (State.unwait_keeps _ _) (.after
      (State.updThread_keeps _ _ _) (.foldl (fun s _ => s.closeRecord_keeps _ _)))))
  refine .ite ?_ ?_
  · exact .after (State.wakeThread_mild _ _).keeps (.after (State.updThread_keeps _ _ _) (.after (State.updThread_keeps _ _ _) (.foldl (fun s _ =>
      s.closeRecord_keeps _ _))))
  · exact .after (State.updThread_keeps _ _ _) (.after (State.updThread_keeps _ _ _) (.foldl (fun s _ => s.closeRecord_keeps _ _)))

theorem State.deliver_keeps (s : State) (o : NetOwner) : s.Keeps (s.deliver o) := by
  unfold State.deliver
  split
  · exact s.slotArrives_keeps _ _
  · exact .rfl

theorem State.drainAll_keeps (s : State) : s.Keeps s.drainAll :=
  .after (State.drainSpills_keeps _ _) (s.drainSpills_keeps _)

theorem State.drainOut_keeps (s : State) (ctx : Nat) : s.Keeps (s.drainOut ctx) := by
  unfold State.drainOut
  dsimp only
  exact .after (State.formAll_keeps _ _ _) (.after (.foldl (fun s _ => (s.flushL1_mild _).keeps)) (s.releaseWaiters_mild _).keeps)

theorem State.endBound_keeps (s : State) (ctx : Nat) : s.Keeps (s.endBound ctx) :=
  .after (State.updCtx_keeps _ _ _) (.after (State.sweep_keeps _ _ _ _) (s.killContext_keeps _))

theorem State.haltContext_keeps (s : State) (ctx : Nat) : s.Keeps (s.haltContext ctx) :=
  .after (State.drainAll_keeps _) (s.killContext_keeps _)

theorem State.nextPiece_keeps (s : State) (c : Copy) : s.Keeps (s.nextPiece c) :=
  .after (State.checkCopy_keeps _ _) (.inert rfl)

theorem State.popReturn_keeps (s : State) (x : Args) : s.Keeps (s.popReturn x) :=
  .ite (.inert rfl) (.after (State.startAccess_keeps _ _ _ _ _ _) (.inert rfl))

theorem State.repost_keeps (s : State) (die ctx : Nat) (r : FRec) : s.Keeps (s.repost die ctx r) :=
  .after (State.postRecord_mild _ _ _).keeps (s.swapSeqs_keeps _ _ _)

theorem State.walkOp_keeps (s : State) (op : Nat) : s.Keeps (s.walkOp op) := by
  unfold State.walkOp
  split
  · exact .rfl
  split
  · exact .ite (s.walkAccess_keeps _ _) .rfl
  · exact .rfl

end Machine
end Sys2Proof
end
section
/-! PROOFS. O51: sets and their ends, answers to kernel words, packets, the engines, and the placement of teams. -/

namespace Sys2Proof
namespace Machine

/-- Steps that leave the scratchpad leave it together. -/
theorem Team.foldl_scratch {α : Type} {f : Team → α → Team} (l : List α) (t : Team) (hf : ∀ t x, (f t x).scratch = t.scratch) :
    (l.foldl f t).scratch = t.scratch := by
  induction l generalizing t with
  | nil => rfl
  | cons x xs ih => exact (ih _).trans (hf _ _)

theorem Team.claim_scratch (t : Team) (l : List (Nat × Nat)) : (t.claim l).scratch = t.scratch := Team.foldl_scratch l t fun _ _ => rfl

theorem Team.popClaims_scratch (t : Team) (now : Nat) (l : List (Nat × Nat)) : (t.popClaims now l).scratch = t.scratch :=
  Team.foldl_scratch l t fun _ _ => rfl

theorem Team.matrixWork_scratch (t : Team) (wide : Bool) (x : Slot) (e : EngineEntry) (as bs : List Image) :
    (t.matrixWork wide x e as bs).1.scratch = t.scratch := by
  have hfold (f : Team × Nat → Image × Nat → Team × Nat) (l : List (Image × Nat)) (t : Team × Nat)
      (hf : ∀ t x, (f t x).1.scratch = t.1.scratch) : (l.foldl f t).1.scratch = t.1.scratch := by
    induction l generalizing t with
    | nil => rfl
    | cons x xs ih => exact (ih _).trans (hf _ _)
  exact hfold _ _ _ fun _ _ => rfl

-- ---------------------------------------------------------------- convergence sets and the ends of threads

theorem matrixFire_keeps (s : State) (t : TeamId) (parts : List Member) : s.Keeps (matrixFire s t parts) := by
  unfold matrixFire
  dsimp only
  split
  · split
    · exact .rfl
    · refine .after (.foldl fun s m => s.misfit_keeps _ _) (.after (.team fun x hx => ?_) (.inert rfl))
      exact (x.claim_scratch _).symm ▸ hx
  · exact .rfl

theorem State.collect_keeps (s : State) (t : TeamId) (now : Nat) (ranks : List Nat) (members : List Member) :
    s.Keeps (s.collect t now ranks members) := by
  unfold State.collect
  dsimp only
  split
  · exact .rfl
  split
  · exact .rfl
  split
  · exact matrixFire_keeps _ _ _
  · exact .after (.foldl fun s _ => s.misfit_keeps _ _) (.foldl fun s _ => s.collOp_keeps _ _ _ _ _ _)

theorem State.settle_keeps (s : State) (t : TeamId) (n : Nat) : s.Keeps (s.settle t n) := by
  unfold State.settle
  split
  · exact .rfl
  dsimp only
  refine .ite .rfl (.ite ?_ (.ite ?_ .rfl))
  · exact .after (State.clearSigned_keeps _ _ _ _) (.after (State.setCr_keeps _ _ _ _) (.foldl fun s _ => s.discard_keeps _ _))
  · exact .after (State.clearSigned_keeps _ _ _ _) (.after (State.setCr_keeps _ _ _ _) (s.collect_keeps _ _ _ _))

theorem State.withdraw_keeps (s : State) (t : TeamId) (n rank : Nat) : s.Keeps (s.withdraw t n rank) := by
  unfold State.withdraw
  split
  · exact .rfl
  next tm _ =>
  extract_lets c c' s1
  have hs1 : s.Keeps s1 := by
    show s.Keeps (match c.members.find? fun m => decide (m.rank = rank) with
      | some m => (match m.dep with
        | some d => if d.signed then s else s.discard t m
        | none => s)
      | none => s)
    split
    · split
      · exact .ite .rfl (s.discard_keeps _ _)
      · exact .rfl
    · exact .rfl
  exact .after (State.settle_keeps _ _ _) (hs1.trans (s1.setCr_keeps _ _ _))

theorem State.withdrawAll_keeps (s : State) (t : ThreadId) : s.Keeps (s.withdrawAll t) := by
  refine .foldl fun s n => ?_
  split
  · exact .rfl
  · exact .ite (s.withdraw_keeps _ _ _) .rfl

theorem State.exitThread_keeps (s : State) (t : ThreadId) : s.Keeps (s.exitThread t) :=
  .after (State.endSlice_keeps _ _) (.after (State.withdrawAll_keeps _ _) ((s.leaveCairn_keeps t).trans (.inert rfl)))

theorem State.killThread_keeps (s : State) (t : ThreadId) : s.Keeps (s.killThread t) := by
  unfold State.killThread
  split
  · exact .rfl
  next x _ =>
  extract_lets seqs s1 s2 s3
  have hs1 : s.Keeps s1 := .after (State.cancelAll_keeps _ _ _) (s.setStall_mild _ _).keeps
  have hs2 : s1.Keeps s2 := .foldl fun s _ => s.closeRecord_keeps _ _
  exact .after (State.exitThread_keeps _ _) ((hs1.trans hs2).trans (.inert rfl))

-- ---------------------------------------------------------------- answers to kernel words

theorem State.eretAnswer_keeps (s : State) (k : Target) (how : ParkAnswer) : s.Keeps (s.eretAnswer k how).1 := by
  unfold State.eretAnswer
  dsimp only
  split
  · exact .rfl
  refine .iteFst .rfl (.after (State.answer_keeps _ _ _ _) ?_)
  cases how with
  | resume => exact s.releaseAll_keeps _ _
  | skip => exact s.cancelAll_keeps _ _

theorem State.eretAct_keeps (s : State) (w : Nat) (k : Target) : s.Keeps (s.eretAct w k).1 := by
  unfold State.eretAct
  dsimp only
  refine .iteFst .rfl ?_
  split
  · exact .rfl
  refine .iteFst .rfl (.iteFst .rfl (.iteFst .rfl ?_))
  split
  · exact .iteFst (s.releaseAll_keeps _ _) (s.cancelAll_keeps _ _)
  · exact .iteFst (s.releaseAll_keeps _ _) (s.cancelAll_keeps _ _)
  · split
    · exact .rfl
    · refine .iteFst .rfl ?_
      have hclosed : s.Keeps (s.updTeam ⟨k.ctx, k.grid, k.team⟩ fun x => { x with entry := .closed }) := .team fun _ h => h
      exact hclosed.trans (.inert rfl)
  · split
    · exact .rfl
    refine .iteFst .rfl ?_
    split
    · exact s.eretAnswer_keeps _ _
    · exact s.eretAnswer_keeps _ _
    · exact s.killThread_keeps _
    · refine .iteFst .rfl ?_
      split
      · exact s.updThread_keeps _ _
      · exact .rfl

theorem State.performEret_keeps (s : State) (o : Op) : s.Keeps (s.performEret o) := by
  unfold State.performEret
  split
  · exact .after (State.updOp_keeps _ _ _) (s.eretAct_keeps _ _)
  · exact .rfl

theorem State.performErets_keeps (s : State) (die : Nat) : s.Keeps (s.performErets die) := .foldl fun s _ => s.performEret_keeps _

-- ---------------------------------------------------------------- packets

theorem State.handOn_keeps (s : State) (ports n : Nat) : s.Keeps (s.handOn ports n) := by
  induction n generalizing s with
  | zero => exact .rfl
  | succ n ih =>
    rw [State.handOn]
    dsimp only
    split
    · exact .rfl
    · exact .after (ih _) (.after (State.deliver_keeps _ _) (.inert rfl))

theorem State.OnlyMoves.keeps {s s1 : State} (h : s.OnlyMoves s1) : s.Keeps s1 := by
  rw [h]
  exact .inert rfl

theorem State.inject_keeps (s : State) (h : Dword) (payload : List (BitVec 512)) (owner : NetOwner) {s1 : State}
    (hs : s.inject h payload owner = some s1) : s.Keeps s1 := by
  unfold State.inject at hs
  dsimp only at hs
  split at hs
  · cases hs
  split at hs
  · cases hs
  split at hs
  · cases hs
  next hhead =>
  split at hs
  · cases hs
  next hcontend =>
  cases hs
  exact .after (State.decideTrim_keeps _ _) (((useHead_moves hhead).1.trans (contend_moves hcontend).1).keeps.trans (.inert rfl))

theorem State.arrive_keeps (s : State) (p : Packet) : s.Keeps (s.arrive p) := by
  unfold State.arrive
  dsimp only
  refine .ite (.ite ?_ ?_) (.ite (s.updPacket_keeps _ _) ?_)
  · exact .after (State.noteTrim_keeps _ _) (.after (State.countTrim_keeps _ _ _ _ _) (s.dropPacket_keeps _))
  · exact .after (State.handOn_keeps _ _ _) (.after (State.acceptPayload_keeps _ _) (s.updPacket_keeps _ _))
  · exact .after (State.acceptPayload_keeps _ _) (s.dropPacket_keeps _)

theorem State.settleAt_keeps (s : State) (id : Nat) : s.Keeps (s.settleAt id) := by
  unfold State.settleAt
  split
  · exact .rfl
  refine .ite (.ite .rfl (.after (State.acceptPayload_keeps _ _) (s.dropPacket_keeps _))) (.ite .rfl (.ite ?_ (.ite (s.dropPacket_keeps _) ?_)))
  · exact .after (State.noteTrim_keeps _ _) (s.dropPacket_keeps _)
  · exact .ite .rfl (s.arrive_keeps _)

theorem State.moveFlit_keeps (s : State) (id f : Nat) : s.Keeps (s.moveFlit id f) := by
  unfold State.moveFlit
  split
  · exact .rfl
  split
  · exact .rfl
  split
  · exact .rfl
  · exact .ite .rfl (.after (State.settleAt_keeps _ _) (.after (State.updPacket_keeps _ _ _) (s.setWire_keeps _)))

theorem State.moveHeader_keeps (s : State) (id : Nat) : s.Keeps (s.moveHeader id) := by
  unfold State.moveHeader
  split
  · exact .rfl
  refine .ite (s.settleAt_keeps _) (.ite .rfl ?_)
  split
  · exact .rfl
  next s1 hhead =>
  have hs1 : s.Keeps s1 := (useHead_moves hhead).1.keeps
  split
  · exact .rfl
  next s2 hturn =>
  have hs2 : s.Keeps s2 := by
    split at hturn
    · exact hs1.trans (contend_moves hturn).1.keeps
    · cases hturn
      exact hs1
  exact .after (State.settleAt_keeps _ _) (.after (State.decideTrim_keeps _ _) (.after (State.updPacket_keeps _ _ _) (hs2.trans (s2.keepHeader_keeps _))))

theorem State.sendNew_keeps (s : State) : s.Keeps s.sendNew := by
  unfold State.sendNew
  dsimp only
  refine .ite .rfl ?_
  cases h : State.inject _ _ _ _ with
  | none => exact .rfl
  | some s1 => exact (s.startSend_keeps _ _ _ _).trans (State.inject_keeps _ _ _ _ h)

theorem State.sendWaiting_keeps (s : State) (k : Nat) : s.Keeps (s.sendWaiting k) := by
  unfold State.sendWaiting
  split
  · exact .rfl
  extract_lets h s1 s2
  have hs2 : s.Keeps s2 := .ite (.after (State.startSend_keeps _ _ _ _ _) (.inert rfl)) (.inert rfl)
  refine .ite .rfl ?_
  cases hs : s2.inject h _ _ with
  | none => exact .rfl
  | some s3 => exact hs2.trans (s2.inject_keeps _ _ _ hs)

theorem State.closeHole_keeps (s : State) (h : Dword) : s.Keeps (s.closeHole h) := .ite .rfl (.after (State.handOn_keeps _ _ _) (.inert rfl))

-- ---------------------------------------------------------------- slices, engines and moves

theorem State.sliceBind_keeps (s : State) (tm : Team) (r : SliceRead) (q : SliceReq) : s.Keeps (s.sliceBind tm r q) := by
  unfold State.sliceBind
  refine .ite (.ite .rfl (s.weightArrive_keeps _ _ _)) ?_
  extract_lets plain acc held
  have hread : s.Keeps (if ! held || decide (r.cp = 3) then
      (s.sliceTouch q.pa (s.wayGroup tm.id.ctx) r.cp).journalRead ⟨tm.id.ctx, tm.id.grid⟩ q.pa else (s, true)).1 :=
    .iteFst (.after (State.journalRead_keeps _ _ _) (s.sliceTouch_mild _ _ _).keeps) .rfl
  generalize (if ! held || decide (r.cp = 3) then
      (s.sliceTouch q.pa (s.wayGroup tm.id.ctx) r.cp).journalRead ⟨tm.id.ctx, tm.id.grid⟩ q.pa else (s, true)) = x at hread ⊢
  obtain ⟨s1, ok⟩ := x
  refine .ite hread ?_
  extract_lets s2
  have hs2 : s.Keeps s2 := .ite hread (hread.trans (s1.l1Fill_mild _ _ _ _).keeps)
  split
  · exact hs2.trans (s2.sliceDeliver_keeps _ _ _ _ _)
  · exact hs2

theorem State.startMatrix_keeps (s : State) (tm : Team) (e : EngineEntry) (htm : tm ∈ s.teams) : s.Keeps (s.startMatrix tm e) := by
  unfold State.startMatrix
  dsimp only
  refine .ite .rfl ?_
  split
  · refine ⟨fun h => State.Keeps.wf (State.Keeps.team fun x _ => ?_) (State.Keeps.wf (.inert rfl) h)⟩
    obtain ⟨-, -, hteams, -⟩ := h
    exact ((Team.popClaims_scratch _ _ _).trans (Team.matrixWork_scratch _ _ _ _ _ _)).symm ▸ hteams tm htm
  · exact .rfl

theorem State.moveTeam_keeps (s : State) (up : Bool) (tm : Team) : s.Keeps (s.moveTeam up tm) :=
  .after (State.moveSegs_keeps _ _ _ _ _) (s.moveBlocks_keeps _ _ _ _)

theorem State.turnSlices_keeps (s : State) (core : Nat) : s.Keeps (s.turnSlices core) := by
  refine .foldl fun s tm => .foldl fun s p => ?_
  split
  · split
    · exact s.weightArrive_keeps _ _ _
    · exact .rfl
  · exact .rfl

end Machine
end Sys2Proof
end
section
/-! PROOFS. O51: saves and ends of contexts, launch queues, keys and images, and the placement of teams. -/

namespace Sys2Proof
namespace Machine

-- ---------------------------------------------------------------- saves and ends

theorem State.parkReads_keeps (s : State) (t : Team) : s.Keeps (s.parkReads t) := by
  unfold State.parkReads
  split
  · exact .rfl
  refine .foldl fun s r => ?_
  split
  · exact .rfl
  · exact .foldl fun s q => (s.updReq_keeps _ _ _).trans (.inert rfl)

theorem State.saveRidge_keeps (s : State) (ctx : Nat) : s.Keeps (s.saveRidge ctx) := by
  refine .after (State.killRidge_keeps _ _) (.foldl fun s die => .foldl fun s j => .ite .rfl ?_)
  have hdrop := s.dropJobCounts_keeps die j
  dsimp only
  split
  · exact hdrop.trans (State.writeVa_mild _ _ _ _ _ _ _).keeps
  · exact hdrop

theorem State.readyToSave_keeps (s : State) (ctx : Nat) : s.Keeps (s.readyToSave ctx) :=
  .after (.foldl fun s _ => s.admitOne_keeps _) (.after (.foldl fun s _ => s.parkReads_keeps _) (s.drainOut_keeps _))

theorem State.dropSaved_keeps (s : State) (ctx : Nat) : s.Keeps (s.dropSaved ctx) := by
  unfold State.dropSaved
  extract_lets gone idle sizes subs shelve
  refine .inherited rfl (fun t ht => ⟨t, List.mem_of_mem_filter ht, rfl⟩) fun g hg v hv => ?_
  obtain ⟨y, hy, rfl⟩ := List.mem_map.1 hg
  by_cases hgone : gone y.id = true
  · rw [show shelve y = _ from if_pos hgone] at hv
    cases hv
  · rw [show shelve y = _ from if_neg hgone] at hv
    exact ⟨y, hy, hv⟩

theorem State.saveOut_keeps (s : State) (ctx at_ st : Nat) (img : List Byte) : s.Keeps (s.saveOut ctx at_ st img) := by
  unfold State.saveOut
  extract_lets s2 loose s3 pre killed s4' s4
  have hs2 : s.Keeps s2 := .after (State.homeStore_mild _ _ _ _).keeps (s.saveRidge_keeps _)
  have hs3 : s.Keeps s3 := .after (State.postPre_keeps _ _) (hs2.trans (.inert rfl))
  have hs4' : s3.Keeps s4' := .after (State.dropPayloads_keeps _ killed) (s3.dropSaved_keeps _)
  have hs4 : s.Keeps s4 := (hs3.trans hs4').trans (.inert rfl)
  exact .after (State.releaseImages_keeps _) (.after (State.updCtx_keeps _ _ _) (.after (State.leaveSave_keeps _ _ _ _) (hs4.trans (s4.sweep_keeps _ _ _))))

theorem State.scrubRange_keeps (s : State) (r : Nat × Nat) : s.Keeps (s.scrubRange r) := .home rfl (wf_memClear _ _)

theorem State.endTdi_keeps (s : State) (vf st : Nat) : s.Keeps (s.endTdi vf st) :=
  .after (State.setTdi_keeps _ _) (.after (State.drainAll_keeps _) (.after (State.releaseImages_keeps _) (.after (State.checkHomeWaiters_mild _ _ _).keeps
    (.after (.foldl fun s _ => s.scrubRange_keeps _) (.foldl fun s _ => s.endBound_keeps _)))))

theorem State.endGrids_keeps (s : State) (ctx : Nat) : s.Keeps (s.endGrids ctx) := by
  refine .foldl fun s g => ?_
  split
  · exact .ite (s.endGrid_keeps _) .rfl
  · exact .rfl

-- ---------------------------------------------------------------- launch queues, keys and images

theorem State.writeEntry_keeps (s : State) (die ctx va e st : Nat) : s.Keeps (s.writeEntry die ctx va e st) := (s.writeVa_mild _ _ _ _ _ _).keeps

theorem State.scan_keeps (s : State) (q fuel : Nat) : s.Keeps (s.scan q fuel) := by
  induction fuel generalizing s with
  | zero => exact .rfl
  | succ fuel ih =>
    rw [State.scan]
    have hstep (s : State) (die ctx va e st : Nat) (f : LaunchQ → LaunchQ) : s.Keeps ((s.writeEntry die ctx va e st).updLq q f) :=
      .after (State.updLq_keeps _ _ _) (s.writeEntry_keeps _ _ _ _ _)
    dsimp only
    split
    · exact (s.postRecord_mild _ _).keeps
    refine .ite (s.postRecord_mild _ _).keeps (.ite .rfl (.ite (s.updLq_keeps _ _) ?_))
    split
    · exact (s.postRecord_mild _ _).keeps
    refine .ite (s.postRecord_mild _ _).keeps (.ite (.after (ih _) (.after (State.updLq_keeps _ _ _) (hstep _ _ _ _ _ _ _))) ?_)
    split
    · exact .after (ih _) (.after (State.postRecord_mild _ _ _).keeps (hstep _ _ _ _ _ _ _))
    · exact .after (ih _) (.after (hstep _ _ _ _ _ _ _) (.after (State.acceptGrid_keeps _ _ _ _ _ _ _ _) (.inert rfl)))

theorem State.installKey_keeps (s : State) (slot : Nat) : s.Keeps (s.installKey slot).1 := by
  unfold State.installKey
  refine .iteFst .rfl ?_
  split
  · exact .rfl
  · exact .iteFst (.inert rfl) .rfl

theorem State.verifyPost_keeps (s : State) : s.Keeps s.verifyPost.1 := by
  unfold State.verifyPost
  dsimp only
  split
  · exact .rfl
  · exact .iteFst .rfl (.iteFst .rfl (.iteFst .rfl (.after (State.postImage_keeps _ _ _) s.releaseImages_keeps)))

-- ---------------------------------------------------------------- the placement of teams

/-- A change of one grid that saves no team more. -/
theorem State.Keeps.gridFewer {s : State} {g : GridId} {f : Grid → Grid} (hf : ∀ x, (f x).waiting ⊆ x.waiting) : s.Keeps (s.updGrid g f) := by
  refine .inherited rfl (fun t ht => ⟨t, ht, rfl⟩) fun y hy v hv => ?_
  obtain ⟨x, hx, rfl⟩ := List.mem_map.1 hy
  refine ⟨x, hx, ?_⟩
  split at hv
  · exact hf x hv
  · exact hv

theorem State.placeOrdinary_keeps (s : State) (g : Grid) (core : Nat) (grants : List (Nat × Nat × Nat) × List (Nat × Nat × Nat)) :
    s.Keeps (s.placeOrdinary g core grants) := .after (.grid fun _ => rfl) (s.addTeam_keeps _ _ _ wf_nil)

theorem State.placeBatch_keeps (s : State) (g : Grid) (b : ReBatch) (core : Nat) (grants : List (Nat × Nat × Nat) × List (Nat × Nat × Nat)) :
    s.Keeps (s.placeBatch g b core grants) := by
  unfold State.placeBatch
  extract_lets id now t ths s1
  have hs1 : s.Keeps s1 := s.addTeam_keeps _ _ _ wf_nil
  exact hs1.trans (.inert rfl)

theorem State.placeSaved_keeps (s : State) (g : Grid) (v : SavedTeam) (core : Nat) (grants : List (Nat × Nat × Nat) × List (Nat × Nat × Nat))
    (hv : Memory.wf v.team.scratch = true) : s.Keeps (s.placeSaved g v core grants) := by
  unfold State.placeSaved
  extract_lets now seat team t cores fixSlot fixThread threadOf fixOp fixCopy fixJob s1 fixReplay newOps newCopies newJobs newReplays s2 s3 s4
  have hs1 : s.Keeps s1 := s.addTeam_keeps _ _ _ hv
  have hs2 : s1.Keeps s2 := .inert rfl
  have hs3 : s2.Keeps s3 := .foldl fun s _ => s.repost_keeps _ _ _
  have hs4 : s3.Keeps s4 := by
    refine .foldl fun s th => ?_
    split
    · exact s.renewReply_keeps _
    · exact .rfl
  exact (((hs1.trans hs2).trans hs3).trans hs4).trans (.gridFewer fun _ => List.filter_subset_self _)

/-- A team to be placed has a scratchpad in form, when it is a saved one. -/
def NextTeam.wf : NextTeam → Prop
  | .saved v => Memory.wf v.team.scratch = true
  | _ => True

theorem State.tryTeam_keeps {s s1 : State} {g : Grid} {n : NextTeam} (h : s.tryTeam g n = some s1) (hn : n.wf) : s.Keeps s1 := by
  unfold State.tryTeam at h
  dsimp only at h
  split at h
  next v =>
    obtain ⟨x, -, rfl⟩ := Option.map_eq_some_iff.1 h
    exact s.placeSaved_keeps _ _ _ _ hn
  next b =>
    split at h
    · obtain ⟨x, -, rfl⟩ := Option.map_eq_some_iff.1 h
      exact s.placeBatch_keeps _ _ _ _
    split at h
    · cases h
    obtain ⟨x, -, rfl⟩ := Option.map_eq_some_iff.1 h
    exact .after (State.placeBatch_keeps _ _ _ _ _) (s.settleAnchor_keeps _ _)
  next =>
    obtain ⟨x, -, rfl⟩ := Option.map_eq_some_iff.1 h
    exact s.placeOrdinary_keeps _ _ _

theorem State.placePass_keeps (s : State) (l : List (Grid × NextTeam)) (hl : ∀ p ∈ l, p.2.wf) : s.Keeps (s.placePass l) := by
  induction l generalizing s with
  | nil => exact .rfl
  | cons p rest ih =>
    have hp := hl p List.mem_cons_self
    replace ih (s : State) := ih s fun q hq => hl q (List.mem_cons_of_mem _ hq)
    rw [State.placePass]
    split
    · exact ih _
    split
    next htry => exact (State.tryTeam_keeps htry hp).trans (.after (ih _) (State.drainSpills_keeps _ _))
    · exact .after (ih _) (State.blockTeam_keeps _ _ _)

/-- The teams a grid has to place are in form when the saved ones are. -/
theorem State.nextTeams_wf (s : State) (g : Grid) (hg : ∀ v ∈ g.waiting, Memory.wf v.team.scratch = true) : ∀ n ∈ s.nextTeams g, n.wf := by
  intro n hn
  unfold State.nextTeams at hn
  split at hn
  · obtain ⟨v, hv, rfl⟩ := List.mem_map.1 hn
    exact hg v hv
  split at hn
  · cases hn
  split at hn
  · split at hn
    · cases List.mem_singleton.1 hn
      trivial
    · cases hn
  · split at hn
    · cases List.mem_singleton.1 hn
      trivial
    · cases hn

end Machine
end Sys2Proof
end
section
/-! PROOFS. O51: outcomes that do not stop, and leave the memories in form. -/

namespace Sys2Proof
namespace Machine

/-- An outcome that answers a next state and keeps the memories in their canonical form. -/
def State.Goes (s : State) (o : Host.Outcome State Fault Refusal) : Prop := ∃ t, o = .next t ∧ s.Keeps t

namespace State.Goes

variable {s : State} {o o' : Host.Outcome State Fault Refusal}

theorem next {t : State} (h : s.Keeps t) : s.Goes (.next t) := ⟨t, rfl, h⟩

theorem stay : s.Goes (.next s) := .next .rfl

theorem ite {p : Prop} [Decidable p] (h : s.Goes o) (k : s.Goes o') : s.Goes (if p then o else o') := by
  split
  · exact h
  · exact k

/-- A change before what goes. -/
theorem after {s' : State} (k : s'.Goes o) (h : s.Keeps s') : s.Goes o := by
  obtain ⟨t, rfl, ht⟩ := k
  exact .next (h.trans ht)

end State.Goes

end Machine
end Sys2Proof
end
section
/-! PROOFS. O51: the events, each of which goes. -/

namespace Sys2Proof
namespace Machine

theorem execBundleReform_goes (s : State) : s.Goes (execBundleReform s) :=
  .next (.ite (s.reformPart_keeps _ _) .rfl)

theorem execThreadPromotion_goes (s : State) : s.Goes (execThreadPromotion s) :=
  .next (.inert rfl)

theorem execResultWrite_goes (s : State) : s.Goes (execResultWrite s) := by
  unfold execResultWrite
  dsimp only
  split
  · exact .stay
  split
  · exact .next (.ite (s.finishResult_keeps _) .rfl)
  · exact .next (.ite (s.finishResult_keeps _) .rfl)
  · exact .next (s.performFence_keeps _ _)
  · exact .next (s.performRelease_keeps _)
  · exact .ite (.next (s.actAccess_mild _ _).keeps) (.ite (.next (.ite (s.writeBackResult_keeps _) .rfl)) .stay)
  · exact .stay
  · exact .stay
  · exact .stay
  · exact .stay

theorem execMatrixRetire_goes (s : State) : s.Goes (execMatrixRetire s) := by
  unfold execMatrixRetire
  dsimp only
  split
  · exact .stay
  split
  · exact .stay
  · exact .ite (.next (.after (.team fun _ h => h) (.foldl (fun s _ => (s.retireOf_mild _ _).keeps)))) .stay

theorem execStorePerformed_goes (s : State) : s.Goes (execStorePerformed s) := by
  unfold execStorePerformed
  dsimp only
  split
  · exact .stay
  split
  · exact .ite .stay (.ite (.next (s.leavePath_keeps _ _)) (.ite (.next (s.reachL1_mild _ _ _).keeps) .stay))
  · exact .stay

theorem execHostAccess_goes (s : State) : s.Goes (execHostAccess s) :=
  .ite .stay (.ite (.next (s.touchSpan_mild _ _ _).keeps) (.next (s.homeWriteBy_mild _ _ _ _).keeps))

theorem execTableWalk_goes (s : State) : s.Goes (execTableWalk s) := by
  unfold execTableWalk
  dsimp only
  split
  · exact .next (s.walkOp_keeps _)
  split
  · exact .next (s.walkSlice_keeps _ _ _)
  · exact .stay

theorem execCopySectorRequest_goes (s : State) : s.Goes (execCopySectorRequest s) := by
  unfold execCopySectorRequest
  dsimp only
  split
  · exact .stay
  refine .ite ?_ ?_
  · exact .next (s.startCopy_mild _).keeps
  refine .ite ?_ ?_
  · exact .stay
  split
  · exact .next (s.makeRequest_keeps _ _)
  split
  · exact .next (s.postCopyFaults_keeps _)
  refine .ite ?_ ?_
  · exact .stay
  split
  · exact .next (.after (State.makeRequest_keeps _ _ _) (.inert rfl))
  · exact .next (.inert rfl)

theorem execQueueSlotArrival_goes (s : State) : s.Goes (execQueueSlotArrival s) := by
  unfold execQueueSlotArrival
  dsimp only
  split
  · exact .next (s.pushArrives_keeps _)
  split
  · exact .stay
  split
  · exact .next (.ite (s.sliceBind_keeps _ _ _) .rfl)
  · exact .stay

theorem execIslandContextBoundary_goes (s : State) : s.Goes (execIslandContextBoundary s) := by
  unfold execIslandContextBoundary
  dsimp only
  refine .ite ?_ ?_
  · exact .stay
  split
  · exact .stay
  · exact .next (s.setIsland_keeps _)

theorem execIslandAccept_goes (s : State) : s.Goes (execIslandAccept s) := by
  unfold execIslandAccept
  dsimp only
  split
  · exact .stay
  refine .ite ?_ ?_
  · exact .next (s.resubmit_keeps _)
  split
  · exact .stay
  · exact .next (s.runJob_keeps _)
  · exact .stay
  · exact .ite .stay (.next (s.runJob_keeps _))

theorem execIslandResult_goes (s : State) : s.Goes (execIslandResult s) := by
  unfold execIslandResult
  dsimp only
  split
  · exact .stay
  split
  · refine .ite ?_ ?_
    · split
      · exact .next (.after (State.parkJob_keeps _ _ _ _ _ _) (.after (State.updJob_keeps _ _ _) (s.commitAll_keeps _ _ _ _ _)))
      · exact .next (.after (State.updJob_keeps _ _ _) (s.commitAll_keeps _ _ _ _ _))
    refine .ite ?_ ?_
    · exact .stay
    refine .ite ?_ ?_
    · exact .next (s.finishTrace_keeps _ _)
    refine .ite ?_ ?_
    · exact .stay
    refine .ite ?_ ?_
    · exact .next (.after (State.offerSlots_keeps _ _ _) (s.dropOver_keeps _ _))
    · exact .next (.after (State.completeJob_keeps _ _) (.after (State.dropOver_keeps _ _ _) (s.fillSlots_keeps _ _ _ _)))
  · exact .stay

theorem execRidgelineEngineWake_goes (s : State) : s.Goes (execRidgelineEngineWake s) :=
  .next (s.updRidge_keeps _ _)

theorem execRidgelineJobAccept_goes (s : State) : s.Goes (execRidgelineJobAccept s) := by
  unfold execRidgelineJobAccept
  dsimp only
  split
  · exact .ite (.next (s.computeJob_keeps _ _ _)) (.ite .stay (.next (s.ridgeWrites_keeps _ _ _)))
  split
  · exact .next (s.resumeJob_keeps _ _)
  · exact .ite (.next (s.takeJob_keeps _ _ _)) .stay

theorem execRidgelineJobEnd_goes (s : State) : s.Goes (execRidgelineJobEnd s) := by
  unfold execRidgelineJobEnd
  dsimp only
  split
  · exact .stay
  refine .ite ?_ ?_
  · exact .stay
  · exact .ite (.ite .stay (.next (s.beginEnd_keeps _ _))) (.ite (.next (s.updRidge_keeps _ _)) (.next (s.ridgeWrites_keeps _ _ _)))

theorem execLaunchQueueWake_goes (s : State) : s.Goes (execLaunchQueueWake s) :=
  .next (.ite .rfl (s.wakeLq_keeps _))

theorem execLaunchQueueScan_goes (s : State) : s.Goes (execLaunchQueueScan s) :=
  .ite (.next (.after (State.scan_keeps _ _ _) (.inert rfl))) .stay

theorem execLaunchReleaseComplete_goes (s : State) : s.Goes (execLaunchReleaseComplete s) := by
  unfold execLaunchReleaseComplete
  dsimp only
  split
  · exact .stay
  refine .ite ?_ ?_
  · exact .stay
  split
  · exact .next (s.makeEligible_keeps _)
  · exact .ite (.next (.after (State.makeEligible_keeps _ _) (.after (.grid fun _ => rfl) (s.flushL1_mild _).keeps))) .stay

theorem execLaunchDependenceTest_goes (s : State) : s.Goes (execLaunchDependenceTest s) := by
  unfold execLaunchDependenceTest
  split
  · exact .stay
  · exact .next (s.testDep_keeps _)

theorem execReorderBatchForm_goes (s : State) : s.Goes (execReorderBatchForm s) :=
  .ite (.next (s.formBatch_keeps _ _ _ _)) .stay

theorem execServiceReply_goes (s : State) : s.Goes (execServiceReply s) := by
  unfold execServiceReply
  dsimp only
  split
  · exact .stay
  split
  · exact .stay
  · exact .ite .stay (.next (.trans (.foldl (fun s _ => s.replyTo_keeps _ _ _)) (.inert rfl)))

theorem execGridComplete_goes (s : State) : s.Goes (execGridComplete s) := by
  unfold execGridComplete
  dsimp only
  split
  · exact .next (.after (State.retryDone_keeps _) s.reapTeams_keeps)
  · exact .next (.ite (.after (State.endGrid_keeps _ _) (.after (State.retryDone_keeps _) s.reapTeams_keeps)) (.after (State.retryDone_keeps _)
      s.reapTeams_keeps))

theorem execHandlerEntryOpen_goes (s : State) : s.Goes (execHandlerEntryOpen s) := by
  unfold execHandlerEntryOpen
  dsimp only
  split
  · exact .stay
  · exact .ite .stay (.next (.after (State.postRecord_mild _ _ _).keeps (.team fun _ h => h)))

theorem execHeldRecordPost_goes (s : State) : s.Goes (execHeldRecordPost s) :=
  .next (.after (State.admitAll_keeps _) (s.postHeld_keeps _))

theorem execTeamFreeze_goes (s : State) : s.Goes (execTeamFreeze s) := by
  unfold execTeamFreeze
  dsimp only
  split
  · exact .stay
  · exact .next (.ite (s.freeze_keeps _ _) .rfl)

theorem execPreemptDeadline_goes (s : State) : s.Goes (execPreemptDeadline s) := by
  unfold execPreemptDeadline
  dsimp only
  split
  · exact .stay
  · exact .next (.ite (s.freeze_keeps _ _) .rfl)

theorem execContextSaveComplete_goes (s : State) : s.Goes (execContextSaveComplete s) := by
  unfold execContextSaveComplete
  dsimp only
  split
  · exact .stay
  refine .ite ?_ ?_
  · exact .stay
  refine .ite ?_ ?_
  · exact .next (.after (State.leaveSave_keeps _ _ _ _) (.after (State.endGrids_keeps _ _) s.reapTeams_keeps))
  refine .ite ?_ ?_
  · exact .next (.after (State.startSaving_keeps _ _) (.after (State.endGrids_keeps _ _) s.reapTeams_keeps))
  refine .ite ?_ ?_
  · exact .next (.after (State.leaveSave_keeps _ _ _ _) (.after (State.drainOut_keeps _ _) (.after (State.endGrids_keeps _ _) s.reapTeams_keeps)))
  · exact .next (.after (State.saveOut_keeps _ _ _ _ _) (.after (State.readyToSave_keeps _ _) (.after (State.endGrids_keeps _ _) s.reapTeams_keeps)))

theorem execContextCreate_goes (s : State) : s.Goes (execContextCreate s) := by
  unfold execContextCreate
  dsimp only
  refine .ite ?_ ?_
  · exact .stay
  refine .ite ?_ ?_
  · exact .next (s.updPage_keeps _ _)
  · exact .next (.after (State.becomeResident_keeps _ _) (.after (State.updCtx_keeps _ _ _) (s.updPage_keeps _ _)))

theorem execContextDestroy_goes (s : State) : s.Goes (execContextDestroy s) := by
  unfold execContextDestroy
  dsimp only
  split
  · exact .stay
  refine .ite ?_ ?_
  · exact .stay
  · exact .next (.after (State.releaseImages_keeps _) (.after (State.updCtx_keeps _ _ _) (.after (State.sweep_keeps _ _ _ _) (.after
      (State.writeBack_mild _ _).keeps (.after (State.drainAll_keeps _) (s.killContext_keeps _))))))

theorem execContextDestroyDone_goes (s : State) : s.Goes (execContextDestroyDone s) := by
  unfold execContextDestroyDone
  dsimp only
  split
  · exact .stay
  · exact .ite (.next (.inert rfl)) .stay

theorem execInvalidatePage_goes (s : State) : s.Goes (execInvalidatePage s) :=
  .next (s.startInvalidation_keeps _ _ _ _)

theorem execInvalidateRange_goes (s : State) : s.Goes (execInvalidateRange s) :=
  .next (s.startInvalidation_keeps _ _ _ _)

theorem execInvalidateContext_goes (s : State) : s.Goes (execInvalidateContext s) :=
  .next (s.startInvalidation_keeps _ _ _ _)

theorem execInvalidationComplete_goes (s : State) : s.Goes (execInvalidationComplete s) := by
  unfold execInvalidationComplete
  dsimp only
  split
  · exact .stay
  · exact .ite .stay (.next (.after (State.updCtx_keeps _ _ _) (.ite s.sweepL1_keeps .rfl)))

theorem execScunp_goes (s : State) : s.Goes (execScunp s) :=
  .ite .stay (.next (.inert rfl))

theorem execScunpDone_goes (s : State) : s.Goes (execScunpDone s) :=
  .ite .stay (.next (.inert rfl))

theorem execImagePost_goes (s : State) : s.Goes (execImagePost s) :=
  .ite .stay (.next (.inert rfl))

theorem execImagePostDone_goes (s : State) : s.Goes (execImagePostDone s) :=
  .ite .stay (.next (s.verifyPost_keeps.trans (.inert rfl)))

theorem execKeyInstall_goes (s : State) : s.Goes (execKeyInstall s) :=
  .ite .stay (.next ((s.installKey_keeps _).trans (.inert rfl)))

theorem execTrimCounterClear_goes (s : State) : s.Goes (execTrimCounterClear s) :=
  .next (.inert rfl)

theorem execFqcWrite_goes (s : State) : s.Goes (execFqcWrite s) :=
  .ite .stay (.next (.after (State.admitAll_keeps _) (.after (State.postAllHeld_keeps _ _ _) (s.updPage_keeps _ _))))

theorem execRegisterWrite_goes (s : State) : s.Goes (execRegisterWrite s) :=
  .ite (.next (.after (State.writeReg_keeps _ _ _ _) (s.writeReg_keeps _ _ _))) (.ite (.next (s.writeReg_keeps _ _ _)) .stay)

theorem execPacketHeaderArrival_goes (s : State) : s.Goes (execPacketHeaderArrival s) := by
  unfold execPacketHeaderArrival
  split
  · exact .next s.sendNew_keeps
  · exact .next (s.moveHeader_keeps _)
  · exact .next (s.sendWaiting_keeps _)
  · exact .next (s.moveFlit_keeps _ _)

theorem execReRequestWindow_goes (s : State) : s.Goes (execReRequestWindow s) := by
  unfold execReRequestWindow
  split
  · exact .stay
  · exact .ite .stay (.next (.after (State.reply_keeps _ _) (.inert rfl)))

theorem execReRequest_goes (s : State) : s.Goes (execReRequest s) := by
  unfold execReRequest
  split
  · exact .stay
  split
  · exact .next (.inert rfl)
  · exact .next (.after (State.reply_keeps _ _) (.inert rfl))

theorem execDelivered_goes (s : State) : s.Goes (execDelivered s) := by
  unfold execDelivered
  dsimp only
  split
  · exact .stay
  · exact .ite (.next (.after (.foldl (fun s _ => s.closeHole_keeps _)) (.inert rfl))) (.next (.inert rfl))

theorem execChainReservation_goes (s : State) : s.Goes (execChainReservation s) := by
  unfold execChainReservation
  dsimp only
  split
  · exact .stay
  refine .ite ?_ ?_
  · exact .stay
  refine .ite ?_ ?_
  · exact .ite .stay (.next (.ite (.inert rfl) (.inert rfl)))
  refine .ite ?_ ?_
  · exact .stay
  refine .ite ?_ ?_
  · exact .next (.ite (s.takeBuffer_keeps _) .rfl)
  split
  · exact .stay
  · exact .next (.ite (.after (State.takeBuffer_keeps _ _) (.inert rfl)) (.inert rfl))

theorem execChainGrant_goes (s : State) : s.Goes (execChainGrant s) := by
  unfold execChainGrant
  split
  · exact .stay
  split
  · exact .stay
  split
  · exact .stay
  · exact .next (.inert rfl)

theorem execChainData_goes (s : State) : s.Goes (execChainData s) := by
  unfold execChainData
  dsimp only
  split
  · exact .stay
  split
  · exact .stay
  split
  · exact .next (s.sendChain_keeps _ _)
  refine .ite ?_ ?_
  · exact .stay
  · exact .next (.ite (.after (State.offer_keeps _ _) (.after (.foldl (fun s _ => s.chainChunk_keeps _ _ _)) (.inert rfl))) (.after (.foldl (fun s _
      => s.chainChunk_keeps _ _ _)) (.inert rfl)))

theorem execChainDone_goes (s : State) : s.Goes (execChainDone s) := by
  unfold execChainDone
  split
  · exact .stay
  split
  · exact .stay
  · exact .next (.after (State.nextPiece_keeps _ _) (.inert rfl))

theorem execLinkCrcFailure_goes (s : State) : s.Goes (execLinkCrcFailure s) := by
  unfold execLinkCrcFailure
  dsimp only
  split
  · exact .stay
  refine .ite ?_ ?_
  · exact .next (.ite (.inert rfl) .rfl)
  split
  · exact .stay
  refine .ite ?_ ?_
  · exact .stay
  refine .ite ?_ ?_
  · exact .next (.after (State.settleAt_keeps _ _) (.after (State.updPacket_keeps _ _ _) (s.countTrim_keeps _ _ _ _)))
  · exact .next (.inert rfl)

theorem execWeightBankTurn_goes (s : State) : s.Goes (execWeightBankTurn s) := by
  unfold execWeightBankTurn
  dsimp only
  exact .next (.trans (.after (State.turnSlices_keeps _ _) (.foldl (fun s _ => s.turnLoad_keeps _ _))) (.inert rfl))

theorem execClockLevelStep_goes (s : State) : s.Goes (execClockLevelStep s) :=
  .ite .stay (.ite (.next (.ite (.inert rfl) .rfl)) (.next (.ite .rfl (.inert rfl))))

theorem execThermalTrip_goes (s : State) : s.Goes (execThermalTrip s) := by
  unfold execThermalTrip
  dsimp only
  exact .next (.trans (.foldl (fun s _ => s.killContext_keeps _)) (.inert rfl))

theorem execDie0BringUp_goes (s : State) : s.Goes (execDie0BringUp s) :=
  .next (.ite (.inert rfl) .rfl)

theorem execDie1BringUp_goes (s : State) : s.Goes (execDie1BringUp s) :=
  .next (.ite (.inert rfl) .rfl)

theorem execStandardImagePost_goes (s : State) : s.Goes (execStandardImagePost s) := by
  unfold execStandardImagePost
  dsimp only
  refine .ite ?_ ?_
  · exact .stay
  refine .ite ?_ ?_
  · exact .next (.trans (.after (.foldl (fun s _ => s.postImage_keeps _ _)) s.releaseImages_keeps) (.inert rfl))
  · exact .next (.inert rfl)

theorem execLockInterfaceRequest_goes (s : State) : s.Goes (execLockInterfaceRequest s) :=
  .ite (.next (s.setTdi_keeps _)) .stay

theorem execStopInterfaceRequest_goes (s : State) : s.Goes (execStopInterfaceRequest s) :=
  .next (.ite (s.endTdi_keeps _ _) (.ite (s.setTdi_keeps _) .rfl))

theorem execEndSession_goes (s : State) : s.Goes (execEndSession s) :=
  .next (.ite (s.endTdi_keeps _ _) .rfl)

theorem execHeartbeatLapse_goes (s : State) : s.Goes (execHeartbeatLapse s) :=
  .next (.ite (s.endTdi_keeps _ _) .rfl)

theorem execGetMeasurements_goes (s : State) : s.Goes (execGetMeasurements s) := by
  unfold execGetMeasurements
  split
  · exact .next (.inert rfl)
  · exact .stay

theorem execSetCertificate_goes (s : State) : s.Goes (execSetCertificate s) :=
  .ite (.next (.inert rfl)) .stay

theorem execAccumulatorInstructionFinish_goes (s : State) : s.Goes (execAccumulatorInstructionFinish s) := by
  unfold execAccumulatorInstructionFinish
  dsimp only
  split
  · exact .stay
  split
  · exact .stay
  refine .ite ?_ ?_
  · exact .stay
  refine .ite ?_ ?_
  · exact .stay
  · exact .next (.after (.team fun _ h => h) (.after (.foldl (fun s _ => (s.retireOf_mild _ _).keeps)) (.ite (.after (State.clearImageMarks_keeps _ _
      _) (s.storeImage_keeps _ _)) .rfl)))

theorem execTdiEntersError_goes (s : State) : s.Goes (execTdiEntersError s) :=
  .next (.ite (s.endTdi_keeps _ _) .rfl)

theorem execStartInterfaceRequest_goes (s : State) : s.Goes (execStartInterfaceRequest s) :=
  .next (.ite (s.setTdi_keeps _) .rfl)

end Machine
end Sys2Proof
end
section
/-! PROOFS. O51: the events that write teams, grids or memories, or whose reads answer more than a state. -/

namespace Sys2Proof
namespace Machine

theorem execRasterHandoffRecord_goes (s : State) : s.Goes (execRasterHandoffRecord s) := by
  unfold execRasterHandoffRecord
  dsimp only
  split
  · exact .stay
  refine .ite .stay ?_
  split
  · exact .stay
  next j _ _ h _ _ =>
  have htake : s.Keeps (s.takeHandoff (s.arg 0) j.ctx (s.island 0 (4 * s.arg 0 + h.isl)) h) := s.takeHandoff_keeps _ _ _ _
  exact .ite (.next (s.commitRecord_keeps _ _ _)) (.ite (.next (s.drawRecord_keeps _ _ _ _)) (.ite (.next (s.waitIsland_keeps _ _))
    (.next (.after (State.drawRecord_keeps _ _ _ _ _) (htake.trans (.inert rfl))))))

theorem execRefreshSlot_goes (s : State) : s.Goes (execRefreshSlot s) := .ite .stay (.next (.inert rfl))

theorem execMatrixStart_goes (s : State) : s.Goes (execMatrixStart s) := by
  unfold execMatrixStart
  dsimp only
  split
  · exact .stay
  next htm =>
  split
  · exact .stay
  · exact .next (s.startMatrix_keeps _ _ (List.mem_of_find?_eq_some htm))

theorem State.journalEach_keeps (s : State) (pa : Nat) (gs : List GridId) {s1 : State} (h : s.journalEach pa gs = .ok s1) : s.Keeps s1 := by
  induction gs generalizing s with
  | nil =>
    cases h
    exact .rfl
  | cons g gs ih =>
    rw [State.journalEach] at h
    split at h
    next heq => exact ((s.journalRead_keeps _ _).fst heq).trans (ih _ h)
    · cases h

theorem State.journalReads_keeps (s : State) (gs : List GridId) (pa : Nat) : s.Keeps (s.journalReads gs pa).1 := by
  unfold State.journalReads
  split
  next h => exact s.journalEach_keeps _ _ h
  · exact (s.setStall_mild _ _).keeps

theorem execL1Fill_goes (s : State) : s.Goes (execL1Fill s) := by
  unfold execL1Fill
  extract_lets cluster sector victim s1
  have hs1 : s.Keeps s1 := s.takeMisses_keeps _
  refine .ite (.next hs1) (.after ?_ hs1)
  dsimp only
  split
  · exact .next (s1.freeMiss_keeps _ _)
  · have hread (gs : List GridId) (pa : Nat) : s1.Keeps (s1.journalReads gs pa).1 := s1.journalReads_keeps _ _
    exact .next (.ite (.after (State.freeMiss_keeps _ _ _) (.after (State.l1Fill_mild _ _ _ _ _).keeps (.after (State.touchFor_mild _ _ _ _).keeps
      (hread _ _)))) (hread _ _))
  · have hbind (l : List (Op × Access)) : s1.Keeps (l.foldl (fun s p => s.bindNol1 p.1 p.2) s1) := .foldl fun s p => s.bindNol1_keeps p.1 p.2
    exact .next (.ite (hbind _) (.after (State.freeMiss_keeps _ _ _) (hbind _)))

theorem execUncorrectableError_goes (s : State) : s.Goes (execUncorrectableError s) := by
  unfold execUncorrectableError
  dsimp only
  split
  · exact .next (.inert rfl)
  · exact .next (s.mapL1_keeps _ _)
  · refine .next (.team fun x hx => ?_)
    split <;> exact hx
  · exact .next (.ite (.inert rfl) .rfl)

theorem execCopyDelivery_goes (s : State) : s.Goes (execCopyDelivery s) := by
  unfold execCopyDelivery
  dsimp only
  split
  · exact .stay
  split
  · exact .stay
  split
  · split
    next heq => exact .next ((s.copyRead_keeps _ _).fst heq)
    next heq => exact .next (((s.copyRead_keeps _ _).fst heq).trans (State.updCopy_keeps _ _ _))
  · refine .ite .stay (.ite (.next (.ite (s.deliverWord_keeps _ _) .rfl)) (.ite .stay ?_))
    exact .next (.ite (.after (State.deliverReq_keeps _ _ _) (s.sumRead_keeps _ _)) (s.sumRead_keeps _ _))
  · exact .stay

theorem execCompactorMove_goes (s : State) : s.Goes (execCompactorMove s) := by
  unfold execCompactorMove
  extract_lets team pause up
  split
  · exact .stay
  refine .ite .stay ?_
  extract_lets now s1 age
  have hs1 : s.Keeps s1 := .team fun _ h => h
  exact .next (.after (State.moveTeam_keeps _ _ _) (hs1.trans (.inert rfl)))

theorem execPreemptRequest_goes (s : State) : s.Goes (execPreemptRequest s) := by
  unfold execPreemptRequest
  dsimp only
  split
  · exact .stay
  refine .ite (.next (.after (State.startSaving_keeps _ _) (.after (State.updCtx_keeps _ _ _) (.mapTeams rfl rfl fun x => ?_)))) .stay
  split <;> rfl

theorem execGoResumeFrozen_goes (s : State) : s.Goes (execGoResumeFrozen s) := by
  unfold execGoResumeFrozen
  dsimp only
  split
  · exact .stay
  refine .ite .stay (.next (.after (.foldl fun s x => (s.wakeThread_mild _).keeps) (.after (State.updCtx_keeps _ _ _) (.mapTeams rfl rfl fun x => ?_))))
  split <;> rfl

/-- Reset leaves what is listed of home memory above its first 64 GiB, in order (R9). -/
theorem execPowerOnReset_goes (s : State) : s.Goes (execPowerOnReset s) := by
  refine .next ⟨fun ⟨hhome, _⟩ => ⟨wfFrom_filter _ hhome, wf_nil, nofun, nofun⟩⟩

theorem execTeamPlace_goes (s : State) : s.Goes (execTeamPlace s) := by
  unfold execTeamPlace
  extract_lets s0 tries s1
  have hs0 : s.Keeps s0 := s.reapTeams_keeps
  have hs1 : s0.Keeps s1 := by
    refine ⟨fun h => ?_⟩
    have htries : ∀ p ∈ tries, p.2.wf := by
      intro p hp
      obtain ⟨-, -, -, hgrids⟩ := h
      obtain ⟨g, hg, hp⟩ := List.mem_flatMap.1 hp
      obtain ⟨n, hn, rfl⟩ := List.mem_map.1 hp
      exact s0.nextTeams_wf g (hgrids g (List.mem_of_mem_filter (mem_of_mem_sortBy hg))) n hn
    exact (State.Keeps.after (State.placePass_keeps { s0 with compacting := [] } tries htries) (.inert rfl)).wf h
  exact .next (.after (State.settleRestores_keeps _) (.after (State.drainAll_keeps _) (hs0.trans hs1)))

end Machine
end Sys2Proof
end
section
/-! PROOFS. O51: a restore brings back scratchpads in form (R381): what an image's teams list of theirs is in order, and none of it reads as unlisted. -/

namespace Sys2Proof
namespace Machine

-- ---------------------------------------------------------------- the cells of an image's team

/-- Cells at places that ascend, none of them unlisted, are in form. -/
theorem wfFrom_listed (f : Nat → Byte) : ∀ n lo, Memory.wfFrom lo ((List.range' lo n).filterMap fun i => if f i = unlisted then none else some (i, f i)) = true
  | 0, _ => rfl
  | n + 1, lo => by
    have ih := wfFrom_listed f n (lo + 1)
    rw [List.range'_succ, List.filterMap_cons]
    by_cases h : f lo = unlisted
    · rw [if_pos h]
      exact wfFrom_mono (Nat.le_succ lo) ih
    · rw [if_neg h]
      simp only [Memory.wfFrom, ih, Nat.le_refl, decide_true, Bool.true_and, Bool.and_true]
      simpa using h

-- ---------------------------------------------------------------- parsing

/-- A parser that answers only what satisfies P. -/
def Parse.Gives {α : Type} (m : Parse α) (P : α → Prop) : Prop := ∀ n a n', m n = .ok (a, n') → P a

namespace Parse.Gives

variable {α β : Type} {P : β → Prop}

theorem pure {b : β} (h : P b) : Parse.Gives (Pure.pure b) P := by
  rintro n a n' e
  cases e
  exact h

theorem bindOf {Q : α → Prop} {m : Parse α} {f : α → Parse β} (hm : Parse.Gives m Q) (hf : ∀ a, Q a → Parse.Gives (f a) P) :
    Parse.Gives (m >>= f) P := by
  intro n b n' e
  change (m n).bind (fun x => f x.1 x.2) = .ok (b, n') at e
  cases hr : m n with
  | error e' => rw [hr] at e; cases e
  | ok x =>
    rw [hr] at e
    exact hf x.1 (hm n x.1 x.2 hr) x.2 b n' e

theorem bind {m : Parse α} {f : α → Parse β} (hf : ∀ a, Parse.Gives (f a) P) : Parse.Gives (m >>= f) P :=
  bindOf (Q := fun _ => True) (fun _ _ _ _ => trivial) fun a _ => hf a

theorem times {m : Parse β} (hm : Parse.Gives m P) (n : Nat) : Parse.Gives (timesP m n) fun l => ∀ b ∈ l, P b := by
  induction n with
  | zero => exact .pure nofun
  | succ n ih => exact .bindOf hm fun a ha => .bindOf ih fun l hl => .pure (List.forall_mem_cons.2 ⟨ha, hl⟩)

end Parse.Gives

theorem Src8.threads_gives {α : Type} {P : α → Prop} (x : Src8) (area : Nat) (bud : Nat → Nat → Bool) {rest : List RawThread → Parse α}
    (hrest : ∀ l, Parse.Gives (rest l) P) (n : Nat) (acc : List RawThread) : Parse.Gives (x.threads area bud rest n acc) P := by
  induction n generalizing acc with
  | zero => exact hrest _
  | succ n ih =>
    rw [Src8.threads]
    refine .bind fun t => .bind fun _ => .bind fun o => ?_
    have hwithout : Parse.Gives (need (decide (t.ssp = spilled t.csd)) t.control >>= fun _ => x.threads area bud rest n (t :: acc)) P :=
      .bind fun _ => ih _
    dsimp only
    split
    · intro off a n' e
      dsimp only at e
      split at e
      next hr =>
        cases e
        exact Parse.Gives.bind (m := x.trace t) (fun t1 => ih (t1 :: acc)) off a n' hr
      · exact hwithout off a n' e
    · exact hwithout

/-- The teams of an image have scratchpads in form. -/
theorem Src8.team_gives (x : Src8) (r : LaunchRec) : Parse.Gives (x.team r) fun t => Memory.wf t.scratch = true := by
  unfold Src8.team
  refine .bind fun o => .bind fun team => .bind fun w => .bind fun nthr => .bind fun nconv => .bind fun nrep => .bind fun nrec => .bind fun size => ?_
  extract_lets relaunch scr span bud
  refine .bind fun _ => .bind fun d0 => .bind fun _ => .bind fun _ => .bind fun pres => .bind fun pend => .bind fun tag => .bind fun poi => ?_
  extract_lets cells lines rest
  have hcells : Memory.wf cells = true := by
    have hlisted := wfFrom_listed (fun i => cellGet x.home (x.base + d0 + i)) (scr * 4096) 0
    rw [← List.range_eq_range'] at hlisted
    exact hlisted
  refine x.threads_gives _ _ (fun ths => ?_) _ _
  refine .bind fun convs => .bind fun elems => .bind fun pends => .bind fun qs => ?_
  extract_lets finish
  have hfinish (slice : Option Slice) : Parse.Gives (finish slice) fun t => Memory.wf t.scratch = true :=
    .bind fun reps => .bind fun recs => .bind fun fin => .bind fun _ => .pure hcells
  split
  · exact .bind hfinish
  · exact .bind hfinish

/-- A grid of an image whose teams have scratchpads in form. -/
def RawGrid.wf (g : RawGrid) : Prop := ∀ t ∈ g.teams, Memory.wf t.scratch = true

theorem Src8.grid_gives (x : Src8) (ctx : Nat) (taken : List Nat) (last : Option Nat) : Parse.Gives (x.grid ctx taken last) RawGrid.wf := by
  unfold Src8.grid
  refine .bind fun o => .bind fun raw => .bind fun grid => .bind fun next => .bind fun nt => .bind fun k => .bind fun nd => .bind fun z => ?_
  extract_lets r
  refine .bind fun _ => .bindOf ((x.team_gives r).times nt) fun teams hteams => ?_
  extract_lets ids inOrder
  exact .bind fun _ => .bind fun deps => .pure hteams

theorem Src8.grids_gives (x : Src8) (ctx : Nat) (taken : List Nat) (n : Nat) (last : Option Nat) :
    Parse.Gives (x.grids ctx taken n last) fun l => ∀ g ∈ l, g.wf := by
  induction n generalizing last with
  | zero => exact .pure nofun
  | succ n ih => exact .bindOf (x.grid_gives _ _ _) fun g hg => .bindOf (ih _) fun l hl => .pure (List.forall_mem_cons.2 ⟨hg, hl⟩)

theorem Src8.image_gives (x : Src8) (ctx : Nat) (taken : List Nat) : Parse.Gives (x.image ctx taken) fun img => ∀ g ∈ img.grids, g.wf := by
  unfold Src8.image
  refine .bind fun ver => .bind fun num => .bind fun size => .bind fun ng => .bind fun _ => .bind fun _ => .bind fun _ => ?_
  exact .bindOf (x.grids_gives _ _ _ _) fun grids hgrids => .bind fun recs => .bind fun o => .bind fun _ => .bind fun reps => .pure hgrids

-- ---------------------------------------------------------------- the teams that a restore builds

/-- What a numbering answers, from every number. -/
def Numbers {α : Type} (m : StateM Nat α) (P : α → Prop) : Prop := ∀ n, P (m n).1

namespace Numbers

variable {α β : Type} {P : β → Prop}

theorem pure {b : β} (h : P b) : Numbers (Pure.pure b) P := fun _ => h

theorem bind {m : StateM Nat α} {f : α → StateM Nat β} (hf : ∀ a, Numbers (f a) P) : Numbers (m >>= f) P := fun n => hf (m n).1 (m n).2

theorem each {f : α → StateM Nat β} (l : List α) (hf : ∀ a ∈ l, Numbers (f a) P) : Numbers (eachM f l) fun bs => ∀ b ∈ bs, P b := by
  induction l with
  | nil => exact .pure nofun
  | cons a l ih =>
    intro n
    obtain ⟨ha, hl⟩ := List.forall_mem_cons.1 hf
    exact List.forall_mem_cons.2 ⟨ha n, ih hl (f a n).2⟩

end Numbers

/-- A team restored has the scratchpad of its image. -/
theorem Build.team_scratch (x : Build) (t : RawTeam) : Numbers (x.team t) fun v => v.team.scratch = t.scratch := by
  unfold Build.team
  refine .bind fun accs => ?_
  extract_lets accs' copies seqs keys cps perSeq
  refine .bind fun groups => ?_
  extract_lets groupOf
  refine .bind fun parts => ?_
  extract_lets parts'
  refine .bind fun reads => .bind fun traces => ?_
  extract_lets owners
  refine .bind fun subs => ?_
  extract_lets jobs
  refine .bind fun refs => .bind fun convs => .bind fun pends => .pure ?_
  exact Team.foldl_scratch _ _ fun tm e => tm.claim_scratch _

-- ---------------------------------------------------------------- the state that a restore leaves

theorem State.addRestored_keeps (s : State) (ctx : Nat) (img : RawImage) (g : RawGrid) (hg : g.wf) : s.Keeps (s.addRestored ctx img g) := by
  unfold State.addRestored
  extract_lets recs grid b
  have hsaved : Numbers (eachM b.team g.teams) fun vs => ∀ v ∈ vs, Memory.wf v.team.scratch = true :=
    .each _ fun t ht n => by rw [b.team_scratch t n]; exact hg t ht
  refine .grids rfl fun hgrids y hy v hv => ?_
  rcases List.mem_append.1 hy with hy | hy
  · exact hgrids y (List.mem_of_mem_filter hy) v hv
  · rw [List.mem_singleton.1 hy] at hv
    exact hsaved _ v hv

theorem State.addLoose_keeps (s : State) (ctx : Nat) (img : RawImage) (p : RawReplay) : s.Keeps (s.addLoose ctx img p) := by
  unfold State.addLoose
  split
  · exact .rfl
  refine .ite (.inert rfl) ?_
  split
  · exact .rfl
  dsimp only
  split
  · exact .inert rfl
  · exact .inert rfl

theorem revived_waiting {ctx : Nat} {g y : Grid} (h : revived ctx y = some g) : g.waiting = y.waiting := by
  unfold revived at h
  split at h
  · cases h
    rfl
  split at h
  · cases h
    rfl
  · cases h

/-- A fold whose steps keep the memories for what is in the list. -/
theorem State.Keeps.foldlOf {α : Type} {f : State → α → State} {l : List α} {s : State} (hf : ∀ (s : State), ∀ x ∈ l, s.Keeps (f s x)) :
    s.Keeps (l.foldl f s) := by
  induction l generalizing s with
  | nil => exact .rfl
  | cons x xs ih => exact (hf s x List.mem_cons_self).trans (ih fun s y hy => hf s y (List.mem_cons_of_mem _ hy))

theorem State.restoreFrom_keeps (s : State) (ctx : Nat) (img : RawImage) (himg : ∀ g ∈ img.grids, g.wf) : s.Keeps (s.restoreFrom ctx img) := by
  unfold State.restoreFrom
  extract_lets s1 s2 ofTeam s3 s4 wake s5
  have hs1 : s.Keeps s1 := .after (State.becomeResident_keeps _ _) (s.updCtx_keeps _ _)
  have hs2 : s1.Keeps s2 := .foldlOf fun s g hg => s.addRestored_keeps _ _ _ (himg g hg)
  have hs3 : s2.Keeps s3 := .foldl fun s p => s.addLoose_keeps _ _ _
  have hs4 : s3.Keeps s4 := .foldl fun s r => s.repost_keeps _ _ _
  have hs5 : s4.Keeps s5 := by
    refine .inherited rfl (fun t ht => ⟨t, ht, rfl⟩) fun g hg v hv => ?_
    obtain ⟨y, hy, hrevived⟩ := List.mem_filterMap.1 hg
    exact ⟨y, hy, revived_waiting hrevived ▸ hv⟩
  exact .after (State.settleRestores_keeps _) (.after (State.drainAll_keeps _) ((((hs1.trans hs2).trans hs3).trans hs4).trans hs5))

theorem execRestoreGo_goes (s : State) : s.Goes (execRestoreGo s) := by
  unfold execRestoreGo
  dsimp only
  split
  · exact .stay
  refine .ite .stay (.ite (.next (s.restoreFails_keeps _ _)) ?_)
  split
  · exact .next (s.restoreFails_keeps _ _)
  next himg =>
  split
  · exact .next (s.restoreFails_keeps _ _)
  · exact .next (s.restoreFrom_keeps _ _ (Src8.image_gives _ _ _ _ _ _ himg))

end Machine
end Sys2Proof
end
section
/-! PROOFS. O51: the words. A word issues, waits, parks or raises a record; whichever it is, its step goes when who acts is there. -/

namespace Sys2Proof
namespace Machine

/-- Who acts is there: the thread, or the team of the slice. -/
def State.ActorThere (s : State) : Prop :=
  match s.cur with
  | .thread id => (s.thread? id).isSome = true
  | .slice id => ∃ tm sl, s.team? id = some tm ∧ tm.slice = some sl
  | .none => False

/-- Who acts is a placed thread or the slice of a placed team. -/
theorem State.actorThere_cases {s : State} (h : s.ActorThere) :
    (∃ id t, s.cur = .thread id ∧ s.thread? id = some t) ∨ ∃ id tm sl, s.cur = .slice id ∧ s.team? id = some tm ∧ tm.slice = some sl := by
  unfold State.ActorThere at h
  cases hcur : s.cur with
  | thread id =>
    rw [hcur] at h
    obtain ⟨t, ht⟩ := Option.isSome_iff_exists.1 h
    exact .inl ⟨id, t, rfl, ht⟩
  | slice id =>
    rw [hcur] at h
    obtain ⟨tm, sl, htm, hsl⟩ := h
    exact .inr ⟨id, tm, sl, rfl, htm, hsl⟩
  | none =>
    rw [hcur] at h
    exact h.elim

/-- What the body of a word answers keeps the memories of the state it issues from. -/
def Res.Keeps (s : State) : Res → Prop
  | .ok s1 | .holdWith _ s1 => s.Keeps s1
  | .trap _ _ _ | .hold _ => True

namespace Res.Keeps

variable {s s1 : State}

theorem ok (h : s.Keeps s1) : Res.Keeps s (.ok s1) := h

theorem holdWith {st : TState} (h : s.Keeps s1) : Res.Keeps s (.holdWith st s1) := h

theorem trap {cls detail addr : Nat} : Res.Keeps s (.trap cls detail addr) := trivial

theorem hold {st : TState} : Res.Keeps s (.hold st) := trivial

theorem ite {p : Prop} [Decidable p] {r r' : Res} (h : Res.Keeps s r) (k : Res.Keeps s r') : Res.Keeps s (if p then r else r') := by
  split
  · exact h
  · exact k

end Res.Keeps

/-- What the body of a slice word answers keeps the memories of the state it is executed from. -/
def SliceRes.Keeps (s : State) : SliceRes → Prop
  | .go _ s1 => s.Keeps s1
  | .wait | .stop _ _ => True

namespace SliceRes.Keeps

variable {s s1 : State}

theorem go {sl : Slice} (h : s.Keeps s1) : SliceRes.Keeps s (.go sl s1) := h

theorem wait : SliceRes.Keeps s .wait := trivial

theorem stop {cls addr : Nat} : SliceRes.Keeps s (.stop cls addr) := trivial

theorem ite {p : Prop} [Decidable p] {r r' : SliceRes} (h : SliceRes.Keeps s r) (k : SliceRes.Keeps s r') :
    SliceRes.Keeps s (if p then r else r') := by
  split
  · exact h
  · exact k

end SliceRes.Keeps

-- ---------------------------------------------------------------- the issue of a word

theorem State.committed_keeps (s : State) (t : Thread) (i : Issue) : s.Keeps (s.committed t i) := .after (.team fun _ h => h) (s.updThread_keeps _ _)

theorem issueThread_keeps (s : State) (t : Thread) (i : Issue) {body : Args → State → Res}
    (hbody : ∀ x s1, s.Keeps s1 → Res.Keeps s (body x s1)) : s.Keeps (issueThread s t i body) := by
  have hres := hbody (s.argsOf t i) (s.committed t i) (s.committed_keeps t i)
  rcases issueThread_cases s t i body with ⟨cls, detail, addr, opnd, htrap, -⟩ | ⟨st, hwait⟩ | ⟨s2, hbody, hok⟩ | ⟨st, s2, hbody, hhold⟩
  · rw [htrap]
    exact (s.raiseTrap_mild _ _ _ _ _ _).keeps
  · rw [hwait]
    exact s.setWaiting_keeps _ _
  · rw [hbody] at hres
    rw [hok]
    exact hres
  · rw [hbody] at hres
    rw [hhold]
    exact State.Keeps.trans hres (s2.setWaiting_keeps _ _)

section
variable {s : State} (h : s.ActorThere)
include h

/-- A word whose body keeps the memories goes. -/
theorem issue_goes {i : Thread → Issue} {body : Args → State → Res} (hbody : ∀ x s1, s.Keeps s1 → Res.Keeps s (body x s1)) :
    s.Goes (issue s i body) := by
  unfold issue
  obtain ⟨id, t, hcur, ht⟩ | ⟨id, tm, sl, hcur, htm, hsl⟩ := s.actorThere_cases h
  · rw [hcur]
    dsimp only
    rw [ht]
    exact .next (issueThread_keeps _ _ _ hbody)
  · rw [hcur]
    exact .next (s.stopSlice_keeps _ _ _ _)

/-- A slice word whose body keeps the memories goes. -/
theorem sliceWord_goes {hs : Hints} {body : Team → Slice → SliceRes} (hbody : ∀ tm sl, SliceRes.Keeps s (body tm sl)) :
    s.Goes (sliceWord hs s body) := by
  unfold sliceWord
  obtain ⟨id, t, hcur, ht⟩ | ⟨id, tm, sl, hcur, htm, hsl⟩ := s.actorThere_cases h
  · rw [hcur]
    dsimp only
    rw [ht]
    exact .next (s.raiseTrap_mild _ _ _ _ _ _).keeps
  · rw [hcur]
    dsimp only
    rw [htm]
    dsimp only
    rw [hsl]
    refine .ite .stay (.ite (.next (s.stopSlice_keeps _ _ _ _)) ?_)
    have hres := hbody tm sl
    cases hbody : body tm sl with
    | wait => exact .stay
    | stop cls addr => exact .next (s.stopSlice_keeps _ _ _ _)
    | go sl1 s1 =>
      rw [hbody] at hres
      exact .next (State.Keeps.trans hres (State.setSlice_keeps _ _ _))

theorem hintWord_goes (kind pay : Nat) : s.Goes (hintWord kind pay s) := by
  unfold hintWord
  obtain ⟨id, t, hcur, ht⟩ | ⟨id, tm, sl, hcur, htm, hsl⟩ := s.actorThere_cases h
  · rw [hcur]
    dsimp only
    rw [ht]
    exact .ite (.next (s.raiseTrap_mild _ _ _ _ _ _).keeps) (.next (.after (.team fun _ h => h) (s.updThread_keeps _ _)))
  · rw [hcur]
    dsimp only
    rw [htm]
    dsimp only
    rw [hsl]
    exact .ite (.next (s.stopSlice_keeps _ _ _ _)) (.next (.team fun _ h => h))

end

end Machine
end Sys2Proof
end
section
/-! PROOFS. O51: what the bodies of shared words answer: deposits and declarations, tiles and cairns. -/

namespace Sys2Proof
namespace Machine

section
variable {s s1 : State} (hs : s.Keeps s1)
include hs

theorem depositIn_keeps {s0 : State} {x : Args} {n : Nat} {k : CollKind} {a b : Nat} {dests : List Nat} :
    Res.Keeps s (depositIn s0 s1 x n k a b dests) := by
  unfold depositIn
  dsimp only
  split
  · exact .trap
  split
  · exact .ite .trap (.ok (hs.trans (s1.setCr_keeps _ _ _)))
  · exact .ite .trap (.ok (hs.trans (s1.setCr_keeps _ _ _)))
  · exact .trap

theorem declare_keeps {x : Args} {n : Nat} {ranks : List Nat} {bad : Bool} {fresh : ConvReg → ConvReg} :
    Res.Keeps s (declare s1 x n ranks bad fresh) := by
  unfold declare
  dsimp only
  split
  · exact .trap
  refine .ite .trap (.ite (.ok (hs.trans (s1.setCr_keeps _ _ _))) (.ite .trap ?_))
  split
  · exact .trap
  · exact .ok (hs.trans (s1.setCr_keeps _ _ _))
  · exact .ok hs

end

section
variable {s : State} (h : s.ActorThere)
include h

theorem accWord_goes {i : Thread → Issue} {tiles : List Nat} {slot writes : Option Nat} {addr : Bool} {body : Args → Team → Nat → State → Res}
    (hbody : ∀ x tm site s1, s.Keeps s1 → Res.Keeps s (body x tm site s1)) : s.Goes (accWord i tiles slot writes addr body s) := by
  refine issue_goes h fun x s1 hs => ?_
  dsimp only
  split
  · exact .trap
  · exact .ite .trap (.ite .trap (.ite .trap (.ite .hold (.ite .hold (hbody _ _ _ _ hs)))))

theorem cairnWord_goes {i : Thread → Issue} {named : Option Nat} {misuse : Team → Nat → Nat → Bool} {body : Args → Team → Nat → Nat → State → Res}
    (hbody : ∀ x tm off v s1, s.Keeps s1 → Res.Keeps s (body x tm off v s1)) : s.Goes (cairnWord i named misuse body s) := by
  refine issue_goes h fun x s1 hs => ?_
  dsimp only
  split
  · exact .trap
  split
  · exact .trap
  · exact hbody _ _ _ _ _ (.after (.team fun _ h => h) hs)

end

end Machine
end Sys2Proof
end
section
/-! PROOFS. O51: the words, those of one shape together. -/

namespace Sys2Proof
namespace Machine

section
variable {s : State} (h : s.ActorThere)
include h

theorem atomWord_goes (kind : AccKind) (d n outs a : Nat) (l p w : Bool) (sv : Nat) : s.Goes (atomWord kind d n outs a l p w sv s) := by
  unfold atomWord
  dsimp only
  refine issue_goes h fun _ _ hs => ?_
  split
  · exact .trap
  · exact .ite .trap (.ite .hold (.ok (.after (State.startAccess_keeps _ _ _ _ _ _) hs)))

theorem binaryWord_goes (lat : Nat) (d a : Src) (l : Bool) (b : Src) (m sat : Bool) (f : Bool → Nat → Nat → Nat) :
    s.Goes (binaryWord lat d a l b m sat f s) :=
  issue_goes h fun _ _ hs => .ok (.after (State.result_keeps _ _ _ _ _) hs)

theorem carryWord_goes (sub : Bool) (d a : Nat) (l : Bool) (b : Nat) (m : Bool) (p : Nat) : s.Goes (carryWord sub d a l b m p s) :=
  issue_goes h fun _ _ hs => .ok (.after (State.result_keeps _ _ _ _ _) hs)

theorem collWord_goes (k : CollKind) (rm : Nat) (d a : Src) (l : Bool) (n : Nat) : s.Goes (collWord k rm d a l n s) :=
  issue_goes h fun _ _ hs => depositIn_keeps hs

theorem copyWord_goes (kind d a : Nat) (l : Bool) (sc dc : Nat) : s.Goes (copyWord kind d a l sc dc s) := by
  unfold copyWord
  dsimp only
  refine issue_goes h fun _ _ hs => ?_
  split
  · exact .trap
  · exact .ite (.ok (.after (State.emptyCopy_keeps _ _) hs)) (.ite .hold (.ok (.after (State.beginCopy_keeps _ _) hs)))

theorem eretWord_goes (d a : Nat) (l : Bool) : s.Goes (eretWord d a l s) :=
  issue_goes h fun _ _ hs => .ok (.after (State.addOp_keeps _ _) (.after (State.flushL1_mild _ _).keeps hs))

theorem floatBinary_goes (f : Fmt) (lat d a : Nat) (l : Bool) (b : Src) (m : Bool) (g : Nat → Nat → Nat → Nat × Nat) :
    s.Goes (floatBinary f lat d a l b m g s) :=
  issue_goes h fun _ _ hs => .ok (.after (State.floatResult_keeps _ _ _ _ _ _ _ _) hs)

theorem floatFma_goes (f : Fmt) (lat d a : Nat) (l : Bool) (b : Nat) (m : Bool) (c : Nat) : s.Goes (floatFma f lat d a l b m c s) :=
  issue_goes h fun _ _ hs => .ok (.after (State.floatResult_keeps _ _ _ _ _ _ _ _) hs)

theorem floatUnary_goes (f : Fmt) (lat : Nat) (d : Src) (a : Nat) (l : Bool) (g : Nat → Nat → Nat × Nat) : s.Goes (floatUnary f lat d a l g s) :=
  issue_goes h fun _ _ hs => .ok (.after (State.floatResult_keeps _ _ _ _ _ _ _ _) hs)

theorem immWord_goes (lat : Nat) (d a : Src) (l : Bool) (i : Nat) (sat : Bool) (f : Bool → Nat → Nat → Nat) : s.Goes (immWord lat d a l i sat f s) :=
  issue_goes h fun _ _ hs => .ok (.after (State.result_keeps _ _ _ _ _) hs)

theorem lineWord_goes (kind : AccKind) (a : Nat) (l : Bool) : s.Goes (lineWord kind a l s) :=
  issue_goes h fun _ _ hs => .ok (.after (State.startAccess_keeps _ _ _ _ _ _) hs)

theorem loadQueue_goes (weight : Bool) (d a sv r : Nat) : s.Goes (loadQueue weight d a sv r s) := by
  unfold loadQueue
  dsimp only
  refine sliceWord_goes h fun _ _ => ?_
  refine .ite ?_ ?_
  · exact .stop
  refine .ite ?_ ?_
  · exact .stop
  split
  · exact .stop
  · exact .ite .wait (.go (.after (.team fun _ h => h) (.inert rfl)))

theorem loadWord_goes (space : Space) (sx : Bool) (size d a : Nat) (l : Bool) (g : Nat) (gs : Bool) (off : List Word → ℤ) :
    s.Goes (loadWord space sx size d a l g gs off s) := by
  unfold loadWord
  dsimp only
  refine issue_goes h fun _ _ hs => ?_
  refine .ite ?_ ?_
  · exact .ok hs
  split
  · exact .trap
  · exact .ite .hold (.ite .hold (.ok (.after (State.startAccess_keeps _ _ _ _ _ _) hs)))

theorem matrixWord_goes (kind sa sb : Nat) (l : Bool) (slot cn tile : Nat) : s.Goes (matrixWord kind sa sb l slot cn tile s) := by
  unfold matrixWord
  dsimp only
  refine issue_goes h fun _ _ hs => ?_
  split
  · exact .trap
  refine .ite ?_ ?_
  · exact .hold
  refine .ite ?_ ?_
  · exact .trap
  refine .ite ?_ ?_
  · exact .trap
  refine .ite ?_ ?_
  · exact .trap
  refine .ite ?_ ?_
  · exact .trap
  · exact .ite .trap (.ok (.after (State.updThread_keeps _ _ _) (.after (State.setCr_keeps _ _ _ _) (hs.trans (.inert rfl)))))

theorem pinWord_goes (kind : AccKind) (d a : Nat) (l : Bool) : s.Goes (pinWord kind d a l s) :=
  issue_goes h fun _ _ hs => .ok (.after (State.startAccess_keeps _ _ _ _ _ _) hs)

theorem popWord_goes (pop : Bool) (d a : Nat) (l : Bool) (q z : Nat) : s.Goes (popWord pop d a l q z s) := by
  unfold popWord
  dsimp only
  refine issue_goes h fun _ _ hs => ?_
  refine .ite ?_ ?_
  · exact .trap
  split
  · exact .hold
  split
  · exact .hold
  refine .ite ?_ ?_
  · exact .hold
  refine .ite ?_ ?_
  · exact .trap
  · exact .ok (.ite (.ite (.after (.team fun _ h => h) hs) hs) (.after (State.result_keeps _ _ _ _ _) (.ite (.after (.team fun _ h => h) hs) hs)))

theorem predWord_goes (p c a b : Nat) (f : Bool → Bool → Bool) : s.Goes (predWord p c a b f s) :=
  issue_goes h fun _ _ hs => .ok (.after (State.result_keeps _ _ _ _ _) hs)

theorem shuffleWord_goes (mode d a : Nat) (l : Bool) (b : Nat) (m : Bool) (n : Nat) : s.Goes (shuffleWord mode d a l b m n s) :=
  issue_goes h fun _ _ hs => depositIn_keeps hs

theorem storeWord_goes (space : Space) (size d a : Nat) (l : Bool) (g : Nat) (gs : Bool) (off : List Word → ℤ) :
    s.Goes (storeWord space size d a l g gs off s) := by
  unfold storeWord
  dsimp only
  refine issue_goes h fun _ _ hs => ?_
  refine .ite ?_ ?_
  · exact .ok hs
  split
  · exact .trap
  · exact .ite .trap (.ok (.after (State.startAccess_keeps _ _ _ _ _ _) hs))

theorem ternaryWord_goes (lat : Nat) (d a : Src) (l : Bool) (b : Src) (m : Bool) (c : Src) (f : Nat → Nat → Nat → Nat) :
    s.Goes (ternaryWord lat d a l b m c f s) :=
  issue_goes h fun _ _ hs => .ok (.after (State.result_keeps _ _ _ _ _) hs)

theorem unaryWord_goes (lat : Nat) (d a : Src) (l : Bool) (f : Nat → Nat) : s.Goes (unaryWord lat d a l f s) :=
  issue_goes h fun _ _ hs => .ok (.after (State.result_keeps _ _ _ _ _) hs)

theorem shiftImm_goes (op d a : Nat) (l w : Bool) (n : Nat) : s.Goes (shiftImm op d a l w n s) := by
  unfold shiftImm
  exact unaryWord_goes h _ _ _ _ _

end

end Machine
end Sys2Proof
end
section
/-! PROOFS. O51: the words with a shape of their own. -/

namespace Sys2Proof
namespace Machine

theorem State.parkBatch_keeps (s s3 : State) (x : Args) (d a : Nat) (l : Bool) (k j ctx base va : Nat) (all : List SvcCaller)
    (hs : s.Keeps s3) : s.Keeps (s.parkBatch s3 x d a l k j ctx base va all) := by
  unfold State.parkBatch
  extract_lets die s4 members
  have hs4 : s3.Keeps s4 := .after (.foldl fun u y => u.parkService_keeps _ _ _ _) (s3.updThread_keeps _ _)
  exact .after (State.wakeVa_mild _ _ _ _).keeps ((hs.trans hs4).trans (.inert rfl))

section
variable {s : State} (h : s.ActorThere)
include h

theorem execAAddr_goes (d a i : Nat) : s.Goes (execAAddr d a i s) :=
  sliceWord_goes h fun _ _ => .go .rfl

theorem execABase_goes (d a i : Nat) : s.Goes (execABase d a i s) :=
  sliceWord_goes h fun _ _ => .go .rfl

theorem execAEnd_goes : s.Goes (execAEnd s) := by
  unfold execAEnd
  dsimp only
  refine sliceWord_goes h fun _ _ => ?_
  split
  · exact .stop
  · exact .ite (.go .rfl) (.go .rfl)

theorem execAExit_goes : s.Goes (execAExit s) :=
  sliceWord_goes h fun _ _ => .go .rfl

theorem execALoop_goes (c : Nat) : s.Goes (execALoop c s) :=
  sliceWord_goes h fun _ _ => .ite .stop (.go .rfl)

theorem execASetq_goes (d l : Nat) : s.Goes (execASetq d l s) :=
  sliceWord_goes h fun _ _ => .go (.team fun _ h => h)

theorem execAWaitq_goes (d : Nat) : s.Goes (execAWaitq d s) := by
  unfold execAWaitq
  dsimp only
  refine sliceWord_goes h fun _ _ => ?_
  split
  · exact .wait
  · exact .ite .wait (.go (.team fun _ h => h))

theorem execAccmp_goes (d a : Nat) (l : Bool) (u t : Nat) : s.Goes (execAccmp d a l u t s) :=
  accWord_goes h fun _ _ _ _ hs => .ok (.after (State.result_keeps _ _ _ _ _) hs)

theorem execAcld_goes (a : Nat) (l : Bool) (t : Nat) : s.Goes (execAcld a l t s) := by
  unfold execAcld
  dsimp only
  refine accWord_goes h fun _ _ _ _ hs => ?_
  split
  · exact .hold
  · exact .ite .hold (.ok (.after (State.addEntry_keeps _ _ _ _ _ _ _ _ _ _) (.after (.team fun _ h => h) hs)))

theorem execAcmov_goes (u t : Nat) : s.Goes (execAcmov u t s) :=
  accWord_goes h fun _ _ _ _ hs => .ok (.after (State.addEntry_keeps _ _ _ _ _ _ _ _ _ _) (.after (.team fun _ h => h) hs))

theorem execAcres_goes (d a : Nat) (l : Bool) (sv t : Nat) : s.Goes (execAcres d a l sv t s) := by
  unfold execAcres
  exact accWord_goes h fun _ _ _ _ hs => .ok (.after (State.addOp_keeps _ _) hs)

theorem execAcst_goes (a : Nat) (l : Bool) (t : Nat) : s.Goes (execAcst a l t s) := by
  unfold execAcst
  dsimp only
  refine accWord_goes h fun _ _ _ _ hs => ?_
  refine .ite ?_ ?_
  · exact .trap
  · exact .ok (.after (State.addEntry_keeps _ _ _ _ _ _ _ _ _ _) (.after (State.updThread_keeps _ _ _) (hs.trans (.inert rfl))))

theorem execAczero_goes (t : Nat) : s.Goes (execAczero t s) :=
  accWord_goes h fun _ _ _ _ hs => .ok (.after (State.addEntry_keeps _ _ _ _ _ _ _ _ _ _) (.after (.team fun _ h => h) hs))

theorem execBr_goes (g : Nat) (sv : Bool) (o : Nat) : s.Goes (execBr g sv o s) :=
  issue_goes h fun _ _ hs => .ite (.ok hs) (.ok (.after (State.jump_keeps _ _ _ _) hs))

theorem execBrx_goes (a : Nat) (l : Bool) : s.Goes (execBrx a l s) :=
  issue_goes h fun _ _ hs => .ite (.ok (.after (State.jump_keeps _ _ _ _) hs)) .trap

theorem execCdeclMask_goes (d a : Nat) (l : Bool) (n : Nat) : s.Goes (execCdeclMask d a l n s) :=
  issue_goes h fun _ _ hs => declare_keeps hs

theorem execCdeclRange_goes (a : Nat) (l : Bool) (n : Nat) : s.Goes (execCdeclRange a l n s) := by
  unfold execCdeclRange
  dsimp only
  refine issue_goes h fun _ _ hs => ?_
  refine .ite ?_ ?_
  · split
    · exact .ite (.ok (.after (State.withdraw_keeps _ _ _ _) hs)) .trap
    · exact .trap
  · exact declare_keeps hs

theorem execCmp_goes (p c a : Nat) (l : Bool) (b : Nat) (m : Bool) (o t : Nat) : s.Goes (execCmp p c a l b m o t s) :=
  issue_goes h fun _ _ hs => .ite (.ok (.after (State.result_keeps _ _ _ _ _) hs)) (.ok (.after (State.floatResult_keeps _ _ _ _ _ _ _ _) hs))

theorem execCrnArrive_goes (d a : Nat) (l : Bool) : s.Goes (execCrnArrive d a l s) :=
  cairnWord_goes h fun _ _ _ _ _ hs => .ok (.after (State.cairnArrive_keeps _ _ _ _ _) hs)

theorem execCrnExpect_goes (d a : Nat) (l : Bool) : s.Goes (execCrnExpect d a l s) :=
  cairnWord_goes h fun _ _ _ _ _ hs => .ok (.after (State.releaseCairn_mild _ _ _ _ _).keeps (.after (State.putCairn_mild _ _ _ _).keeps (.ite
    (.after (State.flushL1_mild _ _).keeps hs) hs)))

theorem execCrnInit_goes (d a : Nat) (l u : Bool) (sv : Nat) : s.Goes (execCrnInit d a l u sv s) := by
  unfold execCrnInit
  extract_lets sc
  refine cairnWord_goes h fun x tm off v s1 hs => ?_
  extract_lets c
  have hput : s1.Keeps (s1.putCairn x.t.id.teamId off c) := (s1.putCairn_mild _ _ _).keeps
  exact Res.Keeps.ok (.after (.team fun _ hx => hx) (hs.trans hput))

theorem execCrnTest_goes (d a : Nat) (l : Bool) : s.Goes (execCrnTest d a l s) :=
  cairnWord_goes h fun _ _ _ _ _ hs => .ok (.after (State.result_keeps _ _ _ _ _) (.after (State.cairnAcquire_mild _ _ _).keeps hs))

theorem execCrnWait_goes (d a : Nat) (l : Bool) : s.Goes (execCrnWait d a l s) := by
  unfold execCrnWait
  dsimp only
  refine cairnWord_goes h fun _ _ _ _ _ hs => ?_
  refine .ite ?_ ?_
  · exact .ite (.ok (.after (State.cairnAcquire_mild _ _ _).keeps (.after (State.leaveCairn_keeps _ _) hs))) .hold
  refine .ite ?_ ?_
  · exact .holdWith (s.leaveCairn_keeps _)
  refine .ite ?_ ?_
  · exact .ok (.after (State.cairnAcquire_mild _ _ _).keeps hs)
  · exact .holdWith (.after (State.updThread_keeps _ _ _) (s.putCairn_mild _ _ _).keeps)

theorem execCsign_goes (n : Nat) : s.Goes (execCsign n s) := by
  unfold execCsign
  dsimp only
  refine issue_goes h fun _ _ hs => ?_
  split
  · exact .trap
  split
  · exact .ok (.after (State.settle_keeps _ _ _) (.after (State.setCr_keeps _ _ _ _) (.after (State.updThread_keeps _ _ _) hs)))
  · exact .ok (.after (State.settle_keeps _ _ _) (.after (State.setCr_keeps _ _ _ _) (.after (State.updThread_keeps _ _ _) hs)))
  · exact .trap

theorem execCvt_goes (d a : Nat) (l : Bool) (b : Nat) (m : Bool) (sl : Nat) : s.Goes (execCvt d a l b m sl s) :=
  issue_goes h fun _ _ hs => .ok (.after (State.floatResult_keeps _ _ _ _ _ _ _ _) hs)

theorem execCwait_goes (n : Nat) : s.Goes (execCwait n s) :=
  issue_goes h fun _ _ hs => .ite .hold (.ok hs)

theorem execExit_goes : s.Goes (execExit s) :=
  issue_goes h fun _ _ hs => .ok (.after (State.exitThread_keeps _ _) hs)

theorem execFence_goes (sv : Nat) : s.Goes (execFence sv s) :=
  issue_goes h fun _ _ hs => .ok (.after (State.addOp_keeps _ _) hs)

theorem execHalt_goes (d a : Nat) (l : Bool) : s.Goes (execHalt d a l s) := by
  unfold execHalt
  dsimp only
  refine issue_goes h fun _ _ hs => ?_
  split
  · exact .ok (.after (State.result_keeps _ _ _ _ _) hs)
  refine .ite ?_ ?_
  · exact .ok (.after (State.result_keeps _ _ _ _ _) hs)
  refine .ite ?_ ?_
  · exact .ok (.after (State.result_keeps _ _ _ _ _) hs)
  · exact .ok (.after (State.addOp_keeps _ _) (.after (State.haltContext_keeps _ _) hs))

theorem execIll_goes : s.Goes (execIll s) :=
  issue_goes h fun _ _ hs => .ok hs

theorem execLaunch_goes (a : Nat) (l : Bool) (p : Nat) : s.Goes (execLaunch a l p s) := by
  refine issue_goes h fun x s1 hs => ?_
  extract_lets o g b flaw die c ctl src s2
  clear_value b flaw
  refine .ite .trap (.ite .trap ?_)
  split
  · refine .ite .hold (.ite .hold ?_)
    extract_lets masked raw
    refine .ite .trap ?_
    cases flaw with
    | some k => exact .trap
    | none =>
      refine .ite ?_ (.ite ?_ ?_)
      · exact .ok (.after (State.result_keeps _ _ _ _ _) (.after (State.acceptGrid_keeps _ _ _ _ _ _ _ _) (hs.trans (.inert rfl))))
      · exact .ok (.after (State.result_keeps _ _ _ _ _) (hs.trans (s1.spill_mild _ _ _ _ _).keeps))
      · exact .ok (.after (State.addOp_keeps _ _) (hs.trans (s1.result_keeps _ _ _ _)))
  · exact .hold

theorem execMovi_goes (d i : Nat) : s.Goes (execMovi d i s) :=
  issue_goes h fun _ _ hs => .ok (.after (State.result_keeps _ _ _ _ _) hs)

theorem execMovrs_goes (a : Nat) (l : Bool) (n : Nat) : s.Goes (execMovrs a l n s) :=
  issue_goes h fun _ _ hs => .ite .trap (.ok (.after (State.updThread_keeps _ _ _) hs))

theorem execMovsr_goes (d n : Nat) : s.Goes (execMovsr d n s) :=
  issue_goes h fun _ _ hs => .ok (.after (State.result_keeps _ _ _ _ _) hs)

theorem execQpush_goes (a : Nat) (l : Bool) (q : Nat) : s.Goes (execQpush a l q s) := by
  unfold execQpush
  dsimp only
  refine issue_goes h fun _ _ hs => ?_
  refine .ite ?_ ?_
  · exact .trap
  refine .ite ?_ ?_
  · exact .trap
  split
  · exact .hold
  split
  · exact .hold
  refine .ite ?_ ?_
  · exact .hold
  · exact .ite .hold (.ok (.after (State.updThread_keeps _ _ _) (.after (State.addOp_keeps _ _) (.after (.team fun _ h => h) hs))))

theorem execRdcyc_goes (d : Nat) : s.Goes (execRdcyc d s) :=
  issue_goes h fun _ _ hs => .ok (.after (State.result_keeps _ _ _ _ _) hs)

theorem execReord_goes (d a : Nat) (l : Bool) (o n : Nat) : s.Goes (execReord d a l o n s) :=
  issue_goes h fun _ _ hs => .ok (.after (State.exitThread_keeps _ _) (hs.trans (.inert rfl)))

theorem execRet_goes : s.Goes (execRet s) := by
  unfold execRet
  dsimp only
  refine issue_goes h fun _ _ hs => ?_
  refine .ite ?_ ?_
  · exact .trap
  split
  · exact .trap
  · exact .hold
  · exact .ite (.holdWith (.after (State.startAccess_keeps _ _ _ _ _ _) (.inert rfl))) .trap
  · exact .ite .trap (.ok (.after (State.jump_keeps _ _ _ _) (.after (State.popReturn_keeps _ _) hs)))

theorem execRngadd_goes (d a : Nat) (l : Bool) (b : Nat) (m k : Bool) : s.Goes (execRngadd d a l b m k s) :=
  issue_goes h fun _ _ hs => .ok (.after (State.result_keeps _ _ _ _ _) hs)

theorem execRngx_goes (d a : Nat) (l : Bool) (b : Nat) (m : Bool) : s.Goes (execRngx d a l b m s) :=
  issue_goes h fun _ _ hs => .ok (.after (State.result_keeps _ _ _ _ _) hs)

theorem execSel_goes (d a : Nat) (l : Bool) (b : Nat) (m : Bool) (p : Nat) : s.Goes (execSel d a l b m p s) :=
  issue_goes h fun _ _ hs => .ok (.after (State.result_keeps _ _ _ _ _) hs)

theorem execSofti_goes (q : Nat) : s.Goes (execSofti q s) := by
  refine issue_goes h fun _ _ hs => ?_
  refine .ite ?_ ?_
  · exact .ok (hs.trans (.inert rfl))
  split
  · exact .ok (.after (State.wakeLq_keeps _ _) hs)
  · exact .trap

theorem execTrace_goes (d a : Nat) (l : Bool) : s.Goes (execTrace d a l s) := by
  refine issue_goes h fun x s1 hs => ?_
  extract_lets ctl np depth t1 beyond fsz isl frame id fs dests jobSrc job opSrc s2 s3
  have hs2 : s.Keeps s2 := .after (State.addOp_keeps _ _) (hs.trans (s1.takeIsland_keeps _ _))
  exact .ite .trap (.ite .trap (.ite .trap (.ite .trap (.ite (.holdWith (s.waitIsland_keeps _ _)) (.ok (hs2.trans (.inert rfl)))))))

theorem execTrap_goes (c : Nat) : s.Goes (execTrap c s) :=
  issue_goes h fun _ _ _ => .trap

theorem execWaita_goes (d a : Nat) (l p w : Bool) (sv : Nat) : s.Goes (execWaita d a l p w sv s) := by
  unfold execWaita
  dsimp only
  refine issue_goes h fun _ _ hs => ?_
  split
  · exact .trap
  · exact .ite .hold (.ok (.after (State.startAccess_keeps _ _ _ _ _ _) hs))

theorem execWaitk_goes (k n : Nat) : s.Goes (execWaitk k n s) :=
  issue_goes h fun _ _ hs => .ite .hold (.ok hs)

theorem execWakea_goes (d a : Nat) (l p : Bool) (sv : Nat) : s.Goes (execWakea d a l p sv s) := by
  unfold execWakea
  dsimp only
  refine issue_goes h fun _ _ hs => ?_
  split
  · exact .trap
  · exact .ok (.after (State.startAccess_keeps _ _ _ _ _ _) hs)

theorem execXvote_goes (d a o n : Nat) : s.Goes (execXvote d a o n s) :=
  issue_goes h fun _ _ hs => depositIn_keeps hs

theorem execYield_goes : s.Goes (execYield s) :=
  issue_goes h fun _ _ hs => .ite .trap (.ok hs)


theorem execCall_goes (g : Nat) (sv : Bool) (o : Nat) : s.Goes (execCall g sv o s) := by
  refine issue_goes h fun _ s1 hs => .ite (.ok hs) ?_
  split
  next hpush => exact .ok (.after (State.jump_keeps _ _ _ _) (hs.trans (s1.pushReturn_keeps _ _ hpush)))
  · exact .trap
  · exact .hold

theorem execCallx_goes (a : Nat) (l : Bool) : s.Goes (execCallx a l s) := by
  refine issue_goes h fun _ s1 hs => .ite .trap ?_
  split
  next hpush => exact .ok (.after (State.jump_keeps _ _ _ _) (hs.trans (s1.pushReturn_keeps _ _ hpush)))
  · exact .trap
  · exact .hold

theorem execCrnFree_goes (a : Nat) (l : Bool) : s.Goes (execCrnFree a l s) := by
  unfold execCrnFree
  refine cairnWord_goes h fun x _ off _ s1 hs => ?_
  refine .ok (hs.trans (.team fun tm htm => ?_))
  dsimp only
  exact wf_memWrite off 32 0 htm

theorem execIsub_goes (d a : Nat) (l : Bool) (c r : Nat) : s.Goes (execIsub d a l c r s) := by
  refine issue_goes h fun x s1 hs => ?_
  extract_lets ctl q nr ri isl
  refine .ite .trap (.ite .trap ?_)
  split
  · exact .hold
  extract_lets qu res s2 id jobSrc job opSrc s3 src
  have hs2 : s.Keeps s2 := .after (.team fun _ h => h) (hs.trans (s1.takeIsland_keeps _ _))
  exact .ite (.holdWith (s.waitIsland_keeps _ _)) (.ite .hold (.ok (hs2.trans (.inert rfl))))

theorem execSvc_goes (d a : Nat) (l : Bool) (n c : Nat) : s.Goes (execSvc d a l n c s) := by
  refine issue_goes h fun _ s1 hs => ?_
  dsimp only
  refine .ite .trap ?_
  split
  · split
    · refine .ite .hold (.ite .hold (.holdWith (s.parkBatch_keeps _ _ _ _ _ _ _ _ _ _ _ ?_)))
      exact .after (State.writeVa_mild _ _ _ _ _ _ _).keeps (hs.trans (s1.writeVa_mild _ _ _ _ _ _).keeps)
    · exact .hold
  · exact .hold

end

end Machine
end Sys2Proof
end
section
/-! PROOFS. O51: every instruction goes: an event from any state, a word where who acts is there. -/

namespace Sys2Proof
namespace Machine

/-- An event goes from any state. -/
theorem event_goes (s : State) {i : Instr} (hi : i.isEvent = true) : s.Goes (exec i s) := by
  unfold exec
  cases i with
  | bundleReform => exact execBundleReform_goes s
  | threadPromotion => exact execThreadPromotion_goes s
  | resultWrite => exact execResultWrite_goes s
  | matrixStart => exact execMatrixStart_goes s
  | matrixRetire => exact execMatrixRetire_goes s
  | storePerformed => exact execStorePerformed_goes s
  | l1Fill => exact execL1Fill_goes s
  | hostAccess => exact execHostAccess_goes s
  | tableWalk => exact execTableWalk_goes s
  | uncorrectableError => exact execUncorrectableError_goes s
  | copySectorRequest => exact execCopySectorRequest_goes s
  | copyDelivery => exact execCopyDelivery_goes s
  | queueSlotArrival => exact execQueueSlotArrival_goes s
  | islandContextBoundary => exact execIslandContextBoundary_goes s
  | islandAccept => exact execIslandAccept_goes s
  | islandResult => exact execIslandResult_goes s
  | rasterHandoffRecord => exact execRasterHandoffRecord_goes s
  | ridgelineEngineWake => exact execRidgelineEngineWake_goes s
  | ridgelineJobAccept => exact execRidgelineJobAccept_goes s
  | ridgelineJobEnd => exact execRidgelineJobEnd_goes s
  | launchQueueWake => exact execLaunchQueueWake_goes s
  | launchQueueScan => exact execLaunchQueueScan_goes s
  | launchReleaseComplete => exact execLaunchReleaseComplete_goes s
  | launchDependenceTest => exact execLaunchDependenceTest_goes s
  | teamPlace => exact execTeamPlace_goes s
  | compactorMove => exact execCompactorMove_goes s
  | reorderBatchForm => exact execReorderBatchForm_goes s
  | serviceReply => exact execServiceReply_goes s
  | gridComplete => exact execGridComplete_goes s
  | handlerEntryOpen => exact execHandlerEntryOpen_goes s
  | heldRecordPost => exact execHeldRecordPost_goes s
  | preemptRequest => exact execPreemptRequest_goes s
  | teamFreeze => exact execTeamFreeze_goes s
  | preemptDeadline => exact execPreemptDeadline_goes s
  | contextSaveComplete => exact execContextSaveComplete_goes s
  | restoreGo => exact execRestoreGo_goes s
  | goResumeFrozen => exact execGoResumeFrozen_goes s
  | contextCreate => exact execContextCreate_goes s
  | contextDestroy => exact execContextDestroy_goes s
  | contextDestroyDone => exact execContextDestroyDone_goes s
  | invalidatePage => exact execInvalidatePage_goes s
  | invalidateRange => exact execInvalidateRange_goes s
  | invalidateContext => exact execInvalidateContext_goes s
  | invalidationComplete => exact execInvalidationComplete_goes s
  | scunp => exact execScunp_goes s
  | scunpDone => exact execScunpDone_goes s
  | imagePost => exact execImagePost_goes s
  | imagePostDone => exact execImagePostDone_goes s
  | keyInstall => exact execKeyInstall_goes s
  | trimCounterClear => exact execTrimCounterClear_goes s
  | fqcWrite => exact execFqcWrite_goes s
  | registerWrite => exact execRegisterWrite_goes s
  | packetHeaderArrival => exact execPacketHeaderArrival_goes s
  | reRequestWindow => exact execReRequestWindow_goes s
  | reRequest => exact execReRequest_goes s
  | delivered => exact execDelivered_goes s
  | chainReservation => exact execChainReservation_goes s
  | chainGrant => exact execChainGrant_goes s
  | chainData => exact execChainData_goes s
  | chainDone => exact execChainDone_goes s
  | linkCrcFailure => exact execLinkCrcFailure_goes s
  | refreshSlot => exact execRefreshSlot_goes s
  | weightBankTurn => exact execWeightBankTurn_goes s
  | clockLevelStep => exact execClockLevelStep_goes s
  | thermalTrip => exact execThermalTrip_goes s
  | powerOnReset => exact execPowerOnReset_goes s
  | die0BringUp => exact execDie0BringUp_goes s
  | die1BringUp => exact execDie1BringUp_goes s
  | standardImagePost => exact execStandardImagePost_goes s
  | lockInterfaceRequest => exact execLockInterfaceRequest_goes s
  | stopInterfaceRequest => exact execStopInterfaceRequest_goes s
  | endSession => exact execEndSession_goes s
  | heartbeatLapse => exact execHeartbeatLapse_goes s
  | getMeasurements => exact execGetMeasurements_goes s
  | setCertificate => exact execSetCertificate_goes s
  | accumulatorInstructionFinish => exact execAccumulatorInstructionFinish_goes s
  | tdiEntersError => exact execTdiEntersError_goes s
  | startInterfaceRequest => exact execStartInterfaceRequest_goes s
  | _ => cases hi

/-- A word goes where who acts is there. -/
theorem word_goes {s : State} (h : s.ActorThere) {i : Instr} (hi : i.isEvent = false) : s.Goes (exec i s) := by
  unfold exec
  cases i with
  | addI32 | addN32 | subI32 | subN32 | mullo32 | mulhiI32 | mulhiN32 | divI32 | divN32 | remI32 | remN32 | minI32 | minN32 | maxI32 |
    maxN32 | and32 | or32 | xor32 | andn32 | shl32 | shr32 | shra32 | rot32 | permb | bfxI32 | bfxN32 | addI64 | addN64 | subI64 | subN64 |
    mullo64 | mulhiI64 | mulhiN64 | divI64 | divN64 | remI64 | remN64 | minI64 | minN64 | maxI64 | maxN64 | and64 | or64 | xor64 | andn64 |
    shl64 | shr64 | shra64 | rot64 | bfxI64 | bfxN64 | lea =>
    exact binaryWord_goes h _ _ _ _ _ _ _ _
  | abs32 | neg32 | not32 | popc32 | clz32 | ctz32 | brev32 | mov32 | abs64 | neg64 | not64 | popc64 | clz64 | ctz64 | brev64 | mov64 =>
    exact unaryWord_goes h _ _ _ _ _
  | addc | subb =>
    exact carryWord_goes h _ _ _ _ _ _ _
  | bfi | mad32 | mad64 =>
    exact ternaryWord_goes h _ _ _ _ _ _ _ _
  | addI32Imm | andImm | orImm | xorImm | addI64Imm =>
    exact immWord_goes h _ _ _ _ _ _ _
  | faddF32 | fsubF32 | fmulF32 | fminF32 | fmaxF32 | fdivF32 | fscaleF32 | faddF64 | fsubF64 | fmulF64 | fminF64 | fmaxF64 | fdivF64 |
    fscaleF64 | faddF16 | fsubF16 | fmulF16 | fminF16 | fmaxF16 | fscaleF16 | faddBf16 | fsubBf16 | fmulBf16 | fminBf16 | fmaxBf16 |
    fscaleBf16 =>
    exact floatBinary_goes h _ _ _ _ _ _ _ _
  | fsqrtF32 | frcpF32 | frsqF32 | fexp2F32 | flog2F32 | fsinF32 | fcosF32 | fabsF32 | fnegF32 | fclassF32 | frintF32 | fsqrtF64 | frcpF64 |
    frsqF64 | fexp2F64 | flog2F64 | fsinF64 | fcosF64 | fabsF64 | fnegF64 | fclassF64 | frintF64 | fabsF16 | fnegF16 | fclassF16 |
    frintF16 | fabsBf16 | fnegBf16 | fclassBf16 | frintBf16 =>
    exact floatUnary_goes h _ _ _ _ _ _
  | ffmaF32 | ffmaF64 | ffmaF16 | ffmaBf16 =>
    exact floatFma_goes h _ _ _ _ _ _ _ _
  | pand | por | pxor | pnot | pmov =>
    exact predWord_goes h _ _ _ _ _
  | xshfIdx | xshfUp | xshfDown | xshfXor =>
    exact shuffleWord_goes h _ _ _ _ _ _ _
  | xbcast | xred | xscanInc | xscanExc =>
    exact collWord_goes h _ _ _ _ _ _
  | mma | mmas | mmabXor | mmabAnd | mmac =>
    exact matrixWord_goes h _ _ _ _ _ _ _
  | ldGB32 | ldGB64 | ldSB32 | ldGeneral =>
    exact loadWord_goes h _ _ _ _ _ _ _ _ _
  | stGB32 | stGB64 | stSB32 | stGeneral =>
    exact storeWord_goes h _ _ _ _ _ _ _ _
  | atom | atomc =>
    exact atomWord_goes h _ _ _ _ _ _ _ _ _
  | cflush | cinv =>
    exact lineWord_goes h _ _ _
  | pin | unpin =>
    exact pinWord_goes h _ _ _ _
  | tcopy | tcast | tredBf16 | tredF32 =>
    exact copyWord_goes h _ _ _ _ _ _
  | aLdq | aLdwq =>
    exact loadQueue_goes h _ _ _ _ _
  | qpop | qpeek =>
    exact popWord_goes h _ _ _ _ _ _
  | eretResume | eretSkip | eretKill | eretWrite | eretRqrel | eretRqcan | eretDone =>
    exact eretWord_goes h _ _ _
  | imm | mod | live | sched =>
    exact hintWord_goes h _ _
  | shlImm | shrImm | shraImm | rotImm =>
    exact shiftImm_goes h _ _ _ _ _ _
  | ill => exact execIll_goes h
  | sel => exact execSel_goes h _ _ _ _ _ _
  | movi => exact execMovi_goes h _ _
  | cvt => exact execCvt_goes h _ _ _ _ _ _
  | cmp => exact execCmp_goes h _ _ _ _ _ _ _ _
  | br => exact execBr_goes h _ _ _
  | call => exact execCall_goes h _ _ _
  | brx => exact execBrx_goes h _ _
  | callx => exact execCallx_goes h _ _
  | ret => exact execRet_goes h
  | exit => exact execExit_goes h
  | yield => exact execYield_goes h
  | waitk => exact execWaitk_goes h _ _
  | trap => exact execTrap_goes h _
  | softi => exact execSofti_goes h _
  | cdeclRange => exact execCdeclRange_goes h _ _ _
  | cdeclMask => exact execCdeclMask_goes h _ _ _ _
  | csign => exact execCsign_goes h _
  | cwait => exact execCwait_goes h _
  | xvote => exact execXvote_goes h _ _ _ _
  | aczero => exact execAczero_goes h _
  | acld => exact execAcld_goes h _ _ _
  | acst => exact execAcst_goes h _ _ _
  | acres => exact execAcres_goes h _ _ _ _ _
  | accmp => exact execAccmp_goes h _ _ _ _ _
  | acmov => exact execAcmov_goes h _ _
  | fence => exact execFence_goes h _
  | waita => exact execWaita_goes h _ _ _ _ _ _
  | wakea => exact execWakea_goes h _ _ _ _ _
  | aLoop => exact execALoop_goes h _
  | aEnd => exact execAEnd_goes h
  | aAddr => exact execAAddr_goes h _ _ _
  | aWaitq => exact execAWaitq_goes h _
  | aSetq => exact execASetq_goes h _ _
  | aBase => exact execABase_goes h _ _ _
  | aExit => exact execAExit_goes h
  | qpush => exact execQpush_goes h _ _ _
  | isub => exact execIsub_goes h _ _ _ _ _
  | trace => exact execTrace_goes h _ _ _
  | reord => exact execReord_goes h _ _ _ _ _
  | launch => exact execLaunch_goes h _ _ _
  | svc => exact execSvc_goes h _ _ _ _ _
  | crnInit => exact execCrnInit_goes h _ _ _ _ _
  | crnFree => exact execCrnFree_goes h _ _
  | crnExpect => exact execCrnExpect_goes h _ _ _
  | crnArrive => exact execCrnArrive_goes h _ _ _
  | crnWait => exact execCrnWait_goes h _ _ _
  | crnTest => exact execCrnTest_goes h _ _ _
  | rdcyc => exact execRdcyc_goes h _
  | rngx => exact execRngx_goes h _ _ _ _ _
  | rngadd => exact execRngadd_goes h _ _ _ _ _ _
  | movsr => exact execMovsr_goes h _ _
  | movrs => exact execMovrs_goes h _ _ _
  | halt => exact execHalt_goes h _ _ _
  | _ => cases hi

theorem exec_goes {s : State} (h : s.ActorThere) (i : Instr) : s.Goes (exec i s) := by
  cases hi : i.isEvent with
  | false => exact word_goes h hi
  | true => exact event_goes s hi

end Machine
end Sys2Proof
end
section
/-! PROOFS. O51: a fetch leaves who acts there, and so the turn of a thread, of a slice and of an event goes. -/

namespace Sys2Proof
namespace Machine

/-- No thread and no team changes. -/
def State.SameActors (s s' : State) : Prop := s'.threads = s.threads ∧ s'.teams = s.teams

theorem State.sliceTouch_sameActors (s : State) (pa group cp : Nat) : s.SameActors (s.sliceTouch pa group cp) := by
  obtain ⟨l, hl⟩ := s.sliceTouch_eq pa group cp
  rw [hl]
  exact ⟨rfl, rfl⟩

theorem State.sliceTouches_sameActors (group cp : Nat) (l : List Nat) (s : State) :
    s.SameActors (l.foldl (fun s a => s.sliceTouch a group cp) s) := by
  induction l generalizing s with
  | nil => exact ⟨rfl, rfl⟩
  | cons a l ih =>
    obtain ⟨hthreads, hteams⟩ := s.sliceTouch_sameActors a group cp
    obtain ⟨kthreads, kteams⟩ := ih (s.sliceTouch a group cp)
    exact ⟨kthreads.trans hthreads, kteams.trans hteams⟩

theorem State.touchWalk_sameActors (s : State) (ctx va : Nat) : s.SameActors (s.touchWalk ctx va) := by
  unfold State.touchWalk
  split
  · exact ⟨rfl, rfl⟩
  split
  · exact ⟨rfl, rfl⟩
  · exact State.sliceTouches_sameActors _ _ _ s

theorem State.lookup_sameActors (s : State) (core ctx va : Nat) (rd wr ex : Bool) : s.SameActors (s.lookup core ctx va rd wr ex).1 := by
  unfold State.lookup
  dsimp only
  split
  · split
    · split <;> exact ⟨rfl, rfl⟩
    · exact ⟨rfl, rfl⟩
  · split
    · exact s.touchWalk_sameActors ctx va
    · exact s.touchWalk_sameActors ctx va

theorem State.fetch_sameActors (s : State) (core ctx : Nat) (pc : Addr) : s.SameActors (s.fetch core ctx pc).1 := by
  have hlookup := s.lookup_sameActors core ctx pc.toNat false false true
  unfold State.fetch
  split
  next s1 pa tr heq =>
    rw [heq] at hlookup
    obtain ⟨hthreads, hteams⟩ := hlookup
    obtain ⟨kthreads, kteams⟩ := s1.sliceTouch_sameActors pa (s.wayGroup ctx) 0
    exact ⟨kthreads.trans hthreads, kteams.trans hteams⟩
  next heq =>
    rw [heq] at hlookup
    exact hlookup

-- ---------------------------------------------------------------- the turn of a thread and of a slice

theorem State.runThread_goes (s : State) (id : ThreadId) : s.Goes (s.runThread id) := by
  unfold State.runThread
  split
  · exact .stay
  next t ht =>
  refine .ite .stay (.ite (.next (s.setWaiting_keeps _ _)) ?_)
  have hkeeps := s.fetch_keeps (s.coreOf id) id.ctx t.pc
  have hsame := s.fetch_sameActors (s.coreOf id) id.ctx t.pc
  split
  next s1 cls hf =>
    rw [hf] at hkeeps
    exact .next (.after (s1.raiseTrap_mild _ _ _ _ _ _).keeps hkeeps)
  next s1 w hf =>
    rw [hf] at hkeeps hsame
    obtain ⟨hthreads, -⟩ := hsame
    extract_lets s2
    have hs2 : s.Keeps s2 := hkeeps.trans (.inert rfl)
    split
    · exact .next (.after (s2.raiseTrap_mild _ _ _ _ _ _).keeps hs2)
    next i _ =>
      have hthere : s2.ActorThere := by
        show (s1.thread? id).isSome = true
        rw [State.thread?, hthreads, ← State.thread?, ht]
        rfl
      exact .after (exec_goes hthere i) hs2

theorem State.runSlice_goes (s : State) (id : TeamId) : s.Goes (s.runSlice id) := by
  unfold State.runSlice
  split
  · exact .stay
  next tm htm =>
  split
  · exact .stay
  next sl hsl =>
  refine .ite .stay ?_
  have hkeeps := s.fetch_keeps tm.core id.ctx sl.apc
  have hsame := s.fetch_sameActors tm.core id.ctx sl.apc
  split
  next s1 cls hf =>
    rw [hf] at hkeeps
    exact .next (.after (s1.stopSlice_keeps _ _ _ _) hkeeps)
  next s1 w hf =>
    rw [hf] at hkeeps hsame
    obtain ⟨-, hteams⟩ := hsame
    extract_lets s2
    have hs2 : s.Keeps s2 := hkeeps.trans (.inert rfl)
    split
    · exact .next (.after (s2.stopSlice_keeps _ _ _ _) hs2)
    next i _ =>
      have hthere : s2.ActorThere := by
        refine ⟨tm, sl, ?_, hsl⟩
        show s1.team? id = some tm
        rw [State.team?, hteams, ← State.team?, htm]
      exact .after (exec_goes hthere i) hs2

-- ---------------------------------------------------------------- events

theorem State.within_keeps (s : State) {i : Instr} (hi : i.isEvent = true) (args : List Nat) : s.Keeps (s.within i args) := by
  obtain ⟨s1, hs1, hkeeps⟩ := event_goes { s with pick := args, cur := .none } hi
  unfold State.within
  rw [hs1]
  have hnamed : s.Keeps { s with pick := args, cur := .none } := .inert rfl
  have hback : s1.Keeps { s1 with pick := s.pick, cur := s.cur } := .inert rfl
  exact (hnamed.trans hkeeps).trans hback

end Machine
end Sys2Proof
end
section
/-! PROOFS. O51: the turns, and the step. No turn stops, and none leaves a memory out of its canonical form. -/

namespace Sys2Proof
namespace Machine

-- ---------------------------------------------------------------- the issues of a cycle

theorem State.waits?_keeps {s s1 : State} {id : ThreadId} (h : s.waits? id = some s1) : s.Keeps s1 := by
  obtain ⟨s2, hs2, hkeeps⟩ := s.runThread_goes id
  unfold State.waits? at h
  rw [hs2] at h
  dsimp only at h
  split at h
  next x hx =>
    split at h
    · obtain rfl := Option.some.inj h
      exact hkeeps.trans (.inert rfl)
    · cases h
  · cases h

theorem State.settleThread_keeps (s : State) (id : ThreadId) : s.Keeps (s.settleThread id) := by
  unfold State.settleThread
  split
  · exact .rfl
  refine .ite .rfl ?_
  split
  next s1 hwaits => exact State.waits?_keeps hwaits
  · exact .ite .rfl (s.updThread_keeps _ _)

theorem State.settleDie_keeps (s : State) (die : Nat) : s.Keeps (s.settleDie die) := .foldl fun s _ => s.settleThread_keeps _

theorem State.deal_keeps (s : State) (die : Nat) : s.Keeps (s.deal die) := by
  unfold State.deal
  extract_lets s1 parts s2 s3
  have hs2 : s1.Keeps s2 := .foldl fun s p => .ite (s.reformPart_keeps _ _) (s.joinPart_keeps _ _)
  have hs3 : s2.Keeps s3 := .foldl fun s p => (s.pickThreads_keeps p).trans (State.pickSlice_keeps _ p)
  exact .ite .rfl ((((s.settleDie_keeps die).trans hs2).trans hs3).trans (.inert rfl))

theorem State.granted_keeps {s s1 : State} {a : Actor} (h : s.granted a = some s1) : s.Keeps s1 := by
  unfold State.granted at h
  split at h
  · cases h
  dsimp only at h
  split at h
  · cases h
  · obtain rfl := Option.some.inj h
    exact .inert rfl

-- ---------------------------------------------------------------- the end of a cycle

theorem State.finishDue_keeps (s : State) (tm : Team) : s.Keeps (s.finishDue tm) :=
  .foldl fun s _ => .ite (s.within_keeps rfl _) (s.within_keeps rfl _)

theorem State.writeDue_keeps (s : State) (die : Nat) : s.Keeps (s.writeDue die) := by
  unfold State.writeDue
  extract_lets s1 due
  have hs1 : s.Keeps s1 := .foldl fun s tm => s.finishDue_keeps tm
  exact .after (.foldl fun s _ => (s.within_keeps rfl _).trans (State.within_keeps _ rfl _)) hs1

theorem State.endCycle_keeps (s : State) (die : Nat) : s.Keeps (s.endCycle die) := by
  unfold State.endCycle
  extract_lets s1 mine each
  have hs1 : s.Keeps s1 := (s.freeWaiters_keeps die).trans (State.reapTeams_keeps _)
  have heach (s : State) (t : TeamId) : s.Keeps (each s t) :=
    ((s.within_keeps rfl _).trans (State.within_keeps _ rfl _)).trans (State.within_keeps _ rfl _)
  exact hs1.trans (.foldl heach)

theorem State.cycleTurn_keeps (s : State) (die : Nat) : s.Keeps (s.cycleTurn die) :=
  (((s.endCycle_keeps die).trans (State.tick_keeps _ die)).trans (State.performErets_keeps _ die)).trans (State.writeDue_keeps _ die)

-- ---------------------------------------------------------------- turns

theorem State.readied_keeps (s : State) (i : Instr) (args : List Nat) : s.Keeps (s.readied i args) := by
  unfold State.readied
  split
  · exact s.deal_keeps _
  · exact s.deal_keeps _
  · exact s.deal_keeps _
  · exact s.deal_keeps _
  · exact s.deal_keeps _
  · exact s.settleDie_keeps _
  · exact .rfl

theorem State.eventTurn_goes (s : State) (i : Instr) (args : List Nat) : s.Goes (s.eventTurn i args) := by
  unfold State.eventTurn
  split
  · exact .stay
  next h =>
    have hevent : i.isEvent = true := by simpa using (not_or.1 h).1
    have hs1 := s.readied_keeps i args
    exact .ite (.next hs1) (.after (event_goes _ hevent) (hs1.trans (.inert rfl)))

theorem State.threadTurn_goes (s : State) (id : ThreadId) : s.Goes (s.threadTurn id) := by
  have hdeal := s.deal_keeps (dieOf (s.coreOf id))
  unfold State.threadTurn
  dsimp only
  split
  next s2 h => exact .after (s2.runThread_goes id) (hdeal.trans (State.granted_keeps h))
  · exact .next hdeal

theorem State.sliceTurn_goes (s : State) (id : TeamId) : s.Goes (s.sliceTurn id) := by
  have hdeal := s.deal_keeps (dieOf (s.coreOf ⟨id.ctx, id.grid, id.team, 0⟩))
  unfold State.sliceTurn
  dsimp only
  split
  next s2 h => exact .after (s2.runSlice_goes id) (hdeal.trans (State.granted_keeps h))
  · exact .next hdeal

theorem State.clockTurn_goes (s : State) (die : Nat) : s.Goes (s.clockTurn die) := by
  have hdeal := s.deal_keeps die
  unfold State.clockTurn
  extract_lets s1
  split
  · exact .next (hdeal.trans (s1.cycleTurn_keeps die))
  next p _ =>
    extract_lets s2
    have hs2 : s.Keeps s2 := hdeal.trans (.inert rfl)
    split
    · exact .after (s2.runThread_goes _) hs2
    · exact .after (s2.runSlice_goes _) hs2
    · exact .next hs2

theorem State.take_goes (s : State) (t : Turn) : s.Goes (s.take t) := by
  cases t with
  | event i args => exact s.eventTurn_goes i args
  | thread id => exact s.threadTurn_goes id
  | slice id => exact s.sliceTurn_goes id
  | cycle die => exact s.clockTurn_goes die

-- ---------------------------------------------------------------- a device left to itself, and the step

theorem State.changes_keeps {s s1 : State} {t : Turn} (h : s.changes t = some s1) : s.Keeps s1 := by
  obtain ⟨s2, hs2, hkeeps⟩ := s.take_goes t
  unfold State.changes at h
  rw [hs2] at h
  dsimp only at h
  split at h
  · cases h
  · obtain rfl := Option.some.inj h
    exact hkeeps.trans (.inert rfl)

theorem State.plan_keeps (s : State) : s.Keeps s.plan := ((s.deal_keeps 0).trans (State.deal_keeps _ 1)).trans (.inert rfl)

theorem State.auto_keeps (s : State) : s.Keeps s.auto := by
  unfold State.auto
  split
  next h =>
    obtain ⟨t, -, ht⟩ := List.exists_of_findSome?_eq_some h
    exact State.changes_keeps ht
  · exact s.plan_keeps

theorem step_goes (s : State) : s.Goes (step s) := by
  unfold step
  split
  next t rest _ => exact .after (State.take_goes _ t) (.inert rfl)
  · exact .next s.auto_keeps

/-- Settles O51: every turn goes, an event from any state and a word where who acts is there, as the fetch of a word leaves it. -/
theorem noStepStops : Obligations.NoStepStops := by
  intro s
  obtain ⟨t, ht, hkeeps⟩ := step_goes s
  refine ⟨⟨t, ht⟩, fun hwf t' ht' => ?_⟩
  obtain rfl : t = t' := by simpa [ht] using ht'
  exact hkeeps.wf hwf

end Machine
end Sys2Proof
end
